-- ==== Sys2Proof/Word.lean ====
section
/-! DEFINITION. The word types and the unit numbers of the TX8 (R6, R11, R3). -/

namespace Sys2Proof

/-- A byte (R6). -/
abbrev Byte := BitVec 8
/-- A 32-bit word: a spoke register, a status register, a mailbox register. -/
abbrev Word32 := BitVec 32
/-- An aligned 64-bit memory word, the unit of ECC and poison (R204, R216). -/
abbrev Word64 := BitVec 64

/-- Compute die site 0-7 (R11). -/
abbrev DieId := Fin 8
/-- Lightplane die LP0-LP3 (R11). -/
abbrev LpId := Fin 4
/-- Package array number 2,048 x die + array (R90). -/
abbrev ArrayId := Fin 16384
/-- Package spoke number 256 x die + spoke (Table 14.9). -/
abbrev SpokeId := Fin 2048
/-- Package router number 256 x die + 8r + c (Table 14.9). -/
abbrev RouterId := Fin 2048
/-- Vault stream 0-3 of an array (R126). -/
abbrev StreamId := Fin 4
/-- Package channel number 32 x die + 8e + c (R237, Table 14.9). -/
abbrev ChanId := Fin 256
/-- Chaxel link number, in the order of Table 1.2 (R277). -/
abbrev LinkId := Fin 18
/-- Link end 2 x LINK + end, end 0 at the lower site (Table 14.9). -/
abbrev EndId := Fin 36
/-- Group index of a link direction (Table 9.1). -/
abbrev GroupId := Fin 290
/-- Fibre 8k + j (R279). -/
abbrev FibreId := Fin 32
/-- Wavelength 0-15 (R280). -/
abbrev WaveId := Fin 16
/-- Ring group of circuit wavelength w, numbered w - 2 (R288). -/
abbrev CircuitWave := Fin 14
/-- Ring 0-843 of a lightplane die (R298). -/
abbrev RingId := Fin 844
/-- Laser input 0-7 (R304). -/
abbrev LaserId := Fin 8
/-- Cube port C0-C23 (Table 10.1). -/
abbrev CubePort := Fin 24
/-- Mailbox MB0-MB31 (R397). -/
abbrev MbId := Fin 32
/-- Who sent a hub command: mailbox 0-31, or 32 + q for what is relayed through cube port q (R401). -/
abbrev SenderId := Fin 56
/-- Rail index 0-25 (Table 15.1). -/
abbrev RailId := Fin 26
/-- Rail sequence group 1-11, numbered group - 1 (Table 15.1). -/
abbrev RailGroup := Fin 11
/-- Transit crossing 0-11, in the order of Table 4.18. -/
abbrev CrossingId := Fin 12
/-- Collective tag slot (R377). -/
abbrev SlotId := Fin 4096
/-- Servant counter identifier less 0x100 (Table 4.10). -/
abbrev ServantCounterId := Fin 128
/-- Stack block instance: HBM4 0-15, capacity 16-31 (Table 14.9). -/
abbrev StackId := Fin 32
/-- Sensor instance (Table 16.1). -/
abbrev SensorId := Fin 232

end Sys2Proof
end

