-- ==== Sys2Proof/Syntax.lean ====
section
/-! DEFINITION. The commands of the block: one constructor of `Instr` per row of spec/opcode_table.json, with the row's
operands. The table gives no row any bits. Operands that are readings or arrivals (a sensor value, a received block, a
phase drift) are what the outside presents; everything else a step needs stands in the state. -/

namespace Sys2Proof

/-- The unit a wait belongs to (R39, R191). -/
inductive WaitUnit where
  | array (g : ArrayId)
  | spoke (p : SpokeId)
  deriving DecidableEq, Repr

/-- Router ports of Table 4.15. -/
inductive PortName where
  | n | s | e | w | l | v | x | p0 | p1 | p2 | p3
  deriving DecidableEq, Repr

/-- A 512-bit chainline flit with its servant tag (R139) and one poison flag per word (R216). -/
structure Flit where
  data   : BitVec 512
  tag    : BitVec 24
  poison : Byte
  deriving DecidableEq, Repr

/-- What an HBM4 stack reports for one block access (R228). -/
inductive AccessReport where
  | clean | corrected | uncorrectable | interfaceError
  deriving DecidableEq, Repr

/-- The widest trim window that passes at a position received by the named end, where it is not the whole of the 64 steps: its first step
and its width (R267 step 2). -/
structure TrimSweep where
  atEnd    : Fin 2
  group    : GroupId
  position : Fin 44
  first    : Fin 64
  width    : Nat
  deriving DecidableEq, Repr

/-- A bit of a lane test as the named end receives it: the number of the bit in the test, and its value (R268). -/
structure LaneSample where
  atEnd    : Fin 2
  group    : GroupId
  position : Fin 44
  index    : Nat
  value    : Bool
  deriving DecidableEq, Repr

/-- The words that an end of a link sends in one copy: the capability word, the identity word and its fused repair entries for that
link (R267 step 1). -/
structure TrainingWords where
  cap      : Word64 := 0
  identity : Word64 := 0
  fused    : List Word32 := []
  deriving DecidableEq, Repr

/-- What the two ends of a link find in training (R267-R272). -/
structure TrainingReport where
  /-- the bits that are wrong in each copy in turn, where the low and the high end receive it -/
  lowCopies  : List TrainingWords
  highCopies : List TrainingWords
  sweeps     : List TrimSweep
  /-- bits of the lane test, those not listed being right, and of the second test with the repairs in place (R267 step 4) -/
  samples    : List LaneSample
  retest     : List LaneSample
  /-- half-beats before retiming, 1 to 3 (0 to 2 here stand for them), at the ends whose depth alignment does not set (R256) -/
  lowDelay   : Fin 3
  highDelay  : Fin 3
  deriving DecidableEq, Repr

/-- What arrives at a receiver in one slot of a steered input (R297): when light was detected, in 1/128 ns from the local start of the slot, and
the bits received since, the first most significant. -/
structure BurstReport where
  start : Int
  count : Nat
  bits  : Nat
  deriving DecidableEq, Repr

/-- Where a packet waits before a router serves it (R333). -/
inductive FabricInput where
  | fifo (f : FibreId) (w : WaveId)
  | transit (src : LpId)
  | injected
  deriving DecidableEq, Repr

/-- The domains of `RESET_DOMAIN` (Table 15.6). -/
inductive ResetDomain where
  | vault (d : DieId)
  | stk (t : Fin 16)
  | cap (t : Fin 16)
  | fab (k : LpId)
  | ptx (f : FibreId)
  | prx (f : FibreId)
  | cad
  | sense
  deriving DecidableEq, Repr

/-- What the sideband carries: the start of a write transfer, a byte, and the stop condition (R482). -/
inductive SidebandPart where
  | start
  | byte
  | stop
  deriving DecidableEq, Repr

/-- A register by its place: a mailbox register (Table 14.2), a register of a block class (Table 14.9), or the register of MB31 that a
byte of a sideband transfer reaches (R482). -/
inductive RegName where
  | mailbox (m : MbId) (off : Nat)
  | block (cls inst off : Nat)
  | sideband (part : SidebandPart)
  deriving DecidableEq, Repr

/-- What boundary scan does: an instruction is loaded, the selected data register captures (from the pins, in the order of the boundary
register), shifts one bit or updates, or `TRST_N` moves (R483, IEEE 1149.1). -/
inductive TapEvent where
  | instruction (ir : BitVec 5)
  | capture (pins : List Bool)
  | shift (tdi : Bool)
  | update
  | trst (low : Bool)
  deriving DecidableEq, Repr

/-- One rail's `READ_VOUT` (mV) and `READ_IOUT` (0.1 A) (R461, Table 15.7), unless its regulator did not acknowledge or reported a
`STATUS_WORD` fault bit (R422). -/
structure Reading where
  mv  : BitVec 16
  da  : BitVec 16
  failed : Bool := false
  deriving DecidableEq, Repr

/-- What the truing steps find outside the state: REFCLK, whether `STRAP0` has risen in kickstand (R480), the trained rate of each stack
(0: training failed) and the final checks (R432, R481). -/
structure TruingReport where
  refclkKHz : Nat
  strap0High : Bool := false
  /-- the step, 2 to 8, that fails, and its cause byte (Table 15.8) -/
  failStep  : Option (Nat × Byte)
  stackRate : List Nat
  deriving DecidableEq, Repr

/-- The commands (spec/opcode_table.json). -/
inductive Instr where
  /-- `NOP` (R123). -/
  | nop (g : ArrayId)
  /-- `PASS` (R111). -/
  | pass (g : ArrayId)
  /-- `PASS_BEAT_ISSUE` (R79). -/
  | passBeatIssue (g : ArrayId)
  /-- `PASS_BROADCAST` (R129). -/
  | passBroadcast (g : ArrayId)
  /-- `ACCUMULATOR_WRITE` (R80). -/
  | accumulatorWrite (g : ArrayId)
  /-- `STREAM` (R126). -/
  | stream (g : ArrayId)
  /-- `STREAM_FETCH` (R127). -/
  | streamFetch (g : ArrayId) (i : StreamId)
  /-- `STREAM_LINE_ARRIVAL` (R206). -/
  | streamLineArrival (g : ArrayId) (i : StreamId)
  /-- `ZERO` (R114). -/
  | zero (g : ArrayId)
  /-- `LOADACC` (R114). -/
  | loadacc (g : ArrayId)
  /-- `DRAIN` (R83). -/
  | drain (g : ArrayId)
  /-- `DRAIN_OUTPUT_WRITE` (R131). -/
  | drainOutputWrite (g : ArrayId)
  /-- `LOOP` (R117). -/
  | loop (g : ArrayId)
  /-- `ENDLOOP` (R117). -/
  | endloop (g : ArrayId)
  /-- `WAIT` (R39). -/
  | wait (g : ArrayId)
  /-- `WAIT_RELEASE` (R40). -/
  | waitRelease (u : WaitUnit)
  /-- `WAIT_TIMEOUT` (R44). -/
  | waitTimeout (u : WaitUnit)
  /-- `WAIT_ABORTED` (R45). -/
  | waitAborted (u : WaitUnit)
  /-- `SIGNAL` (R120). -/
  | signal (g : ArrayId)
  /-- `DUMMY` (R123). -/
  | dummy (g : ArrayId)
  /-- `FREEWHEEL` (R124). -/
  | freewheel (g : ArrayId)
  /-- `FREEWHEEL_WAKE` (R95). -/
  | freewheelWake (g : ArrayId)
  /-- `PARK` (R124). -/
  | park (g : ArrayId)
  /-- `PARK_POWER_GATE` (R124). -/
  | parkPowerGate (g : ArrayId)
  /-- `UNPARK` (R96). -/
  | unpark (g : ArrayId)
  /-- `UNPARK_RAMP_START` (R97). -/
  | unparkRampStart (d : DieId)
  /-- `UNPARK_COMPLETE` (R96). -/
  | unparkComplete (g : ArrayId)
  /-- `END` (R125). -/
  | endWord (g : ArrayId)
  /-- `END_CLOCK_GATE` (R125). -/
  | endClockGate (g : ArrayId)
  /-- `HOLD_SHAPER_DECAY` (R98). -/
  | holdShaperDecay (g : ArrayId)
  /-- `RELEASE_NOTICE_RAMP` (R98). -/
  | releaseNoticeRamp (g : ArrayId)
  /-- `PROGRAM_FAULT` (R46). -/
  | programFault
  /-- `FAULT_HOLD_CLEAR` (R46). -/
  | faultHoldClear
  /-- `HOLD_DEMAND_ARRIVAL` (R38). -/
  | holdDemandArrival
  /-- `BRAKE_APPLY` (R50). -/
  | brakeApply
  /-- `SERVANT_COUNTER_CROSSING` (R42). -/
  | servantCounterCrossing (d : DieId) (i : ServantCounterId)
  /-- `CHAINLINE_SLOT` (R136). -/
  | chainlineSlot (r : RouterId)
  /-- `CHAXEL_FLIT_PRESENT` (R260). -/
  | chaxelFlitPresent (r : RouterId) (q : PortName)
  /-- `LIGHTPLANE_FIFO_INBOUND` (R137). -/
  | lightplaneFifoInbound (r : RouterId) (q : PortName) (flit : Flit)
  /-- `SERVANT_CHAINLINE_REQUEST` (R139). -/
  | servantChainlineRequest (r : RouterId)
  /-- `TRANSIT_MOVE` (R142). -/
  | transitMove (x : CrossingId) (dir : Bool)
  /-- `TRANSIT_FLIT_ARRIVAL` (R144). -/
  | transitFlitArrival (x : CrossingId) (dir : Bool) (flit : Flit)
  /-- `TRANSIT_CREDIT_RETURN` (R144). -/
  | transitCreditReturn (x : CrossingId) (dir : Bool)
  /-- `DTRIG_OPEN` (R148). -/
  | dtrigOpen (p : SpokeId)
  /-- `DTRIG_DISPATCH` (R148). -/
  | dtrigDispatch (p : SpokeId)
  /-- `DTRIG_VOID` (R161). -/
  | dtrigVoid (p : SpokeId)
  /-- `DTRIG_COMBINE` (R166). -/
  | dtrigCombine (p : SpokeId)
  /-- `DERAILLEUR_PHASE_START` (R148). -/
  | derailleurPhaseStart (d : DieId)
  /-- `ROUTE_LANDING` (R152). -/
  | routeLanding (p : SpokeId)
  /-- `ASSIGNMENT` (R156). -/
  | assignment (d : DieId)
  /-- `DISPATCH_SWEEP` (R159). -/
  | dispatchSweep (d : DieId) (out : Bool) (line : Nat)
  /-- `FILL_SWEEP` (R160). -/
  | fillSweep (d : DieId)
  /-- `VOID_ARMING` (R161). -/
  | voidArming (d : DieId)
  /-- `VOID_WINDOW_START` (R163). -/
  | voidWindowStart (g : ArrayId)
  /-- `COMBINE_SWEEP` (R166). -/
  | combineSweep (d : DieId) (out : Bool) (line : Nat)
  /-- `TASK_RUN_START` (R188). -/
  | taskRunStart (p : SpokeId)
  /-- `RUN_COMPLETE` (R188). -/
  | runComplete (p : SpokeId)
  /-- `BUDGET_OVERRUN` (R189). -/
  | budgetOverrun (p : SpokeId)
  /-- `UNTIL_RELEASE` (R190). -/
  | untilRelease (p : SpokeId)
  /-- `ADD` (R181). -/
  | add (p : SpokeId)
  /-- `SUB` (R181). -/
  | sub (p : SpokeId)
  /-- `AND` (R181). -/
  | and (p : SpokeId)
  /-- `OR` (R181). -/
  | or (p : SpokeId)
  /-- `XOR` (R181). -/
  | xor (p : SpokeId)
  /-- `SLL` (R181). -/
  | sll (p : SpokeId)
  /-- `SRL` (R181). -/
  | srl (p : SpokeId)
  /-- `SRA` (R181). -/
  | sra (p : SpokeId)
  /-- `SLT` (R181). -/
  | slt (p : SpokeId)
  /-- `SLTU` (R181). -/
  | sltu (p : SpokeId)
  /-- `MIN` (R181). -/
  | min (p : SpokeId)
  /-- `MAX` (R181). -/
  | max (p : SpokeId)
  /-- `MUL` (R181). -/
  | mul (p : SpokeId)
  /-- `MULH` (R181). -/
  | mulh (p : SpokeId)
  /-- `DIV` (R181). -/
  | div (p : SpokeId)
  /-- `DIVU` (R181). -/
  | divu (p : SpokeId)
  /-- `REM` (R181). -/
  | rem (p : SpokeId)
  /-- `REMU` (R181). -/
  | remu (p : SpokeId)
  /-- `ADDI` (R181). -/
  | addi (p : SpokeId)
  /-- `ANDI` (R181). -/
  | andi (p : SpokeId)
  /-- `ORI` (R181). -/
  | ori (p : SpokeId)
  /-- `XORI` (R181). -/
  | xori (p : SpokeId)
  /-- `SLTI` (R181). -/
  | slti (p : SpokeId)
  /-- `LUI` (R181). -/
  | lui (p : SpokeId)
  /-- `SHI` (R181). -/
  | shi (p : SpokeId)
  /-- `LW` (R177). -/
  | lw (p : SpokeId)
  /-- `LH` (R177). -/
  | lh (p : SpokeId)
  /-- `LHU` (R177). -/
  | lhu (p : SpokeId)
  /-- `LB` (R177). -/
  | lb (p : SpokeId)
  /-- `LBU` (R177). -/
  | lbu (p : SpokeId)
  /-- `SW` (R177). -/
  | sw (p : SpokeId)
  /-- `SH` (R177). -/
  | sh (p : SpokeId)
  /-- `SB` (R177). -/
  | sb (p : SpokeId)
  /-- `VLD` (R177). -/
  | vld (p : SpokeId)
  /-- `VST` (R177). -/
  | vst (p : SpokeId)
  /-- `SPOKE_STORE_WRITE` (R177). -/
  | spokeStoreWrite (p : SpokeId)
  /-- `BEQ` (R181). -/
  | beq (p : SpokeId)
  /-- `BNE` (R181). -/
  | bne (p : SpokeId)
  /-- `BLT` (R181). -/
  | blt (p : SpokeId)
  /-- `BGE` (R181). -/
  | bge (p : SpokeId)
  /-- `BLTU` (R181). -/
  | bltu (p : SpokeId)
  /-- `BGEU` (R181). -/
  | bgeu (p : SpokeId)
  /-- `JAL` (R181). -/
  | jal (p : SpokeId)
  /-- `JALR` (R181). -/
  | jalr (p : SpokeId)
  /-- `VFADD` (R182). -/
  | vfadd (p : SpokeId)
  /-- `VFSUB` (R182). -/
  | vfsub (p : SpokeId)
  /-- `VFMUL` (R182). -/
  | vfmul (p : SpokeId)
  /-- `VFMA` (R182). -/
  | vfma (p : SpokeId)
  /-- `VFNMA` (R182). -/
  | vfnma (p : SpokeId)
  /-- `VFMIN` (R182). -/
  | vfmin (p : SpokeId)
  /-- `VFMAX` (R182). -/
  | vfmax (p : SpokeId)
  /-- `VFABS` (R182). -/
  | vfabs (p : SpokeId)
  /-- `VFNEG` (R182). -/
  | vfneg (p : SpokeId)
  /-- `VFSCALE` (R182). -/
  | vfscale (p : SpokeId)
  /-- `VFEXP` (R182). -/
  | vfexp (p : SpokeId)
  /-- `VBFADD` (R182). -/
  | vbfadd (p : SpokeId)
  /-- `VBFMUL` (R182). -/
  | vbfmul (p : SpokeId)
  /-- `VBFMA` (R182). -/
  | vbfma (p : SpokeId)
  /-- `VADD` (R181). -/
  | vadd (p : SpokeId)
  /-- `VSUB` (R181). -/
  | vsub (p : SpokeId)
  /-- `VAND` (R181). -/
  | vand (p : SpokeId)
  /-- `VOR` (R181). -/
  | vor (p : SpokeId)
  /-- `VXOR` (R181). -/
  | vxor (p : SpokeId)
  /-- `VSHL` (R181). -/
  | vshl (p : SpokeId)
  /-- `VSHR` (R181). -/
  | vshr (p : SpokeId)
  /-- `VSRA` (R181). -/
  | vsra (p : SpokeId)
  /-- `VMULL` (R181). -/
  | vmull (p : SpokeId)
  /-- `VMIN` (R181). -/
  | vmin (p : SpokeId)
  /-- `VMAX` (R181). -/
  | vmax (p : SpokeId)
  /-- `VSEL` (R181). -/
  | vsel (p : SpokeId)
  /-- `VSLIDE` (R181). -/
  | vslide (p : SpokeId)
  /-- `VFEQ` (R181). -/
  | vfeq (p : SpokeId)
  /-- `VFLT` (R181). -/
  | vflt (p : SpokeId)
  /-- `VFLE` (R181). -/
  | vfle (p : SpokeId)
  /-- `VIEQ` (R181). -/
  | vieq (p : SpokeId)
  /-- `VILT` (R181). -/
  | vilt (p : SpokeId)
  /-- `VILTU` (R181). -/
  | viltu (p : SpokeId)
  /-- `VEXP2` (R185). -/
  | vexp2 (p : SpokeId)
  /-- `VLOG2` (R185). -/
  | vlog2 (p : SpokeId)
  /-- `VRSQRT` (R185). -/
  | vrsqrt (p : SpokeId)
  /-- `VRCP` (R185). -/
  | vrcp (p : SpokeId)
  /-- `VTANH` (R185). -/
  | vtanh (p : SpokeId)
  /-- `VFRSUM` (R183). -/
  | vfrsum (p : SpokeId)
  /-- `VFRMAX` (R183). -/
  | vfrmax (p : SpokeId)
  /-- `VFRMIN` (R183). -/
  | vfrmin (p : SpokeId)
  /-- `VIRSUM` (R183). -/
  | virsum (p : SpokeId)
  /-- `VSORT` (R184). -/
  | vsort (p : SpokeId)
  /-- `VMRG` (R184). -/
  | vmrg (p : SpokeId)
  /-- `VFKEY` (R184). -/
  | vfkey (p : SpokeId)
  /-- `VIOTA` (R181). -/
  | viota (p : SpokeId)
  /-- `VCVTF8` (R181). -/
  | vcvtf8 (p : SpokeId)
  /-- `VCVTBF` (R181). -/
  | vcvtbf (p : SpokeId)
  /-- `VCVTBL` (R181). -/
  | vcvtbl (p : SpokeId)
  /-- `VWID8` (R181). -/
  | vwid8 (p : SpokeId)
  /-- `VWIDB` (R181). -/
  | vwidb (p : SpokeId)
  /-- `VF2I` (R181). -/
  | vf2i (p : SpokeId)
  /-- `VI2F` (R181). -/
  | vi2f (p : SpokeId)
  /-- `VSPLAT` (R181). -/
  | vsplat (p : SpokeId)
  /-- `VINS` (R181). -/
  | vins (p : SpokeId)
  /-- `VMOVX` (R181). -/
  | vmovx (p : SpokeId)
  /-- `PAND` (R181). -/
  | pand (p : SpokeId)
  /-- `POR` (R181). -/
  | por (p : SpokeId)
  /-- `PNOT` (R181). -/
  | pnot (p : SpokeId)
  /-- `PSET` (R181). -/
  | pset (p : SpokeId)
  /-- `PGET` (R181). -/
  | pget (p : SpokeId)
  /-- `SPOKE_NOP` (R181). -/
  | spokeNop (p : SpokeId)
  /-- `TEND` (R188). -/
  | tend (p : SpokeId)
  /-- `UNTIL` (R190). -/
  | untilTask (p : SpokeId)
  /-- `CSRR` (R200). -/
  | csrr (p : SpokeId)
  /-- `CSRW` (R200). -/
  | csrw (p : SpokeId)
  /-- `SPOKE_WAIT` (R191). -/
  | spokeWait (p : SpokeId)
  /-- `SPOKE_SIGNAL` (R191). -/
  | spokeSignal (p : SpokeId)
  /-- `RDCNT` (R191). -/
  | rdcnt (p : SpokeId)
  /-- `RWR` (R193). -/
  | rwr (p : SpokeId)
  /-- `QPUSH` (R195). -/
  | qpush (p : SpokeId)
  /-- `QPOP` (R195). -/
  | qpop (p : SpokeId)
  /-- `CEPOST` (R197). -/
  | cepost (p : SpokeId)
  /-- `CLPOST` (R198). -/
  | clpost (p : SpokeId)
  /-- `REFRESH_OP` (R210). -/
  | refreshOp (g : ArrayId)
  /-- `VAULT_SERVANT_ACCESS` (R211). -/
  | vaultServantAccess (g : ArrayId)
  /-- `SCRUB_READ` (R215). -/
  | scrubRead (g : ArrayId)
  /-- `SCRUB_WRITEBACK` (R215). -/
  | scrubWriteback (g : ArrayId)
  /-- `STACK_ACCESS` (R225). -/
  | stackAccess (t : Fin 16) (rep : AccessReport)
  /-- `CAP_TURN` (R229). -/
  | capTurn (t : Fin 16)
  /-- `CAP_FLIT_RECEIVE` (R229). -/
  | capFlitReceive (t : Fin 16) (err : BitVec 272)
  /-- `DESCRIPTOR_FETCH` (R240). -/
  | descriptorFetch (c : ChanId)
  /-- `COPY_ACCESS_RESPONSE` (R242). -/
  | copyAccessResponse (c : ChanId) (n : Nat)
  /-- `COPY_ACCESS_TIMEOUT` (R244). -/
  | copyAccessTimeout (c : ChanId) (n : Nat)
  /-- `DESCRIPTOR_COMPLETE` (R246). -/
  | descriptorComplete (c : ChanId)
  /-- `CHANNEL_STOP` (R250). -/
  | channelStop (c : ChanId)
  /-- `CHAXEL_GROUP_RECEIVE` (R258). -/
  | chaxelGroupReceive (e : EndId) (grp : GroupId) (err : BitVec 256) (crcErr : Byte)
  /-- `REPLAY_REQUEST` (R262). -/
  | replayRequest (e : EndId) (err : BitVec 12)
  /-- `REPLAY_CHECK` (R263). -/
  | replayCheck (e : EndId) (err : Word64) (crcErr : Byte)
  /-- `CHX_PHASE` (R256). -/
  | chxPhase (e : EndId) (drift : Int)
  /-- `HOLD_WORD_RECEIVE` (R265). -/
  | holdWordReceive (e : EndId) (x0 : BitVec 24) (x1 : BitVec 24) (x2 : BitVec 24)
  /-- `LINK_TRAINING` (R267). -/
  | linkTraining (l : LinkId) (rep : TrainingReport)
  /-- `ALIGNMENT_MARK` (R272). -/
  | alignmentMark (l : LinkId) (delays : List Nat)
  /-- `BEAT_ZERO` (R48). -/
  | beatZero
  /-- `FRAME_RECEIVE` (R286). -/
  | frameReceive (f : FibreId) (w : WaveId) (marker : BitVec 16) (sequence : Byte) (payload : BitVec 1000)
  /-- `CODEWORD_DECODE` (R287). -/
  | codewordDecode (f : FibreId) (w : WaveId)
  /-- `STEERING_SLOT_START` (R292). -/
  | steeringSlotStart (k : LpId) (w : CircuitWave) (slot : Nat)
  /-- `BURST_RECEIVE` (R297). -/
  | burstReceive (f : FibreId) (w : WaveId) (rep : BurstReport)
  /-- `TRUING_WINDOW` (R300). -/
  | truingWindow (k : LpId) (ring : RingId) (lit : Nat) (sum : Int) (cnt : Int)
  /-- `RING_FAULT` (R298). -/
  | ringFault (k : LpId) (ring : RingId)
  /-- `LASER_REQUEST` (R305). -/
  | laserRequest (n : LaserId)
  /-- `LASER_OK_RISE` (R305). -/
  | laserOkRise (n : LaserId)
  /-- `LASER_OK_FALL` (R305). -/
  | laserOkFall (n : LaserId)
  /-- `LASER_FAULT` (R305). -/
  | laserFault (n : LaserId)
  /-- `INTERLOCK_LOW` (R306). -/
  | interlockLow
  /-- `INTERLOCK_HIGH` (R305). -/
  | interlockHigh
  /-- `PORT_BRING_UP` (R307). -/
  | portBringUp (f : FibreId) (ok : Bool)
  /-- `PORT_UP` (R307). -/
  | portUp (f : FibreId)
  /-- `PORT_DOWN` (R309). -/
  | portDown (f : FibreId)
  /-- `BLOCK_RECEIVE` (R313). -/
  | blockReceive (f : FibreId) (w : WaveId) (block : BitVec 257)
  /-- `CREDIT_RETURN` (R315). -/
  | creditReturn (f : FibreId) (w : WaveId) (block : BitVec 257)
  /-- `CUT` (R335). -/
  | cut (f : FibreId) (w : WaveId)
  /-- `PACKET_FORWARD` (R320). -/
  | packetForward (k : LpId) (inp : FabricInput)
  /-- `PACKET_INJECT` (R332). -/
  | packetInject (k : LpId) (cls : Fin 4)
  /-- `FIFO_UNDERRUN` (R335). -/
  | fifoUnderrun (f : FibreId) (w : WaveId)
  /-- `FIFO_FLUSH` (R336). -/
  | fifoFlush (f : FibreId) (w : WaveId)
  /-- `OPERATION_RECORD` (R337). -/
  | operationRecord (k : LpId) (i : Fin 2)
  /-- `OP_LOAD` (R338). -/
  | opLoad (k : LpId) (i : Fin 2)
  /-- `OP_STORE` (R338). -/
  | opStore (k : LpId) (i : Fin 2)
  /-- `OP_ATOMIC` (R338). -/
  | opAtomic (k : LpId) (i : Fin 2)
  /-- `OP_FENCE` (R338). -/
  | opFence (k : LpId) (i : Fin 2)
  /-- `OP_RECORD_COMPLETE` (R338). -/
  | opRecordComplete (k : LpId) (i : Fin 2) (n : Nat)
  /-- `REMOTE_LOAD` (R343). -/
  | remoteLoad (k : LpId)
  /-- `REMOTE_STORE` (R341). -/
  | remoteStore (k : LpId)
  /-- `ATOMIC_ADD` (R344). -/
  | atomicAdd (k : LpId)
  /-- `ATOMIC_SWAP` (R344). -/
  | atomicSwap (k : LpId)
  /-- `ATOMIC_CAS` (R344). -/
  | atomicCas (k : LpId)
  /-- `ATOMIC_MIN` (R344). -/
  | atomicMin (k : LpId)
  /-- `ATOMIC_MAX` (R344). -/
  | atomicMax (k : LpId)
  /-- `ATOMIC_MINU` (R344). -/
  | atomicMinu (k : LpId)
  /-- `ATOMIC_MAXU` (R344). -/
  | atomicMaxu (k : LpId)
  /-- `ATOMIC_FADD` (R344). -/
  | atomicFadd (k : LpId)
  /-- `REPLY_RECEIVE` (R342). -/
  | replyReceive (k : LpId)
  /-- `REQUEST_TIMEOUT` (R342). -/
  | requestTimeout (k : LpId) (reqId : Word32)
  /-- `FABRIC_DRAINED` (R325). -/
  | fabricDrained
  /-- `CONGESTION_SAMPLE` (R349). -/
  | congestionSample (k : LpId)
  /-- `DISCOVERY_SEND` (R357). -/
  | discoverySend (q : CubePort)
  /-- `DISCOVERY_RECEIVE` (R357). -/
  | discoveryReceive (q : CubePort) (content : BitVec 208)
  /-- `DISCOVERY_WINDOW_END` (R358). -/
  | discoveryWindowEnd
  /-- `BEACON_SEND` (R364). -/
  | beaconSend (q : CubePort)
  /-- `BEACON_RECEIVE` (R365). -/
  | beaconReceive (q : CubePort) (content : BitVec 208)
  /-- `PARENT_LOST` (R366). -/
  | parentLost
  /-- `HOLDOVER_EXPIRE` (R368). -/
  | holdoverExpire
  /-- `CADENCE_OUT_EDGE` (R371). -/
  | cadenceOutEdge
  /-- `COLLECTIVE_TAKE_POST` (R380). -/
  | collectiveTakePost (k : LpId)
  /-- `COLLECTIVE_START` (R381). -/
  | collectiveStart (k : LpId)
  /-- `GATE_OPEN` (R379). -/
  | gateOpen (k : LpId) (slot : SlotId) (dst : Bool) (chunk : Nat)
  /-- `CL_DATA` (R387). -/
  | clData (k : LpId)
  /-- `CL_ARRIVE` (R386). -/
  | clArrive (k : LpId)
  /-- `CL_RELEASE` (R386). -/
  | clRelease (k : LpId)
  /-- `CL_ABORT` (R393). -/
  | clAbort (k : LpId)
  /-- `CL_CREDIT` (R382). -/
  | clCredit (k : LpId)
  /-- `CL_ACK` (R385). -/
  | clAck (k : LpId)
  /-- `CHUNK_RESULT_STEP` (R384). -/
  | chunkResultStep (k : LpId) (slot : SlotId)
  /-- `COLLECTIVE_CLOSE` (R385). -/
  | collectiveClose (k : LpId) (slot : SlotId)
  /-- `COLLECTIVE_STALL` (R392). -/
  | collectiveStall (k : LpId) (slot : SlotId)
  /-- `COLLECTIVE_DEADLINE` (R392). -/
  | collectiveDeadline (k : LpId) (slot : SlotId)
  /-- `COLLECTIVE_ABORT` (R395). -/
  | collectiveAbort (k : LpId) (slot : SlotId)
  /-- `ABORT_RESEND` (R393). -/
  | abortResend (k : LpId)
  /-- `CMD_TAIL_WRITE` (R399). -/
  | cmdTailWrite (m : MbId) (v : Word32)
  /-- `RSP_HEAD_WRITE` (R399). -/
  | rspHeadWrite (m : MbId) (v : Word32)
  /-- `CMD_WIN_WRITE` (R399). -/
  | cmdWinWrite (m : MbId) (i : Fin 16) (v : Word32)
  /-- `MB_EVENT_CLEAR` (R420). -/
  | mbEventClear (m : MbId) (v : Word32)
  /-- `REGISTER_WRITE` (R7). -/
  | registerWrite (reg : RegName) (v : Word32)
  /-- `LO_REGISTER_READ` (R49). -/
  | loRegisterRead (reg : RegName)
  /-- `COMMAND_SELECT` (R403). -/
  | commandSelect
  /-- `IDENTIFY` (R404). -/
  | identify
  /-- `GET_STATE` (R417). -/
  | getState
  /-- `SNAPSHOT_LATCH` (R417). -/
  | snapshotLatch
  /-- `READ_TELEMETRY` (R417). -/
  | readTelemetry
  /-- `GET_CONGESTION_MAP` (R349). -/
  | getCongestionMap
  /-- `READ_LOG` (R418). -/
  | readLog
  /-- `CLEAR_LOG` (R418). -/
  | clearLog
  /-- `STAGE` (R411). -/
  | stage
  /-- `CHECK` (R413). -/
  | check
  /-- `SHIFT` (R414). -/
  | shift
  /-- `SHIFT_DEMAND` (R416). -/
  | shiftDemand
  /-- `SHIFT_INSTANT` (R415). -/
  | shiftInstant
  /-- `DISCARD` (R411). -/
  | discard
  /-- `LOAD_IMAGE` (R409). -/
  | loadImage
  /-- `START_PROGRAM` (R410). -/
  | startProgram
  /-- `PROGRAM_BEAT_ZERO` (R101). -/
  | programBeatZero
  /-- `STOP_PROGRAM` (R410). -/
  | stopProgram
  /-- `COPY` (R238). -/
  | copy
  /-- `COPY_ABORT` (R406). -/
  | copyAbort
  /-- `BIND_PELOTON` (R416). -/
  | bindPeloton
  /-- `RELEASE_PELOTON` (R416). -/
  | releasePeloton
  /-- `SET_WINDOWS` (R416). -/
  | setWindows
  /-- `DRAIN_FABRIC` (R325). -/
  | drainFabric
  /-- `RESUME_FABRIC` (R325). -/
  | resumeFabric
  /-- `CAL_SAVE` (R438). -/
  | calSave
  /-- `REPAIR_MAP` (R234). -/
  | repairMap
  /-- `REPAIR_TEST` (R234). -/
  | repairTest (failing : List Nat)
  /-- `REPAIR_SOFT` (R235). -/
  | repairSoft
  /-- `REPAIR_HARD` (R235). -/
  | repairHard
  /-- `REPAIR_STATUS` (R234). -/
  | repairStatus
  /-- `SET_POWER_LIMIT` (R416). -/
  | setPowerLimit
  /-- `RESET_DOMAIN_VAULT` (R444). -/
  | resetDomainVault
  /-- `RESET_DOMAIN_STK` (R444). -/
  | resetDomainStk
  /-- `RESET_DOMAIN_CAP` (R444). -/
  | resetDomainCap
  /-- `RESET_DOMAIN_FAB` (R444). -/
  | resetDomainFab
  /-- `RESET_DOMAIN_PTX` (R444). -/
  | resetDomainPtx
  /-- `RESET_DOMAIN_PRX` (R444). -/
  | resetDomainPrx
  /-- `RESET_DOMAIN_CAD` (R444). -/
  | resetDomainCad
  /-- `RESET_DOMAIN_SENSE` (R444). -/
  | resetDomainSense
  /-- `DOMAIN_READY` (R444). -/
  | domainReady (dom : ResetDomain)
  /-- `FIFO_RESYNC` (R468). -/
  | fifoResync (dom : ResetDomain)
  /-- `SHUTDOWN_POWER_DOWN` (R407). -/
  | shutdownPowerDown
  /-- `SHUTDOWN_WARM_RESTART` (R407). -/
  | shutdownWarmRestart (straps : BitVec 4)
  /-- `RELAY_RECEIVE` (R401). -/
  | relayReceive (q : CubePort) (response : Bool) (slot : BitVec 512)
  /-- `RELAY_TIMEOUT` (R401). -/
  | relayTimeout (m : MbId) (tag : BitVec 16)
  /-- `MAILBOX_NOTIFY` (R420). -/
  | mailboxNotify (m : MbId)
  /-- `COLD_RESET` (R442). -/
  | coldReset (vaoUp : Bool)
  /-- `WARM_RESET` (R443). -/
  | warmReset
  /-- `STRAP0_FALL` (R430). -/
  | strap0Fall
  /-- `TRUING` (R432). -/
  | truing (rep : TruingReport)
  /-- `RAIL_GROUP_POWER_UP` (R424). -/
  | railGroupPowerUp (grp : RailGroup) (vout : List Nat)
  /-- `RAIL_GROUP_TIMEOUT` (R424). -/
  | railGroupTimeout (n : RailId) (cause : Fin 3)
  /-- `RAIL_GROUP_POWER_DOWN` (R425). -/
  | railGroupPowerDown (grp : RailGroup) (pgLow : Bool)
  /-- `RAIL_FAULT_POWER_DOWN` (R426). -/
  | railFaultPowerDown (n : RailId) (cause : Fin 2)
  /-- `RAIL_LOSS` (R428). -/
  | railLoss (n : RailId)
  /-- `FIRMWARE_WATCHDOG` (R440). -/
  | firmwareWatchdog
  /-- `REFCLK_LOSS` (R481). -/
  | refclkLoss
  /-- `SENSOR_SAMPLE` (R452). -/
  | sensorSample (samples : List Int)
  /-- `POWER_SAMPLE` (R462). -/
  | powerSample (readings : List Reading)
  /-- `THERMAL_BRAKE_STEP` (R462). -/
  | thermalBrakeStep
  /-- `GEAR_CHANGE` (R463). -/
  | gearChange
  /-- `REGION_HEATER_CONTROL` (R459). -/
  | regionHeaterControl (k : LpId)
  /-- `TAP_INSTRUCTION` (R483). -/
  | tapInstruction (e : TapEvent)
  /-- `COMMAND_TIMEOUT` (R402). -/
  | commandTimeout (m : SenderId) (tag : BitVec 16)
  /-- `RESET_N_RELEASE` (R480). -/
  | resetNRelease (straps : BitVec 4)
  /-- `PWROK_AO_RISE` (R429). -/
  | pwrokAoRise (straps : BitVec 4)
  /-- `VOID_WINDOW_END` (R163). -/
  | voidWindowEnd (g : ArrayId)
  /-- `DYNAMIC_ADDRESS_ASSIGN` (R482). -/
  | dynamicAddressAssign (addr : BitVec 7)
  /-- `SMBUS_CLOCK_LOW_TIMEOUT` (R482). -/
  | smbusClockLowTimeout
  deriving DecidableEq, Repr

end Sys2Proof
end

