-- ==== Sys2Proof/Config.lean ====
section
/-! DEFINITION. What one part fixes (fuses, firmware) and the values the manual leaves open. Every constant but
the package's view of its fuses is opaque: nothing can be proved of its value. -/

namespace Sys2Proof.Config

open Sys2Proof

/-- A free value, drawn with the model's own counter `freeCtr`: hardware entropy (R91), servo and controller outputs whose law
the manual does not give. DESIGN CHOICE, log entry 3, safe. -/
opaque freeValue : Nat → Word64

/-- What the pseudo-random operands of dummy rows make of a scratch accumulator: package array, wall beat, cell 8i + j, the value
before (R68, R93). Which gated rows are driven is not given either. Free, log entry 3. -/
opaque dummyAcc : Nat → Nat → Nat → Word32 → Word32

/-- The result of `VEXP2` within its bound (R185). Free, log entry 6. -/
opaque vexp2 : Word32 → Word32
/-- The result of `VLOG2` within its bound (R185). Free, log entry 6. -/
opaque vlog2 : Word32 → Word32
/-- The result of `VRSQRT` within its bound (R185). Free, log entry 6. -/
opaque vrsqrt : Word32 → Word32
/-- The result of `VRCP` within its bound (R185). Free, log entry 6. -/
opaque vrcp : Word32 → Word32
/-- The result of `VTANH` within its bound, for positive arguments (R185). Free, log entry 6. -/
opaque vtanh : Word32 → Word32

/-- Whether underflow is judged before rounding, which IEEE 754 leaves to the implementation (R182). Free, log entry 6. -/
opaque tinyBefore : Bool
/-- Whether 0 x infinity + NaN signals invalid, which IEEE 754 leaves to the implementation (R182). Free, log entry 6. -/
opaque fmaInvalid : Bool
/-- Whether `VFLT` and `VFLE` signal invalid for a quiet NaN (R182). Free, log entry 6. -/
opaque compareInvalid : Bool

/-- The gain of a ring's loop in GHz, from the calibration store, which the manual does not give (R300). Ring 844k + r. Free, log entry 3. -/
opaque ringGain : Nat → Rat
/-- The lock error in GHz of a window whose count is 0: ring, sum (R300). Free, log entry 3. -/
opaque lockNoLight : Nat → Int → Rat
/-- Whether a lock error between two units of 0.1 GHz reads as the upper one (Table 10.14). Free, log entry 3. -/
opaque errorUp : Rat → Bool
/-- The heaters of two rings of a die lie within 250 um of each other, as its layout table has them (R299). -/
opaque ringsNear : Nat → Nat → Bool

/-- Payload of the identification frame of a wavelength, which the manual does not give (R283). Free, log entry 3. -/
opaque identPayload : Nat → BitVec 1000

/-- Whether a mean of sensor readings that falls between two units is rounded up: sum, count (R450, R452). Free, log entry 3. -/
opaque meanUp : Int → Nat → Bool
/-- Repair resources that an HBM4 stack has for one bank: stack, pseudo-channel, bank (R235). Free, log entry 3. -/
opaque stackSpares : Nat → Nat → Nat → Nat

/-- The HBM4 supply voltages VSTK_P, VSTK_C and VSTK_Q in mV, as the HBM4 standard gives them: rail 18, 19 or 20 (R421). -/
opaque stackMv : Nat → BitVec 16

/-- The opcode of `SAMPLE/PRELOAD`, which the manual does not give (R483; log entry 5). -/
opaque tapSample : BitVec 5
/-- The opcode of `EXTEST`, which the manual does not give either. -/
opaque tapExtest : BitVec 5

/-- The bytes of the fuse block that are fused identically in every die of the package (R12, R273): the format, the populated-site map
and the package serial. -/
opaque packageFuse : Nat → Byte
/-- The bytes of the fuse block that belong to each die alone: dies 0-7 compute, 8-11 lightplane (R273). -/
opaque dieFuse : Fin 12 → Nat → Byte
/-- The fuse block of each die, by byte (R12, R273, Tables 9.8 and 9.9). -/
def fuseByte (d : Fin 12) (i : Nat) : Byte := if i = 0 ∨ (3 ≤ i ∧ i ≤ 11) then packageFuse i else dieFuse d i
/-- Package serial (R12, Table 9.8). -/
def serial : Word64 := BitVec.ofNat 64 ((List.range 8).foldr (fun i n => (packageFuse (4 + i)).toNat + 256 * n) 0)
/-- Populated-site map (R12, Table 9.8). -/
def populated : Byte := packageFuse 3
/-- What a companion die declares in its capability word above the CRC: die (R270, R276). -/
opaque companionCap : Fin 12 → BitVec 56
/-- The four fused image-key hashes (R409). -/
opaque keyHash : Fin 4 → BitVec 384
/-- The revocation fuse of each key hash (R409). -/
opaque keyRevoked : Fin 4 → Bool
/-- The fused rollback minimum of hub firmware (R439). -/
opaque rollbackMin : BitVec 16

end Sys2Proof.Config
end

