-- ==== Sys2Proof/Machine/State.lean ====
section
/-! DEFINITION. The state of the package as plain data. Every structure's default field values are its reset values, so
`{}` is a unit just after reset. Large populations of like units are sparse maps: an index that is not listed reads as the
unit's default, and no listed entry equals that default. -/

namespace Sys2Proof.Machine

open Sys2Proof

/-- A sparse map by number: indexes strictly rising, no entry equal to the default of its unit. -/
abbrev SMap (α : Type) := List (Nat × α)

/-- No step of this model stops with a fault: everything the manual calls a fault or an error is a next state. -/
inductive Fault where
  deriving DecidableEq, Repr

/-- Why a command has no meaning. -/
inductive Refusal where
  /-- The arm of a command whose meaning is not written. Raised by `exec` only; safe: the model stops. -/
  | notModelled (mnemonic : String)
  deriving DecidableEq, Repr

/-! ### Chapter 2: beats and holds -/

/-- The demands that stood at the end of one wall beat, as the hold network carries them (R38, R265). -/
structure Demands where
  /-- wait demand and fault demand of each die, by die -/
  waits   : Byte := 0
  faults  : Byte := 0
  shift   : Bool := false
  service : Bool := false
  /-- a value of n that the power manager set in this beat (R50) -/
  brake   : Option (BitVec 4) := none
  deriving DecidableEq, Repr

/-- A unit in a `WAIT` that found its counter short (R39, R44). -/
structure WaitState where
  unit       : WaitUnit
  die        : DieId
  counter    : Nat
  /-- effective target, relative under R122 -/
  target     : Word32
  /-- held beats until the timeout expires (R44) -/
  heldLeft   : Nat
  sampleWall : Nat
  deriving DecidableEq, Repr

/-- Beat status block (Table 2.5), one copy for the eight dies (R48), and the hold controllers (R38). -/
structure BeatState where
  schedBeat : Word64 := 0
  wallBeat  : Word64 := 0
  heldWait  : Word64 := 0
  heldBrake : Word64 := 0
  heldShift : Word64 := 0
  heldHub   : Word64 := 0
  held       : Bool := false
  causeWait  : Bool := false
  causeBrake : Bool := false
  causeShift : Bool := false
  causeHub   : Bool := false
  faultHold  : Bool := false
  brakeN     : BitVec 4 := 0
  gear       : BitVec 2 := 0
  /-- demands at the ends of the last 16 wall beats, newest first -/
  history    : List Demands := []
  shiftDemand : Bool := false
  hubDemand   : Bool := false
  /-- fault demand of each die (R265) -/
  faultDemands : Byte := 0
  waits      : List WaitState := []
  /-- the fault hold in force has a machine check among its causes (R392) -/
  machineCheck : Bool := false
  /-- hub firmware has completed the stop of this fault hold (R46) -/
  stopped : Bool := false
  /-- the wall beat of the fault that began the fault hold (R46) -/
  faultAt    : Option Nat := none
  /-- new brake values, each with the wall beat in which it was set, oldest first (R50) -/
  brakePending : List (BitVec 4 × Nat) := []
  /-- beats in which routers execute: live beats, and every beat while no program runs (R134) -/
  routed     : Nat := 0
  /-- the beat clocks are aligned and the counters run (R48) -/
  aligned    : Bool := false
  /-- beats since the beat clocks run, and by how much each die's provisional `WALL_BEAT` is ahead of them (R272) -/
  provBeats  : Nat := 0
  prov       : SMap Nat := []
  /-- the provisional beat in which site 0 raised zero_mark (R272) -/
  zeroMark   : Option Nat := none
  deriving DecidableEq, Repr

/-- The program of the package (R59, R101, R207, R410). -/
structure ProgramState where
  running  : Bool := false
  /-- `SCHED_BEAT` of program beat 0 (R48) -/
  beat0    : Word64 := 0
  /-- a start waiting for its beat: the cadence time `at`, 0 for the next boundary (R410) -/
  startAt  : Option Word64 := none
  /-- whether the cadence counter was locked at that time, once it has come (R410) -/
  startLocked : Option Bool := none
  seed     : Word64 := 0
  plan     : BitVec 2 := 0
  /-- when the status registers that `START_PROGRAM` clears were last cleared, in `SCHED_BEAT` (R99) -/
  clearedAt : Nat := 0
  deriving DecidableEq, Repr

/-- Counters of one die (Table 4.10). -/
structure DieCounters where
  signal    : SMap Word32 := []
  /-- steps that take effect at the end of the beat in progress (R120) -/
  steps     : SMap Word32 := []
  /-- beat-domain copies of the servant counters, by identifier less 0x100 (R42) -/
  copies    : SMap Word32 := []
  /-- the copies' values at program beat 0 (R122) -/
  base      : SMap Word32 := []
  /-- beat-domain copies of the abort flags (R45) -/
  abortCopy : Word64 := 0
  deriving DecidableEq, Repr

/-! ### Chapters 3 and 4: arrays -/

/-- An open loop (R106, R117). -/
structure LoopLevel where
  start   : Nat
  endIdx  : Nat
  count   : Nat
  idx     : Nat
  aStep   : BitVec 18
  sStep   : BitVec 18
  dStep   : BitVec 18
  accStep : BitVec 2
  deriving DecidableEq, Repr

/-- A stream descriptor held by a stream (R126, R128). -/
structure StreamDesc where
  phaseMask : BitVec 16
  startLine : BitVec 17
  stride    : BitVec 17
  count     : Nat
  fetched   : Nat
  issuedAt  : Nat
  deriving DecidableEq, Repr

/-- A line in a stream buffer (R127). `data` is set when the line is read; `arriveAt` is the beat at whose end it is in the
buffer. -/
structure StreamLine where
  line     : Nat
  data     : List Byte
  /-- one flag per 64-bit word (R216) -/
  poison   : List Bool
  arriveAt : Nat
  arrived  : Bool
  deriving DecidableEq, Repr

/-- One vault stream (R126-R128). -/
structure StreamState where
  cur   : Option StreamDesc := none
  next  : Option StreamDesc := none
  buf   : List StreamLine := []
  /-- bytes already consumed of the first line -/
  used  : Nat := 0
  /-- the program beat of the last fetch -/
  fetchedAt : Option Nat := none
  /-- the beat in which places were last freed, and how many -/
  freedAt : Nat := 0
  freed   : Nat := 0
  deriving DecidableEq, Repr

/-- The `PASS` that holds the pass port (R102, R79). -/
structure PassRun where
  word   : BitVec 128
  /-- index of its word -/
  idx    : Nat := 0
  aEff   : Nat
  asEff  : Nat
  acc    : Nat
  total  : Nat
  issued : Nat
  /-- issue beat of its first pass beat -/
  start  : Nat
  /-- the scale block last read for its A rows, and the scale byte of each row with the offset of a poisoned one (R78) -/
  aBlock : Option Nat := none
  aScale : List (Byte × Option Nat) := []
  deriving DecidableEq, Repr

/-- What travels down the 16-beat accumulator path (R80). -/
inductive PathKind where
  | pass | zero | load
  deriving DecidableEq, Repr

/-- A pass beat, `ZERO` or `LOADACC` in the path (R80, R108). -/
structure PathItem where
  kind   : PathKind
  issue  : Nat
  acc    : Nat
  word   : BitVec 128
  /-- index of the word of a pass beat -/
  idx    : Nat := 0
  /-- index of the pass beat within its `PASS` -/
  beat   : Nat := 0
  /-- A elements read, row by row: the bit pattern of each, and the offset of its word where that is poisoned (R217) -/
  aElems : List (List (Nat × Option Nat)) := []
  /-- the scale byte of each of those elements, with the same mark (R75); none in scale mode `NONE` -/
  aScales : List (List (Byte × Option Nat)) := []
  isVoid : Bool := false
  /-- once broadcast (R129): the stored values of each column, the scale byte of each, and its index -/
  bRec   : Option (List (List (Nat × Byte × Nat))) := none
  /-- values of a `LOADACC`, 64 of them -/
  load   : List Word32 := []
  deriving DecidableEq, Repr

/-- Converted drain outputs waiting for the end of beat d+7 (R131). -/
structure DrainItem where
  due    : Nat
  writes : List (Nat × Byte)
  deriving DecidableEq, Repr

/-- A void table window of an array (R163). -/
structure VoidWindow where
  /-- void table entry -/
  entry : Nat
  first : Nat
  len   : Nat
  armed : Bool
  deriving DecidableEq, Repr

/-- One array: cells, sequencer, streams and status blocks (R63, R99, R105). -/
structure ArrayState where
  /-- accumulator k, element e at index 64k + e -/
  acc     : SMap Word32 := []
  power   : BitVec 2 := 2
  driven  : Nat := 0
  dummy   : Nat := 0
  flags   : BitVec 6 := 0
  /-- flags that were set in `SCHED_BEAT` `flagsAt`, the last in which any was (R200) -/
  flagsNew : BitVec 6 := 0
  flagsAt : Nat := 0
  gatedRowBeats : Word32 := 0
  /-- `FREEWHEEL_BEATS` of the gatings that have ended -/
  fwAcc   : Word32 := 0
  /-- the `SCHED_BEAT` from which the array has been clock-gated or parked; `none` while it is not -/
  gatedSince : Option Nat := some 0
  /-- rows of the pass beats issued: issue beat and R (R93), newest first -/
  rows    : List (Nat × Nat) := []
  /-- row counts that words present: first and last issue beat, rows (R94, R119), newest first -/
  presented : List (Nat × Nat × Nat) := []
  /-- driven level of the last live broadcast (R93, R98) -/
  lastD   : Nat := 0
  /-- held beats since the last decay (R98) -/
  decay   : Nat := 0
  /-- the last wall beat in which the level rose in a release notice (R98) -/
  rampAt  : Option Nat := none
  seqState : BitVec 3 := 0
  /-- index of the next word -/
  pc      : Nat := 0
  /-- index of the word that holds the issue port until `issueFree` (R105) -/
  portPc  : Nat := 0
  loops   : List LoopLevel := []
  controlRun : Nat := 0
  abase   : BitVec 18 := 0
  vbase   : BitVec 17 := 0
  leader  : BitVec 11 := 0
  size    : BitVec 3 := 0
  active  : Bool := false
  /-- program beat from which the issue port is free (R102) -/
  issueFree : Nat := 0
  pass    : Option PassRun := none
  /-- the scale byte in force for each column, with its poison mark (R129) -/
  bScale  : List (Byte × Option Nat) := []
  path    : List PathItem := []
  drains  : List DrainItem := []
  streams : SMap StreamState := []
  /-- first and last gated program beats of a `FREEWHEEL` in force (R95) -/
  gate    : Option (Nat × Nat) := none
  /-- issue beat of the first `PARK` of a run (R124) -/
  parkAt  : Option Nat := none
  /-- issue beat of an `UNPARK` not yet complete, and whether its ramp has started (R96, R97) -/
  unparkAt : Option Nat := none
  ramp    : Bool := false
  /-- program beat before which only `NOP` may issue (R96) -/
  unparkUntil : Nat := 0
  endAt   : Option Nat := none
  windows : List VoidWindow := []
  inVoid  : Bool := false
  /-- first program beat of the window in progress -/
  voidFirst : Nat := 0
  /-- first and last program beats in which a window clock-gates the array (R163) -/
  voidGate : Option (Nat × Nat) := none
  /-- the `SCHED_BEAT` in which accumulators were last written, and what they held at its start (R81) -/
  accStart : Option (Nat × SMap Word32) := none
  /-- scratch accumulators of the 64 cells, which dummy rows write; empty before the first (R68, R93) -/
  scratch : List Word32 := []
  deriving DecidableEq, Repr

/-- Whose access a servant request belongs to (R25, R211, R242, R338, R343). -/
inductive ReqOwner where
  /-- access `n` of a copy channel -/
  | access (c : ChanId) (n : Nat)
  /-- the descriptor fetch or status write `n` of a copy channel (R246, R249) -/
  | control (c : ChanId) (n : Nat)
  /-- the memory request that fabric unit `k` serves under number `n` -/
  | remote (k n : Nat)
  /-- record `n` of issuer `i` of die `k`: what it asks of its own package, or the write of its result -/
  | record (k i n : Nat)
  /-- buffer access `n` of hub firmware -/
  | hub (n : Nat)
  /-- chunk access `n` of collective engine `k` -/
  | chunk (k n : Nat)
  deriving DecidableEq, Repr

/-- A servant request at a memory port (R211, R225, R229, R139). -/
structure ServantReq where
  owner : ReqOwner
  write : Bool
  addr  : Nat
  data  : List Byte := []
  /-- poison flag of each byte's source word -/
  poison : List Bool := []
  len   : Nat
  /-- bytes of the request as it was made, and their place in the access that it is a part of -/
  whole : Nat
  part  : Nat := 0
  /-- an atomic operation and its operands (R344) -/
  atomic : Option (Nat × Nat × Nat) := none
  /-- bytes already read, each with its poison flag -/
  got   : List (Byte × Bool) := []
  /-- part of the request has been served -/
  begun : Bool := false
  /-- a flit of the granule that it is writing has failed its CRC for good (R229) -/
  spoilt : Bool := false
  /-- interface errors or resends of the block or flit in progress (R228, R229) -/
  tries : Nat := 0
  deriving DecidableEq, Repr

/-- What a servant flit is: a line to be written, a request to read one, or the line read (R139). -/
inductive ServKind where
  | write | read | data
  deriving DecidableEq, Repr

/-- A servant flit or read request on the chainline (R139). -/
structure ServFlit where
  /-- the input at which it waits -/
  port  : PortName
  /-- the beat, counted as `BeatState.routed`, from which it may move on -/
  ready : Nat
  kind  : ServKind
  flit  : Flit
  /-- the request that it belongs to; none for a flit of a lightplane die -/
  req   : Option ServantReq := none
  /-- the router and port where the request entered -/
  home  : Nat × PortName
  /-- the wall beat in which it was sent on the Chaxel link that it crosses (R260) -/
  sent  : Option Nat := none
  deriving DecidableEq, Repr

/-- One router (R133-R140). -/
structure RouterState where
  slots  : SMap Word64 := []
  xfer   : SMap Word64 := []
  period : BitVec 9 := 16
  /-- flits at the input registers: port, the live beat in which each is the source, flit (R136) -/
  inputs : List (PortName × Nat × Flit) := []
  /-- servant flits and read requests that wait at the inputs, oldest first (R139) -/
  servant : List ServFlit := []
  /-- the pending servant read request (R139) -/
  request : Option ServFlit := none
  /-- replay windows of the edge lanes: port, live beat of presentation, wall beat of entry, flit (R260) -/
  window : List (PortName × Nat × Nat × Flit) := []
  /-- crossing FIFOs of compute-lightplane lanes, oldest first (R137, R274) -/
  fifoIn  : List ServFlit := []
  fifoOut : List ServFlit := []
  /-- transfer registers rewritten by the spoke: register, `SCHED_BEAT` of the write, value (R196) -/
  staged  : List (Nat × Nat × Word64) := []
  /-- the last beat, counted as `BeatState.routed`, in which an entry was executed (R134) -/
  slotAt  : Option Nat := none
  deriving DecidableEq, Repr

/-- A flit of the transit lane: source and destination lightplane die as 4 x source + destination, its place among the flits that its
source has sent, the track of the lane that it is on, and there the hops that it has made, on a link the wall beat from which it can
arrive. -/
structure TransitFlit where
  way   : Nat
  no    : Nat
  track : Nat := 0
  at_   : Nat := 0
  flit  : Flit
  deriving DecidableEq, Repr

/-- One direction of a transit crossing (R141-R144). -/
structure CrossingState where
  /-- transit buffer -/
  buffer  : List TransitFlit := []
  onTrack : List TransitFlit := []
  /-- credits of the 32-flit buffer in use by the dies and fabric units that send into it, and places of it that are free again,
  their credits not yet returned (R144) -/
  used    : Nat := 0
  freed   : Nat := 0
  /-- credits in use for the lightplane FIFO at the exit (R274) -/
  exitUsed : Nat := 0
  /-- flits that have left the crossing over its exit link (R260) -/
  leaving : List TransitFlit := []
  /-- flits that a lightplane die has sent towards the buffer (R323) -/
  coming  : List TransitFlit := []
  /-- the last wall beat in which it moved -/
  movedAt : Option Nat := none
  deriving DecidableEq, Repr

/-! ### Chapter 5: derailleur -/

/-- Sweep kinds (R147, R159, R160, R161, R166). -/
inductive SweepKind where
  | dispatchIn | dispatchOut | fillOut | voidIn | combineIn | combineOut
  deriving DecidableEq, Repr

/-- A sweep in progress (R147). -/
structure Sweep where
  kind  : SweepKind
  line  : Nat
  start : Nat
  count : Nat
  deriving DecidableEq, Repr

/-- A ledger placement (R157). -/
structure Placement where
  pos  : Nat
  gate : BitVec 16
  deriving DecidableEq, Repr

/-- One derailleur (Table 5.1, Table 5.10). -/
structure DerailleurState where
  route   : SMap (BitVec 512) := []
  exits   : List Nat := []
  /-- placement of token t, rank k at 8t + k -/
  ledger  : SMap Placement := []
  /-- skip flags of the tokens of the last dispatch -/
  skips   : List Nat := []
  binding : SMap (BitVec 128) := []
  quota   : SMap (BitVec 128) := []
  voidTab : SMap Word64 := []
  desc    : SMap (BitVec 512) := []
  /-- line i of bank b at 16,384b + i -/
  lineBuf : SMap (BitVec 512) := []
  linePoison : SMap Byte := []
  collect : Option Nat := none
  /-- 0 idle, 1 assignment, 2 dispatch sweeps, 3 void, 4 combine -/
  phase   : BitVec 3 := 0
  phaseDesc  : Nat := 0
  phaseStart : Nat := 0
  phaseEnd   : Nat := 0
  /-- triggers waiting for their first beat: descriptor, phase code, first beat -/
  triggers : List (Nat × Nat × Nat) := []
  lastTrigger : Byte := 0
  lastDispatch : Option Nat := none
  lastTrigBeat : Option Nat := none
  /-- counter i of descriptor n at 16n + i (Table 5.11) -/
  counters : SMap Word32 := []
  /-- filled slots of each bound entry in the last dispatch (R160) -/
  filled  : SMap Nat := []
  /-- sums of the fill flits of the running `VOID`, by entry (R161) -/
  fillSum : SMap Nat := []
  armed   : List Nat := []
  sweeps  : List Sweep := []
  deriving DecidableEq, Repr

/-! ### Chapter 6: spokes -/

/-- A spoke store on its way to memory (R177). -/
structure StoreItem where
  due   : Nat
  addr  : Nat
  bytes : List (Nat × Byte)
  deriving DecidableEq, Repr

/-- A spoke load on its way to a register (R177): it reads in program beat `readAt`. `sel` are the lanes that it loads and
`lanes` those that no later instruction has written; a scalar load has lane 0. -/
structure LoadItem where
  readAt : Nat
  addr   : Nat
  size   : Nat
  signed : Bool
  vec    : Bool
  reg    : Nat
  sel    : BitVec 16
  lanes  : BitVec 16
  deriving DecidableEq, Repr

/-- One spoke (Table 6.1, Table 6.8, Table 6.9). -/
structure SpokeState where
  x       : SMap Word32 := []
  v       : SMap (BitVec 512) := []
  p       : SMap (BitVec 16) := []
  pc      : Word32 := 0
  /-- chainline queues: line, poison, beat from which it may be taken (R195) -/
  inQ     : List (Flit × Nat) := []
  outQ    : List (Flit × Nat) := []
  fflags  : BitVec 5 := 0
  layout  : Word32 := 0
  active  : Bool := false
  mode    : BitVec 2 := 0
  run     : Nat := 0
  task    : Nat := 0
  /-- start and end program beats of the run (R186) -/
  runS    : Nat := 0
  runE    : Nat := 0
  tend    : Bool := false
  /-- next run to start: task and run index; `none` after the last -/
  nextRun : Option (Nat × Nat) := none
  /-- beat from which each x register, at 0-31, and each p register, at 48-55, is ready (R181) -/
  ready   : SMap Nat := []
  /-- beats from which the lanes of each v register are ready -/
  vready  : SMap (List Nat) := []
  nextIssue : Nat := 0
  until_  : Option Nat := none
  stores  : List StoreItem := []
  loads   : List LoadItem := []
  /-- route record in flight: landing beat and record (R152, R193) -/
  record  : Option (Nat × BitVec 512) := none
  /-- the last landing beat, for R193 -/
  landed  : Option Nat := none
  xfLo    : SMap Word32 := []
  /-- transfer registers whose staged low half waits for a write of the high half (R196) -/
  xfWaits : List Nat := []
  xfHiLatch : SMap Word32 := []
  pbeatHi : Word32 := 0
  runBeats  : Word32 := 0
  idleBeats : Word32 := 0
  deriving DecidableEq, Repr

/-! ### Chapter 7: memory -/

/-- What the check bits of an aligned 64-bit word say (R204, R214, R216). An unlisted word is good, but in the vaults of a die
that has lost them: there it is poisoned, and only a word listed as `good` is good (R223). -/
inductive EccMark where
  | poison | uncorrectable | single | good
  deriving DecidableEq, Repr

/-- Servant side of one vault (R207-R215). -/
structure VaultState where
  queue   : List ServantReq := []
  /-- the read slot of a merged write has been taken (R211) -/
  merging : Bool := false
  /-- refresh operations paid since the vaults began to serve (R209, R210) -/
  paid    : Nat := 0
  scrubLine : BitVec 17 := 0
  /-- the next scrub read is due; `none`: 64 us after the die's vaults began to serve (R215) -/
  scrubAt   : Option Nat := none
  writeback : Option Nat := none
  /-- the last wall beat in which a slot was taken -/
  slotAt  : Option Nat := none
  deriving DecidableEq, Repr

/-- Memory block of one die (Table 7.7). -/
structure DieMem where
  refresh : BitVec 2 := 0
  temp    : BitVec 16 := 0
  tstate  : BitVec 3 := 0
  vltCe   : Word32 := 0
  vltUe   : Word32 := 0
  vltUeAddr : Option Nat := none
  spareRows : BitVec 16 := 0
  spareCols : BitVec 16 := 0
  t0Ce    : Word32 := 0
  t0Ue    : Word32 := 0
  /-- refresh operations owed by each vault up to `owedAt`, in 1/256 (R209); `owedAt` is `none` while no vault serves -/
  owedUnits : Nat := 0
  owedAt  : Option Nat := none
  servingFrom : Nat := 0
  /-- the die has lost its vaults: every word not rewritten since is poisoned (R223) -/
  lost    : Bool := false
  deriving DecidableEq, Repr

/-- One HBM4 or capacity stack (Table 7.8) and its controller. -/
structure StackState where
  rate    : BitVec 16 := 0
  state   : BitVec 2 := 0
  temp    : BitVec 16 := 0
  /-- 0 normal, 1 throttle, 2 stopped (Table 16.3) -/
  limit   : BitVec 2 := 0
  ce      : Word32 := 0
  ue      : Word32 := 0
  ueAddr  : Option Nat := none
  rowHit  : Word32 := 0
  rowMiss : Word32 := 0
  retry   : Word32 := 0
  hard    : BitVec 16 := 0
  soft    : BitVec 16 := 0
  queue   : List ServantReq := []
  /-- open rows: bank place and row -/
  openRows : List (Nat × Nat) := []
  /-- capacity port direction: true writes (R229) -/
  dirWrite : Bool := false
  turnAt  : Nat := 0
  /-- the turn in progress began with a change of direction -/
  turned  : Bool := false
  deriving DecidableEq, Repr

/-- A DRAM repair in force: vault (or 16,384 + stack), bank, row or word column, spare kind (R235). -/
structure Repair where
  unit   : Nat
  bank   : Nat
  column : Bool
  index  : Nat
  hard   : Bool
  /-- made in the service state in force, so that its poison is to be cleared (R236) -/
  fresh  : Bool := false
  deriving DecidableEq, Repr

/-! ### Chapter 8: copy channels -/

/-- A posted chain (R238). `owner` is the mailbox and tag of a `COPY`. -/
structure Chain where
  first  : Word64
  budget : Nat
  owner  : Option (SenderId × BitVec 16)
  /-- `SCHED_BEAT` and spoke of a post by `CEPOST` (R199) -/
  post   : Option (Nat × Nat) := none
  deriving DecidableEq, Repr

/-- An access outstanding (R242). -/
structure Access where
  n      : Nat
  write  : Bool
  off    : Nat
  len    : Nat
  issued : Nat
  /-- the `req_id` of the packet that carries it to another package -/
  reqId  : Option Word32 := none
  /-- the response, once performed: failed?, data, poison flag per byte -/
  resp   : Option (Bool × List Byte × List Bool)
  deriving DecidableEq, Repr

/-- A descriptor fetch or status write under way (R246, R249). -/
structure ControlAccess where
  fetch  : Bool
  n      : Nat
  addr   : Nat
  issued : Nat
  resp   : Option (Bool × List Byte × List Bool) := none
  deriving DecidableEq, Repr

/-- The descriptor in progress (Table 8.1, R242-R246). -/
structure DescRun where
  src : Word64
  dst : Word64
  length  : Nat
  srcW : Nat
  dstW : Nat
  silent : Bool
  last : Bool
  next    : Word64
  readIssued  : Nat := 0
  readDone    : Nat := 0
  writeIssued : Nat := 0
  writeDone   : Nat := 0
  /-- holding register: bytes with their poison flags (R242) -/
  hold    : List (Byte × Bool) := []
  /-- reads that returned ahead of an earlier one -/
  early   : List (Nat × List Byte × List Bool) := []
  out     : List Access := []
  failed  : Bool := false
  timedOut : Bool := false
  poisoned : Bool := false
  /-- a status decided at fetch (R240) -/
  decided : Option Byte := none
  /-- the dst field of requests to the source's and the destination's package, as the send window gave it at the check (R241, R340) -/
  srcPeer : Nat := 0
  dstPeer : Nat := 0
  deriving DecidableEq, Repr

/-- One copy channel (Table 8.6). -/
structure ChannelState where
  state   : BitVec 2 := 0
  halt    : BitVec 2 := 0
  claimed : Bool := false
  lastStatus : Byte := 0
  desc    : Word64 := 0
  count   : Word32 := 0
  budget  : BitVec 16 := 0
  /-- the image's budget, under which posts by `CEPOST` and the image's chains run (R238) -/
  claimBudget : BitVec 16 := 0
  chain   : Word32 := 0
  bad     : Word32 := 0
  bytes   : Word64 := 0
  queue   : List Chain := []
  cur     : Option DescRun := none
  /-- address of the next descriptor to fetch, while a chain runs -/
  next    : Option Word64 := none
  /-- the fetch or status write under way -/
  ctl     : Option ControlAccess := none
  owner   : Option (SenderId × BitVec 16) := none
  /-- the `COPY`'s counts: completed, bad, first bad address and status (Table 14.6) -/
  done    : Word32 := 0
  badInChain : Word32 := 0
  firstBad : Option (Word64 × Byte) := none
  accessNo : Nat := 0
  stopReq : Bool := false
  deriving DecidableEq, Repr

/-! ### Chapter 9: Chaxel -/

/-- One end of a Chaxel link (Table 9.10). -/
structure EndState where
  state   : BitVec 3 := 0
  cause   : BitVec 4 := 0
  mode    : BitVec 2 := 0
  /-- `LINK` of Table 9.10, and the code of the rate at which the link runs (R271) -/
  link    : BitVec 5 := 0
  rate    : BitVec 4 := 0
  capOwn  : Word64 := 0
  capPeer : Word64 := 0
  crcFail : Word32 := 0
  replay  : Word32 := 0
  ue      : Word32 := 0
  holdFix : Word32 := 0
  reqErr  : Word32 := 0
  repairFuse : BitVec 16 := 0
  repairLane : BitVec 16 := 0
  /-- groups that failed their first check and were requested: group, wall beat of the check, next replay beat (R263) -/
  asked   : List (Nat × Nat × Nat) := []
  /-- groups that this end's transmitter replays, each with its first launch beat, newest first (R262) -/
  replaying : List (Nat × Nat) := []
  /-- credits on their way to this end: lane, wall beat of entry, and what they free: a transit buffer (a crossing direction), the
  lightplane FIFO at its exit (24 more), or a place of the lane's FIFO (R255, R144, R274) -/
  credits : List (Nat × Nat × Option Nat) := []
  /-- trim step of each position that this end receives, at 64 x group + position (R267) -/
  trims   : SMap Nat := []
  /-- maps of the direction that this end receives and of the one that it sends: group, and each moved position with its spare
  (R269) -/
  repairs : List (Nat × List (Nat × Nat)) := []
  sendRepairs : List (Nat × List (Nat × Nat)) := []
  /-- retiming depth in half-beats (R256) -/
  depth   : BitVec 2 := 0
  /-- the last hold word received (R265) -/
  holdWord : BitVec 24 := 0
  /-- the bits that were still wrong after the vote in hold words of the last beats, each with its launch beat (R265, R266) -/
  holdErrs : List (Nat × BitVec 24) := []
  /-- the far end's fused repair entries for the link, and the positions that failed trim: group, position (R267 steps 1 and 2) -/
  fusedPeer  : List Word32 := []
  trimFailed : List (Nat × Nat) := []
  deriving DecidableEq, Repr

/-! ### Chapter 10: lightplane -/

/-- Packet header and payload (Table 11.1). -/
structure Packet where
  ty       : Byte := 0
  flags    : Byte := 0
  code     : Byte := 0
  space    : Byte := 0
  len      : BitVec 16 := 0
  dst      : BitVec 16 := 0
  src      : BitVec 16 := 0
  fan      : BitVec 16 := 0
  peloton  : BitVec 16 := 0
  injectUs : Word32 := 0
  reqId    : Word32 := 0
  offset   : BitVec 48 := 0
  poison   : Word32 := 0
  payload  : List Byte := []
  deriving DecidableEq, Repr

/-- Receiver of one wavelength (Table 10.13, R286, R313). -/
structure WaveState where
  rxPower : BitVec 16 := 0
  faulty  : Bool := false
  align   : BitVec 2 := 0
  cwCorr   : Word32 := 0
  cwUncorr : Word32 := 0
  symCorr  : Word32 := 0
  frameErr : Word32 := 0
  bursts   : Word32 := 0
  burstLost : Word32 := 0
  arrMax   : BitVec 16 := 0x8000
  arrMin   : BitVec 16 := 0x7FFF
  /-- hunt: candidates in a row and the sequence of the last (R286) -/
  candidates : Nat := 0
  lastSeq  : Nat := 0
  /-- locked: frames in a row with a wrong marker or sequence -/
  badRun   : Nat := 0
  /-- descrambler register (R284) -/
  scramble : BitVec 31 := 0
  /-- a frame with sequence 0 has started the descrambler and the codewords since lock (R284, R285) -/
  synced   : Bool := false
  /-- descrambled payload bits not yet decoded into codewords, first received most significant, and their count (R285) -/
  rxBits   : Nat := 0
  payloadBits : Nat := 0
  /-- since when it has been out of lock or uncorrectable, in ns (R309) -/
  badSince : Option Nat := none
  /-- since when it has been locked and clean, in ns (R307) -/
  goodSince : Option Nat := none
  /-- packet being assembled (R313) -/
  partial_ : Option Packet := none
  /-- identification frames of its own wavelength in a row (R307 step 5) -/
  ident    : Nat := 0
  /-- blocks handed to the transmitter and not yet sent, and what it has sent last: the burst of a steered circuit wavelength (R295), the
  multiframe of any other (R285) -/
  txBlocks : List (BitVec 257) := []
  burst    : List (BitVec 1024) := []
  frames   : List (BitVec 1024) := []
  /-- data was lost between packets: a payload block before the next header belongs to a packet whose header was lost -/
  skipping : Bool := false
  /-- class of the discarded packet whose payload may follow (R315) -/
  skipClass : Nat := 0
  deriving DecidableEq, Repr

/-- One fibre port (Table 10.13). -/
structure PortState where
  step  : BitVec 3 := 0
  state : BitVec 2 := 0
  downs : Word32 := 0
  waves : SMap WaveState := []
  retryAt : Nat := 0
  /-- a step has failed, and the port repeats step 4 whatever it has locked (R307) -/
  retrying : Bool := false
  /-- when in the last 1 ms the port was enabled or disabled, newest first, in ns (R300) -/
  lit     : List (Nat × Bool) := []
  /-- receiver trims loaded from the calibration store (R307 step 1) -/
  trims : List Byte := []
  deriving DecidableEq, Repr

/-- One ring and its truing loop (R298-R301). -/
structure RingState where
  state   : BitVec 2 := 0
  coast   : Bool := false
  invalid : Bool := false
  tone    : BitVec 6 := 0
  error   : BitVec 10 := 0
  heater  : BitVec 12 := 0
  /-- stored bias, and steps of the sweep about it made since acquisition began (Table 10.10) -/
  bias    : BitVec 12 := 0
  swept   : Nat := 0
  /-- a fault, or too many relocks, makes its wavelengths faulty until the next bring-up of the port (R303) -/
  bad     : Bool := false
  windows : Nat := 0
  good    : Nat := 0
  far     : Nat := 0
  acqStart : Nat := 0
  /-- times of the relocks of the last second, in ns (R303) -/
  relocks : List Nat := []
  /-- heater codes of the last valid windows, newest first, at most 100 (R310) -/
  codes   : List Nat := []
  deriving DecidableEq, Repr

/-- One laser input (R304, R305). -/
structure LaserState where
  req    : Bool := false
  ok     : Bool := false
  fault  : Bool := false
  reqAt  : Nat := 0
  fellAt : Option Nat := none
  deriving DecidableEq, Repr

/-- The steering of one ring group (R290-R294). -/
structure SteerState where
  /-- slot in progress, the cadence time at which it began, and its length in ns: 0 for a static schedule -/
  slot  : Nat := 0
  startAt : Option Int := none
  lenNs : Nat := 0
  /-- a shift has replaced the schedule: the slot in progress ends at cadence time `endAt`, and the outputs are dark until the
  next slot start (R294) -/
  dark  : Bool := false
  endAt : Nat := 0
  /-- state words in force: `out` and `term` of Table 10.7 -/
  out   : BitVec 18 := 0x3FFFF
  term  : BitVec 6 := 0
  /-- outputs that launch a burst in this slot -/
  launched : Byte := 0
  /-- when the outputs of the last 1 ms took each of their states, newest first, in ns, and whether a slot began with it (R300) -/
  past  : List (Nat × BitVec 18 × Bool) := []
  deriving DecidableEq, Repr

/-! ### Chapter 11: fabric -/

/-- One ingress FIFO (R334-R336). -/
structure FifoState where
  packets  : List Packet := []
  underrun : Bool := false
  flush    : Bool := false
  /-- the code of the cut-through threshold that was in force when the header of the arriving packet came (R334) -/
  code     : Nat := 0
  /-- the consumer has started a packet before it was whole: the output that it holds, and the blocks that it has taken (R333, R334) -/
  started  : Bool := false
  out      : Nat := 0
  gone     : Nat := 0
  /-- the flags of that packet as it leaves (R320) -/
  outFlags : Byte := 0
  /-- the last block read: what a read of the empty FIFO returns (R335) -/
  lastRead : BitVec 257 := 0
  /-- blocks of class 0 and class 1 removed whose credits are owed (R315) -/
  owed0    : Nat := 0
  owed1    : Nat := 0
  /-- credits held for the transmitter of the same lane -/
  credit0  : Nat := 1024
  credit1  : Nat := 1024
  deriving DecidableEq, Repr

/-- A request outstanding at its source (R342). -/
structure Outstanding where
  reqId    : Word32
  deadline : Nat
  deriving DecidableEq, Repr

/-- Progress of an access that servant requests perform: bytes answered, the first failing status, and data read by place. -/
structure ServJob where
  off    : Nat
  len    : Nat
  acked  : Nat := 0
  status : Nat := 0
  got    : SMap (List (Byte × Bool)) := []
  deriving DecidableEq, Repr

/-- A memory request that this package serves (R343). -/
structure Serving where
  n      : Nat
  packet : Packet
  job    : ServJob
  deriving DecidableEq, Repr

/-- A record being executed by an issuer (R338). -/
structure OpRun where
  n      : Nat
  record : BitVec 512
  /-- the request sent for it -/
  reqId  : Option Word32
  /-- status once the reply has arrived, with its data -/
  reply  : Option (Byte × List Byte × Word32)
  /-- the access of the own package that performs it, and after the reply the write of its result -/
  job    : Option ServJob := none
  deriving DecidableEq, Repr

/-- One operation issuer (R337). -/
structure IssuerState where
  queue : List Flit := []
  out   : List OpRun := []
  next  : Nat := 0
  deriving DecidableEq, Repr

/-- Samples of one port and network (Table 11.11). -/
structure Congestion where
  samples : Word32 := 0
  bins    : List Nat := []
  stall   : Word32 := 0
  oldest  : BitVec 16 := 0
  bytesOut : Word64 := 0
  deriving DecidableEq, Repr

/-- One fabric unit (Table 11.10). -/
structure FabState where
  pktLost : Word32 := 0
  pktBad : Word32 := 0
  cutCnt : Word32 := 0
  mcDrop : Word32 := 0
  replyLate : Word32 := 0
  timeout : Word32 := 0
  errReply : Word32 := 0
  unreach : Word32 := 0
  flushed : Word32 := 0
  tokens   : List Int := [0, 0, 0, 0]
  /-- byte fractions of the tokens, and when they were counted, in ns -/
  tokenFrac : List Nat := [0, 0, 0, 0]
  tokensAt : Nat := 0
  issuers  : SMap IssuerState := []
  fifos    : SMap FifoState := []
  /-- request packets queued for injection, by class 0-3 -/
  inject   : SMap (List Packet) := []
  /-- injected requests and replies that wait for the router -/
  outq     : List Packet := []
  /-- transit flits waiting for a crossing, by destination die, and how many this unit has sent (R323) -/
  transitOut : SMap (List Flit) := []
  transitNo : Nat := 0
  /-- the packet that is arriving over the transit lane, by source die -/
  transitRx : SMap Packet := []
  /-- packets that arrived over the transit lane from another lightplane die -/
  transitIn : SMap (List Packet) := []
  /-- packets delivered to this package: the terminated wavelength by which each came to this die, and the packet -/
  local_   : List (Option (FibreId × WaveId) × Packet) := []
  /-- the last packet and the last control block sent on each lane, 16j + w -/
  sent     : SMap Packet := []
  sentCtl  : SMap (BitVec 257) := []
  /-- input served last at each output (R333) -/
  served   : SMap Nat := []
  /-- outputs that have already taken their copy of the packet at the head of an input (R327, R333) -/
  copied   : SMap (List Nat) := []
  out      : List Outstanding := []
  /-- memory requests being served, and how many there have been -/
  serving  : List Serving := []
  servNo   : Nat := 0
  /-- next sequence of each issuing unit, 64 x die + unit (R317) -/
  seq      : SMap Nat := []
  congestion : SMap Congestion := []
  deriving DecidableEq, Repr

/-! ### Chapter 12: machine -/

/-- One cube port's neighbour (Table 12.7, R357-R359). -/
structure NeighbourState where
  serial   : Word64 := 0
  state    : BitVec 2 := 0
  cause    : BitVec 3 := 0
  port     : BitVec 5 := 0
  numbered : Bool := false
  package  : BitVec 12 := 0
  delay    : Word32 := 0
  /-- candidate content and how often it came in a row -/
  cand     : BitVec 208 := 0
  candRun  : Nat := 0
  /-- neighbours held in this window: serial, port -/
  seen     : List (Word64 × Nat) := []
  /-- the port, or a port of the same cause, has been down and up since its quarantine: 1 in this window, 2 before it (R359) -/
  recycled : Nat := 0
  /-- ports named in the cause of the quarantine (R359) -/
  partners : List Nat := []
  /-- when the last usable beacon came, in ns (R366) -/
  usedAt   : Option Nat := none
  /-- transmit timestamps of the last 64 beacons (1/128 ns), newest first -/
  txTimes  : List Nat := []
  /-- last beacon received: its receive time, its transmit timestamp low half, stratum, flags -/
  rxTime   : Option Nat := none
  rxStamp  : Word32 := 0
  rxStratum : Byte := 0xFF
  rxFlags  : Byte := 0
  /-- last content sent -/
  sentDiscovery : BitVec 208 := 0
  sentBeacon : BitVec 208 := 0
  deriving DecidableEq, Repr

/-- The machine block and the cadence counter (Table 12.7, R364-R371). -/
structure MachState where
  stratum  : Byte := 0xFF
  parent   : BitVec 5 := 0x1F
  root     : Bool := false
  holdover : Bool := false
  locked   : Bool := false
  offset   : Word32 := 0
  steps    : Word32 := 0
  quar     : Word32 := 0
  /-- the count in units of 1/128,000,000 ns -/
  count    : Nat := 0
  /-- rate of the count against REFCLK, ppm (R367) -/
  ppm      : Int := 0
  goodRun  : Nat := 0
  holdSince : Nat := 0
  cadenceOut : Bool := false
  nbrs     : SMap NeighbourState := []
  deriving DecidableEq, Repr

/-! ### Chapter 13: collectives -/

/-- Progress of one chunk at one member (R374, R375, R382-R385). Members are named by their ranks; a byte carries the poison
flag of its word. -/
structure ChunkState where
  /-- the accumulator, or the data held for passing on -/
  acc      : Option (List (Byte × Bool)) := none
  /-- `acc` is final: the partial is complete, or the data has arrived whole -/
  full     : Bool := false
  /-- children whose partials are combined -/
  combined : List Nat := []
  /-- bytes received of the operand in progress, by sender -/
  rx       : SMap (List (Byte × Bool)) := []
  /-- whole operands that wait for their turn in the fixed order (R375), by sender -/
  ready    : SMap (List (Byte × Bool)) := []
  /-- children credited into a buffer of their own (R382) -/
  buffered : List Nat := []
  /-- receivers that have granted a credit for this chunk -/
  credits  : List Nat := []
  /-- senders that this member has credited -/
  granted  : List Nat := []
  /-- receivers to which the chunk has been sent, and those that acknowledged -/
  sentTo   : List Nat := []
  acked    : List Nat := []
  /-- the destination chunk is written -/
  written  : Bool := false
  /-- the destination gate has opened -/
  gateDst  : Bool := false
  /-- the write of the destination chunk is under way -/
  writing  : Bool := false
  /-- a buffer is held for `acc` -/
  holds    : Bool := false
  /-- when the last packet of the chunk arrived -/
  lastPkt  : Option Nat := none
  deriving DecidableEq, Repr

/-- An open collective (R381-R385). -/
structure CollState where
  slot     : Nat
  entry    : BitVec 512
  gen      : BitVec 4
  epoch    : BitVec 16
  rank     : Nat
  size     : Nat
  /-- cadence time of the start -/
  started  : Nat
  /-- by chunk: in an all-to-all, chunks received at their destination index and chunks sent at P x n more -/
  chunks   : SMap ChunkState := []
  stepsMade : Nat := 0
  /-- barrier: children that have arrived, own arrival sent, release received -/
  arrived  : List Nat := []
  arriveSent : Bool := false
  released : Bool := false
  /-- buffers held, two of them reserved, and buffers in use -/
  buffers  : Nat
  busy     : Nat := 0
  /-- chunks of which a packet has been sent and another has not: index in the packets, receiver, and when the last was sent (R392) -/
  sending  : List (Nat × Nat × Nat) := []
  deriving DecidableEq, Repr

/-- What an access of a collective engine is for (R379, R384). -/
inductive ChunkUse where
  /-- a source chunk is read -/
  | source
  /-- the member's own block of an all-to-all is read, to be written to its destination -/
  | own
  /-- a destination chunk is written -/
  | dest
  deriving DecidableEq, Repr

/-- A chunk access of a collective engine under way: its number, the collective's slot, and the source or destination chunk. -/
structure ChunkAccess where
  n     : Nat
  slot  : Nat
  use   : ChunkUse
  index : Nat
  job   : ServJob
  deriving DecidableEq, Repr

/-- One collective engine (Table 13.8). -/
structure EngineState where
  started : Word32 := 0
  closed : Word32 := 0
  aborted : Word32 := 0
  dropGen : Word32 := 0
  dropEpoch : Word32 := 0
  dropAge : Word32 := 0
  dropPel : Word32 := 0
  poison : Word32 := 0
  /-- free store, in 64 KiB units -/
  store    : Nat := 256
  lastAbort : Word32 := 0
  abortT   : Word64 := 0
  open_    : List CollState := []
  /-- posts checked and waiting to start: the die whose spoke posted it and its entry (R199, R380) -/
  checked  : List (Nat × BitVec 512) := []
  gens     : SMap (BitVec 4) := []
  lastEnd  : SMap Nat := []
  early    : List Packet := []
  /-- of these, the ones of a slot that has started, still to be applied (R390) -/
  applied : List Packet := []
  /-- aborts to be sent again: slot, time, packet (R393) -/
  resend   : List (Nat × Nat × Packet) := []
  /-- chunk accesses under way, oldest first, and how many there have been -/
  accesses : List ChunkAccess := []
  accessNo : Nat := 0
  deriving DecidableEq, Repr

/-! ### Chapter 14: hub -/

/-- One mailbox (Table 14.2). -/
structure MailboxState where
  cmdHead : BitVec 7 := 0
  cmdTail : BitVec 7 := 0
  rspHead : BitVec 7 := 0
  rspTail : BitVec 7 := 0
  cmdSel : BitVec 6 := 0
  rspSel : BitVec 6 := 0
  event : BitVec 4 := 0
  eventEn : BitVec 4 := 0
  rspCount : Word32 := 0
  logCount : Word32 := 0
  notifyLo : Word32 := 0
  notifyHi : Word32 := 0
  cmdSlots : SMap (BitVec 512) := []
  rspSlots : SMap (BitVec 512) := []
  /-- responses waiting for a free response slot (R402) -/
  waiting  : List (BitVec 512) := []
  notifiedAt : Option Nat := none
  deriving DecidableEq, Repr

/-- A command accepted by hub firmware (R403). -/
structure Accepted where
  mb    : SenderId
  slot  : BitVec 512
  rung  : Nat
  /-- its place in the order of acceptance -/
  no    : Nat
  /-- what hub firmware read of its buffer when it took it; none: it could not be read (R405, R411) -/
  data  : Option (List Byte) := some []
  deriving DecidableEq, Repr

/-- A long command that is open (R402). -/
structure OpenCmd where
  mb       : SenderId
  tag      : BitVec 16
  opcode   : Byte
  deadline : Nat
  /-- parameters, for what completes later -/
  slot     : BitVec 512
  deriving DecidableEq, Repr

/-- A log record (Table 14.14). -/
structure LogRec where
  seq   : Word32
  cls   : Byte
  code  : Byte
  flags : Byte
  unitKind : Byte
  cadence  : Word64
  sched    : Word64
  wall     : Word64
  die   : Byte
  unit  : BitVec 16
  /-- bytes 36-47, byte 36 least significant -/
  detail : BitVec 96
  deriving DecidableEq, Repr

/-- A cassette entry: key, value (little-endian), bytes (Table 14.7). -/
structure CassEntry where
  key   : Nat
  value : Nat
  size  : Nat
  deriving DecidableEq, Repr

/-- A shift waiting for its instant (R414, R416). -/
structure ShiftJob where
  entries : List CassEntry
  /-- cadence time, 0 for the next boundary -/
  at_     : Word64
  mb      : SenderId
  tag     : BitVec 16
  opcode  : Byte
  /-- false for a private cassette (R416) -/
  package : Bool
  demand  : Bool := false
  /-- whether the cadence counter was locked at the moment `at_`, once that has come (R414) -/
  locked  : Option Bool := none
  deriving DecidableEq, Repr

/-- A doorbell that hub firmware has not yet answered: the sender, when it rang, and the slot, once it is read or where a relay brings it
(R399, R403). -/
structure Bell where
  who  : SenderId
  rung : Nat
  slot : Option (BitVec 512) := none
  deriving DecidableEq, Repr

/-- An access of hub firmware to a buffer (R16): its number, how far it is, what was read before it, and the answer that follows when it
has been made: whether all that was asked for was written, and the results. -/
structure HubJob where
  n      : Nat
  job    : ServJob
  before : List (Byte × Bool) := []
  whole  : Bool := true
  res    : Nat := 0
  deriving DecidableEq, Repr

/-- A snapshot or telemetry read: it waits for its boundary, and then for its buffer to be written (R417). -/
structure SnapJob where
  mb     : SenderId
  slot   : BitVec 512
  isSnap : Bool
  wallAt : Nat
  job    : Option HubJob := none
  deriving DecidableEq, Repr

/-- A relayed command that awaits a response (R401). -/
structure RelayWait where
  mb       : MbId
  port     : CubePort
  opcode   : Byte
  tag      : BitVec 16
  /-- 0 once it has been answered `ACCEPTED` -/
  deadline : Nat
  deriving DecidableEq, Repr

/-- Hub firmware (chapter 14). -/
structure HubState where
  accepted : List Accepted := []
  current  : Option Accepted := none
  /-- commands accepted so far -/
  taken    : Nat := 0
  openCmds : List OpenCmd := []
  /-- mailbox served last of each class 0 host, 1 fabric, 3 sideband (R403) -/
  lastServed : SMap Nat := []
  cassette : List CassEntry := []
  owner    : Option SenderId := none
  checked  : Bool := false
  shifts   : List ShiftJob := []
  snaps    : List SnapJob := []
  /-- doorbells in the order in which they rang, and the command that is being taken while part of its buffer is read (R403) -/
  bells    : List Bell := []
  taking   : Option (Bell × HubJob) := none
  /-- the buffer access of the current command, and how many accesses there have been -/
  job      : Option HubJob := none
  jobNo    : Nat := 0
  /-- relays whose final response is awaited (R401) -/
  relays   : List RelayWait := []
  /-- injection of new requests is stopped by `DRAIN_FABRIC` (R325) -/
  stopped  : Bool := false
  shutdown : Bool := false
  /-- relay packets waiting to be sent to a neighbour's hub: port, response?, slot (R401) -/
  relayOut : List (CubePort × Bool × BitVec 512) := []
  deriving DecidableEq, Repr

/-- The loaded image (R409, R488). -/
structure ImageState where
  seed     : Word64 := 0
  plan     : BitVec 2 := 0
  entropy  : Bool := false
  /-- first 16 bytes of SHA-384 of the image -/
  digest   : BitVec 128 := 0
  /-- array table entries, by package array (Table 14.16) -/
  arrays   : SMap (BitVec 128) := []
  /-- slot entries at 256 x router + e, transfer registers at 16 x router + n, periods by die -/
  slots    : SMap Word64 := []
  xfers    : SMap Word64 := []
  periods  : SMap (BitVec 9) := []
  /-- `SP_LAYOUT` of each active spoke -/
  spokes   : SMap (Option Word32) := []
  coll     : SMap (BitVec 512) := []
  claimed  : BitVec 256 := 0
  budgets  : SMap (BitVec 16) := []
  opCounters : Word64 := 0
  deriving DecidableEq, Repr

/-! ### Chapters 15 to 17: power, thermal, pins -/

/-- One rail (Table 15.7). -/
structure RailState where
  setMv  : BitVec 16 := 0
  busErr : Bool := false
  pg     : Bool := false
  en     : Bool := false
  state  : BitVec 2 := 0
  vout   : BitVec 16 := 0
  iout   : BitVec 16 := 0
  faults : Word32 := 0
  /-- its enable has dropped in the power-down in progress, and its power-good input has not been seen low since (R426) -/
  fell   : Bool := false
  deriving DecidableEq, Repr

/-- The commit record of a calibration bank (Table 15.5). -/
structure CommitRec where
  magic      : Word32
  generation : Word32
  crc        : Word32
  len        : Word32
  self       : Word32
  deriving DecidableEq, Repr

/-- A calibration bank (Table 15.5): the header, the records of the body, and the commit record, or an erased one. -/
structure CalBank where
  magic    : Word32 := 0x314C4143
  format   : BitVec 16 := 0x0100
  generation : Word32
  bodyLen  : Word32
  serial   : Word64
  commit   : Option CommitRec := none
  vcoreMv  : List (BitVec 16)
  /-- port record: enables of LP0-LP3 -/
  portRec  : Word32
  biases   : SMap (BitVec 12)
  tones    : SMap (BitVec 6)
  trims    : List Byte
  deriving DecidableEq, Repr

/-- A hub firmware bank (R439, R441): the bytes of the image that `LOAD_IMAGE` wrote there, or the bank as manufactured, which passes
(log entry 37). -/
structure FwBank where
  version  : Word32
  rollback : BitVec 16
  image    : Option (List Byte)
  deriving DecidableEq, Repr

/-- Power and start (chapter 15). -/
structure PowerState where
  stage    : BitVec 4 := 1
  /-- the package is held in reset by a pin: `RESET_N` low -/
  inReset  : Bool := false
  vaoGood  : Bool := false
  /-- the straps as sampled at kickstand entry; `STRAP0` follows its fall (R480) -/
  strap    : BitVec 4 := 0
  rails    : SMap RailState := []
  /-- group being powered (0-10) and when its enables rose, in ns -/
  upGroup  : Option (Nat × Nat) := none
  downGroup : Option (Nat × Nat) := none
  /-- groups that this power-up has found good, from the first (R424) -/
  groupsUp : Nat := 0
  /-- the clocks that truing steps 1 and 3 start are running (R465) -/
  clocks   : Bool := false
  /-- no firmware bank has passed since the reset, and the AO log says so (R439) -/
  noBank   : Bool := false
  /-- the hub has moved to the AO clock (R481) -/
  refLost  : Bool := false
  /-- a truing fault stands (R433) -/
  truingFault : Bool := false
  truingBegun : Bool := false
  /-- when the beat was aligned, after which truing steps 5 and 6 run (R432) -/
  trainedAt : Nat := 0
  /-- `SHUTDOWN` mode 1 has posted its response, and the warm restart follows (R407) -/
  restart  : Bool := false
  railsHeld : Bool := false
  /-- `INTERLOCK_N` is low, or has been high for less than 1 s (Table 10.14) -/
  interlockLow : Bool := false
  calA     : Option CalBank := none
  calB     : Option CalBank := none
  loadedCal : Option Bool := none
  /-- steps of R438 that an open `CAL_SAVE` has done, 0 to 4 -/
  calStep  : Nat := 0
  fwA      : FwBank := { version := 0, rollback := 0, image := none }
  fwB      : FwBank := { version := 0, rollback := 0, image := none }
  /-- the bank in use: true B -/
  fwBank   : Bool := false
  fwStartAt : Nat := 0
  fwTried  : Nat := 0
  /-- domains in reset, with the `RESET_DOMAIN` that waits (R444) -/
  resets   : List (ResetDomain × Nat) := []
  /-- FIFO handshakes in progress: domain and step 1-4 (R468) -/
  resync   : List (ResetDomain × Nat) := []
  deriving DecidableEq, Repr

/-- One sensor site (Table 16.6, R450-R452). -/
structure SensorState where
  samples  : List Int := []
  filtered : BitVec 16 := 0
  effective : BitVec 16 := 0
  suspect  : Bool := false
  cause    : BitVec 2 := 0
  suspects : Word32 := 0
  max      : BitVec 16 := 0x8000
  min      : BitVec 16 := 0x7FFF
  /-- filtered readings and medians of the valid neighbours at the last 2,000 samples, newest first (R452) -/
  hist     : List (Int × Option Int) := []
  /-- ms in which no test has held -/
  clearMs   : Nat := 0
  deriving DecidableEq, Repr

/-- Power management and thermal control (Table 16.7, R455-R463). -/
structure ThermState where
  sensors  : SMap SensorState := []
  nPower   : BitVec 4 := 0
  nThermal : BitVec 4 := 0
  /-- the last 10 samples in units of 0.1 mW, newest first (R461) -/
  power    : List Nat := []
  overLimit : Bool := false
  /-- energy since cold reset in uJ -/
  energyUj : Nat := 0
  brakeChg : Word32 := 0
  gearChg  : Word32 := 0
  raisedAt : Option Nat := none
  fellAt   : Option Nat := none
  /-- since when P_avg has been at most 0.95 L, and 0.6 L (R462, R463) -/
  belowSince : Option Nat := none
  lowSince : Option Nat := none
  /-- since when `BRAKE_N` has been 8 or more, and 0 (R463) -/
  brakeHiSince : Option Nat := none
  brakeZeroSince : Option Nat := some 0
  thermalAt : Nat := 0
  /-- reading of the hottest throttled part at the last 100 ms step (R462) -/
  hottest  : Option Int := none
  /-- 2 bits per die, 2 bits per thermistor -/
  logic    : BitVec 16 := 0
  thermistor : BitVec 16 := 0
  ring     : Byte := 0
  /-- since when each region has been more than 0.5 °C from its setpoint, by lightplane die -/
  ringBandSince : List (Nat × Nat) := []
  /-- heater drive of each region, 0-4,095 -/
  regionHeat : SMap Nat := []
  /-- an orderly stop stands that ends below the restart value of the vaults, or of the logic (R222, R456) -/
  stopVault : Bool := false
  stopLogic : Bool := false
  /-- the orderly stop waits for its Hub service hold (R222) -/
  stopping : Bool := false
  /-- hub firmware has raised the shift demand for a gear change (R463) -/
  gearJob  : Bool := false
  deriving DecidableEq, Repr

/-- Boundary scan and the sideband (R482, R483). -/
structure TapState where
  /-- the instruction as loaded -/
  ir      : BitVec 5 := 0x01
  /-- `TRST_N` is low, as its pull-down leaves it (Table 17.4) -/
  trstLow : Bool := true
  /-- the data register between `TDI` and `TDO`, the bit next to `TDO` first -/
  dr      : List Bool := []
  /-- what `PRELOAD` or `EXTEST` last put into the output stage of the boundary register, by cell -/
  latch   : List Bool := []
  /-- the level of `TDO`; none is high impedance, which it has unless shifting -/
  tdo     : Option Bool := none
  dynAddr : Option (BitVec 7) := none
  /-- a sideband transfer in progress: the bytes written so far, the two of the offset first, and the bytes read -/
  transfer : Option (List Byte × Nat) := none
  deriving DecidableEq, Repr

/-- The state of the package. -/
structure State where
  /-- commands waiting, first in, first out -/
  pending  : List Instr := []
  freeCtr  : Nat := 0
  nowNs    : Nat := 0
  beat     : BeatState := {}
  prog     : ProgramState := {}
  counters : SMap DieCounters := []
  chunk    : SMap Word32 := []
  abort    : Word64 := 0
  hubCount : SMap Word32 := []
  arrays   : SMap ArrayState := []
  /-- `UNPARK` issue beats of the last 2,000 beats, by die (R97) -/
  unparks  : SMap (List Nat) := []
  /-- ramps started: beat and number in it, by die (R97) -/
  ramps    : SMap (Nat × Nat) := []
  routers  : SMap RouterState := []
  crossings : SMap CrossingState := []
  derailleurs : SMap DerailleurState := []
  spokes   : SMap SpokeState := []
  /-- collective post queues, by die: entry index, `SCHED_BEAT` of the post and the spoke that posted (R199, R380) -/
  collPosts : SMap (List (Nat × Nat × Nat)) := []
  mem      : List Host.Cell := []
  /-- memory and its marks at the start of the beat in progress, from the first beat-domain write of the beat (R26) -/
  beatMem  : Option (List Host.Cell × SMap EccMark) := none
  /-- local-store bytes written in this beat, with the rank of the writer: 3 drain, 2 chainline, 1 spoke (R109) -/
  t0Writes : SMap Nat := []
  /-- marks by aligned word number, package-local offset / 8 -/
  ecc      : SMap EccMark := []
  vaults   : SMap VaultState := []
  dieMem   : SMap DieMem := []
  memStacks : SMap StackState := []
  repairs  : List Repair := []
  channels : SMap ChannelState := []
  /-- the channel of each copy engine that has the next access (R237) -/
  engineTurn : SMap Nat := []
  /-- requests to local stores and scratchpads that wait to enter the chainline: of copy engine e of die d at 4d + e, of the
  lightplane die beside die d at 32 + d (R25, R133) -/
  localReqs : SMap (List ServantReq) := []
  ends     : SMap EndState := []
  ports    : SMap PortState := []
  rings    : SMap RingState := []
  lasers   : SMap LaserState := []
  steer    : SMap SteerState := []
  fabs     : SMap FabState := []
  mach     : MachState := {}
  engines  : SMap EngineState := []
  mbs      : SMap MailboxState := []
  hub      : HubState := {}
  /-- settings in force by cassette key, little-endian; unlisted keys hold their reset value -/
  settings : SMap Nat := []
  image    : Option ImageState := none
  hubLog   : List LogRec := []
  aoLog    : List LogRec := []
  hubSeq   : Word32 := 0
  aoSeq    : Word32 := 0
  /-- the _HI halves latched by reads of _LO registers: key from class, instance and offset (R49) -/
  latches  : SMap Word32 := []
  power    : PowerState := {}
  therm    : ThermState := {}
  tap      : TapState := {}
  deriving DecidableEq, Repr

/-- The package right after reset: stage 0x1 with `VAO` not yet good, so that `PWROK_AO_RISE` enters kickstand; every field
at its reset value (R429, R435, R442; log entries 1 to 5 and 20). -/
def State.reset : State := {}

end Sys2Proof.Machine
end

