-- ==== Sys2Proof/Machine/Ops.lean ====
section
/-! DEFINITION. The named operations over the state: sparse maps, bit fields, memory with its check bits and poison,
time, settings, counters, logs, faults and the hold demands. -/

namespace Sys2Proof.Machine

open Sys2Proof

/-- What a command answers. -/
abbrev Out := Host.Outcome State Fault Refusal

/-- The next state. -/
abbrev ok (s : State) : Out := Host.Outcome.next s

/-! ### Sparse maps -/

/-- The entry of `k`, if one is listed. -/
def SMap.get? {α : Type} : SMap α → Nat → Option α
  | [], _ => none
  | (i, v) :: m, k => if i = k then some v else SMap.get? m k

/-- The value at `k`, the default `d` where none is listed. -/
def SMap.get {α : Type} (d : α) (m : SMap α) (k : Nat) : α := (SMap.get? m k).getD d

/-- Remove the entry of `k`. -/
def SMap.erase {α : Type} : SMap α → Nat → SMap α
  | [], _ => []
  | (i, v) :: m, k => if i = k then SMap.erase m k else (i, v) :: SMap.erase m k

/-- List `v` at `k`, keeping the order. -/
def SMap.insert {α : Type} : SMap α → Nat → α → SMap α
  | [], k, v => [(k, v)]
  | (i, u) :: m, k, v =>
    if k < i then (k, v) :: (i, u) :: m
    else if i = k then (k, v) :: m
    else (i, u) :: SMap.insert m k v

/-- Write `v` at `k`: a value equal to the default removes the entry. -/
def SMap.set {α : Type} [DecidableEq α] (d : α) (m : SMap α) (k : Nat) (v : α) : SMap α :=
  if v = d then SMap.erase m k else SMap.insert m k v

/-- Every entry lies above `lo` and differs from the default, in strictly rising order. -/
def SMap.wfFrom {α : Type} [DecidableEq α] (d : α) : Option Nat → SMap α → Bool
  | _, [] => true
  | lo, (i, v) :: m => (match lo with | none => true | some l => decide (l < i)) && decide (v ≠ d) && SMap.wfFrom d (some i) m

/-- The canonical form of a sparse map. -/
def SMap.wf {α : Type} [DecidableEq α] (d : α) (m : SMap α) : Bool := SMap.wfFrom d none m

/-- Memory in canonical form: addresses strictly rising, no entry equal to the 0 that an unlisted address reads as. -/
def Memory.wf (m : List Host.Cell) : Bool := SMap.wf (0 : Byte) m

/-! ### Bit fields, byte order (R6) -/

/-- Bits `[hi:lo]` of a word. -/
def fld {n : Nat} (w : BitVec n) (hi lo : Nat) : Nat := (w.toNat >>> lo) % 2 ^ (hi + 1 - lo)

/-- Bit `i` of a word. -/
def bitOf {n : Nat} (w : BitVec n) (i : Nat) : Bool := w.toNat.testBit i

/-- Bits `[hi:lo]` of a number. -/
def nfld (w hi lo : Nat) : Nat := (w >>> lo) % 2 ^ (hi + 1 - lo)

/-- A word with bits `[hi:lo]` replaced. -/
def setFld {n : Nat} (w : BitVec n) (hi lo v : Nat) : BitVec n :=
  BitVec.ofNat n (w.toNat - (fld w hi lo) * 2 ^ lo + (v % 2 ^ (hi + 1 - lo)) * 2 ^ lo)

/-- A two's complement number of `n` bits. -/
def sext (n v : Nat) : Int := (BitVec.ofNat n v).toInt

/-- The number whose bytes these are, byte 0 least significant. -/
def leNat : List Byte → Nat
  | [] => 0
  | b :: bs => b.toNat + 256 * leNat bs

/-- The low `n` bytes of a number, byte 0 first. -/
def leBytes : Nat → Nat → List Byte
  | 0, _ => []
  | n + 1, v => BitVec.ofNat 8 v :: leBytes n (v / 256)

/-- Bytes `off` to `off + n - 1` of a 64-byte slot as a number. -/
def slotN {w : Nat} (b : BitVec w) (off n : Nat) : Nat := (b.toNat >>> (8 * off)) % 2 ^ (8 * n)

/-- 32-bit half words of a 64-bit counter. -/
def lo32 (w : Word64) : Word32 := w.setWidth 32
def hi32 (w : Word64) : Word32 := (w >>> 32).setWidth 32

/-- 1 for true. -/
def bit1 (b : Bool) : Nat := if b then 1 else 0

/-- The most frequent mask test: bit `i` of a number. -/
def nbit (v i : Nat) : Bool := v.testBit i

/-! ### CRC-16 and the fuse block (R229, R273) -/

/-- The CRC-16 with polynomial 0x1021 of the low `n` bits of a number, from the top down, from register `r` on. -/
def crc16F : Nat → Nat → Nat → Nat
  | 0, _, r => r
  | n + 1, v, r =>
    let top := (r / 2 ^ 15) ^^^ (v / 2 ^ n % 2)
    crc16F n v (r * 2 % 2 ^ 16 ^^^ (if top = 1 then 0x1021 else 0))

/-- One bit of the CRC-32 of IEEE 802.3, which takes bit 0 of a byte first. -/
def crc32Bit (r : Nat) : Nat := r / 2 ^^^ (if r % 2 = 1 then 0xEDB88320 else 0)

/-- The CRC-32 of IEEE 802.3 of a list of bytes (R436). -/
def crc32 (bs : List Byte) : Nat :=
  (bs.foldl (fun r b => (List.range 8).foldl (fun r _ => crc32Bit r) (r ^^^ b.toNat)) 0xFFFFFFFF) ^^^ 0xFFFFFFFF

/-- Bytes `off` to `off + n - 1` of a die's fuse block as a number (Table 9.8). -/
def fuseN (d : Fin 12) (off n : Nat) : Nat := leNat ((List.range n).map fun i => Config.fuseByte d (off + i))

/-- The repair entries of a die, of which it holds at most 256 (Tables 9.8 and 9.9). -/
def fuseRepairs (d : Fin 12) : List Word32 := (List.range (min (fuseN d 12 2) 256)).map fun i => BitVec.ofNat 32 (fuseN d (32 + 4 * i) 4)

/-- The fuse CRC of a die: over bytes 0-13 and the entries, each from bit 7 down, from 0xFFFF (R273). -/
def fuseCrc (d : Fin 12) : Nat :=
  ((List.range 14) ++ (List.range (4 * min (fuseN d 12 2) 256)).map (32 + ·)).foldl (fun r i => crc16F 8 (Config.fuseByte d i).toNat r) 0xFFFF

/-- The fuse CRC of a die is good (R273). -/
def fuseGood (d : Fin 12) : Bool := fuseCrc d == fuseN d 14 2

/-! ### Units -/

def State.array (s : State) (g : Nat) : ArrayState := SMap.get {} s.arrays g
def State.setArray (s : State) (g : Nat) (a : ArrayState) : State := { s with arrays := SMap.set {} s.arrays g a }
def State.router (s : State) (r : Nat) : RouterState := SMap.get {} s.routers r
def State.setRouter (s : State) (r : Nat) (a : RouterState) : State := { s with routers := SMap.set {} s.routers r a }
def State.crossing (s : State) (x : Nat) : CrossingState := SMap.get {} s.crossings x
def State.setCrossing (s : State) (x : Nat) (a : CrossingState) : State := { s with crossings := SMap.set {} s.crossings x a }
def State.derailleur (s : State) (d : Nat) : DerailleurState := SMap.get {} s.derailleurs d
def State.setDerailleur (s : State) (d : Nat) (a : DerailleurState) : State := { s with derailleurs := SMap.set {} s.derailleurs d a }
def State.spoke (s : State) (p : Nat) : SpokeState := SMap.get {} s.spokes p
def State.setSpoke (s : State) (p : Nat) (a : SpokeState) : State := { s with spokes := SMap.set {} s.spokes p a }
def State.vault (s : State) (g : Nat) : VaultState := SMap.get {} s.vaults g
def State.setVault (s : State) (g : Nat) (a : VaultState) : State := { s with vaults := SMap.set {} s.vaults g a }
def State.dmem (s : State) (d : Nat) : DieMem := SMap.get {} s.dieMem d
def State.setDmem (s : State) (d : Nat) (a : DieMem) : State := { s with dieMem := SMap.set {} s.dieMem d a }
def State.stk (s : State) (t : Nat) : StackState := SMap.get {} s.memStacks t
def State.setStk (s : State) (t : Nat) (a : StackState) : State := { s with memStacks := SMap.set {} s.memStacks t a }
def State.channel (s : State) (c : Nat) : ChannelState := SMap.get {} s.channels c
def State.setChannel (s : State) (c : Nat) (a : ChannelState) : State := { s with channels := SMap.set {} s.channels c a }
def State.linkEnd (s : State) (e : Nat) : EndState := SMap.get {} s.ends e
def State.setLinkEnd (s : State) (e : Nat) (a : EndState) : State := { s with ends := SMap.set {} s.ends e a }
def State.port (s : State) (f : Nat) : PortState := SMap.get {} s.ports f
def State.setPort (s : State) (f : Nat) (a : PortState) : State := { s with ports := SMap.set {} s.ports f a }
def State.wave (s : State) (f w : Nat) : WaveState := SMap.get {} (s.port f).waves w
def State.setWave (s : State) (f w : Nat) (a : WaveState) : State :=
  s.setPort f { s.port f with waves := SMap.set {} (s.port f).waves w a }
/-- Ring `r` of die `k` stands at 844k + r. -/
def State.ring (s : State) (k r : Nat) : RingState := SMap.get {} s.rings (844 * k + r)
def State.setRing (s : State) (k r : Nat) (a : RingState) : State := { s with rings := SMap.set {} s.rings (844 * k + r) a }
def State.laser (s : State) (n : Nat) : LaserState := SMap.get {} s.lasers n
def State.setLaser (s : State) (n : Nat) (a : LaserState) : State := { s with lasers := SMap.set {} s.lasers n a }
/-- Ring group w of die k (w = 2-15) stands at 16k + w. -/
def State.steerG (s : State) (k w : Nat) : SteerState := SMap.get {} s.steer (16 * k + w)
/-- The events of the last 1 ms of a history, newest first, and the one before them. -/
def recentOf {α : Type} (now : Nat) (l : List (Nat × α)) : List (Nat × α) :=
  let new := l.takeWhile fun x => decide (now < x.1 + 1000000)
  new ++ (l.drop new.length).take 1
/-- A state of a ring group is noted as it begins (R300). -/
def SteerState.noted (old a : SteerState) (now : Nat) : SteerState :=
  if old.out = a.out ∧ old.slot = a.slot ∧ old.startAt = a.startAt then a
  else { a with past := recentOf now ((now, a.out, old.slot != a.slot || old.startAt != a.startAt) :: old.past) }
def State.setSteerG (s : State) (k w : Nat) (a : SteerState) : State :=
  { s with steer := SMap.set {} s.steer (16 * k + w) ((s.steerG k w).noted a s.nowNs) }
def State.fab (s : State) (k : Nat) : FabState := SMap.get {} s.fabs k
def State.setFab (s : State) (k : Nat) (a : FabState) : State := { s with fabs := SMap.set {} s.fabs k a }
def State.nbr (s : State) (q : Nat) : NeighbourState := SMap.get {} s.mach.nbrs q
def State.setNbr (s : State) (q : Nat) (a : NeighbourState) : State :=
  { s with mach := { s.mach with nbrs := SMap.set {} s.mach.nbrs q a } }
def State.engine (s : State) (k : Nat) : EngineState := SMap.get {} s.engines k
def State.setEngine (s : State) (k : Nat) (a : EngineState) : State := { s with engines := SMap.set {} s.engines k a }
def State.mb (s : State) (m : Nat) : MailboxState := SMap.get {} s.mbs m
def State.setMb (s : State) (m : Nat) (a : MailboxState) : State := { s with mbs := SMap.set {} s.mbs m a }
def State.dieCounters (s : State) (d : Nat) : DieCounters := SMap.get {} s.counters d
def State.setDieCounters (s : State) (d : Nat) (a : DieCounters) : State := { s with counters := SMap.set {} s.counters d a }
def State.setBeat (s : State) (b : BeatState) : State := { s with beat := b }
def State.setProg (s : State) (p : ProgramState) : State := { s with prog := p }
def State.setHub (s : State) (h : HubState) : State := { s with hub := h }
def State.setMach (s : State) (m : MachState) : State := { s with mach := m }
def State.setPower (s : State) (p : PowerState) : State := { s with power := p }
def State.setTherm (s : State) (t : ThermState) : State := { s with therm := t }
def State.setTap (s : State) (t : TapState) : State := { s with tap := t }
def State.setMem (s : State) (m : List Host.Cell) : State := { s with mem := m }
def State.setEcc (s : State) (e : SMap EccMark) : State := { s with ecc := e }

/-- Apply `f` to every number below `n`, in rising order. -/
def forAll (n : Nat) (s : State) (f : State → Nat → State) : State := (List.range n).foldl f s

/-- Change every listed entry of a map; an entry that becomes the default is no longer listed. -/
def SMap.update {α : Type} [DecidableEq α] (d : α) (m : SMap α) (f : Nat → α → α) : SMap α :=
  (m.map fun e => (e.1, f e.1 e.2)).filter fun e => decide (e.2 ≠ d)

/-! ### Beats and the program (R35, R48) -/

/-- `SCHED_BEAT` of the beat in progress. -/
def State.sched (s : State) : Nat := s.beat.schedBeat.toNat
/-- `WALL_BEAT` of the beat in progress. -/
def State.wall (s : State) : Nat := s.beat.wallBeat.toNat
/-- The beat in progress is live. -/
def State.live (s : State) : Bool := s.beat.aligned && !s.beat.held
/-- Program beat (R48). -/
def State.pbeat (s : State) : Nat := (s.beat.schedBeat - s.prog.beat0).toNat
/-- A live beat of a running program: the only beats in which beat-domain units execute (R35). No beat of a faulted program
follows the beat of its fault (R46; log entry 7). -/
def State.runs (s : State) : Bool :=
  s.live && s.prog.running &&
    (match s.beat.faultAt with | none => true | some w => w == s.wall)

/-- The dies at the two ends of a link; lightplane die k is 8 + k (Table 1.2; log entry 9). -/
def linkDies (l : Nat) : Nat × Nat :=
  ([(0, 1), (1, 2), (2, 3), (4, 5), (5, 6), (6, 7), (0, 4), (1, 5), (2, 6), (3, 7), (0, 8), (1, 8), (2, 9), (3, 9), (4, 10), (5, 10),
    (6, 11), (7, 11)][l]?).getD (0, 0)

/-- The die at an end. -/
def endDie (e : Nat) : Nat := if e % 2 = 0 then (linkDies (e / 2)).1 else (linkDies (e / 2)).2

/-- A die raises a wait demand; a hub service demand stands, of which the fault demands are some (R46, R265). -/
def Demands.wait (d : Demands) : Bool := decide (d.waits ≠ 0)
def Demands.hub (d : Demands) : Bool := d.service || decide (d.faults ≠ 0)

/-- The compute die of a waiting unit. -/
def waitDie : WaitUnit → Nat
  | .array g => g.val / 2048
  | .spoke p => p.val / 256

/-- The demands that stand now (R38): the waits and faults of the dies, shift, hub service, and a value of n set in this beat (R46, R50,
R265). -/
def State.demandsNow (s : State) : Demands :=
  { waits := s.beat.waits.foldl (fun m w => m ||| (1 <<< waitDie w.unit)) 0, faults := s.beat.faultDemands
    shift := s.beat.shiftDemand, service := s.beat.hubDemand
    brake := ((s.beat.brakePending.filter fun p => p.2 == s.wall).getLast?).map (·.1) }

/-- The demands that stood at the end of wall beat `v`, one of the last 16, or that stand now (R38). -/
def State.demandsAt (s : State) (v : Nat) : Demands :=
  if v = s.wall then s.demandsNow
  else if v < s.wall then (s.beat.history[s.wall - 1 - v]?).getD {}
  else {}

/-- The link ends that capture die `o`'s bits of the hold word on their way to die `d`, in turn: along o's row to d's column, then along
the column (R266). -/
def holdRoute (o d : Nat) : List Nat :=
  let a := o % 4
  let b := d % 4
  let row := (List.range (max a b - min a b + 1)).map fun k => o / 4 * 4 + (if a ≤ b then a + k else a - k)
  let dies := row ++ (if o / 4 = d / 4 then [] else [d])
  (dies.zip (dies.drop 1)).filterMap fun (x, y) => (List.range 20).find? fun e => endDie (e ^^^ 1) == x && endDie e == y

/-- The bits that were wrong, after the vote, in the hold word launched towards end `e` in wall beat `v` (R265). -/
def State.holdErr (s : State) (e v : Nat) : BitVec 24 := (((s.linkEnd e).holdErrs.find? fun x => x.1 == v).map (·.2)).getD 0

/-- The bits of the hold word that die `o` originates: its wait and fault demand, and at site 0 the hub's (Table 9.6). -/
def holdMask (o : Nat) : BitVec 24 := BitVec.ofNat 24 (3 * 2 ^ (8 + 2 * o) + (if o = 0 then 0xFF else 0))

/-- Which of die `o`'s bits of wall beat `w` are wrong where they reach die `d`: each end on their way forwards what it captured, and site 0
takes the hub's bits from the hub word that it captured (R266, R275). -/
def State.wrongBits (s : State) (o d w : Nat) : BitVec 24 :=
  ((holdRoute o d).zipIdx.foldl (fun m (e, j) => m ^^^ s.holdErr e (w + 1 + 2 * j)) (if o = 0 then s.holdErr 20 (w - 1) &&& 0xFF else 0)) &&& holdMask o

/-- The demands of wall beat `w` as the hold controllers have them: each reads the hold words that its die captured. Where copies of a
word were wrong in two ways at once and controllers would disagree, a beat that any of them holds is held (DESIGN CHOICE, log
entry 89). -/
def State.seenDemands (s : State) (w : Nat) : Demands :=
  let d := s.demandsAt w
  if s.ends.all fun x => x.2.holdErrs.isEmpty then d
  else
    let any (o : Nat) (have_ : Bool) (i : Nat) : Bool := (List.range 8).any fun x => have_ != bitOf (s.wrongBits o x w) i
    let dies (have_ : Byte) (k : Nat) : Byte :=
      BitVec.ofNat 8 (((List.range 8).map fun o => if any o (bitOf have_ o) (8 + 2 * o + k) then 2 ^ o else 0).sum)
    { d with waits := dies d.waits 0, faults := dies d.faults 1, shift := any 0 d.shift 7, service := any 0 d.service 6 }

/-- Frame beat k is held by the brake pattern of n (R50). -/
def brakeHolds (n w : Nat) : Bool := decide ((w % 16) * n / 16 < (w % 16 + 1) * n / 16)

/-- The frame of wall beat `w` starts at least 16 wall beats after a brake value was set (R50). -/
def brakeDue (w : Nat) (p : BitVec 4 × Nat) : Bool := decide (p.2 + 16 ≤ w / 16 * 16)

/-- `BRAKE_N` in wall beat `w`, from this beat on: each new value applies from the first frame that starts at least 16 wall beats
after it was set (R50). -/
def State.brakeAt (s : State) (w : Nat) : Nat :=
  (((s.beat.brakePending.filter (brakeDue w)).getLast?.map (·.1)).getD s.beat.brakeN).toNat

/-- Wall beat `w`, one of the next 16, is live (R40). -/
def State.liveAt (s : State) (w : Nat) : Bool :=
  let d := if w < 16 then {} else s.seenDemands (w - 16)
  !(d.wait || d.shift || d.hub) && !brakeHolds (s.brakeAt w) w

/-- Held beats left, this one included, before the next live beat, where that is one of the next 16. -/
def State.heldLeft (s : State) : Option Nat := ((List.range 16).find? fun j => s.liveAt (s.wall + j + 1)).map (· + 1)

/-- This held beat lies within 16 wall beats before a live beat (R40). -/
def State.inReleaseNotice (s : State) : Bool := s.beat.held && (List.range 16).any fun j => s.liveAt (s.wall + j + 1)

/-- One draw of the model's free values (log entry 3). -/
def State.draw (s : State) : Word64 × State := (Config.freeValue s.freeCtr, { s with freeCtr := s.freeCtr + 1 })

/-- The gear divisor g in force (R51). -/
def State.gearDiv (s : State) : Nat := 2 ^ s.beat.gear.toNat

/-- A domain is in reset (R444). -/
def State.inDomainReset (s : State) (d : ResetDomain) : Bool := s.power.resets.any fun r => r.1 == d

/-- No traffic enters the crossing of a domain: it is in reset, or its pointers have not re-synchronised (R445, R468). -/
def State.crossingShut (s : State) (d : ResetDomain) : Bool := s.inDomainReset d || s.power.resync.any fun r => r.1 == d

/-! ### Settings (Table 14.12) -/

/-- The reset value of each cassette key, little-endian. -/
def keyReset (key : Nat) : Nat :=
  if key = 0x0100 then 1                                   -- R55
  else if key = 0x0103 then 0x000103                       -- service order 3, 1, 0
  else if key = 0x0200 then 3600                           -- R416
  else if 0x0400 ≤ key && key < 0x0440 && 2 ≤ key % 16 then   -- R290: one slot, every output DARK
    1 + 256 * (key % 16) + 2 ^ 64 * (0x3FFFF + 8 * 2 ^ 32)
  else if key = 0x0500 then 1680 + 65536 * 1520            -- Table 16.4
  else if key = 0x0502 then 1040 * (1 + 2 ^ 16 + 2 ^ 32 + 2 ^ 48)
  else 0

/-- The value in force of a key. -/
def State.setting (s : State) (key : Nat) : Nat := (SMap.get? s.settings key).getD (keyReset key)

/-- Put a value in force. -/
def State.setSetting (s : State) (key v : Nat) : State :=
  { s with settings := if v = keyReset key then SMap.erase s.settings key else SMap.insert s.settings key v }

/-- `ORDERED` (R55). -/
def State.ordered (s : State) : Bool := nbit (s.setting 0x0100) 0
/-- The service state (R408). -/
def State.service (s : State) : Bool := nbit (s.setting 0x0102) 0
/-- The package number, where it is valid (R360). -/
def State.packageNo (s : State) : Option Nat :=
  if nbit (s.setting 0x0601) 31 then some (s.setting 0x0601 % 4096) else none
/-- The package's own number for R20: 0 while it is unnumbered (R487). -/
def State.ownPackage (s : State) : Nat := s.packageNo.getD 0
/-- The package is bound to a peloton (Table 12.4). -/
def State.bound (s : State) : Bool := nbit (s.setting 0x0600) 15
/-- The peloton number sent in headers: 0xFFF while unbound (R361). -/
def State.peloton (s : State) : Nat := if s.bound then s.setting 0x0600 % 4096 else 0xFFF
/-- The layout epoch in force (R391). -/
def State.epoch (s : State) : Nat := s.setting 0x0602 % 65536

/-! ### Cadence time (R364) -/

/-- The cadence count in units of 1/128 ns. -/
def State.cad128 (s : State) : Nat := s.mach.count / 1000000
/-- Cadence time in ns. -/
def State.cadNs (s : State) : Nat := s.mach.count / 128000000
/-- The cadence time that records carry: 0 while unlocked. -/
def State.cadStamp (s : State) : Nat := if s.mach.locked then s.cadNs else 0

/-- A cadence time has come. -/
def State.timeHere (s : State) (t : Word64) : Bool := t != 0 && decide (t.toNat ≤ s.cadNs)

/-- A start or a shift at a cadence time holds whether the counter was locked at that moment (R410, R414). -/
def State.noteInstants (s : State) : State :=
  let here (t : Word64) (l : Option Bool) : Option Bool := if s.timeHere t then some (l.getD s.mach.locked) else l
  { s with
    prog := { s.prog with startLocked := (s.prog.startAt.map fun t => here t s.prog.startLocked).getD none },
    hub := { s.hub with shifts := s.hub.shifts.map fun j => { j with locked := here j.at_ j.locked } } }

/-- One ns of wall time passes: where the CAD clock runs (R465), the cadence count advances at its own rate (R367; log entry 2). -/
def State.tick (s : State) : State :=
  let m : MachState :=
    if s.power.clocks then { s.mach with count := (Int.ofNat s.mach.count + 128 * (1000000 + s.mach.ppm)).toNat } else s.mach
  State.noteInstants { s with nowNs := s.nowNs + 1, mach := m }

/-! ### Rails (Table 15.7) -/

def State.rail (s : State) (n : Nat) : RailState := SMap.get {} s.power.rails n
def State.setRail (s : State) (n : Nat) (x : RailState) : State :=
  s.setPower { s.power with rails := SMap.set {} s.power.rails n x }

/-- VIO is on: its power-good input is high. -/
def State.vioOn (s : State) : Bool := (s.rail 1).pg

/-! ### The package-local map (Table 1.7) -/

/-- A populated place of the package-local map. -/
inductive Region where
  | vault (g : Nat) | hbm (t : Nat) | cap (t : Nat) | store (g : Nat) | scratch (p : Nat)
  deriving DecidableEq, Repr

def vaultBase (g : Nat) : Nat := g * 0x1000000
def hbmBase (t : Nat) : Nat := 0x10000000000 + t * 0x1000000000
def capBase (t : Nat) : Nat := 0x20000000000 + t * 0x4000000000
def storeBase (g : Nat) : Nat := 0x80000000000 + g * 0x40000
def scratchBase (p : Nat) : Nat := 0x90000000000 + p * 0x10000

/-- The region of an offset and the offset within it; none where Table 1.7 lists nothing populated (R10, R21). -/
def regionOf (off : Nat) : Option (Region × Nat) :=
  if off < 0x4000000000 then
    if off % 0x1000000 < 0xC00000 then some (.vault (off / 0x1000000), off % 0x1000000) else none
  else if off < 0x10000000000 then none
  else if off < 0x20000000000 then
    let o := off - 0x10000000000
    some (.hbm (o / 0x1000000000), o % 0x1000000000)
  else if off < 0x60000000000 then
    let o := off - 0x20000000000
    if o % 0x4000000000 < 0x3000000000 then some (.cap (o / 0x4000000000), o % 0x4000000000) else none
  else if off < 0x80000000000 then none
  else if off < 0x80100000000 then
    let o := off - 0x80000000000
    if o % 0x40000 < 0x30000 then some (.store (o / 0x40000), o % 0x40000) else none
  else if off < 0x90000000000 then none
  else if off < 0x90008000000 then
    let o := off - 0x90000000000
    some (.scratch (o / 0x10000), o % 0x10000)
  else none

/-- The size of the populated part of a region. -/
def Region.size : Region → Nat
  | .vault _ => 0xC00000 | .hbm _ => 0x1000000000 | .cap _ => 0x3000000000 | .store _ => 0x30000 | .scratch _ => 0x10000

/-- The die a region belongs to. -/
def Region.die : Region → Nat
  | .vault g => g / 2048 | .hbm t => t / 2 | .cap t => t / 2 | .store g => g / 2048 | .scratch p => p / 256

/-- The range lies whole within one populated region. -/
def inOneRegion (off len : Nat) : Bool :=
  match regionOf off with
  | some (r, o) => decide (o + len ≤ r.size)
  | none => false

/-! ### Memory with its check bits and poison (R204, R214, R216, R232) -/

/-- The byte at an offset. -/
def State.byte (s : State) (a : Nat) : Byte := SMap.get 0 s.mem a

/-- Store one byte. -/
def State.putByte (s : State) (a : Nat) (b : Byte) : State := s.setMem (SMap.set 0 s.mem a b)

/-- The offset lies in a vault of a die that has lost its vaults (R223). -/
def State.lostAt (s : State) (a : Nat) : Bool := decide (a < 0x4000000000) && (s.dmem (a / 0x800000000)).lost

/-- The mark of the aligned word that holds an offset. -/
def State.mark (s : State) (a : Nat) : Option EccMark :=
  match SMap.get? s.ecc (a / 8) with
  | some .good => none
  | some m => some m
  | none => if s.lostAt a then some .poison else none

/-- Replace the mark of the aligned word that holds an offset. -/
def State.setMark (s : State) (a : Nat) (m : Option EccMark) : State :=
  let unlisted := if s.lostAt a then EccMark.poison else .good
  let k := m.getD .good
  s.setEcc (if k = unlisted then SMap.erase s.ecc (a / 8) else SMap.insert s.ecc (a / 8) k)

/-- Count a corrected word of a region (R204, R214, R230). -/
def State.countCe (s : State) : Region → State
  | .vault g => s.setDmem (g / 2048) { s.dmem (g / 2048) with vltCe := (s.dmem (g / 2048)).vltCe + 1 }
  | .store g => s.setDmem (g / 2048) { s.dmem (g / 2048) with t0Ce := (s.dmem (g / 2048)).t0Ce + 1 }
  | .scratch p => s.setDmem (p / 256) { s.dmem (p / 256) with t0Ce := (s.dmem (p / 256)).t0Ce + 1 }
  | .hbm t => s.setStk t { s.stk t with ce := (s.stk t).ce + 1 }
  | .cap t => s.setStk (16 + t) { s.stk (16 + t) with ce := (s.stk (16 + t)).ce + 1 }

/-- Count an uncorrectable word or block, and hold the first such offset (R214, R228, R232, R233). -/
def State.countUe (s : State) (r : Region) (off inOff : Nat) : State :=
  match r with
  | .vault g =>
    let m := s.dmem (g / 2048)
    s.setDmem (g / 2048) { m with vltUe := m.vltUe + 1, vltUeAddr := some (m.vltUeAddr.getD (off / 8 * 8)) }
  | .store g => s.setDmem (g / 2048) { s.dmem (g / 2048) with t0Ue := (s.dmem (g / 2048)).t0Ue + 1 }
  | .scratch p => s.setDmem (p / 256) { s.dmem (p / 256) with t0Ue := (s.dmem (p / 256)).t0Ue + 1 }
  | .hbm t => s.setStk t { s.stk t with ue := (s.stk t).ue + 1, ueAddr := some ((s.stk t).ueAddr.getD inOff) }
  | .cap t =>
    s.setStk (16 + t) { s.stk (16 + t) with ue := (s.stk (16 + t)).ue + 1, ueAddr := some ((s.stk (16 + t)).ueAddr.getD inOff) }

/-- Read the check bits of the aligned word at an offset: is it delivered poisoned, and what is counted. Words of HBM4
carry only the poison of their block; its counts are made per block access (R228). -/
def State.checkWord (s : State) (a : Nat) : Bool × State :=
  match s.mark a, regionOf a with
  | none, _ => (false, s)
  | some .poison, _ => (true, s)
  | some .uncorrectable, some (r, o) => (true, s.countUe r a (o / 8 * 8))
  | some .uncorrectable, none => (true, s)
  | some .single, some (r, _) => (false, s.countCe r)
  | some .single, none => (false, s)
  | some .good, _ => (false, s)

/-- Read `n` bytes of one aligned word, with the word's poison flag. -/
def State.readWord (s : State) (a n : Nat) : List (Byte × Bool) × State :=
  let (p, s') := s.checkWord a
  ((List.range n).map fun i => (s.byte (a + i), p), s')

/-- Read a range word by word; `fuel` is at least the number of words. -/
def State.readMemF : Nat → State → Nat → Nat → List (Byte × Bool) × State
  | 0, s, _, _ => ([], s)
  | fuel + 1, s, a, n =>
    if n = 0 then ([], s)
    else
      let k := min n (8 - a % 8)
      let (bs, s1) := s.readWord a k
      let (rest, s2) := State.readMemF fuel s1 (a + k) (n - k)
      (bs ++ rest, s2)

/-- Read a range: its bytes, each with the poison flag of its word, and the counts of its checks. -/
def State.readMem (s : State) (a n : Nat) : List (Byte × Bool) × State := State.readMemF (n / 8 + 2) s a n

/-- The bytes of a range, with no check: what the storage holds. -/
def State.bytes (s : State) (a n : Nat) : List Byte := (List.range n).map fun i => s.byte (a + i)

/-- `n` bytes from an offset whose values the spec leaves open: free values, numbered from `c` (log entry 94). -/
def looseBytes (m : List Host.Cell) (a n c : Nat) : List Host.Cell :=
  (List.range n).foldl (fun m i => SMap.set 0 m (a + i) (BitVec.ofNat 8 ((Config.freeValue (c + i / 8)).toNat / 2 ^ (8 * (i % 8))))) m

/-- Store consecutive bytes. -/
def State.putBytes (s : State) (a : Nat) : List Byte → State
  | [] => s
  | b :: bs => (s.putByte a b).putBytes (a + 1) bs

/-- Write bytes that lie in one aligned word: a whole word takes the flag of its data; a part merges, reading the word as
any read does, and leaves a bad word poisoned (R204, R211, R216). -/
def State.writeWord (s : State) (a : Nat) (bs : List (Byte × Bool)) : State :=
  let bad := bs.any (·.2)
  let s1 : State :=
    if bs.length = 8 then s.setMark a (if bad then some .poison else none)
    else
      let (p, s0) := s.checkWord a
      s0.setMark a (if p || bad then some .poison else none)
  s1.putBytes a (bs.map (·.1))

/-- Write a range word by word. -/
def State.writeMemF : Nat → State → Nat → List (Byte × Bool) → State
  | 0, s, _, _ => s
  | fuel + 1, s, a, bs =>
    if bs.isEmpty then s
    else
      let k := 8 - a % 8
      State.writeMemF fuel (s.writeWord a (bs.take k)) (a + k) (bs.drop k)

/-- Write a range, with a poison flag on each byte. -/
def State.writeMem (s : State) (a : Nat) (bs : List (Byte × Bool)) : State := State.writeMemF (bs.length / 8 + 2) s a bs

/-- Write fresh data, which carries no poison. -/
def State.writeFresh (s : State) (a : Nat) (bs : List Byte) : State := s.writeMem a (bs.map fun b => (b, false))

/-- Write bytes of one aligned word, each at its own offset: the word is whole when all eight are written. -/
def State.writeWordBytes (s : State) (word : Nat) (ws : List (Nat × Byte × Bool)) : State :=
  let whole := (List.range 8).all fun i => ws.any fun w => w.1 == 8 * word + i
  let bad := ws.any (·.2.2)
  let s1 : State :=
    if whole then s.setMark (8 * word) (if bad then some .poison else none)
    else
      let (p, s0) := s.checkWord (8 * word)
      s0.setMark (8 * word) (if p || bad then some .poison else none)
  ws.foldl (fun s w => s.putByte w.1 w.2.1) s1

/-- Write scattered bytes, word by word; of two bytes for one address the later in the list stays. -/
def State.writeScatter (s : State) (ws : List (Nat × Byte × Bool)) : State :=
  ((ws.map fun w => w.1 / 8).eraseDups).foldl (fun s w => s.writeWordBytes w (ws.filter fun x => x.1 / 8 == w)) s

/-- Keep what memory holds at the start of the beat, before the first write of the beat (R26). -/
def State.keepStart (s : State) : State :=
  match s.beatMem with
  | some _ => s
  | none => if s.beat.aligned then { s with beatMem := some (s.mem, s.ecc) } else s

/-- The state with memory as it stood at the start of the beat (R26). -/
def State.atStart (s : State) : State :=
  match s.beatMem with
  | some (m, e) => { s with mem := m, ecc := e }
  | none => s

/-- A read in the beat domain: what a range held at the start of the beat, with the counts of its checks (R26, R109). -/
def State.readStart (s : State) (a n : Nat) : List (Byte × Bool) × State :=
  let (bs, s1) := s.atStart.readMem a n
  (bs, { s1 with mem := s.mem, ecc := s.ecc })

/-- An instruction fetch, which reads its words like any read of tier 0: its checks count (R204, R232). -/
def State.countFetch (s : State) (a n : Nat) : State := (s.readStart a n).2

/-- A beat-domain write to tier 0 by a port of the given rank: a byte that a port of higher rank writes in the same beat
keeps that port's value (R109). Reads of the same beat still return what stood before (R26). -/
def State.writeTier0 (s : State) (rank : Nat) (ws : List (Nat × Byte × Bool)) : State :=
  let won := ws.filter fun w => SMap.get 0 s.t0Writes w.1 ≤ rank
  let s1 := s.keepStart.writeScatter won
  { s1 with t0Writes := won.foldl (fun m w => SMap.set 0 m w.1 rank) s1.t0Writes }

/-! ### Counters (Table 4.10) -/

/-- Read a die's beat-domain value of a counter: signal counters and copies (R42, R121). -/
def State.counterCopy (s : State) (d id : Nat) : Word32 :=
  if id < 0x100 then SMap.get 0 (s.dieCounters d).signal id else SMap.get 0 (s.dieCounters d).copies (id - 0x100)

/-- The value that waits compare (R122). -/
def State.counterValue (s : State) (d id : Nat) : Word32 :=
  if id < 0x100 then s.counterCopy d id
  else s.counterCopy d id - SMap.get 0 (s.dieCounters d).base (id - 0x100)

/-- A counter value c is at or above a target t (R41). -/
def atOrAbove (c t : Word32) : Bool := decide ((c - t).toNat < 2 ^ 31)

/-- Step a signal counter, at the end of the beat; steps of one beat add up (R120). -/
def State.stepSignal (s : State) (d id step : Nat) : State :=
  let c := s.dieCounters d
  s.setDieCounters d { c with steps := SMap.set 0 c.steps id (SMap.get 0 c.steps id + BitVec.ofNat 32 step) }

/-- The steps of the beat that ends take effect (R120). -/
def DieCounters.endBeat (c : DieCounters) : DieCounters :=
  { c with steps := [], signal := c.steps.foldl (fun m e => SMap.set 0 m e.1 (SMap.get 0 m e.1 + e.2)) c.signal }

/-- The abort flag of a chunk counter in a die's beat-domain copies (R45). -/
def State.abortCopyBit (s : State) (d n : Nat) : Bool := bitOf (s.dieCounters d).abortCopy n

/-- Step a chunk counter, on every die alike (R384). -/
def State.stepChunk (s : State) (n : Nat) : State :=
  { s with chunk := SMap.set 0 s.chunk n (SMap.get 0 s.chunk n + 1) }

/-! ### Logs, events and faults (R418, R419, R46) -/

/-- Set bits of `MB_EVENT` in every mailbox and count a log record there (Table 14.2). -/
def State.noteLog (s : State) (ev : BitVec 4) : State :=
  forAll 32 s fun s m =>
    s.setMb m { s.mb m with event := (s.mb m).event ||| ev, logCount := (s.mb m).logCount + 1 }

/-- Append to a log of `cap` records: a full log loses its oldest, and the new record carries flag [0] (R418). -/
def appendLog (cap : Nat) (l : List LogRec) (r : LogRec) : List LogRec :=
  if l.length < cap then l ++ [r] else l.drop (l.length + 1 - cap) ++ [{ r with flags := r.flags ||| 1 }]

/-- Write a record: the hub log always, the AO log for classes 0x02 and 0x03 (R418). `die` 0xFF is none. -/
def State.log (s : State) (cls code unitKind : Nat) (die unit detail : Nat) : State :=
  let r : LogRec :=
    { seq := s.hubSeq, cls := BitVec.ofNat 8 cls, code := BitVec.ofNat 8 code,
      flags := if s.ordered then 2 else 0, unitKind := BitVec.ofNat 8 unitKind,
      cadence := BitVec.ofNat 64 s.cadStamp, sched := s.beat.schedBeat, wall := s.beat.wallBeat,
      die := BitVec.ofNat 8 die, unit := BitVec.ofNat 16 unit, detail := BitVec.ofNat 96 detail }
  let s1 : State := { s with hubLog := appendLog 4096 s.hubLog r, hubSeq := s.hubSeq + 1 }
  let s2 : State :=
    if cls = 1 then s1
    else { s1 with aoLog := appendLog 256 s1.aoLog { r with seq := s1.aoSeq }, aoSeq := s1.aoSeq + 1 }
  s2.noteLog (if cls = 3 then 0b0010 else 0b0110)

/-- An event record (class 0x03) of the hub or of no unit. -/
def State.logEvent (s : State) (code unitKind die unit detail : Nat) : State := s.log 3 code unitKind die unit detail

/-- Put the package into a fault hold on the demand of a die (R46, R265). -/
def State.faultDemand (s : State) (d : Nat) : State :=
  s.setBeat { s.beat with faultHold := true, faultDemands := s.beat.faultDemands ||| (1 <<< d),
                          faultAt := some (s.beat.faultAt.getD s.wall) }

/-- A program fault (class 0x01): its record, and the fault hold of R46. `detail` is bytes 36 to 47. -/
def State.raiseFault (s : State) (code unitKind d unit detail : Nat) : State :=
  (s.log 1 code unitKind d unit detail).faultDemand d

/-- A machine check (class 0x02): its record in both logs, and the fault hold (R217, R264). -/
def State.machineCheck (s : State) (code unitKind d unit detail : Nat) : State :=
  let s1 := (s.log 2 code unitKind d unit detail).faultDemand d
  s1.setBeat { s1.beat with machineCheck := true }

/-- Detail of a fault at a word or instruction: index, counter, value (Table 14.15). -/
def wordDetail (idx ctr val : Nat) : Nat := idx % 65536 + 65536 * (ctr % 65536) + 2 ^ 32 * (val % 2 ^ 32)

/-- Program fault of an array (unit_kind 0). -/
def State.arrayFault (s : State) (code g idx : Nat) (ctr : Nat := 0) (val : Nat := 0) : State :=
  s.raiseFault code 0 (g / 2048) (g % 2048) (wordDetail idx ctr val)

/-- A program fault of a sequencer at word `idx`: the array is faulted (R105). -/
def State.faultWord (s : State) (code g idx : Nat) (ctr : Nat := 0) (val : Nat := 0) : State :=
  let s1 := s.arrayFault code g idx ctr val
  s1.setArray g { s1.array g with seqState := 5 }

/-- A program fault of the word that would issue next. -/
def State.seqFault (s : State) (code g : Nat) (ctr : Nat := 0) (val : Nat := 0) : State := s.faultWord code g (s.array g).pc ctr val

/-- Live beats that a run in progress has spent: this one counts if the run ends in it (R201). -/
def State.runSpent (s : State) (p : Nat) (ends : Bool) : Nat :=
  let a := s.spoke p
  if a.mode = 1 then s.pbeat + (if ends && s.live then 1 else 0) - a.runS else 0

/-- Program fault of a spoke (unit_kind 1): the spoke is faulted, and a run in progress has spent its beats (R201, R202). The
record gives the place `at_` of the instruction in the scratchpad, in instructions (log entry 11). -/
def State.faultInstr (s : State) (code p at_ : Nat) (ctr : Nat := 0) (val : Nat := 0) : State :=
  let a := s.spoke p
  (s.setSpoke p { a with mode := 3, runBeats := a.runBeats + BitVec.ofNat 32 (s.runSpent p true) }).raiseFault code 1 (p / 256) (p % 256)
    (wordDetail (at_ / 4) ctr val)

/-- Program fault of the instruction at `PC`. -/
def State.spokeFault (s : State) (code p : Nat) (ctr : Nat := 0) (val : Nat := 0) : State :=
  s.faultInstr code p (s.spoke p).pc.toNat ctr val

/-- Consumption of a poisoned word by a unit (R217). `off` is the package-local offset of the word. -/
def State.poisonCheck (s : State) (unitKind d unit off : Nat) : State := s.machineCheck 0x40 unitKind d unit (off / 8 * 8)

/-! ### Unit names -/

/-- A wait fault of a unit, at its `WAIT`: 0x02 `WAIT_TIMEOUT`, 0x03 `WAIT_ABORTED` (R44, R45). -/
def State.waitFault (s : State) (code : Nat) (u : WaitUnit) (ctr val : Nat) : State :=
  match u with
  | .array g => s.faultWord code g.val (s.array g.val).portPc ctr val
  | .spoke p => s.faultInstr code p.val ((s.spoke p.val).pc - 4).toNat ctr val

end Sys2Proof.Machine
end

