-- ==== Sys2Proof/Machine/Flags.lean ====
section
/-! DEFINITION. The number formats (R69-R72), exact arithmetic and rounding (R65, R83-R89), and every flag that arithmetic
sets (R66, R67, R84, R85). -/

namespace Sys2Proof.Machine

open Sys2Proof

/-- How a format spells infinities and NaNs (Table 3.3). -/
inductive Specials where
  | none | nanOnly | ieee
  deriving DecidableEq, Repr

/-- A binary floating-point format: exponent bits, fraction bits, bias (Table 3.3). -/
structure Fmt where
  expBits : Nat
  manBits : Nat
  bias    : Nat
  special : Specials
  deriving DecidableEq, Repr

def e4m3 : Fmt := { expBits := 4, manBits := 3, bias := 7, special := .nanOnly }
def e5m2 : Fmt := { expBits := 5, manBits := 2, bias := 15, special := .ieee }
def e3m2 : Fmt := { expBits := 3, manBits := 2, bias := 3, special := .none }
def e2m3 : Fmt := { expBits := 2, manBits := 3, bias := 1, special := .none }
def e2m1 : Fmt := { expBits := 2, manBits := 1, bias := 1, special := .none }
def bf16 : Fmt := { expBits := 8, manBits := 7, bias := 127, special := .ieee }
def fp32 : Fmt := { expBits := 8, manBits := 23, bias := 127, special := .ieee }

/-- The floating-point format of a code of Table 3.2. -/
def fmtOf (code : Nat) : Option Fmt :=
  match code with
  | 0 => some e4m3 | 1 => some e5m2 | 2 => some e3m2 | 3 => some e2m3 | 4 => some e2m1 | 7 => some bf16 | 8 => some fp32
  | _ => none

/-- Bits of one element of a format code (R72). -/
def codeBits (code : Nat) : Nat :=
  match code with
  | 0 | 1 | 5 => 8
  | 2 | 3 => 6
  | 4 => 4
  | 7 => 16
  | 8 | 9 => 32
  | _ => 8

/-- A value: NaN, an infinity, or plus or minus m x 2^e. -/
inductive FVal where
  | nan
  | inf (neg : Bool)
  | fin (neg : Bool) (m : Nat) (e : Int)
  deriving DecidableEq, Repr

/-- The exponent of the smallest subnormal, the spacing of the subnormals. -/
def Fmt.emin (f : Fmt) : Int := 1 - (f.bias : Int) - (f.manBits : Int)

/-- Bits of the format. -/
def Fmt.width (f : Fmt) : Nat := 1 + f.expBits + f.manBits

/-- The value of an element (R70). -/
def Fmt.decode (f : Fmt) (bits : Nat) : FVal :=
  let neg := bits.testBit (f.expBits + f.manBits)
  let ex := (bits >>> f.manBits) % 2 ^ f.expBits
  let m := bits % 2 ^ f.manBits
  let top := 2 ^ f.expBits - 1
  if f.special = .ieee ∧ ex = top then (if m = 0 then .inf neg else .nan)
  else if f.special = .nanOnly ∧ ex = top ∧ m = 2 ^ f.manBits - 1 then .nan
  else if ex = 0 then .fin neg m f.emin
  else .fin neg (2 ^ f.manBits + m) (f.emin + (ex : Int) - 1)

/-- Bits of the largest finite magnitude. -/
def Fmt.maxBits (f : Fmt) : Nat :=
  match f.special with
  | .ieee => (2 ^ f.expBits - 1) * 2 ^ f.manBits - 1
  | .nanOnly => 2 ^ (f.expBits + f.manBits) - 2
  | .none => 2 ^ (f.expBits + f.manBits) - 1

/-- Bits of a magnitude that has been brought to M x 2^q with M below 2^(manBits + 1) and q at least `emin`, as if the
exponent range had no upper limit. -/
def Fmt.magBits (f : Fmt) (M : Nat) (q : Int) : Nat := (q - f.emin).toNat * 2 ^ f.manBits + M

/-- Bits of infinity. -/
def Fmt.infBits (f : Fmt) : Nat := (2 ^ f.expBits - 1) * 2 ^ f.manBits

/-- Bits of the format's NaN (R85); +0 where it has none. -/
def Fmt.nanBits (f : Fmt) : Nat :=
  match f.special with
  | .ieee => if f.manBits = 2 then f.infBits + 2 else f.infBits + 2 ^ (f.manBits - 1)
  | .nanOnly => 2 ^ (f.expBits + f.manBits) - 1
  | .none => 0

/-- The sign bit of the format, if set. -/
def Fmt.sign (f : Fmt) (neg : Bool) : Nat := if neg then 2 ^ (f.expBits + f.manBits) else 0

/-- How a magnitude between two neighbours is rounded: toward zero, to nearest even, or up when `r` is below the 16-bit
fraction (R89). -/
inductive Rnd where
  | rtz | rne | sr (r : Nat)
  deriving DecidableEq, Repr

/-- Drop the low `k` bits of `m` and round: the quotient and whether anything was lost. -/
def roundShift (rnd : Rnd) (m k : Nat) : Nat × Bool :=
  -- far below half of the last place: nothing of 2 ^ k need be computed
  let small : Bool := decide (Nat.log2 m + 2 ≤ k)
  let q := m >>> k
  let r := if small then m else m % 2 ^ k
  let up : Bool :=
    match rnd with
    | .rtz => false
    | .rne => !small && (decide (2 * r > 2 ^ k) || (decide (2 * r = 2 ^ k) && q.testBit 0))
    | .sr x => decide (x < (r * 65536) >>> k)
  (if up then q + 1 else q, decide (r ≠ 0))

/-- Round m x 2^e to the format's precision with no upper limit of exponent: the bits of the magnitude (R84) and whether it
was inexact. -/
def Fmt.roundMag (f : Fmt) (rnd : Rnd) (m : Nat) (e : Int) : Nat × Bool :=
  if m = 0 then (0, false)
  else
    let top : Int := (Nat.log2 m : Int) + e
    let q : Int := max (top - (f.manBits : Int)) f.emin
    if q ≤ e then (f.magBits (m * 2 ^ (e - q).toNat) q, false)
    else
      let (M, x) := roundShift rnd m (q - e).toNat
      (f.magBits M q, x)

/-! ### Exact sums -/

/-- A signed dyadic number v x 2^e. -/
structure Dy where
  v : Int
  e : Int
  deriving DecidableEq, Repr

def Dy.zero : Dy := { v := 0, e := 0 }

/-- The exact sum. -/
def Dy.add (a b : Dy) : Dy :=
  if a.e ≤ b.e then { v := a.v + b.v * 2 ^ (b.e - a.e).toNat, e := a.e }
  else { v := a.v * 2 ^ (a.e - b.e).toNat + b.v, e := b.e }

/-- The exact product. -/
def Dy.mul (a b : Dy) : Dy := { v := a.v * b.v, e := a.e + b.e }

def Dy.ofFin (neg : Bool) (m : Nat) (e : Int) : Dy := { v := if neg then -(m : Int) else m, e := e }

/-- The value of a dyadic number; a zero has the sign given. -/
def Dy.toF (d : Dy) (zeroNeg : Bool) : FVal := if d.v = 0 then .fin zeroNeg 0 0 else .fin (decide (d.v < 0)) d.v.natAbs d.e

/-- The product of two values under IEEE 754 (R66). -/
def FVal.mul : FVal → FVal → FVal
  | .nan, _ => .nan
  | _, .nan => .nan
  | .inf a, .inf b => .inf (a != b)
  | .inf a, .fin b m _ => if m = 0 then .nan else .inf (a != b)
  | .fin a m _, .inf b => if m = 0 then .nan else .inf (a != b)
  | .fin a m e, .fin b n g => .fin (a != b) (m * n) (e + g)

/-- Multiply by 2^k, exactly. -/
def FVal.scale (k : Int) : FVal → FVal
  | .fin a m e => .fin a m (e + k)
  | x => x

def FVal.neg : FVal → FVal
  | .nan => .nan
  | .inf a => .inf (!a)
  | .fin a m e => .fin (!a) m e

/-- The exact sum of two values under IEEE 754; an exact zero of unlike signs is +0. -/
def FVal.add : FVal → FVal → FVal
  | .nan, _ => .nan
  | _, .nan => .nan
  | .inf a, .inf b => if a = b then .inf a else .nan
  | .inf a, .fin _ _ _ => .inf a
  | .fin _ _ _, .inf b => .inf b
  | .fin a m e, .fin b n g => Dy.toF (Dy.add (Dy.ofFin a m e) (Dy.ofFin b n g)) (a && b)

/-- The sign of a value. -/
def FVal.isNeg : FVal → Bool
  | .nan => false
  | .inf a => a
  | .fin a _ _ => a

/-- The value is zero. -/
def FVal.isZero : FVal → Bool
  | .fin _ m _ => m == 0
  | _ => false

/-- a < b for values that are not NaN. -/
def FVal.lt (a b : FVal) : Bool :=
  match a, b with
  | .nan, _ => false
  | _, .nan => false
  | .inf a, .inf b => a && !b
  | .inf a, .fin _ _ _ => a
  | .fin _ _ _, .inf b => !b
  | .fin s m e, .fin t n g => decide ((Dy.add (Dy.ofFin s m e) (Dy.ofFin (!t) n g)).v < 0)

/-- a = b for values that are not NaN. -/
def FVal.eq (a b : FVal) : Bool :=
  match a, b with
  | .nan, _ => false
  | _, .nan => false
  | x, y => !x.lt y && !y.lt x

/-- The FP32 value of a word. -/
def f32 (w : Word32) : FVal := fp32.decode w.toNat

/-- The one NaN of FP32 results. -/
def nan32 : Word32 := 0x7FC00000#32

/-- Round to FP32, nearest even: the word, overflow to infinity, and inexactness. -/
def toF32 (x : FVal) : Word32 × Bool × Bool :=
  match x with
  | .nan => (nan32, false, false)
  | .inf a => (BitVec.ofNat 32 (fp32.sign a + fp32.infBits), false, false)
  | .fin a m e =>
    let (b, inex) := fp32.roundMag .rne m e
    if fp32.maxBits < b then (BitVec.ofNat 32 (fp32.sign a + fp32.infBits), true, true)
    else (BitVec.ofNat 32 (fp32.sign a + b), false, inex)

/-! ### The cell (R63-R67) -/

/-- `ARRAY_FLAGS` bits (Table 3.9). -/
def flagAccNan : BitVec 6 := 0b000001
def flagAccOvf : BitVec 6 := 0b000010
def flagIntSat : BitVec 6 := 0b000100
def flagDrainSat : BitVec 6 := 0b001000
def flagDrainNan : BitVec 6 := 0b010000
def flagDrainUnf : BitVec 6 := 0b100000

/-- The factor of a scale byte (R71): none for NaN. -/
def scaleExp (e : Byte) : Option Int := if e = 0xFF then none else some ((e.toNat : Int) - 127)

/-- One product of a beat: two elements and the exponents of their scales, `none` for a NaN scale. -/
structure Prod where
  a  : FVal
  b  : FVal
  sa : Option Int
  sb : Option Int
  deriving DecidableEq, Repr

/-- The exact scaled product (R65); a NaN scale makes it NaN (R66). -/
def Prod.value (p : Prod) : FVal :=
  match p.sa, p.sb with
  | some x, some y => FVal.scale (x + y) (FVal.mul p.a p.b)
  | _, _ => .nan

/-- acc + sum, rounded once (R65, R66): the accumulator and the flags set. A beat with no product leaves it. -/
def cellBeat (acc : Word32) (ps : List Prod) : Word32 × BitVec 6 :=
  let sum := (ps.map Prod.value).foldl FVal.add (.fin false 0 0)
  if f32 acc = .nan ∨ sum = .nan then (nan32, flagAccNan)
  else if sum.isZero then (acc, 0)
  else
    match FVal.add (f32 acc) sum with
    | .nan => (nan32, flagAccNan)
    | r => let (w, ovf, _) := toF32 r; (w, if ovf then flagAccOvf else 0)

/-- INT32 saturation. -/
def satI32 (v : Int) : Int := if v > 2147483647 then 2147483647 else if v < -2147483648 then -2147483648 else v

/-- The INT8 accumulation (R67). -/
def cellBeatInt (acc : Word32) (ps : List (Int × Int)) : Word32 × BitVec 6 :=
  let v := acc.toInt + (ps.map fun p => p.1 * p.2).foldl (· + ·) 0
  (BitVec.ofInt 32 (satI32 v), if satI32 v = v then 0 else flagIntSat)

/-! ### Drains (R83-R91) -/

/-- Rounding modes of a drain (Table 4.6). -/
inductive DrainMode where
  | rne | rtz | sat | sr (r : Nat)
  deriving DecidableEq, Repr

def DrainMode.rnd : DrainMode → Rnd
  | .rne => .rne | .rtz => .rtz | .sat => .rne | .sr r => .sr r

/-- What a value beyond range converts to (Table 3.7). -/
def drainOverflow (f : Fmt) (mode : DrainMode) (neg : Bool) : Nat × BitVec 6 :=
  match mode, f.special with
  | .rne, .nanOnly => (f.sign neg + f.nanBits, 0)
  | .rne, .ieee => (f.sign neg + f.infBits, 0)
  | _, _ => (f.sign neg + f.maxBits, flagDrainSat)

/-- The largest finite magnitude compared with m x 2^e: is the value above it before rounding (R84, `SR`). -/
def Fmt.aboveMax (f : Fmt) (m : Nat) (e : Int) : Bool :=
  match f.decode f.maxBits with
  | .fin _ M q => FVal.lt (.fin false M q) (.fin false m e)
  | _ => false

/-- Convert one value to a floating-point output format (R83-R85, R89): its bits and the flags set. -/
def drainConvert (f : Fmt) (mode : DrainMode) (x : FVal) : Nat × BitVec 6 :=
  match x with
  | .nan => if f.special = .none then (0, flagDrainNan) else (f.nanBits, 0)
  | .inf a => drainOverflow f mode a
  | .fin a m e =>
    let beyondSr : Bool := match mode with | .sr _ => f.aboveMax m e | _ => false
    if beyondSr then drainOverflow f mode a
    else
      let (b, _) := f.roundMag mode.rnd m e
      if f.maxBits < b then drainOverflow f mode a
      else (f.sign a + b, if b = 0 ∧ m ≠ 0 then flagDrainUnf else 0)

/-- Convert an INT32 accumulator to INT8: shift, round and saturate (R88). -/
def drainInt8 (mode : DrainMode) (acc : Word32) (shift : Nat) : Nat × BitVec 6 :=
  let v := acc.toInt
  let neg := decide (v < 0)
  let lim := if neg then 128 else 127
  let above : Bool := match mode with | .sr _ => decide (lim * 2 ^ shift < v.natAbs) | _ => false
  let (q, _) := roundShift mode.rnd v.natAbs shift
  let clamp := above || decide (lim < q)
  let mag : Nat := if clamp then lim else q
  (((BitVec.ofInt 8 (if neg then -(mag : Int) else mag)).toNat),
   if clamp then flagDrainSat else if q = 0 ∧ v ≠ 0 then flagDrainUnf else 0)

/-- emax of R87. -/
def emaxOf (code : Nat) : Int :=
  match code with
  | 0 => 8 | 1 => 15 | 2 => 4 | _ => 2

/-- floor(log2) of a non-zero magnitude. -/
def log2Dy (m : Nat) (e : Int) : Int := (Nat.log2 m : Int) + e

/-- The derived scale of a row (R87). -/
def derivedScale (code : Nat) (row : List FVal) : Nat :=
  if row.any (· == .nan) then 0xFF
  else
    let fins := row.filterMap fun x => match x with | .fin _ m e => if m = 0 then none else some (log2Dy m e) | _ => none
    match fins with
    | [] => 127
    | l :: ls => ((ls.foldl max l) - emaxOf code + 127 |> fun z => if z < 0 then 0 else if z > 254 then 254 else z).toNat

/-- The seeded generator (R90). -/
def srMix (z : Word64) : Word64 :=
  let z1 := (z ^^^ (z >>> 30)) * 0xD6E8FEB86659FD93#64
  let z2 := (z1 ^^^ (z1 >>> 27)) * 0xA3B195354A39B70D#64
  z2 ^^^ (z2 >>> 31)

/-- The 16 random bits of output element `e` of a drain issued at program beat `b` on array `g` (R90). -/
def srBits (seed : Word64) (g b e : Nat) : Nat :=
  let c := BitVec.ofNat 64 ((b % 2 ^ 44) * 2 ^ 20 ||| g * 64 ||| e)
  ((srMix (seed ^^^ srMix (c + 0x9E3779B97F4A7C15#64))) >>> 48).toNat

/-! ### Packing (R72) -/

/-- Bytes that a row of `n` elements of a code touches (R107). -/
def rowBytes (code n : Nat) : Nat :=
  match codeBits code with
  | 6 => (n + 3) / 4 * 3
  | 4 => (n + 1) / 2
  | b => n * (b / 8)

/-- Pack elements, element 0 in the least significant bits; every width of R72 packs so. -/
def packBits (w : Nat) : List Nat → Nat
  | [] => 0
  | x :: xs => x % 2 ^ w + 2 ^ w * packBits w xs

/-- Element `i` of packed bytes held as a little-endian number. -/
def elemOf (w : Nat) (packed i : Nat) : Nat := (packed >>> (w * i)) % 2 ^ w

/-- The bytes of a packed row. -/
def packRow (code : Nat) (xs : List Nat) : List Byte := leBytes (rowBytes code xs.length) (packBits (codeBits code) xs)

end Sys2Proof.Machine
end

