-- ==== Sys2Proof/Machine/Operands.lean ====
section
/-! DEFINITION. The operand forms: fields of array words and their effective addresses (R106, R110-R123), and fields of spoke
instructions (R180). -/

namespace Sys2Proof.Machine

open Sys2Proof

/-! ### Array words -/

/-- Byte offset of word `w` of the pass memory of array `g` (R100). -/
def passAddr (g w : Nat) : Nat := storeBase g + 0x2C000 + 16 * w

/-- A word of an array's pass memory. -/
def State.passWord (s : State) (g w : Nat) : BitVec 128 := BitVec.ofNat 128 (leNat (s.atStart.bytes (passAddr g w) 16))

/-- The opcode of a word (Table 4.1). -/
def opcodeOf (w : BitVec 128) : Nat := fld w 127 124

/-- The loop level a word field pair selects: `some none` when it selects none, `none` when the level is not open (R106). -/
def loopSel (loops : List LoopLevel) (en lvl : Nat) : Option (Option LoopLevel) :=
  if en = 0 then some none
  else match loops[lvl]? with
    | some l => some (some l)
    | none => none

/-- base + addr + i x step (R106); nothing wraps (R107). -/
def effAddr (base addr : Nat) (sel : Option LoopLevel) (step : LoopLevel → BitVec 18) : Int :=
  match sel with
  | none => (base + addr : Nat)
  | some l => ((base + addr : Nat) : Int) + (l.idx : Int) * (step l).toInt

/-- (acc + i x acc_step) mod 4 (R106). -/
def effAcc (acc : Nat) (sel : Option LoopLevel) : Nat :=
  match sel with
  | none => acc % 4
  | some l => (acc + l.idx * l.accStep.toNat) % 4

/-- Alignment of rows of a format (R107). -/
def rowAlign (code : Nat) : Nat :=
  match code with
  | 2 | 3 => 3
  | 7 => 2
  | 8 | 9 => 4
  | _ => 1

/-- Row starts and strides are aligned. -/
def rowsAligned (code : Nat) (start : Int) (stride : Nat) : Bool :=
  decide (start % (rowAlign code : Int) = 0) && decide (stride % rowAlign code = 0)

/-- Rows 0 to m - 1 of `len` bytes lie in the data area (R107). -/
def rowsInside (start : Int) (stride m len : Nat) : Bool :=
  len = 0 || (decide (0 ≤ start) && decide (start + ((m - 1) * stride + len : Nat) ≤ 0x2C000))

/-- Fields of a `PASS` word (Table 4.3). -/
structure PassWord where
  acc : Nat
  sparsity : Nat
  scale : Nat
  fmtA : Nat
  fmtB : Nat
  m : Nat
  n : Nat
  stream : Nat
  k : Nat
  aAddr : Nat
  aStride : Nat
  asAddr : Nat
  asStride : Nat
  aEn : Nat
  aLvl : Nat
  accEn : Nat
  accLvl : Nat
  deriving DecidableEq, Repr

def passFields (w : BitVec 128) : PassWord :=
  { acc := fld w 123 122, sparsity := fld w 121 120, scale := fld w 119 118, fmtA := fld w 117 114, fmtB := fld w 113 110,
    m := fld w 109 107 + 1, n := fld w 106 104 + 1, stream := fld w 103 102, k := fld w 101 86, aAddr := fld w 85 68,
    aStride := fld w 67 50, asAddr := fld w 49 32, asStride := fld w 31 18, aEn := fld w 17 17, aLvl := fld w 16 15,
    accEn := fld w 14 14, accLvl := fld w 13 12 }

/-- Dot length of a format (Table 3.1). -/
def dotLength (code : Nat) : Nat :=
  match code with
  | 4 => 16
  | 7 => 4
  | _ => 8

/-- Logical elements of one pass beat: L, or 2L in `NM24` (R76). -/
def PassWord.logical (p : PassWord) : Nat := if p.sparsity = 1 then 2 * dotLength p.fmtA else dotLength p.fmtA

/-- Issue beats of a pass (R79). -/
def PassWord.beats (p : PassWord) : Nat := max 1 ((p.k + p.logical - 1) / p.logical)

/-- Elements per scale block of a scale mode; 0 for `NONE` (Table 3.4). -/
def scaleBlock (mode : Nat) : Nat :=
  match mode with
  | 1 => 8
  | 2 => 32
  | _ => 0

/-- Format, scale and sparsity combinations of a pass (R69, R73, R74, R77). -/
def passFormatOk (p : PassWord) : Bool :=
  let pair := (decide (p.fmtA ≤ 3) && decide (p.fmtB ≤ 3)) ||
    (p.fmtA == p.fmtB && (p.fmtA == 4 || p.fmtA == 5 || p.fmtA == 7))
  pair && !(p.fmtA == 5 && p.scale != 0) && !(p.sparsity == 1 && (p.scale == 2 || p.k % 4 != 0))

/-- Fields of a `LOADACC` word (Table 4.5). -/
structure LoadWord where
  acc : Nat
  fmt : Nat
  m : Nat
  n : Nat
  addr : Nat
  stride : Nat
  aEn : Nat
  aLvl : Nat
  accEn : Nat
  accLvl : Nat
  deriving DecidableEq, Repr

def loadFields (w : BitVec 128) : LoadWord :=
  { acc := fld w 123 122, fmt := fld w 121 118, m := fld w 117 115 + 1, n := fld w 114 112 + 1, addr := fld w 111 94,
    stride := fld w 93 76, aEn := fld w 75 75, aLvl := fld w 74 73, accEn := fld w 72 72, accLvl := fld w 71 70 }

/-- Fields of a `DRAIN` word (Table 4.6). -/
structure DrainWord where
  acc : Nat
  round : Nat
  entropy : Nat
  oscale : Nat
  fmt : Nat
  m : Nat
  n : Nat
  shift : Nat
  dst : Nat
  stride : Nat
  sc : Nat
  dEn : Nat
  dLvl : Nat
  accEn : Nat
  accLvl : Nat
  deriving DecidableEq, Repr

def drainFields (w : BitVec 128) : DrainWord :=
  { acc := fld w 123 122, round := fld w 121 120, entropy := fld w 119 119, oscale := fld w 118 117, fmt := fld w 116 113,
    m := fld w 112 110 + 1, n := fld w 109 107 + 1, shift := fld w 106 102, dst := fld w 101 84, stride := fld w 83 66,
    sc := fld w 65 48, dEn := fld w 47 47, dLvl := fld w 46 45, accEn := fld w 44 44, accLvl := fld w 43 42 }

/-- The effective target of a `WAIT` word (R118). -/
def waitTarget (w : BitVec 128) (sel : Option LoopLevel) : Word32 :=
  let i := match sel with | none => 0 | some l => l.idx
  BitVec.ofNat 32 (fld w 111 80 + i * fld w 50 35)

/-- Held wall beats of a timeout: value and scale code (R118, R191). -/
def waitLimit (timeout scale : Nat) : Nat := timeout * 1024 ^ scale

/-- The slot-plan servant phases (Table 7.3). -/
def servantPhase (plan phase : Nat) : Bool :=
  match plan with
  | 0 => phase % 4 == 3
  | 1 => phase % 2 == 1
  | 2 => phase % 8 == 7
  | _ => phase == 15

/-! ### Spoke layout -/

/-- First byte of the code region, and the byte after its last (Table 6.8). -/
def codeFirst (layout : Word32) : Nat := 256 * fld layout 31 24
def codeEnd (layout : Word32) : Nat := 256 * (fld layout 23 16 + 1)

end Sys2Proof.Machine
end

