-- ==== Sys2Proof/Machine/Arrays.lean ====
section
/-! DEFINITION. The array words and the events of the array pipelines (chapters 3 and 4). A command names the leader of a
gang, and every member executes the leader's word (R130). -/

namespace Sys2Proof.Machine

open Sys2Proof

/-! ### The sequencer (R102, R103, R117) -/

/-- The members of the gang of an array: itself when it is its own leader (R130). -/
def State.members (s : State) (g : Nat) : List Nat := (List.range (2 ^ (s.array g).size.toNat)).map (g + ·)

/-- The pass port is held (R102). -/
def passBusy (a : ArrayState) (pb : Nat) : Bool :=
  match a.pass with
  | none => false
  | some p => decide (p.issued < p.total) || decide (pb < p.start + p.total)

/-- A fault that every member of a gang makes is recorded for each (R130). -/
def State.gangFault (s : State) (code g : Nat) : State := (s.members g).foldl (fun s m => s.seqFault code m) s

/-- The issue port of a leader is free in this beat. -/
def State.portFree (s : State) (g : Nat) : Bool :=
  let a := s.array g
  s.runs && a.active && (a.leader.toNat == g % 2048) && (a.seqState != 4) && (a.seqState != 5) && decide (a.issueFree ≤ s.pbeat)

/-- The program beat lies in a window of the void table (R162). -/
def inWindow (a : ArrayState) (pb : Nat) : Bool := a.windows.any fun w => decide (w.first ≤ pb) && decide (pb < w.first + w.len)

/-- Opcodes that wait for the pass port (Table 4.1). -/
def waitsForPass (op : Nat) : Bool := op == 1 || (decide (0xA ≤ op) && decide (op ≤ 0xE))

/-- Opcodes that a void table window forbids (R164). -/
def voidForbids (op : Nat) : Bool := decide (3 ≤ op) && decide (op ≤ 5) || (decide (0xA ≤ op) && decide (op ≤ 0xE))

/-- The faults of sequence and power state that any word may raise, in the order of Table 4.14 (R96, R124, R164). -/
def sequenceFault (a : ArrayState) (op : Nat) : Option Nat :=
  let parked := a.power == 2 || a.parkAt.isSome
  if (a.parkAt.isSome && op != 0xC && op != 0xD) || (parked && op != 0 && op != 0xC && op != 0xD) || (op == 0xD && !parked) then
    some 0x0C
  else none

/-- `PARK_EARLY`, then `VOID_FORM` (R96, R164; log entry 8). -/
def lateFault (a : ArrayState) (pb op : Nat) : Option Nat :=
  if op != 0 && decide (pb < a.unparkUntil) then some 0x0D
  else if voidForbids op && inWindow a pb then some 0x16
  else none

/-- The state of a sequencer that has issued a word of one beat. -/
def ArrayState.issued (a : ArrayState) (pb : Nat) : ArrayState :=
  { a with pc := a.pc + 1, portPc := a.pc, controlRun := 0, issueFree := pb + 1, seqState := 1,
           power := if a.power = 3 ∧ a.unparkAt = none then 0 else a.power }

/-- Issue the word at the port of leader `g`, which must have opcode `op`: the word's own check, then its effect, for every
member. A word that waits for the pass port raises nothing (R102). The fetch from the leader's pass memory counts as a read once,
when the word issues or faults (R204; log entry 77). -/
def State.issueWord (s : State) (g op : Nat) (check : State → Nat → BitVec 128 → Option Nat)
    (effect : State → Nat → BitVec 128 → State) : State :=
  if !s.portFree g then s
  else
    let a := s.array g
    let w := s.passWord g a.pc
    if 1024 ≤ a.pc then s.gangFault 0x0C g
    else if opcodeOf w = 0xF then (s.countFetch (passAddr g a.pc) 16).gangFault 0x06 g
    else if opcodeOf w ≠ op then s
    else if waitsForPass op && passBusy a s.pbeat then
      (s.members g).foldl (fun s m => s.setArray m { s.array m with seqState := 2 }) s
    else
      (s.members g).foldl (fun s m =>
        match check s m w with
        | some code =>
          if code ≤ 3 then s.seqFault code m (fld w 121 112) (waitTarget w (loopSel a.loops (fld w 53 53) (fld w 52 51)).join).toNat
          else s.seqFault code m
        | none => effect (s.setArray m ((s.array m).issued s.pbeat)) m w) (s.countFetch (passAddr g a.pc) 16)

/-- The first of several faults (R132). -/
def firstFault (l : List (Bool × Nat)) : Option Nat := (l.find? (·.1)).map (·.2)

/-- The check of a word that has only field rules of its own. -/
def plainCheck (op : Nat) (bad : ArrayState → BitVec 128 → Bool) (s : State) (m : Nat) (w : BitVec 128) : Option Nat :=
  let a := s.array m
  if bad a w then some 0x06 else (sequenceFault a op).or (lateFault a s.pbeat op)

/-! ### Local-store operands -/

/-- Read a packed row from a local store: `n` elements of code `code` from element `e0`; each with the offset of its word
where that is poisoned (R112, R217). The whole final group or byte is read (R107). -/
def State.readRow (s : State) (g off code e0 n : Nat) : List (Nat × Option Nat) × State :=
  let w := codeBits code
  let b0 := e0 * w / 8
  let len := rowBytes code n
  let (bs, s1) := s.readStart (storeBase g + off + b0) len
  let packed := leNat (bs.map (·.1))
  let elem (i : Nat) : Nat × Option Nat :=
    let byte0 := i * w / 8
    let byte1 := ((i + 1) * w - 1) / 8
    let p := (List.range (byte1 + 1 - byte0)).find? fun k => (bs[byte0 + k]?.map (·.2)).getD false
    (elemOf w packed i, p.map fun k => (storeBase g + off + b0 + byte0 + k) / 8 * 8)
  ((List.range n).map elem, s1)

/-- Read one byte of a local store with its poison mark. -/
def State.readOne (s : State) (g off : Nat) : (Byte × Option Nat) × State :=
  let (bs, s1) := s.readStart (storeBase g + off) 1
  match bs with
  | (b, p) :: _ => ((b, if p then some ((storeBase g + off) / 8 * 8) else none), s1)
  | [] => ((0, none), s1)

/-- Fold a reader over a list of places, keeping its results in order. -/
def State.readAll {α : Type} (s : State) (ks : List Nat) (f : State → Nat → α × State) : List α × State :=
  ks.foldl (fun acc k => let (x, s1) := f acc.2 k; (acc.1 ++ [x], s1)) ([], s)

/-- An element is non-zero, for the zero-detect of R92 and R93. -/
def nonZeroElem (code bits : Nat) : Bool := if code = 5 then bits != 0 else bits % 2 ^ (codeBits code - 1) != 0

/-! ### NOP, DUMMY, END -/

/-- `NOP` (R123). -/
def execNop (g : ArrayId) (s : State) : Out :=
  ok <| s.issueWord g 0
    (plainCheck 0 fun _ w => fld w 103 0 ≠ 0 || fld w 123 104 = 0)
    (fun s m w => s.setArray m { s.array m with issueFree := s.pbeat + fld w 123 104 })

/-- `DUMMY` (R94, R123). -/
def execDummy (g : ArrayId) (s : State) : Out :=
  ok <| s.issueWord g 0xA
    (plainCheck 0xA fun _ w => decide (8 < fld w 123 120) || fld w 119 100 = 0 || fld w 99 0 ≠ 0)
    (fun s m w =>
      let a := s.array m
      let n := fld w 119 100
      s.setArray m { a with issueFree := s.pbeat + n,
                            presented := (s.pbeat, s.pbeat + n - 1, fld w 123 120) :: a.presented.take 31 })

/-- `END` (R125). -/
def execEndWord (g : ArrayId) (s : State) : Out :=
  ok <| s.issueWord g 0xE
    (plainCheck 0xE fun _ w => fld w 123 0 ≠ 0)
    (fun s m _ => s.setArray m { s.array m with seqState := 4, endAt := some s.pbeat })

/-- `END_CLOCK_GATE`: from beat e+16 (R125). -/
def execEndClockGate (g : ArrayId) (s : State) : Out :=
  let a := s.array g
  match a.endAt with
  | some e =>
    if s.runs && decide (e + 16 ≤ s.pbeat) && a.gatedSince == none then
      ok (s.setArray g { a with gatedSince := some s.sched, power := 1 })
    else ok s
  | none => ok s

/-! ### PASS (R79, R80, R111, R112) -/

/-- Check of a `PASS` word in the order of Table 4.14. -/
def passCheck (s : State) (m : Nat) (w : BitVec 128) : Option Nat :=
  let a := s.array m
  let p := passFields w
  match loopSel a.loops p.aEn p.aLvl, loopSel a.loops p.accEn p.accLvl with
  | some la, some _ =>
    let aEff := effAddr a.abase.toNat p.aAddr la (·.aStep)
    let asEff := effAddr a.abase.toNat p.asAddr la (·.sStep)
    let blk := scaleBlock p.scale
    (firstFault [
      (decide (fld w 11 0 ≠ 0) || p.sparsity == 3 || p.scale == 3 || !rowsAligned p.fmtA aEff p.aStride, 0x06),
      (!passFormatOk p, 0x07),
      (!rowsInside aEff p.aStride p.m (rowBytes p.fmtA p.k), 0x08),
      (blk != 0 && !rowsInside asEff p.asStride p.m ((p.k + blk - 1) / blk), 0x08)]).or
      ((sequenceFault a 1).or (lateFault a s.pbeat 1))
  | _, _ => some 0x06

/-- Issue beat `j` of the running pass of array `m`: read its A operand and scales (R80, R112). -/
def State.passBeat (s : State) (m : Nat) : State :=
  let a := s.array m
  match a.pass with
  | none => s
  | some r =>
    let p := passFields r.word
    let j := r.issued
    let run : PassRun := { r with issued := j + 1 }
    if p.k = 0 then s.setArray m { a with pass := some run, rows := (s.pbeat, 0) :: a.rows.take 31 }
    else if a.inVoid then
      s.setArray m { a with pass := some run, rows := (s.pbeat, 0) :: a.rows.take 31,
                            path := a.path ++ [{ kind := .pass, issue := s.pbeat, acc := r.acc, word := r.word, idx := r.idx, beat := j, isVoid := true }] }
    else
      let lx := p.logical
      let e0 := j * lx
      let cnt := min lx (p.k - e0)
      let blk := scaleBlock p.scale
      let (elems, s1) := s.readAll (List.range p.m) fun s i => s.readRow m (r.aEff + i * p.aStride) p.fmtA e0 cnt
      let b0 := e0 / blk
      let last := (e0 + cnt - 1) / blk
      -- the scales of each row for blocks b0 to last; one that an earlier pass beat has read is not read again (R78)
      let (read, s2) : List (List (Byte × Option Nat)) × State :=
        if blk = 0 then ([], s1)
        else s1.readAll (List.range p.m) fun s i =>
          s.readAll (List.range (last + 1 - b0)) fun s k =>
            if r.aBlock = some (b0 + k) then ((r.aScale[i]?).getD (127, none), s) else s.readOne m (r.asEff + i * p.asStride + b0 + k)
      let scales := read.map fun bs => (List.range cnt).map fun x => (bs[(e0 + x) / blk - b0]?).getD (127, none)
      let run' : PassRun :=
        if blk = 0 then run else { run with aBlock := some last, aScale := read.map fun bs => (bs.getLast?).getD (127, none) }
      let live := (elems.filter fun row => row.any fun e => nonZeroElem p.fmtA e.1).length
      let a2 := s2.array m
      let item : PathItem := { kind := .pass, issue := s.pbeat, acc := r.acc, word := r.word, idx := r.idx, beat := j, aElems := elems, aScales := scales }
      s2.setArray m { a2 with pass := some run', rows := (s.pbeat, live) :: a2.rows.take 31,
                              path := a2.path ++ [item] }

/-- `PASS`: its word issues, with its first pass beat (R102, R111). -/
def execPass (g : ArrayId) (s : State) : Out :=
  ok <| s.issueWord g 1 passCheck fun s m w =>
    let a := s.array m
    let p := passFields w
    let la := (loopSel a.loops p.aEn p.aLvl).join
    let lc := (loopSel a.loops p.accEn p.accLvl).join
    let run : PassRun := { word := w, idx := a.portPc, aEff := (effAddr a.abase.toNat p.aAddr la (·.aStep)).toNat,
                           asEff := (effAddr a.abase.toNat p.asAddr la (·.sStep)).toNat, acc := effAcc p.acc lc,
                           total := p.beats, issued := 0, start := s.pbeat }
    (s.setArray m { a with pass := some run }).passBeat m

/-- `PASS_BEAT_ISSUE`: a later pass beat of a running pass issues, in every member of the gang (R79). -/
def execPassBeatIssue (g : ArrayId) (s : State) : Out :=
  let a := s.array g
  match a.pass with
  | some r =>
    if s.runs && (a.leader.toNat == g.val % 2048) && decide (r.issued < r.total) && decide (r.start + r.issued ≤ s.pbeat) then
      ok ((s.members g).foldl (fun s m => s.passBeat m) s)
    else ok s
  | none => ok s

/-! ### PASS_BROADCAST (R129, R76, R217) -/

/-- The arrived bytes of a stream buffer in order, with the offset of the word of each where that is poisoned. -/
def streamBytes (g : Nat) (st : StreamState) (pb : Nat) : List (Byte × Option Nat) :=
  let ready := st.buf.takeWhile fun l => l.arrived && decide (l.arriveAt < pb)
  (ready.flatMap fun l => l.data.zipIdx.map fun (b, i) =>
    (b, if (l.poison[i / 8]?).getD false then some (vaultBase g + 96 * l.line + i / 8 * 8) else none)).drop st.used

/-- Consume bytes of a stream: lines whose last byte goes leave their places, which stay taken through this beat (R127). -/
def StreamState.consume (st : StreamState) (n pb : Nat) : StreamState :=
  let t := st.used + n
  let k := t / 96
  { st with buf := st.buf.drop k, used := t % 96, freedAt := pb, freed := (if st.freedAt = pb then st.freed else 0) + k }

/-- The scale blocks that start at a beat of `l` stored values from value `s0` (R129). -/
def blockStarts (blk s0 l : Nat) : List Nat :=
  if blk = 0 then [] else (List.range (s0 + l)).filter fun x => decide (s0 ≤ x) && x % blk == 0

/-- Bytes of the B record of one beat (R129). -/
def recordBytes (p : PassWord) (starts : Nat) : Nat :=
  let l := dotLength p.fmtB
  8 * starts + 8 * rowBytes p.fmtB l + (if p.sparsity = 1 then 8 * (l / 4) else 0)

/-- The index of a stored value in `NM24`, the value's own place otherwise. -/
def logicalPos (p : PassWord) (x idx : Nat) : Nat := if p.sparsity = 1 then 4 * (x / 2) + idx else x

/-- `PASS_BROADCAST`: a pass beat takes its B record and broadcasts its operands, in beat t+8 (R129). A record that has not
arrived raises `STREAM_UNDERRUN`; a poisoned word that enters a product raises a machine check (R217). The scale bytes in the discarded
record of a void beat become the scale bytes in force, as those of any record (DESIGN CHOICE, log entry 106: R163 does not say). -/
def execPassBroadcast (g : ArrayId) (s : State) : Out :=
  let a := s.array g
  let due (it : PathItem) : Bool := it.kind == .pass && it.bRec.isNone && decide (it.issue + 8 ≤ s.pbeat)
  match s.runs, a.path.find? due with
  | true, some it =>
    let p := passFields it.word
    let st := SMap.get {} a.streams p.stream
    let l := dotLength p.fmtB
    let s0 := it.beat * l
    let blk := scaleBlock p.scale
    let starts := blockStarts blk s0 l
    let need := recordBytes p starts.length
    let avail := streamBytes g st s.pbeat
    if avail.length < need then
      ok (s.faultWord 0x0B g it.idx)
    else
      let rec' := avail.take need
      let st' := st.consume need s.pbeat
      let ns := starts.length
      let vb := rowBytes p.fmtB l
      let w := codeBits p.fmtB
      let byteAt (i : Nat) : Byte × Option Nat := (rec'[i]?).getD (0, none)
      -- stored values that lie within K (R79)
      let kst := if p.sparsity = 1 then p.k / 2 else p.k
      let valid (x : Nat) : Bool := decide (s0 + x < kst)
      let scaleOf (c x : Nat) : Byte × Option Nat :=
        if blk = 0 then (127, none)
        else
          match (starts.zipIdx.filter fun q => decide (q.1 ≤ s0 + x)).getLast? with
          | some (_, q) => byteAt (c * ns + q)
          | none => (a.bScale[c]?).getD (127, none)
      let column (c : Nat) : List (Nat × Byte × Nat) :=
        let packed := leNat ((List.range vb).map fun i => (byteAt (8 * ns + c * vb + i)).1)
        ((List.range l).filter valid).map fun x =>
          let ix := ((byteAt (8 * ns + 8 * vb + c * (l / 4) + x / 4)).1.toNat >>> (2 * (x % 4))) % 4
          (elemOf w packed x, (scaleOf c x).1, logicalPos p x ix)
      let cols := (List.range p.n).map column
      let bScale' := if blk = 0 then a.bScale else (List.range 8).map fun c => scaleOf c (l - 1)
      let a1 : ArrayState := { a with streams := SMap.set {} a.streams p.stream st', bScale := bScale' }
      if it.isVoid then
        ok (s.setArray g { a1 with path := a1.path.erase it })
      else
        let it' : PathItem := { it with bRec := some cols }
        let a2 : ArrayState := { a1 with path := a1.path.map fun x => if x = it then it' else x,
                                         gatedRowBeats := a1.gatedRowBeats + BitVec.ofNat 32 (8 - a1.driven) }
        -- words consumed by the products of columns below N (R217)
        let badB := (List.range p.n).findSome? fun c => ((List.range l).filter valid).findSome? fun x =>
          let b0 := x * w / 8
          let b1 := ((x + 1) * w - 1) / 8
          ((List.range (b1 + 1 - b0)).findSome? fun k => (byteAt (8 * ns + c * vb + b0 + k)).2).or (scaleOf c x).2
        let used := (cols.flatMap fun c => c.map fun v => v.2.2).eraseDups
        let badA := (List.range p.m).findSome? fun i => used.findSome? fun x =>
          (((it.aElems[i]?).getD [])[x]?.bind (·.2)).or (((it.aScales[i]?).getD [])[x]?.bind (·.2))
        let s1 := s.setArray g a2
        match badA.or badB with
        | some off => ok (s1.poisonCheck 0 (g.val / 2048) (g.val % 2048) off)
        | none => ok s1
  | _, _ => ok s

/-! ### The accumulator path (R80, R108) -/

/-- Accumulator `k`, element `e`. -/
def ArrayState.accum (a : ArrayState) (k e : Nat) : Word32 := SMap.get 0 a.acc (64 * k + e)

/-- The accumulators at the start of the beat in progress (R81). -/
def ArrayState.atStart (a : ArrayState) (now : Nat) : ArrayState :=
  match a.accStart with
  | some (b, m) => if b = now then { a with acc := m } else a
  | none => a

/-- Keep what the accumulators hold at the start of the beat, before their first write in it (R81). -/
def ArrayState.keepStart (a : ArrayState) (now : Nat) : ArrayState := { a with accStart := some (now, (a.atStart now).acc) }

/-- Set sticky flags, in the beat `now` (R99, R200). -/
def ArrayState.raiseFlags (a : ArrayState) (now : Nat) (f : BitVec 6) : ArrayState :=
  if f = 0 then a
  else { a with flags := a.flags ||| f, flagsNew := (if a.flagsAt = now then a.flagsNew else 0) ||| f, flagsAt := now }

/-- Clear sticky flags: a flag that the array sets in the same beat stays set (R200). -/
def ArrayState.clearFlags (a : ArrayState) (now : Nat) (f : BitVec 6) : ArrayState :=
  { a with flags := (a.flags &&& ~~~f) ||| (if a.flagsAt = now then a.flagsNew &&& a.flags else 0) }

/-- Write one accumulator element. -/
def ArrayState.setAccum (a : ArrayState) (k e : Nat) (v : Word32) : ArrayState := { a with acc := SMap.set 0 a.acc (64 * k + e) v }

/-- The effect of a pass beat on cell (i, j) (R63-R67, R76). -/
def cellOf (p : PassWord) (it : PathItem) (cols : List (List (Nat × Byte × Nat))) (acc : Word32) (i j : Nat) :
    Word32 × BitVec 6 :=
  let row := (it.aElems[i]?).getD []
  let sc := (it.aScales[i]?).getD []
  let col := (cols[j]?).getD []
  if p.fmtA = 5 then
    cellBeatInt acc (col.map fun v => (sext 8 ((row[v.2.2]?.map (·.1)).getD 0), sext 8 v.1))
  else
    match fmtOf p.fmtA, fmtOf p.fmtB with
    | some fa, some fb =>
      cellBeat acc (col.map fun v =>
        { a := fa.decode ((row[v.2.2]?.map (·.1)).getD 0), b := fb.decode v.1,
          sa := if p.scale = 0 then some 0 else scaleExp ((sc[v.2.2]?.map (·.1)).getD 127),
          sb := if p.scale = 0 then some 0 else scaleExp v.2.1 })
    | _, _ => (acc, 0)

/-- Apply a due item of the path to the array, in the beat `now` (R80). -/
def ArrayState.landItem (a : ArrayState) (now : Nat) (it : PathItem) : ArrayState :=
  match it.kind with
  | .zero => (List.range 64).foldl (fun a e => a.setAccum it.acc e 0) a
  | .load => (List.range 64).foldl (fun a e => a.setAccum it.acc e ((it.load[e]?).getD 0)) a
  | .pass =>
    let p := passFields it.word
    let cols := it.bRec.getD []
    (List.range (p.m * p.n)).foldl (fun a q =>
      let i := q / p.n
      let j := q % p.n
      let (v, f) := cellOf p it cols (a.accum it.acc (8 * i + j)) i j
      (a.setAccum it.acc (8 * i + j) v).raiseFlags now f) a

/-- `a` comes before `b` on the path: by issue beat, and a pass beat, whose word issued earlier, first (R108). -/
def pathBefore (a b : PathItem) : Bool :=
  decide (a.issue < b.issue) || (a.issue == b.issue && a.kind == .pass && b.kind != .pass)

/-- `ACCUMULATOR_WRITE`: the first item of the path that has reached the end of beat t+15 is written (R80); a drain of the same
beat does not see it (R81). -/
def execAccumulatorWrite (g : ArrayId) (s : State) : Out :=
  let a := s.array g
  let due := a.path.filter fun it => decide (it.issue + 15 ≤ s.pbeat) && (it.kind != .pass || it.bRec.isSome)
  match s.runs, due with
  | true, d :: ds =>
    let it := ds.foldl (fun m x => if pathBefore x m then x else m) d
    ok (s.setArray g (({ a with path := a.path.erase it }.keepStart s.sched).landItem s.sched it))
  | _, _ => ok s

/-- `ZERO` (R80, R114). -/
def execZero (g : ArrayId) (s : State) : Out :=
  ok <| s.issueWord g 3
    (plainCheck 3 fun a w => fld w 118 0 ≠ 0 || (loopSel a.loops (fld w 121 121) (fld w 120 119)).isNone)
    (fun s m w =>
      let a := s.array m
      let lc := (loopSel a.loops (fld w 121 121) (fld w 120 119)).join
      s.setArray m { a with path := a.path ++ [{ kind := .zero, issue := s.pbeat, acc := effAcc (fld w 123 122) lc, word := w }] })

/-- Check of a `LOADACC` word (R107, R114). -/
def loadCheck (s : State) (m : Nat) (w : BitVec 128) : Option Nat :=
  let a := s.array m
  let p := loadFields w
  match loopSel a.loops p.aEn p.aLvl, loopSel a.loops p.accEn p.accLvl with
  | some la, some _ =>
    let e := effAddr a.abase.toNat p.addr la (·.aStep)
    (firstFault [
      (decide (fld w 69 0 ≠ 0) || !rowsAligned p.fmt e p.stride, 0x06),
      (!(p.fmt == 7 || p.fmt == 8 || p.fmt == 9), 0x07),
      (!rowsInside e p.stride p.m (rowBytes p.fmt p.n), 0x08)]).or
      ((sequenceFault a 4).or (lateFault a s.pbeat 4))
  | _, _ => some 0x06

/-- `LOADACC`: its values are read in the issue beat (R82, R114), where a poisoned one is consumed (R217). -/
def execLoadacc (g : ArrayId) (s : State) : Out :=
  ok <| s.issueWord g 4 loadCheck fun s m w =>
    let a := s.array m
    let p := loadFields w
    let la := (loopSel a.loops p.aEn p.aLvl).join
    let lc := (loopSel a.loops p.accEn p.accLvl).join
    let src := (effAddr a.abase.toNat p.addr la (·.aStep)).toNat
    let (rows, s1) := s.readAll (List.range p.m) fun s i => s.readRow m (src + i * p.stride) p.fmt 0 p.n
    let value (e : Nat) : Word32 :=
      let bits := (((rows[e / 8]?).getD [])[e % 8]?.map (·.1)).getD 0
      if p.fmt = 7 then BitVec.ofNat 32 (bits * 65536) else BitVec.ofNat 32 bits
    let a1 := s1.array m
    let item : PathItem := { kind := .load, issue := s.pbeat, acc := effAcc p.acc lc, word := w, load := (List.range 64).map value }
    let s2 := s1.setArray m { a1 with path := a1.path ++ [item] }
    match rows.findSome? fun r => r.findSome? (·.2) with
    | some off => s2.poisonCheck 0 (m / 2048) (m % 2048) off
    | none => s2

/-! ### DRAIN (R83-R91, R115, R131) -/

/-- Check of a `DRAIN` word (R69, R86, R107, R115). -/
def drainCheck (s : State) (m : Nat) (w : BitVec 128) : Option Nat :=
  let a := s.array m
  let p := drainFields w
  match loopSel a.loops p.dEn p.dLvl, loopSel a.loops p.accEn p.accLvl with
  | some ld, some _ =>
    let dst := effAddr a.abase.toNat p.dst ld (·.dStep)
    let sc := effAddr a.abase.toNat p.sc ld (·.sStep)
    let known := decide (p.fmt ≤ 5) || (decide (7 ≤ p.fmt) && decide (p.fmt ≤ 9))
    (firstFault [
      (decide (fld w 41 0 ≠ 0) || p.oscale == 3 || (p.entropy == 1 && p.round != 3) || (p.fmt != 5 && p.shift != 0)
        || !rowsAligned p.fmt dst p.stride, 0x06),
      (!known || (p.oscale != 0 && !decide (p.fmt ≤ 4)), 0x07),
      (!rowsInside dst p.stride p.m (rowBytes p.fmt p.n), 0x08),
      (p.oscale != 0 && !rowsInside sc 1 p.m 1, 0x08)]).or
      ((sequenceFault a 5).or (lateFault a s.pbeat 5))
  | _, _ => some 0x06

/-- The rounding of one output element, with its random bits (R83, R89-R91). -/
def drainMode (round : Nat) (r : Nat) : DrainMode :=
  match round with
  | 0 => .rne
  | 1 => .rtz
  | 2 => .sat
  | _ => .sr r

/-- Convert one row of a drain: its bits, the scale byte written by `DERIVED`, and the flags (R85-R88). `given` is the
scale byte of `GIVEN`. -/
def drainRow (p : DrainWord) (accs : List Word32) (rnds : List Nat) (given : Byte) : List Nat × Nat × BitVec 6 :=
  if p.fmt = 9 then (accs.map (·.toNat), 0, 0)
  else if p.fmt = 5 then
    let r := (accs.zip rnds).map fun (v, x) => drainInt8 (drainMode p.round x) v p.shift
    (r.map (·.1), 0, (r.map (·.2)).foldl (· ||| ·) 0)
  else
    match fmtOf p.fmt with
    | none => ([], 0, 0)
    | some f =>
      let vals := accs.map f32
      let sc : Nat := match p.oscale with | 0 => 127 | 1 => given.toNat | _ => derivedScale p.fmt vals
      let scaled := if sc = 0xFF then vals.map fun _ => FVal.nan else vals.map (FVal.scale (127 - (sc : Int)))
      let r := (scaled.zip rnds).map fun (v, x) => drainConvert f (drainMode p.round x) v
      (r.map (·.1), sc, (r.map (·.2)).foldl (· ||| ·) 0)

/-- `DRAIN`: reads the accumulator at the start of its beat, converts, and leaves its writes for the end of beat d+7 (R81,
R131). -/
def execDrain (g : ArrayId) (s : State) : Out :=
  ok <| s.issueWord g 5 drainCheck fun s m w =>
    let a := s.array m
    let p := drainFields w
    let ld := (loopSel a.loops p.dEn p.dLvl).join
    let lc := (loopSel a.loops p.accEn p.accLvl).join
    let dst := (effAddr a.abase.toNat p.dst ld (·.dStep)).toNat
    let sc := (effAddr a.abase.toNat p.sc ld (·.sStep)).toNat
    let k := effAcc p.acc lc
    let (given, s1) : List (Byte × Option Nat) × State :=
      if p.oscale = 1 then s.readAll (List.range p.m) fun s i => s.readOne m (sc + i) else ([], s)
    -- one independent draw for each element under entropy, which `ORDERED` = 1 replaces by the seeded generator (R56, R91, log entry 3)
    let (rnds, s2) : List Nat × State :=
      if p.entropy = 1 ∧ !s1.ordered then
        s1.readAll (List.range 64) fun s _ => let (v, s') := s.draw; (v.toNat % 65536, s')
      else ((List.range 64).map fun e => srBits s.prog.seed m s.pbeat e, s1)
    let rows := (List.range p.m).map fun i =>
      drainRow p ((List.range p.n).map fun j => (a.atStart s.sched).accum k (8 * i + j)) ((List.range p.n).map fun j => (rnds[8 * i + j]?).getD 0)
        ((given[i]?.map (·.1)).getD 127)
    let writes := (rows.zipIdx).flatMap fun (r, i) =>
      ((packRow p.fmt r.1).zipIdx.map fun (b, q) => (storeBase m + dst + i * p.stride + q, b)) ++
        (if p.oscale = 2 then [(storeBase m + sc + i, BitVec.ofNat 8 r.2.1)] else [])
    let a2 := s2.array m
    let s3 := s2.setArray m { a2.raiseFlags s.sched ((rows.map (·.2.2)).foldl (· ||| ·) 0) with
      drains := a2.drains ++ [{ due := s.pbeat + 7, writes := writes }] }
    match given.findSome? (·.2) with
    | some off => s3.poisonCheck 0 (m / 2048) (m % 2048) off
    | none => s3

/-- `DRAIN_OUTPUT_WRITE`: the oldest drain due writes its outputs and scale bytes (R131, R109). -/
def execDrainOutputWrite (g : ArrayId) (s : State) : Out :=
  let a := s.array g
  match s.runs, a.drains with
  | true, d :: ds =>
    if d.due ≤ s.pbeat then
      ok ((s.setArray g { a with drains := ds }).writeTier0 3 (d.writes.map fun w => (w.1, w.2, false)))
    else ok s
  | _, _ => ok s

/-! ### Streams (R126-R128) -/

/-- The phase masks held by the other streams of the array. -/
def otherMasks (a : ArrayState) (i : Nat) : List (BitVec 16) :=
  (List.range 4).flatMap fun q =>
    if q = i then [] else
      let st := SMap.get {} a.streams q
      (st.cur.toList ++ st.next.toList).map (·.phaseMask)

/-- Check of a `STREAM` word (R113, R126, R128). -/
def streamCheck (s : State) (m : Nat) (w : BitVec 128) : Option Nat :=
  let a := s.array m
  let i := fld w 123 122
  let mask := BitVec.ofNat 16 (fld w 119 104)
  let servant := (List.range 16).any fun ph => bitOf mask ph && servantPhase s.prog.plan.toNat ph
  (firstFault [
    (decide (fld w 121 120 ≠ 0) || fld w 69 50 = 0 || decide (fld w 49 0 ≠ 0), 0x06),
    (servant || (otherMasks a i).any (fun x => decide (x &&& mask ≠ 0)), 0x09),
    ((SMap.get {} a.streams i).next.isSome, 0x0A)]).or
    ((sequenceFault a 2).or (lateFault a s.pbeat 2))

/-- `STREAM`: installs a current or a next descriptor (R126, R128). -/
def execStream (g : ArrayId) (s : State) : Out :=
  ok <| s.issueWord g 2 streamCheck fun s m w =>
    let a := s.array m
    let i := fld w 123 122
    let st := SMap.get {} a.streams i
    let d : StreamDesc := { phaseMask := BitVec.ofNat 16 (fld w 119 104), startLine := BitVec.ofNat 17 (fld w 103 87),
                            stride := BitVec.ofNat 17 (fld w 86 70), count := fld w 69 50, fetched := 0, issuedAt := s.pbeat }
    let st' : StreamState := if st.cur.isNone then { st with cur := some d } else { st with next := some d }
    s.setArray m { a with streams := SMap.set {} a.streams i st' }

/-- The descriptor that the next fetch of a stream uses (R128). R128 does not say when a current descriptor ceases to be held:
one that is fetched whole stays current until the first fetch of the next one, so its mask still counts for `STREAM_PHASE` and a
`STREAM` in between becomes the next (DESIGN CHOICE, log entry 76). -/
def fetchDesc (st : StreamState) : Option (StreamDesc × Bool) :=
  match st.cur, st.next with
  | some c, some n => if c.fetched < c.count then some (c, false) else some (n, true)
  | some c, none => if c.fetched < c.count then some (c, false) else none
  | none, _ => none

/-- `STREAM_FETCH`: in an owned live beat with fewer than 32 places taken, the next line is fetched (R127). In an armed void
window the fetch is dry (R163). -/
def execStreamFetch (g : ArrayId) (i : StreamId) (s : State) : Out :=
  let a := s.array g
  let st := SMap.get {} a.streams i
  let pb := s.pbeat
  let taken := st.buf.length + (if st.freedAt = pb then st.freed else 0)
  match s.runs && a.active, fetchDesc st with
  | true, some (d, fromNext) =>
    if bitOf d.phaseMask (pb % 16) && decide (d.issuedAt < pb) && decide (taken < 32) && st.fetchedAt != some pb then
      let line := (a.vbase.toNat + d.startLine.toNat + d.fetched * d.stride.toNat) % 131072
      let d' : StreamDesc := { d with fetched := d.fetched + 1 }
      let (bytes, s1) : List (Byte × Bool) × State :=
        if a.inVoid then (List.replicate 96 (0, false), s) else s.readMem (vaultBase g + 96 * line) 96
      let l : StreamLine := { line := line, data := bytes.map (·.1),
                              poison := (List.range 12).map fun w => (bytes[8 * w]?.map (·.2)).getD false,
                              arriveAt := if a.inVoid then pb else pb + 23, arrived := a.inVoid }
      let st' : StreamState := { st with cur := some d', next := if fromNext then none else st.next, buf := st.buf ++ [l],
                                         fetchedAt := some pb }
      let a1 := s1.array g
      ok (s1.setArray g { a1 with streams := SMap.set {} a1.streams i st' })
    else ok s
  | _, _ => ok s

/-- Mark the first line that has reached the end of its beat f+23 as arrived. -/
def arriveFirst (pb : Nat) : List StreamLine → List StreamLine
  | [] => []
  | l :: ls => if !l.arrived && decide (l.arriveAt ≤ pb) then { l with arrived := true } :: ls else l :: arriveFirst pb ls

/-- `STREAM_LINE_ARRIVAL` (R127, R206). -/
def execStreamLineArrival (g : ArrayId) (i : StreamId) (s : State) : Out :=
  let a := s.array g
  let st := SMap.get {} a.streams i
  if s.runs then ok (s.setArray g { a with streams := SMap.set {} a.streams i { st with buf := arriveFirst s.pbeat st.buf } })
  else ok s

/-! ### LOOP and ENDLOOP (R103, R116, R117) -/

/-- The word is a control word. -/
def isControl (w : BitVec 128) : Bool := opcodeOf w == 6 || opcodeOf w == 7

/-- The control word at `pc` breaks its own rules: `SEQ_FORM` (R117) or `PASS_FIELD` (R110). An `ENDLOOP` inside an open loop whose
end index is another word raises `SEQ_FORM` as one with no open loop does (DESIGN CHOICE, log entry 104: R117 names only the latter). -/
def controlFault (s : State) (g pc : Nat) (loops : List LoopLevel) : Option Nat :=
  let w := s.passWord g pc
  if opcodeOf w = 6 then
    let e := fld w 103 94
    if fld w 37 0 ≠ 0 then some 0x06
    else if e ≤ pc || opcodeOf (s.passWord g e) ≠ 7 then some 0x0C
    else if (loops.getLast?.map fun l => decide (l.endIdx ≤ e)).getD false then some 0x0C
    else if (List.range (e - pc - 1)).all fun k => isControl (s.passWord g (pc + 1 + k)) then some 0x0C
    else if fld w 123 104 ≠ 0 ∧ 4 ≤ loops.length then some 0x0C
    else none
  else
    if fld w 123 0 ≠ 0 then some 0x06
    else match loops.getLast? with
      | some l => if l.endIdx = pc then none else some 0x0C
      | none => some 0x0C

/-- Where a good control word leads: the next word and the open loops. -/
def controlNext (s : State) (g pc : Nat) (loops : List LoopLevel) : Nat × List LoopLevel :=
  let w := s.passWord g pc
  if opcodeOf w = 6 then
    let e := fld w 103 94
    let n := fld w 123 104
    if n = 0 then (e + 1, loops)
    else (pc + 1, loops ++ [{ start := pc + 1, endIdx := e, count := n, idx := 0, aStep := BitVec.ofNat 18 (fld w 93 76),
                              sStep := BitVec.ofNat 18 (fld w 75 58), dStep := BitVec.ofNat 18 (fld w 57 40),
                              accStep := BitVec.ofNat 2 (fld w 39 38) }])
  else
    match loops.getLast? with
    | some l => if l.idx + 1 < l.count then (l.start, loops.dropLast ++ [{ l with idx := l.idx + 1 }]) else (pc + 1, loops.dropLast)
    | none => (pc + 1, loops)

/-- Process the control word at the port, which must have opcode `op`; a fifth in a run raises `SEQ_FORM` (R103), after
`PASS_FIELD` (R132). Every member of the gang executes it, and each records its own fault (R130). -/
def State.controlWord (s : State) (g op : Nat) : State :=
  if !s.portFree g then s
  else
    let a := s.array g
    if 1024 ≤ a.pc then s.gangFault 0x0C g
    else if opcodeOf (s.passWord g a.pc) ≠ op then s
    else match (controlFault s g a.pc a.loops).or (if 4 ≤ a.controlRun then some 0x0C else none) with
      | some code => (s.countFetch (passAddr g a.pc) 16).gangFault code g
      | none =>
        let (pc, loops) := controlNext s g a.pc a.loops
        (s.members g).foldl (fun s m => s.setArray m { s.array m with pc := pc, loops := loops, controlRun := a.controlRun + 1 })
          (s.countFetch (passAddr g a.pc) 16)

/-- `LOOP` (R117). -/
def execLoop (g : ArrayId) (s : State) : Out := ok (s.controlWord g 6)

/-- `ENDLOOP` (R117). -/
def execEndloop (g : ArrayId) (s : State) : Out := ok (s.controlWord g 7)

/-- The next word that is not a control word, after any jump back (R103): its opcode. -/
def peekOpcode (s : State) (g : Nat) : Nat → Nat → List LoopLevel → Option Nat
  | 0, _, _ => none
  | fuel + 1, pc, loops =>
    if 1024 ≤ pc then none
    else if isControl (s.passWord g pc) then
      if (controlFault s g pc loops).isSome then none
      else let (p, l) := controlNext s g pc loops; peekOpcode s g fuel p l
    else some (opcodeOf (s.passWord g pc))

/-! ### Clock gating (R95, R99, R124, R163) -/

/-- The word that follows a `FREEWHEEL` directly is another, so that the array stays gated (R124). -/
def State.staysGated (s : State) (g : Nat) : Bool :=
  let a := s.array g
  peekOpcode s (g / 2048 * 2048 + a.leader.toNat) 5 a.pc a.loops == some 0xB

/-- Length of the part of [x, y) that lies in [lo, hi). -/
def spanIn (x y lo hi : Nat) : Nat := min y hi - max x lo

/-- Live beats, up to now, for which an array has been gated by a `FREEWHEEL`, `PARK` or `END`, from its gating or the last
`START_PROGRAM`: first and end in `SCHED_BEAT` (R99). A `FREEWHEEL` ends with its last gated beat unless another follows. -/
def State.gatedSpan (s : State) (g : Nat) : Nat × Nat :=
  let a := s.array g
  match a.gatedSince, a.gate with
  | none, _ => (0, 0)
  | some t, none => (max t s.prog.clearedAt, s.sched)
  | some t, some (_, last) =>
    (max t s.prog.clearedAt, if last < s.pbeat ∧ s.staysGated g then s.sched else min s.sched (s.prog.beat0.toNat + last + 1))

/-- The same for the window of the void table in progress (R163). -/
def State.voidSpan (s : State) (g : Nat) : Nat × Nat :=
  match (s.array g).voidGate with
  | some (first, last) => (s.prog.beat0.toNat + first, min s.sched (s.prog.beat0.toNat + last + 1))
  | none => (0, 0)

/-- Gated beats of a `FREEWHEEL`, `PARK` or `END` that no window in progress counts. -/
def State.gatedBeats (s : State) (g : Nat) : Nat :=
  let a := s.gatedSpan g
  let v := s.voidSpan g
  (a.2 - a.1) - spanIn a.1 a.2 v.1 v.2

/-- Gated beats of the window in progress that no `FREEWHEEL`, `PARK` or `END` counts. -/
def State.voidBeats (s : State) (g : Nat) : Nat :=
  let a := s.gatedSpan g
  let v := s.voidSpan g
  (v.2 - v.1) - spanIn v.1 v.2 a.1 a.2

/-- `FREEWHEEL_BEATS`: live beats spent clock-gated or parked, one that both gate counted once (R99). -/
def State.freewheelBeats (s : State) (g : Nat) : Word32 :=
  let a := s.gatedSpan g
  (s.array g).fwAcc + BitVec.ofNat 32 (a.2 - a.1 + s.voidBeats g)

/-! ### WAIT and SIGNAL (R39-R45, R118-R122) -/

/-- Check of a `WAIT` word (R118, R121, R43). -/
def waitCheck (s : State) (m : Nat) (w : BitVec 128) : Option Nat :=
  let a := s.array m
  let id := fld w 121 112
  let sel := loopSel a.loops (fld w 53 53) (fld w 52 51)
  let t := waitTarget w sel.join
  let leads := a.leader.toNat == m % 2048
  (firstFault [
    (decide (fld w 123 122 ≠ 0) || decide (0x180 ≤ id) || fld w 79 56 = 0 || fld w 55 54 = 3 || sel.isNone
      || decide (8 < fld w 34 31) || decide (fld w 30 0 ≠ 0), 0x06)]).or
    ((sequenceFault a 8).or
      ((firstFault [
        (leads && decide (id < 0x100) && !atOrAbove (s.counterValue (m / 2048) id) t, 0x01),
        (leads && decide (0x120 ≤ id) && decide (id < 0x160) && s.abortCopyBit (m / 2048) (id - 0x120), 0x03)]).or
        (lateFault a s.pbeat 8)))

/-- `WAIT`: samples its counter, holds the issue port for 16 beats, and raises a wait demand if the counter is short; the
leader samples once for its gang (R39, R119, R130). -/
def execWait (g : ArrayId) (s : State) : Out :=
  ok <| s.issueWord g 8 waitCheck fun s m w =>
    let a := s.array m
    let id := fld w 121 112
    let t := waitTarget w (loopSel a.loops (fld w 53 53) (fld w 52 51)).join
    let s1 := s.setArray m { a with issueFree := s.pbeat + 16, seqState := 3,
                                    presented := (s.pbeat, s.pbeat + 15, fld w 34 31) :: a.presented.take 31 }
    if m = g.val ∧ !atOrAbove (s.counterValue (m / 2048) id) t then
      let ws : WaitState := { unit := .array g, die := ⟨g.val / 2048, by omega⟩, counter := id, target := t, heldLeft := waitLimit (fld w 79 56) (fld w 55 54), sampleWall := s.wall }
      s1.setBeat { s1.beat with waits := s1.beat.waits ++ [ws] }
    else s1

/-- `SIGNAL`: steps a signal counter, once for the gang (R120, R130). -/
def execSignal (g : ArrayId) (s : State) : Out :=
  ok <| s.issueWord g 9
    (plainCheck 9 fun _ w => fld w 123 122 ≠ 0 || decide (0x100 ≤ fld w 121 112) || fld w 111 96 = 0 || fld w 95 0 ≠ 0)
    (fun s m w => if m = g.val then s.stepSignal (m / 2048) (fld w 121 112) (fld w 111 96) else s)

/-! ### FREEWHEEL, PARK, UNPARK (R95-R97, R124) -/

/-- `FREEWHEEL`: gated from f+16 to f+g-5 (R95, R124); one that follows another keeps the array gated. -/
def execFreewheel (g : ArrayId) (s : State) : Out :=
  ok <| s.issueWord g 0xB
    (plainCheck 0xB fun _ w => decide (fld w 123 104 < 33) || fld w 103 0 ≠ 0)
    (fun s m w =>
      let a := s.array m
      let f := s.pbeat
      let n := fld w 123 104
      s.setArray m { a with issueFree := f + n, gatedSince := a.gatedSince.or (some (s.sched + 16)),
                            gate := some ((a.gate.map (·.1)).getD (f + 16), f + n - 5) })

/-- `FREEWHEEL_WAKE`: at beat t-4 the array wakes, unless the next word is another `FREEWHEEL` (R95, R124). -/
def execFreewheelWake (g : ArrayId) (s : State) : Out :=
  let a := s.array g
  match a.gate with
  | some (_, last) =>
    if s.runs && decide (last < s.pbeat) && !s.staysGated g then
      ok (s.setArray g { a with gate := none, gatedSince := none, power := 3,
                                fwAcc := a.fwAcc + BitVec.ofNat 32 (s.gatedBeats g) })
    else ok s
  | none => ok s

/-- `PARK`: gates clocks as a `FREEWHEEL` would (R124). -/
def execPark (g : ArrayId) (s : State) : Out :=
  ok <| s.issueWord g 0xC
    (plainCheck 0xC fun _ w => decide (fld w 123 104 < 64) || fld w 103 0 ≠ 0)
    (fun s m w =>
      let a := s.array m
      s.setArray m { a with issueFree := s.pbeat + fld w 123 104, parkAt := a.parkAt.or (some s.pbeat),
                            gatedSince := a.gatedSince.or (some (s.sched + 16)) })

/-- `PARK_POWER_GATE`: from beat f+32 the cells, accumulators and sequencer datapath are power-gated (R96, R124). -/
def execParkPowerGate (g : ArrayId) (s : State) : Out :=
  let a := s.array g
  match a.parkAt with
  | some f => if s.runs && decide (f + 32 ≤ s.pbeat) then ok (s.setArray g { a with power := 2 }) else ok s
  | none => ok s

/-- `UNPARK`s of a die in the last 2,000 beats, this one included, exceed 512 (R97). -/
def State.parkRate (s : State) (d : Nat) : Bool :=
  let l := SMap.get [] s.unparks d
  decide (512 ≤ (l.filter fun b => decide (s.sched < b + 2000)).length)

/-- Check of an `UNPARK` word (R96, R97, R124). -/
def unparkCheck (s : State) (m : Nat) (w : BitVec 128) : Option Nat :=
  let a := s.array m
  (if fld w 123 0 ≠ 0 then some 0x06 else none).or
    ((sequenceFault a 0xD).or
      ((if decide (s.pbeat < a.unparkUntil) then some 0x0D else none).or
        ((if s.parkRate (m / 2048) then some 0x0E else none).or (lateFault a s.pbeat 0xD))))

/-- `UNPARK`: restores power and sets all four accumulators to +0 (R96). -/
def execUnpark (g : ArrayId) (s : State) : Out :=
  ok <| s.issueWord g 0xD unparkCheck fun s m _ =>
    let a := s.array m
    let d := m / 2048
    let beats := s.gatedBeats m
    let s1 := s.setArray m { a with acc := [], power := 3, parkAt := none, gatedSince := none,
                                    fwAcc := a.fwAcc + BitVec.ofNat 32 beats, unparkAt := some s.pbeat, ramp := false,
                                    unparkUntil := s.pbeat + 2000 }
    let l := SMap.get [] s.unparks d
    { s1 with unparks := SMap.set [] s1.unparks d (s.sched :: l.filter fun b => decide (s.sched < b + 2000)) }

/-- `UNPARK_RAMP_START`: the park controller starts the ramp that has waited longest, at most 64 in a beat (R97). -/
def execUnparkRampStart (d : DieId) (s : State) : Out :=
  let (beat, n) := SMap.get (0, 0) s.ramps d
  let n' := if beat = s.sched then n else 0
  let waiting := s.arrays.filter fun e => e.1 / 2048 == d.val && e.2.unparkAt.isSome && !e.2.ramp
  match s.runs && decide (n' < 64), waiting with
  | true, e :: es =>
    let first := es.foldl (fun m x => if x.2.unparkAt.getD 0 < m.2.unparkAt.getD 0 then x else m) e
    let s1 := s.setArray first.1 { first.2 with ramp := true }
    ok { s1 with ramps := SMap.set (0, 0) s1.ramps d (s.sched, n' + 1) }
  | _, _ => ok s

/-- `UNPARK_COMPLETE`: 2,000 beats after `UNPARK` the array may issue again (R96). -/
def execUnparkComplete (g : ArrayId) (s : State) : Out :=
  let a := s.array g
  match a.unparkAt with
  | some b =>
    if s.runs && decide (b + 2000 ≤ s.pbeat) then ok (s.setArray g { a with unparkAt := none, ramp := false, power := 0 })
    else ok s
  | none => ok s

/-! ### Void windows (R163) -/

/-- An armed window of the void table that the program beat lies in. -/
def ArrayState.windowNow (a : ArrayState) (pb : Nat) : Option VoidWindow :=
  a.windows.find? fun w => w.armed && decide (w.first ≤ pb) && decide (pb < w.first + w.len)

/-- `VOID_WINDOW_START`: an armed window begins; its pass beats are void and its fetches dry, and with g of 33 or more the
cells are clock-gated from w0 + 16 to w0 + g - 5 (R163). A window may follow another at once, whose gated beats then count. -/
def execVoidWindowStart (g : ArrayId) (s : State) : Out :=
  let a := s.array g
  match a.windowNow s.pbeat with
  | some w =>
    if s.runs && !(a.inVoid && a.voidFirst == w.first) then
      ok (s.setArray g { a with inVoid := true, voidFirst := w.first, fwAcc := a.fwAcc + BitVec.ofNat 32 (s.voidBeats g),
                                voidGate := if 33 ≤ w.len then some (w.first + 16, w.first + w.len - 5) else none })
    else ok s
  | none => ok s

/-- `VOID_WINDOW_END`: the window has passed; its gated beats count in `FREEWHEEL_BEATS` (R163). -/
def execVoidWindowEnd (g : ArrayId) (s : State) : Out :=
  let a := s.array g
  if s.runs && a.inVoid && (a.windowNow s.pbeat).isNone then
    ok (s.setArray g { a with inVoid := false, voidGate := none, fwAcc := a.fwAcc + BitVec.ofNat 32 (s.voidBeats g),
                              windows := a.windows.filter fun w => decide (s.pbeat < w.first + w.len) })
  else ok s

/-! ### The activity shaper (R93, R98) -/

/-- R(t): the rows of the pass beat issued in t, else the rows a word presents (R93, R94, R119). -/
def ArrayState.rowsAt (a : ArrayState) (t : Nat) : Nat :=
  match a.rows.find? (·.1 == t) with
  | some r => r.2
  | none =>
    match a.presented.find? fun x => decide (x.1 ≤ t) && decide (t ≤ x.2.1) with
    | some x => x.2.2
    | none => 0

/-- d(t) of R93, from the level of the broadcast before it. -/
def ArrayState.level (a : ArrayState) (t prev : Nat) : Nat :=
  ((List.range 8).map fun k => a.rowsAt (t + k + 1) - (k + 1)).foldl max (max (a.rowsAt t) (prev - 1))

/-- The driven level and dummy rows of the live beat that starts at program beat `pb` (R93). -/
def ArrayState.shapeLive (a : ArrayState) (pb : Nat) : ArrayState :=
  if pb < 8 then a
  else
    let d := a.level (pb - 8) a.lastD
    { a with driven := d, lastD := d, dummy := d - a.rowsAt (pb - 8), decay := 0 }

/-- In a held beat the live broadcast is replaced by dummy rows at the same level; a waking or unparking array stays at zero
(R98). -/
def ArrayState.shapeHeld (a : ArrayState) : ArrayState :=
  let d := if a.power = 3 then 0 else a.driven
  { a with driven := d, dummy := d, decay := if d = 0 then 0 else a.decay + 1 }

/-- The level of the first live broadcast after a hold, at program beat `pb`; a waking or unparking array stays at zero (R98). -/
def ArrayState.rampTarget (a : ArrayState) (pb : Nat) : Nat := if a.power = 3 then 0 else a.level (pb - 8) a.lastD

/-- One row more in wall beat `w` of a release notice (R98). -/
def ArrayState.rampUp (a : ArrayState) (w : Nat) : ArrayState :=
  { a with driven := a.driven + 1, dummy := a.driven + 1, decay := 0, rampAt := some w }

/-- Dummy rows accumulate pseudo-random operands in the scratch accumulators, and change nothing else (R68, R93). -/
def ArrayState.dummyPass (a : ArrayState) (g w : Nat) : ArrayState :=
  if a.dummy = 0 then a
  else { a with scratch := (List.range 64).map fun e => Config.dummyAcc g w e ((a.scratch[e]?).getD 0) }

/-- `HOLD_SHAPER_DECAY`: the level falls by one row after 32 held beats, outside a release notice (R98). -/
def execHoldShaperDecay (g : ArrayId) (s : State) : Out :=
  let a := s.array g
  if s.beat.held && !s.inReleaseNotice && decide (32 ≤ a.decay) && decide (0 < a.driven) then
    ok (s.setArray g { a with driven := a.driven - 1, dummy := a.driven - 1, decay := a.decay - 32 })
  else ok s

/-- `RELEASE_NOTICE_RAMP`: in a release notice the array raises its level by one row toward the level of its first live
broadcast, once in a beat (R98). `State.shapeArray` raises it where no later start would reach that level. -/
def execReleaseNoticeRamp (g : ArrayId) (s : State) : Out :=
  let a := s.array g
  if s.inReleaseNotice && decide (a.driven < a.rampTarget s.pbeat) && a.rampAt != some s.wall then ok (s.setArray g (a.rampUp s.wall))
  else ok s

end Sys2Proof.Machine
end

