-- ==== Sys2Proof/Machine/Lanes.lean ====
section
/-! DEFINITION. Places of the die-to-die lanes: routers and their ports, edges and links, the crossings of the fabric transit lane, and
which flits are on a lane (R12-R14, R133, R141-R144, R255). -/

namespace Sys2Proof.Machine

open Sys2Proof

/-! ### Places (R133, Tables 1.2, 1.3, 4.15) -/

/-- Die, row and column of package router `r`. -/
def routerDie (r : Nat) : Nat := r / 256
def routerRow (r : Nat) : Nat := r % 256 / 8
def routerCol (r : Nat) : Nat := r % 8

/-- The neighbour that an N, S, E or W output reaches, and the input at which its flit appears there. -/
def meshNext (r : Nat) (q : PortName) : Option (Nat × PortName) :=
  match q with
  | .n => if 0 < routerRow r then some (r - 8, .s) else none
  | .s => if routerRow r < 31 then some (r + 8, .n) else none
  | .e => if routerCol r < 7 then some (r + 1, .w) else none
  | .w => if 0 < routerCol r then some (r - 1, .e) else none
  | _ => none

/-- Compass edges of a compute die. -/
inductive Edge where
  | north | south | east | west
  deriving DecidableEq, Repr

/-- The die on the far side of an edge (Table 1.3): `none` for no link, `some none` for a lightplane die. -/
def edgeFar (d : Nat) (e : Edge) : Option (Option Nat) :=
  match e with
  | .north => if d < 4 then some none else some (some (d - 4))
  | .south => if d < 4 then some (some (d + 4)) else some none
  | .east => if d % 4 < 3 then some (some (d + 1)) else none
  | .west => if 0 < d % 4 then some (some (d - 1)) else none

/-- The edge seen from the far die. -/
def Edge.opposite : Edge → Edge
  | .north => .south | .south => .north | .east => .west | .west => .east

/-- `LINK` number of an edge (Table 1.3, Table 9.10). -/
def edgeLink (d : Nat) (e : Edge) : Option Nat :=
  let h (a : Nat) : Nat := if a < 4 then a else a - 1
  match e with
  | .north => some (if d < 4 then 10 + d else 6 + (d - 4))
  | .south => some (if d < 4 then 6 + d else 10 + d)
  | .east => if d % 4 < 3 then some (h d) else none
  | .west => if 0 < d % 4 then some (h (d - 1)) else none

/-- Link end of an edge: end 0 is at the lower site, and at the compute die of a compute–lightplane link (log entry 9). -/
def edgeEnd (d : Nat) (e : Edge) : Option Nat :=
  (edgeLink d e).map fun l => 2 * l + (match edgeFar d e with | some (some x) => if x < d then 1 else 0 | _ => 0)

/-- The edge that a P or X port of a router lies on, and its edge lane. -/
def portEdge (r : Nat) (q : PortName) : Option (Edge × Nat) :=
  let lane (k : Nat) : Option (Edge × Nat) :=
    if routerRow r = 0 then some (.north, 4 * routerCol r + k)
    else if routerRow r = 31 then some (.south, 4 * routerCol r + k)
    else none
  match q with
  | .x => if routerCol r = 0 then some (.west, routerRow r) else if routerCol r = 7 then some (.east, routerRow r) else none
  | .p0 => lane 0 | .p1 => lane 1 | .p2 => lane 2 | .p3 => lane 3
  | _ => none

/-- The router and port of an edge lane. -/
def lanePort (d : Nat) (e : Edge) (lane : Nat) : Nat × PortName :=
  let p := match lane % 4 with | 0 => PortName.p0 | 1 => .p1 | 2 => .p2 | _ => .p3
  match e with
  | .north => (256 * d + lane / 4, p)
  | .south => (256 * d + 248 + lane / 4, p)
  | .east => (256 * d + 8 * lane + 7, .x)
  | .west => (256 * d + 8 * lane, .x)

/-- The far router and port of a P or X port of a compute–compute link. -/
def farPort (r : Nat) (q : PortName) : Option (Nat × PortName) :=
  match portEdge r q with
  | some (e, lane) =>
    match edgeFar (routerDie r) e with
    | some (some d) => some (lanePort d e.opposite lane)
    | _ => none
  | none => none

/-- The port lies on a compute–lightplane link. -/
def onLightplane (r : Nat) (q : PortName) : Bool :=
  match portEdge r q with
  | some (e, _) => edgeFar (routerDie r) e == some none
  | none => false

/-- The link end at a P or X port of a router. -/
def laneEnd (r : Nat) (q : PortName) : Option Nat := (portEdge r q).bind fun x => edgeEnd (routerDie r) x.1

/-- The edge lane of a P or X port. -/
def laneOf (r : Nat) (q : PortName) : Nat := ((portEdge r q).map (·.2)).getD 0

/-- The router has the port (Table 4.15). -/
def hasPort (r : Nat) (q : PortName) : Bool :=
  match q with
  | .l => true
  | .v => routerCol r == 0 || routerCol r == 7
  | .n | .s | .e | .w => (meshNext r q).isSome
  | _ => (match portEdge r q with | some (e, _) => (edgeFar (routerDie r) e).isSome | none => false)

/-- The port of a source code of R135. -/
def sourcePort (code : Nat) : Option PortName :=
  match code with
  | 1 => some .n | 2 => some .s | 3 => some .e | 4 => some .w | 5 => some .l | 6 => some .v | 7 => some .x
  | 8 => some .p0 | 9 => some .p1 | 10 => some .p2 | 11 => some .p3
  | _ => none

/-- The derailleur port that a V port is (R146). -/
def derailleurPort (r : Nat) : Option Nat :=
  if 8 ≤ routerRow r ∧ routerRow r ≤ 23 then
    if routerCol r = 0 then some (routerRow r - 8) else if routerCol r = 7 then some (routerRow r + 8) else none
  else none

/-- The router that reaches a place of tier 0 or a scratchpad (Table 4.15). -/
def routerOf (off : Nat) : Option Nat :=
  match regionOf off with
  | some (.store g, _) => some (256 * (g / 2048) + g % 2048 / 8)
  | some (.scratch p, _) => some p
  | _ => none

/-! ### Crossings of the transit lane (R141-R144) -/

/-- A crossing of Table 4.18: its site, the two edges in the order named, and its transit phases. -/
structure Crossing where
  site  : Nat
  a     : Edge
  b     : Edge
  first : Nat
  last  : Nat
  deriving DecidableEq, Repr

/-- Table 4.18. -/
def crossings : List Crossing :=
  [{ site := 0, a := .north, b := .south, first := 12, last := 15 },
   { site := 1, a := .north, b := .east, first := 12, last := 13 },
   { site := 1, a := .north, b := .south, first := 14, last := 15 },
   { site := 2, a := .west, b := .north, first := 12, last := 13 },
   { site := 2, a := .north, b := .south, first := 14, last := 15 },
   { site := 3, a := .north, b := .south, first := 12, last := 15 },
   { site := 4, a := .north, b := .south, first := 12, last := 15 },
   { site := 5, a := .north, b := .east, first := 12, last := 13 },
   { site := 5, a := .south, b := .east, first := 14, last := 15 },
   { site := 6, a := .north, b := .west, first := 12, last := 13 },
   { site := 6, a := .west, b := .south, first := 14, last := 15 },
   { site := 7, a := .north, b := .south, first := 12, last := 15 }]

/-- Crossing number `x` of Table 4.18. -/
def crossingOf (x : Nat) : Crossing := (crossings[x]?).getD { site := 0, a := .north, b := .south, first := 12, last := 15 }

/-- Entry and exit edges of a direction: `false` runs from the edge named first. -/
def Crossing.entry (c : Crossing) (dir : Bool) : Edge := if dir then c.b else c.a
def Crossing.exit (c : Crossing) (dir : Bool) : Edge := if dir then c.a else c.b

/-- Hops of a flit on track k from its entry router to its exit router (R141). -/
def Crossing.hops (c : Crossing) (k : Nat) : Nat :=
  let has (e : Edge) : Bool := c.a == e || c.b == e
  if has .north && has .south then 32
  else (if has .north then 4 * k + 1 else 32 - 4 * k) + (if has .east then 7 - k else k)

/-- A crossing's tracks use an output of a router (R141). -/
def Crossing.uses (c : Crossing) (r : Nat) (q : PortName) : Bool :=
  let has (e : Edge) : Bool := c.a == e || c.b == e
  let row := routerRow r
  let col := routerCol r
  let through := has .north && has .south
  let lo := if has .north then 0 else 4 * col
  let hi := if has .south then 31 else 4 * col
  let k := row / 4
  let onRow := !through && row % 4 == 0
  let left := if has .east then k else 0
  let right := if has .east then 7 else k
  match q with
  | .s => decide (lo ≤ row) && decide (row < hi)
  | .n => decide (lo < row) && decide (row ≤ hi)
  | .p0 => (has .north && row == 0) || (has .south && row == 31)
  | .e => onRow && decide (left ≤ col) && decide (col < right)
  | .w => onRow && decide (left < col) && decide (col ≤ right)
  | .x => onRow && ((has .east && col == 7) || (has .west && col == 0))
  | _ => false

/-- Phase `e` mod 16 is a transit phase of a crossing (R142). -/
def Crossing.phase (c : Crossing) (e : Nat) : Bool := decide (c.first ≤ e % 16) && decide (e % 16 ≤ c.last)

/-- An output is reserved to a crossing of the die in the phase of entry `e` (R142). -/
def reservedOutput (die r e : Nat) (q : PortName) : Bool :=
  crossings.any fun c => c.site == die && c.phase e && c.uses (256 * die + r) q

/-- The crossings, with their directions, of the path from one lightplane die to another (Table 1.4). -/
def transitPath (src dst : Nat) : List (Nat × Bool) :=
  let fwd : List (Nat × Bool) :=
    match min src dst, max src dst with
    | 0, 1 => [(1, false), (3, false)]
    | 2, 3 => [(8, false), (10, false)]
    | 0, 2 => [(0, false), (6, false)]
    | 1, 3 => [(5, false), (11, false)]
    | 0, 3 => [(2, false), (7, false), (10, false)]
    | _, _ => [(4, false), (9, false), (8, true)]
  if src < dst then fwd else (fwd.map fun (x, d) => (x, !d)).reverse

/-- The crossing before `c` on a path. -/
def beforeIn (c : Nat × Bool) : List (Nat × Bool) → Option (Nat × Bool)
  | a :: b :: rest => if b = c then some a else beforeIn c (b :: rest)
  | _ => none

/-- The crossing after `c` on a path. -/
def afterIn (c : Nat × Bool) : List (Nat × Bool) → Option (Nat × Bool)
  | a :: b :: rest => if a = c then some b else afterIn c (b :: rest)
  | _ => none

/-- The number of a crossing direction among the 24. -/
def wayNo (c : Nat × Bool) : Nat := 2 * c.1 + c.2.toNat

/-- The buffer that a flit leaves for when it leaves a crossing: that of the next crossing of its path, none for the lightplane FIFO
at its end. -/
def nextWay (me : Nat × Bool) (way : Nat) : Option Nat := (afterIn me (transitPath (way / 4) (way % 4))).map wayNo

/-- A crossing moves in this beat (R142, R143). -/
def State.crossingMoves (s : State) (c : Crossing) : Bool :=
  !s.prog.running || s.beat.held || c.phase s.sched

/-! ### Link ends and what is on their lanes (Tables 1.2, 1.3, R255) -/

/-- The edge of a compute die's end. -/
def endEdge (e : Nat) : Option Edge :=
  [Edge.north, .south, .east, .west].find? fun x => endDie e < 8 && edgeLink (endDie e) x == some (e / 2)

/-- The flits on the lane that end `e` receives, each with the wall beat in which it was sent. -/
def State.laneFlits (s : State) (e lane : Nat) : List (Nat × Flit) :=
  let serv (q : PortName) (xs : List ServFlit) : List (Nat × Flit) :=
    xs.filterMap fun x => if x.port == q then x.sent.map fun b => (b, x.flit) else none
  let own : List (Nat × Flit) :=
    match endEdge e, endEdge (e ^^^ 1) with
    | some edge, _ =>
      let (r, q) := lanePort (endDie e) edge lane
      let a := s.router r
      ((a.window.filter fun x => x.1 == q).map fun x => (x.2.2.1, x.2.2.2)) ++ serv q a.servant ++ serv q a.fifoIn
    | none, some edge =>
      let (r, q) := lanePort (endDie (e ^^^ 1)) edge lane
      serv q (s.router r).fifoOut
    | none, none => []
  let way (ys : List TransitFlit) : List (Nat × Flit) := (ys.filter fun y => 4 * y.track == lane).map fun y => (y.at_ - 14, y.flit)
  own ++ (List.range 24).flatMap fun n =>
    let c := crossingOf (n / 2)
    let dir := n % 2 == 1
    if edgeEnd c.site (c.exit dir) = some (e ^^^ 1) then way (s.crossing n).leaving
    else if edgeEnd c.site (c.entry dir) = some e then way (s.crossing n).coming
    else []

/-- A flit enters the lane towards end `e` in this beat: a lane carries one in each beat (R255). -/
def State.laneUsed (s : State) (e lane : Nat) : Bool := (s.laneFlits e lane).any fun x => x.1 == s.wall

/-- The lane of a P or X port of a router carries a flit away from it in this beat. -/
def State.portUsed (s : State) (r : Nat) (q : PortName) : Bool :=
  match laneEnd r q with
  | some e => s.laneUsed (e ^^^ 1) (laneOf r q)
  | none => false

/-- A transit phase of this live beat reserves an output to a crossing (R142). -/
def State.reservedNow (s : State) (r : Nat) (q : PortName) : Bool := s.live && reservedOutput (routerDie r) (r % 256) s.sched q

/-- A flit from the far side may enter the lane of a port in this beat: none has, and no transit phase reserves it (R142, R255). -/
def State.inwardFree (s : State) (r : Nat) (q : PortName) : Bool :=
  !s.reservedNow r q && (match laneEnd r q with | some e => !s.laneUsed e (laneOf r q) | none => true)

end Sys2Proof.Machine
end

