-- ==== Sys2Proof/Machine/Chainline.lean ====
section
/-! DEFINITION. The chainline routers and the fabric transit lane (chapter 4, R133-R144), and how servant requests reach
tier 0 and the scratchpads (R25, R139). -/

namespace Sys2Proof.Machine

open Sys2Proof

/-! ### Transfer registers (R138, R196) -/

/-- The transfer register of a router in the beat in progress: a rewrite by the spoke counts from the next beat. -/
def RouterState.xferNow (r : RouterState) (n now : Nat) : Word64 :=
  match r.staged.find? fun x => x.1 == n && decide (x.2.1 < now) with
  | some x => x.2.2
  | none => SMap.get 0 r.xfer n

/-- Take the rewrites of earlier beats into the registers. -/
def RouterState.settle (r : RouterState) (now : Nat) : RouterState :=
  { r with xfer := (r.staged.filter fun x => decide (x.2.1 < now)).reverse.foldl (fun m x => SMap.set 0 m x.1 x.2.2) r.xfer,
           staged := r.staged.filter fun x => decide (now ≤ x.2.1) }

/-- A use adds `STEP` to `LINE` and subtracts 1 from `COUNT` (R138). -/
def xferStep (x : Word64) : Word64 :=
  setFld (setFld x 57 46 (fld x 57 46 + fld x 45 34)) 33 14 (fld x 33 14 + 2 ^ 20 - 1)

/-- A use that raises `SLOT_XFER`. -/
def xferBad (x : Word64) : Bool := fld x 33 14 == 0 || decide (2815 < fld x 57 46)

/-- Package array that a transfer register or a servant tag of router `r` names. -/
def routerArray (r k : Nat) : Nat := 2048 * routerDie r + 8 * (r % 256) + k

/-! ### Flits -/

/-- A flit of 64 bytes: a word is poisoned when any byte that it carries is (R216). -/
def mkFlit (bs : List (Byte × Bool)) (tag : BitVec 24) : Flit :=
  { data := BitVec.ofNat 512 (leNat (bs.map (·.1))), tag := tag,
    poison := BitVec.ofNat 8 ((List.range 8).foldl (fun m w => m + if ((bs.drop (8 * w)).take 8).any (·.2) then 2 ^ w else 0) 0) }

/-- The bytes of a flit with the poison flag of each byte's word. -/
def flitBytes (f : Flit) : List (Byte × Bool) :=
  (leBytes 64 f.data.toNat).zipIdx.map fun (b, i) => (b, bitOf f.poison (i / 8))

/-- Write a flit to 64 bytes of tier 0 as the chainline does (R109). -/
def State.writeLine (s : State) (off : Nat) (f : Flit) : State :=
  s.writeTier0 2 ((flitBytes f).zipIdx.map fun (b, i) => (off + i, b.1, b.2))

/-- Read 64 bytes of tier 0 as they stood at the start of the beat (R26, R136). -/
def State.readLine (s : State) (off : Nat) (tag : BitVec 24) : Flit × State :=
  let (bs, s1) := s.readStart off 64
  (mkFlit bs tag, s1)

/-! ### The derailleur's ports (R146, R147, R159, R160, R166, R167) -/

/-- The sweep of the given direction that moves a flit on port `p` in program beat `pb`, and the flit's index. -/
def sweepAt (d : DerailleurState) (out : Bool) (p pb : Nat) : Option (Sweep × Nat) :=
  d.sweeps.findSome? fun w =>
    let isOut := w.kind == .dispatchOut || w.kind == .fillOut || w.kind == .combineOut
    let i := p + 32 * (pb - w.start)
    if isOut == out && decide (w.start ≤ pb) && decide (i < w.count) then some (w, i) else none

/-- ⌈n / 32⌉. -/
def ceil32 (n : Nat) : Nat := (n + 31) / 32

/-- Add to a counter of the block of a descriptor (Table 5.11). -/
def DerailleurState.count (d : DerailleurState) (desc i n : Nat) : DerailleurState :=
  { d with counters := SMap.set 0 d.counters (16 * desc + i) (SMap.get 0 d.counters (16 * desc + i) + BitVec.ofNat 32 n) }

/-- A phase whose last beat has passed is over; a `DISPATCH` then counts as completed (R173). -/
def DerailleurState.settle (d : DerailleurState) (pb : Nat) : DerailleurState :=
  if d.phase ≠ 0 ∧ d.phaseEnd ≤ pb then
    let d1 := if d.phase = 1 ∨ d.phase = 2 then d.count d.phaseDesc 0 1 else d
    { d1 with phase := 0, sweeps := [] }
  else d

/-- Fields of a layer descriptor (Table 5.3). -/
structure LayerDesc where
  tokBase  : Nat
  tok      : Nat
  slots    : Nat
  inLines  : Nat
  outLines : Nat
  offset   : Nat
  bind     : Nat
  overflow : Nat
  kActive  : Nat
  policy   : Nat
  fmt      : Nat
  initHome : Bool
  clearExit : Bool
  fills    : Nat
  voidFirst : Nat
  voidCount : Nat
  deriving DecidableEq, Repr

def layerDesc (b : BitVec 512) : LayerDesc :=
  { tokBase := slotN b 0 2, tok := slotN b 2 2, slots := slotN b 4 2, inLines := slotN b 6 2, outLines := slotN b 8 2,
    offset := slotN b 10 2, bind := slotN b 12 2, overflow := slotN b 14 2, kActive := slotN b 16 1, policy := slotN b 17 1,
    fmt := slotN b 18 1, initHome := nbit (slotN b 19 1) 0, clearExit := nbit (slotN b 19 1) 1, fills := slotN b 20 2,
    voidFirst := slotN b 22 2, voidCount := slotN b 24 2 }

/-- The descriptor of the running phase. -/
def DerailleurState.layer (d : DerailleurState) : LayerDesc := layerDesc (SMap.get 0 d.desc d.phaseDesc)

/-- Elements per line of a combine format (R167). -/
def combineElems (fmt : Nat) : Nat := if fmt = 7 then 32 else 16

/-- Element `e` of a buffered line in `comb_fmt`; BF16 widens exactly (R167). -/
def lineElem (fmt : Nat) (l : BitVec 512) (e : Nat) : FVal :=
  if fmt = 7 then bf16.decode (slotN l (2 * e) 2) else fp32.decode (slotN l (4 * e) 4)

/-- Element `e` of a buffered line as FP32 bits: a home value that nothing is added to keeps them (R167, R169). -/
def lineBits (fmt : Nat) (l : BitVec 512) (e : Nat) : Word32 :=
  if fmt = 7 then BitVec.ofNat 32 (65536 * slotN l (2 * e) 2) else BitVec.ofNat 32 (slotN l (4 * e) 4)

/-- Exit bit of token index `t` (log entry 13). -/
def exitIndex (y : LayerDesc) (t : Nat) : Nat := (y.tokBase + t) % 4096

/-- A ledger placement of token index `t`, rank `k`. -/
def DerailleurState.placed (d : DerailleurState) (t k : Nat) : Option Placement := SMap.get? d.ledger (8 * t + k)

/-- Round to nearest even into `comb_fmt`: a value beyond range becomes an infinity, and a NaN keeps its upper bits (R167). -/
def combineRound (fmt : Nat) (x : Word32) : Nat :=
  if fmt = 7 then
    match f32 x with
    | .nan => x.toNat / 65536
    | .inf a => bf16.sign a + bf16.infBits
    | .fin a m e => bf16.sign a + min (bf16.roundMag .rne m e).1 bf16.infBits
  else x.toNat

/-- The weighted sum of one element in rank order (R167). -/
def DerailleurState.combineElem (d : DerailleurState) (y : LayerDesc) (bank t e : Nat) : Word32 :=
  let line (i : Nat) : BitVec 512 := SMap.get 0 d.lineBuf (16384 * bank + i)
  let init := if y.initHome then lineBits y.fmt (line (y.slots + t)) e else 0
  if d.exits.contains (exitIndex y t) then 0
  else if d.skips.contains t then init
  else (List.range y.kActive).foldl (fun acc k =>
    match d.placed t k with
    | some pl => (toF32 (FVal.add (f32 acc) (FVal.mul (bf16.decode pl.gate.toNat) (lineElem y.fmt (line pl.pos) e)))).1
    | none => acc) init

/-- The result line of token index `t` (R167). -/
def DerailleurState.combineLine (d : DerailleurState) (y : LayerDesc) (bank t : Nat) : BitVec 512 :=
  let w := if y.fmt = 7 then 16 else 32
  BitVec.ofNat 512 (packBits w ((List.range (combineElems y.fmt)).map fun e => combineRound y.fmt (d.combineElem y bank t e)))

/-- Bound entries of a descriptor's bind range, ascending (R154, R160). -/
def DerailleurState.bound (d : DerailleurState) (y : LayerDesc) : List Nat :=
  ((List.range y.bind).map (y.offset + ·)).filter fun x => slotN (SMap.get 0 d.binding x) 0 1 != 0

/-- The fill flit of a bound entry (Table 5.7). -/
def fillFlit (entry count die package : Nat) : BitVec 512 :=
  BitVec.ofNat 512 (entry % 2 ^ 16 + 2 ^ 16 * (count % 2 ^ 16) + 2 ^ 32 * (die % 256) + 2 ^ 48 * (package % 4096))

/-- The flit that the derailleur presents on a port in this beat (R147, R159, R160, R166). Of two placements at one sweep position, which
only overflow_expert outside the bind range can make, the one lowest in the ledger goes out (DESIGN CHOICE, log entry 107: R159 does not
say). -/
def State.derailleurOut (s : State) (die p : Nat) : Option Flit :=
  let d := s.derailleur die
  let y := d.layer
  match sweepAt d true p s.pbeat with
  | some (w, i) =>
    match w.kind with
    | .dispatchOut =>
      match d.ledger.find? fun e => e.2.pos == i with
      | some e =>
        let at_ := 16384 * (w.line % 2) + e.1 / 8
        some { data := SMap.get 0 d.lineBuf at_, tag := 0, poison := SMap.get 0 d.linePoison at_ }
      | none => some { data := 0, tag := 0, poison := 0 }
    | .fillOut =>
      let entry := ((d.bound y)[i]?).getD 0
      some { data := fillFlit entry (SMap.get 0 d.filled entry) die s.ownPackage, tag := 0, poison := 0 }
    | .combineOut => some { data := d.combineLine y (w.line % 2) i, tag := 0, poison := 0 }
    | _ => none
  | none => none

/-- Buffered lines that the sum of token index `t` uses (R167, R217). -/
def DerailleurState.summed (d : DerailleurState) (y : LayerDesc) (t : Nat) : List Nat :=
  if d.exits.contains (exitIndex y t) then []
  else
    (if y.initHome then [y.slots + t] else []) ++
      (if d.skips.contains t then [] else (List.range y.kActive).filterMap fun k => (d.placed t k).map (·.pos))

/-- A derailleur sums a poisoned line in this beat: the result line of token index i leaves in beat start + i/32 of its out-sweep (R166,
R217). -/
def DerailleurState.sumsPoison (d : DerailleurState) (pb : Nat) : Bool :=
  d.phase == 4 && (List.range 32).any fun p =>
    match sweepAt d true p pb with
    | some (w, i) => w.kind == .combineOut && (d.summed d.layer i).any fun x => SMap.get 0 d.linePoison (16384 * (w.line % 2) + x) != 0
    | none => false

/-- The sums of a die's combine in this beat: one that uses a poisoned line raises a machine check (R217; the word's offset is free, log
entry 3). -/
def State.combineCheck (s : State) (die : Nat) : State :=
  if s.runs && (s.derailleur die).sumsPoison s.pbeat then
    let (x, s1) := s.draw
    s1.poisonCheck 2 die 0 (x.toNat % 2 ^ 48)
  else s

/-- The derailleur takes a flit that its port's out_v carries in this beat (R147, R159, R161, R166). An in-sweep position whose port carries
no flit keeps the older line of the buffer (DESIGN CHOICE, log entry 107: R159 does not say). -/
def State.derailleurIn (s : State) (die p : Nat) (f : Flit) : State :=
  let d := s.derailleur die
  let y := d.layer
  match sweepAt d false p s.pbeat with
  | some (w, i) =>
    match w.kind with
    | .voidIn =>
      let x := slotN f.data 0 2
      let b := SMap.get 0 d.binding x
      let counts := d.bound y |>.contains x
      if counts && slotN b 0 1 == 1 && slotN b 3 1 % 8 == die && nbit (slotN b 3 1) 3 then
        s.setDerailleur die { d with fillSum := SMap.set 0 d.fillSum x (SMap.get 0 d.fillSum x + slotN f.data 2 2) }
      else
        let c := 16 * d.phaseDesc + 14
        s.setDerailleur die { d with counters := SMap.set 0 d.counters c (SMap.get 0 d.counters c + 1) }
    | _ =>
      let at_ := 16384 * (w.line % 2) + i
      s.setDerailleur die { d with lineBuf := SMap.set 0 d.lineBuf at_ f.data, linePoison := SMap.set 0 d.linePoison at_ f.poison }
  | none => s

/-! ### CHAINLINE_SLOT (R134-R139) -/

/-- The outputs of an entry in the order of Table 4.16. -/
def slotOutputs : List PortName := [.n, .s, .e, .w, .l, .v, .x, .p0, .p1, .p2, .p3]

/-- The source port that an entry names for output number `i` of `slotOutputs`. -/
def entrySource (e : Word64) (i : Nat) : Option PortName := sourcePort (fld e (63 - 4 * i) (60 - 4 * i))

/-- The flit of a source in this beat for program traffic (R136, R147). -/
def State.programSource (s : State) (r : Nat) (q : PortName) : Option Flit :=
  match q, derailleurPort r with
  | .v, some p => s.derailleurOut (routerDie r) p
  | _, _ => ((s.router r).inputs.find? fun x => x.1 == q && x.2.1 == s.sched).map (·.2.2)

/-! ### Credits (R255, R274) -/

/-- A credit enters one of `lanes` towards link end `e`, one in each beat of a lane: it is what `what` names that it frees (R255). -/
def State.sendCredit (s : State) (e : Nat) (lanes : List Nat) (what : Option Nat) : State :=
  let a := s.linkEnd e
  let busy (b l : Nat) : Bool := a.credits.any fun c => c.1 == l && c.2.1 == b
  match (List.range (a.credits.length + 1)).findSome? fun i => (lanes.find? fun l => !busy (s.wall + i) l).map fun l => (l, s.wall + i, what) with
  | some c => s.setLinkEnd e { a with credits := a.credits ++ [c] }
  | none => s

/-- Places of a lane's far FIFO whose credit is on its way to link end `e`. -/
def State.creditsDue (s : State) (e lane : Nat) : Nat := ((s.linkEnd e).credits.filter fun c => c.1 == lane && c.2.2.isNone).length

/-- The lane of a port runs in asynchronous mode between compute dies, under the FIFO and credits of R274 (R276). -/
def State.asyncLane (s : State) (r : Nat) (q : PortName) : Bool :=
  (farPort r q).isSome && (match laneEnd r q with | some e => (s.linkEnd e).mode == 1 | none => false)

/-- The far FIFO of an asynchronous lane has a place for which the router holds a credit (R274): that of a lightplane die, which has none
while the crossing re-synchronises (R445), or that of the next compute die (R276). -/
def State.outRoom (s : State) (r : Nat) (q : PortName) : Bool :=
  let due := s.creditsDue ((laneEnd r q).getD 0) (laneOf r q)
  match farPort r q with
  | some (r2, q2) => !s.asyncLane r q || decide (((s.router r2).servant.filter fun y => y.port == q2).length + due < 64)
  | none => decide (((s.router r).fifoOut.filter fun y => y.port == q).length + due < 64) && !s.crossingShut (.fab (Fin.ofNat 4 (r / 512)))

/-- A place of the FIFO behind an asynchronous lane is free again: its credit goes back (R274). -/
def State.freePlace (s : State) (r : Nat) (q : PortName) : State :=
  match laneEnd r q with
  | some e => if s.asyncLane r q then s.sendCredit (e ^^^ 1) [laneOf r q] none else s
  | none => s

/-- A flit enters the crossing FIFO of a lane to a lightplane die (R137). -/
def State.toLightplane (s : State) (r : Nat) (q : PortName) (x : ServFlit) : State :=
  s.setRouter r { s.router r with fifoOut := (s.router r).fifoOut ++ [{ x with port := q, sent := some s.wall }] }

/-- A flit has crossed its link: 14 wall beats have passed since it was sent (R260). On an asynchronous lane this holds too (DEDUCED, log
entry 10). -/
def State.crossed (s : State) (x : ServFlit) : Bool := decide (x.sent.getD 0 + 14 ≤ s.wall)

/-- The lightplane die takes a flit out of the crossing FIFO of a lane, whose place is free again (R274). -/
def State.takeOut (s : State) (r : Nat) (x : ServFlit) : State :=
  (s.setRouter r { s.router r with fifoOut := (s.router r).fifoOut.erase x }).sendCredit ((laneEnd r x.port).getD 0) [laneOf r x.port] none

/-- Send a flit on an output other than L and V: to the neighbour's input for the next beat, into the far replay window, or
into the crossing FIFO where it holds a place (R136, R137, R274). -/
def State.sendFlit (s : State) (r : Nat) (q : PortName) (f : Flit) : State :=
  match meshNext r q with
  | some (r2, q2) => s.setRouter r2 { s.router r2 with inputs := (s.router r2).inputs ++ [(q2, s.sched + 1, f)] }
  | none =>
    match farPort r q with
    | some (r2, q2) => s.setRouter r2 { s.router r2 with window := (s.router r2).window ++ [(q2, s.sched + 14, s.wall, f)] }
    | none =>
      if onLightplane r q && s.outRoom r q then
        s.toLightplane r q { port := q, ready := 0, kind := .write, flit := f, home := (r, q) }
      else s

/-- The local read of an entry: one line through a transfer register, which is source L of the next entry (R136, R138,
R195). -/
def State.slotRead (s : State) (r n : Nat) : State :=
  let a := s.router r
  let x := a.xferNow n s.sched
  if xferBad x then s.raiseFault 0x0F 3 (routerDie r) (r % 256) 0
  else
    let used (s : State) : State := s.setRouter r { s.router r with xfer := SMap.set 0 (s.router r).xfer n (xferStep x) }
    let deliver (s : State) (f : Flit) : State :=
      s.setRouter r { s.router r with inputs := (s.router r).inputs ++ [(.l, s.sched + 1, f)] }
    if bitOf x 61 then
      let p := s.spoke r
      match p.outQ with
      | (f, b) :: rest => if b ≤ s.pbeat then deliver (used (s.setSpoke r { p with outQ := rest })) f else s.spokeFault 0x19 r
      | [] => s.spokeFault 0x19 r
    else
      let (f, s1) := s.readLine (storeBase (routerArray r (fld x 60 58)) + 64 * fld x 57 46) 0
      deliver (used s1) f

/-- The local write of an entry through a transfer register (R136, R138, R195). -/
def State.slotWrite (s : State) (r n : Nat) (f : Flit) : State :=
  let x := (s.router r).xferNow n s.sched
  if xferBad x then s.raiseFault 0x0F 3 (routerDie r) (r % 256) 0
  else
    let s1 := s.setRouter r { s.router r with xfer := SMap.set 0 (s.router r).xfer n (xferStep x) }
    if bitOf x 61 then
      let p := s1.spoke r
      if p.inQ.length < 16 then s1.setSpoke r { p with inQ := p.inQ ++ [(f, s.pbeat + 1)] }
      else s.spokeFault 0x1A r
    else s1.writeLine (storeBase (routerArray r (fld x 60 58)) + 64 * fld x 57 46) f

/-- A program entry: the sources are the flits at the inputs, read before anything is written (R26, R136). A named source
that holds no flit moves nothing. Where rd_xfer and wr_xfer name one transfer register the read uses it and steps it first, and the
write uses the stepped value (DESIGN CHOICE, log entry 87: R138 gives no order). A write whose out_l names no source, or one that holds no
flit, makes no use of its transfer register (DESIGN CHOICE, log entry 103: R138 is silent). -/
def State.programEntry (s : State) (r : Nat) (e : Word64) : State :=
  let src := s.programSource r
  let outs := slotOutputs.zipIdx.filterMap fun (q, i) => (entrySource e i).bind fun p => (src p).map fun f => (q, f)
  let s1 := if bitOf e 19 then s.slotRead r (fld e 18 15) else s
  outs.foldl (fun s o =>
    match o.1 with
    | .l => if bitOf e 14 then s.slotWrite r (fld e 13 10) o.2 else s
    | .v => match derailleurPort r with | some p => s.derailleurIn (routerDie r) p o.2 | none => s
    | q => s.sendFlit r q o.2) s1

/-! ### Answers to servant requests (R242, R338, R343) -/

/-- A part of an access has been performed. -/
def ServJob.answer (j : ServJob) (q : ServantReq) (st : Nat) (data : List (Byte × Bool)) : ServJob :=
  { j with acked := j.acked + q.whole, status := if j.status = 0 then st else j.status,
           got := if data.isEmpty then j.got else SMap.insert j.got q.part data }

/-- Every part of an access has been answered. -/
def ServJob.done (j : ServJob) : Bool := decide (j.len ≤ j.acked)

/-- What an access has read. -/
def ServJob.data (j : ServJob) : List (Byte × Bool) := j.got.flatMap (·.2)

/-- Answer a servant request to its owner: status 0, or the error, and the data. -/
def State.respond (s : State) (q : ServantReq) (st : Nat) (data : List (Byte × Bool)) : State :=
  let r : Bool × List Byte × List Bool := (st != 0, data.map (·.1), data.map (·.2))
  match q.owner with
  | .access c n =>
    let a := s.channel c
    match a.cur with
    | some d => s.setChannel c { a with cur := some { d with out := d.out.map fun x => if x.n = n ∧ x.resp = none then { x with resp := some r } else x } }
    | none => s
  | .control c n =>
    let a := s.channel c
    s.setChannel c { a with ctl := a.ctl.map fun x => if x.n = n ∧ x.resp = none then { x with resp := some r } else x }
  | .remote k n =>
    let fb := s.fab k
    s.setFab k { fb with serving := fb.serving.map fun x => if x.n = n then { x with job := x.job.answer q st data } else x }
  | .record k i n =>
    let fb := s.fab k
    let x := SMap.get {} fb.issuers i
    let out := x.out.map fun o => if o.n = n then { o with job := o.job.map fun j => j.answer q st data } else o
    s.setFab k { fb with issuers := SMap.set {} fb.issuers i { x with out := out } }
  | .hub n =>
    let put (j : HubJob) : HubJob := if j.n = n then { j with job := j.job.answer q st data } else j
    s.setHub { s.hub with job := s.hub.job.map put, taking := s.hub.taking.map fun x => (x.1, put x.2), snaps := s.hub.snaps.map fun x => { x with job := x.job.map put } }
  | .chunk k n =>
    let e := s.engine k
    s.setEngine k { e with accesses := e.accesses.map fun a => if a.n = n then { a with job := a.job.answer q st data } else a }

/-! ### What a servant may not touch (R22, R178) -/

/-- A program is running on an array (R100). -/
def State.arrayRuns (s : State) (g : Nat) : Bool := s.prog.running && (s.array g).active

/-- The access touches the pass memory of an array on which a program runs (R22). -/
def State.passMemoryError (s : State) (off len : Nat) : Bool :=
  match regionOf off with
  | some (.store g, o) => decide (0x2C000 < o + len) && s.arrayRuns g
  | _ => false

/-- The write touches the code region of a spoke that is in a run (R178). -/
def State.codeError (s : State) (off len : Nat) : Bool :=
  match regionOf off with
  | some (.scratch p, o) => (s.spoke p).mode == 1 && decide (o < codeEnd (s.spoke p).layout) && decide (codeFirst (s.spoke p).layout < o + len)
  | _ => false

/-- A servant access of a range is an error. -/
def State.servantError (s : State) (write : Bool) (off len : Nat) : Bool :=
  s.passMemoryError off len || !inOneRegion off len || (write && s.codeError off len)

/-! ### Servant traffic (R25, R133, R137, R139; log entry 10) -/

/-- The copy engine that a V port serves: engine e of die d is 4d + e (R133). -/
def ceOfRouter (r : Nat) : Option Nat :=
  if routerCol r ≠ 0 ∧ routerCol r ≠ 7 then none
  else if routerRow r < 4 then some (4 * routerDie r)
  else if routerRow r < 8 then some (4 * routerDie r + 1)
  else if routerRow r < 24 then none
  else if routerRow r < 28 then some (4 * routerDie r + 2)
  else some (4 * routerDie r + 3)

/-- The requesters behind a port, as `localReqs` names them: a copy engine behind V, the lightplane die behind an edge lane. -/
def requesterAt (r : Nat) (p : PortName) : Option Nat :=
  match p with
  | .v => ceOfRouter r
  | _ => if onLightplane r p then some (32 + routerDie r) else none

/-- The requester code of an owner: the copy engine, or one of the requesters of the lightplane dies (log entry 10). -/
def ownerKey : ReqOwner → Nat
  | .access c _ => c.val / 8
  | .control c _ => c.val / 8
  | .remote k _ => 32 + 2 * k
  | .record k i _ => 32 + 2 * k + i
  | .hub _ => 40
  | .chunk k _ => 41 + k

/-- The lightplane die that an owner's requests come from; none: a copy engine. The hub is on LP0. -/
def ownerDie : ReqOwner → Option Nat
  | .access _ _ | .control _ _ => none
  | .remote k _ | .record k _ _ | .chunk k _ => some k
  | .hub _ => some 0

/-- The die from which a lightplane die reaches a place of tier 0: the place's own where the lightplane die lies beside it, else the
lower of its two. -/
def entryDie (k off : Nat) : Nat :=
  match routerOf off with
  | some r => if routerDie r / 2 = k then routerDie r else 2 * k
  | none => 2 * k

/-- The requester under which a request waits to enter the chainline. -/
def requestPort (q : ServantReq) : Nat :=
  match q.owner with
  | .remote k _ | .chunk k _ => 32 + entryDie k q.addr
  | .hub _ => 32 + entryDie 0 q.addr
  | o => ownerKey o

/-- A port serves the owner of a request: a lightplane die has ports on both of its compute dies. -/
def servesOwner (r : Nat) (p : PortName) (o : ReqOwner) : Bool :=
  match requesterAt r p with
  | some k => if k < 32 then (ownerDie o).isNone && k == ownerKey o else ownerDie o == some ((k - 32) / 2)
  | none => false

/-- The port at which the servant tables of hub firmware let a requester enter while no program runs: an edge lane that no transit track
uses (R141). -/
def freeHome (k : Nat) : Nat × PortName :=
  if k < 32 then (256 * (k / 4) + 8 * (([0, 4, 24, 28][k % 4]?).getD 0), .v)
  else (256 * (k - 32) + (if k - 32 < 4 then 0 else 248), .p1)

/-- The place that a servant tag names at a router: a line of one of its arrays, or of its spoke's scratchpad, for which the array
field is 0 (R178). -/
def tagPlace (r : Nat) (tag : BitVec 24) : Option Nat :=
  if fld tag 20 9 < 3072 then some (storeBase (routerArray r (fld tag 23 21)) + 64 * fld tag 20 9)
  else if fld tag 23 21 = 0 then some (scratchBase r + 64 * (fld tag 20 9 - 3072))
  else none

/-- The tag of a servant request (R139, R178). -/
def servantTag (q : ServantReq) : BitVec 24 :=
  let low := (if q.write then 2 ^ 8 else 0) + ownerKey q.owner
  match regionOf q.addr with
  | some (.store g, o) => BitVec.ofNat 24 (g % 8 * 2 ^ 21 + o / 64 * 2 ^ 9 + low)
  | some (.scratch _, o) => BitVec.ofNat 24 ((3072 + o / 64) * 2 ^ 9 + low)
  | _ => 0

/-- The bytes of a line that a flit's request covers: the first and how many. A flit of a lightplane die covers the line. -/
def ServFlit.span (x : ServFlit) : Nat × Nat :=
  match x.req with
  | some q => (q.addr % 64, q.len)
  | none => (0, 64)

/-- A request as it enters the chainline at a port: the data of a write stand in their place in the line. -/
def ServFlit.ofReq (q : ServantReq) (r : Nat) (p : PortName) (ready : Nat) : ServFlit :=
  let line := (List.replicate (q.addr % 64) ((0 : Byte), false) ++ q.data.zip q.poison)
  let full := (List.range 64).map fun i => line.getD i (0, false)
  { port := p, ready := ready, kind := if q.write then .write else .read, req := some q, home := (r, p), flit := mkFlit full (servantTag q) }

/-- Answer the request that a servant flit belongs to. -/
def State.answerFlit (s : State) (x : ServFlit) (st : Nat) (data : List (Byte × Bool)) : State :=
  match x.req with
  | some q => s.respond q st data
  | none => s

/-- The source ports that an entry may name, the local read first. -/
def slotSources : List PortName := [.l, .n, .s, .e, .w, .v, .x, .p0, .p1, .p2, .p3]

/-- The outputs of a router to which an entry sends the flit of a source. -/
def entryOuts (r : Nat) (e : Word64) (p : PortName) : List PortName :=
  slotOutputs.zipIdx.filterMap fun (q, i) => if entrySource e i = some p ∧ hasPort r q then some q else none

/-- The slot table entry of a router in a program beat (R134). -/
def State.entryAt (s : State) (r pb : Nat) : Word64 :=
  SMap.get 0 (s.router r).slots (pb % (if (s.router r).period = 0 then 16 else (s.router r).period.toNat))

/-- The next granted entry of a router, from a program beat on, that names a source, with its outputs. -/
def State.nextGranted (s : State) (r : Nat) (p : PortName) (pb : Nat) : Option (Nat × List PortName) :=
  (List.range 256).findSome? fun i =>
    let e := s.entryAt r (pb + i)
    if bitOf e 9 && !(entryOuts r e p).isEmpty then some (pb + i, entryOuts r e p) else none

/-- Following the granted entries from these outputs in this program beat reaches output L of a router: the requester behind a port
presents there only what its slot tables carry to its place. -/
def State.reaches : Nat → State → Nat → Nat → List PortName → Nat → Bool
  | 0, _, _, _, _, _ => false
  | fuel + 1, s, r, pb, outs, t => outs.any fun q =>
    if q = .l then r == t
    else
      let next : Option ((Nat × PortName) × Nat) := ((meshNext r q).map fun y => (y, 1)).or ((farPort r q).map fun y => (y, 14))
      match next with
      | some ((r2, pt), n) =>
        (match s.nextGranted r2 pt (pb + n) with
         | some (pb2, outs2) => State.reaches fuel s r2 pb2 outs2 t
         | none => false)
      | none => false

/-- The oldest request of a requester for which `enters` holds, taken out of its queue. -/
def State.dequeueReq (s : State) (k : Nat) (enters : ServantReq → Bool) : Option (ServantReq × State) :=
  ((SMap.get [] s.localReqs k).find? enters).map fun q =>
    (q, { s with localReqs := SMap.set [] s.localReqs k ((SMap.get [] s.localReqs k).erase q) })

/-- The servant flit at a source of a router, with the state after it has been taken: the line of the pending read, a flit that waits
at an input, the head of the crossing FIFO of a lane once it has crossed (R137), or the oldest request of the copy engine at V for which
`enters` holds. -/
def State.servantAt (s : State) (r : Nat) (p : PortName) (enters : ServantReq → Bool) : Option (ServFlit × State) :=
  let a := s.router r
  match p with
  | .l =>
    match a.request with
    | some x =>
      if s.beat.routed < x.ready then none
      else
        let (bs, s1) := s.readStart ((tagPlace r x.flit.tag).getD 0) 64
        some ({ x with kind := .data, flit := mkFlit bs x.flit.tag }, s1.setRouter r { a with request := none })
    | none => none
  | _ =>
    match a.servant.find? (fun x => x.port == p && decide (x.ready ≤ s.beat.routed)), a.fifoIn.find? (fun y => y.port == p) with
    | some x, _ => some (x, (s.setRouter r { a with servant := a.servant.erase x }).freePlace r p)
    | none, some y => if s.crossed y then some (y, s.setRouter r { a with fifoIn := a.fifoIn.erase y }) else none
    | none, none =>
      match p, requesterAt r p with
      | .v, some k => (s.dequeueReq k enters).map fun (q, s1) => (ServFlit.ofReq q r p 0, s1)
      | _, _ => none

/-- The output takes a servant flit in this beat: no read request pending at L, no transit phase that reserves it, its lane not yet used in
this beat, a free place in the crossing FIFO of a lane (R142, R255, R274). -/
def State.servantRoom (s : State) (r : Nat) (x : ServFlit) (q : PortName) : Bool :=
  match q with
  | .l => x.kind != .read || (s.router r).request.isNone
  | .v => true
  | _ => !s.reservedNow r q && !s.portUsed r q && (!(onLightplane r q || s.asyncLane r q) || s.outRoom r q)

/-- A servant write reaches its line: at the end of the beat, under the chainline's rank where it meets other writes (R109, R136,
R177). -/
def State.servantWrite (s : State) (r : Nat) (x : ServFlit) : State :=
  match tagPlace r x.flit.tag with
  | none => s.answerFlit x 0x10 []
  | some a =>
    let (o, n) := x.span
    if s.servantError true (a + o) n then s.answerFlit x 0x10 []
    else (s.writeTier0 2 ((((flitBytes x.flit).drop o).take n).zipIdx.map fun (b, i) => (a + o + i, b.1, b.2))).answerFlit x 0 []

/-- A servant read request reaches its router: it is pending there until the next granted entry, unless it is an error. -/
def State.servantRead (s : State) (r : Nat) (x : ServFlit) : State :=
  match tagPlace r x.flit.tag with
  | none => s.answerFlit x 0x10 []
  | some a =>
    let (o, n) := x.span
    if s.servantError false (a + o) n then s.answerFlit x 0x10 []
    else s.setRouter r { s.router r with request := some { x with port := .l, ready := s.beat.routed + 1 } }

/-- The data of a read at a port of its requester. -/
def ServFlit.data (x : ServFlit) : List (Byte × Bool) := ((flitBytes x.flit).drop x.span.1).take x.span.2

/-- A servant flit reaches a port of a requester: the data of a read of its own are its answer. Any other flit is lost there. -/
def State.servantHome (s : State) (r : Nat) (x : ServFlit) (q : PortName) : State :=
  match x.req with
  | some y => if x.kind == .data && servesOwner r q y.owner then s.respond y 0 x.data else s
  | none => s

/-- A servant flit moves one hop through an output (R139). Data that reaches L is lost. -/
def State.servantHop (s : State) (r : Nat) (x : ServFlit) (q : PortName) : State :=
  match q with
  | .l => match x.kind with | .write => s.servantWrite r x | .read => s.servantRead r x | .data => s
  | .v => s.servantHome r x q
  | _ =>
    match (meshNext r q).map fun y => (y, 1, none), (farPort r q).map fun y => (y, 14, some s.wall) with
    | some ((r2, pt), n, sent), _ | none, some ((r2, pt), n, sent) =>
      let a := s.router r2
      s.setRouter r2 { a with servant := a.servant ++ [{ x with port := pt, ready := s.beat.routed + n, sent := sent }] }
    | none, none => s.toLightplane r q x

/-- A granted entry of a running program: each source's flit moves to every output that names it, once all of them take it; a
source that holds none moves nothing (R135, R139). -/
def State.servantEntry (s : State) (r : Nat) (e : Word64) : State :=
  slotSources.foldl (fun s p =>
    let outs := entryOuts r e p
    if outs.isEmpty then s
    else
      let fits (q : ServantReq) : Bool := (routerOf q.addr).any fun t => s.reaches 256 r s.pbeat outs t
      match s.servantAt r p fits with
      | some (x, s1) => if outs.all (s1.servantRoom r x) then outs.foldl (fun s q => s.servantHop r x q) s1 else s
      | none => s) s

/-- Column and row of a router in the eight dies laid side by side. -/
def meshPlace (r : Nat) : Nat × Nat := (8 * (routerDie r % 4) + routerCol r, 32 * (routerDie r / 4) + routerRow r)

/-- The output of a router on the way to router `t`, along its row first, and `last` there. -/
def stepTo (r t : Nat) (last : PortName) : PortName :=
  let (x, y) := meshPlace r
  let (tx, ty) := meshPlace t
  if x < tx then (if routerCol r = 7 then .x else .e)
  else if tx < x then (if routerCol r = 0 then .x else .w)
  else if y < ty then (if routerRow r = 31 then .p1 else .s)
  else if ty < y then (if routerRow r = 0 then .p1 else .n)
  else last

/-- The output that the servant tables of hub firmware give a flit while no program runs: towards its place, and back to where it
entered. -/
def ServFlit.wants (x : ServFlit) (r : Nat) : PortName :=
  match x.kind with
  | .data => stepTo r x.home.1 x.home.2
  | _ => stepTo r ((x.req.bind fun q => routerOf q.addr).getD x.home.1) .l

/-- A router while no program runs: every input moves its oldest flit where its output is not yet taken in this beat (R25, R134). -/
def State.freeEntry (s : State) (r : Nat) : State :=
  (slotSources.foldl (fun (s, used) p =>
    match s.servantAt r p (fun q => freeHome (requestPort q) == (r, p)) with
    | some (x, s1) =>
      let q := x.wants r
      if used.contains q || !s1.servantRoom r x q then (s, used) else (s1.servantHop r x q, q :: used)
    | none => (s, used)) (s, ([] : List PortName))).1

/-! ### Lanes to the lightplane dies (R137, R274) -/

/-- The P ports of a router. -/
def edgePorts : List PortName := [.p0, .p1, .p2, .p3]

/-- A request of a lightplane die may enter at a lane: while a program runs, some granted entry takes the head of the lane's FIFO and each
that does carries it to its place (log entry 10); at the lane of the free tables while none runs. -/
def State.entersAt (s : State) (r : Nat) (p : PortName) (q : ServantReq) : Bool :=
  if s.prog.running then
    let takes := (List.range (if (s.router r).period = 0 then 16 else (s.router r).period.toNat)).filter fun i =>
      bitOf (s.entryAt r i) 9 && !(entryOuts r (s.entryAt r i) p).isEmpty
    !takes.isEmpty && takes.all fun i => (routerOf q.addr).any fun t => s.reaches 256 r i (entryOuts r (s.entryAt r i) p) t
  else freeHome (requestPort q) == (r, p)

/-- A lane of a lightplane die works for a beat: the die takes the oldest servant flit that has reached it, but on lane 31, where every flit
is an operation record (R337), and sends its oldest request that may enter there while the lane is free in this beat and the FIFO has a
place (R142, R255). -/
def State.laneBeat (s : State) (r : Nat) (p : PortName) : State :=
  let s1 : State :=
    match (s.router r).fifoOut.find? fun x => x.port == p && laneOf r p != 31 && s.crossed x && (x.req.isSome || x.kind == .data) with
    | some x => (s.takeOut r x).servantHome r x p
    | none => s
  match requesterAt r p with
  | some k =>
    let a := s1.router r
    if 64 ≤ (a.fifoIn.filter fun x => x.port == p).length ∨ !s1.inwardFree r p ∨ s1.crossingShut (.fab (Fin.ofNat 4 (r / 512))) then s1
    else
      (match s1.dequeueReq k (s1.entersAt r p) with
       | some (q, s2) => s2.setRouter r { a with fifoIn := a.fifoIn ++ [{ ServFlit.ofReq q r p 0 with sent := some s.wall }] }
       | none => s1)
  | none => s1

/-! ### A router's beat (R134) -/

/-- The slot table entry of a router in this beat (R134). -/
def State.slotEntry (s : State) (r : Nat) : Word64 := s.entryAt r s.pbeat

/-- The lanes of a router to a lightplane die work for a beat. -/
def State.laneBeats (s : State) (r : Nat) : State := edgePorts.foldl (fun s p => if onLightplane r p then s.laneBeat r p else s) s

/-- A router executes its beat, once: its slot table entry in a live beat of a program, and servant traffic in every beat while none
runs; `granted` leaves program entries alone (R134, R136). -/
def State.routerBeat (s0 : State) (r : Nat) (granted : Bool) : State :=
  let s := s0.laneBeats r
  let mark (s : State) : State := s.setRouter r { s.router r with slotAt := some s.beat.routed }
  if !s.beat.aligned || (s.router r).slotAt == some s.beat.routed then s
  else if !s.prog.running then mark (s.freeEntry r)
  else if !s.runs || (granted && !bitOf (s.slotEntry r) 9) then s
  else
    let e := s.slotEntry r
    let s2 := s.setRouter r ((s.router r).settle s.sched)
    let s1 := if bitOf e 9 then s2.servantEntry r e else s2.programEntry r e
    mark (s1.setRouter r { s1.router r with inputs := (s1.router r).inputs.filter fun x => decide (s.sched < x.2.1) })

/-- `CHAINLINE_SLOT`: the router executes its slot table entry (R134, R136). -/
def execChainlineSlot (r : RouterId) (s : State) : Out := ok (s.routerBeat r false)

/-- `SERVANT_CHAINLINE_REQUEST`: servant flits and read requests of a router move one hop, or are served, in a granted entry: one with
svc = 1 while a program runs, that of any beat while none runs (R22, R25, R139). -/
def execServantChainlineRequest (r : RouterId) (s : State) : Out := ok (s.routerBeat r true)

/-- `CHAXEL_FLIT_PRESENT`: a flit of a compute–compute lane leaves the replay window in its 14th live beat and is the source
at its lane (R136, R260). -/
def execChaxelFlitPresent (r : RouterId) (q : PortName) (s : State) : Out :=
  let a := s.router r
  match a.window.find? fun x => x.1 == q && decide (x.2.1 ≤ s.sched) with
  | some x =>
    if s.live then
      ok (s.setRouter r { a with window := a.window.erase x, inputs := a.inputs ++ [(q, s.sched, x.2.2.2)] })
    else ok s
  | none => ok s

/-- `LIGHTPLANE_FIFO_INBOUND`: a servant flit of a lightplane die enters the crossing FIFO of its lane, one in a beat (R137, R255, R274). -/
def execLightplaneFifoInbound (r : RouterId) (q : PortName) (flit : Flit) (s : State) : Out :=
  let a := s.router r
  if onLightplane r q && decide ((a.fifoIn.filter fun x => x.port == q).length < 64) && s.inwardFree r q && !s.crossingShut (.fab (Fin.ofNat 4 (r.val / 512))) then
    let x : ServFlit := { port := q, ready := 0, kind := if bitOf flit.tag 8 then .write else .read, flit := flit, home := (r, q)
                          sent := some s.wall }
    ok (s.setRouter r { a with fifoIn := a.fifoIn ++ [x] })
  else ok s

end Sys2Proof.Machine
end

