-- ==== Sys2Proof/Machine/SpokeMath.lean ====
section
/-! DEFINITION. Vector arithmetic of the spokes: lanes, IEEE 754 operations with their sticky flags, reductions, sorting,
conversions and the special functions (R181-R185). -/

namespace Sys2Proof.Machine

open Sys2Proof

/-! ### Lanes and flags -/

/-- Bits of `SP_FFLAGS` (R200). -/
def ffNV : BitVec 5 := 0b10000
def ffDZ : BitVec 5 := 0b01000
def ffOF : BitVec 5 := 0b00100
def ffUF : BitVec 5 := 0b00010
def ffNX : BitVec 5 := 0b00001

/-- The flag if the condition holds. -/
def flagIf (c : Bool) (f : BitVec 5) : BitVec 5 := if c then f else 0

/-- Lane `i` of a vector register (Table 6.1). -/
def lane (v : BitVec 512) (i : Nat) : Word32 := BitVec.ofNat 32 (slotN v (4 * i) 4)

/-- The 16 lanes. -/
def lanes (v : BitVec 512) : List Word32 := (List.range 16).map (lane v)

/-- A register from its lanes. -/
def ofLanes (l : List Word32) : BitVec 512 := BitVec.ofNat 512 (packBits 32 (l.map BitVec.toNat))

/-- A result register and the flags raised. -/
abbrev VRes := BitVec 512 × BitVec 5

/-- Compute each selected lane; a lane whose predicate bit is 0 keeps its old value and raises nothing (R182). -/
def mapLanes (pred : BitVec 16) (old : BitVec 512) (f : Nat → Word32 × BitVec 5) : VRes :=
  let rs := (List.range 16).map fun i => if bitOf pred i then f i else (lane old i, 0)
  (ofLanes (rs.map (·.1)), (rs.map (·.2)).foldl (· ||| ·) 0)

/-- Compute each BF16 lane of 32; predicate bit i covers lanes 2i and 2i + 1 (R182). -/
def mapHalves (pred : BitVec 16) (old : BitVec 512) (f : Nat → Nat × BitVec 5) : VRes :=
  mapLanes pred old fun i =>
    let a := f (2 * i)
    let b := f (2 * i + 1)
    (BitVec.ofNat 32 (a.1 + 65536 * b.1), a.2 ||| b.2)

/-- BF16 lane `i` of 32. -/
def half (v : BitVec 512) (i : Nat) : Nat := slotN v (2 * i) 2

/-! ### IEEE 754 rounding with flags (R182) -/

/-- A signalling NaN of a format with a quiet bit. -/
def Fmt.isSnan (f : Fmt) (bits : Nat) : Bool := f.decode bits == .nan && !(bits.testBit (f.manBits - 1))

/-- The value is below the normal range, before rounding. -/
def Fmt.tinyExact (f : Fmt) (m : Nat) (e : Int) : Bool := m != 0 && decide (log2Dy m e < f.emin + (f.manBits : Int))

/-- The value is below the normal range, after rounding to the format's precision. -/
def Fmt.tinyRounded (f : Fmt) (m : Nat) (e : Int) : Bool :=
  let top := log2Dy m e
  let q := top - (f.manBits : Int)
  let M := if q ≤ e then 0 else (roundShift .rne m (q - e).toNat).1
  m != 0 && decide (top + (if M = 2 ^ (f.manBits + 1) then 1 else 0) < f.emin + (f.manBits : Int))

/-- Underflow and inexact flags of a rounded finite value. -/
def Fmt.smallFlags (f : Fmt) (m : Nat) (e : Int) (inexact : Bool) : BitVec 5 :=
  let a := f.tinyExact m e
  let b := f.tinyRounded m e
  let tiny := if a = b then a else Config.tinyBefore
  flagIf inexact ffNX ||| flagIf (inexact && tiny) ffUF

/-- Round to nearest even into a format with infinities: bits and flags. -/
def Fmt.round (f : Fmt) (x : FVal) : Nat × BitVec 5 :=
  match x with
  | .nan => (f.nanBits, 0)
  | .inf a => (f.sign a + f.infBits, 0)
  | .fin a m e =>
    let (b, inex) := f.roundMag .rne m e
    if f.maxBits < b then (f.sign a + f.infBits, ffOF ||| ffNX)
    else (f.sign a + b, f.smallFlags m e inex)

/-- Finish an operation whose exact result is `r`: invalid for a signalling operand, or for a NaN made from none. -/
def Fmt.finish (f : Fmt) (args : List Nat) (r : FVal) : Nat × BitVec 5 :=
  let made := r == .nan && !(args.any fun a => f.decode a == .nan)
  let (b, fl) := f.round r
  (b, fl ||| flagIf (made || args.any f.isSnan) ffNV)

def Fmt.addOp (f : Fmt) (a b : Nat) : Nat × BitVec 5 := f.finish [a, b] (FVal.add (f.decode a) (f.decode b))
def Fmt.subOp (f : Fmt) (a b : Nat) : Nat × BitVec 5 := f.finish [a, b] (FVal.add (f.decode a) (f.decode b).neg)
def Fmt.mulOp (f : Fmt) (a b : Nat) : Nat × BitVec 5 := f.finish [a, b] (FVal.mul (f.decode a) (f.decode b))

/-- ±(a x b) + c with one rounding. -/
def Fmt.fmaOp (f : Fmt) (neg : Bool) (a b c : Nat) : Nat × BitVec 5 :=
  let p := FVal.mul (f.decode a) (f.decode b)
  let made := p == .nan && f.decode a != .nan && f.decode b != .nan
  let (r, fl) := f.finish [a, b, c] (FVal.add (if neg then p.neg else p) (f.decode c))
  (r, fl ||| flagIf (made && f.decode c == .nan && Config.fmaInvalid) ffNV)

/-- An operation on FP32 words. -/
def word32 (r : Nat × BitVec 5) : Word32 × BitVec 5 := (BitVec.ofNat 32 r.1, r.2)

/-- a orders at or below b, with -0 below +0. -/
def f32LeTotal (a b : Word32) : Bool := (f32 a).lt (f32 b) || (!(f32 b).lt (f32 a) && (bitOf a 31 || !bitOf b 31))

/-- `VFMIN` and `VFMAX` (R182). -/
def f32MinMax (isMax : Bool) (a b : Word32) : Word32 × BitVec 5 :=
  let fl := flagIf (fp32.isSnan a.toNat || fp32.isSnan b.toNat) ffNV
  let r :=
    if f32 a = .nan ∧ f32 b = .nan then nan32
    else if f32 a = .nan then b
    else if f32 b = .nan then a
    else if f32LeTotal a b == isMax then b else a
  (r, fl)

/-- A sign operation: every NaN result is the one NaN (R182). -/
def f32Sign (f : Word32 → Word32) (a : Word32) : Word32 × BitVec 5 := (if f32 a = .nan then nan32 else f a, 0)

/-- `VFSCALE`: va x 2^vb, rounding only on overflow or below normal. -/
def f32Scale (a b : Word32) : Word32 × BitVec 5 := word32 (fp32.finish [a.toNat] (FVal.scale b.toInt (f32 a)))

/-- `VFEXP`. -/
def f32Exp (a : Word32) : Word32 × BitVec 5 :=
  match f32 a with
  | .fin _ m e => (if m = 0 then 0x80000000#32 else BitVec.ofInt 32 (log2Dy m e), 0)
  | _ => (0x7FFFFFFF#32, 0)

/-- A comparison result: any NaN compares false. -/
def f32Cmp (ordered : Bool) (r : FVal → FVal → Bool) (a b : Word32) : Bool × BitVec 5 :=
  let nan := f32 a == .nan || f32 b == .nan
  let snan := fp32.isSnan a.toNat || fp32.isSnan b.toNat
  (!nan && r (f32 a) (f32 b), flagIf (snan || (nan && ordered && Config.compareInvalid)) ffNV)

/-! ### Reductions (R183) -/

/-- One level of the pairwise tree. -/
def pairUp (f : Word32 → Word32 → Word32 × BitVec 5) : List Word32 → List Word32 × BitVec 5
  | a :: b :: l =>
    let (r, fl) := f a b
    let (rs, fls) := pairUp f l
    (r :: rs, fl ||| fls)
  | l => (l, 0)

/-- The fixed tree over 16 lanes; an excluded lane enters as `z`. -/
def treeReduce (f : Word32 → Word32 → Word32 × BitVec 5) (z : Word32) (pred : BitVec 16) (v : BitVec 512) : VRes :=
  let l0 := (List.range 16).map fun i => if bitOf pred i then lane v i else z
  let (l1, f1) := pairUp f l0
  let (l2, f2) := pairUp f l1
  let (l3, f3) := pairUp f l2
  let (l4, f4) := pairUp f l3
  (ofLanes (List.replicate 16 (l4.headD 0)), f1 ||| f2 ||| f3 ||| f4)

/-! ### Sorting (R184) -/

/-- a comes before b: descending signed key, then ascending unsigned payload. -/
def keyBefore (a b : Word32 × Word32) : Bool :=
  decide (b.1.toInt < a.1.toInt) || (a.1 == b.1 && decide (a.2.toNat ≤ b.2.toNat))

/-- Insert in order. -/
def keyInsert (x : Word32 × Word32) : List (Word32 × Word32) → List (Word32 × Word32)
  | [] => [x]
  | y :: l => if keyBefore x y then x :: y :: l else y :: keyInsert x l

/-- The pair sorted. -/
def keySort (l : List (Word32 × Word32)) : List (Word32 × Word32) := l.foldr keyInsert []

/-- The first `n` of the two-way merge of two lists, comparing heads. -/
def keyMerge : Nat → List (Word32 × Word32) → List (Word32 × Word32) → List (Word32 × Word32)
  | 0, _, _ => []
  | n + 1, x :: l, y :: m => if keyBefore x y then x :: keyMerge n l (y :: m) else y :: keyMerge n (x :: l) m
  | n + 1, x :: l, [] => x :: keyMerge n l []
  | n + 1, [], y :: m => y :: keyMerge n [] m
  | _, [], [] => []

/-- `VFKEY`. -/
def fkey (x : Word32) : Word32 := if bitOf x 31 then x ^^^ 0x7FFFFFFF#32 else x

/-! ### Conversions (R181) -/

/-- Convert an FP32 value to a narrow format under a rounding of the vc field (Table 3.7), with the exceptions raised. An infinite source
that becomes a NaN or the largest finite value raises none (DESIGN CHOICE, log entry 86). -/
def f32Narrow (f : Fmt) (mode : DrainMode) (a : Word32) : Nat × BitVec 5 :=
  let (b, _) := drainConvert f mode (f32 a)
  match f32 a with
  | .nan => (b, flagIf (fp32.isSnan a.toNat) ffNV)
  | .inf _ => (b, 0)
  | .fin _ m e =>
    let (mag, inex) := f.roundMag mode.rnd m e
    (b, if f.maxBits < mag then ffOF ||| ffNX else f.smallFlags m e inex)

/-- The rounding of the vc field: 0 `RNE`, 1 `RTZ`, 2 `SAT`. -/
def cvtMode (vc : Nat) : DrainMode := match vc with | 0 => .rne | 1 => .rtz | _ => .sat

/-- `VF2I`: to nearest even, saturating; NaN gives 0. -/
def f32ToI (a : Word32) : Word32 × BitVec 5 :=
  match f32 a with
  | .nan => (0, ffNV)
  | .inf n => (if n then 0x80000000#32 else 0x7FFFFFFF#32, ffNV)
  | .fin n m e =>
    let (q, inex) := if 0 ≤ e then (m * 2 ^ e.toNat, false) else roundShift .rne m (-e).toNat
    let v : Int := if n then -(q : Int) else q
    (BitVec.ofInt 32 (satI32 v), if satI32 v = v then flagIf inex ffNX else ffNV)

/-- `VI2F`. -/
def iToF32 (a : Word32) : Word32 × BitVec 5 := word32 (fp32.round (.fin (decide (a.toInt < 0)) a.toInt.natAbs 0))

/-! ### Special functions (R185) -/

/-- Fixed-point bits of the approximations. -/
def spBits : Nat := 80

/-- 2^80 x ln 2 and 2^80 / ln 2. -/
def fixLn2 : Nat := 837963523372001241319907
def fixLog2e : Nat := 1744111284760651037637903

/-- A finite value as a fixed-point number, rounded down. -/
def toFixed (neg : Bool) (m : Nat) (e : Int) : Int :=
  let v : Nat := if 0 ≤ e + 80 then m * 2 ^ (e + 80).toNat else m >>> (-(e + 80)).toNat
  if neg then -(v : Int) else v

/-- The sum of the exponential series of y (fixed point, below 1), `fuel` terms from term `k`. -/
def expSeries (y : Nat) : Nat → Nat → Nat → Nat
  | 0, _, _ => 0
  | fuel + 1, k, term => term + expSeries y fuel (k + 1) ((term * y) >>> spBits) / (k + 1)

/-- 2^x for a fixed-point x: a fixed-point number in [1, 2) and the exponent. -/
def exp2Fixed (x : Int) : Nat × Int :=
  let n := x.fdiv (2 ^ spBits)
  let f := (x - n * 2 ^ spBits).toNat
  (expSeries ((f * fixLn2) >>> spBits) 30 0 (2 ^ spBits), n)

/-- Bits of log2 of a fixed-point y in [1, 2), by repeated squaring. -/
def log2Series : Nat → Nat → Nat → Nat
  | 0, _, acc => acc
  | fuel + 1, y, acc =>
    let z := (y * y) >>> spBits
    if 2 ^ (spBits + 1) ≤ z then log2Series fuel (z / 2) (2 * acc + 1) else log2Series fuel z (2 * acc)

/-- A fixed-point integer with `k` fraction bits as a value. -/
def fixedVal (v : Int) (k : Nat) : FVal := .fin (decide (v < 0)) v.natAbs (-(k : Int))

/-- The distance between two finite values is at most 2^q. -/
def within (a b : FVal) (q : Int) : Bool :=
  match FVal.add a b.neg with
  | .fin _ m e => !(FVal.lt (.fin false 1 q) (.fin false m e))
  | _ => false

/-- The exponent of one FP32 ulp of a finite value. -/
def ulpExp (x : FVal) : Int :=
  match x with
  | .fin _ m e => if m = 0 then fp32.emin else max (log2Dy m e - 23) fp32.emin
  | _ => 0

/-- A result of a special function: the free value where it lies within the bound of Table 6.5 of the value `x`, else `x`
rounded (log entry 6). `exact` says that `x` is the value itself, so that a result equal to it is exact. -/
def special (free : Word32) (x : FVal) (bound : Int) (exact : Bool) : Word32 × BitVec 5 :=
  let r := if within (f32 free) x bound then free else (toF32 x).1
  match x with
  | .fin _ m e =>
    if f32 r = .inf false ∨ f32 r = .inf true then (r, ffOF ||| ffNX)
    else (r, fp32.smallFlags m e (!exact || r != (toF32 x).1))
  | _ => (r, 0)

/-- `VEXP2`. +∞ gives +∞ and raises no overflow, though Table 6.5's row for x ≥ 128 names it (DESIGN CHOICE, log entry 86: the result is
exact, and the row may mean finite x only). -/
def vexp2Of (a : Word32) : Word32 × BitVec 5 :=
  match f32 a with
  | .nan => (nan32, flagIf (fp32.isSnan a.toNat) ffNV)
  | .inf n => (if n then 0 else 0x7F800000#32, 0)
  | .fin n m e =>
    let x := f32 a
    if !n && !(x.lt (.fin false 128 0)) then (0x7F800000#32, ffOF ||| ffNX)
    else if n && x.lt (.fin true 150 0) then (0, ffUF ||| ffNX)
    else
      let (v, k) := exp2Fixed (toFixed n m e)
      let y : FVal := .fin false v (k - 80)
      special (Config.vexp2 a) y (ulpExp y) (decide (m = 0) || decide (0 ≤ e) || decide (m % 2 ^ (-e).toNat = 0))

/-- `VLOG2`. -/
def vlog2Of (a : Word32) : Word32 × BitVec 5 :=
  match f32 a with
  | .nan => (nan32, flagIf (fp32.isSnan a.toNat) ffNV)
  | .inf n => if n then (nan32, ffNV) else (0x7F800000#32, 0)
  | .fin n m e =>
    if m = 0 then (0xFF800000#32, ffDZ)
    else if n then (nan32, ffNV)
    else
      let t := Nat.log2 m
      let frac := log2Series 60 (m * 2 ^ 80 / 2 ^ t) 0
      let y := fixedVal ((e + (t : Int)) * 2 ^ 60 + frac) 60
      let x := f32 a
      let near := !(x.lt (.fin false 1 (-1))) && !(FVal.lt (.fin false 2 0) x)
      special (Config.vlog2 a) y (if near then -22 else ulpExp y) (decide (m = 2 ^ t))

/-- `VRSQRT`. -/
def vrsqrtOf (a : Word32) : Word32 × BitVec 5 :=
  match f32 a with
  | .nan => (nan32, flagIf (fp32.isSnan a.toNat) ffNV)
  | .inf n => if n then (nan32, ffNV) else (0, 0)
  | .fin n m e =>
    if m = 0 then (if n then 0xFF800000#32 else 0x7F800000#32, ffDZ)
    else if n then (nan32, ffNV)
    else
      -- 1/sqrt(m 2^e) = sqrt(2^(2k - e) / m) / 2^k
      let m' := if e % 2 = 0 then m else 2 * m
      let e' := if e % 2 = 0 then e else e - 1
      let y : FVal := .fin false (Nat.sqrt (2 ^ 200 / m')) (-100 - e' / 2)
      let odd := m' / 2 ^ (Nat.log2 (Nat.gcd m' (2 ^ 64)))
      special (Config.vrsqrt a) y (ulpExp y) (decide (odd = 1) && decide (Nat.log2 m' % 2 = 0))

/-- `VRCP`. -/
def vrcpOf (a : Word32) : Word32 × BitVec 5 :=
  match f32 a with
  | .nan => (nan32, flagIf (fp32.isSnan a.toNat) ffNV)
  | .inf n => (if n then 0x80000000#32 else 0, 0)
  | .fin n m e =>
    if m = 0 then (if n then 0xFF800000#32 else 0x7F800000#32, ffDZ)
    else
      let y : FVal := .fin n (2 ^ 100 / m) (-100 - e)
      special (Config.vrcp a) y (ulpExp y) (decide (m = 2 ^ Nat.log2 m))

/-- `VTANH`: odd, so computed for the magnitude. -/
def vtanhOf (a : Word32) : Word32 × BitVec 5 :=
  match f32 a with
  | .nan => (nan32, flagIf (fp32.isSnan a.toNat) ffNV)
  | .inf n => (if n then 0xBF800000#32 else 0x3F800000#32, 0)
  | .fin n m e =>
    if !(FVal.lt (.fin false m e) (.fin false 9 0)) then (if n then 0xBF800000#32 else 0x3F800000#32, ffNX)
    else
      let (v, k) := exp2Fixed ((2 * toFixed false m e * fixLog2e) / 2 ^ spBits)
      let E := v * 2 ^ k.toNat
      let y : FVal := .fin false ((E - 2 ^ 80) * 2 ^ 80 / (E + 2 ^ 80)) (-80)
      let (r, fl) := special (Config.vtanh (a &&& 0x7FFFFFFF#32)) y (-22) (decide (m = 0))
      (if n then r ^^^ 0x80000000#32 else r, fl)

end Sys2Proof.Machine
end

