-- ==== Sys2Proof/Machine/SpokeOps.lean ====
section
/-! DEFINITION. How a spoke fetches, checks and issues an instruction, its operand forms, its registers with their latencies,
and its memory accesses (R174-R181). -/

namespace Sys2Proof.Machine

open Sys2Proof

/-! ### Registers (Table 6.1, R181) -/

/-- x register n. -/
def SpokeState.xr (a : SpokeState) (n : Nat) : Word32 := if n = 0 then 0 else SMap.get 0 a.x n
/-- v register n. -/
def SpokeState.vr (a : SpokeState) (n : Nat) : BitVec 512 := SMap.get 0 a.v n
/-- p register n; p0 reads all ones. -/
def SpokeState.pr (a : SpokeState) (n : Nat) : BitVec 16 := if n = 0 then 0xFFFF else SMap.get 0 a.p n

/-- Cancel lanes of loads in flight to a register that a later instruction writes. -/
def SpokeState.overwrite (a : SpokeState) (vec : Bool) (n : Nat) (ls : BitVec 16) : SpokeState :=
  { a with loads := a.loads.map fun l => if l.vec = vec ∧ l.reg = n then { l with lanes := l.lanes &&& ~~~ls } else l }

/-- Write an x register; x0 ignores writes. The result is ready for an instruction that issues in beat `at_` or later. -/
def SpokeState.setX (a : SpokeState) (n : Nat) (v : Word32) (at_ : Nat) : SpokeState :=
  if n = 0 then a
  else { a.overwrite false n 0xFFFF with x := SMap.set 0 a.x n v, ready := SMap.set 0 a.ready n at_ }

/-- Beat from which lane `i` of v register `n` is ready. -/
def SpokeState.laneReady (a : SpokeState) (n i : Nat) : Nat := ((SMap.get [] a.vready n)[i]?).getD 0

/-- Lanes `ls` of v register `n` are ready from a beat on; its other lanes as before (R181). -/
def SpokeState.readyLanes (a : SpokeState) (n : Nat) (ls : BitVec 16) (at_ : Nat) : SpokeState :=
  { a with vready := SMap.set [] a.vready n ((List.range 16).map fun i => if bitOf ls i then at_ else a.laneReady n i) }

/-- A source register is ready in a beat: every lane of a v register (R181). -/
def SpokeState.readyBy (a : SpokeState) (pb r : Nat) : Bool :=
  if 32 ≤ r ∧ r < 48 then (SMap.get [] a.vready (r - 32)).all fun t => decide (t ≤ pb) else decide (SMap.get 0 a.ready r ≤ pb)

/-- Write lanes of a v register. -/
def SpokeState.setV (a : SpokeState) (n : Nat) (v : BitVec 512) (ls : BitVec 16) (at_ : Nat) : SpokeState :=
  { (a.overwrite true n ls).readyLanes n ls at_ with v := SMap.set 0 a.v n v }

/-- Write a p register; p0 ignores writes. -/
def SpokeState.setP (a : SpokeState) (n : Nat) (v : BitVec 16) (at_ : Nat) : SpokeState :=
  if n = 0 then a else { a with p := SMap.set 0 a.p n v, ready := SMap.set 0 a.ready (48 + n) at_ }

/-! ### Addresses (R176, Table 6.2) -/

/-- The package-local offset of a spoke access of `n` bytes, and whether it lies in a local store; none outside the map. -/
def spokeAddr (p a n : Nat) : Option (Nat × Bool) :=
  if a + n ≤ 0x10000 then some (scratchBase p + a, false)
  else if 0x100000 ≤ a ∧ a < 0x300000 then
    let j := (a - 0x100000) / 0x40000
    let o := (a - 0x100000) % 0x40000
    if o + n ≤ 0x2C000 then some (storeBase (2048 * (p / 256) + 8 * (p % 256) + j) + o, true) else none
  else none

/-- An access of `n` bytes at spoke address `a` raises `SPOKE_ADDR` (R176): outside the map, misaligned, or a store into the
code region. -/
def spokeAddrBad (layout : Word32) (p a n align : Nat) (store : Bool) : Bool :=
  (spokeAddr p a n).isNone || a % align != 0 ||
    (store && decide (a < codeEnd layout) && decide (codeFirst layout < a + n))

/-! ### Loads and stores in flight (R177) -/

/-- Bring in the loads of a spoke that read in program beat `pb` or before: a poisoned word that enters a register is consumed
(R217). -/
def State.landLoad (s : State) (p : Nat) (l : LoadItem) : State :=
  let a0 := s.spoke p
  let take (i : Nat) : Bool := !l.vec || bitOf l.sel (i / 4)
  let (bs, s1) := s.readMem l.addr l.size
  let bad := (bs.zipIdx.find? fun b => b.1.2 && take b.2).map fun b => l.addr + b.2
  let s2 := match bad with
    | some off => s1.poisonCheck 1 (p / 256) (p % 256) off
    | none => s1
  let data := leNat (bs.map (·.1))
  let a1 : SpokeState :=
    if l.vec then
      let old := a0.vr l.reg
      let new := ofLanes ((List.range 16).map fun i => if bitOf l.lanes i then BitVec.ofNat 32 (nfld data (32 * i + 31) (32 * i)) else lane old i)
      { a0 with v := SMap.set 0 a0.v l.reg new }
    else if bitOf l.lanes 0 then
      { a0 with x := SMap.set 0 a0.x l.reg (if l.signed then BitVec.ofInt 32 (sext (8 * l.size) data) else BitVec.ofNat 32 data) }
    else a0
  s2.setSpoke p { a1 with loads := a1.loads.erase l }

/-- The loads of every spoke that read in the beat that begins. -/
def State.landLoads (s : State) : State :=
  s.spokes.foldl (fun s e => (e.2.loads.filter fun l => decide (l.readAt ≤ s.pbeat)).foldl (fun s l => s.landLoad e.1 l) s) s

/-! ### Issue (R180, R181, R188) -/

/-- Functions of each opcode of Table 6.4: the number of the function field's bits, and the functions defined. -/
def spokeFns (op : Nat) : Option (Nat × List Nat) :=
  if op = 0x01 then some (11, [0, 1, 2, 3, 4, 5, 6, 7, 8, 9, 0xA, 0xB, 0x10, 0x11, 0x18, 0x19, 0x1A, 0x1B])
  else if (0x02 ≤ op ∧ op ≤ 0x08) ∨ (0x10 ≤ op ∧ op ≤ 0x19) ∨ (0x20 ≤ op ∧ op ≤ 0x27) then some (0, [0])
  else if op = 0x30 then some (7, List.range 11)
  else if op = 0x31 then some (7, List.range 3)
  else if op = 0x32 then some (7, List.range 13)
  else if op = 0x33 then some (7, List.range 6)
  else if op = 0x34 then some (7, List.range 5)
  else if op = 0x35 then some (7, List.range 4)
  else if op = 0x36 then some (7, List.range 4)
  else if op = 0x37 then some (7, List.range 9)
  else if op = 0x38 then some (7, List.range 3)
  else if op = 0x39 then some (7, List.range 5)
  else if op = 0x3F then some (6, [0, 1, 2, 3, 4, 8, 9, 0xA, 0x10, 0x11, 0x12, 0x13, 0x18, 0x19])
  else none

/-- Opcode and function of an instruction; none where reserved (R180). -/
def spokeOp (w : Word32) : Option (Nat × Nat) :=
  match spokeFns (fld w 31 26) with
  | some (n, fs) =>
    let fn := w.toNat % 2 ^ n
    if fs.contains fn then some (fld w 31 26, fn) else none
  | none => none

/-- The spoke may issue in this beat (R181, R188, R190). -/
def State.spokeFree (s : State) (p : Nat) : Bool :=
  let a := s.spoke p
  s.runs && a.active && a.mode == 1 && !a.tend && a.until_.isNone && decide (a.nextIssue ≤ s.pbeat)

/-- The instruction at `PC`. -/
def State.spokeWord (s : State) (p : Nat) : Word32 := BitVec.ofNat 32 (leNat (s.atStart.bytes (scratchBase p + (s.spoke p).pc.toNat) 4))

/-- What an instruction asks of the issue: its opcode and functions, the bits that must be zero, its source registers (x at
0-31, v at 32-47, p at 48-55), and its own check, which gives a fault code with counter and value. -/
structure IssueForm where
  op    : Nat
  fns   : List Nat
  zero  : Nat
  srcs  : Word32 → List Nat
  check : State → SpokeState → Word32 → Option (Nat × Nat × Nat)

/-- No check of its own. -/
def noCheck (_ : State) (_ : SpokeState) (_ : Word32) : Option (Nat × Nat × Nat) := none

/-- A check that raises `SPOKE_FIELD`. -/
def fieldCheck (bad : Word32 → Bool) (_ : State) (_ : SpokeState) (w : Word32) : Option (Nat × Nat × Nat) :=
  if bad w then some (0x17, 0, 0) else none

/-- Issue the instruction at `PC` of spoke `p`, which must be of the given form: fetch and field checks, the stall for its
sources, its own check, then its effect on the state in which `PC` has moved past it. The fetch counts as a read once, when the
instruction issues or faults (R204; log entry 77). -/
def State.issueSpoke (s : State) (p : Nat) (f : IssueForm) (effect : State → Word32 → State) : State :=
  if !s.spokeFree p then s
  else
    let a := s.spoke p
    let w := s.spokeWord p
    if a.pc.toNat % 4 ≠ 0 ∨ a.pc.toNat < codeFirst a.layout ∨ codeEnd a.layout ≤ a.pc.toNat then s.spokeFault 0x18 p
    else
      match spokeOp w with
      | none => (s.countFetch (scratchBase p + a.pc.toNat) 4).spokeFault 0x17 p
      | some (op, fn) =>
        if op ≠ f.op ∨ !f.fns.contains fn then s
        else if (f.srcs w).any fun r => !a.readyBy s.pbeat r then s
        else
          let s0 := s.countFetch (scratchBase p + a.pc.toNat) 4
          if w.toNat &&& f.zero ≠ 0 then s0.spokeFault 0x17 p
          else
            match f.check s a w with
            | some (code, ctr, val) => s0.spokeFault code p ctr val
            | none => effect (s0.setSpoke p { a with pc := a.pc + 4, nextIssue := s.pbeat + 1 }) w

/-! ### Operand forms (Table 6.3) -/

/-- An instruction whose effect is on its spoke alone. -/
def State.issueOwn (s : State) (p : Nat) (f : IssueForm) (effect : Nat → SpokeState → Word32 → SpokeState) : State :=
  s.issueSpoke p f fun s w => s.setSpoke p (effect s.pbeat (s.spoke p) w)

/-- Format S: rd from rs1 and rs2. -/
def State.issueS (s : State) (p fn lat : Nat) (f : Word32 → Word32 → Word32) : State :=
  s.issueOwn p { op := 1, fns := [fn], zero := 0, srcs := fun w => [fld w 20 16, fld w 15 11], check := noCheck }
    fun pb a w => a.setX (fld w 25 21) (f (a.xr (fld w 20 16)) (a.xr (fld w 15 11))) (pb + lat)

/-- imm16, sign-extended. -/
def imm16 (w : Word32) : Word32 := BitVec.ofInt 32 (sext 16 (fld w 15 0))

/-- Format I: rd from rs1 and imm16. -/
def State.issueI (s : State) (p op unused : Nat) (bad : Word32 → Bool) (f : Word32 → Word32 → Word32) : State :=
  s.issueOwn p { op := op, fns := [0], zero := unused, srcs := fun w => [fld w 20 16], check := fieldCheck bad }
    fun pb a w => a.setX (fld w 25 21) (f (a.xr (fld w 20 16)) (imm16 w)) (pb + 1)

/-- Spoke address of a format I access. -/
def addrI (a : SpokeState) (w : Word32) : Nat := (a.xr (fld w 20 16) + imm16 w).toNat
/-- Spoke address of a format M access. -/
def addrM (a : SpokeState) (w : Word32) : Nat := (a.xr (fld w 21 17) + BitVec.ofInt 32 (4 * sext 14 (fld w 13 0))).toNat

/-- A scalar load of `n` bytes (R176, R177). -/
def State.issueLoad (s : State) (p op n : Nat) (signed : Bool) : State :=
  s.issueOwn p
    { op := op, fns := [0], zero := 0, srcs := fun w => [fld w 20 16],
      check := fun _ a w => if spokeAddrBad a.layout p (addrI a w) n n false then some (0x18, 0, addrI a w) else none }
    fun pb a w =>
      match spokeAddr p (addrI a w) n with
      | some (off, far) =>
        let rd := fld w 25 21
        let a1 := if rd = 0 then a else { a.overwrite false rd 0xFFFF with ready := SMap.set 0 a.ready rd (pb + if far then 5 else 3) }
        { a1 with loads := a1.loads ++ [{ readAt := pb + if far then 2 else 1, addr := off, size := n, signed := signed,
                                          vec := false, reg := rd, sel := 1, lanes := if rd = 0 then 0 else 1 }] }
      | none => a

/-- A scalar store of `n` bytes (R176, R177). -/
def State.issueStore (s : State) (p op n : Nat) : State :=
  s.issueOwn p
    { op := op, fns := [0], zero := 0, srcs := fun w => [fld w 20 16, fld w 25 21],
      check := fun _ a w => if spokeAddrBad a.layout p (addrI a w) n n true then some (0x18, 0, addrI a w) else none }
    fun pb a w =>
      match spokeAddr p (addrI a w) n with
      | some (off, far) =>
        { a with stores := a.stores ++ [{ due := pb + if far then 2 else 1, addr := off,
                                          bytes := (leBytes n (a.xr (fld w 25 21)).toNat).zipIdx.map fun (b, i) => (off + i, b) }] }
      | none => a

/-- Format B: a branch taken holds issue for 3 beats, one not taken for 1 (R181). -/
def State.issueBranch (s : State) (p op : Nat) (c : Word32 → Word32 → Bool) : State :=
  s.issueOwn p { op := op, fns := [0], zero := 0, srcs := fun w => [fld w 25 21, fld w 20 16], check := noCheck }
    fun pb a w =>
      if c (a.xr (fld w 25 21)) (a.xr (fld w 20 16)) then
        { a with pc := a.pc - 4 + BitVec.ofInt 32 (4 * sext 16 (fld w 15 0)), nextIssue := pb + 3 }
      else a

/-- Source registers of a V-format instruction: va, vb, vc as used, and pg. -/
def srcsV (va vb vc : Bool) (w : Word32) : List Nat :=
  (if va then [32 + fld w 21 18] else []) ++ (if vb then [32 + fld w 17 14] else []) ++ (if vc then [32 + fld w 13 10] else []) ++
    [48 + fld w 9 7]

/-- Add flags to `SP_FFLAGS`. -/
def SpokeState.raise (a : SpokeState) (f : BitVec 5) : SpokeState := { a with fflags := a.fflags ||| f }

/-- Format V into one v register; `ls` are the lanes written, the predicate's unless the instruction writes every lane. -/
def State.issueV (s : State) (p op : Nat) (fns : List Nat) (unused lat : Nat) (src : Word32 → List Nat) (bad : Word32 → Bool) (all : Bool)
    (f : SpokeState → Word32 → VRes) : State :=
  s.issueOwn p { op := op, fns := fns, zero := unused, srcs := src, check := fieldCheck bad }
    fun pb a w =>
      let r := f a w
      (a.setV (fld w 25 22) r.1 (if all then 0xFFFF else a.pr (fld w 9 7)) (pb + lat)).raise r.2

/-- No field rule beyond the bits that must be zero. -/
def noBad (_ : Word32) : Bool := false

/-- One source va, lane by lane. -/
def lanes1 (f : Word32 → Word32 × BitVec 5) (a : SpokeState) (w : Word32) : VRes :=
  mapLanes (a.pr (fld w 9 7)) (a.vr (fld w 25 22)) fun i => f (lane (a.vr (fld w 21 18)) i)

/-- Sources va and vb, lane by lane. -/
def lanes2 (f : Word32 → Word32 → Word32 × BitVec 5) (a : SpokeState) (w : Word32) : VRes :=
  mapLanes (a.pr (fld w 9 7)) (a.vr (fld w 25 22)) fun i => f (lane (a.vr (fld w 21 18)) i) (lane (a.vr (fld w 17 14)) i)

/-- Sources va, vb and vc, lane by lane. -/
def lanes3 (f : Word32 → Word32 → Word32 → Word32 × BitVec 5) (a : SpokeState) (w : Word32) : VRes :=
  mapLanes (a.pr (fld w 9 7)) (a.vr (fld w 25 22)) fun i =>
    f (lane (a.vr (fld w 21 18)) i) (lane (a.vr (fld w 17 14)) i) (lane (a.vr (fld w 13 10)) i)

/-- Sources va, vb and vc over 32 BF16 lanes. -/
def halves3 (f : Nat → Nat → Nat → Nat × BitVec 5) (a : SpokeState) (w : Word32) : VRes :=
  mapHalves (a.pr (fld w 9 7)) (a.vr (fld w 25 22)) fun i =>
    f (half (a.vr (fld w 21 18)) i) (half (a.vr (fld w 17 14)) i) (half (a.vr (fld w 13 10)) i)

/-- Two-source form of an opcode: vc unused. -/
def State.issueV2 (s : State) (p op fn lat : Nat) (f : Word32 → Word32 → Word32 × BitVec 5) : State :=
  s.issueV p op [fn] 0x3C00 lat (srcsV true true false) noBad false (lanes2 f)

/-- One-source form of an opcode: vb and vc unused. -/
def State.issueV1 (s : State) (p op fn lat : Nat) (f : Word32 → Word32 × BitVec 5) : State :=
  s.issueV p op [fn] 0x3FC00 lat (srcsV true false false) noBad false (lanes1 f)

/-- An integer operation raises no flag. -/
def plain2 (f : Word32 → Word32 → Word32) (a b : Word32) : Word32 × BitVec 5 := (f a b, 0)

/-- `VCMP` form: pd lane i is the comparison where pg lane i is set, else 0. -/
def State.issueCmp (s : State) (p fn : Nat) (f : Word32 → Word32 → Bool × BitVec 5) : State :=
  s.issueOwn p { op := 0x33, fns := [fn], zero := 0x02003C00, srcs := srcsV true true false, check := noCheck }
    fun pb a w =>
      let pg := a.pr (fld w 9 7)
      let rs := (List.range 16).map fun i =>
        if bitOf pg i then f (lane (a.vr (fld w 21 18)) i) (lane (a.vr (fld w 17 14)) i) else (false, 0)
      let bits := BitVec.ofNat 16 (packBits 1 (rs.map fun r => r.1.toNat))
      (a.setP (fld w 24 22) bits (pb + 2)).raise ((rs.map (·.2)).foldl (· ||| ·) 0)

/-- A register pair as keys and payloads (R184). -/
def pairOf (a : SpokeState) (n : Nat) : List (Word32 × Word32) := (lanes (a.vr n)).zip (lanes (a.vr (n + 1)))

/-- Write a register pair where the predicate selects (R182). -/
def SpokeState.setPair (a : SpokeState) (n : Nat) (pred : BitVec 16) (lo hi : List Word32) (at_ : Nat) : SpokeState :=
  let merge (old : BitVec 512) (new : List Word32) : BitVec 512 := (mapLanes pred old fun i => ((new[i]?).getD 0, 0)).1
  (a.setV n (merge (a.vr n) lo) pred at_).setV (n + 1) (merge (a.vr (n + 1)) hi) pred at_

end Sys2Proof.Machine
end

