-- ==== Sys2Proof/Machine/Beats.lean ====
section
/-! DEFINITION. The hold network, the brake, waits on servant counters and the beat counters (chapter 2). -/

namespace Sys2Proof.Machine

open Sys2Proof

/-! ### HOLD_DEMAND_ARRIVAL (R35, R36, R38, R40, R48, R50) -/

/-- The causes that hold wall beat `w`, from the demands of 16 wall beats earlier and the brake pattern. -/
structure Causes where
  wait  : Bool
  brake : Bool
  shift : Bool
  hub   : Bool
  deriving DecidableEq, Repr

def Causes.held (c : Causes) : Bool := c.wait || c.brake || c.shift || c.hub

/-- The causes of wall beat `w` (R38, R50): a demand counts when it stood at the end of beat w - 16. -/
def State.causesAt (s : State) (w : Nat) : Causes :=
  let d := if w < 16 then {} else s.seenDemands (w - 16)
  { wait := d.wait, brake := brakeHolds (s.brakeAt w) w, shift := d.shift, hub := d.hub }

/-- Add one to a per-cause counter whose cause is active (R36). -/
def countIf (b : Bool) (w : Word64) : Word64 := if b then w + 1 else w

/-- A wait counts the held wall beat that ends, from the first that its own demand can hold (R44). -/
def countHeld (s : State) (w : WaitState) : WaitState :=
  if s.beat.held ∧ w.sampleWall + 16 ≤ s.wall then { w with heldLeft := w.heldLeft - 1 } else w

/-- The beat block after the beat in progress ends: the counters of the beat that ended, and the decision for the next. -/
def State.nextBeat (s : State) : BeatState :=
  let b := s.beat
  let c := s.causesAt (s.wall + 1)
  { b with
    schedBeat := countIf (!b.held) b.schedBeat
    wallBeat := b.wallBeat + 1
    heldWait := countIf b.causeWait b.heldWait
    heldBrake := countIf b.causeBrake b.heldBrake
    heldShift := countIf b.causeShift b.heldShift
    heldHub := countIf b.causeHub b.heldHub
    held := c.held
    causeWait := c.wait
    causeBrake := c.brake
    causeShift := c.shift
    causeHub := c.hub
    routed := if s.live || !s.prog.running then b.routed + 1 else b.routed
    history := s.demandsNow :: b.history.take 15
    waits := b.waits.map (countHeld s) }

/-- Arrays shape their supply current in the beat that begins: live broadcasts by R93, held beats by R98. In a release notice the
level rises at the latest when one row in each held beat left just reaches that of the first live broadcast. A hold so short that its first
held beat must already ramp rises in that beat (DESIGN CHOICE, log entry 102: R98's first bullet would keep the last level there). -/
def State.shapeArray (s : State) (g : Nat) (a : ArrayState) : ArrayState :=
  let a1 :=
    if s.beat.held then
      let a0 := a.shapeHeld
      match s.heldLeft with
      | some k => if a0.driven + k ≤ a0.rampTarget s.pbeat then a0.rampUp s.wall else a0
      | none => a0
    else a.shapeLive s.pbeat
  a1.dummyPass g s.wall

/-- What ends with a beat: steps of signal counters take effect (R120), and what memory held at its start is no longer read
(R26, R109). -/
def State.endBeat (s : State) : State :=
  { s with t0Writes := [], beatMem := none, counters := SMap.update {} s.counters fun _ c => c.endBeat }

/-! ### Before the counters run (R48, R272) -/

/-- The provisional `WALL_BEAT` of a die. -/
def State.provWall (s : State) (d : Nat) : Nat := s.beat.provBeats + SMap.get 0 s.beat.prov d

/-- The ten compute–compute links are live. -/
def State.linksAligned (s : State) : Bool := (List.range 10).all fun l => (s.linkEnd (2 * l)).state == 4

/-- A beat of the truing stage ends before the counters run. Once all ten links are aligned, site 0 raises zero_mark in a beat 16 before
a multiple of 1,024; the count goes no further than 16 beats after it (R272). -/
def State.provBeat (s : State) : State :=
  let b := s.beat
  match b.zeroMark with
  | some m => if b.provBeats < m + 16 then s.setBeat { b with provBeats := b.provBeats + 1 } else s
  | none =>
    let s1 := s.setBeat { b with provBeats := b.provBeats + 1 }
    if s1.linksAligned && (s1.provWall 0 + 16) % 1024 == 0 then s1.setBeat { s1.beat with zeroMark := some s1.beat.provBeats } else s1

/-- `HOLD_DEMAND_ARRIVAL`: the wall beat in progress ends, and every hold controller decides the next one (R38). Arrays shape
their supply current beat by beat (R93, R98), the loads of the spokes read at the start of their beat (R177), and derailleurs check what they sum in it (R217). Before the
counters run, in the truing stage, only provisional counts do (R48, R272). -/
def execHoldDemandArrival (s : State) : Out :=
  if !s.beat.aligned then ok (if s.power.stage = 2 ∧ s.power.clocks then s.provBeat else s)
  else
    let s1 := s.endBeat.setBeat s.nextBeat
    let s2 : State := { s1 with arrays := SMap.update {} s1.arrays s1.shapeArray }
    ok (if s2.runs then forAll 8 s2.landLoads fun s d => s.combineCheck d else s2)

/-- `BRAKE_APPLY`: a new value of n takes effect, at the first frame that starts at least 16 wall beats after it was set (R50).
Of values that are due together the one set last counts. -/
def execBrakeApply (s : State) : Out :=
  if s.beat.brakePending.any (brakeDue s.wall) then
    ok (s.setBeat { s.beat with brakeN := BitVec.ofNat 4 (s.brakeAt s.wall)
                                brakePending := s.beat.brakePending.filter fun p => !brakeDue s.wall p })
  else ok s

/-! ### Waits (R40, R44, R45) -/

/-- The wait demand of a unit that stands. -/
def State.waitOf (s : State) (u : WaitUnit) : Option WaitState := s.beat.waits.find? fun w => w.unit == u

/-- Drop a unit's wait. -/
def State.dropWait (s : State) (u : WaitUnit) : State :=
  s.setBeat { s.beat with waits := s.beat.waits.filter fun w => w.unit != u }

/-- The counter of a wait is at or above its target (R41, R122). -/
def State.waitMet (s : State) (w : WaitState) : Bool := atOrAbove (s.counterValue w.die.val w.counter) w.target

/-- The abort flag of a chunk counter that a wait names is set (R45). -/
def State.waitAborts (s : State) (w : WaitState) : Bool :=
  decide (0x120 ≤ w.counter) && decide (w.counter < 0x160) && s.abortCopyBit w.die.val (w.counter - 0x120)

/-- `WAIT_RELEASE`: the counter copy has reached the target, and the demand drops (R40). -/
def execWaitRelease (u : WaitUnit) (s : State) : Out :=
  match s.waitOf u with
  | some w => if s.waitMet w && !s.waitAborts w then ok (s.dropWait u) else ok s
  | none => ok s

/-- `WAIT_TIMEOUT`: the timeout has expired with the counter still short; the fault's hub service demand takes the place of
the wait demand (R44, R46). -/
def execWaitTimeout (u : WaitUnit) (s : State) : Out :=
  match s.waitOf u with
  | some w =>
    if w.heldLeft = 0 ∧ !s.waitMet w then ok ((s.dropWait u).waitFault 0x02 u w.counter w.target.toNat) else ok s
  | none => ok s

/-- `WAIT_ABORTED`: a wait holds on a chunk counter whose abort flag is set (R45). -/
def execWaitAborted (u : WaitUnit) (s : State) : Out :=
  match s.waitOf u with
  | some w => if s.waitAborts w then ok ((s.dropWait u).waitFault 0x03 u w.counter w.target.toNat) else ok s
  | none => ok s

/-! ### Servant counters (R42, R467) -/

/-- The servant's own value of a counter, by identifier less 0x100, as die `d` sees it (Table 4.10). -/
def State.servantValue (s : State) (d i : Nat) : Word32 :=
  if i < 0x20 then (s.channel (32 * d + i)).count
  else if i < 0x60 then SMap.get 0 s.chunk (i - 0x20)
  else SMap.get 0 s.hubCount (i - 0x60)

/-- A servant's value, and a chunk counter's abort flag, appear in a die's beat-domain copy (R42, R45). -/
def State.crossCounter (s : State) (i d : Nat) : State :=
  let c := s.dieCounters d
  let flag := if 0x20 ≤ i ∧ i < 0x60 then
      setFld c.abortCopy (i - 0x20) (i - 0x20) (if bitOf s.abort (i - 0x20) then 1 else 0)
    else c.abortCopy
  s.setDieCounters d { c with copies := SMap.set 0 c.copies i (s.servantValue d i), abortCopy := flag }

/-- `SERVANT_COUNTER_CROSSING`: the servant's value appears in the die's beat-domain copy (R42, R45). The copies of a chunk counter on all
eight dies step together (R384). -/
def execServantCounterCrossing (d : DieId) (i : ServantCounterId) (s : State) : Out :=
  ok (if 0x20 ≤ i.val ∧ i.val < 0x60 then forAll 8 s fun s x => s.crossCounter i x else s.crossCounter i d)

end Sys2Proof.Machine
end

