-- ==== Sys2Proof/Machine/Memory.lean ====
section
/-! DEFINITION. The servant sides of the memory tiers: refresh, vault slots, scrubbing, HBM4 and capacity stacks
(chapter 7). -/

namespace Sys2Proof.Machine

open Sys2Proof

/-! ### Refresh (R208-R210) -/

/-- Operations owed per ns in 1/256, by `REFRESH` code (R209). -/
def refreshUnits (code : Nat) : Nat := match code with | 0 => 1 | 1 => 2 | _ => 4

/-- Refresh operations that each vault of a die has come to owe, in 1/256. -/
def State.owedUnits (s : State) (d : Nat) : Nat :=
  let m := s.dmem d
  match m.owedAt with
  | some t => m.owedUnits + (s.nowNs - t) * refreshUnits m.refresh.toNat
  | none => m.owedUnits

/-- Refresh operations that a vault owes now. -/
def State.vaultDebt (s : State) (g : Nat) : Nat := s.owedUnits (g / 2048) / 256 - (s.vault g).paid

/-- Count what is owed up to now, and go on at the rate of the given code (R209, R220). -/
def State.setRefresh (s : State) (d : Nat) (code : BitVec 2) : State :=
  let m := s.dmem d
  s.setDmem d { m with owedUnits := s.owedUnits d, owedAt := m.owedAt.map fun _ => s.nowNs, refresh := code }

/-- Servant-phase beats of a plan in the 16 phases before phase `p`. -/
def servantBefore (plan p : Nat) : Nat := ((List.range p).filter fun i => servantPhase plan i).length

/-- A program beat is a refresh beat: one of the first 32 servant-phase beats of its frame of 4,096 (R208). -/
def refreshBeat (plan pb : Nat) : Bool :=
  let b := pb % 4096
  servantPhase plan (b % 16) && decide (b / 16 * servantBefore plan 16 + servantBefore plan (b % 16) < 32)

/-- What a vault's slot of this beat is for. In a held beat every slot is a servant slot, but in a release notice, which takes in every
brake-held beat (R207, R208, R212, R213). -/
inductive VaultSlot where
  | closed | refresh | servant
  deriving DecidableEq, Repr

/-- The slot of a vault in this beat; one slot a beat. -/
def State.vaultSlot (s : State) (g : Nat) : VaultSlot :=
  if !s.beat.aligned || (s.vault g).slotAt == some s.wall then .closed
  else if !s.prog.running then .servant
  else if s.beat.held then (if s.inReleaseNotice || s.beat.causeBrake then .closed else .servant)
  else if refreshBeat s.prog.plan.toNat s.pbeat then .refresh
  else if servantPhase s.prog.plan.toNat (s.pbeat % 16) then .servant
  else .closed

/-- Refresh takes this servant slot ahead of everything else: while more than 64 operations are owed in a live beat, and while
any is owed in a held beat or with no program (R210, R213). The second slot of a merge is never taken (R211). -/
def State.refreshFirst (s : State) (g : Nat) : Bool :=
  !(s.vault g).merging && decide ((if s.prog.running && !s.beat.held then 64 else 0) < s.vaultDebt g)

/-- `REFRESH_OP`: the vault's refresh controller pays up to g operations from a refresh beat or a slot (R210). -/
def execRefreshOp (g : ArrayId) (s : State) : Out :=
  let v := s.vault g
  let pays := min s.gearDiv (s.vaultDebt g)
  match s.vaultSlot g with
  | .refresh => ok (s.setVault g { v with paid := v.paid + pays, slotAt := some s.wall })
  | .servant => if s.refreshFirst g then ok (s.setVault g { v with paid := v.paid + pays, slotAt := some s.wall }) else ok s
  | .closed => ok s

/-! ### Servant accesses and scrubbing (R211, R215) -/

/-- A scrub read is due. -/
def State.scrubDue (s : State) (g : Nat) : Bool :=
  let m := s.dmem (g / 2048)
  m.owedAt.isSome && decide ((s.vault g).scrubAt.getD (m.servingFrom + 64000) ≤ s.nowNs)

/-- A servant slot is free for a scrub operation. -/
def State.scrubSlot (s : State) (g : Nat) : Bool :=
  s.vaultSlot g == .servant && !s.refreshFirst g && !(s.vault g).merging && !s.inDomainReset (.vault (Fin.ofNat 8 (g / 2048)))

/-- The bytes of a request that lie in the line of its first byte (R205). -/
def linePart (g : Nat) (q : ServantReq) : Nat := min q.len (96 - (q.addr - vaultBase g) % 96)

/-- Every byte range of a request that it covers is whole aligned words. -/
def wholeWords (off n : Nat) : Bool := off % 8 == 0 && n % 8 == 0

/-- The new value of an atomic operation (Table 11.6), on words of `len` bytes. -/
def atomicValue (aop len old op0 op1 : Nat) : Nat :=
  let n := 8 * len
  match aop with
  | 0 => (old + op0) % 2 ^ n
  | 1 => op0
  | 2 => if old = op0 then op1 else old
  | 3 => if sext n old ≤ sext n op0 then old else op0
  | 4 => if sext n op0 ≤ sext n old then old else op0
  | 5 => min old op0
  | 6 => max old op0
  | _ => (fp32.addOp old op0).1

/-- What an atomic operation makes of the bytes it finds: its status, the old value as eight bytes, and the bytes to write (R56, R218,
R344). -/
def State.atomicResult (s : State) (aop len op0 op1 : Nat) (bs : List (Byte × Bool)) : Nat × List Byte × Option (List Byte) :=
  if bs.any (·.2) then (0x11, [], none)
  else if aop = 7 ∧ s.ordered then (0x12, [], none)
  else
    let old := leNat (bs.map (·.1))
    (0x00, leBytes 8 old, some (leBytes len (atomicValue aop len old (op0 % 2 ^ (8 * len)) (op1 % 2 ^ (8 * len)))))

/-- Bytes with no poison. -/
def clean (bs : List Byte) : List (Byte × Bool) := bs.map fun b => (b, false)

/-- Perform an atomic request of vaults or capacity stacks, and answer it. -/
def State.performAtomic (s : State) (q : ServantReq) (a : Nat × Nat × Nat) : State :=
  let (bs, s1) := s.readMem q.addr q.len
  let (st, old, new) := s1.atomicResult a.1 q.len a.2.1 a.2.2 bs
  (match new with | some v => s1.writeFresh q.addr v | none => s1).respond q st (clean old)

/-- A request of a vault that takes two slots, a read and then the merged write (R211, R344). -/
def mergesAt (g : Nat) (q : ServantReq) : Bool := q.atomic.isSome || (q.write && !wholeWords q.addr (linePart g q))

/-- `VAULT_SERVANT_ACCESS`: the oldest request takes a servant slot for one line; a write of part of a word, and an atomic operation,
take two, a read and then the merged write (R211). -/
def execVaultServantAccess (g : ArrayId) (s : State) : Out :=
  let v := s.vault g
  match v.queue with
  | q :: rest =>
    if s.vaultSlot g == .servant && !s.refreshFirst g && (v.merging || (v.writeback.isNone && !s.scrubDue g)) then
      let k := linePart g q
      let last := decide (q.len ≤ k)
      if mergesAt g q && !v.merging then ok (s.setVault g { v with merging := true, slotAt := some s.wall })
      else
        match q.atomic with
        | some a => ok ((s.setVault g { v with merging := false, slotAt := some s.wall, queue := rest }).performAtomic q a)
        | none =>
          let q' : ServantReq := { q with addr := q.addr + k, len := q.len - k, data := q.data.drop k, poison := q.poison.drop k }
          if q.write then
            let s1 := s.writeMem q.addr ((q.data.zip q.poison).take k)
            let s2 := s1.setVault g { v with merging := false, slotAt := some s.wall, queue := if last then rest else q' :: rest }
            ok (if last then s2.respond q 0 [] else s2)
          else
            let (bs, s1) := s.readMem q.addr k
            let got := q.got ++ bs
            let s2 := s1.setVault g { v with slotAt := some s.wall, queue := if last then rest else { q' with got := got } :: rest }
            ok (if last then s2.respond q 0 got else s2)
    else ok s
  | [] => ok s

/-- Offsets of the words of a vault line that hold a single-bit error. -/
def State.singles (s : State) (g line : Nat) : List Nat :=
  ((List.range 12).map fun i => vaultBase g + 96 * line + 8 * i).filter fun a => s.mark a == some .single

/-- `SCRUB_READ`: each 64 us the scrubber reads its next line; a single-bit error is to be written back (R215). -/
def execScrubRead (g : ArrayId) (s : State) : Out :=
  if s.scrubSlot g && s.scrubDue g && (s.vault g).writeback.isNone then
    let v := s.vault g
    let line := v.scrubLine.toNat
    let due := v.scrubAt.getD ((s.dmem (g / 2048)).servingFrom + 64000)
    let (_, s1) := s.readMem (vaultBase g + 96 * line) 96
    ok (s1.setVault g { v with scrubLine := v.scrubLine + 1, scrubAt := some (due + 64000), slotAt := some s.wall,
                               writeback := if (s.singles g line).isEmpty then none else some line })
  else ok s

/-- `SCRUB_WRITEBACK`: the line goes back corrected in the next servant slot; its bad words stay as they are (R215). -/
def execScrubWriteback (g : ArrayId) (s : State) : Out :=
  match (s.vault g).writeback with
  | some line =>
    if s.scrubSlot g then
      let s1 := (s.singles g line).foldl (fun s a => s.setMark a none) s
      ok (s1.setVault g { s1.vault g with writeback := none, slotAt := some s.wall })
    else ok s
  | none => ok s

/-! ### HBM4 stacks (R224-R228) -/

/-- Bits `[hi:lo]` of an offset exclusive-or another field. -/
def xorBits (a hi lo hi2 lo2 : Nat) : Nat := nfld a hi lo ^^^ nfld a hi2 lo2

/-- Pseudo-channel, bank, row and column of an HBM4 offset (Table 7.5). -/
def hbmPlace (a : Nat) : Nat × Nat × Nat × Nat := (xorBits a 11 6 25 20, xorBits a 19 16 29 26, nfld a 35 20, nfld a 15 12)

/-- Rank, channel, bank, row and column of a capacity offset (Table 7.6). -/
def capPlace (a : Nat) : Nat × Nat × Nat × Nat × Nat :=
  (nfld a 37 36, xorBits a 9 7 21 19, xorBits a 18 14 26 22, nfld a 35 19, nfld a 13 10)

/-- Bank place and row of an HBM4 or capacity offset, for open rows. -/
def rowPlace (cap : Bool) (a : Nat) : Nat × Nat :=
  if cap then let (k, c, b, r, _) := capPlace a; ((k * 8 + c) * 32 + b, r)
  else let (p, b, r, _) := hbmPlace a; (p * 16 + b, r)

/-- Count an access as a row hit or miss, and leave its row open. -/
def StackState.touchRow (t : StackState) (cap : Bool) (a : Nat) : StackState :=
  let p := rowPlace cap a
  if t.openRows.contains p then { t with rowHit := t.rowHit + 1 }
  else { t with rowMiss := t.rowMiss + 1, openRows := p :: t.openRows.filter fun x => x.1 != p.1 }

/-- Close every row of an HBM4 stack that no waiting request needs (R225). For capacity stacks the spec gives no such rule: their rows
stay open until another row of the bank is opened (DESIGN CHOICE, log entry 14). -/
def StackState.closeRows (t : StackState) (base : Nat) : StackState :=
  let needed := t.queue.flatMap fun q =>
    (List.range ((q.addr % 64 + q.len + 63) / 64)).map fun i => rowPlace false (q.addr / 64 * 64 - base + 64 * i)
  { t with openRows := t.openRows.filter fun x => needed.contains x }

/-- Mark or clear the eight words of a 64-byte block. -/
def State.markBlock (s : State) (base words : Nat) (m : Option EccMark) : State :=
  (List.range words).foldl (fun s i => s.setMark (base + 8 * i) m) s

/-- Some word of an HBM4 block is poisoned: the stack reports the block uncorrectable (R228). -/
def State.blockBad (s : State) (base : Nat) : Bool := (List.range 8).any fun i => (s.mark (base + 8 * i)).isSome

/-- Finish `k` bytes of a request of a stack: it leaves the queue, or the rest of it goes to the front. -/
def StackState.advance (t : StackState) (q : ServantReq) (rest : List ServantReq) (k : Nat) (got : List (Byte × Bool)) : StackState :=
  if q.len ≤ k then { t with queue := rest }
  else { t with queue := { q with tries := 0, addr := q.addr + k, len := q.len - k, data := q.data.drop k, poison := q.poison.drop k, got := got, begun := true } :: rest }

/-- The controller has read a block of a stack: the stack's own report is counted (R228, R233). -/
def StackState.countRead (k : StackState) (block : Nat) (bad corrected : Bool) : StackState :=
  if bad then { k with ue := k.ue + 1, ueAddr := some (k.ueAddr.getD block) }
  else if corrected then { k with ce := k.ce + 1 } else k

/-- `STACK_ACCESS`: the controller of an HBM4 stack reads or writes one block of its oldest request, as the stack reports it. A write of
part of a block, and an atomic operation, read the block first (R225, R228, R233, R344). A stack that is not ready answers with an
error (Table 7.8). -/
def execStackAccess (t : Fin 16) (rep : AccessReport) (s : State) : Out :=
  let k := s.stk t
  match k.queue with
  | q :: rest =>
    if s.inDomainReset (.stk t) then ok s
    else if k.state ≠ 2 then ok ((s.setStk t { k with queue := rest }).respond q 0x10 [])
    else if rep = .interfaceError ∧ q.tries < 3 then
      ok (s.setStk t { k with queue := { q with tries := q.tries + 1 } :: rest, retry := k.retry + 1 })
    else
      let base := hbmBase t
      let block := q.addr / 64 * 64
      let n := min q.len (64 - q.addr % 64)
      let last := decide (q.len ≤ n)
      let failed := rep == .interfaceError
      let reads := !q.write || decide (n < 64)
      let bad := reads && (s.blockBad block || rep == .uncorrectable)
      let k1 := (k.touchRow false (q.addr - base)).countRead (block - base) (bad && !failed) (reads && rep == .corrected)
      match q.atomic with
      | some a =>
        let (st, old, new) := s.atomicResult a.1 q.len a.2.1 a.2.2 ((s.bytes q.addr n).map fun b => (b, bad || failed))
        let s1 := s.setStk t ((k1.advance q rest n []).closeRows base)
        let s2 := match new with | some v => (s1.putBytes q.addr v).markBlock block 8 none | none => s1
        ok (s2.respond q st (clean old))
      | none =>
        if q.write then
          let poisoned := failed || bad || (q.poison.take n).any id
          let s1 := (s.putBytes q.addr (q.data.take n)).markBlock block 8 (if poisoned then some .poison else none)
          let s2 := s1.setStk t ((k1.advance q rest n []).closeRows base)
          ok (if last then s2.respond q 0 [] else s2)
        else
          let got := q.got ++ (s.bytes q.addr n).map fun b => (b, bad || failed)
          let s1 := s.setStk t ((k1.advance q rest n got).closeRows base)
          ok (if last then s1.respond q 0 got else s1)
  | [] => ok s

/-! ### Capacity ports (R229, R230) -/

/-- `CAP_TURN`: at a turn boundary of 128 ns the port chooses its direction (R229). -/
def execCapTurn (t : Fin 16) (s : State) : Out :=
  let k := s.stk (16 + t.val)
  if k.state == 2 && decide (k.turnAt + 128 ≤ s.nowNs) && !s.inDomainReset (.cap t) then
    let reads := k.queue.any fun q => !q.write
    let writes := k.queue.any fun q => q.write
    let dir := if reads && writes then !k.dirWrite else if writes then true else if reads then false else k.dirWrite
    ok (s.setStk (16 + t.val) { k with turnAt := k.turnAt + (s.nowNs - k.turnAt) / 128 * 128, dirWrite := dir, turned := dir != k.dirWrite })
  else ok s

/-- The CRC-16 of a 256-bit flit, most significant bit first, from 0 (R229; log entry 14). -/
def flitCrc (v : Nat) : Nat := crc16F 256 v 0

/-- What the far end of a capacity port receives of a flit of bytes when the lanes change the bits of `err`, and whether its CRC holds:
data in bits [255:0], CRC above. -/
def receivedFlit (bs : List Byte) (err : BitVec 272) : List Byte × Bool :=
  let v := leNat bs
  let got := v ^^^ (err.toNat % 2 ^ 256)
  (leBytes 32 got, flitCrc got == flitCrc v ^^^ (err.toNat / 2 ^ 256))

/-- `CAP_FLIT_RECEIVE`: one 32-byte flit of the oldest request of the port's direction crosses, its bits changed by `err`; a flit whose
CRC fails is sent again up to four times, and its data, or the granule that it writes, is then poisoned (R229, R230; log entry
14). A stack that is not ready answers every request with an error (Table 7.8). -/
def execCapFlitReceive (t : Fin 16) (err : BitVec 272) (s : State) : Out :=
  let i := 16 + t.val
  let k := s.stk i
  match k.queue.find? fun q => k.state != 2 || q.write == k.dirWrite with
  | some q =>
    let others := k.queue.erase q
    let n := min q.len (32 - q.addr % 32)
    let out := if q.write then q.data.take n else s.bytes q.addr n
    let (rx, crcOk) := receivedFlit (List.replicate (q.addr % 32) 0 ++ out) err
    let got := (rx.drop (q.addr % 32)).take n
    if s.inDomainReset (.cap t) then ok s
    else if k.state ≠ 2 then ok ((s.setStk i { k with queue := others }).respond q 0x10 [])
    else if k.turned && decide (s.nowNs < k.turnAt + 8) then ok s
    else if !crcOk && decide (q.tries < 4) then
      ok (s.setStk i { k with queue := { q with tries := q.tries + 1 } :: others, retry := k.retry + 1 })
    else
      let last := decide (q.len ≤ n)
      let base := capBase t
      let k1 := if q.addr % 128 = 0 ∨ !q.begun then k.touchRow true (q.addr - base) else k
      match q.atomic with
      | some a =>
        let s1 := s.setStk i { k1 with queue := others }
        ok (if crcOk then s1.performAtomic q a else s1.respond q 0x11 [])
      | none =>
        if q.write then
          let bad := q.spoilt || !crcOk
          let s1 := s.setStk i (k1.advance { q with spoilt := bad && decide (q.addr / 128 = (q.addr + n) / 128) } others n [])
          let s2 := s1.writeMem q.addr (got.zip (q.poison.take n))
          let s3 := if bad then s2.markBlock (q.addr / 128 * 128) 16 (some .poison) else s2
          ok (if last then s3.respond q 0 [] else s3)
        else
          let (bs, s1) := s.readMem q.addr n
          let all := q.got ++ got.zip (bs.map fun b => b.2 || !crcOk)
          let s2 := s1.setStk i { k1.advance q others n all with ce := (s1.stk i).ce, ue := (s1.stk i).ue, ueAddr := (s1.stk i).ueAddr }
          ok (if last then s2.respond q 0 all else s2)
  | none => ok s

end Sys2Proof.Machine
end

