-- ==== Sys2Proof/Machine/HubOps.lean ====
section
/-! DEFINITION. Mailbox slots, responses and the commands that are open at the hub (R398-R403). -/

namespace Sys2Proof.Machine

open Sys2Proof

/-! ### Status codes (Table 14.4) -/

def stDone : Nat := 0x00
def stAccepted : Nat := 0x01
def stField : Nat := 0x10
def stState : Nat := 0x11
def stAuth : Nat := 0x12
def stBusy : Nat := 0x13
def stFailed : Nat := 0x20
def stTimedOut : Nat := 0x21
def stAborted : Nat := 0x22

/-! ### Response slots (Table 14.3) -/

/-- A response slot; `res` is bytes 8 to 63. -/
def respSlot (opcode status tag foff kind res : Nat) : BitVec 512 :=
  BitVec.ofNat 512 (opcode % 256 + 2 ^ 8 * (status % 256) + 2 ^ 16 * (tag % 65536) + 2 ^ 32 * (foff % 65536) +
    2 ^ 48 * (kind % 256) + 2 ^ 64 * res)

/-- A result of `n` bytes at byte `off` of a slot, as a part of bytes 8 to 63. -/
def resAt (off n v : Nat) : Nat := (v % 2 ^ (8 * n)) * 2 ^ (8 * (off - 8))

/-- Responses that the ring holds. -/
def MailboxState.held (m : MailboxState) : Nat := (m.rspTail - m.rspHead).toNat

/-- Put a response into the ring, which has room (R402, R419): `RSP_COUNT` and `RESPONSE` always, the hub counter for a
completion. -/
def State.placeSlot (s : State) (n : Nat) (slot : BitVec 512) : State :=
  let m := s.mb n
  let s1 := s.setMb n { m with rspSlots := SMap.set 0 m.rspSlots (m.rspTail.toNat % 64) slot, rspTail := m.rspTail + 1,
                               rspCount := m.rspCount + 1, event := m.event ||| 1 }
  if slotN slot 6 1 = 1 then { s1 with hubCount := SMap.set 0 s1.hubCount n (SMap.get 0 s1.hubCount n + 1) } else s1

/-- Post a response in a mailbox: it waits while the ring is full (R402). -/
def State.postSlot (s : State) (n : Nat) (slot : BitVec 512) : State :=
  let m := s.mb n
  if m.held < 64 ∧ m.waiting = [] then s.placeSlot n slot else s.setMb n { m with waiting := m.waiting ++ [slot] }

/-- Move waiting responses into the slots that have become free. -/
def State.drainWaiting : Nat → State → Nat → State
  | 0, s, _ => s
  | fuel + 1, s, n =>
    match (s.mb n).waiting with
    | slot :: rest =>
      if (s.mb n).held < 64 then State.drainWaiting fuel ((s.setMb n { s.mb n with waiting := rest }).placeSlot n slot) n else s
    | [] => s

/-- Answer a sender: a mailbox, or the neighbour on a cube port (R401). -/
def State.reply (s : State) (who : SenderId) (slot : BitVec 512) : State :=
  if who.val < 32 then s.postSlot who.val slot
  else s.setHub { s.hub with relayOut := s.hub.relayOut ++ [(Fin.ofNat 24 (who.val - 32), true, slot)] }

/-! ### Open commands (R402) -/

/-- Opcode and tag of a command slot. -/
def slotOp (c : BitVec 512) : Nat := slotN c 0 1
def slotTag (c : BitVec 512) : Nat := slotN c 2 2

/-- The open command of a sender with this tag and opcode. -/
def State.openCmd (s : State) (who : SenderId) (tag opcode : Nat) : Option OpenCmd :=
  s.hub.openCmds.find? fun o => o.mb == who && o.tag.toNat == tag && o.opcode.toNat == opcode

/-- Complete a long command: it receives exactly one completion, and none once it has been ended otherwise (R402). -/
def State.completeCmd (s : State) (who : SenderId) (tag opcode status foff res : Nat) : State :=
  match s.openCmd who tag opcode with
  | some o =>
    (s.setHub { s.hub with openCmds := s.hub.openCmds.erase o }).reply who (respSlot opcode status tag foff 1 res)
  | none => s

/-- A command is long for its parameters (Table 14.5; log entry 15). -/
def isLong (c : BitVec 512) : Bool :=
  match slotOp c with
  | 0x02 | 0x03 | 0x10 => slotN c 8 8 != 0
  | 0x05 => slotN c 24 8 != 0
  | 0x23 => slotN c 10 1 % 2 == 0
  | 0x04 | 0x11 | 0x12 | 0x20 | 0x21 | 0x22 | 0x30 | 0x31 | 0x32 | 0x33 | 0x40 | 0x41 | 0x42 | 0x43 => true
  | _ => false

/-- The foreground part of the current command ends with its answer: the completion of a long command, the first response of
any other (R402, R403). -/
def State.finish (s : State) (c : Accepted) (status foff res : Nat) : State :=
  let s1 := s.setHub { s.hub with current := none, job := none }
  if isLong c.slot then s1.completeCmd c.mb (slotTag c.slot) (slotOp c.slot) status foff res
  else s1.reply c.mb (respSlot (slotOp c.slot) status (slotTag c.slot) foff 0 res)

/-- The foreground part of the current command ends, and its completion follows later (R403). -/
def State.background (s : State) : State := s.setHub { s.hub with current := none, job := none }

/-- A buf range lies within one region of Table 8.5 (Table 14.6): in a local store its data area while a program runs on the
array. -/
def State.oneRegion (s : State) (off len : Nat) : Bool :=
  match regionOf off with
  | some (.store g, o) => decide (o + max 1 len ≤ if s.arrayRuns g then 0x2C000 else 0x30000)
  | some (.cap _, o) => decide (o % 0x1000000000 + max 1 len ≤ 0x1000000000)
  | some (r, o) => decide (o + max 1 len ≤ r.size)
  | none => false

end Sys2Proof.Machine
end

