-- ==== Sys2Proof/Machine/Optical.lean ====
section
/-! DEFINITION. The bits on a wavelength: the RS(544,514) code, scrambling, frames and bursts (R282-R285, R295-R297). -/

namespace Sys2Proof.Machine

open Sys2Proof

/-! ### GF(2^10) (R285; PRESUMED, log entry 22: IEEE 802.3 Clause 91 gives the field by x^10 + x^3 + 1) -/

/-- A symbol times alpha. -/
def gfTimesAlpha (a : Nat) : Nat := if a < 512 then 2 * a else (2 * a - 1024) ^^^ 9

/-- The product of two symbols, over the low `n` bits of `b`. -/
def gfMulF : Nat → Nat → Nat → Nat
  | 0, _, _ => 0
  | n + 1, a, b => (if b % 2 = 1 then a else 0) ^^^ gfMulF n (gfTimesAlpha a) (b / 2)

def gfMul (a b : Nat) : Nat := gfMulF 10 a b

/-- Alpha to the power n. -/
def gfAlpha : Nat → Nat
  | 0 => 1
  | n + 1 => gfTimesAlpha (gfAlpha n)

/-- A symbol to the power of 2^n - 2 (the inverse for n = 10): the product of its squares a^2, a^4, ... -/
def gfInvF : Nat → Nat → Nat
  | 0, _ => 1
  | n + 1, a => gfMul (gfMul a a) (gfInvF n (gfMul a a))

/-- The inverse of a symbol: a^1022. -/
def gfInv (a : Nat) : Nat := gfInvF 9 a

/-- The value of a polynomial, lowest coefficient first, at `x`. -/
def gfEval (p : List Nat) (x : Nat) : Nat := p.foldr (fun c v => c ^^^ gfMul v x) 0

/-- The sum of two polynomials, and the product with a symbol. -/
def gfAdd : List Nat → List Nat → List Nat
  | [], q => q
  | p, [] => p
  | a :: p, b :: q => (a ^^^ b) :: gfAdd p q
def gfScale (c : Nat) (p : List Nat) : List Nat := p.map (gfMul c)

/-- The product of two polynomials. -/
def gfPolyMul : List Nat → List Nat → List Nat
  | [], _ => []
  | a :: p, q => gfAdd (gfScale a q) (0 :: gfPolyMul p q)

/-! ### RS(544,514) (R285, R287, R296) -/

/-- The generator polynomial, lowest coefficient first: the product of x - alpha^j for j = 0 to 29 (PRESUMED, log entry 22). -/
def rsGenerator : List Nat := (List.range 30).foldl (fun g j => gfPolyMul g [gfAlpha j, 1]) [1]

/-- One data symbol into the parity register, highest coefficient first. -/
def rsStep (r : List Nat) (d : Nat) : List Nat := gfAdd (r.tail ++ [0]) (gfScale (d ^^^ r.headD 0) (rsGenerator.take 30).reverse)

/-- A codeword from its data symbols, which come first, with the 30 parity symbols after them; fewer than 514 data symbols make a shortened
one, whose omitted leading symbols count as zero (R285, R296). -/
def rsEncode (ds : List Nat) : List Nat := ds ++ ds.foldl rsStep (List.replicate 30 0)

/-- The 30 syndromes of received symbols. -/
def rsSyndromes (r : List Nat) : List Nat := (List.range 30).map fun j => r.foldl (fun v c => gfMul v (gfAlpha j) ^^^ c) 0

/-- The state of the search for the error locator: locator, the last one that was replaced, its discrepancy, the steps since, and the
number of errors. -/
structure RsSearch where
  c : List Nat := [1]
  b : List Nat := [1]
  d : Nat := 1
  m : Nat := 1
  l : Nat := 0
  deriving DecidableEq, Repr

/-- Take syndrome `n` into the search. -/
def rsSearchStep (s : List Nat) (x : RsSearch) (n : Nat) : RsSearch :=
  let disc := (List.range (x.l + 1)).foldl (fun v i => v ^^^ gfMul (x.c.getD i 0) (s.getD (n - i) 0)) 0
  let c1 := gfAdd x.c (gfScale (gfMul disc (gfInv x.d)) (List.replicate x.m 0 ++ x.b))
  if disc = 0 then { x with m := x.m + 1 }
  else if 2 * x.l ≤ n then { c := c1, b := x.c, d := disc, m := 1, l := n + 1 - x.l }
  else { x with c := c1, m := x.m + 1 }

/-- The derivative of a polynomial. -/
def gfDerivative (p : List Nat) : List Nat := (p.zipIdx.map fun (c, i) => if i % 2 = 1 then c else 0).tail

/-- The error value at locator `x`, from the syndromes and the locator polynomial. -/
def rsErrorAt (s c : List Nat) (x : Nat) : Nat :=
  let omega := (gfPolyMul s c).take 30
  gfMul x (gfMul (gfEval omega (gfInv x)) (gfInv (gfEval (gfDerivative c) (gfInv x))))

/-- Decode received symbols: the number corrected and the data symbols; none when they lie more than 15 symbols from every codeword
(R285, R287). -/
def rsDecode (r : List Nat) : Option (Nat × List Nat) :=
  let s := rsSyndromes r
  if s.all (· == 0) then some (0, r.take (r.length - 30))
  else
    let x := (List.range 30).foldl (rsSearchStep s) {}
    let bad (i : Nat) : Bool := gfEval x.c (gfInv (gfAlpha (r.length - 1 - i))) == 0
    let places := (List.range r.length).filter bad
    if 15 < x.l ∨ places.length ≠ x.l then none
    else
      let fixed := r.zipIdx.map fun (v, i) => if places.contains i then v ^^^ rsErrorAt s x.c (gfAlpha (r.length - 1 - i)) else v
      some ((places.filter fun i => fixed.getD i 0 != r.getD i 0).length, fixed.take (r.length - 30))

/-- `n` symbols of 10 bits, each most significant bit first, from a number whose first bit sent is its most significant; and back. -/
def symbolsOf (n v : Nat) : List Nat := (List.range n).map fun i => (v >>> (10 * (n - 1 - i))) % 1024
def ofSymbols (xs : List Nat) : Nat := xs.foldl (fun v x => v * 1024 + x) 0

/-! ### Blocks in data bits (R312) -/

/-- Block `i` of data bits of which `n` were sent, the first most significant: the kind bit, then 32 bytes, byte 0 first
(R312). -/
def dataBlock (data n i : Nat) : BitVec 257 :=
  let x := (data >>> (n - 257 * (i + 1))) % 2 ^ 257
  BitVec.ofNat 257 (x / 2 ^ 256 * 2 ^ 256 + leNat ((leBytes 32 x).reverse))

/-- The data bits of blocks, in the order in which they are sent. -/
def blocksData (bs : List (BitVec 257)) : Nat :=
  bs.foldl (fun v b => v * 2 ^ 257 + (b.toNat / 2 ^ 256 * 2 ^ 256 + leNat ((leBytes 32 b.toNat).reverse))) 0

/-! ### Scrambling (R284) -/

/-- One step of the scrambler register x^31 + x^28 + 1; its output is the last stage (R284; log entry 18). -/
def scrambleNext (r : Nat) : Nat := (2 * r) % 2 ^ 31 + (if nbit r 30 != nbit r 27 then 1 else 0)

/-- Scramble, or descramble, the low `n` bits of a payload, the first sent most significant: the bits, appended to `acc`, and the register
after them. -/
def descramble : Nat → Nat → Nat → Nat → Nat × Nat
  | 0, _, r, acc => (acc, r)
  | n + 1, v, r, acc => descramble n v (scrambleNext r) (2 * acc + (if nbit v n != nbit r 30 then 1 else 0))

/-! ### Frames (R282, R283, R285) -/

/-- A frame, first bit most significant (Table 10.3). -/
def frameBits (seq payload : Nat) : BitVec 1024 := BitVec.ofNat 1024 (0xE8B3 * 2 ^ 1008 + seq % 256 * 2 ^ 1000 + payload % 2 ^ 1000)

/-- `count` frames with sequences 0 up, which carry payload bits scrambled from all ones on (R282, R284). -/
def framesOf (count payload : Nat) : List (BitVec 1024) :=
  let bits := (descramble (1000 * count) payload (2 ^ 31 - 1) 0).1
  (List.range count).map fun i => frameBits i (bits >>> (1000 * (count - 1 - i)))

/-- A multiframe of a continuous stream: 500 blocks in 25 codewords in 136 frames (R285, R312). -/
def multiframe (bs : List (BitVec 257)) : List (BitVec 1024) :=
  let word (i : Nat) : Nat := ofSymbols (rsEncode (symbolsOf 514 (blocksData ((bs.drop (20 * i)).take 20))))
  framesOf 136 ((List.range 25).foldl (fun v i => v * 2 ^ 5440 + word i) 0)

/-- The identification frame of a wavelength, sent in bring-up: its payload, which the manual does not give, is scrambled from all ones on
(R283, R284, R307). -/
def identFrame (w : Nat) : BitVec 1024 := frameBits (240 + w) (descramble 1000 (Config.identPayload w).toNat (2 ^ 31 - 1) 0).1

/-! ### Bursts (R295-R297) -/

/-- Frames of a burst in a slot of `ns` (R295). -/
def burstFrames (ns : Nat) : Nat := ns / 8 - 2

/-- Sizes in symbols of the codewords of a burst, whole ones and a shortened one (R296). -/
def burstWords (ns : Nat) : List Nat :=
  let bits := 1000 * burstFrames ns
  let r := bits % 5440
  List.replicate (bits / 5440) 544 ++ (if 310 ≤ r then [r / 10] else [])

/-- Data bits of a burst, and the blocks that they hold (R296, R312, Table 10.8). -/
def burstData (ns : Nat) : Nat := ((burstWords ns).map fun n => 10 * (n - 30)).sum
def burstBlocks (ns : Nat) : Nat := burstData ns / 257

/-- The preamble frame: 992 bits alternating 1, 0, and the delimiter (R295). -/
def preamble : BitVec 1024 := BitVec.ofNat 1024 ((2 ^ 992 - 1) / 3 * 2 * 2 ^ 32 + 0xFFFF0000)

/-- Payload bits of a burst from its data bits: codeword by codeword, and zero pad (R296). -/
def burstPayload (ns data : Nat) : Nat :=
  let total := burstData ns
  let step (x : Nat × Nat) (n : Nat) : Nat × Nat :=
    let k := 10 * (n - 30)
    (x.1 * 2 ^ (10 * n) + ofSymbols (rsEncode (symbolsOf (n - 30) (data >>> (total - x.2 - k)))), x.2 + k)
  let coded := (burstWords ns).foldl step (0, 0)
  coded.1 * 2 ^ (1000 * burstFrames ns - 10 * (burstWords ns).sum)

/-- What a transmitter sends in a slot of `ns` after its guard: the preamble frame and the frames of the burst that carries `bs` (R295,
R296, R312). -/
def burstOf (ns : Nat) (bs : List (BitVec 257)) : List (BitVec 1024) :=
  preamble :: framesOf (burstFrames ns) (burstPayload ns (blocksData bs * 2 ^ (burstData ns - 257 * bs.length)))

/-- The number of the bit of a slot at which the delimiter ends, the first match from the detection of light on (R297). -/
def delimiterEnd (count bits : Nat) : Option Nat :=
  (List.range (count + 1)).find? fun p => decide (32 ≤ p) && (bits >>> (count - p)) % 2 ^ 32 == 0xFFFF0000

/-- The bits of the F frames after the delimiter; those that did not arrive are zero. -/
def frameField (ns count bits p : Nat) : Nat :=
  let n := 1024 * burstFrames ns
  let left := count - p
  let rest := bits % 2 ^ left
  if n ≤ left then rest >>> (left - n) else rest <<< (n - left)

/-- Frame `i` of the F frames. -/
def frameAt (ns field i : Nat) : Nat := (field >>> (1024 * (burstFrames ns - 1 - i))) % 2 ^ 1024

/-- Frames whose marker or sequence is wrong (R286, R297). -/
def badFrames (ns field : Nat) : Nat :=
  ((List.range (burstFrames ns)).filter fun i =>
    nfld (frameAt ns field i) 1023 1008 != 0xE8B3 || nfld (frameAt ns field i) 1007 1000 != i).length

/-- The payload bits of the frames, descrambled from all ones on (R284). -/
def burstPayloadOf (ns field : Nat) : Nat :=
  let raw := (List.range (burstFrames ns)).foldl (fun v i => v * 2 ^ 1000 + frameAt ns field i % 2 ^ 1000) 0
  (descramble (1000 * burstFrames ns) raw (2 ^ 31 - 1) 0).1

/-- The codewords of a burst as they decode (R296, R297). -/
def burstDecode (ns payload : Nat) : List (Option (Nat × List Nat)) :=
  let total := 1000 * burstFrames ns
  ((burstWords ns).foldl (fun (x : List (Option (Nat × List Nat)) × Nat) n =>
    (x.1 ++ [rsDecode (symbolsOf n (payload >>> (total - x.2 - 10 * n)))], x.2 + 10 * n)) ([], 0)).1

/-- The blocks of decoded codewords (R312). -/
def burstBlocksOf (ns : Nat) (words : List (Option (Nat × List Nat))) : List (BitVec 257) :=
  let data := words.foldl (fun v w => match w with | some (_, ds) => v * 1024 ^ ds.length + ofSymbols ds | none => v) 0
  (List.range (burstBlocks ns)).map (dataBlock data (burstData ns))

end Sys2Proof.Machine
end

