-- ==== Sys2Proof/Machine/FabricOps.lean ====
section
/-! DEFINITION. Packets, blocks, routes, send windows and requests of the fabric units (R312-R342). -/

namespace Sys2Proof.Machine

open Sys2Proof

/-! ### Global addresses (Table 1.6) -/

def gaSpace (a : Nat) : Nat := nfld a 63 60
def gaPackage (a : Nat) : Nat := nfld a 59 48
def gaOffset (a : Nat) : Nat := nfld a 47 0

/-! ### Packet headers and blocks (R312, R313, R316) -/

/-- The 32 bytes of a packet header (Table 11.1). -/
def headerNat (p : Packet) : Nat :=
  p.ty.toNat + 2 ^ 8 * p.flags.toNat + 2 ^ 16 * p.code.toNat + 2 ^ 24 * p.space.toNat + 2 ^ 32 * p.len.toNat +
  2 ^ 48 * p.dst.toNat + 2 ^ 64 * p.src.toNat + 2 ^ 80 * p.fan.toNat + 2 ^ 96 * p.peloton.toNat +
  2 ^ 112 * p.injectUs.toNat + 2 ^ 144 * p.reqId.toNat + 2 ^ 176 * p.offset.toNat + 2 ^ 224 * p.poison.toNat

/-- The header that a block holds, with no payload yet. -/
def headerOf (b : BitVec 257) : Packet :=
  let f (lo n : Nat) : Nat := nfld b.toNat (lo + n - 1) lo
  { ty := BitVec.ofNat 8 (f 0 8), flags := BitVec.ofNat 8 (f 8 8), code := BitVec.ofNat 8 (f 16 8), space := BitVec.ofNat 8 (f 24 8),
    len := BitVec.ofNat 16 (f 32 16), dst := BitVec.ofNat 16 (f 48 16), src := BitVec.ofNat 16 (f 64 16),
    fan := BitVec.ofNat 16 (f 80 16), peloton := BitVec.ofNat 16 (f 96 16), injectUs := BitVec.ofNat 32 (f 112 32),
    reqId := BitVec.ofNat 32 (f 144 32), offset := BitVec.ofNat 48 (f 176 48), poison := BitVec.ofNat 32 (f 224 32) }

/-- Payload blocks that follow the header (R313, Table 11.1): none in a `LOAD`. -/
def Packet.payloadBlocks (p : Packet) : Nat := if p.ty = 0x01 then 0 else (fld p.len 8 0 + 31) / 32

/-- Blocks of a packet. -/
def Packet.blockCount (p : Packet) : Nat := 1 + p.payloadBlocks

/-- The blocks of a packet in order (R312, R313). -/
def Packet.blocks (p : Packet) : List (BitVec 257) :=
  BitVec.ofNat 257 (2 ^ 256 + headerNat p) ::
    (List.range p.payloadBlocks).map fun i => BitVec.ofNat 257 (leNat ((p.payload.drop (32 * i)).take 32))

/-- Every payload block has arrived: 32 payload bytes a block are collected. -/
def Packet.whole (p : Packet) : Bool := decide (32 * p.payloadBlocks ≤ p.payload.length)

/-- Bytes of payload that count (R313, Table 11.2). -/
def Packet.payloadLen (p : Packet) : Nat := if p.ty = 0x01 then 0 else if p.ty = 0x03 then 16 else fld p.len 8 0

/-- A whole packet without the fill of its last payload block. -/
def Packet.trim (p : Packet) : Packet := { p with payload := p.payload.take p.payloadLen }

/-- The packet with one more payload block. -/
def Packet.addBlock (p : Packet) (b : BitVec 257) : Packet := { p with payload := p.payload ++ leBytes 32 b.toNat }

/-- Request or reply network (Table 11.2): 0 request, 1 reply. -/
def Packet.network (p : Packet) : Nat := if p.ty.toNat < 0x80 then 0 else 1

/-- Flow-control class (R315): 1 past a dateline or on a detour. -/
def Packet.fcClass (p : Packet) : Nat := if bitOf p.flags 3 || bitOf p.flags 4 then 1 else 0

/-- Service class (Table 11.1). -/
def Packet.svcClass (p : Packet) : Nat := fld p.flags 7 6

/-- Package fields. -/
def Packet.dstPkg (p : Packet) : Nat := fld p.dst 11 0
def Packet.srcPkg (p : Packet) : Nat := fld p.src 11 0

/-- Issuing die and unit of a memory request or its reply (R317). -/
def Packet.reqDie (p : Packet) : Nat := fld p.reqId 31 29
def Packet.reqUnit (p : Packet) : Nat := fld p.reqId 28 23

/-- Collective packets carry a tag in req_id (R386). -/
def Packet.collective (p : Packet) : Bool := (0x10 ≤ p.ty.toNat && p.ty.toNat < 0x20) || (0x90 ≤ p.ty.toNat && p.ty.toNat < 0xA0)

/-- A relay packet between hubs (R401): a request of issuing unit 35. -/
def Packet.relay (p : Packet) : Bool := p.ty == 0x02 && p.reqUnit == 35

/-- The types of Tables 11.2 and 13.4. -/
def Packet.known (p : Packet) : Bool :=
  [0x01, 0x02, 0x03, 0x10, 0x11, 0x12, 0x1F, 0x81, 0x82, 0x83, 0x90, 0x91].contains p.ty.toNat

/-- The header keeps Table 11.1 and a range stays within 256 bytes (R317); collective packets follow R386. -/
def Packet.wellFormed (p : Packet) : Bool :=
  let n := fld p.len 8 0
  !bitOf p.flags 0 && fld p.space 7 4 == 0 && decide (n ≤ 256) && fld p.len 15 9 == 0 && fld p.fan 15 12 == 0 &&
  fld p.peloton 15 12 == 0 &&
  (p.collective ||
    (if p.ty = 0x01 ∨ p.ty = 0x02 then p.code == 0 && decide (1 ≤ n) && decide (p.offset.toNat % 256 + n ≤ 256)
     else if p.ty = 0x03 then decide (p.code.toNat ≤ 7) && (n == 4 || (n == 8 && p.code != 7))
     else true))

/-! ### Fabric mode, routes and circuits (R319, R329) -/

/-- Byte field of a setting. -/
def State.keyN (s : State) (key off n : Nat) : Nat := (s.setting key >>> (8 * off)) % 2 ^ (8 * n)

/-- Torus mode (Table 11.9). -/
def State.torus (s : State) : Bool := s.keyN 0x0300 0 1 == 1
/-- The salt of R322. -/
def State.salt (s : State) : Nat := s.keyN 0x0300 2 2
/-- Port Cn is marked in the dateline mask. -/
def State.dateline (s : State) (q : Nat) : Bool := nbit (s.keyN 0x0300 4 4) q

/-- Route table entry for a destination (Table 11.4). -/
def State.routeEntry (s : State) (dst : Nat) : Nat := s.keyN (0x0310 + dst / 256) (4 * (dst % 256)) 4
def routePresent (e : Nat) : Bool := nbit e 31
def routeDetour (e : Nat) : Bool := nbit e 30
def routeOut (e : Nat) : Nat := nfld e 24 20

/-- The lane hash of R322. -/
def laneHash (src dst salt : Nat) : Nat :=
  let h := ((src * 0x9E37) ^^^ (dst * 0x85EB) ^^^ salt) % 65536
  h ^^^ (h / 128)

/-- Fibre of cube port Cq, and of service port Sj (Table 10.1). -/
def cubeFibre (q : Nat) : Nat := 8 * (q / 6) + q % 6
def serviceFibre (j : Nat) : Nat := 8 * (j / 2) + 6 + j % 2

/-- The cube port of a fibre, if it is one. -/
def fibreCube (f : Nat) : Option Nat := if f % 8 < 6 then some (6 * (f / 8) + f % 8) else none

/-- A port carries packets: it is up, and if it is a cube port it is not quarantined (R359). -/
def State.portOpen (s : State) (f : Nat) : Bool :=
  (s.port f).state == 2 && (match fibreCube f with | some q => (s.nbr q).state != 3 | none => true)

/-- A lane is up: its port carries packets and its wavelength is not faulty (R303). -/
def State.laneUp (s : State) (l : Nat × Nat) : Bool := s.portOpen l.1 && !(s.wave l.1 l.2).faulty

/-- Lanes of a hypercube dimension or torus direction, on one network, in ascending fibre order (R279, R354). -/
def State.directionLanes (s : State) (out net : Nat) : List (Nat × Nat) :=
  let qs := if s.torus then (List.range 4).map fun k => 6 * k + out else [2 * out, 2 * out + 1]
  (qs.map fun q => (cubeFibre q, net)).filter s.laneUp

/-- Lanes of a service port on one network (R314). -/
def State.serviceLanes (s : State) (j net : Nat) : List (Nat × Nat) :=
  ((List.range 8).map fun i => (serviceFibre j, 2 * i + net)).filter s.laneUp

/-- Circuit entry of local port j and wavelength w of die k (R329). -/
def State.circuit (s : State) (k j w : Nat) : Nat := s.keyN (0x0330 + k) (4 * (14 * j + (w - 2))) 4

/-- Number of slots of a steering schedule, and the state word of slot i (Tables 10.6, 10.7). -/
def State.slotCount (s : State) (k w : Nat) : Nat := s.keyN (0x0400 + 16 * k + w) 0 1
def State.slotWord (s : State) (k w i : Nat) : Nat := s.keyN (0x0400 + 16 * k + w) (8 + 8 * i) 8

/-- A circuit wavelength of a cube port (Table 10.2). -/
def circuitWave (f w : Nat) : Bool := decide (f % 8 < 6) && decide (2 ≤ w)

/-- The schedule of a circuit wavelength is steered (R292). -/
def State.steered (s : State) (f w : Nat) : Bool := circuitWave f w && decide (2 ≤ s.slotCount (f / 8) w)

/-- State of output j in a slot word: 0-5 pass, 6 add, 7 dark. -/
def slotOut (word j : Nat) : Nat := nfld word (3 * j + 2) (3 * j)

/-- Output j of a ring group is `ADD` in some slot. -/
def State.addsSomewhere (s : State) (k w j : Nat) : Bool :=
  (List.range (s.slotCount k w)).any fun i => slotOut (s.slotWord k w i) j == 6

/-- The up circuit lanes to a package on one network, in ascending fibre and wavelength order (R330). -/
def State.circuitLanes (s : State) (pkg net : Nat) : List (Nat × Nat) :=
  ((List.range 4).flatMap fun k => (List.range 6).flatMap fun j => (List.range 14).filterMap fun i =>
    let e := s.circuit k j (i + 2)
    if nbit e 31 && (e / 2 ^ 30) % 2 == net && e % 4096 == pkg && s.addsSomewhere k (i + 2) j then some (8 * k + j, i + 2) else none).filter s.laneUp

/-! ### Sending blocks (R295, R315, R318) -/

/-- A control block (Table 11.3). -/
def controlBlockOf (ty c0 c1 content : Nat) : BitVec 257 := BitVec.ofNat 257 (2 ^ 256 + ty + 2 ^ 16 * c0 + 2 ^ 32 * c1 + 2 ^ 48 * content)

/-- A transmitter takes blocks. That of a steered circuit wavelength keeps them for its bursts (R295); any other sends a multiframe for
every 500 of them (R285). -/
def State.transmit (s : State) (f w : Nat) (bs : List (BitVec 257)) : State :=
  let x := s.wave f w
  let all := x.txBlocks ++ bs
  s.setWave f w (if s.steered f w || decide (all.length < 500) then { x with txBlocks := all }
                 else { x with txBlocks := all.drop 500, frames := multiframe (all.take 500) })

/-- A transmitter that has nothing else to send ends its multiframe with `IDLE` (R285, R318). -/
def State.fillMultiframe (s : State) (f w : Nat) : State :=
  s.transmit f w (List.replicate (500 - (s.wave f w).txBlocks.length) (controlBlockOf 0xF0 0 0 0))

/-- A lane sends a control block, with the credits that it owes, at most 1,024 of a class (R315). -/
def State.sendControl (s : State) (f w ty content : Nat) : State :=
  let k := f / 8
  let i := 16 * (f % 8) + w
  let fb := s.fab k
  let x := SMap.get {} fb.fifos i
  let c0 := min 1024 x.owed0
  let c1 := min 1024 x.owed1
  let b := controlBlockOf ty c0 c1 content
  (s.setFab k { fb with fifos := SMap.set {} fb.fifos i { x with owed0 := x.owed0 - c0, owed1 := x.owed1 - c1 }
                        sentCtl := SMap.set 0 fb.sentCtl i b }).transmit f w [b]

/-! ### Where a packet goes (R320, R322, R330) -/

/-- What the router does with a packet. -/
inductive Hop where
  /-- deliver in this package -/
  | here
  /-- one of these up lanes; none: it waits -/
  | lanes (ls : List (Nat × Nat)) (detour : Bool) (axis : Option Nat)
  /-- not reachable -/
  | unreachable
  deriving DecidableEq, Repr

/-- The hop of a unicast packet. Circuits come before the route (R330); the route of a packet for a service peer is that of its package,
and it leaves there by its service port (R320, Table 11.1). -/
def State.hop (s : State) (p : Packet) : Hop :=
  if p.relay then .here
  else
    match s.circuitLanes p.dstPkg p.network with
    | l :: ls => .lanes (l :: ls) false none
    | [] =>
      let e := s.routeEntry p.dstPkg
      if !routePresent e then .unreachable
      else if routeOut e = 0x1F then (if bitOf p.dst 15 then .lanes (s.serviceLanes (fld p.dst 14 12) p.network) false none else .here)
      else if s.torus then .lanes (s.directionLanes (routeOut e) p.network) false (some (routeOut e / 2))
      else if routeDetour e && p.fcClass == 1 then .unreachable
      else .lanes (s.directionLanes (routeOut e) p.network) (routeDetour e) none

/-- The lane of R322 among those that are up. -/
def State.chooseLane (s : State) (src dst : Nat) (ls : List (Nat × Nat)) : Option (Nat × Nat) :=
  ls[laneHash src dst s.salt % ls.length]?

/-- The flags of a packet as it leaves on a lane (R320). -/
def State.hopFlags (s : State) (p : Packet) (f : Nat) (detour : Bool) (axis : Option Nat) : Packet :=
  match axis with
  | some a =>
    let onNew := fld p.flags 2 1 != a
    let f1 := if onNew then setFld (setFld p.flags 3 3 0) 2 1 a else p.flags
    let cross := match fibreCube f with | some q => s.dateline q | none => false
    { p with flags := if cross then setFld f1 3 3 1 else f1 }
  | none => if detour then { p with flags := setFld p.flags 4 4 1 } else p

/-! ### Drained (R325) -/

/-- No request of the package is outstanding, and every ingress FIFO, transit buffer and output queue is empty; so are the transmitters,
the tracks and what has been delivered and not yet taken (R324, R325). -/
def State.fabricEmpty (s : State) : Bool :=
  ((List.range 4).all fun k =>
    let fb := s.fab k
    fb.out.isEmpty && (fb.fifos.all fun e => e.2.packets.isEmpty) && fb.outq.isEmpty && (fb.transitOut.all fun e => e.2.isEmpty) &&
      fb.transitRx.isEmpty && (fb.transitIn.all fun e => e.2.isEmpty) && fb.local_.isEmpty) &&
  (s.ports.all fun e => e.2.waves.all fun w => w.2.partial_.isNone && w.2.txBlocks.isEmpty) &&
  (s.crossings.all fun e => e.2.buffer.isEmpty && e.2.onTrack.isEmpty && e.2.leaving.isEmpty && e.2.coming.isEmpty)

/-- The package is drained: stopped, and empty now. Requests that still arrive end it for as long as they are there (R325, R326). -/
def State.drained (s : State) : Bool := s.hub.stopped && s.fabricEmpty

/-! ### Transit between lightplane dies (R14, R323) -/

/-- The links of the transit path between two lightplane dies (Table 1.4). -/
def transitLinks (k k2 : Nat) : List Nat :=
  match min k k2, max k k2 with
  | 0, 1 => [11, 1, 12]
  | 2, 3 => [15, 4, 16]
  | 0, 2 => [10, 6, 14]
  | 1, 3 => [13, 9, 17]
  | 0, 3 => [11, 7, 4, 16]
  | _, _ => [12, 8, 4, 15]

/-- No link of the path has failed (R14). -/
def State.transitOpen (s : State) (k k2 : Nat) : Bool :=
  (transitLinks k k2).all fun l => (s.linkEnd (2 * l)).state != 5 && (s.linkEnd (2 * l + 1)).state != 5

/-- The transit flits of blocks, two a flit, with the kind bits in the tag (R323). -/
def transitFlits : List (BitVec 257) → List Flit
  | [] => []
  | [a] => [{ data := BitVec.ofNat 512 (a.toNat % 2 ^ 256), tag := BitVec.ofNat 24 (a.toNat / 2 ^ 256), poison := 0 }]
  | a :: b :: rest =>
    { data := BitVec.ofNat 512 (a.toNat % 2 ^ 256 + 2 ^ 256 * (b.toNat % 2 ^ 256)),
      tag := BitVec.ofNat 24 (a.toNat / 2 ^ 256 + 2 * (b.toNat / 2 ^ 256) + 4), poison := 0 } :: transitFlits rest

/-- Send blocks to another die over the transit lane, behind what is on its way there (R323). -/
def State.blocksAcross (s : State) (k k2 : Nat) (bs : List (BitVec 257)) : State :=
  s.setFab k { s.fab k with transitOut := SMap.set [] (s.fab k).transitOut k2 (SMap.get [] (s.fab k).transitOut k2 ++ transitFlits bs) }

/-- The blocks that a transit flit carries. -/
def flitBlocks (f : Flit) : List (BitVec 257) :=
  let b (i : Nat) : BitVec 257 := BitVec.ofNat 257 (nfld f.data.toNat (256 * i + 255) (256 * i) + 2 ^ 256 * (f.tag.toNat / 2 ^ i % 2))
  if bitOf f.tag 2 then [b 0, b 1] else [b 0]

/-! ### Send windows (R339, R340, Table 11.8) -/

/-- What a request does. -/
inductive Access3 where
  | load | store | atomic
  deriving DecidableEq, Repr

def Access3.bit : Access3 → Nat | .load => 1 | .store => 2 | .atomic => 3

/-- Send window i as a number of 32 bytes. -/
def State.window (s : State) (i : Nat) : Nat := s.keyN (0x0320 + i / 16) (32 * (i % 16)) 32

/-- A window covers a range of a package and permits the operation. -/
def windowCovers (w pkg off len space : Nat) (op : Access3) : Bool :=
  let f := w % 256
  nbit f 0 && nbit f op.bit && (nfld f 4 4 == space) &&
  decide (nfld w 31 16 ≤ pkg) && decide (pkg < nfld w 31 16 + nfld w 47 32) &&
  decide (nfld w 127 64 ≤ off) && decide (off + len ≤ nfld w 191 128 + 1)

/-- The first send window that covers a request: the dst field that it gives (R339, R340). -/
def State.sendWindow (s : State) (pkg off len space : Nat) (op : Access3) : Option Nat :=
  match (List.range 256).find? fun i => windowCovers (s.window i) pkg off len space op with
  | some i =>
    let w := s.window i
    some (if nbit w 5 then pkg + 2 ^ 12 * (nfld w 15 8 % 8) + 2 ^ 15 else pkg)
  | none => none

/-! ### Requests and replies (R316, R317, R341) -/

/-- Own source field. -/
def State.srcField (s : State) : Nat := s.ownPackage

/-- Queue a request for injection (R332): its sequence number advances (R317). Answers the req_id. -/
def State.request (s : State) (k unit die cls : Nat) (p : Packet) : Word32 × State :=
  let fb := s.fab k
  let key := 64 * die + unit
  let n := SMap.get 0 fb.seq key
  let id : Word32 := BitVec.ofNat 32 (die * 2 ^ 29 + unit * 2 ^ 23 + n)
  let q : Packet := { p with reqId := id, src := BitVec.ofNat 16 s.srcField, peloton := BitVec.ofNat 16 s.peloton,
                             flags := BitVec.ofNat 8 (cls * 64 + (if s.ordered then 32 else 0)) }
  (id, s.setFab k { fb with seq := SMap.set 0 fb.seq key ((n + 1) % 2 ^ 23), inject := SMap.set [] fb.inject cls (SMap.get [] fb.inject cls ++ [q]) })

/-- Cadence time in us, for inject_us and ages (R333). -/
def State.cadUs (s : State) : Nat := s.cadNs / 1000

/-- The reply to a request (Table 11.2): it goes back to the request's source. -/
def State.replyTo (s : State) (p : Packet) (status len : Nat) (data : List Byte) (poison : Word32) : Packet :=
  { ty := p.ty + 0x80, flags := BitVec.ofNat 8 (p.svcClass * 64 + (if s.ordered then 32 else 0)), code := BitVec.ofNat 8 status,
    space := p.space, len := BitVec.ofNat 16 len, dst := p.src, src := BitVec.ofNat 16 s.srcField, fan := 0,
    peloton := BitVec.ofNat 16 s.peloton, injectUs := BitVec.ofNat 32 s.cadUs, reqId := p.reqId, offset := p.offset,
    poison := poison, payload := data }

/-- Hand a packet to the router of a die. -/
def State.pushOut (s : State) (k : Nat) (p : Packet) : State := s.setFab k { s.fab k with outq := (s.fab k).outq ++ [p] }

/-- A byte list's poison mask for a range that starts at `off` (Table 11.1). -/
def poisonMask (off : Nat) (bs : List Bool) : Word32 :=
  bs.zipIdx.foldl (fun m (b, i) => if b then m ||| (1 <<< ((off % 256 + i) / 8)) else m) 0

/-- Poison flags of the payload bytes of a packet. -/
def Packet.poisonFlags (p : Packet) (n : Nat) : List Bool :=
  (List.range n).map fun i => bitOf p.poison ((p.offset.toNat % 256 + i) / 8)

end Sys2Proof.Machine
end

