-- ==== Sys2Proof/Machine/Cadence.lean ====
section
/-! DEFINITION. Discovery, quarantine, beacons and the cadence counter (R357-R371). -/

namespace Sys2Proof.Machine

open Sys2Proof

/-! ### Discovery (R357-R359, Table 12.3) -/

/-- Lane group of a cube port: its dimension, or its torus direction (R358). -/
def State.laneGroup (s : State) (q : Nat) : Nat := if s.torus then q % 6 else q / 2

/-- Content of a `DISCOVERY` block of cube port q. -/
def State.discoveryContent (s : State) (q : Nat) : BitVec 208 :=
  BitVec.ofNat 208 (Config.serial.toNat + 2 ^ 64 * q +
    2 ^ 72 * ((if s.packageNo.isSome then 1 else 0) + (if (s.nbr q).state = 3 then 2 else 0)) + 2 ^ 80 * s.packageNo.getD 0)

/-- `DISCOVERY_SEND`: an up cube port sends its `DISCOVERY` block, quarantined or not (R357, R359). -/
def execDiscoverySend (q : CubePort) (s : State) : Out :=
  if (s.port (cubeFibre q)).state ≠ 2 then ok s
  else
    let content := s.discoveryContent q
    ok ((s.setNbr q { s.nbr q with sentDiscovery := content }).sendControl (cubeFibre q) 0 0xF3 content.toNat)

/-- A `DISCOVERY` block arrives on a cube port: three identical ones in a row make the neighbour (R357). -/
def State.discoveryBlock (s : State) (q : Nat) (content : BitVec 208) : State :=
  if (s.port (cubeFibre q)).state ≠ 2 then s
  else
    let n := s.nbr q
    let run := if n.cand = content ∧ n.candRun ≠ 0 then min 3 (n.candRun + 1) else 1
    let n1 := { n with cand := content, candRun := run, state := if n.state = 0 then 1 else n.state }
    if run < 3 then s.setNbr q n1
    else
      let serial : Word64 := BitVec.ofNat 64 (fld content 63 0)
      let port := fld content 71 64
      s.setNbr q { n1 with serial := serial, port := BitVec.ofNat 5 port, numbered := bitOf content 72,
                           package := BitVec.ofNat 12 (fld content 91 80), state := if n.state = 3 then 3 else 2,
                           seen := if n.seen.contains (serial, port) then n.seen else n.seen ++ [(serial, port)] }

/-- `DISCOVERY_RECEIVE` (R357). -/
def execDiscoveryReceive (q : CubePort) (content : BitVec 208) (s : State) : Out := ok (s.discoveryBlock q content)

/-- The neighbours that a port held during the window. -/
def State.held (s : State) (q : Nat) : List (Word64 × Nat) := (s.nbr q).seen

/-- The other ports involved in a duplicate of one of port q's serials: the same serial on two lane groups (R358 case 1). -/
def State.duplicates (s : State) (q : Nat) : List Nat :=
  let twice := (s.held q).filter fun y => (List.range 24).any fun p => s.laneGroup p != s.laneGroup q && (s.held p).any fun x => x.1 == y.1
  (List.range 24).filter fun p => p != q && (s.held p).any fun x => twice.any fun y => x.1 == y.1

/-- The first serial of the lowest-numbered port of q's lane group that has a neighbour (R358 case 4). -/
def State.groupSerial (s : State) (q : Nat) : Option (Nat × Word64) :=
  ((List.range 24).filter fun p => s.laneGroup p == s.laneGroup q && !(s.held p).isEmpty).head?.bind fun p =>
    (s.held p).head?.map fun x => (p, x.1)

/-- The cause for which a port is quarantined, the first that holds, and the ports that it names (R358). -/
def State.quarCause (s : State) (q : Nat) : Option (Nat × List Nat) :=
  let h := s.held q
  let dup := s.duplicates q
  if !dup.isEmpty then some (1, dup)
  else if h.any fun x => x.1 == Config.serial then some (2, [])
  else if h.any fun x => if s.torus then x.2 % 6 != Nat.xor (q % 6) 1 else x.2 / 2 != q / 2 then some (3, [])
  else
    match s.groupSerial q with
    | some (p, serial) => if h.any fun x => x.1 != serial then some (4, [p]) else none
    | none => none

/-- A port's record in the AO log (R359, Table 14.15). -/
def State.logPort (s : State) (code f cause : Nat) : State :=
  s.logEvent code 9 (f / 8) f (cause + 2 ^ 16 * (match fibreCube f with | some q => (s.nbr q).package.toNat | none => 0))

/-- What the end of a window decides for a port, from the state at that end. -/
def State.judge (s0 s : State) (q : Nat) : State :=
  let n := s.nbr q
  let next : List (Word64 × Nat) := if n.state = 2 ∨ (n.state = 3 ∧ n.serial ≠ 0) then [(n.serial, n.port.toNat)] else []
  let aged := { n with seen := next, recycled := if n.recycled = 0 then 0 else 2 }
  match s0.quarCause q with
  | some (c, ps) =>
    if n.state = 3 then s.setNbr q { aged with partners := (n.partners ++ ps).eraseDups }
    else
      let s1 := s.setNbr q { aged with state := 3, cause := BitVec.ofNat 3 c, recycled := 0, partners := ps }
      { s1 with mach := { s1.mach with quar := s1.mach.quar + 1 } }.logPort 0x82 (cubeFibre q) c
  | none =>
    if n.state = 3 ∧ n.recycled = 2 then
      (s.setNbr q { aged with state := if next.isEmpty then (if n.candRun = 0 then 0 else 1) else 2, cause := 0, recycled := 0, partners := [] }).logPort
        0x83 (cubeFibre q) n.cause.toNat
    else s.setNbr q aged

/-- `DISCOVERY_WINDOW_END`: hub firmware quarantines and releases ports (R358, R359). -/
def execDiscoveryWindowEnd (s : State) : Out := ok (forAll 24 s fun t q => s.judge t q)

/-- A port has gone down: it has no neighbour (R357); a quarantine stays (R359). -/
def NeighbourState.portDown (n : NeighbourState) : NeighbourState :=
  { n with serial := 0, port := 0, numbered := false, package := 0, cand := 0, candRun := 0, state := if n.state = 3 then 3 else 0,
           rxTime := none, rxStamp := 0, rxStratum := 0xFF, rxFlags := 0, usedAt := none, txTimes := [] }

/-- A port has come up again: it, and the quarantined ports whose cause names it, have been recycled (R359). -/
def State.portRecycled (s : State) (q : Nat) : State :=
  forAll 24 s fun s p =>
    let n := s.nbr p
    if n.state = 3 ∧ n.recycled = 0 ∧ (p = q ∨ n.partners.contains q) then s.setNbr p { n with recycled := 1 } else s

/-! ### Beacons (R364-R367, Table 12.5) -/

/-- Own stratum as a beacon carries it. -/
def State.stratumSent (s : State) : Byte := if s.mach.locked then s.mach.stratum else 0xFF

/-- `BEACON_SEND`: an up cube port that is not quarantined sends a `BEACON` block (R359, R364). -/
def execBeaconSend (q : CubePort) (s : State) : Out :=
  if !s.portOpen (cubeFibre q) then ok s
  else
    let n := s.nbr q
    let tx := s.cad128
    let turn := match n.rxTime with | some t => (Int.toNat ((Int.ofNat tx - Int.ofNat t) % 2 ^ 32)) | none => 0
    let flags := (if s.mach.locked then 1 else 0) + (if s.mach.holdover then 2 else 0) + (if s.mach.root then 4 else 0)
    let content : BitVec 208 := BitVec.ofNat 208 (tx / 128 % 2 ^ 64 + 2 ^ 64 * (tx % 128) + 2 ^ 72 * n.rxStamp.toNat + 2 ^ 104 * turn +
      2 ^ 136 * s.stratumSent.toNat + 2 ^ 144 * flags)
    ok ((s.setNbr q { n with sentBeacon := content, txTimes := tx :: n.txTimes.take 63 }).sendControl (cubeFibre q) 0 0xF2
      content.toNat)

/-- The last beacon of a port can be followed: locked, not in holdover, of a stratum that leaves room for one more, and not
10 us old (R366). -/
def State.usable (s : State) (q : Nat) : Bool :=
  let n := s.nbr q
  s.portOpen (cubeFibre q) && bitOf n.rxFlags 0 && !bitOf n.rxFlags 1 && decide (n.rxStratum.toNat < 31) &&
    (match n.usedAt with | some t => decide (s.nowNs < t + 10000) | none => false)

/-- The port of R366: the lowest stratum, then the lowest index. -/
def State.bestParent (s : State) : Option Nat :=
  ((List.range 24).filter s.usable).foldl
    (fun best q => match best with
      | some b => if (s.nbr q).rxStratum.toNat < (s.nbr b).rxStratum.toNat then some q else some b
      | none => some q) none

/-- The servo's next rate: within 200 ppm, against the sign of the offset (R367). Free otherwise (log entry 3). -/
def servoPpm (offset : Int) (free : Nat) : Int :=
  if 0 < offset then Int.ofNat (free % 201) else if offset < 0 then -Int.ofNat (free % 201) else 0

/-- Follow a beacon of the parent: the servo steers, and 500 beacons in a row within 1 ns lock (R367). -/
def State.followBeacon (s : State) (q : Nat) (offset : Int) : State :=
  let m := s.mach
  let (free, s1) := s.draw
  let run := if decide (-128 ≤ offset) && decide (offset ≤ 128) then min 500 (m.goodRun + 1) else 0
  let locked := m.locked || run == 500
  { s1 with mach := { m with offset := BitVec.ofInt 32 offset, ppm := servoPpm offset free.toNat, goodRun := run, locked := locked,
                             stratum := if locked then (s.nbr q).rxStratum + 1 else 0xFF } }

/-- Take a parent (R366): an unlocked package steps its counter to the parent's time, a locked one ends its holdover
(R367, R368). `time` is the parent's time now in 1/128 ns. -/
def State.adopt (s : State) (q time : Nat) : State :=
  let m := s.mach
  if m.locked then s.setMach { m with parent := BitVec.ofNat 5 q, holdover := false, stratum := (s.nbr q).rxStratum + 1 }
  else (s.setMach { m with parent := BitVec.ofNat 5 q, count := time * 1000000, steps := m.steps + 1, goodRun := 0 }).noteInstants

/-- Change from one parent to another (R366): no step. -/
def State.switchParent (s : State) (q : Nat) : State :=
  let m := s.mach
  s.setMach { m with parent := BitVec.ofNat 5 q, goodRun := 0, stratum := if m.locked then (s.nbr q).rxStratum + 1 else 0xFF }

/-- A `BEACON` block arrives on a cube port (R365-R367). -/
def State.beaconBlock (s : State) (q : Nat) (content : BitVec 208) : State :=
  if !s.portOpen (cubeFibre q) ∨ s.inDomainReset .cad then s
  else
    let n := s.nbr q
    let t4 := s.cad128
    let t3 := fld content 63 0 * 128 + fld content 70 64
    let echo := fld content 103 72
    let turn : Word32 := BitVec.ofNat 32 (fld content 135 104)
    let n1 := { n with rxTime := some t4, rxStamp := BitVec.ofNat 32 t3 }
    match n.txTimes.find? fun t => t % 2 ^ 32 == echo with
    | none => s.setNbr q n1
    | some t1 =>
      let delay := (BitVec.ofNat 32 t4 - BitVec.ofNat 32 t1 - turn).toNat / 2
      let offset := (BitVec.ofNat 32 t3 + BitVec.ofNat 32 delay - BitVec.ofNat 32 t4).toInt
      let stratum := fld content 143 136
      let flags := fld content 151 144
      let s1 := s.setNbr q { n1 with delay := BitVec.ofNat 32 delay, rxStratum := BitVec.ofNat 8 stratum, rxFlags := BitVec.ofNat 8 flags,
                                     usedAt := if nbit flags 0 ∧ !nbit flags 1 ∧ stratum < 31 then some s.nowNs else n.usedAt }
      if s1.mach.root then s1
      else if s1.mach.parent.toNat = q then
        let s2 := if s1.usable q then s1.followBeacon q offset else s1
        match s2.bestParent with
        | some b => if b ≠ q ∧ (s2.nbr b).rxStratum.toNat < (s2.nbr q).rxStratum.toNat then s2.switchParent b else s2
        | none => s2
      else if s1.bestParent = some q then
        if s1.mach.parent = 0x1F then s1.adopt q (t3 + delay)
        else if stratum < (s1.nbr s1.mach.parent.toNat).rxStratum.toNat then
          s1.switchParent q
        else s1
      else s1

/-- `BEACON_RECEIVE` (R365-R367). -/
def execBeaconReceive (q : CubePort) (content : BitVec 208) (s : State) : Out := ok (s.beaconBlock q content)

/-! ### Losing the parent (R366, R368) -/

/-- The parent is lost: its port is down or quarantined, or no usable beacon came for 10 us. -/
def State.parentIsLost (s : State) : Bool :=
  let q := s.mach.parent.toNat
  !s.mach.root && s.mach.parent != 0x1F &&
    (!s.portOpen (cubeFibre q) ||
      (match (s.nbr q).usedAt with | some t => decide (t + 10000 ≤ s.nowNs) | none => true))

/-- `PARENT_LOST`: a locked package takes another parent or enters holdover at its last rate (R366, R368). -/
def execParentLost (s : State) : Out :=
  if !s.parentIsLost then ok s
  else
    let s1 := s.setMach { s.mach with parent := 0x1F, goodRun := 0 }
    if !s1.mach.locked then ok s1
    else
      match s1.bestParent with
      | some b => ok (s1.switchParent b)
      | none => ok (s1.setMach { s1.mach with holdover := true, holdSince := s1.nowNs })

/-- Without lock every steered ring group is dark and terminates nothing (R293). -/
def State.darkSteered (s : State) : State :=
  forAll 56 s fun s i =>
    let k := i / 14
    let w := i % 14 + 2
    if 2 ≤ s.slotCount k w then s.setSteerG k w { s.steerG k w with dark := true, endAt := 0, lenNs := 0, out := 0x3FFFF, term := 0, launched := 0 } else s

/-- `HOLDOVER_EXPIRE`: no parent within 1 ms: the package is unlocked (R368, R371). -/
def execHoldoverExpire (s : State) : Out :=
  if s.mach.holdover && decide (s.mach.holdSince + 1000000 ≤ s.nowNs) then
    ok (s.setMach { s.mach with locked := false, holdover := false, stratum := 0xFF, goodRun := 0, cadenceOut := false }).darkSteered
  else ok s

/-- `CADENCE_OUT_EDGE`: high for the first half of each millisecond of cadence time while locked (R371). -/
def execCadenceOutEdge (s : State) : Out :=
  ok (s.setMach { s.mach with cadenceOut := s.mach.locked && decide (s.cadNs % 1000000 < 500000) })

end Sys2Proof.Machine
end

