-- ==== Sys2Proof/Machine/Blocks.lean ====
section
/-! DEFINITION. Receiving the fabric stream: blocks, packets, credits, cuts and flushes of the ingress FIFOs, and where a router
sends a packet (R312-R315, R320, R328, R330, R334-R336). -/

namespace Sys2Proof.Machine

open Sys2Proof

/-! ### Ingress FIFOs (R334) -/

/-- The ingress FIFO of wavelength w of fibre f. -/
def State.fifo (s : State) (f w : Nat) : FifoState := SMap.get {} (s.fab (f / 8)).fifos (16 * (f % 8) + w)
def State.setFifo (s : State) (f w : Nat) (x : FifoState) : State :=
  s.setFab (f / 8) { s.fab (f / 8) with fifos := SMap.set {} (s.fab (f / 8)).fifos (16 * (f % 8) + w) x }

/-- The network that a wavelength carries (R314, R329). -/
def State.laneNet (s : State) (f w : Nat) : Nat := if circuitWave f w then (s.circuit (f / 8) (f % 8) w / 2 ^ 30) % 2 else w % 2

/-- The outputs and terminated inputs of a ring group now: after a shift the old slot runs to its end, and the outputs are then
dark (R294). -/
def State.steerNow (s : State) (k w : Nat) : BitVec 18 × BitVec 6 :=
  let g := s.steerG k w
  if g.dark ∧ g.endAt ≤ s.cadNs then (0x3FFFF, 0) else (g.out, g.term)

/-- The fabric-unit receiver of a wavelength is fed (R281, R288). -/
def State.terminated (s : State) (f w : Nat) : Bool := !circuitWave f w || bitOf (s.steerNow (f / 8) w).2 (f % 8)

/-- An output of a ring group is `ADD` now. -/
def State.addsNow (s : State) (f w : Nat) : Bool := slotOut (s.steerNow (f / 8) w).1.toNat (f % 8) == 6

/-- Blocks of the packet that is arriving. -/
def State.arriving (s : State) (f w : Nat) : Nat :=
  match (s.wave f w).partial_ with
  | some p => 1 + p.payload.length / 32
  | none => 0

/-- Blocks that the FIFO holds: those of a packet that its consumer has started are gone as they are taken (R334). -/
def State.fifoLevel (s : State) (f w : Nat) : Nat :=
  (s.fifo f w).packets.foldl (fun n p => n + p.blockCount) (s.arriving f w) - (s.fifo f w).gone

/-- `n` blocks of a class leave the FIFO: their credits are owed (R315). -/
def FifoState.owe (x : FifoState) (cls n : Nat) : FifoState :=
  if cls = 0 then { x with owed0 := x.owed0 + n } else { x with owed1 := x.owed1 + n }

/-- Blocks of a packet leave the FIFO. -/
def State.blocksGone (s : State) (f w cls n : Nat) : State := s.setFifo f w ((s.fifo f w).owe cls n)

/-- Count in a fabric block. -/
def State.countBad (s : State) (k : Nat) : State := s.setFab k { s.fab k with pktBad := (s.fab k).pktBad + 1 }
def State.countLost (s : State) (k : Nat) : State := s.setFab k { s.fab k with pktLost := (s.fab k).pktLost + 1 }
def State.countCut (s : State) (k : Nat) : State := s.setFab k { s.fab k with cutCnt := (s.fab k).cutCnt + 1 }
def State.countUnreach (s : State) (k : Nat) : State := s.setFab k { s.fab k with unreach := (s.fab k).unreach + 1 }

/-! ### Where a packet goes (R320, R323, R330, R383) -/

/-- An output of a router. -/
inductive Dest where
  /-- delivery at this die -/
  | here
  /-- wavelength w of fibre f of this die -/
  | lane (f w : Nat) (detour : Bool) (axis : Option Nat)
  /-- the transit lane to another lightplane die -/
  | die (k : Nat)
  /-- no lane of the direction is up -/
  | wait
  | unreachable
  deriving DecidableEq, Repr

/-- The lightplane die at which a delivered packet is used: a collective's engine, the issuer of a reply, else where it
arrived (R317, R323, R386). -/
def homeDie (k : Nat) (p : Packet) : Nat :=
  if p.collective then fld p.reqId 31 30
  else if p.network = 1 then (if p.reqUnit ≤ 32 then p.reqDie / 2 else 0)
  else k

/-- Across the package, or not at all while a link of the path has failed (R14). -/
def State.toDie (s : State) (k k2 : Nat) : Dest := if s.transitOpen k k2 then .die k2 else .unreachable

/-- Where a packet for this package goes from die k. -/
def State.deliveryOf (s : State) (k : Nat) (p : Packet) : Dest := if homeDie k p = k then .here else s.toDie k (homeDie k p)

/-- The output for a unicast packet at die k. `circuit` marks one that arrived on a circuit; `own` one that this die injects:
a collective's packets prefer a lane of their own die (R383). -/
def State.destOf (s : State) (k : Nat) (circuit own : Bool) (p : Packet) : Dest :=
  let deliver : Dest := s.deliveryOf k p
  if circuit then deliver
  else
    match s.hop p with
    | .here => deliver
    | .unreachable => .unreachable
    | .lanes ls detour axis =>
      let mine := ls.filter fun l => l.1 / 8 == k
      let pick := if own && p.collective && !mine.isEmpty then mine else ls
      match s.chooseLane p.srcPkg p.dstPkg pick with
      | none => .wait
      | some (f, w) => if f / 8 = k then .lane f w detour axis else s.toDie k (f / 8)

/-- A lane has sent a packet. -/
def State.noteSent (s : State) (f w : Nat) (p : Packet) : State :=
  s.setFab (f / 8) { s.fab (f / 8) with sent := SMap.set {} (s.fab (f / 8)).sent (16 * (f % 8) + w) p }

/-! ### Losing the packet that is arriving (R313, R335) -/

/-- The router sends `CUT` on the output of die k that a cut packet has held, in place of the rest: a lane, or the transit lane to another
die (R335). -/
def State.sendCut (s : State) (k out : Nat) : State :=
  if out < 128 then s.sendControl (8 * k + out / 16) (out % 16) 0xF1 0
  else if out < 132 then s.blocksAcross k (out - 128) [controlBlockOf 0xF1 0 0 0]
  else s

/-- The packet in progress on a wavelength is lost: its later blocks are discarded, and if its consumer has started it, it is cut
and the router sends `CUT` in its place (R335). -/
def State.losePartial (s : State) (f w : Nat) : State :=
  let x := s.fifo f w
  match (s.wave f w).partial_ with
  | none => s
  | some p =>
    let begun := x.started && x.packets.isEmpty
    let n := s.arriving f w - (if begun then x.gone else 0)
    let s1 := (s.setWave f w { s.wave f w with partial_ := none, skipClass := p.fcClass }).blocksGone f w p.fcClass n
    if begun then ((s1.setFifo f w { s1.fifo f w with started := false, gone := 0 }).countCut (f / 8)).sendCut (f / 8) x.out
    else s1

/-- Data of a wavelength is lost: the packet in progress counts as lost, and so does one whose header was in the lost data, when
its payload shows it (R287, R313). -/
def State.dataLost (s : State) (f w : Nat) : State :=
  if (s.wave f w).partial_.isSome then (s.losePartial f w).countLost (f / 8)
  else s.setWave f w { s.wave f w with skipping := true, skipClass := 0 }

/-! ### Blocks (R312-R318, R328) -/

/-- A control block returns credits to this end's transmitter of the lane (R315, Table 11.3). -/
def State.returnCredits (s : State) (f w : Nat) (b : BitVec 257) : State :=
  let x := s.fifo f w
  s.setFifo f w { x with credit0 := min 1024 (x.credit0 + fld b 31 16), credit1 := min 1024 (x.credit1 + fld b 47 32) }

/-- A control block: its credits, and its content by its type (R318, R335, R357, R364). -/
def State.controlBlock (s : State) (f w : Nat) (b : BitVec 257) : State :=
  let s1 := s.returnCredits f w b
  let content : BitVec 208 := BitVec.ofNat 208 (fld b 255 48)
  match fld b 7 0, fibreCube f with
  | 0xF0, _ => s1
  | 0xF1, _ => s1.losePartial f w
  | 0xF2, some q => if w = 0 then s1.beaconBlock q content else s1
  | 0xF3, some q => if w = 0 then s1.discoveryBlock q content else s1
  | 0xF2, none => s1
  | 0xF3, none => s1
  | _, _ => s1.countBad (f / 8)

/-- A packet breaks the rules for a fan mask (R328). -/
def State.fanBad (s : State) (p : Packet) : Bool :=
  fld p.fan 11 0 != 0 && (s.torus || decide (p.svcClass < 2) || ([0x01, 0x02, 0x03] : List Byte).contains p.ty)

/-- The fibre is that of a quarantined cube port (R359). -/
def State.quarantined (s : State) (f : Nat) : Bool := match fibreCube f with | some q => (s.nbr q).state == 3 | none => false

/-- A header's packet is discarded where it arrives: of a reserved type, on the other network, with a fan mask that R328 forbids, or a
reply whose header breaks Table 11.1. A request whose header does goes on to its target, which answers it (R314, R317, R328, Table 11.7). -/
def State.discards (s : State) (f w : Nat) (p : Packet) : Bool :=
  !p.known || p.network != s.laneNet f w || s.fanBad p || (p.network == 1 && !p.wellFormed)

/-- A whole packet is in the FIFO. -/
def State.packetWhole (s : State) (f w : Nat) (p : Packet) : State :=
  s.setFifo f w { s.fifo f w with packets := (s.fifo f w).packets ++ [p.trim] }

/-- The code of the cut-through threshold of a wavelength (R334). -/
def State.cutCode (s : State) (f w : Nat) : Nat := s.keyN 0x0302 (if circuitWave f w then 4 else 2 * s.laneNet f w) 2

/-- A header block: the threshold in force counts for its packet (R334). A quarantined port carries no packet (R359). -/
def State.headerBlock (s : State) (f w : Nat) (b : BitVec 257) : State :=
  let k := f / 8
  let s0 := if (s.wave f w).partial_.isSome then s.dataLost f w else s
  let p := headerOf b
  let s1 := (s0.setWave f w { s0.wave f w with skipping := false, skipClass := p.fcClass, partial_ := none }).setFifo f w
    { s0.fifo f w with code := s.cutCode f w }
  if s.discards f w p then (s1.countBad k).blocksGone f w p.fcClass 1
  else if s.quarantined f then s1.blocksGone f w p.fcClass 1
  else if p.whole then s1.packetWhole f w p
  else s1.setWave f w { s1.wave f w with partial_ := some p }

/-- A payload block: part of the packet in progress, or discarded (R313). -/
def State.payloadBlock (s : State) (f w : Nat) (b : BitVec 257) : State :=
  match (s.wave f w).partial_ with
  | none =>
    let s1 := s.blocksGone f w (s.wave f w).skipClass 1
    if (s.wave f w).skipping then (s1.setWave f w { s1.wave f w with skipping := false }).countLost (f / 8) else s1
  | some p =>
    let p1 := p.addBlock b
    if p1.whole then (s.setWave f w { s.wave f w with partial_ := none }).packetWhole f w p1
    else s.setWave f w { s.wave f w with partial_ := some p1 }

/-- One block of the fabric stream of a terminated wavelength (R312). -/
def State.receiveBlock (s : State) (f w : Nat) (b : BitVec 257) : State :=
  if !bitOf b 256 then s.payloadBlock f w b
  else if 0xF0 ≤ fld b 7 0 then s.controlBlock f w b
  else s.headerBlock f w b

/-- `BLOCK_RECEIVE` (R312, R313). -/
def execBlockReceive (f : FibreId) (w : WaveId) (block : BitVec 257) (s : State) : Out :=
  if s.terminated f w then ok (s.receiveBlock f w block) else ok s

/-- `CREDIT_RETURN`: a control block with credits arrives (R315). -/
def execCreditReturn (f : FibreId) (w : WaveId) (block : BitVec 257) (s : State) : Out :=
  if s.terminated f w && bitOf block 256 && decide (0xF0 ≤ fld block 7 0) then ok (s.returnCredits f w block) else ok s

/-- `CUT`: the control block arrives: the packet in progress is lost (R335). -/
def execCut (f : FibreId) (w : WaveId) (s : State) : Out := if s.terminated f w then ok (s.losePartial f w) else ok s

/-- The consumer has started the packet that is still arriving (R334). -/
def State.startedArriving (s : State) (f w : Nat) : Bool :=
  (s.fifo f w).started && (s.fifo f w).packets.isEmpty && (s.wave f w).partial_.isSome

/-- `FIFO_UNDERRUN`: the consumer has started the packet that is still arriving and finds the FIFO empty, or, where it takes two blocks for
a transit flit, holding one: it reads the last block again, which `lastRead` holds, and the packet is lost (R335). -/
def execFifoUnderrun (f : FibreId) (w : WaveId) (s : State) : Out :=
  if s.startedArriving f w &&
      decide (s.fifoLevel f w ≤ if 128 ≤ (s.fifo f w).out ∧ (s.fifo f w).out < 132 then 1 else 0) then
    let s1 := s.losePartial f w
    ok (s1.setFifo f w { s1.fifo f w with underrun := true })
  else ok s

/-! ### Flushes (R336) -/

/-- Ask for a flush of the FIFOs of a port. -/
def State.flushPort (s : State) (f : Nat) : State := forAll 16 s fun s w => s.setFifo f w { s.fifo f w with flush := true }

/-- The flush takes effect: every packet present, the one still arriving included, is discarded. -/
def State.flushFifo (s : State) (f w : Nat) : State :=
  let x := s.fifo f w
  let arriving := (s.wave f w).partial_
  let s1 := if arriving.isSome then s.losePartial f w else s
  let y := x.packets.foldl (fun y p => y.owe p.fcClass p.blockCount) (s1.fifo f w)
  let n := x.packets.length + (if arriving.isSome then 1 else 0)
  let s2 := s1.setFifo f w { y with packets := [], underrun := false, flush := false }
  s2.setFab (f / 8) { s2.fab (f / 8) with flushed := (s2.fab (f / 8)).flushed + BitVec.ofNat 32 n }

/-- `FIFO_FLUSH`: at the next packet boundary; the packet that the consumer has begun is finished first (R336). -/
def execFifoFlush (f : FibreId) (w : WaveId) (s : State) : Out :=
  if (s.fifo f w).flush && !(s.fifo f w).started then ok (s.flushFifo f w) else ok s

end Sys2Proof.Machine
end

