-- ==== Sys2Proof/Machine/Copy.lean ====
section
/-! DEFINITION. Copy channels: descriptors, accesses, completion, halts and stops (chapter 8). -/

namespace Sys2Proof.Machine

open Sys2Proof

/-! ### Servant accesses of a channel (R22, R178, R242, R244, R444) -/

/-- The controller of a region serves: a stack is ready, and its domain is not in reset (Table 7.8, R444). -/
def State.regionServes (s : State) : Region → Bool
  | .vault g => !s.crossingShut (.vault (Fin.ofNat 8 (g / 2048)))
  | .hbm t => (s.stk t).state == 2 && !s.inDomainReset (.stk (Fin.ofNat 16 t))
  | .cap t => (s.stk (16 + t)).state == 2 && !s.inDomainReset (.cap (Fin.ofNat 16 t))
  | .store _ => true
  | .scratch _ => true

/-- A servant read of a range can be performed. -/
def State.readable (s : State) (off len : Nat) : Bool :=
  match regionOf off with
  | some (r, o) => decide (o + len ≤ r.size) && s.regionServes r && !s.passMemoryError off len
  | none => false

/-- A servant write of a range can be performed. -/
def State.writable (s : State) (off len : Nat) : Bool := s.readable off len && !s.codeError off len

/-- Put a servant request into the queue of the memory that holds its address; what goes to tier 0 or a scratchpad waits for the
chainline, line by line. A domain in reset, and an unpopulated address, answer with an error (R10, R444). -/
def State.enqueueOne (s : State) (q : ServantReq) : State :=
  match regionOf q.addr with
  | some (.vault g, _) =>
    if s.regionServes (.vault g) then s.setVault g { s.vault g with queue := (s.vault g).queue ++ [q] } else s.respond q 0x10 []
  | some (.hbm t, _) =>
    if s.inDomainReset (.stk (Fin.ofNat 16 t)) then s.respond q 0x10 []
    else s.setStk t { s.stk t with queue := (s.stk t).queue ++ [q] }
  | some (.cap t, _) =>
    if s.inDomainReset (.cap (Fin.ofNat 16 t)) then s.respond q 0x10 []
    else s.setStk (16 + t) { s.stk (16 + t) with queue := (s.stk (16 + t)).queue ++ [q] }
  | some _ => { s with localReqs := SMap.set [] s.localReqs (requestPort q) (SMap.get [] s.localReqs (requestPort q) ++ [q]) }
  | none => s.respond q 0x10 []

/-- The parts of a request to tier 0 or a scratchpad, one to a 64-byte line. -/
def lineParts : Nat → ServantReq → List ServantReq
  | 0, _ => []
  | fuel + 1, q =>
    let k := min q.len (64 - q.addr % 64)
    if q.len = 0 then []
    else
      { q with len := k, whole := k, data := q.data.take k, poison := q.poison.take k } ::
        lineParts fuel { q with addr := q.addr + k, len := q.len - k, part := q.part + k, data := q.data.drop k, poison := q.poison.drop k }

/-- Issue a servant request. -/
def State.enqueue (s : State) (q : ServantReq) : State :=
  match regionOf q.addr with
  | some (.store _, _) | some (.scratch _, _) => (lineParts (q.len / 64 + 2) q).foldl (fun s x => s.enqueueOne x) s
  | _ => s.enqueueOne q

/-- Take an owner's request back out of the queue that holds it; a row that only it needed closes (R225). -/
def State.dropRequest (s : State) (o : ReqOwner) (off : Nat) : State :=
  let keep (q : List ServantReq) : List ServantReq := q.filter fun x => x.owner != o
  match regionOf off with
  | some (.vault g, _) => s.setVault g { s.vault g with queue := keep (s.vault g).queue, merging := (s.vault g).merging && ((s.vault g).queue.head?.map (·.owner)) != some o }
  | some (.hbm t, _) => s.setStk t (({ s.stk t with queue := keep (s.stk t).queue } : StackState).closeRows (hbmBase t))
  | some (.cap t, _) => s.setStk (16 + t) { s.stk (16 + t) with queue := keep (s.stk (16 + t)).queue }
  | some _ => { s with localReqs := SMap.update [] s.localReqs fun _ q => keep q }
  | none => s

/-! ### Buffers of hub firmware (R16, R25, R211, R404) -/

/-- The next access of hub firmware to a buffer. -/
def State.hubJob (s : State) (off len : Nat) : HubJob := { n := s.hub.jobNo, job := { off := off, len := len } }

/-- Issue an access of hub firmware: a servant request like any other. -/
def State.hubRequest (s : State) (j : HubJob) (write : Bool) (bs : List Byte) : State :=
  (s.setHub { s.hub with jobNo := s.hub.jobNo + 1 }).enqueue
    { owner := .hub j.n, write := write, addr := j.job.off, data := bs, poison := bs.map fun _ => false, len := j.job.len, whole := j.job.len }

/-- Begin an access of the current command. -/
def State.beginBuf (s : State) (j : HubJob) (write : Bool) (bs : List Byte) : State :=
  (s.setHub { s.hub with job := some j }).hubRequest j write bs

/-- Take the requests of an access back. -/
def State.dropJob (s : State) (j : Option HubJob) : State :=
  match j with
  | some x => s.dropRequest (.hub x.n) x.job.off
  | none => s

/-- A global address is in the own package (R20, R487). -/
def State.ownAddress (s : State) (a : Nat) : Bool := gaPackage a == s.ownPackage

/-- Issue an access of a channel's descriptor, or consecutive ones in one packet: a servant request within the package, one packet to
another, by the send window that its check found (R242, R339, R340). -/
def State.issueAccess (s : State) (c : ChanId) (write : Bool) (ga len : Nat) (bs : List (Byte × Bool)) : State :=
  let ch := s.channel c
  match ch.cur with
  | none => s
  | some d =>
    let off := gaOffset ga
    let acc : Access := { n := ch.accessNo, write := write, off := off, len := len, issued := s.nowNs, resp := none }
    let opened (s : State) (a : Access) : State :=
      s.setChannel c { ch with cur := some { d with out := d.out ++ [a] }, accessNo := ch.accessNo + 1 }
    if s.ownAddress ga then
      (opened s acc).enqueue
        { owner := .access c ch.accessNo, write := write, addr := off, data := bs.map (·.1), poison := bs.map (·.2), len := len, whole := len }
    else
      let pkg := gaPackage ga
      let k := c.val / 64
      let pkt : Packet := { ty := if write then 2 else 1, len := BitVec.ofNat 16 len, dst := BitVec.ofNat 16 (if write then d.dstPeer else d.srcPeer),
                            offset := BitVec.ofNat 48 off, poison := poisonMask off (bs.map (·.2)), payload := bs.map (·.1) }
      if routePresent (s.routeEntry pkg) then
        let (id, s1) := s.request k (c.val % 32) (c.val / 32) 0 pkt
        opened s1 { acc with reqId := some id }
      else s.setChannel c { ch with cur := some { d with failed := true } }

/-- Bytes of the next accesses that go together: one access within the package; to another, as many consecutive ones of a width as
`room` holds up to the next 256-byte boundary (R242). -/
def State.runOf (s : State) (ga w room : Nat) : Nat :=
  if s.ownAddress ga then w else max w (min (room / w * w) ((256 - gaOffset ga % 256) / w * w))

/-- A request to another package waits while the fabric is stopped (R339). -/
def State.mustWait (s : State) (ga : Nat) : Bool := s.hub.stopped && !s.ownAddress ga

/-- Issue the next access of a channel that the holding register allows, a write before a read; none may issue: `none` (R242, R339). -/
def State.pumpOne (s : State) (c : ChanId) : Option State :=
  let ch := s.channel c
  match ch.cur with
  | none => none
  | some d =>
    if d.failed || d.decided.isSome then none
    else if d.dstW ≤ d.hold.length ∧ d.writeIssued < d.length ∧ !s.mustWait d.dst.toNat then
      let n := s.runOf (d.dst.toNat + d.writeIssued) d.dstW (min d.hold.length (d.length - d.writeIssued))
      let s1 := s.setChannel c { ch with cur := some { d with writeIssued := d.writeIssued + n, hold := d.hold.drop n } }
      some (s1.issueAccess c true (d.dst.toNat + d.writeIssued) n (d.hold.take n))
    else
      let room := 64 - (d.hold.length + (d.readIssued - d.readDone))
      if d.readIssued < d.length ∧ d.srcW ≤ room ∧ !s.mustWait d.src.toNat then
        let n := s.runOf (d.src.toNat + d.readIssued) d.srcW (min room (d.length - d.readIssued))
        let s1 := s.setChannel c { ch with cur := some { d with readIssued := d.readIssued + n } }
        some (s1.issueAccess c false (d.src.toNat + d.readIssued) n [])
      else none

/-- Channel `i` places after the turn of copy engine `e`. -/
def State.turnChannel (s : State) (e i : Nat) : ChanId := Fin.ofNat 256 (8 * e + (SMap.get 0 s.engineTurn e + i) % 8)

/-- The accesses of a copy engine: one of each channel in turn that may issue one, until none may (R237). -/
def State.pumpEngine : Nat → State → Nat → State
  | 0, s, _ => s
  | fuel + 1, s, e =>
    match (List.range 8).findSome? fun i => (s.pumpOne (s.turnChannel e i)).map fun t => (i, t) with
    | some (i, t) => State.pumpEngine fuel { t with engineTurn := SMap.set 0 t.engineTurn e ((s.turnChannel e i).val % 8 + 1) } e
    | none => s

/-- What a channel's engine may issue now. -/
def State.pump (s : State) (c : ChanId) : State := s.pumpEngine 1100 (c.val / 8)

/-! ### The end of chains (R249, R250, Table 14.6) -/

/-- Results of a `COPY` (Table 14.6). -/
def ChannelState.copyResults (ch : ChannelState) (halt : Nat) : Nat :=
  let fb := ch.firstBad.getD (0, 0)
  resAt 8 4 ch.done.toNat + resAt 12 4 ch.badInChain.toNat + resAt 16 8 fb.1.toNat + resAt 24 1 fb.2.toNat + resAt 25 1 halt

/-- Complete the `COPY` that owns the chain in progress, if one does. -/
def State.completeCopy (s : State) (c status halt : Nat) : State :=
  match (s.channel c).owner with
  | some (m, t) => s.completeCmd m t.toNat 0x23 status 0 ((s.channel c).copyResults halt)
  | none => s

/-- Discard the chains in the post queue; a `COPY` among them ends `ABORTED`. -/
def State.discardQueue (s : State) (c : Nat) : State :=
  let q := (s.channel c).queue
  let s1 := s.setChannel c { s.channel c with queue := [] }
  q.foldl (fun s x => match x.owner with
    | some (m, t) => s.completeCmd m t.toNat 0x23 stAborted 0 0
    | none => s) s1

/-- The running program claims the channel. -/
def State.claimedNow (s : State) (c : Nat) : Bool := s.prog.running && (s.channel c).claimed

/-- The channel halts (R249). A halt in a `COPY` chain completes the `COPY` as `FAILED` and the channel is idle again; so is one
without `COPY` or claiming program at once; any other stays halted under a `CE_HALT` fault hold. -/
def State.haltChannel (s : State) (c : ChanId) (cause addr : Nat) : State :=
  let s1 := (s.completeCopy c stFailed cause).discardQueue c
  let ch := s1.channel c
  let stays := ch.owner.isNone && s1.claimedNow c
  let s2 := s1.setChannel c { ch with cur := none, next := none, ctl := none, owner := none, stopReq := false,
                                      state := if stays then 2 else 0, halt := if stays then BitVec.ofNat 2 cause else 0 }
  if stays then s2.raiseFault 0x1D 4 (c.val / 32) (c.val % 32) (addr % 2 ^ 64 + 2 ^ 64 * cause) else s2

/-- Take back the servant requests of a channel: its fetch or status write, and its accesses. -/
def State.dropChannel (s : State) (c : ChanId) : State :=
  let ch := s.channel c
  let s1 := match ch.ctl with | some x => s.dropRequest (.control c x.n) x.addr | none => s
  match ch.cur with
  | some d => d.out.foldl (fun s x => s.dropRequest (.access c x.n) x.off) s1
  | none => s1

/-- A channel drops what it does at once: a status byte that is still to be written is not written (R251). -/
def State.resetChannel (s : State) (c : Nat) : State :=
  let s1 := ((s.dropChannel (Fin.ofNat 256 c)).completeCopy c stAborted 0).discardQueue c
  s1.setChannel c { s1.channel c with cur := none, next := none, ctl := none, owner := none, stopReq := false, state := 0, halt := 0 }

/-! ### Descriptors (R239-R241) -/

/-- Bytes of an access width code, `none` for a reserved one (Table 8.2). -/
def widthOf (code : Nat) : Option Nat := if code ≤ 6 then some (2 ^ code) else none

/-- A range of the own package lies in one region of Table 8.5. -/
def State.ownRange (s : State) (off len : Nat) : Bool := s.oneRegion off len

/-- R241 for one range. -/
def State.rangeOk (s : State) (ga len : Nat) (op : Access3) : Bool :=
  gaSpace ga == 0 && decide (gaOffset ga + len ≤ 0x0F0000000000) &&
  (if s.ownAddress ga then s.ownRange (gaOffset ga) len
   else s.packageNo.isSome && (s.sendWindow (gaPackage ga) (gaOffset ga) len 0 op).isSome)

/-- Two ranges share a byte of one package. -/
def rangesShare (a b len : Nat) : Bool :=
  gaPackage a == gaPackage b && decide (gaOffset a < gaOffset b + len) && decide (gaOffset b < gaOffset a + len)

/-- The status that the checks of R240 decide, if they decide one. -/
def State.checkDescriptor (s : State) (src dst len sw dw flags : Nat) : Option Byte :=
  match widthOf sw, widthOf dw with
  | some a, some b =>
    if 4 ≤ flags then some 0x10
    else if len = 0 then some 0x02
    else if src % a ≠ 0 ∨ dst % b ≠ 0 ∨ len % max a b ≠ 0 then some 0x10
    else if !s.rangeOk src len .load || !s.rangeOk dst len .store || rangesShare src dst len then some 0x11
    else none
  | _, _ => some 0x10

/-- The channel as a posted chain starts. -/
def ChannelState.startChain (ch : ChannelState) : Option (ChannelState × Nat) :=
  match ch.next with
  | some a => some (ch, a.toNat)
  | none =>
    match ch.queue with
    | x :: rest =>
      some ({ ch with queue := rest, owner := x.owner, budget := BitVec.ofNat 16 x.budget, chain := 0, done := 0, badInChain := 0, firstBad := none },
        x.first.toNat)
    | [] => none

/-- Begin a fetch or a status write of a channel (R246, R249). -/
def State.beginControl (s : State) (c : ChanId) (fetch : Bool) (off : Nat) (bs : List Byte) : State :=
  let ch := s.channel c
  let n := ch.accessNo
  let len := if fetch then 32 else bs.length
  (s.setChannel c { ch with ctl := some { fetch := fetch, n := n, addr := off, issued := s.nowNs }, accessNo := n + 1 }).enqueue
    { owner := .control c n, write := !fetch, addr := off, data := bs, poison := bs.map fun _ => false, len := len, whole := len }

/-- The descriptor that a fetch has read, with what the checks of R240 decide (Table 8.1). -/
def State.readDescriptor (s : State) (b : List Byte) : DescRun :=
  let fieldN (o n : Nat) : Nat := leNat ((b.drop o).take n)
  let flags := fieldN 22 1
  let sw := fieldN 20 1
  let dw := fieldN 21 1
  let peer (ga : Nat) (op : Access3) : Nat := (s.sendWindow (gaPackage ga) (gaOffset ga) (fieldN 16 4) 0 op).getD (gaPackage ga)
  { src := BitVec.ofNat 64 (fieldN 0 8), dst := BitVec.ofNat 64 (fieldN 8 8), length := fieldN 16 4,
    srcPeer := peer (fieldN 0 8) .load, dstPeer := peer (fieldN 8 8) .store,
    srcW := (widthOf sw).getD 1, dstW := (widthOf dw).getD 1, silent := nbit flags 1, last := nbit flags 0,
    next := BitVec.ofNat 64 (fieldN 24 8), decided := s.checkDescriptor (fieldN 0 8) (fieldN 8 8) (fieldN 16 4) sw dw flags }

/-- `DESCRIPTOR_FETCH`: the channel begins to fetch the next descriptor of its chain, or the first of the next chain posted; once it
has been read, the channel checks it (R240) and begins its accesses. It halts on a spent budget, on an address that breaks R239, and on
a fetch that fails, is poisoned, or takes more than 50 us (R249). -/
def execDescriptorFetch (c : ChanId) (s : State) : Out :=
  let ch := s.channel c
  if ch.cur.isSome || ch.stopReq || ch.state = 2 || s.inDomainReset (.vault (Fin.ofNat 8 (c.val / 32))) then ok s
  else
    match ch.ctl with
    | some x =>
      (match x.resp with
       | some (failed, data, flags) =>
         let a := (ch.next.getD 0).toNat
         let s1 := s.setChannel c { ch with ctl := none, desc := if failed || flags.any id then ch.desc else ch.next.getD 0 }
         if failed || flags.any id then ok (s1.haltChannel c 1 a)
         else ok ((s1.setChannel c { s1.channel c with cur := some (s1.readDescriptor data), next := none, chain := ch.chain + 1 }).pump c)
       | none =>
         if x.issued + 50000 ≤ s.nowNs then
           ok (((s.setChannel c { ch with ctl := none }).dropRequest (.control c x.n) x.addr).haltChannel c 1 (ch.next.getD 0).toNat)
         else ok s)
    | none =>
      match ch.startChain with
      | none => ok s
      | some (c1, a) =>
        let s0 := s.setChannel c c1
        if c1.budget.toNat ≤ c1.chain.toNat then ok (s0.haltChannel c 2 a)
        else if !(gaSpace a == 0 && s.ownAddress a && a % 32 == 0) then ok (s0.haltChannel c 1 a)
        else ok ((s0.setChannel c { c1 with state := 1, next := some (BitVec.ofNat 64 a) }).beginControl c true (gaOffset a) [])

/-! ### Responses and timeouts (R242, R244) -/

/-- Move into the holding register what has returned, in address order. -/
def DescRun.settle : Nat → DescRun → DescRun
  | 0, d => d
  | fuel + 1, d =>
    match d.early.find? fun e => e.1 == d.readDone with
    | some e =>
      DescRun.settle fuel { d with early := d.early.erase e, hold := d.hold ++ e.2.1.zip e.2.2, readDone := d.readDone + e.2.1.length,
                                   poisoned := d.poisoned || e.2.2.any id }
    | none => d

/-- `COPY_ACCESS_RESPONSE`: the response of access `n` returns to its channel; a failed one stops further issue (R242, R244). -/
def execCopyAccessResponse (c : ChanId) (n : Nat) (s : State) : Out :=
  let ch := s.channel c
  match ch.cur with
  | some d =>
    match d.out.find? fun x => x.n == n && x.resp.isSome with
    | some x =>
      match x.resp with
      | some (failed, data, flags) =>
        let d1 := { d with out := d.out.erase x }
        if failed then ok (s.setChannel c { ch with cur := some { d1 with failed := true } })
        else if x.write then
          let s1 := s.setChannel c { ch with cur := some { d1 with writeDone := d1.writeDone + x.len }, bytes := ch.bytes + BitVec.ofNat 64 x.len }
          ok (s1.pump c)
        else
          let at_ := x.off - gaOffset d.src.toNat
          let d2 := { d1 with early := d1.early ++ [(at_, data, flags)] }
          ok ((s.setChannel c { ch with cur := some (d2.settle 70) }).pump c)
      | none => ok s
    | none => ok s
  | none => ok s

/-- An access of a channel has timed out. -/
def State.timeOutAccess (s : State) (c : ChanId) (x : Access) : State :=
  let ch := s.channel c
  match ch.cur with
  | some d => (s.setChannel c { ch with cur := some { d with out := d.out.erase x, failed := true, timedOut := true } }).dropRequest (.access c x.n) x.off
  | none => s

/-- A request waits to be injected (R332). -/
def FabState.injecting (f : FabState) (id : Word32) : Bool := f.inject.any fun e => e.2.any fun p => p.reqId == id

/-- An access has no response within its limit: 50 us within the package; beyond it the reply limit of R342, which runs from the
injection of its request, and from its issue where the fabric unit has lost the request in a reset (R244). -/
def State.accessLate (s : State) (c : ChanId) (x : Access) : Bool :=
  match x.reqId with
  | none => decide (x.issued + 50000 ≤ s.nowNs)
  | some id =>
    let fb := s.fab (c.val / 64)
    match fb.out.find? fun o => o.reqId == id with
    | some o => decide (o.deadline ≤ s.nowNs)
    | none => !fb.injecting id && decide (x.issued + 100000 ≤ s.nowNs)

/-- `COPY_ACCESS_TIMEOUT`: an access has no response within its limit (R244); a request outstanding in the fabric is counted (R342). -/
def execCopyAccessTimeout (c : ChanId) (n : Nat) (s : State) : Out :=
  match (s.channel c).cur with
  | some d =>
    match d.out.find? fun x => x.n == n && x.resp.isNone with
    | some x =>
      if s.accessLate c x then
        let k := c.val / 64
        let fb := s.fab k
        let s1 := if fb.out.any fun o => some o.reqId == x.reqId then
            s.setFab k { fb with out := fb.out.filter fun o => some o.reqId != x.reqId, timeout := fb.timeout + 1 } else s
        ok (s1.timeOutAccess c x)
      else ok s
    | none => ok s
  | none => ok s

/-! ### Completion and stops (R246-R250) -/

/-- The status of a descriptor that has completed, if it has (Table 8.4). -/
def DescRun.status (d : DescRun) : Option Byte :=
  if d.decided.isSome then d.decided
  else if !d.out.isEmpty then none
  else if d.failed then some (if d.timedOut then 0x13 else 0x12)
  else if d.writeDone < d.length then none
  else some (if d.poisoned then 0x03 else 0x01)

/-- Steps 2 and 3 of R246, once the status byte is written: the counter, and the chain's next descriptor (R247, R248). A `COPY` chain that
still runs on a channel which a program has since claimed raises no fault of that program (DESIGN CHOICE, log entry 101). -/
def State.descriptorDone (s : State) (c : ChanId) (d : DescRun) (st : Byte) : State :=
  let ch := s.channel c
  let bad := decide (0x10 ≤ st.toNat)
  let ends := d.last && !ch.stopReq
  let c1 : ChannelState :=
    { ch with
      cur := none, ctl := none, lastStatus := st, done := ch.done + 1
      count := if bad || d.silent then ch.count else ch.count + 1
      bad := if bad then ch.bad + 1 else ch.bad
      badInChain := if bad then ch.badInChain + 1 else ch.badInChain
      firstBad := if bad && ch.firstBad.isNone then some (ch.desc, st) else ch.firstBad
      next := if d.last then none else some d.next
      state := if ends then 0 else ch.state }
  let s2 := s.setChannel c c1
  let s3 := if bad && s2.claimedNow c && ch.owner.isNone then
      s2.raiseFault 0x1C 4 (c.val / 32) (c.val % 32) (ch.desc.toNat + 2 ^ 64 * st.toNat) else s2
  if ends then
    let s4 := s3.completeCopy c stDone 0
    s4.setChannel c { s4.channel c with owner := none }
  else s3

/-- `DESCRIPTOR_COMPLETE`: when every access has been answered the channel writes the status byte; when that write is answered the
descriptor is done (R246). A status write that fails or takes more than 50 us halts the channel (R249). A stop request that waits takes
effect before the chain goes on (R250). -/
def execDescriptorComplete (c : ChanId) (s : State) : Out :=
  let ch := s.channel c
  match ch.cur with
  | none => ok s
  | some d =>
    match d.status with
    | none => ok s
    | some st =>
      match ch.ctl with
      | none => ok (s.beginControl c false (gaOffset ch.desc.toNat + 23) [st])
      | some x =>
        match x.resp with
        | some (failed, _, _) =>
          if failed then ok ((s.setChannel c { ch with ctl := none }).haltChannel c 1 ch.desc.toNat) else ok (s.descriptorDone c d st)
        | none =>
          if x.issued + 50000 ≤ s.nowNs then
            ok (((s.setChannel c { ch with ctl := none }).dropRequest (.control c x.n) x.addr).haltChannel c 1 ch.desc.toNat)
          else ok s

/-- A stop takes effect: the channel discards its chains and is idle; a fetch under way is abandoned; a `COPY` ends `ABORTED` (R250). -/
def State.stopChannel (s : State) (c : Nat) : State :=
  let s1 := (s.completeCopy c stAborted 0).discardQueue c
  let c1 := s1.channel c
  s1.setChannel c { c1 with stopReq := false, next := none, ctl := none, owner := none, state := if c1.state = 2 then 2 else 0 }

/-- Place a stop request on a channel: it takes effect at once on one that is idle or fetching, else at the descriptor boundary (R250). -/
def State.requestStop (s : State) (c : Nat) : State :=
  let ch := s.channel c
  if ch.cur.isNone then s.stopChannel c
  else s.setChannel c { ch with stopReq := true, state := if ch.state = 1 then 3 else ch.state }

/-- `CHANNEL_STOP`: a stop request takes effect at the descriptor boundary (R250, R406). -/
def execChannelStop (c : ChanId) (s : State) : Out :=
  if (s.channel c).stopReq && (s.channel c).cur.isNone then ok (s.stopChannel c) else ok s

end Sys2Proof.Machine
end

