-- ==== Sys2Proof/Machine/Groups.lean ====
section
/-! DEFINITION. Machine shapes, groups, ranks and reduction trees (R350-R363, R373-R379). -/

namespace Sys2Proof.Machine

open Sys2Proof

/-! ### Neighbours and coordinates (R351, R355) -/

/-- The twist bit (R350). -/
def twist (n : Nat) : Nat := ((List.range 5).map fun i => n / 2 ^ i % 2).sum % 2

/-- The neighbour across dimension d in hypercube mode (R351). -/
def cubeNeighbour (n d : Nat) : Nat := if d ≤ 5 then n ^^^ 2 ^ d else n ^^^ 2 ^ d ^^^ (twist n * 2 ^ (d - 1))

/-- Coordinates in torus mode (R355). -/
def torusCoord (n axis : Nat) : Nat :=
  let q := n % 32
  let r := n / 32
  match axis with
  | 0 => 2 * (r % 8) + q % 2
  | 1 => 4 * (r / 8 % 4) + q / 2 % 4
  | _ => 4 * (r / 32) + q / 8

/-- The package at three coordinates. -/
def torusPackage (x y z : Nat) : Nat :=
  let q := x % 2 + 2 * (y % 4) + 8 * (z % 4)
  let r := x / 2 % 8 + 8 * (y / 4 % 4) + 32 * (z / 4 % 4)
  32 * r + q

/-! ### Pelotons (Table 12.4, R362) -/

/-- Fields of a peloton binding. -/
def pelBound (v : Nat) : Bool := nbit v 15
def pelNumber (v : Nat) : Nat := v % 4096
def pelShape (v : Nat) : Nat := nfld v 23 16
def pelMask (v : Nat) : Nat := nfld v 43 32
def pelBase (v : Nat) : Nat := nfld v 59 48
def pelOrigin (v axis : Nat) : Nat := nfld v (71 + 8 * axis) (64 + 8 * axis)
def pelExtent (v axis : Nat) : Nat := nfld v (95 + 8 * axis) (88 + 8 * axis) + 1

/-- Offset of a package within a torus block on an axis. -/
def pelOffset (v n axis : Nat) : Nat := (torusCoord n axis + 16 - pelOrigin v axis % 16) % 16

/-- A package is a member of the shape (R362). -/
def pelMember (v n : Nat) : Bool :=
  if pelShape v = 0 then (List.range 12).all fun d => nbit (pelMask v) d || nbit (n ^^^ pelBase v) d == false
  else (List.range 3).all fun a => decide (pelOffset v n a < pelExtent v a)

/-- The mask keeps the contiguity rule of R362. -/
def maskContiguous (m : Nat) : Bool :=
  (List.range 12).all fun d => !(decide (6 ≤ d) && nbit m d) || (List.range 12).all fun e => !(decide (5 ≤ e) && decide (e ≤ d)) || nbit m e

/-! ### Collective entries (Tables 13.1, 13.3) -/

def ceOp (e : BitVec 512) : Nat := slotN e 0 1
def ceRedop (e : BitVec 512) : Nat := slotN e 1 1
/-- Bytes of a chunk. -/
def ceChunk (e : BitVec 512) : Nat := 2 ^ slotN e 2 1
def ceCounter (e : BitVec 512) : Nat := slotN e 3 1 % 64
def ceSlot (e : BitVec 512) : Nat := slotN e 4 2 % 4096
def ceSpan (e : BitVec 512) : Nat := slotN e 6 2
def ceChunks (e : BitVec 512) : Nat := slotN e 8 3
def ceRoot (e : BitVec 512) : Nat := slotN e 12 2 % 4096
def ceStrided (e : BitVec 512) : Bool := nbit (slotN e 14 1) 0
def ceStallUs (e : BitVec 512) : Nat := if slotN e 34 2 = 0 then 1000 else slotN e 34 2
/-- Deadline in ns after the start; 0 none. -/
def ceDeadline (e : BitVec 512) : Nat := 64000 * slotN e 32 2

/-- Chunk i of a source (`false`) or destination, as a package-local offset (R378). -/
def ceChunkAt (e : BitVec 512) (dst : Bool) (i : Nat) : Nat :=
  let base := if dst then slotN e 24 8 else slotN e 16 8
  let striped := nbit (slotN e 14 1) (if dst then 2 else 1)
  let k := if dst then slotN e 38 2 else slotN e 36 2
  if striped then base + (i % k) * 0x1000000 + (i / k) * ceChunk e else base + i * ceChunk e

/-- Elements of a span: dimensions or axes, ascending. -/
def spanElems (span : Nat) : List Nat := (List.range 12).filter fun d => nbit span d

/-! ### Groups and ranks (R373) -/

/-- Sizes of the span's elements: 2 for a dimension, the block's extent for an axis. -/
def State.elemSizes (s : State) (span : Nat) : List Nat :=
  (spanElems span).map fun d => if s.torus then pelExtent (s.setting 0x0600) d else 2

/-- P. -/
def State.groupSize (s : State) (span : Nat) : Nat := (s.elemSizes span).foldl (· * ·) 1

/-- Digits of a rank in mixed radix, first element fastest. -/
def rankDigits : List Nat → Nat → List Nat
  | [], _ => []
  | n :: ns, r => r % n :: rankDigits ns (r / n)

/-- The rank with given digits. -/
def ofDigits : List Nat → List Nat → Nat
  | n :: ns, d :: ds => d + n * ofDigits ns ds
  | _, _ => 0

/-- The package reached from another by crossing the dimensions whose digit is 1. -/
def crossDims (n : Nat) (dims digits : List Nat) : Nat :=
  (dims.zip digits).foldl (fun n x => if x.2 = 1 then cubeNeighbour n x.1 else n) n

/-- The lowest package number of a hypercube group. -/
def groupBase (n span : Nat) : Nat :=
  let dims := spanElems span
  ((List.range (2 ^ dims.length)).map fun r => crossDims n dims (rankDigits (dims.map fun _ => 2) r)).foldl Nat.min n

/-- The package of a rank in this package's group. -/
def State.rankPackage (s : State) (span r : Nat) : Nat :=
  let me := s.ownPackage
  let elems := spanElems span
  let ds := rankDigits (s.elemSizes span) r
  if s.torus then
    let v := s.setting 0x0600
    let coord (a : Nat) : Nat :=
      match (elems.zip ds).find? fun x => x.1 == a with
      | some (_, o) => (pelOrigin v a + o) % 16
      | none => torusCoord me a
    torusPackage (coord 0) (coord 1) (coord 2)
  else crossDims (groupBase me span) elems ds

/-- The rank of a package in this package's group, if it is a member. -/
def State.packageRank (s : State) (span n : Nat) : Option Nat :=
  (List.range (s.groupSize span)).find? fun r => s.rankPackage span r == n

/-! ### Trees (R374, R375) -/

/-- Number of tree chunks, or of blocks' chunks in an all-to-all (Table 13.2). -/
def treeChunks (e : BitVec 512) (p : Nat) : Nat :=
  match ceOp e with
  | 3 | 5 => p * ceChunks e
  | 6 => 1
  | _ => ceChunks e

/-- Result chunks R at a member (Table 13.2). -/
def resultChunks (e : BitVec 512) (p : Nat) : Nat :=
  match ceOp e with
  | 2 => ceChunks e / p
  | 3 | 5 => p * ceChunks e
  | 6 => 0
  | _ => ceChunks e

/-- The root of chunk j. -/
def treeRoot (e : BitVec 512) (p j : Nat) : Nat :=
  match ceOp e with
  | 4 => ceRoot e
  | 6 => 0
  | _ => j % p

/-- The order of the elements for chunk j: positions in the span, rotated. -/
def treeOrder (k j : Nat) : List Nat := (List.range k).map fun i => (i + j) % (max 1 k)

/-- The link of rank x toward the root: the first position of the order on which they differ. -/
def treeLink (sizes : List Nat) (j root x : Nat) : Option Nat :=
  let a := rankDigits sizes x
  let b := rankDigits sizes root
  (treeOrder sizes.length j).find? fun i => a[i]? != b[i]?

/-- The rank of the neighbour of rank x across element i of the span, `digit` being the rank with that digit changed: the same unless the
hop changes the twist, in which case the neighbour of R351 has another rank on the inter-rack dimensions too. -/
def State.acrossRank (s : State) (span x i digit : Nat) : Nat :=
  let d := ((spanElems span)[i]?).getD 0
  if s.torus ∨ 5 ≤ d ∨ span < 64 then digit else (s.packageRank span (cubeNeighbour (s.rankPackage span x) d)).getD digit

/-- The parent of rank x, none at the root: its neighbour across the link dimension, or one offset closer along the link axis. `across` is
the rank of the neighbour (`State.acrossRank`). -/
def treeParent (sizes : List Nat) (across : Nat → Nat → Nat → Nat) (j root x : Nat) : Option Nat :=
  match treeLink sizes j root x with
  | none => none
  | some i =>
    let a := rankDigits sizes x
    let xi := (a[i]?).getD 0
    let ri := ((rankDigits sizes root)[i]?).getD 0
    some (across x i (ofDigits sizes (a.set i (if xi < ri then xi + 1 else xi - 1))))

/-- The children of rank x in combining order (R375). -/
def treeChildren (sizes : List Nat) (across : Nat → Nat → Nat → Nat) (p j root x : Nat) : List Nat :=
  (treeOrder sizes.length j).flatMap fun i =>
    (List.range p).filter fun c => treeParent sizes across j root c == some x && treeLink sizes j root c == some i

/-! ### Combining (R376) -/

/-- Combine two elements of a type: 0 FP32, 1 BF16, 2 INT32; operators 0 sum, 1 max, 2 min. -/
def combineElem (ty op a b : Nat) : Nat :=
  match ty, op with
  | 0, 0 => (fp32.addOp a b).1
  | 1, 0 => (bf16.addOp a b).1
  | 2, 0 => (a + b) % 2 ^ 32
  | 0, _ => (f32MinMax (op == 1) (BitVec.ofNat 32 a) (BitVec.ofNat 32 b)).1.toNat
  | 1, _ => (f32MinMax (op == 1) (BitVec.ofNat 32 (a * 65536)) (BitVec.ofNat 32 (b * 65536))).1.toNat / 65536
  | _, _ =>
    let x := sext 32 a
    let y := sext 32 b
    if op = 1 then (if x < y then b else a) else (if y < x then b else a)

/-- Bytes of an element. -/
def elemBytes (ty : Nat) : Nat := if ty = 1 then 2 else 4

/-- Combine an operand into a running result, element by element; a word that draws on a poisoned word is poisoned. -/
def combineChunk (ty op : Nat) : List (Byte × Bool) → List (Byte × Bool) → List (Byte × Bool)
  | a0 :: a1 :: a2 :: a3 :: as, b0 :: b1 :: b2 :: b3 :: bs =>
    let av := leNat [a0.1, a1.1, a2.1, a3.1]
    let bv := leNat [b0.1, b1.1, b2.1, b3.1]
    let v := if elemBytes ty = 4 then combineElem ty op av bv
             else combineElem ty op (av % 65536) (bv % 65536) + 65536 * combineElem ty op (av / 65536) (bv / 65536)
    let bad := a0.2 || b0.2
    (leBytes 4 v).map (fun x => (x, bad)) ++ combineChunk ty op as bs
  | _, _ => []

/-- Poisoned words of chunk data. -/
def poisonedWords : List (Byte × Bool) → Nat
  | b :: _ :: _ :: _ :: _ :: _ :: _ :: _ :: rest => (if b.2 then 1 else 0) + poisonedWords rest
  | _ => 0

end Sys2Proof.Machine
end

