-- ==== Sys2Proof/Machine/Collective.lean ====
section
/-! DEFINITION. The collective engines (chapter 13). -/

namespace Sys2Proof.Machine

open Sys2Proof

/-! ### Open collectives, buffers, packets -/

/-- The open collective of a slot on an engine. -/
def State.coll (s : State) (k slot : Nat) : Option CollState := (s.engine k).open_.find? fun c => c.slot == slot

/-- Replace an open collective. -/
def State.setColl (s : State) (k : Nat) (c : CollState) : State :=
  s.setEngine k { s.engine k with open_ := (s.engine k).open_.map fun x => if x.slot = c.slot then c else x }

/-- 64 KiB units of a chunk buffer. -/
def CollState.units (c : CollState) : Nat := ceChunk c.entry / 65536

def CollState.chunk (c : CollState) (j : Nat) : ChunkState := SMap.get {} c.chunks j
def CollState.setChunk (c : CollState) (j : Nat) (x : ChunkState) : CollState := { c with chunks := SMap.set {} c.chunks j x }

/-- Take a buffer: a reserved one, or a free one up to half the store (R382). -/
def takeBuffer (e : EngineState) (c : CollState) : Option (EngineState × CollState) :=
  if c.busy < c.buffers then some (e, { c with busy := c.busy + 1 })
  else if c.units ≤ e.store ∧ (c.buffers - 2) * c.units + c.units ≤ 128 then
    some ({ e with store := e.store - c.units }, { c with busy := c.busy + 1, buffers := c.buffers + 1 })
  else none

/-- Give a buffer back. -/
def freeBuffer (e : EngineState) (c : CollState) : EngineState × CollState :=
  if 2 < c.buffers then ({ e with store := e.store + c.units }, { c with busy := c.busy - 1, buffers := c.buffers - 1 })
  else (e, { c with busy := c.busy - 1 })

/-- Store an engine and one of its collectives. -/
def State.putBoth (s : State) (k : Nat) (ec : EngineState × CollState) : State := (s.setEngine k ec.1).setColl k ec.2

/-- Give a buffer of a collective back. -/
def State.release (s : State) (k slot : Nat) : State :=
  match s.coll k slot with
  | some c => s.putBoth k (freeBuffer (s.engine k) c)
  | none => s

/-- A collective packet (R386) from this member to a package. -/
def State.clPacket (s : State) (c : CollState) (ty j pkt dst : Nat) (data : List (Byte × Bool)) : Packet :=
  { ty := BitVec.ofNat 8 ty, flags := BitVec.ofNat 8 ((if ty = 0x1F then 192 else 128) + (if s.ordered then 32 else 0)),
    code := BitVec.ofNat 8 (ceOp c.entry), space := BitVec.ofNat 8 (slotN c.entry 2 1 - 16), len := BitVec.ofNat 16 data.length,
    dst := BitVec.ofNat 16 dst, src := BitVec.ofNat 16 s.srcField, fan := 0, peloton := BitVec.ofNat 16 s.peloton,
    injectUs := BitVec.ofNat 32 s.cadUs, reqId := BitVec.ofNat 32 (c.slot * 2 ^ 20 + c.gen.toNat * 65536 + c.epoch.toNat),
    offset := BitVec.ofNat 48 (j * 2 ^ 24 + pkt * 4096),
    poison := data.zipIdx.foldl (fun m (b, i) => if b.2 then m ||| (1 <<< (i / 8)) else m) 0, payload := data.map (·.1) }

/-- Send a collective packet: requests are injected, replies go to the router. -/
def State.sendCl (s : State) (k : Nat) (p : Packet) : State :=
  if p.network = 1 then s.pushOut k p
  else s.setFab k { s.fab k with inject := SMap.set [] (s.fab k).inject p.svcClass (SMap.get [] (s.fab k).inject p.svcClass ++ [p]) }

/-- The package of a rank in a collective's group. -/
def State.memberOf (s : State) (c : CollState) (r : Nat) : Nat := s.rankPackage (ceSpan c.entry) r

/-- Sizes, parent and children of this member in the tree of chunk j. -/
def State.collSizes (s : State) (c : CollState) : List Nat := s.elemSizes (ceSpan c.entry)
def State.parentOf (s : State) (c : CollState) (j : Nat) : Option Nat :=
  treeParent (s.collSizes c) (s.acrossRank (ceSpan c.entry)) j (treeRoot c.entry c.size j) c.rank
def State.childrenOf (s : State) (c : CollState) (j : Nat) : List Nat :=
  treeChildren (s.collSizes c) (s.acrossRank (ceSpan c.entry)) c.size j (treeRoot c.entry c.size j) c.rank

/-- The operation reduces up its trees, or sends results down them. -/
def CollState.up (c : CollState) : Bool := ceOp c.entry == 1 || ceOp c.entry == 2
def CollState.down (c : CollState) : Bool := ceOp c.entry == 1 || ceOp c.entry == 3 || ceOp c.entry == 4
def CollState.isA2A (c : CollState) : Bool := ceOp c.entry == 5

/-- The destination chunk that tree chunk j gives at this member. -/
def CollState.destOf (c : CollState) (j : Nat) : Option Nat :=
  if ceOp c.entry = 2 then (if j % c.size = c.rank then some (j / c.size) else none) else some j

/-- The tree chunk of destination chunk i. -/
def CollState.chunkOfDest (c : CollState) (i : Nat) : Nat := if ceOp c.entry = 2 then i * c.size + c.rank else i

/-- The tree chunk to which source chunk i contributes at this member. -/
def CollState.chunkOfSource (c : CollState) (i : Nat) : Nat := if ceOp c.entry = 3 then i * c.size + c.rank else i

/-- All-to-all: the member whose block holds chunk i, the chunk within the block, and the chunk of a block (R378). -/
def CollState.blockOf (c : CollState) (i : Nat) : Nat := if ceStrided c.entry then i % c.size else i / max 1 (ceChunks c.entry)
def CollState.inBlock (c : CollState) (i : Nat) : Nat := if ceStrided c.entry then i / c.size else i % max 1 (ceChunks c.entry)
def CollState.ofBlock (c : CollState) (q i : Nat) : Nat := if ceStrided c.entry then i * c.size + q else q * ceChunks c.entry + i

/-- Count poisoned words reduced or forwarded (R376). -/
def State.countPoison (s : State) (k : Nat) (d : List (Byte × Bool)) : State :=
  s.setEngine k { s.engine k with poison := (s.engine k).poison + BitVec.ofNat 32 (poisonedWords d) }

/-- 256-byte pieces of a chunk. -/
def pieces : Nat → List (Byte × Bool) → List (List (Byte × Bool))
  | 0, _ => []
  | n + 1, d => d.take 256 :: pieces n (d.drop 256)

/-- Send a whole chunk to a member, in packet-index order (R383). -/
def State.sendChunk (s : State) (k : Nat) (c : CollState) (j who : Nat) (d : List (Byte × Bool)) : State :=
  let dst := s.memberOf c who
  ((pieces (d.length / 256) d).zipIdx.foldl (fun s (x, i) => s.sendCl k (s.clPacket c 0x10 j i dst x)) s).countPoison k d

/-- Grant a credit for chunk j to a member (R382). -/
def State.grant (s : State) (k slot j who : Nat) : State :=
  match s.coll k slot with
  | some c =>
    let x := c.chunk j
    if x.granted.contains who then s
    else (s.setColl k (c.setChunk j { x with granted := x.granted ++ [who] })).sendCl k (s.clPacket c 0x90 j 0 (s.memberOf c who) [])
  | none => s

/-! ### Progress of a chunk (R375, R382, R384) -/

/-- Credit the children that may send: all of them in arrival order; in the fixed order the next one, and those that find a
free buffer (R382). -/
def State.creditChildren (s : State) (k slot j : Nat) : State :=
  match s.coll k slot with
  | none => s
  | some c =>
    (s.childrenOf c j).foldl (fun s ch =>
      match s.coll k slot with
      | none => s
      | some c =>
        let x := c.chunk j
        if x.granted.contains ch then s
        else if !s.ordered || ((s.childrenOf c j).takeWhile fun y => y != ch).all fun y => x.combined.contains y then s.grant k slot j ch
        else
          match takeBuffer (s.engine k) c with
          | some (e, c1) => (s.putBoth k (e, c1.setChunk j { x with buffered := x.buffered ++ [ch] })).grant k slot j ch
          | none => s) s

/-- Combine the whole operands whose turn has come in the fixed order (R375). -/
def State.combineReady : Nat → State → Nat → Nat → Nat → State
  | 0, s, _, _, _ => s
  | fuel + 1, s, k, slot, j =>
    match s.coll k slot with
    | none => s
    | some c =>
      let x := c.chunk j
      let kids := s.childrenOf c j
      match x.acc, kids.find? fun y => !x.combined.contains y with
      | some a, some y =>
        match SMap.get? x.ready y with
        | some d =>
          let ro := ceRedop c.entry
          let x1 := { x with acc := some (combineChunk (ro / 16) (ro % 16) a d), combined := x.combined ++ [y], ready := SMap.erase x.ready y }
          let s1 := (s.setColl k (c.setChunk j x1)).countPoison k d
          let s2 := if x.buffered.contains y then s1.release k slot else s1
          State.combineReady fuel s2 k slot j
        | none => s
      | _, _ => s

/-- In arrival order a packet is combined as soon as it is whole: into its 256 bytes of the running result (R375). -/
def combinePacket (c : CollState) (a : List (Byte × Bool)) (i : Nat) (d : List (Byte × Bool)) : List (Byte × Bool) :=
  let ro := ceRedop c.entry
  a.take (256 * i) ++ combineChunk (ro / 16) (ro % 16) ((a.drop (256 * i)).take 256) d ++ a.drop (256 * i + 256)

/-! ### Chunk accesses (R16, R25, R28, R379, R384) -/

/-- Access `n` of an engine is for this chunk. -/
def ChunkAccess.isFor (a : ChunkAccess) (slot : Nat) (use : ChunkUse) (i : Nat) : Bool := a.slot == slot && a.use == use && a.index == i

/-- An access of a chunk is under way. -/
def State.accessing (s : State) (k slot : Nat) (use : ChunkUse) (i : Nat) : Bool := (s.engine k).accesses.any fun a => a.isFor slot use i

/-- Begin to read source chunk i, or the member's own block of destination chunk i, or to write destination chunk i: a servant request
like any other. -/
def State.beginChunk (s : State) (k : Nat) (c : CollState) (use : ChunkUse) (i : Nat) (d : List (Byte × Bool)) : State :=
  let e := s.engine k
  let at_ : Nat := match use with
    | .source => ceChunkAt c.entry false i
    | .own => ceChunkAt c.entry false (c.ofBlock c.rank (c.inBlock i))
    | .dest => ceChunkAt c.entry true i
  let len := ceChunk c.entry
  let a : ChunkAccess := { n := e.accessNo, slot := c.slot, use := use, index := i, job := { off := at_, len := len } }
  (s.setEngine k { e with accesses := e.accesses ++ [a], accessNo := e.accessNo + 1 }).enqueue
    { owner := .chunk k a.n, write := use == .dest, addr := at_, data := d.map (·.1), poison := d.map (·.2), len := len, whole := len }

/-- Take back the accesses of a collective that has ended. -/
def State.dropAccesses (s : State) (k slot : Nat) : State :=
  let gone := (s.engine k).accesses.filter fun a => a.slot == slot
  let s1 := s.setEngine k { s.engine k with accesses := (s.engine k).accesses.filter fun a => a.slot != slot }
  gone.foldl (fun s a => s.dropRequest (.chunk k a.n) a.job.off) s1

/-- The member has reduced its part of chunk j and passed it to its parent, or need not. -/
def CollState.upDone (c : CollState) (x : ChunkState) (parent : Option Nat) : Bool :=
  !c.up || (match parent with | some p => x.sentTo.contains p | none => true)

/-- Send, write and release what chunk j allows; its write to the destination is begun, and `landChunk` sees it done. -/
def State.progress (s : State) (k slot j : Nat) : State :=
  match s.coll k slot with
  | none => s
  | some c =>
    let x := c.chunk j
    let parent := s.parentOf c j
    let kids := s.childrenOf c j
    match x.acc with
    | none => s
    | some a =>
      let full := x.full || (c.up && !c.upDone x parent && kids.all x.combined.contains) || (c.up && parent.isNone && kids.all x.combined.contains)
      if !full then s.setColl k (c.setChunk j x)
      else if !c.upDone x parent then
        match parent with
        | some p =>
          if x.credits.contains p then
            let s1 := s.sendChunk k c j p a
            let c1 := c.setChunk j { x with sentTo := x.sentTo ++ [p], acc := none, full := false, holds := false }
            (s1.setColl k c1).release k slot
          else s
        | none => s
      else
        let writes := x.gateDst && !x.written && !x.writing && (c.destOf j).isSome
        let s1 := match c.destOf j with
          | some i => if writes then s.beginChunk k c .dest i a else s
          | none => s
        let x1 := { x with full := true, writing := x.writing || writes }
        let dests := if c.down then kids.filter fun y => x1.credits.contains y && !x1.sentTo.contains y else []
        let s2 := dests.foldl (fun s y => s.sendChunk k c j y a) s1
        let x2 := { x1 with sentTo := x1.sentTo ++ dests }
        let finished := (x2.written || (c.destOf j).isNone) && (!c.down || kids.all x2.sentTo.contains)
        let s3 := s2.setColl k (c.setChunk j (if finished then { x2 with acc := none, holds := false } else x2))
        if finished && x.holds then s3.release k slot else s3

/-- All-to-all: the block chunk with source index i is read to be sent to its member, when its gate is open and a credit is there. -/
def State.sendBlock (s : State) (k slot i : Nat) : State :=
  match s.coll k slot with
  | none => s
  | some c =>
    let key := c.size * ceChunks c.entry + i
    let x := c.chunk key
    let q := c.blockOf i
    if x.full && x.credits.contains q && !x.sentTo.contains q && !s.accessing k slot .source i then s.beginChunk k c .source i [] else s

/-! ### Aborts (R392-R395) -/

/-- The abort packets of a member: multicast over the span, or to the neighbours on each spanned axis (R393). -/
def State.abortPackets (s : State) (c : CollState) (payload : List Byte) : List Packet :=
  let base := s.clPacket c 0x1F 0 0 0 (payload.map fun b => (b, false))
  if c.size ≤ 1 then []
  else if s.torus then
    let sizes := s.collSizes c
    let ds := rankDigits sizes c.rank
    (List.range sizes.length).flatMap fun i =>
      let o := (ds[i]?).getD 0
      let near := (if o + 1 < (sizes[i]?).getD 1 then [o + 1] else []) ++ (if 0 < o then [o - 1] else [])
      near.map fun v => { base with dst := BitVec.ofNat 16 (s.memberOf c (ofDigits sizes (ds.set i v))) }
  else [{ base with fan := BitVec.ofNat 16 (ceSpan c.entry) }]

/-- Destination bytes of the chunks that a collective has not counted are unspecified once it has aborted: they become free values
(R395; log entry 94). -/
def State.loosenDest (s : State) (c : CollState) : State :=
  let n := ceChunk c.entry
  let rest := (List.range (resultChunks c.entry c.size - c.stepsMade)).map (· + c.stepsMade)
  { s with mem := rest.zipIdx.foldl (fun m x => looseBytes m (ceChunkAt c.entry true x.1) n (s.freeCtr + x.2 * (n / 8))) s.mem
           freeCtr := s.freeCtr + rest.length * (n / 8) }

/-- Abort an open collective (R393, R395). -/
def State.abortColl (s : State) (k : Nat) (c : CollState) (cause origin detected : Nat) : State :=
  let payload := leBytes 2 origin ++ leBytes 1 cause ++ leBytes 1 0 ++ leBytes 8 detected ++ leBytes 20 0
  let pkts := s.abortPackets c payload
  let tag := c.slot * 16 + c.gen.toNat
  let fb := s.fab k
  let s0 := s.setFab k { fb with inject := SMap.update [] fb.inject fun _ l => l.filter fun p => !(p.collective && p.reqId.toNat / 65536 == tag) }
  let s1 := pkts.foldl (fun s p => s.sendCl k p) s0
  let e := s1.engine k
  let e1 : EngineState :=
    { e with
      open_ := e.open_.filter fun x => x.slot != c.slot
      aborted := e.aborted + 1
      store := e.store + c.buffers * c.units
      gens := SMap.set 0 e.gens c.slot (c.gen + 1)
      lastEnd := SMap.insert e.lastEnd c.slot s.nowNs
      lastAbort := BitVec.ofNat 32 (origin * 2 ^ 20 + cause * 65536 + c.gen.toNat * 4096 + c.slot)
      abortT := BitVec.ofNat 64 detected
      resend := e.resend ++ pkts.map fun p => (c.slot, s.nowNs + 250000, p) }
  let s2 : State := { (s1.setEngine k e1).dropAccesses k c.slot with abort := s1.abort ||| (1 <<< ceCounter c.entry) }
  (s2.loosenDest c).logEvent 0x85 6 k k (cause + 65536 * c.slot)

/-- Abort with the own package as first detector, now. -/
def State.abortOwn (s : State) (k : Nat) (c : CollState) (cause : Nat) : State := s.abortColl k c cause s.ownPackage s.cadNs

/-- Abort every open collective of an engine, and of the package. -/
def State.abortEngine (s : State) (k cause : Nat) : State := (s.engine k).open_.foldl (fun s c => s.abortOwn k c cause) s
def State.abortAll (s : State) (cause : Nat) : State := forAll 4 s fun s k => s.abortEngine k cause

/-- A collective of the package is open. -/
def State.collOpen (s : State) : Bool := (List.range 4).any fun k => !(s.engine k).open_.isEmpty

/-! ### Posts (R380) -/

/-- The image gives a counter to operation records (R337). -/
def State.opCounter (s : State) (c : Nat) : Bool :=
  match s.image with
  | some i => bitOf i.opCounters c
  | none => false

/-- Chunks of the source or destination at this member (Table 13.2). -/
def chunkCount (e : BitVec 512) (p r : Nat) (dst : Bool) : Nat :=
  let n := ceChunks e
  match ceOp e, dst with
  | 2, true => n / p
  | 3, true | 5, _ => p * n
  | 4, false => if r = ceRoot e then n else 0
  | 6, _ => 0
  | _, _ => n

/-- Byte of the first failing field of a gate at byte `o`, if one fails (Table 13.3). -/
def gateBad (e : BitVec 512) (o : Nat) : Option Nat :=
  let kind := slotN e o 1
  let die := slotN e (o + 1) 1
  let ctr := slotN e (o + 2) 2
  if 2 < kind then some o
  else if (kind = 1 ∧ 8 ≤ die) ∨ (kind ≠ 1 ∧ die ≠ 0) then some (o + 1)
  else if (kind = 1 ∧ 0x180 ≤ ctr) ∨ (kind ≠ 1 ∧ ctr ≠ 0) then some (o + 2)
  else none

/-- The chunks of two lists of chunk addresses share a byte. -/
def chunksShare (a b : List Nat) (n : Nat) : Bool := a.any fun x => b.any fun y => decide (x < y + n) && decide (y < x + n)

/-- The byte of the first field that fails R380, if one does. -/
def State.clFormBad (s : State) (k : Nat) (e : BitVec 512) : Option Nat :=
  let v := s.setting 0x0600
  let op := ceOp e
  let reduces := op == 1 || op == 2
  let span := ceSpan e
  let p := s.groupSize span
  let r := (s.packageRank span s.ownPackage).getD 0
  let stripeBad (flag off : Nat) : Bool :=
    let w := slotN e off 2
    if nbit (slotN e 14 1) flag then w = 0 || decide (16384 < w) else w != 0
  let places (dst : Bool) : List Nat := (List.range (chunkCount e p r dst)).map (ceChunkAt e dst)
  let regionBad (dst : Bool) : Bool := (places dst).any fun a => !s.oneRegion a (ceChunk e)
  let coincide := (op == 1 || op == 4) && slotN e 16 8 == slotN e 24 8 && nbit (slotN e 14 1) 1 == nbit (slotN e 14 1) 2 && slotN e 36 2 == slotN e 38 2
  if op = 0 ∨ 6 < op then some 0
  else if (if reduces then decide (2 < slotN e 1 1 / 16) || decide (2 < slotN e 1 1 % 16) else slotN e 1 1 != 0) then some 1
  else if slotN e 2 1 < 16 ∨ 20 < slotN e 2 1 then some 2
  else if 64 ≤ slotN e 3 1 ∨ s.opCounter (ceCounter e) then some 3
  else if slotN e 4 2 / 1024 ≠ k then some 4
  else if !s.bound || (pelShape v == 1) != s.torus then some 6
  else if (if s.torus then decide (8 ≤ span) else decide (4096 ≤ span) || (span &&& pelMask v) != span) then some 6
  else if slotN e 11 1 ≠ 0 ∨ (op = 6) ≠ (ceChunks e = 0) ∨ (op = 2 ∧ ceChunks e % p ≠ 0) then some 8
  else if (if op = 4 then decide (p ≤ slotN e 12 2) else slotN e 12 2 != 0) then some 12
  else if 8 ≤ slotN e 14 1 then some 14
  else if slotN e 15 1 ≠ 0 then some 15
  else if slotN e 34 2 ≠ 0 ∧ slotN e 34 2 < 100 then some 34
  else if stripeBad 1 36 then some 36
  else if stripeBad 2 38 then some 38
  else if regionBad false then some 16
  else if regionBad true then some 24
  else if chunksShare (places false) (places true) (ceChunk e) && !coincide then some 24
  else (gateBad e 40).or (gateBad e 52)

/-- `COLLECTIVE_TAKE_POST`: the engine takes the oldest post of its two dies, the lower site first within a beat, and checks
it; a bad one is the program fault `CL_FORM` (R380). -/
def execCollectiveTakePost (k : LpId) (s : State) : Out :=
  if s.inDomainReset (.fab k) then ok s else
  let lo := 2 * k.val
  let a := SMap.get [] s.collPosts lo
  let b := SMap.get [] s.collPosts (lo + 1)
  let pick : Option (Nat × Nat) :=
    match a, b with
    | (i, t, _) :: _, (j, u, _) :: _ => if t ≤ u then some (lo, i) else some (lo + 1, j)
    | (i, _, _) :: _, [] => some (lo, i)
    | [], (j, _, _) :: _ => some (lo + 1, j)
    | [], [] => none
  match pick with
  | none => ok s
  | some (d, i) =>
    let s1 : State := { s with collPosts := SMap.set [] s.collPosts d ((SMap.get [] s.collPosts d).drop 1) }
    let entry := (s.image.bind fun m => SMap.get? m.coll i)
    match entry with
    | none => ok (s1.raiseFault 0x1F 6 d k i)
    | some e =>
      match s.clFormBad k e with
      | some byte => ok (s1.raiseFault 0x1F 6 d k (i + 65536 * byte))
      | none => ok (s1.setEngine k { s1.engine k with checked := (s1.engine k).checked ++ [(d, e)] })

/-! ### Starting (R381, R388-R390) -/

/-- Barrier progress: the arrival goes to the parent, and the root releases (R386). -/
def State.barrier (s : State) (k slot : Nat) : State :=
  match s.coll k slot with
  | none => s
  | some c =>
    let kids := s.childrenOf c 0
    if ceOp c.entry ≠ 6 ∨ !(kids.all c.arrived.contains) then s
    else
      match s.parentOf c 0 with
      | some p =>
        if c.arriveSent then s
        else (s.setColl k { c with arriveSent := true }).sendCl k (s.clPacket c 0x11 0 0 (s.memberOf c p) [])
      | none =>
        if c.released then s
        else
          let s1 := s.setColl k { c with released := true }
          if c.size ≤ 1 then s1
          else if s.torus then kids.foldl (fun s y => s.sendCl k (s.clPacket c 0x12 0 0 (s.memberOf c y) [])) s1
          else s1.sendCl k { s.clPacket c 0x12 0 0 0 [] with fan := BitVec.ofNat 16 (ceSpan c.entry) }

/-- Tag fields of a collective packet. -/
def clSlot (p : Packet) : Nat := fld p.reqId 31 20
def clGen (p : Packet) : Nat := fld p.reqId 19 16
def clEpoch (p : Packet) : Nat := fld p.reqId 15 0
def clChunk (p : Packet) : Nat := fld p.offset 47 24
def clIndex (p : Packet) : Nat := fld p.offset 23 12

/-- Abort cause, origin and time that a `CL_ABORT` carries (Table 13.7). -/
def abortInfo (p : Packet) : Nat × Nat × Nat :=
  (leNat ((p.payload.drop 2).take 1), leNat (p.payload.take 2) % 4096, leNat ((p.payload.drop 4).take 8))

/-- `COLLECTIVE_START`: the first checked post starts when the conditions of R381 hold; early packets of its use then count, and
an early `CL_ABORT` aborts it (R390). -/
def execCollectiveStart (k : LpId) (s : State) : Out :=
  if s.inDomainReset (.fab k) then ok s else
  let e := s.engine k
  match e.checked with
  | [] => ok s
  | (_, entry) :: rest =>
    let slot := ceSlot entry
    let need := if ceOp entry = 6 then 0 else 2
    let units := ceChunk entry / 65536
    let sameCounter := (List.range 4).any fun q => (s.engine q).open_.any fun c => ceCounter c.entry == ceCounter entry
    let cooled := match SMap.get? e.lastEnd slot with | some t => decide (t + 100000 ≤ s.nowNs) | none => true
    if e.open_.length < 16 && !sameCounter && cooled && (s.coll k slot).isNone && decide (need * units ≤ e.store) then
      let gen := SMap.get 0 e.gens slot + 1
      let span := ceSpan entry
      let c : CollState :=
        { slot := slot, entry := entry, gen := gen, epoch := BitVec.ofNat 16 s.epoch, rank := (s.packageRank span s.ownPackage).getD 0,
          size := s.groupSize span, started := s.cadNs, buffers := need }
      let mine := e.early.filter fun p => clSlot p == slot && clGen p == gen.toNat
      let e1 : EngineState :=
        { e with checked := rest, open_ := e.open_ ++ [c], started := e.started + 1, store := e.store - need * units,
                 gens := SMap.set 0 e.gens slot gen, early := e.early.filter fun p => !mine.contains p }
      let s1 : State := { s.setEngine k e1 with abort := setFld s.abort (ceCounter entry) (ceCounter entry) 0 }
      match mine.find? fun p => p.ty == 0x1F with
      | some p => let (cause, origin, t) := abortInfo p; ok (s1.abortColl k c cause origin t)
      | none =>
        ok ((s1.setEngine k { s1.engine k with applied := (s1.engine k).applied ++ mine }).barrier k slot)
    else ok s

/-! ### Gates (R379, R382) -/

/-- The target of a gate for chunk i is met (R41, R379). -/
def State.gateMet (s : State) (e : BitVec 512) (o i : Nat) : Bool :=
  let target : Word32 := BitVec.ofNat 32 (slotN e (o + 4) 4 + slotN e (o + 8) 4 * i)
  match slotN e o 1 with
  | 0 => true
  | 1 => atOrAbove (s.counterValue (slotN e (o + 1) 1) (slotN e (o + 2) 2)) target
  | _ => s.prog.running && atOrAbove (BitVec.ofNat 32 s.pbeat) target

/-- The source gate of chunk i opens: the read of its chunk begins, as the own contribution or as the data to send (R375, R379). -/
def State.openSource (s : State) (k : Nat) (c : CollState) (i : Nat) : State :=
  if c.isA2A then
    let key := c.size * ceChunks c.entry + i
    (s.setColl k (c.setChunk key { c.chunk key with full := true })).sendBlock k c.slot i
  else
    let x := c.chunk (c.chunkOfSource i)
    if x.acc.isSome || x.full || !x.sentTo.isEmpty || s.accessing k c.slot .source i then s
    else
      match takeBuffer (s.engine k) c with
      | none => s
      | some (e, c1) => (s.putBoth k (e, c1)).beginChunk k c1 .source i []

/-- The destination gate of chunk i opens: its result is written, or a credit goes to the sender (R379, R382). The member's own block of
an all-to-all is read once its source gate is open. -/
def State.openDest (s : State) (k : Nat) (c : CollState) (i : Nat) : State :=
  let j := c.chunkOfDest i
  let x := c.chunk j
  let sender := if c.isA2A then (if c.blockOf i = c.rank then none else some (c.blockOf i)) else if c.up && !c.down then none else s.parentOf c j
  if x.gateDst then s
  else if c.isA2A && sender.isNone then
    if (c.chunk (c.size * ceChunks c.entry + c.ofBlock c.rank (c.inBlock i))).full then
      (s.setColl k (c.setChunk j { x with gateDst := true })).beginChunk k c .own i []
    else s
  else
    match sender with
    | none => (s.setColl k (c.setChunk j { x with gateDst := true })).progress k c.slot j
    | some y =>
      match takeBuffer (s.engine k) c with
      | none => s
      | some (e, c1) => (s.putBoth k (e, c1.setChunk j { x with gateDst := true })).grant k c.slot j y

/-- A chunk access has been answered (R375, R384): the source is the own contribution, or what is sent on; the destination is written. -/
def State.landChunk (s : State) (k : Nat) (c : CollState) (a : ChunkAccess) : State :=
  let d := a.job.data
  match a.use with
  | .source =>
    if c.isA2A then
      let key := c.size * ceChunks c.entry + a.index
      let s1 := s.sendChunk k c (c.ofBlock c.rank (c.inBlock a.index)) (c.blockOf a.index) d
      s1.setColl k (c.setChunk key { c.chunk key with sentTo := [c.blockOf a.index] })
    else
      let j := c.chunkOfSource a.index
      let s1 := s.setColl k (c.setChunk j { c.chunk j with acc := some d, holds := true, full := !c.up })
      let s2 := if c.up then (if (s1.childrenOf c j).isEmpty then s1 else s1.countPoison k d).creditChildren k c.slot j else s1
      (s2.combineReady 64 k c.slot j).progress k c.slot j
  | .own => s.beginChunk k c .dest a.index d
  | .dest =>
    let j := c.chunkOfDest a.index
    let s1 := s.setColl k (c.setChunk j { c.chunk j with written := true })
    if c.isA2A then (if c.blockOf a.index = c.rank then s1 else s1.release k c.slot) else s1.progress k c.slot j

/-- The accesses of an engine that have been answered, oldest first: `landChunk` of each. One that was answered with an error leaves its
chunk as it is, so that the collective ends by its deadline (DESIGN CHOICE, log entry 99: the spec names no cause for it). -/
def State.landAccesses (s : State) (k : Nat) : State :=
  let done := (s.engine k).accesses.filter fun a => a.job.done
  let s1 := s.setEngine k { s.engine k with accesses := (s.engine k).accesses.filter fun a => !a.job.done }
  done.foldl (fun s a =>
    match s.coll k a.slot with
    | some c => if a.job.status = 0 then s.landChunk k c a else s
    | none => s) s1

/-- `GATE_OPEN`: a gate whose target is met lets the chunk's read proceed (source) or its credit or write (destination); one
that names an aborted chunk counter aborts the collective with `GATE` (R379, R392). -/
def execGateOpen (k : LpId) (slot : SlotId) (dst : Bool) (chunk : Nat) (s : State) : Out :=
  if s.inDomainReset (.fab k) then ok s else
  let s := s.landAccesses k
  match s.coll k slot with
  | none => ok s
  | some c =>
    let o := if dst then 52 else 40
    let ctr := slotN c.entry (o + 2) 2
    if slotN c.entry o 1 = 1 ∧ 0x120 ≤ ctr ∧ ctr < 0x160 ∧ s.abortCopyBit (slotN c.entry (o + 1) 1) (ctr - 0x120) then ok (s.abortOwn k c 9)
    else if chunk < chunkCount c.entry c.size c.rank dst ∧ s.gateMet c.entry o chunk then
      ok (if dst then s.openDest k c chunk else s.openSource k c chunk)
    else ok s

/-! ### Arriving packets (R387, Table 13.5) -/

/-- Age of a packet in us: a negative age is 0 (R333). -/
def State.ageOf (s : State) (p : Packet) : Nat :=
  let a := (BitVec.ofNat 32 s.cadUs - p.injectUs).toInt
  if a < 0 then 0 else min 65535 a.toNat

/-- What Table 13.5 decides. -/
inductive ClVerdict where
  | drop (s : State)
  | accept (c : CollState) (sender : Nat)

/-- The tests that every collective packet meets before its type's own: a packet that does not pass is discarded, held, or
aborts the collective. A packet that was held for the slot's start is not tested for its age again, and a member, all four engines
together, holds 256 (R390). -/
def State.clTest (s : State) (k : Nat) (held : Bool) (p : Packet) : ClVerdict :=
  let e := s.engine k
  if fld p.peloton 11 0 ≠ s.peloton then .drop (s.setEngine k { e with dropPel := e.dropPel + 1 })
  else if !held && decide (1000 < s.ageOf p) then .drop (s.setEngine k { e with dropAge := e.dropAge + 1 })
  else
    let slot := clSlot p
    let c? := s.coll k slot
    let epochHere := match c? with | some c => c.epoch.toNat | none => s.epoch
    if clEpoch p ≠ epochHere then .drop (s.setEngine k { e with dropEpoch := e.dropEpoch + 1 })
    else
      match c? with
      | none =>
        let next := (SMap.get 0 e.gens slot + 1).toNat
        if clGen p = next ∧ (p.ty = 0x90 ∨ p.ty = 0x11 ∨ p.ty = 0x1F) ∧ ((List.range 4).map fun q => (s.engine q).early.length).sum < 256 then .drop (s.setEngine k { e with early := e.early ++ [p] })
        else .drop (s.setEngine k { e with dropGen := e.dropGen + 1 })
      | some c =>
        if clGen p ≠ c.gen.toNat then .drop (s.setEngine k { e with dropGen := e.dropGen + 1 })
        else if p.ty = 0x1F then let (cause, origin, t) := abortInfo p; .drop (s.abortColl k c cause origin t)
        else if bitOf p.flags 5 ≠ s.ordered then .drop (s.abortOwn k c 5)
        else
          match s.packageRank (ceSpan c.entry) p.srcPkg with
          | none => .drop (s.abortOwn k c 7)
          | some y =>
            if p.code.toNat ≠ ceOp c.entry ∨ fld p.space 3 0 ≠ slotN c.entry 2 1 - 16 ∨ treeChunks c.entry c.size ≤ clChunk p ∨ ceChunk c.entry / 256 ≤ clIndex p then
              .drop (s.abortOwn k c 7)
            else .accept c y

/-- Take the oldest packet of a type on a die: one that was held for its slot's start before those that have arrived since; with whether it
was held (R390). -/
def State.takeLocal (s : State) (k : Nat) (f : Packet → Bool) : Option ((Bool × Packet) × State) :=
  match (s.engine k).applied.find? f with
  | some p => some ((true, p), s.setEngine k { s.engine k with applied := (s.engine k).applied.erase p })
  | none =>
    match (s.fab k).local_.find? fun x => f x.2 with
    | some x => some ((false, x.2), s.setFab k { s.fab k with local_ := (s.fab k).local_.erase x })
    | none => none

/-- The senders from which chunk data may come: children going up, the parent going down, the block's member. -/
def State.dataFrom (s : State) (c : CollState) (j y : Nat) : Bool :=
  (if c.isA2A then c.blockOf j == y && y != c.rank
   else (c.up && (s.childrenOf c j).contains y) || (c.down && s.parentOf c j == some y)) && (c.chunk j).granted.contains y

/-- A chunk has arrived whole from a member: it is acknowledged, and combined, or written and passed on. -/
def State.wholeChunk (s : State) (k slot j y : Nat) (d : List (Byte × Bool)) : State :=
  match s.coll k slot with
  | none => s
  | some c =>
    let s1 := s.sendCl k (s.clPacket c 0x91 j 0 (s.memberOf c y) [])
    let x := c.chunk j
    let x0 := { x with rx := SMap.erase x.rx y }
    if c.isA2A then
      (s1.setColl k (c.setChunk j { x0 with writing := true })).beginChunk k c .dest j d
    else if c.up && (s.childrenOf c j).contains y then
      let s2 := s1.setColl k (c.setChunk j (if s.ordered then { x0 with ready := SMap.insert x0.ready y d } else { x0 with combined := x0.combined ++ [y] }))
      ((s2.combineReady 64 k slot j).creditChildren k slot j).progress k slot j
    else (s1.setColl k (c.setChunk j { x0 with acc := some d, full := true, holds := true })).progress k slot j

/-- `CL_DATA`: a chunk packet arrives and is tested; packets out of order mean a loss; a whole chunk is combined or written
(R374-R376, R387, R392). -/
def execClData (k : LpId) (s : State) : Out :=
  if s.inDomainReset (.fab k) then ok s else
  let s := s.landAccesses k
  match s.takeLocal k fun p => p.ty == 0x10 with
  | none => ok s
  | some ((held, p), s0) =>
    match s0.clTest k held p with
    | .drop s1 => ok s1
    | .accept c y =>
      let j := clChunk p
      let x := c.chunk j
      let got := SMap.get [] x.rx y
      if !s0.dataFrom c j y || p.payload.length ≠ 256 then ok (s0.abortOwn k c 7)
      else if got.length ≠ 256 * clIndex p then ok (s0.abortOwn k c 2)
      else
        let piece := p.payload.zipIdx.map fun (b, i) => (b, bitOf p.poison (i / 8))
        let data := got ++ piece
        let now := !s0.ordered && c.up && (s0.childrenOf c j).contains y
        let acc := if now then x.acc.map fun a => combinePacket c a (clIndex p) piece else x.acc
        let s1 := s0.setColl k (c.setChunk j { x with acc := acc, rx := SMap.insert x.rx y data, lastPkt := some s.nowNs })
        let s2 := if now then s1.countPoison k piece else s1
        if data.length < ceChunk c.entry then ok s2 else ok (s2.wholeChunk k c.slot j y data)

/-- `CL_ARRIVE`: a child of the barrier tree has arrived (R386). -/
def execClArrive (k : LpId) (s : State) : Out :=
  if s.inDomainReset (.fab k) then ok s else
  let s := s.landAccesses k
  match s.takeLocal k fun p => p.ty == 0x11 with
  | none => ok s
  | some ((held, p), s0) =>
    match s0.clTest k held p with
    | .drop s1 => ok s1
    | .accept c y =>
      if ceOp c.entry = 6 ∧ (s0.childrenOf c 0).contains y then
        ok ((s0.setColl k { c with arrived := if c.arrived.contains y then c.arrived else c.arrived ++ [y] }).barrier k c.slot)
      else ok (s0.abortOwn k c 7)

/-- `CL_RELEASE`: the barrier is released; in torus mode the release goes on down the tree (R386). -/
def execClRelease (k : LpId) (s : State) : Out :=
  if s.inDomainReset (.fab k) then ok s else
  let s := s.landAccesses k
  match s.takeLocal k fun p => p.ty == 0x12 with
  | none => ok s
  | some ((held, p), s0) =>
    match s0.clTest k held p with
    | .drop s1 => ok s1
    | .accept c y =>
      let from_ := if s0.torus then s0.parentOf c 0 else some 0
      if ceOp c.entry = 6 ∧ from_ = some y ∧ y ≠ c.rank then
        let s1 := s0.setColl k { c with released := true }
        if s0.torus && !c.released then
          ok ((s0.childrenOf c 0).foldl (fun s y => s.sendCl k (s.clPacket c 0x12 0 0 (s.memberOf c y) [])) s1)
        else ok s1
      else ok (s0.abortOwn k c 7)

/-- `CL_ABORT`: the member aborts its open collective and sends its own `CL_ABORT` (R393). -/
def execClAbort (k : LpId) (s : State) : Out :=
  if s.inDomainReset (.fab k) then ok s else
  let s := s.landAccesses k
  match s.takeLocal k fun p => p.ty == 0x1F with
  | none => ok s
  | some ((held, p), s0) =>
    match s0.clTest k held p with
    | .drop s1 => ok s1
    | .accept _ _ => ok s0

/-- `CL_CREDIT`: a receiver lets this member send a chunk (R382). -/
def execClCredit (k : LpId) (s : State) : Out :=
  if s.inDomainReset (.fab k) then ok s else
  let s := s.landAccesses k
  match s.takeLocal k fun p => p.ty == 0x90 with
  | none => ok s
  | some ((held, p), s0) =>
    match s0.clTest k held p with
    | .drop s1 => ok s1
    | .accept c y =>
      let j := clChunk p
      if c.isA2A then
        let src := c.ofBlock y (c.inBlock j)
        let key := c.size * ceChunks c.entry + src
        if y ≠ c.rank ∧ c.blockOf j = c.rank then
          ok ((s0.setColl k (c.setChunk key { c.chunk key with credits := [y] })).sendBlock k c.slot src)
        else ok (s0.abortOwn k c 7)
      else if (c.up && s0.parentOf c j == some y) || (c.down && (s0.childrenOf c j).contains y) then
        let x := c.chunk j
        ok ((s0.setColl k (c.setChunk j { x with credits := if x.credits.contains y then x.credits else x.credits ++ [y] })).progress k c.slot j)
      else ok (s0.abortOwn k c 7)

/-- `CL_ACK`: every packet of a chunk that this member sent has arrived (R385). -/
def execClAck (k : LpId) (s : State) : Out :=
  if s.inDomainReset (.fab k) then ok s else
  let s := s.landAccesses k
  match s.takeLocal k fun p => p.ty == 0x91 with
  | none => ok s
  | some ((held, p), s0) =>
    match s0.clTest k held p with
    | .drop s1 => ok s1
    | .accept c y =>
      let j := if c.isA2A then c.size * ceChunks c.entry + c.ofBlock y (c.inBlock (clChunk p)) else clChunk p
      let x := c.chunk j
      if x.sentTo.contains y then ok (s0.setColl k (c.setChunk j { x with acked := if x.acked.contains y then x.acked else x.acked ++ [y] }))
      else ok (s0.abortOwn k c 7)

/-! ### Steps and closing (R384, R385) -/

/-- `CHUNK_RESULT_STEP`: the next result chunk has been written, and its counter steps on every die (R384). -/
def execChunkResultStep (k : LpId) (slot : SlotId) (s : State) : Out :=
  if s.inDomainReset (.fab k) then ok s else
  let s := s.landAccesses k
  match s.coll k slot with
  | none => ok s
  | some c =>
    if c.stepsMade < resultChunks c.entry c.size ∧ (c.chunk (c.chunkOfDest c.stepsMade)).written then
      ok ((s.setColl k { c with stepsMade := c.stepsMade + 1 }).stepChunk (ceCounter c.entry))
    else ok s

/-- The members to which chunk j (or all-to-all source chunk j) must be sent. -/
def State.mustSend (s : State) (c : CollState) (j : Nat) : List Nat :=
  (if c.up then (s.parentOf c j).toList else []) ++ (if c.down then s.childrenOf c j else [])

/-- Everything this member sends has been sent and acknowledged. -/
def State.allAcked (s : State) (c : CollState) : Bool :=
  if c.isA2A then
    (List.range (c.size * ceChunks c.entry)).all fun i =>
      c.blockOf i == c.rank || (c.chunk (c.size * ceChunks c.entry + i)).acked.contains (c.blockOf i)
  else if ceOp c.entry = 6 then c.released
  else (List.range (treeChunks c.entry c.size)).all fun j => (s.mustSend c j).all fun y => (c.chunk j).acked.contains y

/-- `COLLECTIVE_CLOSE`: all result steps are made and every chunk sent is acknowledged; the counter steps a last time (R385). -/
def execCollectiveClose (k : LpId) (slot : SlotId) (s : State) : Out :=
  if s.inDomainReset (.fab k) then ok s else
  let s := s.landAccesses k
  match s.coll k slot with
  | none => ok s
  | some c =>
    if c.stepsMade = resultChunks c.entry c.size ∧ s.allAcked c then
      let e := s.engine k
      ok ((s.setEngine k { e with open_ := e.open_.filter fun x => x.slot != c.slot, closed := e.closed + 1,
                                  store := e.store + c.buffers * c.units, lastEnd := SMap.insert e.lastEnd c.slot s.nowNs }).stepChunk (ceCounter c.entry))
    else ok s

/-! ### Detected causes (R392, R393) -/

/-- A packet of chunk data has been sent: its chunk is in progress until its last one (R392). -/
def State.noteSending (s : State) (k : Nat) (p : Packet) : State :=
  match s.coll k (clSlot p) with
  | some c =>
    let rest := c.sending.filter fun x => !(x.1 == clChunk p && x.2.1 == p.dstPkg)
    s.setColl k { c with sending := if (clIndex p + 1) * 256 < ceChunk c.entry then rest ++ [(clChunk p, p.dstPkg, s.nowNs)] else rest }
  | none => s

/-- `COLLECTIVE_STALL`: a chunk that has begun to arrive, or to be sent, sees no packet for stall_us (R392). -/
def execCollectiveStall (k : LpId) (slot : SlotId) (s : State) : Out :=
  if s.inDomainReset (.fab k) then ok s else
  let s := s.landAccesses k
  match s.coll k slot with
  | none => ok s
  | some c =>
    let stalled := c.chunks.any fun e => !e.2.rx.isEmpty && (match e.2.lastPkt with | some t => decide (t + 1000 * ceStallUs c.entry ≤ s.nowNs) | none => false)
    if stalled || (c.sending.any fun x => decide (x.2.2 + 1000 * ceStallUs c.entry ≤ s.nowNs)) then ok (s.abortOwn k c 3) else ok s

/-- `COLLECTIVE_DEADLINE`: the deadline has passed before the close (R392). -/
def execCollectiveDeadline (k : LpId) (slot : SlotId) (s : State) : Out :=
  if s.inDomainReset (.fab k) then ok s else
  let s := s.landAccesses k
  match s.coll k slot with
  | none => ok s
  | some c =>
    if ceDeadline c.entry ≠ 0 ∧ c.started + ceDeadline c.entry ≤ s.cadNs then ok (s.abortOwn k c 4) else ok s

/-- `COLLECTIVE_ABORT`: a member with a cause of its own aborts: a machine-check fault hold, or a gate on an aborted counter
(R392, R395). The cause `LINK` comes with `PORT_DOWN`. -/
def execCollectiveAbort (k : LpId) (slot : SlotId) (s : State) : Out :=
  if s.inDomainReset (.fab k) then ok s else
  let s := s.landAccesses k
  match s.coll k slot with
  | none => ok s
  | some c =>
    let gate (o : Nat) : Bool :=
      let ctr := slotN c.entry (o + 2) 2
      slotN c.entry o 1 == 1 && decide (0x120 ≤ ctr) && decide (ctr < 0x160) && s.abortCopyBit (slotN c.entry (o + 1) 1) (ctr - 0x120)
    if s.beat.faultHold && s.beat.machineCheck then ok (s.abortOwn k c 2)
    else if gate 40 || gate 52 then ok (s.abortOwn k c 9)
    else ok s

/-- `ABORT_RESEND`: 250 us after its abort a member sends `CL_ABORT` again (R393). -/
def execAbortResend (k : LpId) (s : State) : Out :=
  if s.inDomainReset (.fab k) then ok s else
  let e := s.engine k
  match e.resend.find? fun x => decide (x.2.1 ≤ s.nowNs) with
  | some x => ok ((s.setEngine k { e with resend := e.resend.erase x }).sendCl k x.2.2)
  | none => ok s

end Sys2Proof.Machine
end

