-- ==== Sys2Proof/Machine/Lightplane.lean ====
section
/-! DEFINITION. Frames, codewords, steering, bursts, truing loops, lasers and the bring-up of fibre ports (chapter 10). -/

namespace Sys2Proof.Machine

open Sys2Proof

/-! ### Scrambling and alignment (R282-R287) -/

/-- A receiver leaves lock (R286). -/
def WaveState.hunt (x : WaveState) (now : Nat) : WaveState :=
  { x with align := 1, candidates := 0, badRun := 0, synced := false, rxBits := 0, payloadBits := 0, goodSince := none,
           badSince := some (x.badSince.getD now) }

/-- A receiver of a port whose light has gone. -/
def WaveState.darken (x : WaveState) : WaveState :=
  { x with align := 0, rxPower := 0x8000, candidates := 0, badRun := 0, synced := false, rxBits := 0, payloadBits := 0,
           badSince := none, goodSince := none }

/-- The payload of a frame with sequence `seq` reaches the codewords (R284, R285). -/
def WaveState.takePayload (x : WaveState) (seq : Nat) (payload : BitVec 1000) : WaveState :=
  let reg := if seq = 0 then 2 ^ 31 - 1 else x.scramble.toNat
  if seq ≠ 0 ∧ !x.synced then x
  else
    let (bits, reg1) := descramble 1000 payload.toNat reg 0
    { x with synced := true, scramble := BitVec.ofNat 31 reg1, rxBits := x.rxBits * 2 ^ 1000 + bits, payloadBits := x.payloadBits + 1000 }

/-- Start the acquisition of a ring about its bias (Table 10.10). -/
def State.acquire (s : State) (k r : Nat) : State :=
  let x := s.ring k r
  if x.state = 2 then s
  else s.setRing k r { x with state := 1, windows := 0, swept := 0, good := 0, far := 0, acqStart := s.nowNs, coast := false }

/-- A frame at a receive ring that is to lock in step 5 of bring-up: four identification frames of its own wavelength in a row are needed,
and on those of a neighbouring wavelength the ring moves one channel, to a heater code that is free (log entry 3), and locks again
(R283, R307). -/
def State.identReceive (s : State) (f w : Nat) (marker : BitVec 16) (q : Nat) : State :=
  let x := s.wave f w
  let k := f / 8
  let r := 32 * (f % 8) + w
  if marker = 0xE8B3 ∧ q = 240 + w then s.setWave f w { x with ident := min 4 (x.ident + 1) }
  else
    let s1 := s.setWave f w { x with ident := 0 }
    if marker = 0xE8B3 ∧ (q = 241 + w ∨ q + 1 = 240 + w) ∧ 240 ≤ q then
      let (free, s2) := s1.draw
      (s2.setRing k r { s2.ring k r with state := 0, bias := free.setWidth 12, heater := free.setWidth 12 }).acquire k r
    else s1

/-- No light arrives at a terminated continuous input: the receiver is dark, and out of lock from now on (R309, R311). -/
def State.lightGone (s : State) (f w : Nat) : State :=
  let since := (s.wave f w).badSince.getD s.nowNs
  let s1 := if (s.wave f w).align = 2 then s.dataLost f w else s
  s1.setWave f w { (s1.wave f w).darken with badSince := some since }

/-- `FRAME_RECEIVE`: hunt counts candidates whose sequences follow; in lock a wrong marker or sequence counts, and four in a row
return to hunt (R286). In step 5 of bring-up a receiver looks for identification frames (R307). A frame of zeros, which no transmitter
sends, is how an input without light reads (DEDUCED, log entry 116). -/
def execFrameReceive (f : FibreId) (w : WaveId) (marker : BitVec 16) (sequence : Byte) (payload : BitVec 1000) (s : State) : Out :=
  let x := s.wave f w
  let q := sequence.toNat
  if (s.port f).state = 1 ∧ (s.port f).step = 5 then ok (s.identReceive f w marker q)
  else if (s.port f).state = 0 ∨ !s.terminated f w ∨ s.steered f w then ok s
  else if marker = 0 ∧ q = 0 ∧ payload = 0 then ok (s.lightGone f w)
  else if x.align ≠ 2 then
    let cand := marker == 0xE8B3 && decide (q ≤ 135)
    let n := if !cand then 0 else if x.candidates ≠ 0 ∧ q = (x.lastSeq + 1) % 136 then x.candidates + 1 else 1
    if n < 4 then ok (s.setWave f w { x with align := 1, candidates := n, lastSeq := q, badSince := some (x.badSince.getD s.nowNs) })
    else
      let (power, s1) := s.draw
      ok (s1.setWave f w ({ x with align := 2, candidates := 0, lastSeq := q, badRun := 0, badSince := none, goodSince := some s.nowNs,
                                   rxPower := power.setWidth 16 }.takePayload q payload))
  else
    let expect := (x.lastSeq + 1) % 136
    if marker = 0xE8B3 ∧ q = expect then ok (s.setWave f w ({ x with lastSeq := expect, badRun := 0 }.takePayload expect payload))
    else
      let y := { x with lastSeq := expect, badRun := x.badRun + 1, frameErr := x.frameErr + 1 }.takePayload expect payload
      if y.badRun < 4 then ok (s.setWave f w y) else ok ((s.setWave f w (y.hunt s.nowNs)).dataLost f w)

/-- Deliver blocks to the fabric unit. -/
def State.receiveBlocks (s : State) (f w : Nat) (bs : List (BitVec 257)) : State := bs.foldl (fun s b => s.receiveBlock f w b) s

/-- Count what a decoder found in a codeword: the symbols that it corrected, or that it could not (R287). -/
def WaveState.countCodeword (x : WaveState) (r : Option (Nat × List Nat)) : WaveState :=
  match r with
  | none => { x with cwUncorr := x.cwUncorr + 1 }
  | some (0, _) => x
  | some (n, _) => { x with cwCorr := x.cwCorr + 1, symCorr := x.symCorr + BitVec.ofNat 32 n }

/-- `CODEWORD_DECODE`: the next codeword of a locked receiver is corrected and its 20 blocks delivered, or it is discarded (R285,
R287). -/
def execCodewordDecode (f : FibreId) (w : WaveId) (s : State) : Out :=
  let x := s.wave f w
  if x.align ≠ 2 ∨ !x.synced ∨ x.payloadBits < 5440 then ok s
  else
    let left := x.payloadBits - 5440
    let r := rsDecode (symbolsOf 544 (x.rxBits >>> left % 2 ^ 5440))
    let y := { x with rxBits := x.rxBits % 2 ^ left, payloadBits := left }.countCodeword r
    match r with
    | none => ok ((s.setWave f w { y with goodSince := some s.nowNs, badSince := some (y.badSince.getD s.nowNs) }).dataLost f w)
    | some (_, ds) =>
      ok ((s.setWave f w { y with badSince := none }).receiveBlocks f w ((List.range 20).map (dataBlock (ofSymbols ds) 5140)))

/-! ### Steering (R288, R292-R294, R303, R308) -/

/-- A ring makes the wavelengths that use it faulty (R303). -/
def State.ringBad (s : State) (k r : Nat) : Bool := (s.ring k r).bad

/-- Steering ring e of circuit wavelength w (R298), and the pass ring from input i to output j. -/
def steerRing (w e : Nat) : Nat := 256 + 42 * (w - 2) + e
def passRing (w i j : Nat) : Nat := steerRing w (5 * i + (if j < i then j else j - 1))

/-- A ring that output j uses in state `o` is bad: its mux ring, and the add ring, or the demux ring of the input and the pass ring
(R289, R303). -/
def State.outputBad (s : State) (k w j o : Nat) : Bool :=
  s.ringBad k (32 * j + 16 + w) ||
    (if o = 6 then s.ringBad k (steerRing w (36 + j)) else if o < 6 then s.ringBad k (32 * o + w) || s.ringBad k (passRing w o j) else false)

/-- Outputs and terminated inputs as they may be: those of ports that are not up, and outputs that use a bad ring, stay dark and
unterminated (R303, R308). -/
def State.lightAllowed (s : State) (k w : Nat) (out term : Nat) : BitVec 18 × BitVec 6 :=
  let up (j : Nat) : Bool := (s.port (8 * k + j)).state == 2
  let o (j : Nat) : Nat := if up j && !s.outputBad k w j (slotOut out j) then slotOut out j else 7
  (BitVec.ofNat 18 ((List.range 6).foldl (fun n j => n + o j * 2 ^ (3 * j)) 0),
   BitVec.ofNat 6 ((List.range 6).foldl (fun n j => n + (if up j && nbit term j then 2 ^ j else 0)) 0))

/-- The state of a ring group in a slot. -/
def State.slotState (s : State) (k w slot : Nat) : BitVec 18 × BitVec 6 :=
  s.lightAllowed k w (s.slotWord k w slot) (nfld (s.slotWord k w slot) 29 24)

/-- Length in ns of a slot, and of all before it (Table 10.7). -/
def State.slotLen (s : State) (k w i : Nat) : Nat := 8 * nfld (s.slotWord k w i) 39 32
def State.slotsBefore (s : State) (k w i : Nat) : Nat := (List.range i).foldl (fun n j => n + s.slotLen k w j) 0

/-- The slot in progress at the present cadence time, and the time at which it began (R292). -/
def State.slotNow (s : State) (k w : Nat) : Option (Nat × Int) :=
  let n := s.slotCount k w
  let period := s.slotsBefore k w n
  if n = 0 ∨ period = 0 then none
  else
    let at_ := ((Int.ofNat s.cadNs - Int.ofNat (s.keyN (0x0400 + 16 * k + w) 4 4)) % Int.ofNat period).toNat
    ((List.range n).find? fun i => decide (at_ < s.slotsBefore k w (i + 1))).map fun i =>
      (i, Int.ofNat s.cadNs - Int.ofNat (at_ - s.slotsBefore k w i))

/-- Slot `i` begins: the present cadence time is its start, or the count has just passed it (R292, R367). A slot begins once, and after a
shift only when the old slot has ended (R294). -/
def State.slotBegins (s : State) (k w i : Nat) : Bool :=
  let g := s.steerG k w
  match s.slotNow k w with
  | some (j, t) => j == i && decide (Int.ofNat s.cadNs ≤ t + 1) && g.startAt != some t && (!g.dark || decide (Int.ofNat g.endAt ≤ t))
  | none => false

/-- The burst of an output that ends with its slot: the blocks handed to the transmitter, as many as it holds, and `IDLE` where they end
(R295, R296, R318). Its guard, preamble and frames fill the slot; the instants within a slot are not modelled (log entry 96). -/
def State.endBurst (s : State) (f w ns : Nat) : State :=
  let n := burstBlocks ns
  let s1 := if (s.wave f w).txBlocks.length < n then s.sendControl f w 0xF0 0 else s
  let x := s1.wave f w
  let bs := (x.txBlocks.take n) ++ List.replicate (n - x.txBlocks.length) (controlBlockOf 0xF0 0 0 0)
  s1.setWave f w { x with txBlocks := x.txBlocks.drop n, burst := burstOf ns bs }

/-- The slot in progress of a ring group ends, with its bursts. -/
def State.endSlot (s : State) (k w : Nat) : State :=
  let g := s.steerG k w
  if g.lenNs = 0 then s
  else (List.range 6).foldl (fun s j => if bitOf g.launched j then s.endBurst (8 * k + j) w g.lenNs else s) s

/-- Put a slot's state in force; every output in `ADD` launches at most one burst in it (R292). -/
def State.applySlot (s0 : State) (k w slot : Nat) (t : Option Int) : State :=
  let s := s0.endSlot k w
  let (out, term) := s.slotState k w slot
  let adds := (List.range 6).foldl (fun n j => n + (if slotOut out.toNat j = 6 then 2 ^ j else 0)) 0
  s.setSteerG k w { slot := slot, startAt := t, lenNs := if t.isSome then s.slotLen k w slot else 0, dark := false, endAt := 0, out := out
                    term := term, launched := BitVec.ofNat 8 (if t.isSome then adds else 0) }

/-- The ports or faults of a die have changed: its static groups follow, and what a steered slot in progress has lit or
terminated goes dark where it must. -/
def State.refreshSteering (s : State) (k : Nat) : State :=
  forAll 14 s fun s i =>
    let w := i + 2
    let g := s.steerG k w
    if !g.dark ∧ s.slotCount k w < 2 then s.applySlot k w g.slot none
    else
      let (out, term) := s.lightAllowed k w g.out.toNat g.term.toNat
      s.setSteerG k w { g with out := out, term := term }

/-- `STEERING_SLOT_START`: a slot begins; a static schedule has one state that holds (R292). Without cadence lock a steered group
stays dark (R293). -/
def execSteeringSlotStart (k : LpId) (w : CircuitWave) (slot : Nat) (s : State) : Out :=
  let wl := w.val + 2
  if (s.steerG k wl).dark ∧ s.cadNs < (s.steerG k wl).endAt then ok s
  else if s.slotCount k wl < 2 then (if slot = 0 then ok (s.applySlot k wl 0 none) else ok s)
  else if !s.mach.locked then
    ok (s.setSteerG k wl { s.steerG k wl with dark := true, endAt := 0, lenNs := 0, out := 0x3FFFF, term := 0, launched := 0 })
  else if s.slotBegins k wl slot then ok (s.applySlot k wl slot ((s.slotNow k wl).map (·.2)))
  else ok s

/-! ### Bursts (R295-R297) -/

/-- `BURST_RECEIVE`: what arrived in a slot of a steered, terminated input: the receiver finds the delimiter and decodes the frames of the
slot's length after it, or has lost the burst; one that a change of schedule has cut is lost too (R294, R297). -/
def execBurstReceive (f : FibreId) (w : WaveId) (rep : BurstReport) (s : State) : Out :=
  let g := s.steerG (f / 8) w
  if !circuitWave f w ∨ g.lenNs = 0 ∨ !bitOf g.term (f % 8) then ok s
  else
    let x := { s.wave f w with align := if s.steered f w then 3 else (s.wave f w).align }
    match delimiterEnd rep.count rep.bits with
    | none =>
      let power : BitVec 16 := if rep.count = 0 then 0x8000 else x.rxPower
      ok ((s.setWave f w { x with burstLost := x.burstLost + 1, rxPower := power }).dataLost f w)
    | some p =>
      let (power, s1) := s.draw
      let field := frameField g.lenNs rep.count rep.bits p
      let offset : BitVec 16 := BitVec.ofInt 16 (rep.start + Int.ofNat p - 2048)
      let words := burstDecode g.lenNs (burstPayloadOf g.lenNs field)
      let y : WaveState :=
        { x with bursts := x.bursts + 1, frameErr := x.frameErr + BitVec.ofNat 32 (badFrames g.lenNs field), rxPower := power.setWidth 16
                 arrMax := if x.arrMax.toInt < offset.toInt then offset else x.arrMax
                 arrMin := if offset.toInt < x.arrMin.toInt then offset else x.arrMin }
      let z := words.foldl WaveState.countCodeword y
      if words.any (·.isNone) then ok ((s1.setWave f w { z with burstLost := z.burstLost + 1 }).dataLost f w)
      else ok ((s1.setWave f w z).receiveBlocks f w (burstBlocksOf g.lenNs words))

/-! ### Ports going down (R308, R309) -/

/-- A port is enabled (R290). -/
def State.portEnabled (s : State) (f : Nat) : Bool := nbit (s.setting (0x0440 + f / 8)) (f % 8)

/-- The chunk FIFOs of a port are flushed: the packets that wait there for the collective engine are discarded (R336, R383). -/
def State.flushChunks (s : State) (f : Nat) : State :=
  let fb := s.fab (f / 8)
  let mine (x : Option (FibreId × WaveId) × Packet) : Bool := x.2.svcClass == 2 && (match x.1 with | some (g, _) => g.val == f | none => false)
  s.setFab (f / 8) { fb with local_ := fb.local_.filter fun x => !mine x, flushed := fb.flushed + BitVec.ofNat 32 (fb.local_.filter mine).length }

/-- A cube port's fibre has stopped carrying packets: its neighbour is gone, its FIFOs are flushed, and every open collective whose
packets it carries aborts as `LINK` (R309, R336, R357, R392). -/
def State.linkLost (s : State) (f : Nat) : State :=
  let s0 := forAll 16 s fun s w => s.setWave f w { s.wave f w with txBlocks := [] }
  let s1 := (s0.flushPort f).flushChunks f
  match fibreCube f with
  | none => s1
  | some q =>
    let s2 := s1.setNbr q (s1.nbr q).portDown
    let spans (c : CollState) : Bool :=
      (spanElems (ceSpan c.entry)).any fun d => if s.torus then q % 6 / 2 == d else q / 2 == d
    forAll 4 s2 fun s k => ((s.engine k).open_.filter spans).foldl (fun s c => s.abortOwn k c 1) s

/-- A port carries no light and is down without having been up. -/
def State.holdDown (s : State) (f : Nat) : State :=
  if (s.port f).state = 1 then s.setPort f { s.port f with state := 3, retryAt := 0, retrying := false } else s

/-- A port goes down (R309). -/
def State.goDown (s : State) (f : Nat) : State :=
  if (s.port f).state ≠ 2 then s
  else
    let s0 := s.logPort 0x84 f 0
    let s1 := s0.setPort f { s0.port f with state := 3, downs := (s0.port f).downs + 1 }
    (s1.linkLost f).refreshSteering (f / 8)

/-- A port is disabled: it carries no light (R308). -/
def State.disablePort (s : State) (f : Nat) : State :=
  let p := s.port f
  if p.state = 0 then s
  else
    let s1 := s.setPort f { p with state := 0, step := 0, retryAt := 0, waves := SMap.update {} p.waves fun _ x => x.darken }
    (s1.linkLost f).refreshSteering (f / 8)

/-- `PORT_DOWN`: wavelength 0 or 1 of an up cube port has been out of lock, or only uncorrectable, for 100 us (R309). -/
def execPortDown (f : FibreId) (s : State) : Out :=
  let bad (w : Nat) : Bool :=
    match (s.wave f w).badSince with
    | some t => decide (t + 100000 ≤ s.nowNs)
    | none => false
  if (s.port f).state == 2 && (fibreCube f.val).isSome && (bad 0 || bad 1) then ok (s.goDown f) else ok s

/-! ### Truing loops (R298-R303) -/

/-- The port and wavelength that a ring serves: its port ring, or the output or input of a circuit wavelength (R298, R303). -/
def ringServes (k r : Nat) : Nat × Nat :=
  if r < 256 then (8 * k + r / 32, r % 16)
  else
    let w := (r - 256) / 42 + 2
    let e := (r - 256) % 42
    let j := if e < 30 then (if e % 5 < e / 5 then e % 5 else e % 5 + 1) else if e < 36 then e - 30 else e - 36
    (8 * k + j, w)

/-- A ring of a faulty wavelength: on wavelengths 0 and 1 of a cube port the port goes down (R303). -/
def State.ringFaulty (s : State) (k r : Nat) : State :=
  let (f, w) := ringServes k r
  let s0 := s.setRing k r { s.ring k r with bad := true }
  let s1 := s0.setWave f w { s0.wave f w with faulty := true }
  if circuitWave f w then s1.refreshSteering k
  else if (fibreCube f).isSome then s1.goDown f
  else s1

/-- The state of a slot turns a pass ring or an add ring on (R300). -/
def ringOn (out : BitVec 18) (e : Nat) : Bool :=
  if e < 30 then slotOut out.toNat (if e % 5 < e / 5 then e % 5 else e % 5 + 1) == e / 5
  else decide (36 ≤ e) && slotOut out.toNat (e - 36) == 6

/-- Nanoseconds of the last 1 ms in which a condition held: its changes, newest first, each with a delay before it counts, `first` being what
held before them all. -/
def litNs (now : Nat) (first : Bool) : List (Nat × Bool × Nat) → Nat
  | [] => if first then min now 1000000 else 0
  | l =>
    let from_ := now - 1000000
    let ends := now :: l.map (·.1)
    let held := (l.zip ends).map fun x => if x.1.2.1 then x.2 - max from_ (x.1.1 + x.1.2.2) else 0
    let start := (l.getLast?.map (·.1)).getD now
    held.sum + (if first then start - from_ else 0)

/-- Samples, one in 8 ns, of a window that ends now in which a ring is lit: while its port is enabled for a port or term ring; while its
slot states turn it on, but for the first 8 ns of each slot, for a pass or add ring (R300). How the samples lie against the slots is not
given: `n`, what the loop has counted, decides by one at either end of the window (DESIGN CHOICE, log entry 115). -/
def State.litSamples (s : State) (k r n : Nat) : Nat :=
  let (f, w) := ringServes k r
  let e := (r - 256) % 42
  let ns : Nat :=
    if r < 256 ∨ (30 ≤ e ∧ e < 36) then
      let l := (s.port f).lit
      litNs s.nowNs (match l.getLast? with | some x => !x.2 | none => s.portEnabled f) (l.map fun x => (x.1, x.2, 0))
    else
      let g := s.steerG k w
      litNs s.nowNs (g.past.isEmpty && ringOn g.out e) (g.past.map fun x => (x.1, ringOn x.2.1 e, if x.2.2 then 8 else 0))
  min (max n (ns / 8 - 1)) (if ns = 0 then 0 else ns / 8 + 1)

/-- Saturate a lock error in GHz to the ten bits of `ERROR`, in 0.1 GHz (Table 10.14). Which of two neighbours a value between them takes is
free (log entry 3). -/
def errorField (e : Rat) : BitVec 10 :=
  let v := (10 * e).floor
  let up : Int := if 10 * e ≠ v ∧ Config.errorUp e then 1 else 0
  BitVec.ofInt 10 (max (-512) (min 511 (v + up)))

/-- The lock error of a valid window in GHz: gain times sum over count (R300). What comes of a count of 0 is free (log entry 3). -/
def lockError (n : Nat) (sum cnt : Int) : Rat := if cnt = 0 then Config.lockNoLight n sum else Config.ringGain n * sum / cnt

/-- The heater code of step `n` of the sweep of ±80 GHz about a bias in 0.5 GHz steps, within its range (Table 10.10; from below, log
entry 91). -/
def sweepCode (bias n : Nat) : BitVec 12 := BitVec.ofNat 12 (min 4095 (bias + 5 * n - 800))

/-- `TRUING_WINDOW`: the output of one 1 ms window (R300-R303), of which `lit` samples were lit as the loop counts them. An
acquiring ring sweeps about its bias; then the controller, whose law and gains are open, takes a free heater code (log entry 3). -/
def execTruingWindow (k : LpId) (ring : RingId) (lit : Nat) (sum cnt : Int) (s : State) : Out :=
  if s.inDomainReset (.fab k) then ok s else
  let x := s.ring k ring
  if x.state = 0 ∨ x.state = 3 then ok s
  else
    let n := s.litSamples k ring lit
    let valid := decide (1024 ≤ n) && decide (2 ≤ x.windows)
    let coast := decide (n < 1024)
    -- the 500 ms of an acquisition do not run while the ring coasts (R301)
    let x1 := { x with windows := x.windows + 1, invalid := !valid, coast := coast, acqStart := if coast then x.acqStart + 1000000 else x.acqStart }
    if !valid then ok (s.setRing k ring x1)
    else
      let e := lockError (844 * k.val + ring.val) sum cnt
      let (free, s1) := s.draw
      let sweeping := x.state == 1 && decide (x.swept ≤ 320)
      let heater : BitVec 12 := if sweeping then sweepCode x.bias.toNat x.swept else free.setWidth 12
      let good := if decide (-3 ≤ e) && decide (e ≤ 3) then min 10 (x.good + 1) else 0
      let far := if decide (e < -12) || decide (12 < e) then x.far + 1 else 0
      let x2 := { x1 with error := errorField e, heater := heater, good := good, far := far, codes := heater.toNat :: x.codes.take 99
                          swept := if sweeping then x.swept + 1 else x.swept }
      if x.state = 1 then ok (s1.setRing k ring (if good = 10 then { x2 with state := 2, far := 0 } else x2))
      else if 3 ≤ far ∨ heater = 0 ∨ heater = 0xFFF then
        let times := s.nowNs :: x.relocks.filter fun t => decide (s.nowNs < t + 1000000000)
        let s2 := s1.setRing k ring { x2 with state := 1, swept := 0, good := 0, far := 0, acqStart := s.nowNs, relocks := times }
        ok (if 10 < times.length then s2.ringFaulty k ring else s2)
      else ok (s1.setRing k ring x2)

/-- `RING_FAULT`: no lock within 500 ms of starting acquisition; a coasting ring never faults (R298, R301, R303). -/
def execRingFault (k : LpId) (ring : RingId) (s : State) : Out :=
  if s.inDomainReset (.fab k) then ok s else
  let x := s.ring k ring
  if x.state = 1 ∧ !x.coast ∧ x.acqStart + 500000000 ≤ s.nowNs then
    ok ((s.setRing k ring { x with state := 3 }).ringFaulty k ring)
  else ok s

/-! ### Lasers and the interlock (R304-R306) -/

/-- The ports that laser input n feeds (R304). -/
def laserPorts (n : Nat) : List Nat := (List.range 4).map fun i => 8 * (n / 2) + 2 * i + n % 2

/-- The package is past kickstand, in truing or ready, with no truing fault and no power-down (R305, R425, R433). -/
def State.started (s : State) : Bool :=
  (s.power.stage == 2 || s.power.stage == 3) && !s.power.truingFault && s.power.downGroup.isNone

/-- `LASER_REQn` may be high (R305), VIO is on (R478, R480), and the die's ring region is not stopped (R459). -/
def State.laserMay (s : State) (n : Nat) : Bool :=
  s.started && s.vioOn && ((laserPorts n).any s.portEnabled) && !s.power.interlockLow && !(s.laser n).fault &&
    fld s.therm.ring (2 * (n / 2) + 1) (2 * (n / 2)) != 3

/-- `LASER_REQUEST`: the request rises when its conditions hold, and drops when they do not (R305). -/
def execLaserRequest (n : LaserId) (s : State) : Out :=
  let x := s.laser n
  if s.laserMay n then (if x.req then ok s else ok (s.setLaser n { x with req := true, reqAt := s.nowNs, fellAt := none }))
  else ok (s.setLaser n { x with req := false, fellAt := none })

/-- Ports repeat bring-up from a step: they have reached the step before it (R305, R306). -/
def State.repeatFrom (s : State) (fs : List Nat) (step : Nat) : State :=
  fs.foldl (fun s f =>
    let p := s.port f
    if p.state = 0 ∨ !s.portEnabled f then s
    else
      let s1 := if p.state = 2 then (s.setPort f { p with state := 1 }).linkLost f else s
      (s1.setPort f { s1.port f with state := 1, step := BitVec.ofNat 3 (min (step - 1) p.step.toNat), retryAt := 0 }).refreshSteering (f / 8)) s

/-- The light of a requested input is late: 2 s after the request, or 1 s after its fall (R305). -/
def State.laserLate (s : State) (n : Nat) : Bool :=
  match (s.laser n).fellAt with
  | some t => decide (t + 1000000000 ≤ s.nowNs)
  | none => decide ((s.laser n).reqAt + 2000000000 ≤ s.nowNs)

/-- An input enters laser fault: its request drops, and the AO log has it (R305). -/
def State.laserFaults (s : State) (n : Nat) : State :=
  (s.setLaser n { s.laser n with req := false, fault := true, fellAt := none }).logEvent 0x80 10 (n / 2) n n

/-- `LASER_OK_RISE`: the light is good; after a fall the ports repeat bring-up from step 3. Light that comes too late is a laser fault all
the same (R305). -/
def execLaserOkRise (n : LaserId) (s : State) : Out :=
  let x := s.laser n
  let s1 := s.setLaser n { x with ok := true, fellAt := none }
  if x.req ∧ !x.ok ∧ s.laserLate n then ok (s1.laserFaults n)
  else if x.req ∧ x.fellAt ≠ none then ok (s1.repeatFrom (laserPorts n) 3)
  else ok s1

/-- `LASER_OK_FALL`: the fed ports lose their light; the request stays for up to 1 s (R305). -/
def execLaserOkFall (n : LaserId) (s : State) : Out :=
  let x := s.laser n
  ok (s.setLaser n { x with ok := false, fellAt := if x.req ∧ x.ok then some s.nowNs else x.fellAt })

/-- `LASER_FAULT`: no light within 2 s of the request, or none again within 1 s of its fall (R305). -/
def execLaserFault (n : LaserId) (s : State) : Out :=
  if (s.laser n).req && !(s.laser n).ok && s.laserLate n then ok (s.laserFaults n) else ok s

/-- `INTERLOCK_LOW`: every request drops (R306). -/
def execInterlockLow (s : State) : Out :=
  let s1 : State := { s with lasers := SMap.update {} s.lasers fun _ x => { x with req := false, fellAt := none } }
  ok ({ s1 with power := { s1.power with interlockLow := true } }.logEvent 0x81 10 0xFF 0 0)

/-- `INTERLOCK_HIGH`: the pin has been high for 1 s; requests may rise, and every port repeats bring-up from step 2 (R305, R306). While VIO
is off the pin counts as low (R480). -/
def execInterlockHigh (s : State) : Out :=
  if !s.power.interlockLow ∨ !s.vioOn then ok s
  else ok ({ s with power := { s.power with interlockLow := false } }.repeatFrom (List.range 32) 2)

/-! ### Bringing a port up (R299, R307, R308) -/

/-- The calibration bank in use (R437). -/
def State.cal (s : State) : Option CalBank :=
  match s.power.loadedCal with
  | some false => s.power.calA
  | some true => s.power.calB
  | none => none

/-- Rings of a direction of a local port (R298). -/
def portRings (j d : Nat) : List Nat := (List.range 16).map fun w => 32 * j + 16 * d + w

/-- The tones of a die's rings, in order of their numbers: that of the stored plan, or, where it conflicts with the tone of a lower ring
within 250 um, the lowest that does not (R299; which tone a reassigned ring takes: DESIGN CHOICE, log entry 92). -/
def State.tonePlan (s : State) (k : Nat) : SMap (BitVec 6) :=
  let stored (r : Nat) : BitVec 6 := match s.cal with | some c => SMap.get 0 c.tones (844 * k + r) | none => 0
  (List.range 844).foldl (fun m r =>
    let near := (List.range r).filter fun o => Config.ringsNear o r
    let free (t : Nat) : Bool := near.all fun o => (SMap.get 0 m o).toNat != t
    let t := if free (stored r).toNat && decide ((stored r).toNat ≤ 50) then (stored r).toNat else ((List.range 51).find? free).getD (stored r).toNat
    SMap.set 0 m r (BitVec.ofNat 6 t)) []

/-- Load a ring's bias and tone (R299, R307 step 1); without a calibration bank, the middle of the heater range (R437). A locked ring keeps
its heater code. -/
def State.loadRing (s : State) (k r : Nat) (tones : SMap (BitVec 6)) : State :=
  let x := s.ring k r
  if x.state = 2 then s
  else
    let b : BitVec 12 := match s.cal with | some c => SMap.get 0 c.biases (844 * k + r) | none => 0x800
    s.setRing k r { x with heater := b, bias := b, tone := SMap.get 0 tones r }

/-- Steering rings that belong to the transmitters of a local port, its add rings and the pass rings to it, and to its receivers, its term
rings (R298; that they start with the port's own rings: DESIGN CHOICE, log entry 91). -/
def sendSteering (j : Nat) : List Nat :=
  if 6 ≤ j then [] else (List.range 14).flatMap fun i =>
    steerRing (i + 2) (36 + j) :: ((List.range 6).filter (· != j)).map fun x => passRing (i + 2) x j
def termSteering (j : Nat) : List Nat := if 6 ≤ j then [] else (List.range 14).map fun i => steerRing (i + 2) (30 + j)

/-- Every ring of a local port. -/
def portAll (j : Nat) : List Nat := (portRings j 0 ++ portRings j 1) ++ (sendSteering j ++ termSteering j)

/-- A bring-up of a port begins: what was faulty is tried again (R303). -/
def State.tryAgain (s : State) (f : Nat) : State :=
  let s1 := (portAll (f % 8)).foldl (fun s r =>
    let x := s.ring (f / 8) r
    s.setRing (f / 8) r { x with bad := false, state := if x.state = 3 then 0 else x.state }) s
  s1.setPort f { s1.port f with waves := SMap.update {} (s1.port f).waves fun _ x => { x with faulty := false } }

/-- Step 3: the transmit rings, and the steering rings that go with them, start to lock. -/
def State.acquireSend (s : State) (f : Nat) : State :=
  (portRings (f % 8) 1 ++ sendSteering (f % 8)).foldl (fun s r => s.acquire (f / 8) r) s

/-- A port takes a bring-up step. -/
def State.reach (s : State) (f step : Nat) : State :=
  s.setPort f { s.port f with state := 1, step := BitVec.ofNat 3 step, retryAt := 0, retrying := false }

/-- What the transmitters of a port send in bring-up: identification frames on all 16 wavelengths from step 4 until step 6 (R307). -/
def State.identSent (s : State) (f w : Nat) : Option (BitVec 1024) :=
  if (s.port f).state = 1 ∧ 4 ≤ (s.port f).step.toNat ∧ (s.port f).step.toNat < 6 then some (identFrame w) else none

/-- `PORT_BRING_UP`: hub firmware takes the next step of R307 for an enabled port, once the step reached has succeeded; `ok` is
false when it has failed, and the port repeats from step 4 after 1 s, whichever step it was: transmit rings that are not locked start
again with it. A port that is down begins at step 4 (R309). Bring-up begins only while the ring region is held, and none goes on while it
is stopped (R459). -/
def execPortBringUp (f : FibreId) (okay : Bool) (s : State) : Out :=
  let k := f.val / 8
  let j := f.val % 8
  let p := s.port f
  let n := f.val / 8 * 2 + f.val % 2
  let region := fld s.therm.ring (2 * k + 1) (2 * k)
  if !s.started ∨ region = 3 ∨ s.inDomainReset (.fab (Fin.ofNat 4 k)) ∨ s.inDomainReset (.ptx f) ∨ s.inDomainReset (.prx f) ∨ !s.portEnabled f ∨ p.state = 2 ∨ s.nowNs < p.retryAt then ok s
  else if p.state = 3 then (if region = 1 then ok ((s.tryAgain f).reach f 4) else ok s)
  else if !okay then
    ok (s.setPort f { p with state := 1, step := 3, retryAt := s.nowNs + 1000000000, retrying := true })
  else if p.retrying then ok (((s.tryAgain f).acquireSend f).reach f 4)
  else
    match p.step.toNat with
    | 0 => if region ≠ 1 then ok s else
      let plan := s.tonePlan k
      let s1 := (portAll j).foldl (fun s r => s.loadRing k r plan) (s.tryAgain f)
      let p1 := s1.port f
      ok ((s1.setPort f { p1 with trims := match s.cal with | some c => c.trims | none => p1.trims }).reach f 1)
    | 1 => ok (s.reach f 2)
    | 2 => if (s.laser n).ok then ok ((s.acquireSend f).reach f 3) else ok s
    | 3 => if (portRings j 1).all fun r => (s.ring k r).state == 2 then ok (s.reach f 4) else ok s
    | 4 =>
      let s1 := (portRings j 0 ++ termSteering j).foldl (fun s r => s.acquire k r) s
      ok ((forAll 16 s1 fun s w => s.setWave f w { s.wave f w with ident := 0 }).reach f 5)
    | 5 =>
      if ((portRings j 0).all fun r => (s.ring k r).state == 2) && (List.range 16).all fun w => (s.wave f w).ident == 4 then
        ok ((forAll 16 s fun s w => s.setWave f w { s.wave f w with align := if s.steered f w then 3 else 1, badSince := none, goodSince := none }).reach f 6)
      else ok s
    | _ => ok s

/-- A wavelength has been locked with no uncorrectable codeword for 10 ms. -/
def State.clean (s : State) (f w : Nat) : Bool :=
  (s.wave f w).align == 2 && (match (s.wave f w).goodSince with | some t => decide (t + 10000000 ≤ s.nowNs) | none => false)

/-- `PORT_UP`: wavelengths 0 and 1 of a cube port, or all 16 of a service port, have been clean for 10 ms (R307 step 7); none rises while
its ring region is stopped (R459). -/
def execPortUp (f : FibreId) (s : State) : Out :=
  let p := s.port f
  let need := if (fibreCube f.val).isSome then 2 else 16
  if fld s.therm.ring (2 * (f.val / 8) + 1) (2 * (f.val / 8)) ≠ 3 ∧ p.state = 1 ∧ p.step = 6 ∧ (List.range need).all (fun w => s.clean f w) then
    let s1 := s.setPort f { p with state := 2, step := 7 }
    let s2 := match fibreCube f.val with | some q => s1.portRecycled q | none => s1
    ok (s2.refreshSteering (f.val / 8))
  else ok s

end Sys2Proof.Machine
end

