-- ==== Sys2Proof/Machine/Cassette.lean ====
section
/-! DEFINITION. The cassette: its keys, the rules of `CHECK`, and what a shift does (R411-R416, Tables 14.8 and 14.12). -/

namespace Sys2Proof.Machine

open Sys2Proof

/-! ### Keys (R412, Table 14.12) -/

/-- The classes (0 host, 1 fabric, 3 sideband) that may stage a key, and its size; 0 for a steering schedule. No entry: no
chapter defines the key. -/
def keyInfo (key : Nat) : Option (List Nat × Nat) :=
  if key = 0x0100 then some ([0, 1], 4)
  else if key = 0x0101 then some ([1], 16)
  else if key = 0x0102 then some ([0, 3], 4)
  else if key = 0x0103 then some ([1, 3], 4)
  else if key = 0x0200 ∨ key = 0x0280 then some ([0, 1, 3], 4)
  else if key = 0x0300 then some ([1], 16)
  else if key = 0x0301 then some ([1], 64)
  else if key = 0x0302 then some ([1], 8)
  else if 0x0310 ≤ key ∧ key ≤ 0x031F then some ([1], 1024)
  else if 0x0320 ≤ key ∧ key ≤ 0x032F then some ([1], 512)
  else if 0x0330 ≤ key ∧ key ≤ 0x0333 then some ([1], 336)
  else if 0x0400 ≤ key ∧ key < 0x0440 ∧ 2 ≤ key % 16 then some ([1], 0)
  else if 0x0440 ≤ key ∧ key ≤ 0x0443 then some ([1], 4)
  else if key = 0x0500 then some ([0, 1, 3], 16)
  else if key = 0x0501 then some ([0, 1, 3], 32)
  else if key = 0x0502 then some ([0, 1, 3], 8)
  else if key = 0x0600 then some ([1], 16)
  else if key = 0x0601 ∨ key = 0x0602 then some ([1], 4)
  else none

/-- Bytes of an entry with its padding (Table 14.7). -/
def entryLen (size : Nat) : Nat := (4 + size + 7) / 8 * 8

/-- What a list of staged entries holds. -/
inductive Parsed where
  | entries (es : List CassEntry) (len : Nat)
  | refused (status off : Nat)
  deriving DecidableEq, Repr

/-- A size fits a key: a schedule has 8 + 8n bytes for its own n where that is in range (Tables 10.6, 14.7). -/
def sizeFits (want size slots : Nat) : Bool :=
  if want ≠ 0 then size == want
  else if 1 ≤ slots ∧ slots ≤ 64 then size == 8 + 8 * slots
  else size % 8 == 0 && decide (16 ≤ size) && decide (size ≤ 520)

/-- Read `n` entries from the byte at `pos` of a list of at most `lim` bytes; rejections name bytes of the list from `base`
(Table 14.7, R412). Class `none` tests no class. -/
def parseEntries (g : Nat → Byte) (cls : Option Nat) (lim base : Nat) : Nat → Nat → Parsed
  | 0, pos => .entries [] pos
  | n + 1, pos =>
    let num (o k : Nat) : Nat := leNat ((List.range k).map fun i => g (pos + o + i))
    if lim < pos + 4 then .refused 0x10 8
    else
      let key := num 0 2
      let size := num 2 2
      match keyInfo key with
      | none => .refused 0x10 (base + pos)
      | some (classes, want) =>
        if !(match cls with | some c => classes.contains c | none => true) then .refused 0x12 (base + pos)
        else if !sizeFits want size (num 4 1) then .refused 0x10 (base + pos + 2)
        else if lim < pos + entryLen size then .refused 0x10 8
        else
          match (List.range (entryLen size - 4 - size)).find? fun i => g (pos + 4 + size + i) != 0 with
          | some i => .refused 0x10 (base + pos + 4 + size + i)
          | none =>
            match parseEntries g cls lim base n (pos + entryLen size) with
            | .entries es len => .entries ({ key := key, value := num 4 size, size := size } :: es) len
            | .refused st off => .refused st off

/-- How many bytes of a list must have been read before its `n` entries from `pos` can be judged, where `have_` have been: none when they
are enough (Table 14.7). -/
def entriesNeed (g : Nat → Byte) (have_ lim : Nat) : Nat → Nat → Option Nat
  | 0, _ => none
  | n + 1, pos =>
    let len := entryLen (leNat ((List.range 2).map fun i => g (pos + 2 + i)))
    if lim < pos + 4 then none
    else if have_ < pos + 4 then some (pos + 4)
    else if lim < pos + len then none
    else if have_ < pos + len then some (pos + len)
    else entriesNeed g have_ lim n (pos + len)

/-- Put an entry into a list: a key already there takes the new value (R411). -/
def putEntry (l : List CassEntry) (e : CassEntry) : List CassEntry :=
  if l.any fun x => x.key == e.key then l.map fun x => if x.key = e.key then e else x else l ++ [e]

/-- Where an entry of the staged list begins (R413). -/
def entryPos (l : List CassEntry) (i : Nat) : Nat := ((l.take i).map fun e => entryLen e.size).sum

/-! ### Layouts and ranges: rule 0x01 (R55, R290, R291, R340, R347, R360, R361, R369, R391, R463, Tables 14.12, 16.4) -/

/-- Byte and number of a value. -/
def valByte (v i : Nat) : Nat := (v >>> (8 * i)) % 256
def valN (v off n : Nat) : Nat := (v >>> (8 * off)) % 2 ^ (8 * n)

/-- The bits of `mask` in the `n` bytes from `off` are zero, byte by byte. -/
def reserved (v off n : Nat) (mask : Nat := 2 ^ (8 * n) - 1) : List (Nat × Bool) :=
  (List.range n).map fun i => (off + i, decide (valByte v (off + i) &&& valByte mask i = 0))

/-- A field in a range. -/
def ranged (v off n lo hi : Nat) : Nat × Bool := (off, decide (lo ≤ valN v off n) && decide (valN v off n ≤ hi))

/-- Route table entries (Table 11.4). -/
def routeFields (torus : Bool) (v : Nat) : List (Nat × Bool) :=
  (List.range 256).flatMap fun i =>
    let e := valN v (4 * i) 4
    reserved v (4 * i) 2 ++ [(4 * i + 2, decide (e / 2 ^ 16 % 16 = 0) && (routeOut e == 0x1F || decide (routeOut e < if torus then 6 else 12)))] ++
      [(4 * i + 3, decide (nfld e 29 25 = 0))]

/-- Send windows: ranges of a valid one, reserved fields of every one (Table 11.8). -/
def windowFields (v : Nat) : List (Nat × Bool) :=
  (List.range 16).flatMap fun i =>
    let b := 32 * i
    let on := nbit (valByte v b) 0
    let svc := nbit (valByte v b) 5
    reserved v b 1 0xC0 ++
    [(b + 1, !(on && svc) || decide (valByte v (b + 1) ≤ 7)),
     (b + 2, !on || decide (valN v (b + 2) 2 ≤ 4095)),
     (b + 4, !on || decide (1 ≤ valN v (b + 4) 2) && decide (valN v (b + 2) 2 + valN v (b + 4) 2 ≤ 4096))] ++
    reserved v (b + 6) 2 ++ reserved v (b + 14) 2 ++
    [(b + 16, !on || decide (valN v (b + 8) 8 ≤ valN v (b + 16) 8))] ++ reserved v (b + 24) 8

/-- Steering schedules (Tables 10.6, 10.7, R291). -/
def scheduleFields (key size v : Nat) : List (Nat × Bool) :=
  let n := (size - 8) / 8
  let word (i : Nat) : Nat := valN v (8 + 8 * i) 8
  let period := ((List.range n).map fun i => 8 * nfld (word i) 39 32).sum
  let phase := valN v 4 4
  [(0, decide (valByte v 0 = n) && decide (1 ≤ n) && decide (n ≤ 64)), (1, decide (valByte v 1 = key % 16))] ++ reserved v 2 2 ++
  [(4, if n = 1 then phase == 0 else phase % 8 == 0 && decide (phase < period))] ++
  (List.range n).flatMap fun i =>
    let b := 8 + 8 * i
    let w := word i
    let ins := ((List.range 6).map (slotOut w)).filter fun x => decide (x < 6)
    [(b, ((List.range 6).all fun j => slotOut w j != j) && decide ins.Nodup)] ++ reserved v (b + 2) 1 0xFC ++
    [(b + 3, (ins.all fun x => !nbit w (24 + x)) && decide (valByte v (b + 3) < 64)),
     (b + 4, decide (8 ≤ valByte v (b + 4)) && decide (valByte v (b + 4) ≤ 128))] ++ reserved v (b + 5) 3

/-- Peloton binding (Table 12.4). -/
def pelotonFields (v : Nat) : List (Nat × Bool) :=
  let cube := valByte v 2 == 0
  [(0, decide (valN v 0 2 % 4096 ≤ 4094) && decide (valN v 0 2 / 4096 % 8 = 0)), (2, decide (valByte v 2 ≤ 1))] ++ reserved v 3 1 ++
  [(4, decide (valN v 4 2 < 4096) && (cube || valN v 4 2 == 0)), (6, decide (valN v 6 2 < 4096) && (cube || valN v 6 2 == 0))] ++
  ((List.range 6).map fun i => (8 + i, if cube then valByte v (8 + i) == 0 else decide (valByte v (8 + i) ≤ 15))) ++ reserved v 14 2

/-- The fields of a value with whether each is right, in ascending byte order; `s` as it stands, `t` after the shift. -/
def keyFields (s t : State) (e : CassEntry) : List (Nat × Bool) :=
  let v := e.value
  let key := e.key
  if key = 0x0100 ∨ key = 0x0102 then reserved v 0 4 0xFFFFFFFE
  else if key = 0x0101 then [(0, decide (valByte v 0 ≤ 1))] ++ reserved v 1 7
  else if key = 0x0103 then
    [(0, ([0, 1, 3] : List Nat).all fun c => (List.range 3).any fun i => valByte v i == c)] ++ reserved v 3 1
  else if key = 0x0200 then [ranged v 0 2 1000 3600] ++ reserved v 2 2
  else if key = 0x0280 then reserved v 0 4 0xFFFFFFFC
  else if key = 0x0300 then [ranged v 0 1 0 1] ++ reserved v 1 1 ++ reserved v 7 9
  else if key = 0x0301 then (List.range 4).flatMap fun c => [ranged v (16 * c + 4) 4 288 16777216] ++ reserved v (16 * c + 8) 8
  else if key = 0x0302 then [ranged v 0 2 1 256, ranged v 2 2 1 256, ranged v 4 2 1 256] ++ reserved v 6 2
  else if 0x0310 ≤ key ∧ key ≤ 0x031F then routeFields t.torus v
  else if 0x0320 ≤ key ∧ key ≤ 0x032F then windowFields v
  else if 0x0330 ≤ key ∧ key ≤ 0x0333 then (List.range 84).flatMap fun i => reserved v (4 * i) 4 0x3FFFF000
  else if 0x0400 ≤ key ∧ key < 0x0440 then scheduleFields key e.size v
  else if 0x0440 ≤ key ∧ key ≤ 0x0443 then reserved v 1 3
  else if key = 0x0500 then [ranged v 0 2 1280 1680, ranged v 2 2 1200 1520] ++ reserved v 4 12
  else if key = 0x0501 then
    (List.range 8).flatMap fun n =>
      let entry := valN v (4 * n) 2
      let stop := valN v (4 * n + 2) 2
      [(4 * n, decide (entry ≤ 2400)), (4 * n + 2, decide (stop ≤ 2400) && ((entry == 0 && stop == 0) || decide (entry < stop)))]
  else if key = 0x0502 then
    (List.range 4).map fun k =>
      let x := valN v (2 * k) 2
      (2 * k, decide (720 ≤ x) && decide (x ≤ 1360) && (x == s.keyN 0x0502 (2 * k) 2 || t.setting (0x0440 + k) == 0))
  else if key = 0x0600 then pelotonFields v
  else if key = 0x0601 then reserved v 0 4 0x7FFFF000
  else if key = 0x0602 then reserved v 0 4 0xFFFE0000
  else []

/-- The first byte of a value that breaks its layout or range. -/
def keyBad (s t : State) (e : CassEntry) : Option Nat := ((keyFields s t e).find? fun f => !f.2).map (·.1)

/-! ### The rules of CHECK (R413, Table 14.8) -/

/-- A rule that fails: its number, the entry's index, its key, the byte within the value. -/
structure RuleFail where
  rule : Nat
  idx  : Nat
  key  : Nat
  byte : Nat
  deriving DecidableEq, Repr

/-- The first staged entry for which `f` names a byte. -/
def firstEntry (rule : Nat) (es : List CassEntry) (f : CassEntry → Option Nat) : Option RuleFail :=
  es.zipIdx.findSome? fun x => (f x.1).map fun b => { rule := rule, idx := x.2, key := x.1.key, byte := b }

/-- The staged entry of a key. -/
def stagedAt (rule : Nat) (es : List CassEntry) (key byte : Nat) : Option RuleFail :=
  firstEntry rule es fun e => if e.key = key then some byte else none

def isRoute (key : Nat) : Bool := decide (0x0310 ≤ key) && decide (key ≤ 0x031F)
def isCircuit (key : Nat) : Bool := decide (0x0330 ≤ key) && decide (key ≤ 0x0333)
def isSchedule (key : Nat) : Bool := decide (0x0400 ≤ key) && decide (key < 0x0440)
def isWindow (key : Nat) : Bool := decide (0x0320 ≤ key) && decide (key ≤ 0x032F)
/-- Keys that need a drained fabric (R326). -/
def needsDrain (key : Nat) : Bool := key == 0x0300 || isRoute key || isCircuit key

/-- Rule 0x02: a mode change without all 16 route keys. -/
def ruleMode (s : State) (es : List CassEntry) : Option RuleFail :=
  firstEntry 0x02 es fun e =>
    if e.key = 0x0300 ∧ valByte e.value 0 ≠ s.keyN 0x0300 0 1 ∧
        !((List.range 16).all fun p => es.any fun x => x.key == 0x0310 + p) then some 0 else none

/-- An entry of the route table breaks R347 for a package number. -/
def routeSelfBad (t : State) (dst : Nat) : Bool :=
  let e := t.routeEntry dst
  match t.packageNo with
  | some n => if n = dst then !(routePresent e && routeOut e == 0x1F) else routePresent e && routeOut e == 0x1F
  | none => routePresent e && routeOut e == 0x1F

/-- Rule 0x03: the route table's self entry (R347): of a staged table, or of the table in force when the number is staged and some
entry is present. -/
def ruleSelf (t : State) (es : List CassEntry) : Option RuleFail :=
  let routes := es.any fun e => isRoute e.key
  let number := (es.any fun e => e.key == 0x0601) && (List.range 4096).any fun d => routePresent (t.routeEntry d)
  if !(routes || number) then none
  else
    match (List.range 4096).find? (routeSelfBad t) with
    | none => none
    | some d =>
      match stagedAt 0x03 es (0x0310 + d / 256) (4 * (d % 256)) with
      | some r => some r
      | none => firstEntry 0x03 es fun e => if isRoute e.key || e.key == 0x0601 then some 0 else none

/-- A valid circuit entry disagrees with its schedule, or names the package itself (R330). -/
def circuitBad (t : State) (k i : Nat) : Bool :=
  let j := i / 14
  let w := i % 14 + 2
  let e := t.circuit k j w
  nbit e 31 && (!(t.addsSomewhere k w j) ||
    !((List.range (t.slotCount k w)).any fun x => nbit (t.slotWord k w x) (24 + j)) || some (e % 4096) == t.packageNo)

/-- Rule 0x04. -/
def ruleCircuits (t : State) (es : List CassEntry) : Option RuleFail :=
  if !(es.any fun e => isCircuit e.key || isSchedule e.key || e.key == 0x0601) then none
  else
    match ((List.range 4).flatMap fun k => (List.range 84).map fun i => (k, i)).find? fun x => circuitBad t x.1 x.2 with
    | none => none
    | some (k, i) =>
      match stagedAt 0x04 es (0x0330 + k) (4 * i) with
      | some r => some r
      | none =>
        match stagedAt 0x04 es (0x0400 + 16 * k + i % 14 + 2) 0 with
        | some r => some r
        | none => firstEntry 0x04 es fun e => if isCircuit e.key || isSchedule e.key || e.key == 0x0601 then some 0 else none

/-- Rule 0x05: a control-space window outside MB16-MB23 (R340). -/
def ruleWindows (es : List CassEntry) : Option RuleFail :=
  firstEntry 0x05 es fun e =>
    if isWindow e.key then
      ((List.range 16).find? fun i =>
        let w := valN e.value (32 * i) 32
        nbit w 0 && nbit w 4 && !nbit w 5 &&
          !(decide (0x0F0000010000 ≤ nfld w 127 64) && decide (nfld w 191 128 < 0x0F0000018000))).map fun i => 32 * i + 8
    else none

/-- Rule 0x06: the first four cases of R363. -/
def rulePeloton (t : State) (es : List CassEntry) : Option RuleFail :=
  firstEntry 0x06 es fun e =>
    let v := e.value
    if e.key ≠ 0x0600 ∨ !pelBound v then none
    else if pelShape v = 0 ∧ !maskContiguous (pelMask v) then some 4
    else if pelMask v &&& pelBase v ≠ 0 then some 6
    else if pelShape v ≠ t.keyN 0x0300 0 1 then some 2
    else
      match t.packageNo with
      | none => some 0
      | some n => if pelMember v n then none else some 0

/-- Rule 0x07: the service state with bound = 1 (R408). -/
def ruleService (t : State) (es : List CassEntry) : Option RuleFail :=
  if t.service then firstEntry 0x07 es fun e => if e.key = 0x0600 ∧ pelBound e.value then some 0 else none else none

/-- A program runs on the package. -/
def State.running (s : State) : Bool := s.prog.running

/-- Rules 0x10 to 0x15, of kind State. -/
def stateRules (s : State) (es : List CassEntry) : Option RuleFail :=
  let at_ (rule key : Nat) (bad : Nat → Bool) : Option RuleFail :=
    firstEntry rule es fun e => if e.key = key ∧ bad e.value then some 0 else none
  (at_ 0x10 0x0100 fun v => v != s.setting 0x0100 && (s.running || s.collOpen)).or <|
  (firstEntry 0x11 es fun e => if needsDrain e.key ∧ e.value ≠ s.setting e.key ∧ !s.drained then some 0 else none).or <|
  (at_ 0x12 0x0601 fun v => s.packageNo.isSome && v != s.setting 0x0601 &&
      (s.bound || s.running || (List.range 256).any fun i => nbit (s.window i) 0)).or <|
  (at_ 0x13 0x0600 fun v =>
      let old := s.setting 0x0600
      -- the shape: mask and base, or origin and extent, with the byte that says which (R363)
      let moves := s.peloton != pelNumber v || (s.bound && old / 65536 != v / 65536)
      pelBound v && ((moves && (s.running || s.collOpen)) || (s.bound && pelNumber old != pelNumber v))).or <|
  (at_ 0x14 0x0602 fun v => v % 65536 != s.epoch && s.collOpen && !nbit v 16).or
  (at_ 0x15 0x0102 fun v => v % 2 == 1 && (s.running || s.bound))

/-- Settings with entries put over those in force. -/
def State.overlay (s : State) (es : List CassEntry) : State := es.foldl (fun s e => s.setSetting e.key e.value) s

/-- The first rule that fails, in rule order (R413). `base` are the settings in force, `s` the state. -/
def checkRules (s : State) (base : State) (es : List CassEntry) : Option RuleFail :=
  let t := base.overlay es
  (firstEntry 0x01 es fun e => keyBad base t e).or <| (ruleMode base es).or <| (ruleSelf t es).or <| (ruleCircuits t es).or <|
  (ruleWindows es).or <| (rulePeloton t es).or <| (ruleService t es).or (stateRules s es)

/-- Results of a failed rule (Table 14.6). -/
def RuleFail.res (r : RuleFail) : Nat := resAt 8 1 r.rule + resAt 10 2 r.idx + resAt 12 2 r.key + resAt 14 2 r.byte

/-- The status of a failed rule (R413). -/
def RuleFail.status (r : RuleFail) : Nat := if r.rule < 0x10 then stField else stState

/-! ### What a shift does (R415) -/

/-- Tokens that a class has now: they accrue at its rate up to its depth (R331, R332). Fractions are 1/1,000 B. -/
def State.accrued (s : State) (k c : Nat) : Int × Nat :=
  let fb := s.fab k
  let t := (fb.tokens[c]?).getD 0
  let f := (fb.tokenFrac[c]?).getD 0
  let rate := s.keyN 0x0301 (16 * c) 4
  let depth := Int.ofNat (s.keyN 0x0301 (16 * c + 4) 4)
  if rate = 0 ∨ rate = 0xFFFFFFFF then (t, f)
  else
    let total := f + (s.nowNs - fb.tokensAt) * rate
    let n := t + Int.ofNat (total / 1000)
    if depth ≤ n then (max t depth, 0) else (n, total % 1000)

/-- Bring the tokens of a fabric unit up to now. -/
def State.accrue (s : State) (k : Nat) : State :=
  let fs := (List.range 4).map (s.accrued k)
  s.setFab k { s.fab k with tokens := fs.map (·.1), tokenFrac := fs.map (·.2), tokensAt := s.nowNs }

/-- Clamp the tokens to the depths in force (R332). -/
def State.clampTokens (s : State) (k : Nat) : State :=
  s.setFab k { s.fab k with tokens := (s.fab k).tokens.zipIdx.map fun x => min x.1 (Int.ofNat (s.keyN 0x0301 (16 * x.2 + 4) 4)) }

/-- `BRAKE_N`: the larger of the two brake values (R462). -/
def ThermState.brake (t : ThermState) : Nat := max t.nPower.toNat t.nThermal.toNat

/-- Note since when `BRAKE_N` is 8 or more, or 0 (R463), and count a change from `old`. -/
def State.noteBrake (s : State) (old : Nat) : State :=
  let t := s.therm
  let n := t.brake
  s.setTherm { t with brakeChg := if n = old then t.brakeChg else t.brakeChg + 1
                      brakeHiSince := if 8 ≤ n then some (t.brakeHiSince.getD s.nowNs) else none
                      brakeZeroSince := if n = 0 then some (t.brakeZeroSince.getD s.nowNs) else none }

/-- n ← max(0, 2n − 16), once for each doubling of the divisor (R463). -/
def raiseMap : Nat → Nat → Nat
  | 0, n => n
  | k + 1, n => raiseMap k (2 * n - 16)

/-- Change the gear, with the brake values mapped and the new brake value in force at once (R51, R463). -/
def State.changeGear (s : State) (code cause : Nat) : State :=
  let old := s.beat.gear.toNat
  if code = old then s
  else
    let t := s.therm
    let up := code - old
    let t1 : ThermState :=
      if old < code then { t with nPower := BitVec.ofNat 4 (raiseMap up t.nPower.toNat), nThermal := BitVec.ofNat 4 (raiseMap up t.nThermal.toNat) }
      else { t with nPower := 8 }
    let s1 := (s.setTherm { t1 with gearChg := t.gearChg + 1 }).noteBrake t.brake
    let s2 := s1.setBeat { s1.beat with gear := BitVec.ofNat 2 code, brakeN := BitVec.ofNat 4 t1.brake, brakePending := [] }
    s2.logEvent 0x9F 10 0xFF 0 (old + 2 ^ 8 * code + 2 ^ 16 * cause)

/-- The vault, bank, row and word column of an offset in a vault's 12 MiB (R205, R235). -/
def vaultPlace (o : Nat) : Nat × Nat × Nat :=
  let n := o / 96
  (n % 64, n / 256, 12 * (n / 64 % 4) + o % 96 / 8)

/-- Byte offsets of the words of a repaired row or word column (R205, R235, Table 7.5). -/
def Repair.words (r : Repair) : List Nat :=
  if r.unit < 16384 then
    let word (row c : Nat) : Nat := vaultBase r.unit + 96 * (256 * row + 64 * (c / 12) + r.bank) + 8 * (c % 12)
    if r.column then (List.range 512).map fun row => word row r.index else (List.range 48).map (word r.index)
  else
    let pc := (r.bank / 16) ^^^ (r.index % 64)
    let bank := (r.bank % 16) ^^^ (r.index / 64 % 16)
    (List.range 128).map fun i => hbmBase (r.unit - 16384) + r.index * 2 ^ 20 + bank * 2 ^ 16 + i / 8 * 2 ^ 12 + pc * 64 + 8 * (i % 8)

/-- Leaving the service state clears the poison of every row and column repaired in it (R236). -/
def State.clearRepaired (s : State) : State :=
  let s1 := ((s.repairs.filter (·.fresh)).flatMap Repair.words).foldl (fun s a => if s.mark a = some .poison then s.setMark a none else s) s
  { s1 with repairs := s1.repairs.map fun r => { r with fresh := false } }

/-- The cadence role takes effect (R369). -/
def State.setRole (s : State) (root : Bool) (start : Nat) : State :=
  let m := s.mach
  if root then
    let n : MachState := { m with root := true, locked := true, stratum := 0, parent := 0x1F, holdover := false, ppm := 0,
                                  count := if m.locked then m.count else start * 128000000 }
    (s.setMach n).noteInstants
  else if m.root then s.setMach { m with root := false, holdover := true, holdSince := s.nowNs }
  else s

/-- A schedule is replaced (R294). `old` is the state before the shift. -/
def State.shiftSchedule (s old : State) (k w : Nat) : State :=
  let g := old.steerG k w
  let n := old.slotCount k w
  let slotEnd : Nat := match g.startAt with | some t => (t + Int.ofNat g.lenNs).toNat | none => old.cadNs
  let end_ := if n < 2 ∨ g.dark then old.cadNs else max old.cadNs slotEnd
  let s1 := s.setSteerG k w { g with dark := true, endAt := end_, out := if g.dark then 0x3FFFF else g.out, term := if g.dark then 0 else g.term }
  if decide (2 ≤ n) == decide (2 ≤ s.slotCount k w) then s1
  else forAll 6 s1 fun s j =>
    let x := s.wave (8 * k + j) w
    if x.align = 0 then s else s.setWave (8 * k + j) w (x.hunt s.nowNs)

/-- Requests drop for inputs that may no longer be lit (R305). -/
def State.dropLasers (s : State) : State :=
  forAll 8 s fun s n => if s.laserMay n then s else s.setLaser n { s.laser n with req := false, fellAt := none }

/-- What one entry does beside standing in the settings. `old` is the state before the shift. -/
def State.shiftEffect (s old : State) (e : CassEntry) : State :=
  let key := e.key
  if key = 0x0101 then s.setRole (valByte e.value 0 == 1) (valN e.value 8 8)
  else if key = 0x0102 then (if old.service ∧ !s.service then s.clearRepaired else s)
  else if key = 0x0280 then (if s.beat.gear.toNat < e.value % 4 then s.changeGear (e.value % 4) 2 else s)
  else if key = 0x0301 then forAll 4 s fun s k => s.clampTokens k
  else if isSchedule key then s.shiftSchedule old ((key - 0x0400) / 16) (key % 16)
  else if 0x0440 ≤ key ∧ key ≤ 0x0443 then
    ((List.range 8).foldl (fun s j =>
      let f := 8 * (key - 0x0440) + j
      let s1 := if old.portEnabled f = s.portEnabled f then s else s.setPort f { s.port f with lit := recentOf s.nowNs ((s.nowNs, s.portEnabled f) :: (s.port f).lit) }
      if s.portEnabled f then s1 else s1.disablePort f) s).dropLasers
  else if key = 0x0600 then
    (if pelBound e.value then { s with engines := SMap.update {} s.engines fun _ x => { x with gens := [] } } else s)
  else if key = 0x0602 then (if nbit e.value 16 then s.abortAll 6 else s)
  else s

/-- Every entry takes effect at one instant (R415). The force bit of the epoch reads back as 0 (R391). -/
def State.applyCassette (s : State) (es : List CassEntry) : State :=
  let s0 := if es.any fun e => e.key == 0x0301 then forAll 4 s fun s k => s.accrue k else s
  let clean (e : CassEntry) : CassEntry := if e.key = 0x0602 then { e with value := e.value % 65536 } else e
  es.foldl (fun t e => t.shiftEffect s0 e) (s0.overlay (es.map clean))

/-! ### Staging and shifting (R411-R416) -/

/-- The current command, if it has an opcode. -/
def State.cur (s : State) (op : Nat) : Option Accepted :=
  match s.hub.current with
  | some c => if slotOp c.slot = op then some c else none
  | none => none

/-- The cadence time of the `SHIFT` that arms the cassette, from its acceptance until it has been made: one that is taken, the current
command, or an accepted one. One at the next boundary arms nothing (R414). -/
def State.armedAt (s : State) : Option Nat :=
  let at_ (c : Accepted) : Bool := slotOp c.slot == 0x12 && slotN c.slot 8 8 != 0
  (((s.hub.shifts.find? fun j => j.package && j.at_ != 0).map fun j => j.at_.toNat).or
    ((s.hub.current.filter at_).map fun c => slotN c.slot 8 8)).or ((s.hub.accepted.find? at_).map fun c => slotN c.slot 8 8)

/-- The cassette is armed (R414). -/
def State.armed (s : State) : Bool := s.armedAt.isSome

/-- An armed shift is no more than 100 us ahead: `DISCARD` no longer cancels it (R414). -/
def State.shiftNear (s : State) : Bool := s.armedAt.any fun t => decide (t ≤ s.cadNs + 100000)

/-- Another mailbox owns a cassette that holds entries (R411). -/
def State.notOwner (s : State) (who : SenderId) : Bool := !s.hub.cassette.isEmpty && s.hub.owner != some who

/-- The cassette is empty again, and has no owner (R411). -/
def HubState.emptied (h : HubState) : HubState := { h with cassette := [], owner := none, checked := false }

/-- Bytes from an offset to the end of its region. -/
def regionRest (off : Nat) : Nat :=
  match regionOf off with
  | some (r, o) => r.size - o
  | none => 0

/-- Byte `i` of a list, 0 beyond its end. -/
def byteAt (bs : List Byte) (i : Nat) : Byte := (bs[i]?).getD 0

/-- The entries of a `STAGE` slot, with the bytes that have been read of its buffer (Tables 14.6, 14.7). -/
def stageEntries (who : SenderId) (slot : BitVec 512) (bs : List Byte) : Parsed :=
  let cls := if who.val < 16 then 0 else if who.val = 31 then 3 else 1
  let buf := slotN slot 8 8
  if buf = 0 then parseEntries (fun i => BitVec.ofNat 8 (slotN slot (24 + i) 1)) (some cls) 32 24 1 0
  else parseEntries (byteAt bs) (some cls) (regionRest buf) 0 (slotN slot 16 2) 0

/-- `STAGE` puts its entries into the cassette (R411, R413). Those of a buffer are the bytes that hub firmware read when it took the
command; a buffer that it could not read ends it `FAILED`. -/
def execStage (s : State) : Out :=
  match s.cur 0x10 with
  | none => ok s
  | some c =>
    let inline := slotN c.slot 8 8 == 0
    let fail (st off : Nat) : Out := ok (s.finish c (if inline then st else stFailed) (if inline then off else 0) 0)
    if s.armed || s.notOwner c.mb then fail stState 0
    else
      match c.data with
      | none => fail stFailed 0
      | some bs =>
        match stageEntries c.mb c.slot bs with
        | .refused st off => fail st off
        | .entries es _ =>
          let next := es.foldl putEntry s.hub.cassette
          if 1024 < next.length then fail stField 16
          else
            let s1 := s.setHub { s.hub with cassette := next, owner := if s.hub.cassette.isEmpty then some c.mb else s.hub.owner, checked := false }
            ok (s1.finish c stDone 0 (resAt 8 2 next.length))

/-- `CHECK` evaluates the whole cassette (R413). -/
def execCheck (s : State) : Out :=
  match s.cur 0x11 with
  | none => ok s
  | some c =>
    if s.armed || s.notOwner c.mb then ok (s.finish c stState 0 0)
    else
      match checkRules s s s.hub.cassette with
      | some r => ok (s.finish c r.status (entryPos s.hub.cassette r.idx) r.res)
      | none => ok ((s.setHub { s.hub with checked := true }).finish c stDone 0 0)

/-- Quiet keys apply inside a Shift hold while a program runs (R416). -/
def quiet (es : List CassEntry) : Bool := es.any fun e => decide (0x0280 ≤ e.key) && decide (e.key ≤ 0x02FF)

/-- Entries that raise the gear floor above the gear in force change the gear (R463). -/
def State.raisesGear (s : State) (es : List CassEntry) : Bool :=
  es.any fun e => e.key == 0x0280 && decide (s.beat.gear.toNat < e.value % 4)

/-- Entries that take effect in a Shift hold only: quiet keys while a program runs (R416), and a change of the gear while the beat
clocks run (R51). -/
def State.needsHold (s : State) (es : List CassEntry) : Bool := (quiet es && s.running) || (s.beat.aligned && s.raisesGear es)

/-- The shift demand stands while a job or a gear change needs it (Table 2.1). -/
def State.refreshShift (s : State) : State :=
  s.setBeat { s.beat with shiftDemand := s.therm.gearJob || s.hub.shifts.any fun j => j.demand }

/-- Take a shift into the hub: at 0 it stays the current command until its instant, at a cadence time it is armed (R414). -/
def State.takeShift (s : State) (c : Accepted) (es : List CassEntry) (at_ : Nat) (package : Bool) : State :=
  let job : ShiftJob :=
    { entries := es, at_ := BitVec.ofNat 64 at_, mb := c.mb, tag := BitVec.ofNat 16 (slotTag c.slot), opcode := BitVec.ofNat 8 (slotOp c.slot),
      package := package, demand := at_ == 0 && s.needsHold es }
  let s1 := s.setHub { s.hub with shifts := s.hub.shifts ++ [job] }
  let s2 := s1.refreshShift
  if at_ = 0 then s2 else s2.background

/-- The shift of a sender and tag is already taken. -/
def State.shiftTaken (s : State) (c : Accepted) : Bool :=
  s.hub.shifts.any fun j => j.mb == c.mb && j.tag.toNat == slotTag c.slot && j.opcode.toNat == slotOp c.slot

/-- `SHIFT` (R32, R414). -/
def execShift (s : State) : Out :=
  match s.cur 0x12 with
  | none => ok s
  | some c =>
    let at_ := slotN c.slot 8 8
    if s.shiftTaken c then ok s
    else if (s.hub.shifts.any fun j => j.package) || s.notOwner c.mb || !s.hub.checked then ok (s.finish c stFailed 0 0)
    else ok (s.takeShift c s.hub.cassette at_ true)

/-- `SHIFT_DEMAND`: 100 us before a cadence-time shift that needs a Shift hold the shift demand rises (R51, R416). -/
def execShiftDemand (s : State) : Out :=
  let due (j : ShiftJob) : Bool := s.needsHold j.entries && !j.demand && decide (j.at_.toNat ≤ s.cadNs + 100000)
  if s.hub.shifts.any due then
    ok (s.setHub { s.hub with shifts := s.hub.shifts.map fun j => if due j then { j with demand := true } else j }).refreshShift
  else ok s

/-- End a job: the current command if it is its own, else the long command that is open. -/
def State.endJob (s : State) (j : ShiftJob) (status foff res : Nat) : State :=
  let s1 := (s.setHub { s.hub with shifts := s.hub.shifts.erase j }).refreshShift
  match s1.hub.current with
  | some c =>
    if c.mb == j.mb && slotTag c.slot == j.tag.toNat && slotOp c.slot == j.opcode.toNat then s1.finish c status foff res
    else s1.completeCmd j.mb j.tag.toNat j.opcode.toNat status foff res
  | none => s1.completeCmd j.mb j.tag.toNat j.opcode.toNat status foff res

/-- The boundary of a job is here: what needs a Shift hold takes effect in a beat that the shift holds, at a frame boundary
(R51, R416). -/
def State.boundaryFor (s : State) (j : ShiftJob) : Bool :=
  !s.needsHold j.entries || (s.beat.held && s.beat.causeShift && decide (s.wall % 16 = 0))

/-- The job whose instant has come, if one has (R414). -/
def State.dueShift (s : State) : Option ShiftJob := s.hub.shifts.find? fun j => j.at_ = 0 ∨ j.at_.toNat ≤ s.cadNs

/-- A shift falls on the beat boundary at which the state stands (R30). -/
def State.shiftHere (s : State) : Bool :=
  match s.dueShift with
  | some j => s.boundaryFor j && (j.demand || !s.needsHold j.entries)
  | none => false

/-- `SHIFT_INSTANT`: the State rules are evaluated again; then every entry takes effect at once (R415). -/
def execShiftInstant (s : State) : Out :=
  match s.dueShift with
  | none => ok s
  | some j =>
    if j.at_ ≠ 0 ∧ !j.locked.getD s.mach.locked then ok (s.endJob j stFailed 0 0)
    else if s.needsHold j.entries && !j.demand then
      ok (s.setHub { s.hub with shifts := s.hub.shifts.map fun x => if x = j then { x with demand := true } else x }).refreshShift
    else if !s.boundaryFor j then ok s
    else
      match stateRules s j.entries with
      | some r => ok (s.endJob j stFailed 0 r.res)
      | none =>
        let s1 := s.applyCassette j.entries
        let s2 := if j.package then s1.setHub s1.hub.emptied else s1
        ok (s2.endJob j stDone 0 (resAt 8 8 s.wall + resAt 16 8 s2.cadStamp))

/-- An armed shift is cancelled: it completes `ABORTED` (R414). -/
def State.cancelShift (s : State) : State :=
  match s.hub.shifts.find? fun j => j.package && j.at_ != 0 with
  | some j => s.endJob j stAborted 0 0
  | none =>
    match s.hub.accepted.find? fun a => slotOp a.slot == 0x12 && slotN a.slot 8 8 != 0 with
    | some a => (s.setHub { s.hub with accepted := s.hub.accepted.erase a }).completeCmd a.mb (slotTag a.slot) 0x12 stAborted 0 0
    | none => s

/-- `DISCARD` from another mailbox than the owner, but for MB31, or too late to cancel an armed shift, is refused (R411, R414). -/
def State.discardRefused (s : State) (who : SenderId) : Bool := (s.notOwner who && who.val != 31) || s.shiftNear

/-- `DISCARD` empties the cassette; it cancels an armed shift more than 100 us ahead (R411, R414). What it is refused for is tested when it
is taken, and again when it acts. -/
def execDiscard (s : State) : Out :=
  match s.cur 0x13 with
  | none => ok s
  | some c =>
    if s.discardRefused c.mb then ok (s.finish c stState 0 0)
    else
      let s1 := s.cancelShift
      let n := s1.hub.cassette.length
      ok ((s1.setHub s1.hub.emptied).finish c stDone 0 (resAt 8 2 n))

/-! ### Private cassettes (R416) -/

/-- Window pages with `count` windows from `first` replaced by those in `data`. -/
def State.windowEntries (s : State) (first count : Nat) (data : List Byte) : List CassEntry :=
  (List.range 16).filterMap fun p =>
    if count = 0 ∨ first + count ≤ 16 * p ∨ 16 * p + 16 ≤ first then none
    else
      let v := (List.range 16).foldl (fun n i =>
        let x := 16 * p + i
        n + 2 ^ (256 * i) * (if first ≤ x ∧ x < first + count then leNat ((data.drop (32 * (x - first))).take 32) else s.window x)) 0
      some { key := 0x0320 + p, value := v, size := 512 }

/-- The keys that a command with a private cassette changes (R405). -/
def privateKeys (slot : BitVec 512) : List Nat :=
  let pages (first count : Nat) : List Nat :=
    (List.range 16).filterMap fun p => if count = 0 ∨ first + count ≤ 16 * p ∨ 16 * p + 16 ≤ first then none else some (0x0320 + p)
  match slotOp slot with
  | 0x30 => 0x0600 :: pages (slotN slot 40 2) (slotN slot 42 2)
  | 0x31 => 0x0600 :: pages 0 256
  | 0x32 => pages (slotN slot 24 2) (slotN slot 26 2)
  | 0x42 => [0x0200]
  | _ => []

/-- The package cassette holds a key that the command changes (R405). -/
def State.privateBlocked (s : State) (slot : BitVec 512) : Bool :=
  (privateKeys slot).any fun k => s.hub.cassette.any fun e => e.key == k

/-- Check a private cassette against the settings in force, the package cassette included, and shift it (R416). -/
def State.runPrivate (s : State) (c : Accepted) (es : List CassEntry) (at_ : Nat) : State :=
  if s.privateBlocked c.slot then s.finish c stFailed 0 0
  else
    match checkRules s (s.overlay s.hub.cassette) es with
    | some r => s.finish c stFailed 0 r.res
    | none => s.takeShift c es at_ false

/-- Run a private cassette whose windows come from a buffer, which is read first. -/
def State.runWindows (s : State) (c : Accepted) (before : List CassEntry) (buf first count at_ : Nat) : State :=
  match s.hub.job with
  | none => if count = 0 then s.runPrivate c before at_ else s.beginBuf (s.hubJob buf (32 * count)) false []
  | some w =>
    let data := w.job.data
    if !w.job.done then s
    else if w.job.status ≠ 0 ∨ data.any (·.2) then s.finish c stFailed 0 0
    else (s.setHub { s.hub with job := none }).runPrivate c (before ++ s.windowEntries first count (data.map (·.1))) at_

/-- `BIND_PELOTON` (R416). -/
def execBindPeloton (s : State) : Out :=
  match s.cur 0x30 with
  | none => ok s
  | some c =>
    if s.shiftTaken c then ok s
    else
      ok (s.runWindows c [{ key := 0x0600, value := slotN c.slot 8 16, size := 16 }] (slotN c.slot 32 8) (slotN c.slot 40 2) (slotN c.slot 42 2)
        (slotN c.slot 24 8))

/-- `RELEASE_PELOTON`: bound = 0, and valid clear in every window (R416). -/
def execReleasePeloton (s : State) : Out :=
  match s.cur 0x31 with
  | none => ok s
  | some c =>
    if s.shiftTaken c then ok s
    else if s.running then ok (s.finish c stFailed 0 0)
    else
      let v := s.setting 0x0600
      let bind : CassEntry := { key := 0x0600, value := v - (if pelBound v then 2 ^ 15 else 0), size := 16 }
      let off (w : Nat) : Nat := w - w % 2
      let page (p : Nat) : CassEntry :=
        { key := 0x0320 + p, size := 512, value := (List.range 16).foldl (fun n i => n + 2 ^ (256 * i) * off (s.window (16 * p + i))) 0 }
      ok (s.runPrivate c (bind :: (List.range 16).map page) (slotN c.slot 8 8))

/-- `SET_WINDOWS` (R416). -/
def execSetWindows (s : State) : Out :=
  match s.cur 0x32 with
  | none => ok s
  | some c =>
    if s.shiftTaken c then ok s
    else ok (s.runWindows c [] (slotN c.slot 16 8) (slotN c.slot 24 2) (slotN c.slot 26 2) (slotN c.slot 8 8))

/-- `SET_POWER_LIMIT` (R416). -/
def execSetPowerLimit (s : State) : Out :=
  match s.cur 0x42 with
  | none => ok s
  | some c =>
    if s.shiftTaken c then ok s
    else ok (s.runPrivate c [{ key := 0x0200, value := slotN c.slot 8 2, size := 4 }] (slotN c.slot 16 8))

end Sys2Proof.Machine
end

