-- ==== Sys2Proof/Machine/Transit.lean ====
section
/-! DEFINITION. The fabric transit lane across the compute dies (R14, R141-R144, R323). -/

namespace Sys2Proof.Machine

open Sys2Proof

/-! ### The transit lane (R141-R144) -/

/-- The link at the exit edge is live. -/
def State.exitLive (s : State) (c : Crossing) (dir : Bool) : Bool :=
  match edgeEnd c.site (c.exit dir) with
  | some e => (s.linkEnd e).state == 4
  | none => false

/-- The link at the entry edge of a crossing direction is live: flits come, and its buffer's credits go back, over it. -/
def State.entryLive (s : State) (c : Crossing) (dir : Bool) : Bool := s.exitLive c (!dir)

/-- A credit for the place that a flit leaves for is held: the 32-flit buffer of the next crossing is one for all that send into it
(R144, R274). -/
def State.holdsCredit (s : State) (me : Nat × Bool) (way : Nat) : Bool :=
  match nextWay me way with
  | some m => decide ((s.crossing m).used < 32)
  | none => decide ((s.crossing (wayNo me)).exitUsed < 64)

/-- Spend the credit of the place that a flit leaves for. -/
def State.spendCredit (s : State) (me : Nat × Bool) (way : Nat) : State :=
  match nextWay me way with
  | some m => s.setCrossing m { s.crossing m with used := (s.crossing m).used + 1 }
  | none => s.setCrossing (wayNo me) { s.crossing (wayNo me) with exitUsed := (s.crossing (wayNo me)).exitUsed + 1 }

/-- The flits that can still come into a crossing direction's buffer ahead of one: those on the tracks and the link before it. -/
def State.behind (s : State) (me : Nat × Bool) (way : Nat) : List TransitFlit :=
  match beforeIn me (transitPath (way / 4) (way % 4)) with
  | some b => (s.crossing (wayNo b)).onTrack ++ (s.crossing (wayNo b)).leaving
  | none => (s.crossing (wayNo me)).coming

/-- No flit of the same dies that its source sent before this one is in a list: tracks have unequal hops, and the flits of a packet keep
their order (R313, R323; log entry 78). -/
def firstOf (y : TransitFlit) (xs : List TransitFlit) : Bool := xs.all fun x => x.way != y.way || decide (y.no ≤ x.no)

/-- The flit that leaves a transit buffer next: the oldest that keeps the order of its dies. -/
def State.nextFlit (s : State) (me : Nat × Bool) : Option TransitFlit :=
  let b := (s.crossing (wayNo me)).buffer
  b.find? fun y => firstOf y b && firstOf y (s.behind me y.way)

/-- Waiting flits enter the tracks, the next on the lowest free track, while their credits are held (DESIGN CHOICE, log entry 78:
which track a waiting flit takes). The place of each in the buffer is free. On a track of one hop it leaves at once (R142). -/
def State.enterTracks : Nat → Nat → State → Nat × Bool → State
  | 0, _, s, _ => s
  | fuel + 1, k, s, me =>
    let t := s.crossing (wayNo me)
    match s.nextFlit me with
    | some y =>
      if s.holdsCredit me y.way then
        let t1 : CrossingState := { t with buffer := t.buffer.erase y, freed := t.freed + 1 }
        let t2 : CrossingState :=
          if (crossingOf me.1).hops k ≤ 1 then { t1 with leaving := t1.leaving ++ [{ y with track := k, at_ := s.wall + 14 }] }
          else { t1 with onTrack := t1.onTrack ++ [{ y with track := k, at_ := 1 }] }
        State.enterTracks fuel (k + 1) ((s.setCrossing (wayNo me) t2).spendCredit me y.way) me
      else s
    | none => s

/-- Lightplane dies that can send to die `t` through crossing `c` first. -/
def firstSenders (c : Nat × Bool) : List (Nat × Nat) :=
  (List.range 4).flatMap fun k => (List.range 4).filterMap fun t =>
    if k ≠ t ∧ (transitPath k t).head? = some c then some (k, t) else none

/-- The fabric units whose paths begin with a crossing send their oldest flits towards its buffer, one on each track of the link, while
they hold its credits and their own crossings are open (R144, R323, R445). -/
def State.sendComing : Nat → Nat → State → Nat × Bool → State
  | 0, _, s, _ => s
  | fuel + 1, k, s, me =>
    let t := s.crossing (wayNo me)
    match (firstSenders me).find? fun (d, dst) => !(SMap.get [] (s.fab d).transitOut dst).isEmpty && !s.crossingShut (.fab (Fin.ofNat 4 d)) with
    | some (d, dst) =>
      let q := SMap.get [] (s.fab d).transitOut dst
      match q with
      | f :: rest =>
        if 32 ≤ t.used then s
        else
          let fb := s.fab d
          let y : TransitFlit := { way := 4 * d + dst, no := fb.transitNo, track := k, at_ := s.wall + 14, flit := f }
          let s1 := s.setFab d { fb with transitOut := SMap.set [] fb.transitOut dst rest, transitNo := fb.transitNo + 1 }
          State.sendComing fuel (k + 1) (s1.setCrossing (wayNo me) { t with used := t.used + 1, coming := t.coming ++ [y] }) me
      | [] => s
    | none => s

/-- The flits of a crossing direction that leave it in its next move: those that make their last hop, and those that enter a track of one
hop. -/
def State.leavers (s : State) (me : Nat × Bool) : List TransitFlit :=
  let c := crossingOf me.1
  let t := s.crossing (wayNo me)
  (t.onTrack.filter fun y => decide (c.hops y.track ≤ y.at_ + 1)) ++
    (if (List.range 8).any fun k => c.hops k ≤ 1 then (s.nextFlit me).toList.map fun y => { y with track := 0 } else [])

/-- The exit of a crossing takes the flits that leave it in this beat: no other flit has entered their lanes, which two crossings of a die
may share (R142, R143; log entry 97), and the crossing of a lightplane die at the end of their paths is open (R445). -/
def State.exitFree (s : State) (me : Nat × Bool) : Bool :=
  let c := crossingOf me.1
  match edgeEnd c.site (c.exit me.2) with
  | some e => (s.leavers me).all fun y =>
      !s.laneUsed (e ^^^ 1) (4 * y.track) && !((nextWay me y.way).isNone && s.crossingShut (.fab (Fin.ofNat 4 (y.way % 4))))
  | none => true

/-- The lanes into the entry edge of a crossing carry no other flit in this beat. -/
def State.entryFree (s : State) (me : Nat × Bool) : Bool :=
  let c := crossingOf me.1
  match edgeEnd c.site (c.entry me.2) with
  | some e => (List.range 8).all fun k => !s.laneUsed e (4 * k)
  | none => true

/-- `TRANSIT_MOVE`: in its transit phases, in held beats, and while no program runs, every flit of the crossing advances one
hop, and waiting flits that hold a credit enter the tracks; a fabric unit whose path begins here sends what its credits let it
(R142-R144, R323). The crossing waits a beat where a lane that it needs is taken (log entry 97). -/
def execTransitMove (x : CrossingId) (dir : Bool) (s : State) : Out :=
  let c := crossingOf x
  let me := (x.val, dir)
  let n := wayNo me
  let t := s.crossing n
  if s.crossingMoves c && t.movedAt != some s.wall && s.exitFree me then
    let stepped := t.onTrack.map fun y => { y with at_ := y.at_ + 1 }
    let s1 := s.setCrossing n { t with
      onTrack := stepped.filter fun y => decide (y.at_ < c.hops y.track)
      leaving := t.leaving ++ (stepped.filter fun y => decide (c.hops y.track ≤ y.at_)).map fun y => { y with at_ := s.wall + 14 }
      movedAt := some s.wall }
    let s2 := if s.exitLive c dir then s1.enterTracks 8 0 me else s1
    ok (if s.entryLive c dir && s.entryFree me then s2.sendComing 8 0 me else s2)
  else ok s

/-- `TRANSIT_FLIT_ARRIVAL`: a flit reaches the 32-flit transit buffer at the entry edge after its 14 wall beats: one that a lightplane die
has sent, or one that left the crossing before; its credit is spent (R144, R260, R323). -/
def execTransitFlitArrival (x : CrossingId) (dir : Bool) (flit : Flit) (s : State) : Out :=
  let me := (x.val, dir)
  let n := wayNo me
  let put (s : State) (y : TransitFlit) : State := s.setCrossing n { s.crossing n with buffer := (s.crossing n).buffer ++ [y] }
  let here (y : TransitFlit) : Bool := y.flit == flit && decide (y.at_ ≤ s.wall)
  match (s.crossing n).coming.find? here with
  | some y => ok (put (s.setCrossing n { s.crossing n with coming := (s.crossing n).coming.erase y }) y)
  | none =>
    let cameFrom (m : Nat) : Option TransitFlit := (s.crossing m).leaving.find? fun y =>
      here y && beforeIn me (transitPath (y.way / 4) (y.way % 4)) == some (m / 2, m % 2 == 1)
    match (List.range 24).findSome? fun m => (cameFrom m).map fun y => (m, y) with
    | some (m, y) => ok (put (s.setCrossing m { s.crossing m with leaving := (s.crossing m).leaving.erase y }) y)
    | none => ok s

/-- One block arrives over the transit lane from die `src` at the fabric unit of die `k`, with a poison flag for each of its
four words (R264, R313, R323). `CUT` ends the packet in progress, which is lost (R335). -/
def State.transitBlock (s : State) (k src : Nat) (b : BitVec 257) (bad : Nat) : State :=
  let fb := s.fab k
  let old := SMap.get {} fb.transitRx src
  let mask := poisonMask (old.offset.toNat + old.payload.length) ((List.range 32).map fun i => nbit bad (i / 8))
  if bitOf b 256 && fld b 7 0 == 0xF1 then s.setFab k { fb with transitRx := SMap.erase fb.transitRx src }
  else
  let p := if bitOf b 256 then headerOf b else { old.addBlock b with poison := old.poison ||| mask }
  if p.whole then
    s.setFab k { fb with transitRx := SMap.erase fb.transitRx src, transitIn := SMap.set [] fb.transitIn src (SMap.get [] fb.transitIn src ++ [p.trim]) }
  else s.setFab k { fb with transitRx := SMap.set {} fb.transitRx src p }

/-- The lanes of the transit tracks (R141). -/
def trackLanes : List Nat := (List.range 8).map (4 * ·)

/-- A credit for a place that has become free behind an edge enters a track's lane towards the die at the other side of its link (`away`), or
towards this one. -/
def State.trackCredit (s : State) (site : Nat) (edge : Edge) (away : Bool) (what : Nat) : State :=
  match edgeEnd site edge with
  | some e => s.sendCredit (if away then e ^^^ 1 else e) trackLanes (some what)
  | none => s

/-- The flit that a fabric unit takes next out of the crossing FIFO at the end of a path: the oldest that has arrived and keeps the order of
its dies. -/
def State.arrivedFlit (s : State) (n : Nat) : Option TransitFlit :=
  let t := s.crossing n
  t.leaving.find? fun y => decide (y.at_ ≤ s.wall) && (nextWay (n / 2, n % 2 == 1) y.way).isNone && firstOf y t.leaving && firstOf y t.onTrack &&
    !s.crossingShut (.fab (Fin.ofNat 4 (y.way % 4)))

/-- At the end of a path the lightplane die's fabric unit takes the next flit of its crossing FIFO, and the credit of its place there goes
back (R274, R323, R445). -/
def State.takeTransit (s : State) (n : Nat) : State :=
  match s.arrivedFlit n with
  | some y =>
    let t := s.crossing n
    let c := crossingOf (n / 2)
    let s1 := (s.setCrossing n { t with leaving := t.leaving.erase y }).trackCredit c.site (c.exit (n % 2 == 1)) false (24 + n)
    (flitBlocks y.flit).zipIdx.foldl
      (fun s b => s.transitBlock (y.way % 4) (y.way / 4) b.1 (nfld y.flit.poison.toNat (4 * b.2 + 3) (4 * b.2))) s1
  | none => s

/-- `TRANSIT_CREDIT_RETURN`: the credit of a place of the crossing's buffer that has become free goes back on the reverse direction,
in a beat in which the crossing moves; at the end of a path the fabric unit takes a flit, and the credit of its place goes back
(R144, R274). -/
def execTransitCreditReturn (x : CrossingId) (dir : Bool) (s : State) : Out :=
  let c := crossingOf x
  let n := wayNo (x.val, dir)
  let s1 := s.takeTransit n
  let t := s1.crossing n
  if 0 < t.freed && s.crossingMoves c && s.entryLive c dir then
    ok ((s1.setCrossing n { t with freed := t.freed - 1 }).trackCredit c.site (c.entry dir) true n)
  else ok s1

end Sys2Proof.Machine
end

