-- ==== Sys2Proof/Machine/Chaxel.lean ====
section
/-! DEFINITION. The Chaxel die-to-die links: groups, replay, hold words, training and beat alignment (chapter 9). -/

namespace Sys2Proof.Machine

open Sys2Proof

/-! ### Ends and lanes (Tables 1.2, 1.3, 9.1, R255) -/

/-- Edge code of Table 9.9 of an end. -/
def edgeCode (e : Nat) : Nat :=
  match endEdge e with
  | some .north => 0 | some .south => 1 | some .east => 2 | some .west => 3
  | none => e / 2 % 2

/-- The link joins two compute dies. -/
def beatLink (l : Nat) : Bool := decide (l < 10)

/-- The edge lane of a payload or side bundle, and the word of a payload bundle (R255). -/
def groupLane (g : Nat) : Nat := if g < 256 then g / 8 else g - 256

/-- Change the flits that end `e` receives on a lane in the group launched from wall beat `G` on: `f` is given the beat of the group and
answers `none` for a flit that is lost. Program flits wait in replay windows and servant flits at the inputs (R260), those of lightplane
lanes in crossing FIFOs, and transit flits are on their way on track lane / 4 (R141). A flit that no side word discards stays
(R264). -/
def State.mapLane (s : State) (e lane G : Nat) (f : Nat → Flit → Option Flit) : State :=
  let hit (entered : Nat) : Bool := decide (G ≤ entered + 4) && decide (entered < G)
  let serv (q : PortName) (x : ServFlit) : Option ServFlit :=
    match x.sent with
    | some b => if x.port == q && hit b then (f (b + 4 - G) x.flit).map fun g => { x with flit := g } else some x
    | none => some x
  let way (y : TransitFlit) : Option TransitFlit :=
    if 4 * y.track == lane && hit (y.at_ - 14) then (f (y.at_ - 14 + 4 - G) y.flit).map fun g => { y with flit := g } else some y
  let s1 : State :=
    match endEdge e, endEdge (e ^^^ 1) with
    | some edge, _ =>
      let (r, q) := lanePort (endDie e) edge lane
      let a := s.router r
      let prog (x : PortName × Nat × Nat × Flit) : PortName × Nat × Nat × Flit :=
        if x.1 == q && hit x.2.2.1 then (x.1, x.2.1, x.2.2.1, (f (x.2.2.1 + 4 - G) x.2.2.2).getD x.2.2.2) else x
      let keep (x : ServFlit) : Option ServFlit := if onLightplane r q then serv q x else some ((serv q x).getD x)
      s.setRouter r { a with window := a.window.map prog, servant := a.servant.filterMap keep, fifoIn := a.fifoIn.filterMap (serv q) }
    | none, some edge =>
      let (r, q) := lanePort (endDie (e ^^^ 1)) edge lane
      s.setRouter r { s.router r with fifoOut := (s.router r).fifoOut.filterMap (serv q) }
    | none, none => s
  if lane % 4 ≠ 0 then s1
  else
    forAll 24 s1 fun s n =>
      let c := crossingOf (n / 2)
      let dir := n % 2 == 1
      let t := s.crossing n
      if edgeEnd c.site (c.exit dir) = some (e ^^^ 1) then s.setCrossing n { t with leaving := t.leaving.filterMap way }
      else if edgeEnd c.site (c.entry dir) = some e then s.setCrossing n { t with coming := t.coming.filterMap way }
      else s

/-! ### What a transmitter launches (R255, R258, R260) -/

/-- The side word of a lane in a beat (Table 9.3). -/
def sideWord (f : Option Flit) (credit : Bool) : Word64 :=
  BitVec.ofNat 64 (bit1 credit * 2 ^ 62 +
    (match f with | some f => 2 ^ 63 + f.poison.toNat * 2 ^ 48 + f.tag.toNat | none => 0))

/-- The word of a bundle that is launched towards end `e` in wall beat `v`: that of the flit which entered the lane 4 beats before, zero
where there is none, and in a side word the credit (R255, R260). -/
def State.launchedWord (s : State) (e grp v : Nat) : Word64 :=
  let lane := groupLane grp
  let f := if v < 4 then none else ((s.laneFlits e lane).find? fun x => x.1 + 4 == v).map (·.2)
  if grp < 256 then (match f with | some f => BitVec.ofNat 64 (fld f.data (64 * (grp % 8) + 63) (64 * (grp % 8))) | none => 0)
  else sideWord f ((s.linkEnd e).credits.any fun c => c.1 == lane && c.2.1 + 4 == v)

/-- The words of the group launched from wall beat `G` on (R258). -/
def State.launchedGroup (s : State) (e grp G : Nat) : List Word64 := (List.range 4).map fun k => s.launchedWord e grp (G + k)

/-! ### Groups and CRC (R258, R259) -/

/-- One bit into the CRC register of R259. -/
def crcBit (crc : Nat) (b : Bool) : Nat :=
  let c := crc * 2 % 256
  if b != nbit crc 7 then c ^^^ 0x2F else c

/-- CRC-8 of bits in transmission order (R259). -/
def crc8 (bits : List Bool) : Nat := bits.foldl crcBit 0xFF

/-- The bits of a word from bit 0 up, and of a number of `n` bits from the top down. -/
def wordBits (w : Word64) : List Bool := (List.range 64).map (nbit w.toNat)
def bitsDown (n v : Nat) : List Bool := (List.range n).map fun i => nbit v (n - 1 - i)

/-- CRC-8 of a group (R258) and of a replay beat (R263). -/
def groupCrc (ws : List Word64) : Nat := crc8 (ws.flatMap wordBits)
def replayCrc (grp k : Nat) (w : Word64) : Nat := crc8 (bitsDown 9 grp ++ bitsDown 2 k ++ wordBits w)

/-- Put received data into the flit of a beat: a payload word, or the poison flags and tag of a side word (R255). A side word whose valid
bit has been lost brings no flit. -/
def receiveInto (grp : Nat) (w : Word64) (f : Flit) : Option Flit :=
  if grp < 256 then some { f with data := setFld f.data (64 * (grp % 8) + 63) (64 * (grp % 8)) w.toNat }
  else if bitOf w 63 then some { f with poison := BitVec.ofNat 8 (fld w 55 48), tag := BitVec.ofNat 24 (fld w 23 0) }
  else none

/-- The credit of a side word launched in wall beat `v` arrives at end `e`: one place of what it frees is free (R144, R255, R274). -/
def State.returnCredit (s : State) (e lane v : Nat) : State :=
  let a := s.linkEnd e
  match a.credits.find? fun c => c.1 == lane && c.2.1 + 4 == v with
  | some c =>
    let s1 := s.setLinkEnd e { a with credits := a.credits.erase c }
    match c.2.2 with
    | some n =>
      if n < 24 then s1.setCrossing n { s1.crossing n with used := (s1.crossing n).used - 1 }
      else s1.setCrossing (n - 24) { s1.crossing (n - 24) with exitUsed := (s1.crossing (n - 24)).exitUsed - 1 }
    | none => s1
  | none => s

/-- Deliver beat `k` of a good group. -/
def State.deliverBeat (s : State) (e grp G k : Nat) (w : Word64) : State :=
  let s1 := s.mapLane e (groupLane grp) G (fun i f => if i = k then receiveInto grp w f else some f)
  if 256 ≤ grp ∧ bitOf w 62 then s1.returnCredit e (groupLane grp) (G + k) else s1

/-! ### Uncorrectable groups (R264, R278) -/

/-- First launch beat of the group that is checked in wall beat `w` (R258, R262). -/
def groupStart (w : Nat) : Nat := (w - 5) / 4 * 4

/-- The compute die of a link that raises its machine checks. -/
def checkDie (e : Nat) : Nat := if endDie e < 8 then endDie e else (linkDies (e / 2)).1

/-- A machine check of a link end: direction is the end that receives (log entry 17). -/
def State.linkCheck (s : State) (code e grp wall : Nat) : State :=
  let real := s.beat.wallBeat
  let s0 := s.setBeat { s.beat with wallBeat := BitVec.ofNat 64 wall }
  let s1 := s0.log 2 code 7 (endDie e % 8) (e / 2) (e % 2 + 2 ^ 16 * grp)
  let s2 := (s1.setBeat { s1.beat with wallBeat := real }).faultDemand (checkDie e)
  s2.setBeat { s2.beat with machineCheck := true }

/-- An uncorrectable group: words delivered poisoned, flits of transit tracks and asynchronous lanes whose side word was lost discarded,
the count and the machine check (R264). -/
def State.uncorrectable (s : State) (e grp G : Nat) : State :=
  let bad (_ : Nat) (f : Flit) : Option Flit :=
    some { f with poison := if grp < 256 then f.poison ||| (1 <<< (grp % 8)) else 0xFF }
  let s1 := s.mapLane e (groupLane grp) G bad
  let s2 := if 256 ≤ grp then s1.mapLane e (groupLane grp) G (fun _ _ => none) else s1
  let a := s2.linkEnd e
  (s2.setLinkEnd e { a with ue := a.ue + 1, asked := a.asked.filter fun x => !(x.1 == grp && groupStart x.2.1 == G) }).linkCheck 0x41 e grp G

/-- A beat in which groups are checked: the one after the capture of their last beat (R258). -/
def groupCheckBeat (w : Nat) : Bool := decide (5 ≤ w) && w % 4 == 1

/-- The words of a group as they are received, with the bits of `err` wrong (R255). -/
def withErrors (ws : List Word64) (err : BitVec 256) : List Word64 :=
  ws.zipIdx.map fun (w, k) => w ^^^ BitVec.ofNat 64 (fld err (64 * k + 63) (64 * k))

/-- `CHAXEL_GROUP_RECEIVE`: a group is received, with the bits of `err` and `crcErr` wrong, and its CRC is checked in the beat after
its capture; the lowest failed group of a group time is requested again, every other is uncorrectable (R258, R261, R264). -/
def execChaxelGroupReceive (e : EndId) (grp : GroupId) (err : BitVec 256) (crcErr : Byte) (s : State) : Out :=
  let a := s.linkEnd e
  let G := groupStart s.wall
  if a.state ≠ 4 ∨ 288 ≤ grp.val ∨ !groupCheckBeat s.wall then ok s
  else
    let sent := s.launchedGroup e grp G
    let got := withErrors sent err
    if groupCrc got = groupCrc sent ^^^ crcErr.toNat then
      ok (got.zipIdx.foldl (fun s x => s.deliverBeat e grp G x.2 x.1) s)
    else
      let a1 := { a with crcFail := a.crcFail + 1 }
      match a.asked.find? fun x => groupStart x.2.1 == G with
      | none => ok (s.setLinkEnd e { a1 with asked := a.asked ++ [(grp.val, s.wall, 0)] })
      | some x =>
        if grp.val < x.1 then
          ok ((s.setLinkEnd e { a1 with asked := a.asked.erase x ++ [(grp.val, s.wall, 0)] }).uncorrectable e x.1 G)
        else ok ((s.setLinkEnd e a1).uncorrectable e grp G)

/-! ### Replay (R261-R263) -/

/-- The request word of a group, with even parity (R261). -/
def requestOf (grp : Nat) : BitVec 12 :=
  let top := 2 ^ 11 + grp * 4
  BitVec.ofNat 12 (top + ((List.range 12).filter (nbit top)).length % 2)

/-- The alignment mark: valid, with group index 0x1FF (R261). -/
def alignmentMark : BitVec 12 := requestOf 0x1FF

/-- The request word that end `e` sends in beat `v`: for the group whose check failed in that beat, and while the link aligns the lower
site's marks, each in a beat whose provisional count is a multiple of 1,024; zero where it asks for nothing (R261, R272). -/
def State.requestSent (s : State) (e v : Nat) : BitVec 12 :=
  match (s.linkEnd e).asked.find? fun x => x.2.1 == v with
  | some x => requestOf x.1
  | none =>
    if (s.linkEnd e).state = 3 ∧ e % 2 = 0 ∧ (v + SMap.get 0 s.beat.prov (endDie e)) % 1024 = 0 then alignmentMark else 0

/-- A request word holds good even parity over its bits [11:1] (R261). -/
def requestEven (w : BitVec 12) : Bool := (((List.range 12).filter (bitOf w)).length) % 2 == 0

/-- `REPLAY_REQUEST`: the transmitter at end `e` captures the request word that the far end sent in the beat before, with the bits of `err`
wrong. One of bad parity counts in `CHX_REQ_ERR` and is ignored in any beat; a request that comes at the end of G + 6 starts the
replay of its group (R261, R262). -/
def execReplayRequest (e : EndId) (err : BitVec 12) (s : State) : Out :=
  let a := s.linkEnd e
  let w := s.requestSent (e.val ^^^ 1) (s.wall - 1) ^^^ err
  if a.state ≠ 4 then ok s
  else if !requestEven w then ok (s.setLinkEnd e { a with reqErr := a.reqErr + 1 })
  else if groupCheckBeat (s.wall - 1) && bitOf w 11 && decide (fld w 10 2 < 288) then
    ok (s.setLinkEnd e { a with
      replaying := (fld w 10 2, groupStart (s.wall - 1)) :: a.replaying.filter fun x => decide (s.wall ≤ x.2 + 12) })
  else ok s

/-- What the replay bundle towards end `e` carries in wall beat `v`: beat k of the group asked for in G + 7 + k, else zero data with the
CRC for group index 0x1FF (R262, R263). The k of an idle beat is that of its place in the four (log entry 88). -/
def State.replaySent (s : State) (e v : Nat) : Word64 × Nat :=
  let idle : Word64 × Nat := (0, replayCrc 0x1FF ((v + 1) % 4) 0)
  match (s.linkEnd (e ^^^ 1)).replaying.find? fun x => decide (x.2 + 7 ≤ v) && decide (v ≤ x.2 + 10) with
  | some (grp, G) =>
    let k := v - (G + 7)
    (s.launchedWord e grp (G + k), replayCrc grp k (s.launchedWord e grp (G + k)))
  | none => idle

/-- `REPLAY_CHECK`: in G + 9 + k the receiver checks beat k of the replay of the group that it asked for, received with the bits of `err`
and `crcErr` wrong; it takes the place of the failed one, or the group is uncorrectable (R263, R264). -/
def execReplayCheck (e : EndId) (err : Word64) (crcErr : Byte) (s : State) : Out :=
  let a := s.linkEnd e
  match a.asked.find? fun x => groupStart x.2.1 + 9 + x.2.2 == s.wall with
  | some x =>
    let G := groupStart x.2.1
    let k := x.2.2
    let (sent, crc) := s.replaySent e (s.wall - 2)
    if a.state ≠ 4 then ok s
    else if replayCrc x.1 k (sent ^^^ err) = crc ^^^ crcErr.toNat then
      let others := a.asked.erase x
      let a1 := if k = 3 then { a with asked := others, replay := a.replay + 1 }
                else { a with asked := others ++ [(x.1, x.2.1, k + 1)] }
      ok ((s.setLinkEnd e a1).deliverBeat e x.1 G k (sent ^^^ err))
    else ok (s.uncorrectable e x.1 G)
  | none => ok s

/-- `CHX_PHASE`: the forwarded clock has drifted more than 150 ps from the trained point: a machine check, and the link has
failed (R256, R278). -/
def execChxPhase (e : EndId) (drift : Int) (s : State) : Out :=
  let a := s.linkEnd e
  if a.state == 4 && decide (150 < drift.natAbs) then
    let s1 := s.setLinkEnd e { a with state := 5, cause := 6 }
    let o := s1.linkEnd (e.val ^^^ 1)
    ok ((s1.setLinkEnd (e.val ^^^ 1) { o with state := 5, cause := 6 }).linkCheck 0x42 e 0 s.wall)
  else ok s

/-! ### The hold network (R38, R265, R266, R275) -/

/-- The hub's bits [7:1] of a hold word (Table 9.6). -/
def Demands.hubBits (d : Demands) : Nat :=
  bit1 d.shift * 2 ^ 7 + bit1 d.service * 2 ^ 6 + (match d.brake with | some n => n.toNat * 4 + 2 | none => 0)

/-- The bits that die `o` originates: its wait and fault demands, and at site 0 those of the hub word (R265, R266, R275). -/
def Demands.bitsOf (d : Demands) (o : Nat) : Nat :=
  bit1 (bitOf d.waits o) * 2 ^ (8 + 2 * o) + bit1 (bitOf d.faults o) * 2 ^ (9 + 2 * o) + (if o = 0 then d.hubBits else 0)

/-- How many hops die `o`'s bits have made when they reach die `a` of a link to `b`, if their route goes on over it: first along o's row,
then along a column (R266). -/
def holdHops (o a b : Nat) : Option Nat :=
  let far (x y : Nat) : Nat := max x y - min x y
  if o / 4 ≠ a / 4 then none
  else if a / 4 ≠ b / 4 then some (far o a)
  else if far o a < far o b then some (far o a)
  else none

/-- The hold word that is launched towards end `e` in wall beat `v`: bits of every origin whose routes use the direction, from the beat that
its forwarding makes and as the sender captured them; the hub word towards site 0 on L00, and zero on every other compute–lightplane
link (R265, R266, R275). Before the counters run it carries zero_mark alone (R272). -/
def State.holdSent (s : State) (e v : Nat) : BitVec 24 :=
  let a := endDie (e ^^^ 1)
  let b := endDie e
  let mark (at_ : Nat) : Nat := if s.beat.zeroMark = some at_ then 1 else 0
  if beatLink (e / 2) then
    BitVec.ofNat 24 (((List.range 8).map fun o =>
      match holdHops o a b with
      | some h =>
        if v < 1 + 2 * h then 0
        else if s.beat.aligned then ((s.demandsAt (v - 1 - 2 * h)).bitsOf o) ^^^ (s.wrongBits o a (v - 1 - 2 * h)).toNat
        else if o = 0 then mark (v - 1 - 2 * h) else 0
      | none => 0).sum)
  else if e = 20 then BitVec.ofNat 24 (if s.beat.aligned then (s.demandsAt (v + 1)).hubBits else mark (v + 1))
  else 0

/-- The beat of the counts that run. -/
def State.beatNow (s : State) : Nat := if s.beat.aligned then s.wall else s.beat.provBeats

/-- Wrong brake bits of the hub word that site 0 captures change the value of n that it originates in this beat (R50, R275; log
entry 89). -/
def State.brakeHeard (s : State) (wrong : BitVec 24) : State :=
  if fld wrong 5 1 = 0 then s
  else
    let bits := s.demandsNow.hubBits ^^^ wrong.toNat
    let rest := s.beat.brakePending.filter fun p => p.2 != s.wall
    s.setBeat { s.beat with
      brakePending := if nbit bits 1 then rest ++ [(BitVec.ofNat 4 (nfld bits 5 2), s.wall)] else rest }

/-- `HOLD_WORD_RECEIVE`: the hold word launched in the beat before is captured, in three copies with the bits of `x0`, `x1` and `x2` wrong;
the receiver takes their bitwise majority and counts the bits on which they disagree (R265). It forwards what it took, and its hold
controller decides by it: bits that are wrong in two copies count from here on, and those of the hub word at site 0 (R266, R275; log
entry 89). -/
def execHoldWordReceive (e : EndId) (x0 x1 x2 : BitVec 24) (s : State) : Out :=
  let a := s.linkEnd e
  if a.state ≠ 4 ∨ s.beatNow = 0 then ok s
  else
    let v := s.beatNow - 1
    let w := s.holdSent e v
    let c0 := w ^^^ x0
    let c1 := w ^^^ x1
    let c2 := w ^^^ x2
    let got := (c0 &&& c1) ||| (c0 &&& c2) ||| (c1 &&& c2)
    let fixed := ((List.range 24).filter fun i => !(bitOf c0 i == bitOf c1 i && bitOf c1 i == bitOf c2 i)).length
    let kept := a.holdErrs.filter fun x => x.1 != v && decide (v ≤ x.1 + 24)
    let s1 := s.setLinkEnd e { a with
      holdWord := got, holdFix := a.holdFix + BitVec.ofNat 32 fixed
      holdErrs := if got = w ∨ !s.beat.aligned then kept else kept ++ [(v, got ^^^ w)] }
    ok (if e.val = 20 && s.beat.aligned then s1.brakeHeard (got ^^^ w) else s1)

/-! ### Link training (R267-R272) -/

/-- Set both ends of a link. -/
def State.setLink (s : State) (l : Nat) (f : EndState → EndState) : State :=
  let s1 := s.setLinkEnd (2 * l) (f (s.linkEnd (2 * l)))
  s1.setLinkEnd (2 * l + 1) (f (s1.linkEnd (2 * l + 1)))

/-- A capability word with its CRC (Table 9.7). -/
def withCapCrc (top : Nat) : Word64 := BitVec.ofNat 64 (top * 2 ^ 8 + crc8 (bitsDown 56 top))

/-- The capability word that a die presents: of a Tirmer die edition 1.0, 2.0 Gb/s, beat-locked for a compute die and asynchronous for a
lightplane die, all five features, and the place of its fuses; of a companion die its own (R270, R271, R273, R276). -/
def capWord (die : Nat) : Word64 :=
  let d := Fin.ofNat 12 die
  let role := fuseN d 2 1
  if role = 3 then withCapCrc (Config.companionCap d).toNat
  else
    withCapCrc (1 * 2 ^ 52 + 1 * 2 ^ 44 + (if role = 1 then 0 else 1) * 2 ^ 42 + (role - 1) * 2 ^ 40 + 256 * 2 ^ 31 + 31 * 2 ^ 8 +
      fuseN d 1 1 % 16)

/-- The identity word of a die: the package serial of its fuses (R270). -/
def identityWord (die : Nat) : Word64 := BitVec.ofNat 64 (fuseN (Fin.ofNat 12 die) 4 8)

/-- The CRC of a capability word holds. -/
def capCrcOk (w : Word64) : Bool := fld w 7 0 == crc8 (bitsDown 56 (fld w 63 8))

/-- The die index of an end in the fuses. -/
def fuseDie (e : Nat) : Fin 12 := Fin.ofNat 12 (endDie e)

/-- The fused repair entries of end `e` for its link (R267 step 1, Table 9.9). -/
def fusedWords (e : Nat) : List Word32 := (fuseRepairs (fuseDie e)).filter fun w => fld w 31 30 == edgeCode e

/-- What end `e` sends in step 1, with the bits of a copy wrong (R267). -/
def wordsOf (e : Nat) (c : TrainingWords) : TrainingWords :=
  { cap := capWord (endDie e) ^^^ c.cap, identity := identityWord (endDie e) ^^^ c.identity
    fused := (fusedWords e).zipIdx.map fun (w, i) => w ^^^ (c.fused[i]?).getD 0 }

/-- The words that are accepted of end `e`: the first copy that is followed by two identical ones and has a valid CRC (R267 step 1). -/
def acceptCopies (e : Nat) : List TrainingWords → Option TrainingWords
  | a :: b :: c :: rest =>
    if wordsOf e a = wordsOf e b ∧ wordsOf e b = wordsOf e c ∧ capCrcOk (wordsOf e a).cap then some (wordsOf e a)
    else acceptCopies e (b :: c :: rest)
  | _ => none

/-- A capability word holds no reserved encoding, and its site is that of the end (R270, R271). -/
def capOk (w : Word64) (e : Nat) : Bool :=
  (fld w 55 52 == 1 || fld w 55 52 == 2) && decide (fld w 51 50 ≤ 1) &&
  decide (fld w 49 48 ≤ 2) && fld w 38 24 == 0 && fld w 23 21 == 0 && fld w 15 12 == 0 && fld w 11 8 == endDie e

/-- A capability word declares beat-locked with all five features. -/
def capLocked (w : Word64) : Bool := fld w 51 50 == 0 && fld w 20 16 == 31

/-- Positions of a group: forwarded clock, spares, and all of them (Table 9.2). -/
def clockOf (g : Nat) : Nat := if g < 288 then 33 else if g = 288 then 36 else 42
def sparesOf (g : Nat) : List Nat := if g < 288 then [34, 35] else if g = 288 then [37, 38] else [43]
def positionsOf (g : Nat) : Nat := if g < 288 then 36 else if g = 288 then 39 else 44

/-- One bit of PRBS-31, x^31 + x^28 + 1 (R268): the register, shifted left, of which bit 30 leaves. The rule gives the polynomial and the
seed; that the seed loads as the register's number and which stage is the output is the model's (DESIGN CHOICE, log entry 100). -/
def prbsNext (r : Nat) : Nat := r * 2 % 2 ^ 31 + (if nbit r 30 != nbit r 27 then 1 else 0)

/-- Bit `n` of the pattern of a position, from the seed 64 x group index + position + 1 (R268). -/
def prbsBit (g p n : Nat) : Bool := nbit (prbsNext^[n] (64 * g + p + 1)) 30

/-- A sample is one of the test of `beats` wall beats, of a position of its group that carries the pattern, and is wrong: the forwarded
clocks run normally (R268). -/
def sampleWrong (x : LaneSample) (beats : Nat) : Bool :=
  decide (x.index < 2 * beats) && decide (x.position.val < positionsOf x.group) && x.position.val != clockOf x.group && x.value != prbsBit x.group x.position x.index

/-- Fused repair entries that name the direction that end `e` receives: its own, and those of the far end that it accepted (R267, R269,
Table 9.9). -/
def EndState.fusedAt (a : EndState) (e : Nat) : List (Nat × Nat) :=
  let pick (ws : List Word32) (dir : Nat) : List (Nat × Nat) := (ws.filter fun w => fld w 29 29 == dir).map fun w => (fld w 28 20, fld w 19 14)
  pick (fusedWords e) 1 ++ pick a.fusedPeer 0

/-- A position's trim: the centre of the widest window that passes, of 64 steps where none is reported (R267 step 2). -/
def sweepCentre (x : TrimSweep) : Nat := x.first.val + x.width / 2

/-- Failed positions of the direction that end `e` receives, without repeats: fused, by trim, and by the lane test (R267, R269). -/
def State.failedAt (s : State) (e : Nat) (rep : TrainingReport) : List (Nat × Nat) :=
  ((s.linkEnd e).fusedAt e ++ (s.linkEnd e).trimFailed ++
    ((rep.samples.filter fun x => x.atEnd.val == e % 2 && sampleWrong x (2 ^ 20)).map fun x => (x.group.val, x.position.val))).eraseDups

/-- Failed positions of one group that must move, lowest first. -/
def movesOf (f : List (Nat × Nat)) (g : Nat) : List Nat :=
  (List.range 44).filter fun p => f.contains (g, p) && !(sparesOf g).contains p && p != clockOf g

/-- The spares of a group that can be used: a failed one is not (R269). -/
def usableSpares (f : List (Nat × Nat)) (g : Nat) : List Nat := (sparesOf g).filter fun p => !f.contains (g, p)

/-- The groups that hold failed positions. -/
def failedGroups (f : List (Nat × Nat)) : List Nat := (f.map (·.1)).eraseDups

/-- The failure cause of a direction: a failed clock, or more failed positions than usable spares (R269). -/
def laneCause (f : List (Nat × Nat)) : Option Nat :=
  if (failedGroups f).any fun g => f.contains (g, clockOf g) then some 4
  else if (failedGroups f).any fun g => decide ((usableSpares f g).length < (movesOf f g).length) then some 3
  else none

/-- The repair map of a direction: the lowest failed position to S0 and the next to S1, of the spares that can be used (R269). -/
def repairMap (f : List (Nat × Nat)) : List (Nat × List (Nat × Nat)) :=
  ((failedGroups f).map fun g => (g, (movesOf f g).zip (usableSpares f g))).filter fun x => !x.2.isEmpty

/-- The second lane test passes: no wrong bit on a position that is in use with the repairs in place (R267 step 4). -/
def State.retestOk (s : State) (e : Nat) (rep : TrainingReport) : Bool :=
  let f := s.failedAt e rep
  let inUse (g p : Nat) : Bool :=
    if (sparesOf g).contains p then (repairMap f).any fun x => x.1 == g && x.2.any fun y => y.2 == p else !f.contains (g, p)
  rep.retest.all fun x => x.atEnd.val != e % 2 || !sampleWrong x (2 ^ 16) || !inUse x.group x.position

/-- Why the exchange of words fails, if it does: fuse CRC, capability, identity (R267 step 1, R271, R273). Words that never arrive are
taken as a capability mismatch (log entry 90). -/
def exchangeCause (l : Nat) (low high : Option TrainingWords) : Option Nat :=
  if !(fuseGood (fuseDie (2 * l)) && fuseGood (fuseDie (2 * l + 1))) then some 7
  else
    match low, high with
    | some a, some b =>
      if !capOk a.cap (2 * l) || !capOk b.cap (2 * l + 1) || fld a.cap 63 60 != fld b.cap 63 60 || fld a.cap 47 39 != fld b.cap 47 39 then some 1
      else if a.identity ≠ b.identity then some 2
      else none
    | _, _ => some 1

/-- Why the lane tests fail, if they do (R267 steps 3 and 4, R269). -/
def State.lanesCause (s : State) (l : Nat) (rep : TrainingReport) : Option Nat :=
  ((laneCause (s.failedAt (2 * l) rep)).or (laneCause (s.failedAt (2 * l + 1) rep))).or
    (if s.retestOk (2 * l) rep && s.retestOk (2 * l + 1) rep then none else some 3)

/-- What end `e` holds after training: the map of each direction, and the counts of its own (R269, Table 9.10). -/
def State.repairedEnd (s : State) (e : Nat) (rep : TrainingReport) : EndState :=
  let a := s.linkEnd e
  let moved := (repairMap (s.failedAt e rep)).flatMap fun x => x.2.map fun p => (x.1, p.1)
  { a with repairs := repairMap (s.failedAt e rep), sendRepairs := repairMap (s.failedAt (e ^^^ 1) rep),
           repairFuse := BitVec.ofNat 16 (moved.filter fun x => (a.fusedAt e).contains x).length,
           repairLane := BitVec.ofNat 16 (moved.filter fun x => !(a.fusedAt e).contains x).length }

/-- The FIFO pointers of an asynchronous link are reset: nothing is in its lanes (R267 step 5). -/
def State.resetLanes (s : State) (l : Nat) : State :=
  let off (r : Nat) (q : PortName) : Bool := !((laneEnd r q).map (· / 2) == some l)
  let s1 : State := { s with
    routers := SMap.update {} s.routers fun r a =>
      { a with fifoIn := a.fifoIn.filter fun x => off r x.port, fifoOut := a.fifoOut.filter fun x => off r x.port } }
  s1.setLink l fun a => { a with credits := a.credits.filter fun c => c.2.2.isSome }

/-- The link trains in failure: both ends show it (R267, R278). -/
def State.linkFails (s : State) (l cause : Nat) : State := s.setLink l fun a => { a with state := 5, cause := BitVec.ofNat 4 cause }

/-- Steps 1 and 2 of training: the words that each end accepts, and the trims (R267, R270, R271). The link runs at the lower of the two
rates, and beat-locked only between compute dies that both declare it with every feature. -/
def State.exchangeWords (s : State) (l : Nat) (rep : TrainingReport) : State :=
  let low := acceptCopies (2 * l) rep.highCopies
  let high := acceptCopies (2 * l + 1) rep.lowCopies
  let words (a : EndState) (e : Nat) (peer : Option TrainingWords) : EndState :=
    { a with capOwn := capWord (endDie e), capPeer := (peer.map (·.cap)).getD 0, fusedPeer := (peer.map (·.fused)).getD []
             trimFailed := (rep.sweeps.filter fun x => x.atEnd.val == e % 2 && decide (x.width < 24)).map fun x => (x.group.val, x.position.val)
             trims := (rep.sweeps.filter fun x => x.atEnd.val == e % 2).foldl (fun m x => SMap.set 0 m (64 * x.group.val + x.position.val) (sweepCentre x))
               a.trims }
  let s1 := s.setLinkEnd (2 * l) (words (s.linkEnd (2 * l)) (2 * l) high)
  let s2 := s1.setLinkEnd (2 * l + 1) (words (s1.linkEnd (2 * l + 1)) (2 * l + 1) low)
  match exchangeCause l low high, low, high with
  | none, some a, some b =>
    let locked := beatLink l && capLocked a.cap && capLocked b.cap
    s2.setLink l fun x => { x with state := 2, mode := if locked then 0 else 1, rate := BitVec.ofNat 4 (max (fld a.cap 55 52) (fld b.cap 55 52)) }
  | c, _, _ => s2.linkFails l (c.getD 1)

/-- Steps 3 to 5 of training: the lane test, the repairs and the test again; a beat-locked link goes on to alignment, an asynchronous one
resets its FIFO pointers and goes live (R267-R269, R276). -/
def State.testLanes (s : State) (l : Nat) (rep : TrainingReport) : State :=
  match s.lanesCause l rep with
  | some c => s.linkFails l c
  | none =>
    let locked := (s.linkEnd (2 * l)).mode == 0
    let set (s : State) (e : Nat) (x : EndState) (delay : Fin 3) : State :=
      s.setLinkEnd e { x with depth := BitVec.ofNat 2 (3 - delay.val) }
    let s1 := set (set s (2 * l) (s.repairedEnd (2 * l) rep) rep.lowDelay) (2 * l + 1) (s.repairedEnd (2 * l + 1) rep) rep.highDelay
    let s2 := s1.setLink l fun a => { a with cause := 0, state := if locked then 3 else 4, asked := [], replaying := [] }
    if locked then s2 else s2.resetLanes l

/-- Truing has come to step 4: the rails are good and the clocks run (R432). -/
def State.trains (s : State) : Bool := s.power.stage == 2 && !s.power.truingFault && s.power.clocks

/-- `LINK_TRAINING`: in the truing stage a link begins to train, then exchanges its words and sets its trims, then tests its lanes; each
is one command, and moves the link on to its next state (R267-R271, R276, Table 9.10). -/
def execLinkTraining (l : LinkId) (rep : TrainingReport) (s : State) : Out :=
  if !s.trains then ok s
  else
    match (s.linkEnd (2 * l.val)).state.toNat with
    | 0 => ok (s.setLink l fun a => { a with state := 1, cause := 0, link := BitVec.ofNat 5 l.val })
    | 1 => ok (s.exchangeWords l rep)
    | 2 => ok (s.testLanes l rep)
    | _ => ok s

/-! ### Beat alignment (R272) -/

/-- The links that must be aligned before a link is (R272). -/
def alignsAfter (l : Nat) : List Nat :=
  match l with
  | 0 | 6 => []
  | 1 | 7 => [0]
  | 2 | 8 => [1]
  | 9 => [2]
  | _ => [0, 1, 2, 6, 7, 8, 9]

/-- The links along which provisional counts are set (R272). -/
def treeLinks : List Nat := [0, 1, 2, 6, 7, 8, 9]

/-- The half-beat of the child's provisional `WALL_BEAT` in which a mark arrives, before retiming: the parent sends it in a beat whose count
is a multiple of 1,024, and it is `delay` half-beats under way (R272). -/
def State.markArrives (s : State) (l delay : Nat) : Nat :=
  let p := s.provWall (endDie (2 * l)) % 1024
  let c := s.provWall (endDie (2 * l + 1)) % 1024
  (2 * (c + 1024 - p) + delay) % 2048

/-- `ALIGNMENT_MARK`: the lower site sends the mark 16 times over an aligned tree, and each is `delays` half-beats under way. Every mark
must be captured at the end of a beat whose provisional count is 1 more than a multiple of 1,024: on a tree link the child sets its
count and its depth so, on the other three its depth alone; else the link fails (R272; log entry 17). -/
def execAlignmentMark (l : LinkId) (delays : List Nat) (s : State) : Out :=
  if !s.trains ∨ (s.linkEnd (2 * l.val)).state ≠ 3 ∨ !((alignsAfter l).all fun x => (s.linkEnd (2 * x)).state == 4) then ok s
  else
    let marks := delays.map (s.markArrives l)
    let first := marks.headD 0
    let free := treeLinks.contains l.val
    let fits (d : Nat) : Bool :=
      if free then (first + d) % 2 == 0 && marks.all fun m => m == first
      else marks.all fun m => (m + d) % 2048 == 4
    match ([1, 2, 3].find? fits), delays.length with
    | some d, 16 =>
      let e := 2 * l.val + 1
      let s1 := s.setLink l fun a => { a with state := 4 }
      let s2 := s1.setLinkEnd e { s1.linkEnd e with depth := BitVec.ofNat 2 d }
      let shift := if free then (2052 - (first + d) % 2048) / 2 % 1024 else 0
      ok (s2.setBeat { s2.beat with prov := SMap.set 0 s2.beat.prov (endDie e) (SMap.get 0 s2.beat.prov (endDie e) + shift) })
    | _, _ => ok (s.linkFails l 5)

/-- `BEAT_ZERO`: sixteen beats after zero_mark every die starts its counters from zero, in one beat (R48, R272). -/
def execBeatZero (s : State) : Out :=
  if s.trains && !s.beat.aligned && s.linksAligned && s.beat.zeroMark.any fun m => m + 16 == s.beat.provBeats then
    let s1 := s.setPower { s.power with trainedAt := s.nowNs }
    let b := s1.beat
    ok (s1.setBeat { b with aligned := true, schedBeat := 0, wallBeat := 0, heldWait := 0, heldBrake := 0, heldShift := 0, heldHub := 0,
                            held := false, causeWait := false, causeBrake := false, causeShift := false, causeHub := false, history := [] })
  else ok s

end Sys2Proof.Machine
end

