-- ==== Sys2Proof/Machine/Program.lean ====
section
/-! DEFINITION. Starting and stopping a program, and the fault hold (R46, R101, R410). -/

namespace Sys2Proof.Machine

open Sys2Proof

/-! ### Stopping (R46, R410) -/

/-- An array as a stop parks it: nothing of its program is left in flight (R410; log entry 16). `n` are the clock-gated beats of its void
window in progress (R163). -/
def ArrayState.parked (a : ArrayState) (now n : Nat) : ArrayState :=
  { a with power := 2, driven := 0, dummy := 0, rows := [], presented := [], lastD := 0, decay := 0, pass := none, path := [],
           drains := [], streams := [], gate := none, parkAt := none, unparkAt := none, ramp := false, unparkUntil := 0,
           windows := [], inVoid := false, voidGate := none, accStart := none, rampAt := none, fwAcc := a.fwAcc + BitVec.ofNat 32 n,
           gatedSince := some (match a.gatedSince with | some t => min t now | none => now) }

/-- A spoke as a stop halts it (R175, R410; log entry 16): a run in progress has spent `n` live beats (R201). -/
def SpokeState.halted (a : SpokeState) (n : Nat) : SpokeState :=
  { a with mode := 0, tend := false, until_ := none, nextRun := none, stores := [], loads := [], record := none, ready := [],
           vready := [], runBeats := a.runBeats + BitVec.ofNat 32 n }

/-- A derailleur as a stop leaves it: phases that have ended are counted, and a later one goes no further (R173, R410; log entry 16). -/
def DerailleurState.halted (d : DerailleurState) (pb : Nat) : DerailleurState :=
  { d.settle pb with phase := 0, triggers := [], sweeps := [] }

/-- Place stop requests on the channels that the program claims; a halted one returns to idle (R249, R250). -/
def State.stopClaimed (s : State) : State :=
  s.channels.foldl (fun s e =>
    if !e.2.claimed then s
    else if e.2.state = 2 then s.setChannel e.1 { s.channel e.1 with state := 0, halt := 0 }
    else s.requestStop e.1) s

/-- A stop may act: a Hub service hold is in force, or no beats run (R222, R410). -/
def State.stopReady (s : State) : Bool := !s.beat.aligned || (s.beat.held && s.beat.causeHub)

/-- Steps 2 and 5 of R410 with no program: collectives abort, and the hold drops. -/
def State.stopIdle (s : State) : State :=
  let s1 := s.abortAll 8
  s1.setBeat { s1.beat with hubDemand := false }

/-- Steps 2 to 5 of R410: collectives abort, claimed channels stop, arrays park, spokes halt, and the hold drops. -/
def State.programStopped (s : State) : State :=
  let s1 := (s.abortAll 8).stopClaimed
  let s2 : State :=
    { s1 with
      arrays := SMap.update {} s1.arrays fun g a => a.parked s.sched (s1.voidBeats g)
      derailleurs := SMap.update {} s1.derailleurs fun _ d => d.halted s1.pbeat
      spokes := SMap.update {} s1.spokes fun p a => a.halted (s1.runSpent p false)
      routers := SMap.update {} s1.routers fun _ r => { r.settle (s1.sched + 1) with inputs := [], window := [] }
      unparks := [], ramps := [] }
  { s2 with prog := { s2.prog with running := false, startAt := none }, beat := { s2.beat with waits := [], hubDemand := false } }

/-- `PROGRAM_FAULT`: in the fault hold hub firmware stops the program; a machine check has aborted the open collectives as
`LOST` (R46, R392). -/
def execProgramFault (s : State) : Out :=
  if !s.beat.faultHold || s.beat.stopped then ok s
  else
    let s1 := if s.beat.machineCheck then s.abortAll 2 else s
    if s1.stopReady then
      let s2 := if s1.prog.running then s1.programStopped else s1
      ok (s2.setBeat { s2.beat with stopped := true })
    else ok s1

/-- `FAULT_HOLD_CLEAR`: the stop has completed; hub firmware clears the demands and the fault hold ends (R46). -/
def execFaultHoldClear (s : State) : Out :=
  if s.beat.faultHold && s.beat.stopped then
    ok (s.setBeat { s.beat with faultHold := false, faultDemands := 0, faultAt := none, machineCheck := false, stopped := false })
  else ok s

/-- End the open `LOAD_IMAGE` and `START_PROGRAM` commands that were accepted before command number `no` (R406). -/
def State.endOpen (s : State) (no : Nat) : State :=
  let later (o : OpenCmd) : Bool :=
    s.hub.accepted.any fun c => c.mb == o.mb && slotTag c.slot == o.tag.toNat && slotOp c.slot == o.opcode.toNat && decide (no < c.no)
  let dead := s.hub.openCmds.filter fun o => (o.opcode == 0x20 || o.opcode == 0x21) && !later o
  let kept := s.hub.accepted.filter fun c => decide (no < c.no) || !(slotOp c.slot == 0x20 || slotOp c.slot == 0x21)
  let s1 := s.setHub { s.hub with accepted := kept }
  dead.foldl (fun s o => s.completeCmd o.mb o.tag.toNat o.opcode.toNat stAborted 0 0) s1

/-- `STOP_PROGRAM` raises the Hub service hold; once it holds the stop is carried out and the command completes (R406, R410). With no program running the program beat is all ones (log entry 16). -/
def execStopProgram (s : State) : Out :=
  match s.hub.current with
  | some c =>
    if slotOp c.slot ≠ 0x22 then ok s
    else
      let s1 := { s with prog := { s.prog with startAt := none } }.endOpen c.no
      if s1.stopReady then
        let pb := if s1.prog.running then s1.pbeat else 2 ^ 64 - 1
        let s2 := if s1.prog.running then s1.programStopped else s1.stopIdle
        ok (s2.finish c stDone 0 (resAt 8 8 pb))
      else ok (s1.setBeat { s1.beat with hubDemand := true })
  | none => ok s

/-! ### Starting (R59, R99-R101, R104, R140, R145, R173, R175, R201, R405, R410) -/

/-- Largest effective reading of the valid sites `first` to `first + n - 1`, in 1/16 °C (R220, R453, R454). -/
def State.hottestOf (s : State) (first n : Nat) : Option Int :=
  (((List.range n).map fun i => SMap.get {} s.therm.sensors (first + i)).filter fun x => x.samples.length == 8).foldl
    (fun m x => some (match m with | none => x.effective.toInt | some v => max v x.effective.toInt)) none

/-- After an orderly stop no program starts until every vault is below 90 °C (R222), and after one that logic caused until every die's logic
is below 100 °C (R456). -/
def State.tooHot (s : State) : Bool :=
  (List.range 8).any fun d =>
    (s.therm.stopVault && (match s.hottestOf (128 + 4 * d) 4 with | some t => decide (1440 ≤ t) | none => false)) ||
    (s.therm.stopLogic && (match s.hottestOf (16 * d) 16 with | some t => decide (1600 ≤ t) | none => false))

/-- A Chaxel link is failed (Table 9.10). -/
def State.linkFailed (s : State) : Bool := s.ends.any fun e => e.2.state == 5

/-- `START_PROGRAM` is refused (R59, R405). -/
def State.startRefused (s : State) : Bool :=
  match s.image with
  | none => true
  | some i =>
    s.prog.running || s.service || s.beat.faultHold || s.linkFailed || s.tooHot || (i.entropy && s.ordered) ||
    (List.range 8).any fun d => decide (3 ≤ (s.dmem d).tstate.toNat)

/-- The entries of a table of units, `n` to a unit, of one unit. -/
def unitEntries {α : Type} (m : SMap α) (n u : Nat) : SMap α := (m.filter fun e => e.1 / n == u).map fun e => (e.1 % n, e.2)

/-- An array as `START_PROGRAM` leaves it (R99, R100, R104). -/
def startArray (e : BitVec 128) : ArrayState :=
  { abase := BitVec.ofNat 18 (slotN e 0 4), vbase := BitVec.ofNat 17 (slotN e 4 4), leader := BitVec.ofNat 11 (slotN e 8 2),
    size := BitVec.ofNat 3 (slotN e 10 1), active := nbit (slotN e 11 1) 0 }

/-- A spoke as `START_PROGRAM` leaves it (R175, R201). -/
def startSpoke (layout : Option Word32) : SpokeState :=
  match layout with
  | some w => { layout := w, active := true, nextRun := some (0, 0) }
  | none => {}

/-- A router as `START_PROGRAM` leaves it (R138, R140). -/
def startRouter (i : ImageState) (r : Nat) (x : RouterState) : RouterState :=
  { x with slots := unitEntries i.slots 256 r, xfer := unitEntries i.xfers 16 r, period := SMap.get 16 i.periods (r / 256),
           inputs := [], window := [], staged := [], slotAt := none }

/-- A derailleur as `START_PROGRAM` leaves it: its stores of the image and its line buffer stay (R145, R173). -/
def startDerailleur (x : DerailleurState) : DerailleurState :=
  { binding := x.binding, quota := x.quota, voidTab := x.voidTab, desc := x.desc, lineBuf := x.lineBuf, linePoison := x.linePoison,
    lastTrigger := x.lastTrigger }

/-- A channel as `START_PROGRAM` leaves it; the chain of a `COPY` that still runs keeps its own budget (R238, R249). -/
def startChannel (i : ImageState) (c : Nat) (x : ChannelState) : ChannelState :=
  let claimed := i.claimed.toNat.testBit c
  { x with claimed := claimed, claimBudget := if claimed then SMap.get 0 i.budgets c else x.claimBudget,
           budget := if claimed ∧ x.cur = none ∧ x.next = none ∧ x.owner = none then SMap.get 0 i.budgets c else x.budget,
           state := if x.state = 2 then 0 else x.state, halt := if x.state = 2 then 0 else x.halt }

/-- Build a sparse map from a unit for every number below `n`. -/
def buildMap {α : Type} [DecidableEq α] (d : α) (n : Nat) (f : Nat → α) : SMap α :=
  ((List.range n).map fun k => (k, f k)).filter fun e => decide (e.2 ≠ d)

/-- What `START_PROGRAM` clears and loads (R410), with signal counters and abort flags (R122, R395). -/
def State.loadProgram (s : State) (i : ImageState) (at_ seed : Nat) : State :=
  { s with
    arrays := SMap.update {} (i.arrays.map fun e => (e.1, startArray e.2)) fun _ a => a
    spokes := buildMap {} 2048 fun p => startSpoke (SMap.get none i.spokes p)
    routers := buildMap {} 2048 fun r => startRouter i r (s.router r)
    derailleurs := SMap.update {} s.derailleurs fun _ x => startDerailleur x
    channels := buildMap {} 256 fun c => startChannel i c (s.channel c)
    counters := SMap.update {} s.counters fun _ c => { c with signal := [] }
    unparks := [], ramps := [], abort := 0
    prog := { s.prog with startAt := some (BitVec.ofNat 64 at_), startLocked := none, plan := i.plan, clearedAt := s.sched,
                          seed := if seed = 0 then i.seed else BitVec.ofNat 64 seed }
    therm := { s.therm with stopVault := false, stopLogic := false } }

/-- `START_PROGRAM` clears, loads and schedules program beat 0 (R32, R405, R410). -/
def execStartProgram (s : State) : Out :=
  match s.hub.current, s.image with
  | some c, some i =>
    if slotOp c.slot ≠ 0x21 then ok s
    else if s.startRefused then ok (s.finish c stFailed 0 0)
    else ok (s.loadProgram i (slotN c.slot 8 8) (slotN c.slot 16 8)).background
  | some c, none => if slotOp c.slot = 0x21 then ok (s.finish c stFailed 0 0) else ok s
  | none, _ => ok s

/-- Complete the `START_PROGRAM` that is open. -/
def State.completeStart (s : State) (status res : Nat) : State :=
  match s.hub.openCmds.find? fun o => o.opcode == 0x21 with
  | some o => s.completeCmd o.mb o.tag.toNat 0x21 status 0 res
  | none => s

/-- `PROGRAM_BEAT_ZERO`: in the first live beat at or after `at` whose `SCHED_BEAT` is a multiple of 256 every sequencer and
router begins (R48, R101, R122, R410). It fails where the cadence counter was not locked at that moment, and where the package has since
come into a state in which a start is refused (R405; DESIGN CHOICE, log entry 98: the spec tests that when it takes the command). -/
def execProgramBeatZero (s : State) : Out :=
  match s.prog.startAt with
  | some t =>
    if t ≠ 0 ∧ s.cadNs < t.toNat then ok s
    else if (t ≠ 0 ∧ !s.prog.startLocked.getD s.mach.locked) ∨ s.startRefused then
      ok ({ s with prog := { s.prog with startAt := none } }.completeStart stFailed 0)
    else if s.live && decide (s.sched % 256 = 0) && !s.beat.faultHold then
      let s1 : State :=
        { s with prog := { s.prog with running := true, startAt := none, beat0 := s.beat.schedBeat }
                 counters := SMap.update {} s.counters fun _ c => { c with base := c.copies }
                 routers := SMap.update {} s.routers fun _ r => { r with slotAt := none } }
      ok (s1.completeStart stDone (resAt 8 8 s.sched + resAt 16 8 s.cadStamp))
    else ok s
  | none => ok s

end Sys2Proof.Machine
end

