-- ==== Sys2Proof/Machine/Spokes.lean ====
section
/-! DEFINITION. The spoke instructions and the events of the spokes' tasks (chapter 6). -/

namespace Sys2Proof.Machine

open Sys2Proof

/-! ### Scalar arithmetic (R181) -/

/-- `ADD`: rd ← rs1 + rs2 modulo 2^32 (R181). -/
def execAdd (p : SpokeId) (s : State) : Out :=
  ok <| s.issueS p 0x0 1 fun a b => a + b

/-- `SUB`: rd ← rs1 - rs2 modulo 2^32 (R181). -/
def execSub (p : SpokeId) (s : State) : Out :=
  ok <| s.issueS p 0x1 1 fun a b => a - b

/-- `AND`: bitwise and (R181). -/
def execAnd (p : SpokeId) (s : State) : Out :=
  ok <| s.issueS p 0x2 1 fun a b => a &&& b

/-- `OR`: bitwise or (R181). -/
def execOr (p : SpokeId) (s : State) : Out :=
  ok <| s.issueS p 0x3 1 fun a b => a ||| b

/-- `XOR`: bitwise exclusive or (R181). -/
def execXor (p : SpokeId) (s : State) : Out :=
  ok <| s.issueS p 0x4 1 fun a b => a ^^^ b

/-- `SLL`: shift left by rs2[4:0] (R181). -/
def execSll (p : SpokeId) (s : State) : Out :=
  ok <| s.issueS p 0x5 1 fun a b => a <<< (b.toNat % 32)

/-- `SRL`: logical shift right by rs2[4:0] (R181). -/
def execSrl (p : SpokeId) (s : State) : Out :=
  ok <| s.issueS p 0x6 1 fun a b => a >>> (b.toNat % 32)

/-- `SRA`: arithmetic shift right by rs2[4:0] (R181). -/
def execSra (p : SpokeId) (s : State) : Out :=
  ok <| s.issueS p 0x7 1 fun a b => a.sshiftRight (b.toNat % 32)

/-- `SLT`: signed set-less-than (R181). -/
def execSlt (p : SpokeId) (s : State) : Out :=
  ok <| s.issueS p 0x8 1 fun a b => if a.toInt < b.toInt then 1 else 0

/-- `SLTU`: unsigned set-less-than (R181). -/
def execSltu (p : SpokeId) (s : State) : Out :=
  ok <| s.issueS p 0x9 1 fun a b => if a.toNat < b.toNat then 1 else 0

/-- `MIN`: signed minimum (R181). -/
def execMin (p : SpokeId) (s : State) : Out :=
  ok <| s.issueS p 0xa 1 fun a b => if a.toInt ≤ b.toInt then a else b

/-- `MAX`: signed maximum (R181). -/
def execMax (p : SpokeId) (s : State) : Out :=
  ok <| s.issueS p 0xb 1 fun a b => if a.toInt ≤ b.toInt then b else a

/-- `MUL`: low 32 bits of the product, latency 3 (R181). -/
def execMul (p : SpokeId) (s : State) : Out :=
  ok <| s.issueS p 0x10 3 fun a b => a * b

/-- `MULH`: high 32 bits of the signed product, latency 3 (R181). -/
def execMulh (p : SpokeId) (s : State) : Out :=
  ok <| s.issueS p 0x11 3 fun a b => BitVec.ofInt 32 ((a.toInt * b.toInt) / 2 ^ 32)

/-- `DIV`: signed quotient toward zero; divisor 0 gives all ones, and -2^31 / -1 gives -2^31 (R181). -/
def execDiv (p : SpokeId) (s : State) : Out :=
  ok <| s.issueS p 0x18 18 fun a b => if b = 0 then 0xFFFFFFFF else BitVec.ofInt 32 (a.toInt.tdiv b.toInt)

/-- `DIVU`: unsigned quotient; divisor 0 gives all ones (R181). -/
def execDivu (p : SpokeId) (s : State) : Out :=
  ok <| s.issueS p 0x19 18 fun a b => if b = 0 then 0xFFFFFFFF else BitVec.ofNat 32 (a.toNat / b.toNat)

/-- `REM`: signed remainder with the dividend's sign; divisor 0 gives rs1, and -2^31 by -1 gives 0 (R181). -/
def execRem (p : SpokeId) (s : State) : Out :=
  ok <| s.issueS p 0x1A 18 fun a b => if b = 0 then a else BitVec.ofInt 32 (a.toInt.tmod b.toInt)

/-- `REMU`: unsigned remainder; divisor 0 gives rs1 (R181). -/
def execRemu (p : SpokeId) (s : State) : Out :=
  ok <| s.issueS p 0x1B 18 fun a b => if b = 0 then a else BitVec.ofNat 32 (a.toNat % b.toNat)

/-- `ADDI`: rd ← rs1 op imm16, sign-extended (R179, R181). -/
def execAddi (p : SpokeId) (s : State) : Out :=
  ok <| s.issueI p 0x2 0 noBad fun a i => a + i

/-- `ANDI`: rd ← rs1 op imm16, sign-extended (R179, R181). -/
def execAndi (p : SpokeId) (s : State) : Out :=
  ok <| s.issueI p 0x3 0 noBad fun a i => a &&& i

/-- `ORI`: rd ← rs1 op imm16, sign-extended (R179, R181). -/
def execOri (p : SpokeId) (s : State) : Out :=
  ok <| s.issueI p 0x4 0 noBad fun a i => a ||| i

/-- `XORI`: rd ← rs1 op imm16, sign-extended (R179, R181). -/
def execXori (p : SpokeId) (s : State) : Out :=
  ok <| s.issueI p 0x5 0 noBad fun a i => a ^^^ i

/-- `SLTI`: rd ← rs1 op imm16, sign-extended (R179, R181). -/
def execSlti (p : SpokeId) (s : State) : Out :=
  ok <| s.issueI p 0x6 0 noBad fun a i => if a.toInt < i.toInt then 1 else 0

/-- `LUI`: rd ← imm16 << 16; rs1 must be 0 (R181). -/
def execLui (p : SpokeId) (s : State) : Out :=
  ok <| s.issueI p 0x7 0x001F0000 noBad fun _ i => i <<< 16

/-- `SHI`: shift rs1 as imm[6:5] says by imm[4:0] (R181). -/
def execShi (p : SpokeId) (s : State) : Out :=
  ok <| s.issueI p 0x8 0x0000FF80 (fun w => fld w 6 5 == 3) fun a i =>
    match fld i 6 5 with
    | 0 => a <<< (i.toNat % 32)
    | 1 => a >>> (i.toNat % 32)
    | _ => a.sshiftRight (i.toNat % 32)

/-! ### Loads and stores (R176, R177) -/

/-- `LW`: load a word from rs1 + imm16; it reads one beat later from the scratchpad and two beats later from a local store (R176, R177). -/
def execLw (p : SpokeId) (s : State) : Out :=
  ok <| s.issueLoad p 0x10 4 false

/-- `LH`: load a halfword, sign-extended from rs1 + imm16; it reads one beat later from the scratchpad and two beats later from a local store (R176, R177). -/
def execLh (p : SpokeId) (s : State) : Out :=
  ok <| s.issueLoad p 0x11 2 true

/-- `LHU`: load a halfword, zero-extended from rs1 + imm16; it reads one beat later from the scratchpad and two beats later from a local store (R176, R177). -/
def execLhu (p : SpokeId) (s : State) : Out :=
  ok <| s.issueLoad p 0x12 2 false

/-- `LB`: load a byte, sign-extended from rs1 + imm16; it reads one beat later from the scratchpad and two beats later from a local store (R176, R177). -/
def execLb (p : SpokeId) (s : State) : Out :=
  ok <| s.issueLoad p 0x13 1 true

/-- `LBU`: load a byte, zero-extended from rs1 + imm16; it reads one beat later from the scratchpad and two beats later from a local store (R176, R177). -/
def execLbu (p : SpokeId) (s : State) : Out :=
  ok <| s.issueLoad p 0x14 1 false

/-- `SW`: store the low 4 bytes of rs2 at rs1 + imm16, at the end of the next beat to the scratchpad and of the one after to a local store (R176, R177). -/
def execSw (p : SpokeId) (s : State) : Out :=
  ok <| s.issueStore p 0x15 4

/-- `SH`: store the low 2 bytes of rs2 at rs1 + imm16, at the end of the next beat to the scratchpad and of the one after to a local store (R176, R177). -/
def execSh (p : SpokeId) (s : State) : Out :=
  ok <| s.issueStore p 0x16 2

/-- `SB`: store the low 1 bytes of rs2 at rs1 + imm16, at the end of the next beat to the scratchpad and of the one after to a local store (R176, R177). -/
def execSb (p : SpokeId) (s : State) : Out :=
  ok <| s.issueStore p 0x17 1

/-- `VLD`: load 64 bytes from rs1 + 4 x imm14 into the lanes that pg selects (R176, R177). -/
def execVld (p : SpokeId) (s : State) : Out :=
  ok <| s.issueOwn p
    { op := 0x18, fns := [0], zero := 0, srcs := fun w => [fld w 21 17, 48 + fld w 16 14],
      check := fun _ a w => if spokeAddrBad a.layout p (addrM a w) 64 4 false then some (0x18, 0, addrM a w) else none }
    fun pb a w =>
      match spokeAddr p (addrM a w) 64 with
      | some (off, far) =>
        let vd := fld w 25 22
        let ls := a.pr (fld w 16 14)
        let a1 := (a.overwrite true vd ls).readyLanes vd ls (pb + if far then 5 else 3)
        { a1 with loads := a1.loads ++ [{ readAt := pb + if far then 2 else 1, addr := off, size := 64, signed := false,
                                          vec := true, reg := vd, sel := ls, lanes := ls }] }
      | none => a

/-- `VST`: store the lanes that pg selects at rs1 + 4 x imm14; other bytes are unchanged (R176, R177). -/
def execVst (p : SpokeId) (s : State) : Out :=
  ok <| s.issueOwn p
    { op := 0x19, fns := [0], zero := 0, srcs := fun w => [fld w 21 17, 32 + fld w 25 22, 48 + fld w 16 14],
      check := fun _ a w => if spokeAddrBad a.layout p (addrM a w) 64 4 true then some (0x18, 0, addrM a w) else none }
    fun pb a w =>
      match spokeAddr p (addrM a w) 64 with
      | some (off, far) =>
        let pg := a.pr (fld w 16 14)
        let bs := (leBytes 64 (a.vr (fld w 25 22)).toNat).zipIdx.filterMap fun (b, i) => if bitOf pg (i / 4) then some (off + i, b) else none
        { a with stores := a.stores ++ [{ due := pb + if far then 2 else 1, addr := off, bytes := bs }] }
      | none => a

/-- `SPOKE_STORE_WRITE`: at the end of its beat a store writes its bytes; a byte that a `DRAIN` or the chainline writes in the
same beat keeps that value (R109, R177). -/
def execSpokeStoreWrite (p : SpokeId) (s : State) : Out :=
  if s.runs then
    let due := (s.spoke p).stores.filter fun x => decide (x.due ≤ s.pbeat)
    let s1 := due.foldl (fun s x => s.writeTier0 1 (x.bytes.map fun b => (b.1, b.2, false))) s
    ok (s1.setSpoke p { s1.spoke p with stores := (s1.spoke p).stores.filter fun x => decide (s.pbeat < x.due) })
  else ok s

/-! ### Branches and jumps (R181) -/

/-- `BEQ`: branch to `PC` + 4 x off16 if equal (R181). -/
def execBeq (p : SpokeId) (s : State) : Out :=
  ok <| s.issueBranch p 0x20 fun a b => a == b

/-- `BNE`: branch to `PC` + 4 x off16 if not equal (R181). -/
def execBne (p : SpokeId) (s : State) : Out :=
  ok <| s.issueBranch p 0x21 fun a b => a != b

/-- `BLT`: branch to `PC` + 4 x off16 if signed less (R181). -/
def execBlt (p : SpokeId) (s : State) : Out :=
  ok <| s.issueBranch p 0x22 fun a b => decide (a.toInt < b.toInt)

/-- `BGE`: branch to `PC` + 4 x off16 if signed greater or equal (R181). -/
def execBge (p : SpokeId) (s : State) : Out :=
  ok <| s.issueBranch p 0x23 fun a b => decide (b.toInt ≤ a.toInt)

/-- `BLTU`: branch to `PC` + 4 x off16 if unsigned less (R181). -/
def execBltu (p : SpokeId) (s : State) : Out :=
  ok <| s.issueBranch p 0x24 fun a b => decide (a.toNat < b.toNat)

/-- `BGEU`: branch to `PC` + 4 x off16 if unsigned greater or equal (R181). -/
def execBgeu (p : SpokeId) (s : State) : Out :=
  ok <| s.issueBranch p 0x25 fun a b => decide (b.toNat ≤ a.toNat)

/-- `JAL`: x31 ← `PC` + 4, and `PC` moves by 4 x off26; it holds issue for 3 beats (R181). -/
def execJal (p : SpokeId) (s : State) : Out :=
  ok <| s.issueOwn p { op := 0x26, fns := [0], zero := 0, srcs := fun _ => [], check := noCheck } fun pb a w =>
    { a.setX 31 a.pc (pb + 1) with pc := a.pc - 4 + BitVec.ofInt 32 (4 * sext 26 (fld w 25 0)), nextIssue := pb + 3 }

/-- `JALR`: rd ← `PC` + 4, and `PC` ← rs1 + imm16; it holds issue for 3 beats (R181). -/
def execJalr (p : SpokeId) (s : State) : Out :=
  ok <| s.issueOwn p { op := 0x27, fns := [0], zero := 0, srcs := fun w => [fld w 20 16], check := noCheck } fun pb a w =>
    { a.setX (fld w 25 21) a.pc (pb + 1) with pc := a.xr (fld w 20 16) + imm16 w, nextIssue := pb + 3 }

/-! ### FP32 and BF16 vector arithmetic (R182) -/

/-- `VFADD`: va + vb per FP32 lane (R182). -/
def execVfadd (p : SpokeId) (s : State) : Out :=
  ok <| s.issueV2 p 0x30 0x0 4 fun a b => word32 (fp32.addOp a.toNat b.toNat)

/-- `VFSUB`: va - vb per FP32 lane (R182). -/
def execVfsub (p : SpokeId) (s : State) : Out :=
  ok <| s.issueV2 p 0x30 0x1 4 fun a b => word32 (fp32.subOp a.toNat b.toNat)

/-- `VFMUL`: va x vb per FP32 lane (R182). -/
def execVfmul (p : SpokeId) (s : State) : Out :=
  ok <| s.issueV2 p 0x30 0x2 4 fun a b => word32 (fp32.mulOp a.toNat b.toNat)

/-- `VFMA`: va x vb + vc with one rounding (R182). -/
def execVfma (p : SpokeId) (s : State) : Out :=
  ok <| s.issueV p 0x30 [3] 0 4 (srcsV true true true) noBad false
    (lanes3 fun a b c => word32 (fp32.fmaOp false a.toNat b.toNat c.toNat))

/-- `VFNMA`: -(va x vb) + vc with one rounding (R182). -/
def execVfnma (p : SpokeId) (s : State) : Out :=
  ok <| s.issueV p 0x30 [4] 0 4 (srcsV true true true) noBad false
    (lanes3 fun a b c => word32 (fp32.fmaOp true a.toNat b.toNat c.toNat))

/-- `VFMIN`: the smaller, the non-NaN operand when exactly one is NaN, -0 below +0 (R182). -/
def execVfmin (p : SpokeId) (s : State) : Out :=
  ok <| s.issueV2 p 0x30 5 1 (f32MinMax false)

/-- `VFMAX`: the larger, as `VFMIN` orders (R182). -/
def execVfmax (p : SpokeId) (s : State) : Out :=
  ok <| s.issueV2 p 0x30 6 1 (f32MinMax true)

/-- `VFABS`: clear the sign of va (R182). -/
def execVfabs (p : SpokeId) (s : State) : Out :=
  ok <| s.issueV1 p 0x30 7 1 (f32Sign fun a => a &&& 0x7FFFFFFF)

/-- `VFNEG`: invert the sign of va (R182). -/
def execVfneg (p : SpokeId) (s : State) : Out :=
  ok <| s.issueV1 p 0x30 8 1 (f32Sign fun a => a ^^^ 0x80000000)

/-- `VFSCALE`: va x 2^vb with vb INT32 (R182). -/
def execVfscale (p : SpokeId) (s : State) : Out :=
  ok <| s.issueV2 p 0x30 9 2 f32Scale

/-- `VFEXP`: floor(log2 |va|) as INT32 (R182). -/
def execVfexp (p : SpokeId) (s : State) : Out :=
  ok <| s.issueV1 p 0x30 0xA 1 f32Exp

/-- `VBFADD`: va + vb over 32 BF16 lanes, rounded once (R182). -/
def execVbfadd (p : SpokeId) (s : State) : Out :=
  ok <| s.issueV p 0x31 [0] 0x3C00 4 (srcsV true true false) noBad false (halves3 (fun a b _ => bf16.addOp a b))

/-- `VBFMUL`: va x vb over 32 BF16 lanes, rounded once (R182). -/
def execVbfmul (p : SpokeId) (s : State) : Out :=
  ok <| s.issueV p 0x31 [1] 0x3C00 4 (srcsV true true false) noBad false (halves3 (fun a b _ => bf16.mulOp a b))

/-- `VBFMA`: va x vb + vc over 32 BF16 lanes, rounded once (R182). -/
def execVbfma (p : SpokeId) (s : State) : Out :=
  ok <| s.issueV p 0x31 [2] 0 4 (srcsV true true true) noBad false (halves3 (bf16.fmaOp false))

/-! ### Integer vector arithmetic (R181) -/

/-- `VADD`: 32-bit sum per lane (R181). -/
def execVadd (p : SpokeId) (s : State) : Out :=
  ok <| s.issueV2 p 0x32 0x0 1 (plain2 fun a b => a + b)

/-- `VSUB`: 32-bit difference per lane (R181). -/
def execVsub (p : SpokeId) (s : State) : Out :=
  ok <| s.issueV2 p 0x32 0x1 1 (plain2 fun a b => a - b)

/-- `VAND`: and per lane (R181). -/
def execVand (p : SpokeId) (s : State) : Out :=
  ok <| s.issueV2 p 0x32 0x2 1 (plain2 fun a b => a &&& b)

/-- `VOR`: or per lane (R181). -/
def execVor (p : SpokeId) (s : State) : Out :=
  ok <| s.issueV2 p 0x32 0x3 1 (plain2 fun a b => a ||| b)

/-- `VXOR`: exclusive or per lane (R181). -/
def execVxor (p : SpokeId) (s : State) : Out :=
  ok <| s.issueV2 p 0x32 0x4 1 (plain2 fun a b => a ^^^ b)

/-- `VSHL`: shift va left by vb[4:0] per lane (R181). -/
def execVshl (p : SpokeId) (s : State) : Out :=
  ok <| s.issueV2 p 0x32 0x5 1 (plain2 fun a b => a <<< (b.toNat % 32))

/-- `VSHR`: logical shift right of va by vb[4:0] per lane (R181). -/
def execVshr (p : SpokeId) (s : State) : Out :=
  ok <| s.issueV2 p 0x32 0x6 1 (plain2 fun a b => a >>> (b.toNat % 32))

/-- `VSRA`: arithmetic shift right of va by vb[4:0] per lane (R181). -/
def execVsra (p : SpokeId) (s : State) : Out :=
  ok <| s.issueV2 p 0x32 0x7 1 (plain2 fun a b => a.sshiftRight (b.toNat % 32))

/-- `VMULL`: low 32 bits of the product per lane (R181). -/
def execVmull (p : SpokeId) (s : State) : Out :=
  ok <| s.issueV2 p 0x32 0x8 3 (plain2 fun a b => a * b)

/-- `VMIN`: signed minimum per lane (R181). -/
def execVmin (p : SpokeId) (s : State) : Out :=
  ok <| s.issueV2 p 0x32 0x9 1 (plain2 fun a b => if a.toInt ≤ b.toInt then a else b)

/-- `VMAX`: signed maximum per lane (R181). -/
def execVmax (p : SpokeId) (s : State) : Out :=
  ok <| s.issueV2 p 0x32 0xa 1 (plain2 fun a b => if a.toInt ≤ b.toInt then b else a)

/-- `VSEL`: lane ← va where pg is set, else vb (R181). -/
def execVsel (p : SpokeId) (s : State) : Out :=
  ok <| s.issueV p 0x32 [0xB] 0x3C00 1 (srcsV true true false) noBad true fun a w =>
    mapLanes (a.pr (fld w 9 7)) (a.vr (fld w 17 14)) fun i => (lane (a.vr (fld w 21 18)) i, 0)

/-- `VSLIDE`: lane i ← va lane i - k for i at or above k, else 0; k is the vc field (R181). -/
def execVslide (p : SpokeId) (s : State) : Out :=
  ok <| s.issueV p 0x32 [0xC] 0x3C000 1 (srcsV true false false) noBad false fun a w =>
    mapLanes (a.pr (fld w 9 7)) (a.vr (fld w 25 22)) fun i =>
      (if fld w 13 10 ≤ i then lane (a.vr (fld w 21 18)) (i - fld w 13 10) else 0, 0)

/-- `VFEQ`: compare lanes into pd; any NaN compares false (R181). -/
def execVfeq (p : SpokeId) (s : State) : Out :=
  ok <| s.issueCmp p 0 (f32Cmp false FVal.eq)

/-- `VFLT`: compare lanes into pd; any NaN compares false (R181). -/
def execVflt (p : SpokeId) (s : State) : Out :=
  ok <| s.issueCmp p 1 (f32Cmp true FVal.lt)

/-- `VFLE`: compare lanes into pd; any NaN compares false (R181). -/
def execVfle (p : SpokeId) (s : State) : Out :=
  ok <| s.issueCmp p 2 (f32Cmp true fun a b => !FVal.lt b a)

/-- `VIEQ`: compare lanes into pd; integers (R181). -/
def execVieq (p : SpokeId) (s : State) : Out :=
  ok <| s.issueCmp p 3 (fun a b => (a == b, 0))

/-- `VILT`: compare lanes into pd; integers (R181). -/
def execVilt (p : SpokeId) (s : State) : Out :=
  ok <| s.issueCmp p 4 (fun a b => (decide (a.toInt < b.toInt), 0))

/-- `VILTU`: compare lanes into pd; integers (R181). -/
def execViltu (p : SpokeId) (s : State) : Out :=
  ok <| s.issueCmp p 5 (fun a b => (decide (a.toNat < b.toNat), 0))

/-! ### Special functions (R185) -/

/-- `VEXP2`: Table 6.5 (R185). -/
def execVexp2 (p : SpokeId) (s : State) : Out :=
  ok <| s.issueV1 p 0x34 0 8 vexp2Of

/-- `VLOG2`: Table 6.5 (R185). -/
def execVlog2 (p : SpokeId) (s : State) : Out :=
  ok <| s.issueV1 p 0x34 1 8 vlog2Of

/-- `VRSQRT`: Table 6.5 (R185). -/
def execVrsqrt (p : SpokeId) (s : State) : Out :=
  ok <| s.issueV1 p 0x34 2 8 vrsqrtOf

/-- `VRCP`: Table 6.5 (R185). -/
def execVrcp (p : SpokeId) (s : State) : Out :=
  ok <| s.issueV1 p 0x34 3 8 vrcpOf

/-- `VTANH`: Table 6.5 (R185). -/
def execVtanh (p : SpokeId) (s : State) : Out :=
  ok <| s.issueV1 p 0x34 4 8 vtanhOf

/-! ### Reductions (R183) -/

/-- `VFRSUM`: reduce the lanes that pg selects in the fixed tree; the result is in every lane (R183). -/
def execVfrsum (p : SpokeId) (s : State) : Out :=
  ok <| s.issueV p 0x35 [0] 0x3FC00 6 (srcsV true false false) noBad true fun a w =>
    treeReduce (fun a b => word32 (fp32.addOp a.toNat b.toNat)) 0 (a.pr (fld w 9 7)) (a.vr (fld w 21 18))

/-- `VFRMAX`: reduce the lanes that pg selects in the fixed tree; the result is in every lane (R183). -/
def execVfrmax (p : SpokeId) (s : State) : Out :=
  ok <| s.issueV p 0x35 [1] 0x3FC00 4 (srcsV true false false) noBad true fun a w =>
    treeReduce (f32MinMax true) 0xFF800000 (a.pr (fld w 9 7)) (a.vr (fld w 21 18))

/-- `VFRMIN`: reduce the lanes that pg selects in the fixed tree; the result is in every lane (R183). -/
def execVfrmin (p : SpokeId) (s : State) : Out :=
  ok <| s.issueV p 0x35 [2] 0x3FC00 4 (srcsV true false false) noBad true fun a w =>
    treeReduce (f32MinMax false) 0x7F800000 (a.pr (fld w 9 7)) (a.vr (fld w 21 18))

/-- `VIRSUM`: reduce the lanes that pg selects in the fixed tree; the result is in every lane (R183). -/
def execVirsum (p : SpokeId) (s : State) : Out :=
  ok <| s.issueV p 0x35 [3] 0x3FC00 3 (srcsV true false false) noBad true fun a w =>
    treeReduce (plain2 fun a b => a + b) 0 (a.pr (fld w 9 7)) (a.vr (fld w 21 18))

/-! ### Sorting (R184) -/

/-- `VSORT`: the pair vd is the pair va in order (R184). -/
def execVsort (p : SpokeId) (s : State) : Out :=
  ok <| s.issueOwn p
    { op := 0x36, fns := [0], zero := 0x0047FC00, srcs := fun w => srcsV true false false w ++ [33 + fld w 21 18], check := noCheck }
    fun pb a w =>
      let r := keySort (pairOf a (fld w 21 18))
      a.setPair (fld w 25 22) (a.pr (fld w 9 7)) (r.map (·.1)) (r.map (·.2)) (pb + 10)

/-- `VMRG`: the pair vd is the first 16 of the merge of the pairs va and vb (R184). -/
def execVmrg (p : SpokeId) (s : State) : Out :=
  ok <| s.issueOwn p
    { op := 0x36, fns := [1], zero := 0x00447C00, srcs := fun w => srcsV true true false w ++ [33 + fld w 21 18, 33 + fld w 17 14],
      check := noCheck }
    fun pb a w =>
      let r := keyMerge 16 (pairOf a (fld w 21 18)) (pairOf a (fld w 17 14))
      a.setPair (fld w 25 22) (a.pr (fld w 9 7)) (r.map (·.1)) (r.map (·.2)) (pb + 10)

/-- `VFKEY`: order key of FP32 va; its own inverse (R184). -/
def execVfkey (p : SpokeId) (s : State) : Out :=
  ok <| s.issueV1 p 0x36 2 1 fun a => (fkey a, 0)

/-- `VIOTA`: lane i ← i (R181). -/
def execViota (p : SpokeId) (s : State) : Out :=
  ok <| s.issueV p 0x36 [3] 0x3FFC00 1 (srcsV false false false) noBad false fun a w =>
    mapLanes (a.pr (fld w 9 7)) (a.vr (fld w 25 22)) fun i => (BitVec.ofNat 32 i, 0)

/-! ### Conversions (R181) -/

/-- Lane `i` of 32 of a register pair. -/
def pairLane (a : SpokeState) (n i : Nat) : Word32 := lane (a.vr (n + i / 16)) (i % 16)

/-- Sources of a conversion from a pair. -/
def srcsPair (w : Word32) : List Nat := srcsV true false false w ++ [33 + fld w 21 18]

/-- `VCVTF8`: the pair va to 32 bytes of E4M3 or E5M2 in bytes 0-31 of vd, the rest zero, rounded as vc says (R181).
Predicate bit i governs lane i of vd: the four result bytes 4i to 4i + 3 for i < 8, and a zero lane above (DEDUCED from R182, log entry
47). -/
def execVcvtf8 (p : SpokeId) (s : State) : Out :=
  ok <| s.issueV p 0x37 [0, 1] 0x0007C000 4 srcsPair (fun w => decide (2 < fld w 13 10)) false fun a w =>
    let f := if fld w 6 0 = 0 then e4m3 else e5m2
    mapLanes (a.pr (fld w 9 7)) (a.vr (fld w 25 22)) fun i =>
      if i < 8 then
        let rs := (List.range 4).map fun j => f32Narrow f (cvtMode (fld w 13 10)) (pairLane a (fld w 21 18) (4 * i + j))
        (BitVec.ofNat 32 (packBits 8 (rs.map (·.1))), (rs.map (·.2)).foldl (· ||| ·) 0)
      else (0, 0)

/-- `VCVTBF`: the pair va to 32 BF16 in vd, rounded as vc says (R181). -/
def execVcvtbf (p : SpokeId) (s : State) : Out :=
  ok <| s.issueV p 0x37 [2] 0x0007C000 4 srcsPair (fun w => decide (2 < fld w 13 10)) false fun a w =>
    mapHalves (a.pr (fld w 9 7)) (a.vr (fld w 25 22)) fun i => f32Narrow bf16 (cvtMode (fld w 13 10)) (pairLane a (fld w 21 18) i)

/-- `VCVTBL`: FP32 lanes to BF16 in bits [15:0], the rest zero (R181, R182). -/
def execVcvtbl (p : SpokeId) (s : State) : Out :=
  ok <| s.issueV1 p 0x37 3 2 fun x => word32 (f32Narrow bf16 .rne x)

/-- Widen an element exactly. -/
def widen (f : Fmt) (bits : Nat) : Word32 × BitVec 5 :=
  ((toF32 (f.decode bits)).1, flagIf (f.special == .ieee && f.isSnan bits) ffNV)

/-- Widen elements of va into the pair vd. -/
def State.issueWiden (s : State) (p : Nat) (fns : List Nat) (get : Word32 → BitVec 512 → Nat → Word32 × BitVec 5) : State :=
  s.issueOwn p { op := 0x37, fns := fns, zero := 0x0043FC00, srcs := srcsV true false false, check := noCheck } fun pb a w =>
    let pg := a.pr (fld w 9 7)
    let rs := (List.range 32).map fun i => get w (a.vr (fld w 21 18)) i
    let fl := ((List.range 32).zip rs).foldl (fun f r => if bitOf pg (r.1 % 16) then f ||| r.2.2 else f) 0
    (a.setPair (fld w 25 22) pg ((rs.take 16).map (·.1)) ((rs.drop 16).map (·.1)) (pb + 2)).raise fl

/-- `VWID8`: bytes 0-31 of va, E4M3 or E5M2, to the pair vd (R181). -/
def execVwid8 (p : SpokeId) (s : State) : Out :=
  ok <| s.issueWiden p [4, 5] fun w v i => widen (if fld w 6 0 = 4 then e4m3 else e5m2) (slotN v i 1)

/-- `VWIDB`: 32 BF16 of va to the pair vd (R181). -/
def execVwidb (p : SpokeId) (s : State) : Out :=
  ok <| s.issueWiden p [6] fun _ v i => widen bf16 (half v i)

/-- `VF2I`: FP32 to INT32, saturating; NaN gives 0 (R181). -/
def execVf2i (p : SpokeId) (s : State) : Out :=
  ok <| s.issueV1 p 0x37 7 2 f32ToI

/-- `VI2F`: INT32 to FP32 (R181). -/
def execVi2f (p : SpokeId) (s : State) : Out :=
  ok <| s.issueV1 p 0x37 8 2 iToF32

/-! ### Moves and predicates (R179, R181) -/

/-- `VSPLAT`: all lanes ← xs (R181). -/
def execVsplat (p : SpokeId) (s : State) : Out :=
  ok <| s.issueOwn p { op := 0x38, fns := [0], zero := 0x0001FF80, srcs := fun w => [fld w 21 17], check := noCheck } fun pb a w =>
    a.setV (fld w 25 22) (ofLanes (List.replicate 16 (a.xr (fld w 21 17)))) 0xFFFF (pb + 1)

/-- `VINS`: the lane named ← xs (R181). -/
def execVins (p : SpokeId) (s : State) : Out :=
  ok <| s.issueOwn p { op := 0x38, fns := [1], zero := 0x00001F80, srcs := fun w => [fld w 21 17], check := noCheck } fun pb a w =>
    let bit : BitVec 16 := 1 <<< fld w 16 13
    a.setV (fld w 25 22) (mapLanes bit (a.vr (fld w 25 22)) fun _ => (a.xr (fld w 21 17), 0)).1 bit (pb + 1)

/-- `VMOVX`: xd ← the lane named (R181). -/
def execVmovx (p : SpokeId) (s : State) : Out :=
  ok <| s.issueOwn p { op := 0x38, fns := [2], zero := 0x00001F80, srcs := fun w => [32 + fld w 25 22], check := noCheck } fun pb a w =>
    a.setX (fld w 21 17) (lane (a.vr (fld w 25 22)) (fld w 16 13)) (pb + 2)

/-- A predicate operation of two sources. -/
def State.issuePred (s : State) (p fn unused : Nat) (f : BitVec 16 → BitVec 16 → BitVec 16) : State :=
  s.issueOwn p { op := 0x39, fns := [fn], zero := unused, srcs := fun w => [48 + fld w 20 18, 48 + fld w 16 14], check := noCheck }
    fun pb a w => a.setP (fld w 24 22) (f (a.pr (fld w 20 18)) (a.pr (fld w 16 14))) (pb + 1)

/-- `PAND`: pd ← pa and pb (R181). -/
def execPand (p : SpokeId) (s : State) : Out :=
  ok <| s.issuePred p 0 0x02223F80 (· &&& ·)

/-- `POR`: pd ← pa or pb (R181). -/
def execPor (p : SpokeId) (s : State) : Out :=
  ok <| s.issuePred p 1 0x02223F80 (· ||| ·)

/-- `PNOT`: pd ← not pa (R181). -/
def execPnot (p : SpokeId) (s : State) : Out :=
  ok <| s.issuePred p 2 0x0223FF80 fun a _ => ~~~a

/-- `PSET`: pd ← xs[15:0] (R181). -/
def execPset (p : SpokeId) (s : State) : Out :=
  ok <| s.issueOwn p { op := 0x39, fns := [3], zero := 0x0201FF80, srcs := fun w => [fld w 21 17], check := noCheck } fun pb a w =>
    a.setP (fld w 24 22) ((a.xr (fld w 21 17)).setWidth 16) (pb + 1)

/-- `PGET`: xd, in [21:17], ← pa, in [20:18], zero-extended; the two fields of R179 overlap (R181; log entry 12). -/
def execPget (p : SpokeId) (s : State) : Out :=
  ok <| s.issueOwn p { op := 0x39, fns := [4], zero := 0x03C1FF80, srcs := fun w => [48 + fld w 20 18], check := noCheck } fun pb a w =>
    a.setX (fld w 21 17) ((a.pr (fld w 20 18)).setWidth 32) (pb + 1)

/-! ### Runs and control (R188-R192, R200) -/

/-- Format X with the given function, unused bits and source registers. -/
def formX (fn unused : Nat) (srcs : Word32 → List Nat) (check : State → SpokeState → Word32 → Option (Nat × Nat × Nat)) : IssueForm :=
  { op := 0x3F, fns := [fn], zero := unused, srcs := srcs, check := check }

/-- imm10 of format X. -/
def imm10 (w : Word32) : Nat := fld w 15 6

/-- `NOP` of a spoke (R181). -/
def execSpokeNop (p : SpokeId) (s : State) : Out :=
  ok <| s.issueOwn p (formX 0 0x03FFFFC0 (fun _ => []) noCheck) fun _ a _ => a

/-- `TEND`: the run issues nothing more, and completes when its effects are in place (R188). -/
def execTend (p : SpokeId) (s : State) : Out :=
  ok <| s.issueOwn p (formX 1 0x03FFFFC0 (fun _ => []) noCheck) fun _ a _ => { a with tend := true }

/-- `UNTIL`: holds issue until the run's beat S + r2, or raises `UNTIL_LATE` (R190). -/
def execUntilTask (p : SpokeId) (s : State) : Out :=
  ok <| s.issueOwn p
    (formX 2 0x03E0FFC0 (fun w => [fld w 20 16]) fun s a w =>
      if a.runS + (a.xr (fld w 20 16)).toNat ≤ s.pbeat then some (0x05, 0, (a.xr (fld w 20 16)).toNat) else none)
    fun _ a w => { a with until_ := some (a.runS + (a.xr (fld w 20 16)).toNat) }

/-- `UNTIL_RELEASE`: the run's beat S + r2 has come, and issue resumes (R190). -/
def execUntilRelease (p : SpokeId) (s : State) : Out :=
  let a := s.spoke p
  match a.until_ with
  | some t => if s.runs && decide (t ≤ s.pbeat) then ok (s.setSpoke p { a with until_ := none, nextIssue := max t s.pbeat }) else ok s
  | none => ok s

/-- A task entry of a spoke (Table 6.6). -/
structure TaskEntry where
  start  : Nat
  budget : Nat
  period : Nat
  rep    : Nat
  entry  : Nat
  deriving DecidableEq, Repr

/-- Where the entry of a task lies (Table 6.6). -/
def State.taskPlace (s : State) (p i : Nat) : Nat := scratchBase p + 256 * fld (s.spoke p).layout 15 8 + 32 * i

def State.taskEntry (s : State) (p i : Nat) : TaskEntry :=
  let b := s.taskPlace p i
  let n (o k : Nat) : Nat := leNat (s.atStart.bytes (b + o) k)
  { start := n 0 8, budget := n 8 4, period := n 12 4, rep := n 16 4, entry := n 20 2 }

/-- The run after run `k` of task `i` (R186). -/
def State.runAfter (s : State) (p i k : Nat) : Option (Nat × Nat) :=
  if k + 1 < (s.taskEntry p i).rep then some (i, k + 1)
  else if i < fld (s.spoke p).layout 7 0 then some (i + 1, 0)
  else none

/-- `TASK_RUN_START`: in beat S the spoke sets x1, x2 and `PC`, and issues from then on (R186, R188). -/
def execTaskRunStart (p : SpokeId) (s : State) : Out :=
  let a := s.spoke p
  match a.nextRun with
  | some (i, k) =>
    let t := s.taskEntry p i
    let S := t.start + k * t.period
    if s.runs && a.active && (a.mode == 0 || a.mode == 2) && decide (S ≤ s.pbeat) then
      let a1 := (a.setX 1 (BitVec.ofNat 32 k) S).setX 2 (BitVec.ofNat 32 i) S
      ok ((s.countFetch (s.taskPlace p i) 32).setSpoke p
        { a1 with pc := BitVec.ofNat 32 t.entry, mode := 1, run := k, task := i, runS := S, runE := S + t.budget, tend := false,
                  until_ := none, nextIssue := S, nextRun := s.runAfter p i k })
    else ok s
  | none => ok s

/-- Every effect of a spoke's instructions is in place (R188). -/
def SpokeState.settled (a : SpokeState) (pb : Nat) : Bool :=
  a.stores.isEmpty && a.loads.isEmpty && a.record.isNone && (a.ready.all fun r => decide (r.2 ≤ pb)) &&
    (a.vready.all fun r => r.2.all fun t => decide (t ≤ pb))

/-- `RUN_COMPLETE`: after `TEND`, when every effect of the run is in place (R188, R201). -/
def execRunComplete (p : SpokeId) (s : State) : Out :=
  let a := s.spoke p
  if s.runs && a.mode == 1 && a.tend && a.settled s.pbeat && decide (s.pbeat < a.runE) then
    ok (s.setSpoke p { a with mode := if a.nextRun.isSome then 2 else 0, tend := false, ready := [], vready := [],
                              runBeats := a.runBeats + BitVec.ofNat 32 (s.runSpent p true),
                              idleBeats := a.idleBeats + BitVec.ofNat 32 (a.runE - 1 - s.pbeat) })
  else ok s

/-- `BUDGET_OVERRUN`: the run is not complete by the end of beat E - 1 (R189). -/
def execBudgetOverrun (p : SpokeId) (s : State) : Out :=
  let a := s.spoke p
  if s.runs && a.mode == 1 && decide (a.runE ≤ s.pbeat) then ok (s.spokeFault 0x04 p) else ok s

/-! ### Control registers (R200, Table 6.8) -/

/-- `POWER` of an array in this beat: a `FREEWHEEL` or `PARK` in force shows once its gated beats begin, and the waking beats follow
the last one unless another `FREEWHEEL` comes next (Table 3.9, R95, R124). A window that clock-gates the cells shows in the same way
(R163). -/
def State.arrayPower (s : State) (g : Nat) : Nat :=
  let a := s.array g
  let pb := s.pbeat
  let own :=
    match a.parkAt, a.gate with
    | some f, _ => if f + 16 ≤ pb ∧ a.power ≠ 2 then 1 else a.power.toNat
    | none, some (x, y) => if x ≤ pb ∧ (pb ≤ y ∨ s.staysGated g) then 1 else if y < pb then 3 else a.power.toNat
    | none, none => a.power.toNat
  match a.voidGate with
  | some (x, y) => if own = 0 ∧ x ≤ pb then (if pb ≤ y then 1 else 3) else own
  | none => own

/-- `ARRAY_STATE` (Table 3.9). -/
def State.arrayStateReg (s : State) (g : Nat) : Word32 :=
  let a := s.array g
  BitVec.ofNat 32 (s.arrayPower g + 16 * a.dummy + 256 * a.driven)

/-- `SP_TASK` (Table 6.8). -/
def SpokeState.taskReg (a : SpokeState) : Word32 :=
  BitVec.ofNat 32 (a.task % 256 + 256 * (a.run % 2 ^ 22) + 2 ^ 30 * a.mode.toNat)

/-- The control registers that exist (Table 6.8). -/
def csrKnown (i : Nat) : Bool := decide (i ≤ 8) || (decide (0x10 ≤ i) && decide (i ≤ 0x2F)) || (decide (0x40 ≤ i) && decide (i ≤ 0x5F))

/-- A control register that `CSRW` may write. -/
def csrWritable (i : Nat) : Bool := i == 7 || (decide (0x18 ≤ i) && decide (i ≤ 0x1F)) || (decide (0x40 ≤ i) && decide (i ≤ 0x5F))

/-- `XF_n_LO`: a low half that has been written and waits for its high half reads as it was written, else the router's (R7, R196). -/
def State.xfLow (s : State) (p n : Nat) : Word32 :=
  if (s.spoke p).xfWaits.contains n then SMap.get 0 (s.spoke p).xfLo n else lo32 ((s.router p).xferNow n s.sched)

/-- The value of a control register. -/
def State.csrValue (s : State) (p i : Nat) : Word32 :=
  let a := s.spoke p
  let g := 2048 * (p / 256) + 8 * (p % 256) + i % 8
  let b : Word64 := BitVec.ofNat 64 s.pbeat
  match i with
  | 0 => BitVec.ofNat 32 (4096 * s.ownPackage + 256 * (p / 256) + p % 256)
  | 1 => a.layout
  | 2 => lo32 b
  | 3 => a.pbeatHi
  | 4 => lo32 s.prog.seed
  | 5 => hi32 s.prog.seed
  | 6 => a.taskReg
  | 7 => a.fflags.setWidth 32
  | 8 => BitVec.ofNat 32 (a.inQ.length + 256 * a.outQ.length)
  | _ =>
    if i < 0x18 then s.arrayStateReg g
    else if i < 0x20 then (s.array g).flags.setWidth 32
    else if i < 0x28 then (s.array g).gatedRowBeats
    else if i < 0x30 then s.freewheelBeats g
    else if i % 2 = 0 then s.xfLow p ((i - 0x40) / 2)
    else SMap.get 0 a.xfHiLatch ((i - 0x40) / 2)

/-- `CSRR`: r1 ← the control register; reading a low half latches its high half (R49, R196, R200). -/
def execCsrr (p : SpokeId) (s : State) : Out :=
  ok <| s.issueSpoke p (formX 3 0x001F0000 (fun _ => []) (fieldCheck fun w => !csrKnown (imm10 w))) fun s1 w =>
    let i := imm10 w
    let a := s1.spoke p
    let a1 := a.setX (fld w 25 21) (s1.csrValue p i) (s1.pbeat + 2)
    let a2 : SpokeState :=
      if i = 2 then { a1 with pbeatHi := hi32 (BitVec.ofNat 64 s1.pbeat) }
      else if 0x40 ≤ i ∧ i % 2 = 0 then
        { a1 with xfHiLatch := SMap.set 0 a1.xfHiLatch ((i - 0x40) / 2) (hi32 ((s1.router p).xferNow ((i - 0x40) / 2) s1.sched)) }
      else a1
    s1.setSpoke p a2

/-- Reserved bits of a transfer register that `CSRW` writes (Table 4.17, R196). -/
def xferReserved (i : Nat) (v : Word32) : Bool := if i % 2 = 0 then fld v 13 0 != 0 else fld v 31 30 != 0

/-- `CSRW`: writes a control register: flags clear where the value has ones, and the high half of a transfer register takes
effect with the staged low half from the next beat (R196, R200). With no new low half since register n was last written, the one staged
last stands (DESIGN CHOICE, log entry 108: R196 is silent). -/
def execCsrw (p : SpokeId) (s : State) : Out :=
  ok <| s.issueSpoke p
    (formX 4 0x03E00000 (fun w => [fld w 20 16]) fun _ a w =>
      if !csrWritable (imm10 w) || (decide (0x40 ≤ imm10 w) && xferReserved (imm10 w) (a.xr (fld w 20 16))) then some (0x17, 0, 0) else none)
    fun s1 w =>
      let i := imm10 w
      let a := s1.spoke p
      let v := a.xr (fld w 20 16)
      if i = 7 then s1.setSpoke p { a with fflags := a.fflags &&& ~~~(v.setWidth 5) }
      else if i < 0x20 then
        let g := 2048 * (p.val / 256) + 8 * (p.val % 256) + i % 8
        s1.setArray g ((s1.array g).clearFlags s1.sched (v.setWidth 6))
      else
        let n := (i - 0x40) / 2
        if i % 2 = 0 then s1.setSpoke p { a with xfLo := SMap.set 0 a.xfLo n v, xfWaits := n :: a.xfWaits.filter (· != n) }
        else
          let r := s1.router p
          let x : Word64 := BitVec.ofNat 64 ((SMap.get 0 a.xfLo n).toNat + 2 ^ 32 * v.toNat)
          (s1.setRouter p { r with staged := (n, s1.sched, x) :: r.staged.filter fun y => !(y.1 == n && y.2.1 == s1.sched) }).setSpoke p
            { a with xfWaits := a.xfWaits.filter (· != n), xfHiLatch := SMap.set 0 a.xfHiLatch n v }

/-! ### Counters (R191, R192) -/

/-- `WAIT` of a spoke: samples its counter, holds issue for 16 beats, and raises a wait demand if the counter is short (R39,
R43, R45, R191). -/
def execSpokeWait (p : SpokeId) (s : State) : Out :=
  ok <| s.issueSpoke p
    (formX 8 0 (fun w => [fld w 25 21, fld w 20 16]) fun s a w =>
      let id := imm10 w
      let t := a.xr (fld w 25 21)
      let d := p.val / 256
      (firstFault [
        (decide (0x180 ≤ id) || a.xr (fld w 20 16) == 0, 0x17),
        (decide (id < 0x100) && !atOrAbove (s.counterValue d id) t, 0x01),
        (decide (0x120 ≤ id) && decide (id < 0x160) && s.abortCopyBit d (id - 0x120), 0x03)]).map fun c =>
          if c = 0x17 then (c, 0, 0) else (c, id, t.toNat))
    fun s1 w =>
      let a := s1.spoke p
      let id := imm10 w
      let t := a.xr (fld w 25 21)
      let s2 := s1.setSpoke p { a with nextIssue := s1.pbeat + 16 }
      if !atOrAbove (s1.counterValue (p.val / 256) id) t then
        let ws : WaitState := { unit := .spoke p, die := ⟨p.val / 256, by omega⟩, counter := id, target := t, heldLeft := (a.xr (fld w 20 16)).toNat, sampleWall := s1.wall }
        s2.setBeat { s2.beat with waits := s2.beat.waits ++ [ws] }
      else s2

/-- `SIGNAL` of a spoke: steps a signal counter by r1 (R120, R191, R192). -/
def execSpokeSignal (p : SpokeId) (s : State) : Out :=
  ok <| s.issueSpoke p
    (formX 9 0x001F0000 (fun w => [fld w 25 21]) fun _ a w =>
      let v := (a.xr (fld w 25 21)).toNat
      if 0x100 ≤ imm10 w ∨ v = 0 ∨ 65535 < v then some (0x17, 0, 0) else none)
    fun s1 w => s1.stepSignal (p.val / 256) (imm10 w) ((s1.spoke p).xr (fld w 25 21)).toNat

/-- `RDCNT`: r1 ← the signal counter's value (R122, R191, R192). -/
def execRdcnt (p : SpokeId) (s : State) : Out :=
  ok <| s.issueSpoke p (formX 0xA 0x001F0000 (fun _ => []) (fieldCheck fun w => decide (0x100 ≤ imm10 w))) fun s1 w =>
    s1.setSpoke p ((s1.spoke p).setX (fld w 25 21) (s1.counterValue (p.val / 256) (imm10 w)) (s1.pbeat + 2))

/-! ### Chainline queues, copies and collectives (R193-R199) -/

/-- The landing beat of a route write issued in beat `b`: the first later beat whose number agrees with the spoke's modulo 8
(R152). -/
def landingBeat (p b : Nat) : Nat := b + 1 + (p + 8 - (b + 1) % 8) % 8

/-- `RWR`: writes a vector register as a route record; it stalls until the beat after the last record has landed (R193). -/
def execRwr (p : SpokeId) (s : State) : Out :=
  let a := s.spoke p
  let waits := a.record.isSome || (match a.landed with | some b => decide (s.pbeat ≤ b) | none => false)
  if waits && spokeOp (s.spokeWord p) == some (0x3F, 0x10) then ok s
  else
    ok <| s.issueSpoke p (formX 0x10 0x021FFFC0 (fun w => [32 + fld w 24 21]) noCheck) fun s1 w =>
      let a := s1.spoke p
      s1.setSpoke p { a with record := some (landingBeat p s1.pbeat, a.vr (fld w 24 21)) }

/-- `QPUSH`: pushes a vector register as a line into the outbound queue (R195). -/
def execQpush (p : SpokeId) (s : State) : Out :=
  ok <| s.issueSpoke p
    (formX 0x12 0x021FFFC0 (fun w => [32 + fld w 24 21]) fun _ a _ => if 16 ≤ a.outQ.length then some (0x1A, 0, 0) else none)
    fun s1 w =>
      let a := s1.spoke p
      s1.setSpoke p { a with outQ := a.outQ ++ [({ data := a.vr (fld w 24 21), tag := 0, poison := 0 }, s1.pbeat + 1)] }

/-- `QPOP`: takes a line from the inbound queue into a vector register; a poisoned word is consumed (R195, R217). -/
def execQpop (p : SpokeId) (s : State) : Out :=
  ok <| s.issueSpoke p
    (formX 0x13 0x021FFFC0 (fun _ => []) fun s a _ =>
      match a.inQ with
      | (_, b) :: _ => if b ≤ s.pbeat then none else some (0x19, 0, 0)
      | [] => some (0x19, 0, 0))
    fun s1 w =>
      let a := s1.spoke p
      match a.inQ with
      | (f, _) :: rest =>
        let s2 := s1.setSpoke p { a.setV (fld w 24 21) f.data 0xFFFF (s1.pbeat + 2) with inQ := rest }
        if f.poison = 0 then s2
        else let (x, s3) := s2.draw; s3.poisonCheck 1 (p.val / 256) (p.val % 256) (x.toNat % 2 ^ 48)
      | [] => s1

/-- Put a post of spoke `p` into a queue: posts of one beat stand in ascending spoke number (R199). `key` gives the beat and the
spoke of a post. -/
def insertPost {α : Type} (key : α → Option (Nat × Nat)) (now p : Nat) (x : α) (q : List α) : List α :=
  let after (y : α) : Bool := match key y with | some (b, r) => b == now && decide (p < r) | none => false
  (q.takeWhile fun y => !after y) ++ x :: (q.dropWhile fun y => !after y)

/-- The spoke of the post that a full queue gives up for one of spoke `p`: the last one, if it came in the same beat from a spoke of
a higher number. -/
def outPosted {α : Type} (key : α → Option (Nat × Nat)) (now p : Nat) (q : List α) : Option Nat :=
  match q.getLast?.bind key with
  | some (b, r) => if b = now ∧ p < r then some r else none
  | none => none

/-- A spoke whose post of this beat found no place after all: `POST_FULL` at its instruction (R199). -/
def State.postFault (s : State) (p c : Nat) : State := s.faultInstr 0x1B p ((s.spoke p).pc - 4).toNat 0 c

/-- `CEPOST`: posts a descriptor chain to a copy-engine channel of the die (R197, R199). The chain runs under the channel's claimed
budget of the image (R238). A halted channel discards it (R249). -/
def execCepost (p : SpokeId) (s : State) : Out :=
  let q (s : State) (c : Nat) : List Chain := (s.channel c).queue
  let low := p.val % 256
  let base := 256 * (p.val / 256)
  ok <| s.issueSpoke p
    (formX 0x18 0x0000FFC0 (fun w => [fld w 25 21, fld w 25 21 + 1, fld w 20 16]) fun s a w =>
      let c := (a.xr (fld w 20 16)).toNat
      let n := 32 * (p.val / 256) + c
      if fld w 21 21 = 1 ∨ 32 ≤ c ∨ !(s.channel n).claimed then some (0x17, 0, 0)
      else if 8 ≤ (q s n).length ∧ (outPosted Chain.post s.sched low (q s n)).isNone then some (0x1B, 0, c)
      else none)
    fun s1 w =>
      let a := s1.spoke p
      let r := fld w 25 21
      let c := 32 * (p.val / 256) + (a.xr (fld w 20 16)).toNat
      let ch := s1.channel c
      let first : Word64 := BitVec.ofNat 64 ((a.xr r).toNat + 2 ^ 32 * (a.xr (r + 1)).toNat)
      let post : Chain := { first := first, budget := ch.claimBudget.toNat, owner := none, post := some (s1.sched, low) }
      if ch.state = 2 then s1
      else
        match (if 8 ≤ ch.queue.length then outPosted Chain.post s1.sched low ch.queue else none) with
        | some v => (s1.setChannel c { ch with queue := insertPost Chain.post s1.sched low post ch.queue.dropLast }).postFault (base + v) (c % 32)
        | none => s1.setChannel c { ch with queue := insertPost Chain.post s1.sched low post ch.queue }

/-- Posts of a die that its collective engine has not started: in the queue, and taken and checked (R199, R380). -/
def State.collPostCount (s : State) (d : Nat) : Nat :=
  (SMap.get [] s.collPosts d).length + ((s.engine (d / 2)).checked.filter fun c => c.1 == d).length

/-- `CLPOST`: posts an entry of the collective table to the engine of the die's lightplane die (R198, R199). -/
def execClpost (p : SpokeId) (s : State) : Out :=
  let d := p.val / 256
  let low := p.val % 256
  let key (x : Nat × Nat × Nat) : Option (Nat × Nat) := some x.2
  ok <| s.issueSpoke p
    (formX 0x19 0x001FFFC0 (fun w => [fld w 25 21]) fun s a w =>
      if 4096 ≤ (a.xr (fld w 25 21)).toNat then some (0x17, 0, 0)
      else if 16 ≤ s.collPostCount d ∧ (outPosted key s.sched low (SMap.get [] s.collPosts d)).isNone then some (0x1B, 0, 0)
      else none)
    fun s1 w =>
      let q := SMap.get [] s1.collPosts d
      let post := (((s1.spoke p).xr (fld w 25 21)).toNat, s1.sched, low)
      match (if 16 ≤ s1.collPostCount d then outPosted key s1.sched low q else none) with
      | some v => { s1 with collPosts := SMap.set [] s1.collPosts d (insertPost key s1.sched low post q.dropLast) }.postFault (256 * d + v) 0
      | none => { s1 with collPosts := SMap.set [] s1.collPosts d (insertPost key s1.sched low post q) }

end Sys2Proof.Machine
end

