-- ==== Sys2Proof/Machine/Derailleur.lean ====
section
/-! DEFINITION. The derailleur: triggers, phases, route records, assignment, sweeps and void windows (chapter 5). -/

namespace Sys2Proof.Machine

open Sys2Proof

/-- P of Table 5.2. -/
def LayerDesc.sweepBeats (y : LayerDesc) : Nat := max (ceil32 y.tok) (ceil32 y.slots)
/-- T_h of Table 5.2. -/
def LayerDesc.homes (y : LayerDesc) : Nat := if y.initHome then y.tok else 0
/-- P_c of Table 5.2. -/
def LayerDesc.combineBeats (y : LayerDesc) : Nat := max (ceil32 (y.slots + y.homes)) (ceil32 y.tok)

/-- Duration of a phase (Table 5.2). -/
def DerailleurState.duration (d : DerailleurState) (desc code : Nat) : Nat :=
  let y := layerDesc (SMap.get 0 d.desc desc)
  match code with
  | 1 => y.tok + 16 + (y.inLines + 1) * y.sweepBeats + ceil32 (d.bound y).length
  | 2 => ceil32 y.fills + 2
  | 3 => (y.outLines + 1) * y.combineBeats
  | _ => 0

/-! ### Triggers (R148, R149, R194) -/

/-- Start and end beats of the sweep phases running or triggered. -/
def DerailleurState.sweepPhases (d : DerailleurState) : List (Nat × Nat) :=
  (if d.phase = 0 then [] else [(d.phaseStart, d.phaseEnd)]) ++
    (d.triggers.filter fun t => t.2.1 != 0).map fun t => (t.2.2, t.2.2 + d.duration t.1 t.2.1)

/-- First beat and length of the assignments running or triggered. -/
def DerailleurState.assignments (d : DerailleurState) : List (Nat × Nat) :=
  let len (desc : Nat) : Nat := (layerDesc (SMap.get 0 d.desc desc)).tok + 16
  (if d.phase = 1 then [(d.phaseStart, len d.phaseDesc)] else []) ++
    (d.triggers.filter fun t => t.2.1 == 1).map fun t => (t.2.2, len t.1)

/-- The fault of a trigger issued in beat `b`. Where both faults apply `DR_BUSY` is the one raised (DESIGN CHOICE, log entry 81: R148 and
R149 give no order). -/
def DerailleurState.triggerFault (d0 : DerailleurState) (b desc code : Nat) : Option Nat :=
  let d := d0.settle b
  let f := b + 4
  firstFault [
    (d.lastTrigBeat == some b, 0x10),
    (code != 0 && d.sweepPhases.any fun x => decide (f < x.2), 0x10),
    (code == 0 && d.assignments.any fun x => decide (x.1 ≤ f) && decide (f < x.1 + x.2), 0x10),
    (code == 1 && d.collect != some desc, 0x11),
    (code == 2 && (layerDesc (SMap.get 0 d.desc desc)).fills == 0, 0x11),
    (code == 3 && d.lastDispatch != some desc, 0x11)]

/-- Issue a `DTRIG` with the given phase code; a fault names the spoke, as R194 says, where R172 would name the derailleur (DEDUCED, log
entry 83). -/
def State.issueTrigger (s : State) (p code : Nat) : State :=
  let w := s.spokeWord p
  let d := p / 256
  if spokeOp w == some (0x3F, 0x11) && fld w 15 14 != code then s
  else
    s.issueSpoke p
      (formX 0x11 0x03FF3000 (fun _ => []) fun s _ w => ((s.derailleur d).triggerFault s.pbeat (fld w 11 6) code).map fun c => (c, 0, 0))
      fun s1 w =>
        let y := s1.derailleur d
        s1.setDerailleur d { y with triggers := y.triggers ++ [(fld w 11 6, code, s1.pbeat + 4)], lastTrigBeat := some s1.pbeat,
                                    lastTrigger := BitVec.ofNat 8 (64 * code + fld w 11 6) }

/-- `DTRIG` with phase `OPEN` (R148). -/
def execDtrigOpen (p : SpokeId) (s : State) : Out := ok (s.issueTrigger p 0)

/-- `DTRIG` with phase `DISPATCH` (R148, R149). -/
def execDtrigDispatch (p : SpokeId) (s : State) : Out := ok (s.issueTrigger p 1)

/-- `DTRIG` with phase `VOID` (R148, R149, R161). -/
def execDtrigVoid (p : SpokeId) (s : State) : Out := ok (s.issueTrigger p 2)

/-- `DTRIG` with phase `COMBINE` (R148, R149, R166). -/
def execDtrigCombine (p : SpokeId) (s : State) : Out := ok (s.issueTrigger p 3)

/-! ### Phases (R147, R148, R161, R163) -/

/-- Fields of a void table entry (R162): expert, array, offset, length. -/
def voidEntry (w : Word64) : Nat × Nat × Nat × Nat := (fld w 63 51, fld w 50 40, fld w 39 20, fld w 19 0)

/-- The void table entries of a descriptor. -/
def voidEntries (y : LayerDesc) : List Nat := (List.range y.voidCount).map (y.voidFirst + ·)

/-- Put the windows of a `VOID` that starts in beat `v0` into the arrays, unarmed (R162, R164). -/
def State.installWindows (s : State) (die v0 : Nat) (entries : List Nat) : State :=
  entries.foldl (fun s e =>
    let (_, arr, off, len) := voidEntry (SMap.get 0 (s.derailleur die).voidTab e)
    let a := s.array (2048 * die + arr)
    s.setArray (2048 * die + arr) { a with windows := a.windows ++ [{ entry := e, first := v0 + off, len := len, armed := false }] }) s

/-- `DERAILLEUR_PHASE_START`: the phase of the oldest trigger begins, four beats after it (R148). -/
def execDerailleurPhaseStart (die : DieId) (s : State) : Out :=
  let d0 := s.derailleur die
  match d0.triggers with
  | (desc, code, f) :: rest =>
    if s.runs && decide (f ≤ s.pbeat) then
      let d := { d0.settle s.pbeat with triggers := rest }
      let y := layerDesc (SMap.get 0 d.desc desc)
      let run (ph : BitVec 3) : DerailleurState :=
        { d with phase := ph, phaseDesc := desc, phaseStart := f, phaseEnd := f + d.duration desc code, sweeps := [] }
      match code with
      | 0 => ok (s.setDerailleur die { d with route := [], collect := some desc })
      | 1 => ok (s.setDerailleur die { run 1 with collect := none, lastDispatch := some desc })
      | 2 =>
        let d1 := { run 3 with fillSum := [], sweeps := [{ kind := .voidIn, line := 0, start := f, count := y.fills }] }
        ok ((s.setDerailleur die d1).installWindows die f (voidEntries y))
      | _ => ok (s.setDerailleur die (run 4))
    else ok s
  | [] => ok s

/-! ### Route records (R151, R152) -/

/-- Choice word `k` of a route record. -/
def choiceWord (r : BitVec 512) (k : Nat) : Nat := slotN r (8 + 4 * k) 4
/-- Expert number and gate of a choice. -/
def choiceExpert (r : BitVec 512) (k : Nat) : Nat := nfld (choiceWord r k) 28 16
def choiceGate (r : BitVec 512) (k : Nat) : BitVec 16 := BitVec.ofNat 16 (choiceWord r k)
/-- Choices present. -/
def choices (r : BitVec 512) : Nat := slotN r 2 1

/-- Kind of a binding entry (Table 5.5). -/
def DerailleurState.kind (d : DerailleurState) (x : Nat) : Nat := slotN (SMap.get 0 d.binding x) 0 1

/-- The fault of a record as it lands (R152). Of several that apply the first of `ROUTE_LATE`, `ROUTE_TOKEN`, `ROUTE_FIELD` and
`ROUTE_EXPERT` is raised, in the order of R152's list (DESIGN CHOICE, log entry 81: the spec gives no order). -/
def DerailleurState.recordFault (d : DerailleurState) (r : BitVec 512) : Option Nat :=
  match d.collect with
  | none => some 0x12
  | some desc =>
    let y := layerDesc (SMap.get 0 d.desc desc)
    let t := slotN r 0 2
    let n := choices r
    firstFault [
      (decide (t < y.tokBase) || decide (y.tokBase + y.tok ≤ t) || (SMap.get? d.route (t - y.tokBase)).isSome, 0x13),
      (decide (8 < n) || nfld (slotN r 3 1) 7 2 != 0 || slotN r 4 4 != 0 || slotN r 40 24 != 0
        || (List.range 8).any fun k => if k < n then nfld (choiceWord r k) 31 29 != 0 else choiceWord r k != 0, 0x14),
      ((List.range n).any fun k =>
        let x := (choiceExpert r k + y.offset) % 8192
        decide (x < y.offset) || decide (y.offset + y.bind ≤ x) || d.kind x == 0, 0x15)]

/-- `ROUTE_LANDING`: a spoke's record lands in its landing beat (R152, R172). -/
def execRouteLanding (p : SpokeId) (s : State) : Out :=
  let a := s.spoke p
  let die := p.val / 256
  match a.record with
  | some (due, r) =>
    if s.runs && decide (due ≤ s.pbeat) then
      let s1 := s.setSpoke p { a with record := none, landed := some due }
      let d := s.derailleur die
      match d.recordFault r, d.collect with
      | some code, _ => ok (s1.raiseFault code 2 die 0 0)
      | none, some desc =>
        let y := layerDesc (SMap.get 0 d.desc desc)
        ok (s1.setDerailleur die { d with route := SMap.insert d.route (slotN r 0 2 - y.tokBase) r })
      | none, none => ok s1
    else ok s
  | none => ok s

/-! ### Assignment (R153-R158) -/

/-- This die's quota of an expert (R154, R155). -/
def DerailleurState.quotaOf (d : DerailleurState) (die x : Nat) : Nat :=
  let b := SMap.get 0 d.binding x
  if slotN b 0 1 = 0 then 0
  else if slotN b 2 1 = 0 then 2 ^ slotN b 1 1 / 8
  else slotN (SMap.get 0 d.quota (slotN b 2 1)) (2 * die) 2

/-- What assignment has done so far: slots used of each expert, the ledger, and the counts of Table 5.11. -/
structure Assign where
  used     : SMap Nat
  ledger   : SMap Placement
  active   : Nat := 0
  direct   : Nat := 0
  reserve  : Nat := 0
  overflow : Nat := 0
  dropped  : Nat := 0
  deriving DecidableEq, Repr

/-- What one token has done so far: reserves used, and the experts its placed choices name. -/
structure TokenRun where
  res   : List Nat
  named : List Nat
  deriving DecidableEq, Repr

/-- An expert has a free slot on this die. -/
def DerailleurState.free (d : DerailleurState) (die : Nat) (a : Assign) (x : Nat) : Bool :=
  decide (SMap.get 0 a.used x < d.quotaOf die x)

/-- Place token index `t`, rank `k`, in the next free slot of expert `x`. -/
def DerailleurState.place (d : DerailleurState) (a : Assign) (t k x : Nat) (gate : BitVec 16) : Assign :=
  let u := SMap.get 0 a.used x
  { a with used := SMap.set 0 a.used x (u + 1),
           ledger := SMap.insert a.ledger (8 * t + k) { pos := slotN (SMap.get 0 d.binding x) 4 2 + u, gate := gate } }

/-- One active choice (R156, Table 5.6). -/
def DerailleurState.choose (d : DerailleurState) (die : Nat) (y : LayerDesc) (t : Nat) (r : BitVec 512) (st : Assign × TokenRun)
    (k : Nat) : Assign × TokenRun :=
  let entry (j : Nat) : Nat := (choiceExpert r j + y.offset) % 8192
  let x := entry k
  let a : Assign := { st.1 with active := st.1.active + 1 }
  let u := st.2
  if d.free die a x then
    (d.place { a with direct := a.direct + 1 } t k x (choiceGate r k), { u with named := x :: u.named })
  else
    match y.policy with
    | 1 =>
      let fits (j : Nat) : Bool := decide (y.kActive ≤ j) && !u.res.contains j && d.free die a (entry j) && !u.named.contains (entry j)
      match (List.range (choices r)).find? fits with
      | some j => (d.place { a with reserve := a.reserve + 1 } t k (entry j) (choiceGate r j), { res := j :: u.res, named := entry j :: u.named })
      | none => ({ a with dropped := a.dropped + 1 }, u)
    | 2 =>
      let x2 := y.overflow % 8192
      if d.free die a x2 then
        (d.place { a with overflow := a.overflow + 1 } t k x2 (choiceGate r k), { u with named := x2 :: u.named })
      else ({ a with dropped := a.dropped + 1 }, u)
    | _ => ({ a with dropped := a.dropped + 1 }, u)

/-- A token is masked in this dispatch (R153). -/
def tokenMasked (d : DerailleurState) (y : LayerDesc) (exits : List Nat) (t : Nat) : Bool :=
  exits.contains (exitIndex y t) || (match SMap.get? d.route t with | some r => nbit (slotN r 3 1) 0 | none => false)

/-- The whole assignment of a dispatch (R153, R156, R157, R173). -/
def DerailleurState.assign (d : DerailleurState) (die : Nat) (y : LayerDesc) : DerailleurState :=
  let toks := List.range y.tok
  let flagged (b : Nat) : List Nat := toks.filter fun t => match SMap.get? d.route t with | some r => nbit (slotN r 3 1) b | none => false
  let old := if y.clearExit then [] else d.exits
  let exits := old ++ ((flagged 1).map (exitIndex y)).filter fun x => !old.contains x
  let a := toks.foldl (fun a t =>
    match SMap.get? d.route t with
    | some r =>
      if tokenMasked d y exits t then a
      else ((List.range (min (choices r) y.kActive)).foldl (fun st k => d.choose die y t r st k) (a, { res := [], named := [] })).1
    | none => a) { used := [], ledger := [] }
  let placed := a.direct + a.reserve + a.overflow
  let present := (toks.filter fun t => (SMap.get? d.route t).isSome).length
  let counts := [(1, present), (2, y.tok - present), (3, (toks.filter fun t => tokenMasked d y exits t).length), (4, a.active),
    (5, a.direct), (6, a.reserve), (7, a.overflow), (8, a.dropped), (9, placed), (10, y.slots - placed)]
  let d1 : DerailleurState := { d with exits := exits, skips := flagged 0, ledger := a.ledger, filled := a.used }
  counts.foldl (fun d c => d.count d.phaseDesc c.1 c.2) d1

/-- `ASSIGNMENT`: in the first T + 16 beats of `DISPATCH` every choice is placed; the result stands at their end (R156,
R158). -/
def execAssignment (die : DieId) (s : State) : Out :=
  let d := s.derailleur die
  let y := d.layer
  if s.runs && d.phase == 1 && decide (d.phaseStart + y.tok + 15 ≤ s.pbeat) then
    ok (s.setDerailleur die { d.assign die y with phase := 2 })
  else ok s

/-! ### Sweeps (R159, R160, R166) -/

/-- Register a sweep once, in its first beat, dropping those that are over. -/
def State.startSweep (s : State) (die : Nat) (w : Sweep) : State :=
  let d := s.derailleur die
  if s.runs && decide (w.start ≤ s.pbeat) && !(d.sweeps.contains w) then
    s.setDerailleur die { d with sweeps := (d.sweeps.filter fun x => decide (s.pbeat < x.start + ceil32 x.count)) ++ [w] }
  else s

/-- First beat after assignment. -/
def DerailleurState.s0 (d : DerailleurState) : Nat := d.phaseStart + d.layer.tok + 16

/-- `DISPATCH_SWEEP`: the in-sweep or the out-sweep of line ℓ of a dispatch starts (R159). -/
def execDispatchSweep (die : DieId) (out : Bool) (line : Nat) (s : State) : Out :=
  let d := s.derailleur die
  let y := d.layer
  if d.phase == 2 && decide (line < y.inLines) then
    ok (s.startSweep die { kind := if out then .dispatchOut else .dispatchIn, line := line,
                           start := d.s0 + (line + out.toNat) * y.sweepBeats, count := if out then y.slots else y.tok })
  else ok s

/-- `FILL_SWEEP`: the out-sweep of the fill flits starts after the last data out-sweep (R160). -/
def execFillSweep (die : DieId) (s : State) : Out :=
  let d := s.derailleur die
  let y := d.layer
  if d.phase == 2 then
    ok (s.startSweep die { kind := .fillOut, line := 0, start := d.s0 + (y.inLines + 1) * y.sweepBeats, count := (d.bound y).length })
  else ok s

/-- `COMBINE_SWEEP`: the in-sweep or the out-sweep of output line ℓ starts; the sums of an out-sweep's first beat are checked with it
(R166, R167, R217). -/
def execCombineSweep (die : DieId) (out : Bool) (line : Nat) (s : State) : Out :=
  let d := s.derailleur die
  let y := d.layer
  if d.phase == 4 && decide (line < y.outLines) then
    let w : Sweep := { kind := if out then .combineOut else .combineIn, line := line,
                       start := d.phaseStart + (line + out.toNat) * y.combineBeats, count := if out then y.tok else y.slots + y.homes }
    let s1 := s.startSweep die w
    ok (if out && decide (w.start ≤ s.pbeat) && !d.sweeps.contains w then s1.combineCheck die else s1)
  else ok s

/-! ### Void windows (R161, R163) -/

/-- `VOID_ARMING`: at the end of the last beat of `VOID` each entry of the descriptor becomes armed if its expert received no
token, and unarmed otherwise. Entries outside the descriptor's range keep what an earlier `VOID` made them: arming is replaced entry by
entry (DESIGN CHOICE, log entry 82) (R161, R173). -/
def execVoidArming (die : DieId) (s : State) : Out :=
  let d := s.derailleur die
  let y := d.layer
  if s.runs && d.phase == 3 && decide (d.phaseEnd ≤ s.pbeat + 1) then
    let homed := (d.bound y).filter fun x =>
      d.kind x == 1 && slotN (SMap.get 0 d.binding x) 3 1 % 8 == die.val && nbit (slotN (SMap.get 0 d.binding x) 3 1) 3
    let voided := homed.filter fun x => SMap.get 0 d.fillSum x == 0
    let entries := voidEntries y
    let fields (e : Nat) : Nat × Nat × Nat × Nat := voidEntry (SMap.get 0 d.voidTab e)
    let arms (e : Nat) : Bool := voided.contains (fields e).1
    let gated := (entries.filter fun e => arms e && decide (33 ≤ (fields e).2.2.2)).foldl (fun n e => n + ((fields e).2.2.2 - 20)) 0
    let c := 16 * d.phaseDesc
    let beats := (SMap.get 0 d.counters (c + 12)).toNat + 2 ^ 32 * (SMap.get 0 d.counters (c + 13)).toNat + gated
    let d1 := d.count d.phaseDesc 11 voided.length
    let d2 : DerailleurState := { d1 with
      counters := SMap.set 0 (SMap.set 0 d1.counters (c + 12) (BitVec.ofNat 32 beats)) (c + 13) (BitVec.ofNat 32 (beats / 2 ^ 32))
      armed := (d1.armed.filter fun e => !entries.contains e) ++ entries.filter arms
      phase := 0
      sweeps := [] }
    let s1 := s.setDerailleur die d2
    ok (entries.foldl (fun s e =>
      let (_, arr, off, _) := fields e
      let a := s.array (2048 * die + arr)
      let first := d.phaseStart + off
      let keep := a.windows.filter fun w => w.entry != e || w.first == first
      s.setArray (2048 * die + arr) { a with windows := keep.map fun w => if w.entry = e then { w with armed := arms e } else w }) s1)
  else ok s

end Sys2Proof.Machine
end

