-- ==== Sys2Proof/Machine/Registers.lean ====
section
/-! DEFINITION. The register blocks: what each register reads as (Tables 2.5, 3.9, 4.2, 4.17, 5.10, 5.11, 6.9, 7.7, 7.8, 8.6, 9.10,
10.13, 10.14, 11.10, 12.7, 13.8, 14.2, 14.9, 15.7, 16.6, 16.7), and reads and writes of them. -/

namespace Sys2Proof.Machine

open Sys2Proof

/-- A word from fields: value and low bit. -/
def pack (fs : List (Nat × Nat)) : Word32 := BitVec.ofNat 32 ((fs.map fun f => f.1 * 2 ^ f.2).sum)

/-- Half of a 64-bit register at an offset from its `_LO`. -/
def half64 (w : Word64) (hi : Bool) : Word32 := if hi then hi32 w else lo32 w

/-! ### Compute dies -/

/-- Beat status block (Table 2.5). -/
def State.beatWord (s : State) (off : Nat) : Word32 :=
  let b := s.beat
  match off with
  | 0x00 => lo32 b.schedBeat | 0x04 => hi32 b.schedBeat
  | 0x08 => lo32 b.wallBeat | 0x0C => hi32 b.wallBeat
  | 0x10 => pack [(bit1 b.held, 0), (bit1 b.causeWait, 1), (bit1 b.causeBrake, 2), (bit1 b.causeShift, 3), (bit1 b.causeHub, 4), (bit1 b.faultHold, 5)]
  | 0x14 => pack [(s.brakeAt s.wall, 0), (b.gear.toNat, 4)]
  | 0x20 => lo32 b.heldWait | 0x24 => hi32 b.heldWait
  | 0x28 => lo32 b.heldBrake | 0x2C => hi32 b.heldBrake
  | 0x30 => lo32 b.heldShift | 0x34 => hi32 b.heldShift
  | 0x38 => lo32 b.heldHub | 0x3C => hi32 b.heldHub
  | _ => 0

/-- Array status block (Table 3.9). -/
def State.arrayWord (s : State) (g off : Nat) : Word32 :=
  let a := s.array g
  match off with
  | 0x0 => s.arrayStateReg g
  | 0x4 => pack [(a.flags.toNat, 0)]
  | 0x8 => a.gatedRowBeats
  | 0xC => s.freewheelBeats g
  | _ => 0

/-- Sequencer block (Table 4.2): a word that holds the issue port stays at it, in held beats too (R35, R105). -/
def State.seqWord (s : State) (g off : Nat) : Word32 :=
  let a := s.array g
  match off with
  | 0x0 => pack [((if s.prog.running && decide (s.pbeat < a.issueFree) then a.portPc else a.pc) % 1024, 0), (a.loops.length, 10), (a.seqState.toNat, 13)]
  | 0x4 => pack [(a.abase.toNat, 0)]
  | 0x8 => pack [(a.vbase.toNat, 0)]
  | 0xC => pack [(a.size.toNat, 0), (a.leader.toNat, 16)]
  | _ => 0

/-- Router block (Table 4.17). -/
def State.routerWord (s : State) (r off : Nat) : Word32 :=
  let x := s.router r
  if off < 0x800 then half64 (SMap.get 0 x.slots (off / 8)) (off % 8 == 4)
  else if off < 0x880 then half64 (x.xferNow ((off - 0x800) / 8) s.sched) (off % 8 == 4)
  else if off = 0x880 then pack [(x.period.toNat, 0)]
  else 0

/-- Derailleur block (Tables 5.10, 5.11): a phase whose last beat has passed is over, and its dispatch counted. While `PHASE` is idle `DESC`
keeps the last phase's descriptor (DESIGN CHOICE, log entry 105: R173 gives it for the running phase only). -/
def State.derailleurWord (s : State) (d off : Nat) : Word32 :=
  let x := if s.prog.running then (s.derailleur d).settle s.pbeat else s.derailleur d
  if off = 0 then
    pack [(x.phaseDesc % 64, 0), (x.phase.toNat, 10), (bit1 x.collect.isSome, 13), (x.collect.getD 0 % 64, 14)]
  else if off = 4 then pack [(x.lastTrigger.toNat, 0)]
  else if off = 8 then pack [(x.exits.length, 0)]
  else if 0x1000 ≤ off ∧ off < 0x2000 then SMap.get 0 x.counters ((off - 0x1000) / 4)
  else 0

/-- Spoke status block (Table 6.9). -/
def State.spokeBlock (s : State) (p off : Nat) : Word32 :=
  let a := s.spoke p
  match off with
  | 0x0 => a.taskReg
  | 0x4 => pack [(a.pc.toNat % 65536, 0)]
  | 0x8 => a.runBeats + BitVec.ofNat 32 (s.runSpent p false)
  | 0xC => a.idleBeats
  | _ => 0

/-- Memory block (Table 7.7). -/
def State.memoryWord (s : State) (d off : Nat) : Word32 :=
  let m := s.dmem d
  let addr := m.vltUeAddr.getD 0
  match off with
  | 0x00 => pack [(if s.running then s.prog.plan.toNat else 0, 0), (m.refresh.toNat, 2), (bit1 (!s.running), 4)]
  | 0x04 => pack [(m.temp.toNat, 0), (m.tstate.toNat, 16)]
  | 0x08 => m.vltCe
  | 0x0C => m.vltUe
  | 0x10 => BitVec.ofNat 32 addr
  | 0x14 => pack [(addr / 2 ^ 32 % 65536, 0)]
  | 0x18 => pack [(min 65535 ((List.range 2048).foldl (fun n g => max n (s.vaultDebt (2048 * d + g))) 0), 0)]
  | 0x1C => pack [((s.vault (2048 * d)).scrubLine.toNat, 0)]
  | 0x20 => pack [(m.spareCols.toNat, 0), (m.spareRows.toNat, 16)]
  | 0x24 => m.t0Ce
  | 0x28 => m.t0Ue
  | _ => 0

/-- Stack block (Table 7.8). -/
def State.stackWord (s : State) (t off : Nat) : Word32 :=
  let x := s.stk t
  let addr := x.ueAddr.getD 0
  match off with
  | 0x00 => pack [(x.state.toNat, 0), (if t < 16 then 0 else 1, 2), (x.rate.toNat, 16)]
  | 0x04 => pack [(x.temp.toNat, 0)]
  | 0x08 => x.ce
  | 0x0C => x.ue
  | 0x10 => BitVec.ofNat 32 addr
  | 0x14 => pack [(addr / 2 ^ 32 % 64, 0)]
  | 0x18 => x.rowHit
  | 0x1C => x.rowMiss
  | 0x20 => x.retry
  | 0x24 => pack [(x.soft.toNat, 0), (x.hard.toNat, 16)]
  | _ => 0

/-- Channel block (Table 8.6). -/
def State.channelWord (s : State) (c off : Nat) : Word32 :=
  let x := s.channel c
  match off with
  | 0x00 => pack [(x.state.toNat, 0), (bit1 (x.claimed && s.running), 3), (x.halt.toNat, 4), (x.queue.length, 8), (x.lastStatus.toNat, 16)]
  | 0x04 => lo32 x.desc
  | 0x08 => hi32 x.desc
  | 0x0C => x.count
  | 0x10 => pack [(x.budget.toNat, 0)]
  | 0x14 => x.chain
  | 0x18 => x.bad
  | 0x1C => lo32 x.bytes
  | 0x20 => hi32 x.bytes
  | _ => 0

/-- Link block (Table 9.10). -/
def State.linkWord (s : State) (e off : Nat) : Word32 :=
  let x := s.linkEnd e
  match off with
  | 0x00 => pack [(x.state.toNat, 0), (x.mode.toNat, 4), (x.cause.toNat, 8), (x.link.toNat, 16)]
  | 0x04 => lo32 x.capOwn
  | 0x08 => hi32 x.capOwn
  | 0x0C => lo32 x.capPeer
  | 0x10 => hi32 x.capPeer
  | 0x14 => x.crcFail
  | 0x18 => x.replay
  | 0x1C => x.ue
  | 0x20 => x.holdFix
  | 0x24 => x.reqErr
  | 0x28 => pack [(x.repairLane.toNat, 0), (x.repairFuse.toNat, 16)]
  | _ => 0

/-! ### Lightplane dies -/

/-- Port block (Table 10.13). A receiver whose input is not terminated sees no light (R288). -/
def State.portWord (s : State) (f off : Nat) : Word32 :=
  let p := s.port f
  if off = 0 then pack [(p.state.toNat, 0), (p.step.toNat, 4), (bit1 (s.portEnabled f), 7)]
  else if off = 4 then p.downs
  else if 0x40 ≤ off ∧ off < 0x240 then
    let w := (off - 0x40) / 0x20
    let x := s.wave f w
    match (off - 0x40) % 0x20 with
    | 0x00 =>
      let dark := x.align != 0 && !s.terminated f w
      pack [(if dark then 0 else x.align.toNat, 0), (bit1 (s.steered f w), 4), (bit1 x.faulty, 5), (if dark then 0x8000 else x.rxPower.toNat, 16)]
    | 0x04 => x.cwCorr
    | 0x08 => x.cwUncorr
    | 0x0C => x.symCorr
    | 0x10 => x.frameErr
    | 0x14 => x.bursts
    | 0x18 => x.burstLost
    | 0x1C => pack [(x.arrMin.toNat, 0), (x.arrMax.toNat, 16)]
    | _ => 0
  else 0

/-- Rings of die k that satisfy a test. -/
def State.countRings (s : State) (k : Nat) (f : RingState → Bool) : Nat := ((List.range 844).filter fun r => f (s.ring k r)).length

/-- Lightplane block (Table 10.14). -/
def State.lightplaneWord (s : State) (k off : Nat) : Word32 :=
  if off = 0 then
    let b (m : Nat) (f : LaserState → Bool) : Nat := bit1 (f (s.laser (2 * k + m)))
    pack [(b 0 (·.req), 0), (b 1 (·.req), 1), (b 0 (·.ok), 2), (b 1 (·.ok), 3), (b 0 (·.fault), 4), (b 1 (·.fault), 5), (bit1 s.power.interlockLow, 6)]
  else if off = 4 then
    pack [(s.countRings k fun x => x.state == 3, 0), (s.countRings k (·.coast), 10), (s.countRings k fun x => x.state == 2, 20)]
  else if 0x1000 ≤ off ∧ off < 0x1000 + 4 * 844 then
    let x := s.ring k ((off - 0x1000) / 4)
    pack [(x.heater.toNat, 0), (x.error.toNat, 12), (x.tone.toNat, 22), (bit1 x.invalid, 28), (bit1 x.coast, 29), (x.state.toNat, 30)]
  else 0

/-- Fabric block (Table 11.10). -/
def State.fabricWord (s : State) (k off : Nat) : Word32 :=
  let b := s.fab k
  let issuer (i : Nat) : Word32 := let x := SMap.get {} b.issuers i; pack [(x.queue.length, 0), (x.out.length, 8)]
  if off = 0 then pack [(bit1 s.torus, 4), (bit1 s.mach.locked, 5), (if s.drained then 2 else bit1 s.hub.stopped, 6)]
  else if 0x40 ≤ off ∧ off < 0x50 then BitVec.ofInt 32 (s.accrued k ((off - 0x40) / 4)).1
  else if 0x100 ≤ off ∧ off < 0x300 then
    let i := (off - 0x100) / 4
    let x := SMap.get {} b.fifos i
    pack [(s.fifoLevel (8 * k + i / 16) (i % 16), 0), (bit1 x.flush, 30), (bit1 x.underrun, 31)]
  else
    match off with
    | 0x04 => b.pktLost | 0x08 => b.pktBad | 0x0C => b.cutCnt | 0x10 => b.mcDrop | 0x14 => b.replyLate
    | 0x18 => b.timeout | 0x1C => b.errReply | 0x20 => b.unreach | 0x24 => b.flushed
    | 0x80 => issuer 0 | 0x84 => issuer 1
    | _ => 0

/-- Machine block (Table 12.7). -/
def State.machineWord (s : State) (off : Nat) : Word32 :=
  let m := s.mach
  if 0x40 ≤ off ∧ off < 0x1C0 then
    let n := s.nbr ((off - 0x40) / 16)
    match off % 16 with
    | 0 => lo32 n.serial
    | 4 => hi32 n.serial
    | 8 => pack [(n.package.toNat, 0), (bit1 n.numbered, 15), (n.port.toNat, 16), (n.cause.toNat, 27), (n.state.toNat, 30)]
    | _ => n.delay
  else
    match off with
    | 0x00 => BitVec.ofNat 32 (s.setting 0x0601)
    | 0x04 => pack [(s.peloton, 0), (if s.bound then s.keyN 0x0600 2 1 % 4 else 0, 29), (bit1 s.bound, 31)]
    | 0x08 => lo32 Config.serial
    | 0x0C => hi32 Config.serial
    | 0x10 => pack [(bit1 m.locked, 0), (bit1 m.holdover, 1), (bit1 m.root, 2), (m.parent.toNat, 8), (m.stratum.toNat, 16)]
    | 0x14 => m.offset
    | 0x18 => BitVec.ofNat 32 s.cadNs
    | 0x1C => BitVec.ofNat 32 (s.cadNs / 2 ^ 32)
    | 0x20 => m.steps
    | 0x24 => m.quar
    | _ => 0

/-- Collective block (Table 13.8). -/
def State.collectiveWord (s : State) (k off : Nat) : Word32 :=
  let e := s.engine k
  match off with
  | 0x00 => pack [((SMap.get [] s.collPosts (2 * k)).length + (SMap.get [] s.collPosts (2 * k + 1)).length + e.checked.length, 0), (e.open_.length, 16)]
  | 0x04 => pack [(e.store, 0)]
  | 0x08 => pack [(s.epoch, 0)]
  | 0x0C => e.started
  | 0x10 => e.closed
  | 0x14 => e.aborted
  | 0x18 => e.dropGen
  | 0x1C => e.dropEpoch
  | 0x20 => e.dropAge
  | 0x24 => e.dropPel
  | 0x28 => e.poison
  | 0x2C => e.lastAbort
  | 0x30 => lo32 e.abortT
  | 0x34 => hi32 e.abortT
  | _ => 0

/-- Counters of a die: the copies of identifiers 0 to 0x17F, then the abort flags (Table 14.9). -/
def State.counterWord (s : State) (d off : Nat) : Word32 :=
  if off < 0x600 then s.counterCopy d (off / 4) else half64 (s.dieCounters d).abortCopy (off % 8 == 4)

/-! ### Power and thermal blocks (Tables 15.7, 16.6, 16.7) -/

/-- Rail block. -/
def State.railWord (s : State) (n off : Nat) : Word32 :=
  let x := SMap.get {} s.power.rails n
  match off with
  | 0x0 => pack [(if n = 0 then 2 * bit1 s.power.vaoGood else x.state.toNat, 0), (bit1 (if n = 0 then s.power.vaoGood else x.en), 2), (bit1 (if n = 0 then s.power.vaoGood else x.pg), 3), (bit1 x.busErr, 4), (x.setMv.toNat, 16)]
  | 0x4 => pack [(x.vout.toNat, 0)]
  | 0x8 => pack [(x.iout.toNat, 0)]
  | 0xC => x.faults
  | _ => 0

/-- Sensor block. -/
def State.sensorWord (s : State) (n off : Nat) : Word32 :=
  let x := SMap.get {} s.therm.sensors n
  match off with
  | 0x0 => pack [(x.effective.toNat, 0), (x.filtered.toNat, 16)]
  | 0x4 => pack [(bit1 (x.samples.length == 8), 0), (bit1 x.suspect, 1), (x.cause.toNat, 2), (x.samples.length, 12)]
  | 0x8 => x.suspects
  | 0xC => pack [(x.min.toNat, 0), (x.max.toNat, 16)]
  | _ => 0

/-- The mean of numbers, to one unit of the next place (log entry 3). -/
def meanOf (sum : Int) (n : Nat) : Int :=
  if n = 0 then 0
  else sum.fdiv (Int.ofNat n) + (if sum.fmod (Int.ofNat n) ≠ 0 ∧ Config.meanUp sum n then 1 else 0)

/-- Whole W of a sum of `n` samples in 0.1 mW. -/
def meanWatts (sum n : Nat) : Nat := (meanOf (Int.ofNat sum) (10000 * n)).toNat

/-- Some part is in a throttle state or beyond (R462). -/
def State.throttled (s : State) : Bool :=
  ((List.range 8).any fun d => fld s.therm.logic (2 * d + 1) (2 * d) != 0 || decide (2 ≤ (s.dmem d).tstate.toNat)) ||
  ((List.range 32).any fun t => (s.stk t).limit != 0) || ((List.range 8).any fun n => fld s.therm.thermistor (2 * n + 1) (2 * n) != 0)

/-- Power-management block. -/
def State.pmWord (s : State) (off : Nat) : Word32 :=
  let t := s.therm
  match off with
  | 0x00 => pack [(bit1 t.overLimit, 0), (bit1 s.throttled, 1), (s.setting 0x0280 % 4, 2), (s.beat.gear.toNat, 4), (t.brake, 16), (t.nThermal.toNat, 24), (t.nPower.toNat, 28)]
  | 0x04 => pack [(meanWatts (t.power.headD 0) 1, 0), (meanWatts t.power.sum t.power.length, 16)]
  | 0x08 => pack [(s.setting 0x0200 % 65536, 0)]
  | 0x0C => pack [(t.logic.toNat, 0), (t.ring.toNat, 16)]
  | 0x10 => BitVec.ofNat 32 (t.energyUj / 1000000)
  | 0x14 => BitVec.ofNat 32 (t.energyUj / 1000000 / 2 ^ 32)
  | 0x18 => t.brakeChg
  | 0x1C => t.gearChg
  | _ => 0

/-! ### All blocks (Table 14.9) -/

/-- Instances of a class, and the bytes of its body. -/
def classInfo (cls : Nat) : Option (Nat × Nat) :=
  match cls with
  | 0x01 => some (8, 64) | 0x02 => some (16384, 16) | 0x03 => some (16384, 16) | 0x04 => some (2048, 2304)
  | 0x05 => some (8, 8192) | 0x06 => some (2048, 16) | 0x07 => some (8, 64) | 0x08 => some (32, 64)
  | 0x09 => some (256, 64) | 0x0A => some (36, 64) | 0x0B => some (32, 576) | 0x0C => some (4, 7472)
  | 0x0D => some (4, 768) | 0x0E => some (1, 448) | 0x0F => some (4, 64) | 0x10 => some (8, 1544)
  | 0x20 => some (26, 16) | 0x28 => some (232, 16) | 0x29 => some (1, 48)
  | _ => none

/-- The word at an offset of a block. -/
def State.blockWord (s : State) (cls inst off : Nat) : Word32 :=
  match cls with
  | 0x01 => s.beatWord off
  | 0x02 => s.arrayWord inst off
  | 0x03 => s.seqWord inst off
  | 0x04 => s.routerWord inst off
  | 0x05 => s.derailleurWord inst off
  | 0x06 => s.spokeBlock inst off
  | 0x07 => s.memoryWord inst off
  | 0x08 => s.stackWord inst off
  | 0x09 => s.channelWord inst off
  | 0x0A => s.linkWord inst off
  | 0x0B => s.portWord inst off
  | 0x0C => s.lightplaneWord inst off
  | 0x0D => s.fabricWord inst off
  | 0x0E => s.machineWord off
  | 0x0F => s.collectiveWord inst off
  | 0x10 => s.counterWord inst off
  | 0x20 => s.railWord inst off
  | 0x28 => s.sensorWord inst off
  | 0x29 => s.pmWord off
  | _ => 0

/-- Offsets of the `_LO` registers of a class whose `_HI` a read latches (R49, R232, R372, R469). -/
def loOffsets (cls : Nat) : List Nat :=
  match cls with
  | 0x01 => [0x00, 0x08, 0x20, 0x28, 0x30, 0x38]
  | 0x05 => (List.range 64).map fun n => 0x1030 + 64 * n
  | 0x07 => [0x10]
  | 0x08 => [0x10]
  | 0x09 => [0x04, 0x1C]
  | 0x0A => [0x04, 0x0C]
  | 0x0E => [0x08, 0x18] ++ (List.range 24).map fun p => 0x40 + 16 * p
  | 0x0F => [0x30]
  | 0x29 => [0x10]
  | _ => []

/-- The key of the latch of the `_LO` register at an offset. -/
def latchKey (cls inst off : Nat) : Nat := (cls * 16384 + inst) * 8192 + off

/-- Read a register of a block: a `_LO` register latches its `_HI`, and a `_HI` register reads as it was latched (R49). -/
def State.readReg (s : State) (cls inst off : Nat) : Word32 × State :=
  if (loOffsets cls).contains off then
    (s.blockWord cls inst off,
     { s with latches := SMap.set 0 s.latches (latchKey cls inst off) (s.blockWord cls inst (off + 4)) })
  else if 4 ≤ off ∧ (loOffsets cls).contains (off - 4) then (SMap.get 0 s.latches (latchKey cls inst (off - 4)), s)
  else (s.blockWord cls inst off, s)

/-- Read `n` registers in ascending order of their offsets. -/
def State.readRegs : Nat → State → Nat → Nat → Nat → List Byte
  | 0, _, _, _, _ => []
  | n + 1, s, cls, inst, off =>
    let (w, s1) := s.readReg cls inst off
    leBytes 4 w.toNat ++ State.readRegs n s1 cls inst (off + 4)

/-- The body of a block, read register by register: each `_LO` stands before its `_HI`, so that both are of one moment. The latches
of such a read are its own, and the next read of a `_LO` replaces them. -/
def State.blockBytes (s : State) (cls inst : Nat) : List Byte :=
  match classInfo cls with
  | some (_, n) => State.readRegs (n / 4) s cls inst 0
  | none => []

/-! ### Mailbox registers (Table 14.2) -/

/-- Class of a mailbox: 0 host, 1 fabric, 2 reserved, 3 sideband (Table 14.1). -/
def mbClass (m : Nat) : Nat := if m < 16 then 0 else if m < 24 then 1 else if m < 31 then 2 else 3

/-- What an access to a mailbox's block comes to: in the reserved blocks of MB24-MB30 it is an error, and does nothing (R24, R397). -/
def State.unlessReserved (s : State) (m : Nat) (t : State) : State := if mbClass m = 2 then s else t

/-- Hub firmware takes commands from a mailbox: MB0-MB15 once a service port is up, MB16-MB23 once a cube port is up, MB31 from
kickstand (R431); none after `SHUTDOWN` (R407). -/
def State.serving (s : State) (m : Nat) : Bool :=
  s.power.vaoGood && !s.power.inReset && !s.hub.shutdown &&
    (match mbClass m with
    | 0 => (List.range 8).any fun j => (s.port (serviceFibre j)).state == 2
    | 1 => (List.range 24).any fun q => (s.port (cubeFibre q)).state == 2
    | 3 => true
    | _ => false)

/-- A mailbox register. -/
def State.mbWord (s : State) (m off : Nat) : Word32 :=
  let x := s.mb m
  if 0x400 ≤ off ∧ off < 0x440 then BitVec.ofNat 32 (slotN (SMap.get 0 x.cmdSlots x.cmdSel.toNat) (off - 0x400) 4)
  else if 0x800 ≤ off ∧ off < 0x840 then BitVec.ofNat 32 (slotN (SMap.get 0 x.rspSlots x.rspSel.toNat) (off - 0x800) 4)
  else
    match off with
    | 0x00 => pack [(0x0100, 0), (m, 16), (mbClass m, 21)]
    | 0x04 => pack [(bit1 (s.serving m), 0), (bit1 s.beat.faultHold, 1), (bit1 s.service, 2),
        (bit1 (match s.hub.owner with | some o => o.val == m | none => false), 3), (s.power.stage.toNat, 4)]
    | 0x08 => pack [(x.cmdHead.toNat, 0)]
    | 0x0C => pack [(x.cmdTail.toNat, 0)]
    | 0x10 => pack [(x.rspHead.toNat, 0)]
    | 0x14 => pack [(x.rspTail.toNat, 0)]
    | 0x18 => pack [(x.cmdSel.toNat, 0)]
    | 0x1C => pack [(x.rspSel.toNat, 0)]
    | 0x20 => pack [(x.event.toNat, 0)]
    | 0x24 => pack [(x.eventEn.toNat, 0)]
    | 0x28 => x.rspCount
    | 0x2C => x.logCount
    | 0x30 => x.notifyLo
    | 0x34 => x.notifyHi
    | _ => 0

/-- Clear event bits by writing ones (R7). -/
def State.clearEvents (s : State) (m : Nat) (v : Word32) : State :=
  s.setMb m { s.mb m with event := (s.mb m).event &&& ~~~(v.setWidth 4) }

/-- `MB_EVENT_CLEAR` (R7, R420). -/
def execMbEventClear (m : MbId) (v : Word32) (s : State) : Out := ok (s.unlessReserved m (s.clearEvents m v))

/-- A write that breaks R399. -/
def State.ringErr (s : State) (m : Nat) : State := s.setMb m { s.mb m with event := (s.mb m).event ||| 8 }

/-- Commands waiting in a ring. -/
def MailboxState.waitingCmds (x : MailboxState) : Nat := (x.cmdTail - x.cmdHead).toNat

/-- Write a word of the command window: ignored, with `RING_ERR`, while the slot is between head and tail (R399). -/
def State.writeCmdWin (s : State) (m i : Nat) (v : Word32) : State :=
  let x := s.mb m
  let slot := x.cmdSel.toNat
  if (List.range x.waitingCmds).any fun j => decide ((x.cmdHead.toNat + j) % 64 = slot) then s.ringErr m
  else
    let old := SMap.get 0 x.cmdSlots slot
    s.setMb m { x with cmdSlots := SMap.set 0 x.cmdSlots slot (setFld old (32 * i + 31) (32 * i) v.toNat) }

/-- `CMD_WIN_WRITE` (R399). -/
def execCmdWinWrite (m : MbId) (i : Fin 16) (v : Word32) (s : State) : Out := ok (s.unlessReserved m (s.writeCmdWin m i v))

/-- Write `RSP_HEAD`: it moves forward, not past `RSP_TAIL`; waiting responses take the free slots (R399, R402). -/
def State.writeRspHead (s : State) (m : Nat) (v : Word32) : State :=
  let x := s.mb m
  let h : BitVec 7 := v.setWidth 7
  if (h - x.rspHead).toNat ≤ x.held then State.drainWaiting 64 (s.setMb m { x with rspHead := h }) m else s.ringErr m

/-- `RSP_HEAD_WRITE` (R399). -/
def execRspHeadWrite (m : MbId) (v : Word32) (s : State) : Out := ok (s.unlessReserved m (s.writeRspHead m v))

/-- A byte of a sideband read transfer, after a repeated start: the offset advances by one (R482). MB31 has no `_LO` register that latches. -/
def State.sidebandRead (s : State) : State :=
  match s.tap.transfer with
  | some (l, n) => if 2 ≤ l.length then s.setTap { s.tap with transfer := some (l, n + 1) } else s
  | none => s

/-- `LO_REGISTER_READ`: the matching `_HI` is latched (R49). -/
def execLoRegisterRead (reg : RegName) (s : State) : Out :=
  match reg with
  | .mailbox _ _ => ok s
  | .sideband p => ok (if p = .byte then s.sidebandRead else s)
  | .block cls inst off =>
    match classInfo cls with
    | some (n, _) =>
      if inst < n ∧ (loOffsets cls).contains off then ok (s.readReg cls inst off).2 else ok s
    | none => ok s

end Sys2Proof.Machine
end

