-- ==== Sys2Proof/Machine/Command.lean ====
section
/-! DEFINITION. Taking commands from mailboxes and relays, and choosing the next to execute (R399-R406, Tables 14.3 to 14.6). -/

namespace Sys2Proof.Machine

open Sys2Proof

/-! ### Classes and fields (R404, Tables 14.5 and 14.6) -/

/-- The class of a sender: 0 host, 1 fabric and relays, 3 sideband (R401, Table 14.1). -/
def senderClass (who : Nat) : Nat := if who < 16 then 0 else if who = 31 then 3 else 1

/-- The classes that may issue an opcode; none: not a command (Table 14.5). -/
def cmdClasses (op : Nat) : Option (List Nat) :=
  match op with
  | 0x01 | 0x02 | 0x03 | 0x05 | 0x10 | 0x11 | 0x12 | 0x13 | 0x22 | 0x40 | 0x42 | 0x43 => some [0, 1, 3]
  | 0x04 | 0x20 | 0x21 | 0x23 => some [0, 1]
  | 0x06 => some [1, 3]
  | 0x30 | 0x31 | 0x32 | 0x33 | 0x34 => some [1]
  | 0x41 | 0x44 => some [0, 3]
  | _ => none

/-- The parameters of a command: byte offset and size (Table 14.6). The selectors are tested by themselves. -/
def cmdFields (c : BitVec 512) : List (Nat × Nat) :=
  match slotOp c with
  | 0x02 | 0x03 => [(8, 8), (16, 4), (20, 4), (24, 32)]
  | 0x04 => [(8, 8), (16, 4)]
  | 0x05 => [(8, 1), (12, 4), (16, 2), (24, 8)]
  | 0x06 => [(8, 1), (12, 4)]
  | 0x10 => if slotN c 8 8 = 0 then [(8, 8), (16, 2), (24, 32)] else [(8, 8), (16, 2)]
  | 0x12 | 0x31 => [(8, 8)]
  | 0x20 | 0x21 => [(8, 8), (16, 8)]
  | 0x23 => [(8, 1), (9, 1), (10, 1), (12, 2), (16, 8)]
  | 0x30 => [(8, 16), (24, 8), (32, 8), (40, 2), (42, 2)]
  | 0x32 => [(8, 8), (16, 8), (24, 2), (26, 2)]
  | 0x33 => [(8, 2)]
  | 0x41 => [(8, 1), (9, 1), (10, 1), (16, 8)]
  | 0x42 => [(8, 2), (16, 8)]
  | 0x43 => [(8, 1), (9, 1), (10, 1)]
  | 0x44 => [(8, 1)]
  | _ => []

/-- A selector: class, first instance, count (R417). -/
def selector (c : BitVec 512) (i : Nat) : Nat × Nat × Nat := (slotN c (24 + 8 * i) 1, slotN c (26 + 8 * i) 2, slotN c (28 + 8 * i) 2)

/-- Byte `i` of a slot is zero. -/
def zeroByte (c : BitVec 512) (i : Nat) : Nat × Bool := (i, slotN c i 1 == 0)

/-- The bytes of the selectors with whether each is right (R417). -/
def selectorRules (c : BitVec 512) : List (Nat × Bool) :=
  (List.range 4).flatMap fun i =>
    let b := 24 + 8 * i
    let (cls, first, count) := selector c i
    let before := ((List.range i).map fun j => if (selector c j).1 = 0 then 0 else (selector c j).2.2).sum
    if cls = 0 then (List.range 7).map fun j => zeroByte c (b + 1 + j)
    else
      let n := match classInfo cls with | some (n, _) => n | none => 65536
      [(b, (classInfo cls).isSome), zeroByte c (b + 1), (b + 2, decide (first < n)),
       (b + 4, decide (first + count ≤ n) && decide (before + count ≤ 65535)), zeroByte c (b + 6), zeroByte c (b + 7)]

/-- Highest index of a reset domain (Table 15.6). -/
def domainLast (dom : Nat) : Nat := ([7, 15, 15, 3, 31, 31, 0, 0][dom - 1]?).getD 0

/-- The ranges of the parameters (Table 14.6). -/
def rangeRules (cls : Nat) (c : BitVec 512) : List (Nat × Bool) :=
  let b (o n lo hi : Nat) : Nat × Bool := (o, decide (lo ≤ slotN c o n) && decide (slotN c o n ≤ hi))
  let side (o : Nat) : Nat × Bool := (o, !(cls == 3 && slotN c o 8 != 0))
  match slotOp c with
  | 0x02 | 0x03 => side 8 :: selectorRules c
  | 0x05 => [b 8 1 0 1, side 24]
  | 0x06 => [b 8 1 0 1]
  | 0x10 => [side 8, if slotN c 8 8 = 0 then b 16 2 1 1 else b 16 2 1 1024, (26, slotN c 8 8 != 0 || decide (slotN c 26 2 ≤ 28))]
  | 0x23 =>
    let abort := slotN c 10 1 % 2 == 1
    [b 8 1 0 7, b 9 1 0 31, b 10 1 0 1, if abort then b 12 2 0 0 else b 12 2 1 65535, if abort then b 16 8 0 0 else (16, decide (gaSpace (slotN c 16 8) ≤ 1))]
  | 0x30 => (pelotonFields (slotN c 8 16)).map (fun f => (8 + f.1, f.2)) ++ [b 40 2 0 255, (42, decide (slotN c 40 2 + slotN c 42 2 ≤ 256))]
  | 0x32 => [b 24 2 0 255, (26, decide (1 ≤ slotN c 26 2) && decide (slotN c 24 2 + slotN c 26 2 ≤ 256))]
  | 0x33 => [b 8 2 1 60000]
  | 0x41 => [b 8 1 1 5, b 9 1 0 1, b 10 1 0 47]
  | 0x42 => [b 8 2 1000 3600]
  | 0x43 => [b 8 1 1 8, b 9 1 0 (domainLast (slotN c 8 1)), b 10 1 0 1]
  | 0x44 => [b 8 1 0 1]
  | _ => []

/-- Bytes of a slot that nothing names are zero (R400, Table 14.6). -/
def reservedRules (c : BitVec 512) : List (Nat × Bool) :=
  let fs := cmdFields c
  ((List.range 3).map fun i => zeroByte c (5 + i)) ++
  ((List.range 56).map (· + 8)).filterMap fun i => if fs.any fun f => f.1 ≤ i ∧ i < f.1 + f.2 then none else some (zeroByte c i)

/-- A cadence time lies 1 ms to 60 s ahead; an unlocked counter is a matter of state (R32, R414). -/
def State.atFits (s : State) (t : Nat) : Bool :=
  t == 0 || !s.mach.locked || (decide (s.cadNs + 1000000 ≤ t) && decide (t ≤ s.cadNs + 60000000000))

/-- Buffers and times of a command of this package (R414, Table 14.6). -/
def State.placeRules (s : State) (c : BitVec 512) : List (Nat × Bool) :=
  let range (o len : Nat) : Nat × Bool := (o, s.oneRegion (slotN c o 8) len)
  let opt (o len : Nat) : Nat × Bool := (o, slotN c o 8 == 0 || s.oneRegion (slotN c o 8) len)
  let time (o : Nat) : Nat × Bool := (o, s.atFits (slotN c o 8))
  match slotOp c with
  | 0x02 | 0x03 => [opt 8 (slotN c 16 4)]
  | 0x04 => [range 8 (slotN c 16 4)]
  | 0x05 => [opt 24 (48 * slotN c 16 2)]
  | 0x10 => [opt 8 1]
  | 0x12 | 0x31 => [time 8]
  | 0x20 => [range 8 (slotN c 16 8)]
  | 0x30 => [time 24] ++ (if slotN c 42 2 = 0 then [] else [range 32 (32 * slotN c 42 2)])
  | 0x32 => [time 8, range 16 (32 * slotN c 26 2)]
  | 0x41 =>
    let spare := decide (3 ≤ slotN c 8 1) && decide (slotN c 8 1 ≤ 4)
    (match regionOf (slotN c 16 8) with
    | some (.vault _, _) => []
    | some (.hbm _, _) => [(9, !(spare && slotN c 9 1 == 1))]
    | some (.cap _, _) => [(16, !spare)]
    | _ => [(16, false)])
  | 0x42 => [time 16]
  | _ => []

/-- The lowest byte at which a rule fails. -/
def lowestBad (rules : List (Nat × Bool)) : Option Nat :=
  rules.foldl (fun m r => if r.2 then m else some (match m with | none => r.1 | some v => min v r.1)) none

/-- Steps 1 to 4 of R404: status and field offset of the first failure, the entry of an inline `STAGE` in its place among the bytes.
`own` is false for a command that a relay carries on. -/
def State.fieldFailure (s : State) (who : SenderId) (c : BitVec 512) (own : Bool) : Option (Nat × Nat) :=
  let via := slotN c 4 1
  match cmdClasses (slotOp c) with
  | none => some (stField, 0)
  | some classes =>
    if slotN c 1 1 ≠ 0x10 then some (stField, 1)
    else if !classes.contains (senderClass who.val) then some (stAuth, 0)
    else
      let viaOk : Nat × Bool := (4, via == 0xFF || (decide (via ≤ 23) && decide (who.val < 32)))
      let bad := lowestBad ([viaOk] ++ reservedRules c ++ rangeRules (senderClass who.val) c ++ (if own then s.placeRules c else []))
      let entry : Option (Nat × Nat) :=
        if slotOp c = 0x10 ∧ slotN c 8 8 = 0 then
          (match stageEntries who c [] with
           | .refused st off => some (st, off)
           | .entries _ len =>
             (lowestBad (((List.range 40).map (· + 24)).filterMap fun i => if len + 24 ≤ i then some (zeroByte c i) else none)).map fun o => (stField, o))
        else none
      match bad, entry with
      | some o, some e => if e.2 ≤ o then some e else some (stField, o)
      | some o, none => some (stField, o)
      | none, e => e

/-! ### States and exclusions (R405, R406, R411, R431) -/

/-- A long command of this opcode is open. -/
def State.opens (s : State) (op : Nat) : Bool := s.hub.openCmds.any fun o => o.opcode.toNat == op

/-- Chains that wait or are accepted for a channel (R238). -/
def State.chainsFor (s : State) (c : Nat) : Nat :=
  let mine (a : Accepted) : Bool := slotOp a.slot == 0x23 && slotN a.slot 10 1 % 2 == 0 && 32 * slotN a.slot 8 1 + slotN a.slot 9 1 == c
  (s.channel c).queue.length + (s.hub.accepted.filter mine).length

/-- What must still be read of a command's buffer before it can be judged, where `bs` has been: offset and length; none when that is
enough. The entries of a `STAGE`, and the format field of an image (R405, R411, R412). -/
def bufferNeed (c : BitVec 512) (bs : List Byte) : Option (Nat × Nat) :=
  let buf := slotN c 8 8
  match slotOp c with
  | 0x10 =>
    if buf = 0 then none
    else (entriesNeed (byteAt bs) bs.length (regionRest buf) (slotN c 16 2) 0).map fun n => (buf + bs.length, n - bs.length)
  | 0x20 => if bs.isEmpty then some (buf + 4, 2) else none
  | _ => none

/-- Until the ready stage hub firmware accepts six commands only (R431). -/
def State.tooEarly (s : State) (op : Nat) : Bool := s.power.stage != 3 && !([0x01, 0x02, 0x03, 0x05, 0x06, 0x44] : List Nat).contains op

/-- Step 5 of R404: `REJECTED_STATE` or `BUSY`. `got` is what has been read of the command's buffer, none where it could not be. A `COPY`
onto a channel that is halted is `BUSY`, also where the running image claims it (DESIGN CHOICE, log entry 98: R238 and R249 answer
both). -/
def State.stateFailure (s : State) (who : SenderId) (c : BitVec 512) (got : Option (List Byte)) : Option (Nat × Nat) :=
  let op := slotOp c
  let refuse (b : Bool) : Option (Nat × Nat) := if b then some (stState, 0) else none
  let busy (b : Bool) : Option (Nat × Nat) := if b then some (stBusy, 0) else none
  let unlocked (o : Nat) : Bool := slotN c o 8 != 0 && !s.mach.locked
  let loading := s.opens 0x20 || s.opens 0x21
  if s.tooEarly op then some (stState, 0)
  else
    (match op with
    | 0x10 =>
      if s.armed || s.notOwner who then some (stState, 0)
      else
        (match got.map (stageEntries who c) with
         | none => none
         | some (.refused st off) => some (st, off)
         | some (.entries es _) => if 1024 < (es.foldl putEntry s.hub.cassette).length then some (stField, 16) else none)
    | 0x11 => refuse (s.armed || s.notOwner who)
    | 0x12 => refuse (s.armed || (s.hub.shifts.any fun j => j.package) || s.notOwner who || !s.hub.checked || unlocked 8)
    | 0x13 => refuse (s.discardRefused who)
    | 0x20 => (busy loading).or (refuse (got.map leNat == some 0x0100 && (s.running || s.service)))
    | 0x21 => (busy loading).or (refuse (s.startRefused || unlocked 8))
    | 0x23 =>
      let ch := 32 * slotN c 8 1 + slotN c 9 1
      let abort := slotN c 10 1 % 2 == 1
      (busy (!abort && (s.channel ch).state == 2)).or <|
      (refuse (s.claimedNow ch || (!abort && s.packageNo.isNone && gaPackage (slotN c 16 8) != 0))).or (busy (!abort && decide (8 ≤ s.chainsFor ch)))
    | 0x30 => refuse (s.privateBlocked c || unlocked 24)
    | 0x31 => refuse (s.privateBlocked c || s.running || unlocked 8)
    | 0x32 => refuse (s.privateBlocked c || unlocked 8)
    | 0x33 => busy (s.opens 0x33)
    | 0x40 => busy (s.opens 0x40)
    | 0x41 => refuse (!s.service)
    | 0x42 => refuse (s.privateBlocked c || unlocked 16)
    | 0x43 => refuse (s.running && decide (slotN c 8 1 ≤ 4) && slotN c 10 1 % 2 == 0)
    | _ => none).or
    (busy (isLong c && op != 0x22 && decide (16 ≤ s.hub.openCmds.length)))

/-- How long after its acceptance a long command times out, in ns (Table 14.5). -/
def State.timeoutOf (s : State) (c : BitVec 512) : Nat :=
  let until_ (t : Nat) : Nat := if t = 0 then 10000000 else t - s.cadNs + 1000000
  match slotOp c with
  | 0x12 | 0x21 | 0x31 | 0x32 => until_ (slotN c 8 8)
  | 0x30 => until_ (slotN c 24 8)
  | 0x42 => until_ (slotN c 16 8)
  | 0x10 | 0x11 | 0x22 => 100000000
  | 0x20 => 10000000000
  | 0x23 => 60000000000
  | 0x33 => 1000000 * slotN c 8 2
  | 0x40 | 0x43 => 2000000000
  | 0x41 => 5000000000
  | _ => 10000000

/-! ### Taking commands (R399-R403) -/

/-- Accept a command that was rung at `rung`: a long one is answered `ACCEPTED` and is open (R402). -/
def State.accept (s : State) (who : SenderId) (rung : Nat) (c : BitVec 512) (got : Option (List Byte)) : State :=
  let a : Accepted := { mb := who, slot := c, rung := rung, no := s.hub.taken, data := got }
  let s1 := s.setHub { s.hub with accepted := s.hub.accepted ++ [a], taken := s.hub.taken + 1 }
  if isLong c then
    let o : OpenCmd := { mb := who, tag := BitVec.ofNat 16 (slotTag c), opcode := BitVec.ofNat 8 (slotOp c), deadline := s.nowNs + s.timeoutOf c, slot := c }
    (s1.setHub { s1.hub with openCmds := s1.hub.openCmds ++ [o] }).reply who (respSlot (slotOp c) stAccepted (slotTag c) 0 0 0)
  else s1

/-- Send a slot on to the hub of a neighbour (R401). -/
def State.relayOn (s : State) (who : SenderId) (c : BitVec 512) : State :=
  let q : CubePort := Fin.ofNat 24 (slotN c 4 1)
  if s.portOpen (cubeFibre q.val) then
    let r : RelayWait :=
      { mb := Fin.ofNat 32 who.val, port := q, opcode := BitVec.ofNat 8 (slotOp c), tag := BitVec.ofNat 16 (slotTag c), deadline := s.nowNs + 10000000 }
    s.setHub { s.hub with relays := s.hub.relays ++ [r]
                          relayOut := s.hub.relayOut ++ [(q, false, setFld c 39 32 0xFF)] }
  else s.reply who (respSlot (slotOp c) stFailed (slotTag c) 0 0 0)

/-- Answer a command slot: reject, relay or accept it (R401, R404, R431). -/
def State.takeCommand (s : State) (who : SenderId) (rung : Nat) (c : BitVec 512) (got : Option (List Byte)) : State :=
  let own := slotN c 4 1 == 0xFF
  let reject (f : Nat × Nat) : State := s.reply who (respSlot (slotOp c) f.1 (slotTag c) f.2 0 0)
  match s.fieldFailure who c own with
  | some f => reject f
  | none =>
    if !own then (if s.tooEarly (slotOp c) then reject (stState, 0) else s.relayOn who c)
    else
      match s.stateFailure who c got with
      | some f => reject f
      | none => s.accept who rung c got

/-- Hub firmware serves the sender of a doorbell: a neighbour always, a mailbox as R431 says. -/
def State.servesBell (s : State) (b : Bell) : Bool := decide (32 ≤ b.who.val) || s.serving b.who.val

/-- Read the slot of a doorbell, once; `CMD_HEAD` advances (R399). -/
def State.readSlot (s : State) (b : Bell) : BitVec 512 × State :=
  let s1 := s.setHub { s.hub with bells := s.hub.bells.erase b }
  match b.slot with
  | some c => (c, s1)
  | none =>
    let x := s1.mb b.who.val
    (SMap.get 0 x.cmdSlots (x.cmdHead.toNat % 64), s1.setMb b.who.val { x with cmdHead := x.cmdHead + 1 })

/-- Begin to read what a command is judged by, behind the bytes that have been read. -/
def State.beginTaking (s : State) (b : Bell) (need : Nat × Nat) (before : List (Byte × Bool)) : State :=
  let j : HubJob := { s.hubJob need.1 need.2 with before := before }
  (s.setHub { s.hub with taking := some (b, j) }).hubRequest j false []

/-- Take the commands that wait, in the order of their doorbells; while part of a command's buffer is being read those behind it wait
(R399, R403, R405). -/
def State.takeWaiting : Nat → State → State
  | 0, s => s
  | fuel + 1, s =>
    match s.hub.taking with
    | some (b, j) =>
      let c := b.slot.getD 0
      let s1 := s.setHub { s.hub with taking := none }
      let have_ := j.before ++ j.job.data
      if !j.job.done then s
      else if j.job.status ≠ 0 ∨ have_.any (·.2) then State.takeWaiting fuel (s1.takeCommand b.who b.rung c none)
      else
        (match bufferNeed c (have_.map (·.1)) with
         | none => State.takeWaiting fuel (s1.takeCommand b.who b.rung c (some (have_.map (·.1))))
         | some need => State.takeWaiting fuel (s1.beginTaking b need have_))
    | none =>
      match s.hub.bells.find? s.servesBell with
      | none => s
      | some b =>
        let (c, s1) := s.readSlot b
        let judged := slotN c 4 1 != 0xFF || (s1.fieldFailure b.who c true).isSome || s1.tooEarly (slotOp c)
        match if judged then none else bufferNeed c [] with
        | none => State.takeWaiting fuel (s1.takeCommand b.who b.rung c (some []))
        | some need => State.takeWaiting fuel (s1.beginTaking { b with slot := some c } need [])

/-- Take every command that can be taken now. -/
def State.takeAll (s : State) : State := State.takeWaiting (2 * s.hub.bells.length + 2) s

/-- Write `CMD_TAIL`, the doorbell (R399): a value 1 to 64 - (tail - head) ahead; writing the value it has does nothing. -/
def State.ringDoorbell (s : State) (m : Nat) (v : Word32) : State :=
  let x := s.mb m
  let t : BitVec 7 := v.setWidth 7
  let n := (t - x.cmdTail).toNat
  if n ≤ 64 - x.waitingCmds then
    let s1 := s.setMb m { x with cmdTail := t }
    (s1.setHub { s1.hub with bells := s1.hub.bells ++ List.replicate n { who := Fin.ofNat 56 m, rung := s.nowNs } }).takeAll
  else s.ringErr m

/-- `CMD_TAIL_WRITE` (R399). -/
def execCmdTailWrite (m : MbId) (v : Word32) (s : State) : Out := ok (s.unlessReserved m (s.ringDoorbell m v))

/-! ### Selection (R403, R414) -/

/-- The oldest command of the next sender after the one served last, of a class. -/
def State.nextOfClass (s : State) (cls : Nat) : Option Accepted :=
  let last := SMap.get 0 s.hub.lastServed cls
  let turn (a : Accepted) : Nat := (a.mb.val + 56 - last) % 56
  (s.hub.accepted.filter fun a => senderClass a.mb.val == cls).foldl
    (fun m a => match m with | none => some a | some x => if turn a < turn x then some a else some x) none

/-- The command that a selection chooses: a shift at the next boundary before all, then what has waited more than 4 ms, then the
classes in their order (R403, R414). -/
def State.nextCommand (s : State) : Option Accepted :=
  let q := s.hub.accepted
  (q.find? fun a => slotOp a.slot == 0x12 && slotN a.slot 8 8 == 0).or <|
  (q.find? fun a => decide (a.rung + 4000000 < s.nowNs)).or <|
  ((List.range 3).map fun i => s.keyN 0x0103 i 1).findSome? s.nextOfClass

/-- `COMMAND_SELECT`: hub firmware takes what waits in the mailboxes it serves, and with no command in its foreground part chooses the next
(R403). -/
def execCommandSelect (s : State) : Out :=
  if s.hub.shutdown then ok s
  else
    let s1 := s.takeAll
    if s1.hub.current.isSome then ok s1 else
    match s1.nextCommand with
    | none => ok s1
    | some a =>
      let cls := senderClass a.mb.val
      ok (s1.setHub { s1.hub with current := some a, accepted := s1.hub.accepted.erase a,
                                  lastServed := SMap.set 0 s1.hub.lastServed cls (a.mb.val + 1) })

/-! ### Register writes (R7, Tables 3.9 and 14.2) -/

/-- Write a mailbox register; writes of read-only and reserved registers are ignored (R7, R8). -/
def State.writeMb (s : State) (m off : Nat) (v : Word32) : State :=
  let x := s.mb m
  if 0x400 ≤ off ∧ off < 0x440 then s.writeCmdWin m ((off - 0x400) / 4) v
  else
    match off with
    | 0x0C => s.ringDoorbell m v
    | 0x10 => s.writeRspHead m v
    | 0x18 => s.setMb m { x with cmdSel := v.setWidth 6 }
    | 0x1C => s.setMb m { x with rspSel := v.setWidth 6 }
    | 0x20 => s.clearEvents m v
    | 0x24 => s.setMb m { x with eventEn := v.setWidth 4 }
    | 0x30 => s.setMb m { x with notifyLo := v }
    | 0x34 => s.setMb m { x with notifyHi := v }
    | _ => s

/-! ### The sideband (R482) -/

/-- MB31 answers on the sideband (R429, R431). -/
def State.sidebandOn (s : State) : Bool := s.vioOn && s.power.vaoGood && !s.power.inReset

/-- The offset that a transfer carries: its first two bytes, low byte first. -/
def transferOffset (l : List Byte) : Nat := leNat (l.take 2)

/-- A write transfer begins, takes a byte, or ends. Data byte i of at most 64 is byte i of the block from the offset on; a register changes
with the last of its four bytes, once all of them have arrived. A transfer whose offset has a bit of [15:12] set, and bytes past the 64th,
change nothing (DESIGN CHOICE, log entry 114). -/
def State.sidebandWrite (s : State) (p : SidebandPart) (b : Byte) : State :=
  match p with
  | .start => s.setTap { s.tap with transfer := some ([], 0) }
  | .stop => s.setTap { s.tap with transfer := none }
  | .byte =>
    match s.tap.transfer with
    | none => s
    | some (l, n) =>
      let l1 := l ++ [b]
      let s1 := s.setTap { s.tap with transfer := some (l1, n) }
      let i := l1.length - 3
      let off := transferOffset l1 + i
      if l1.length < 6 ∨ 66 < l1.length ∨ 0x1000 ≤ transferOffset l1 ∨ 0x1000 ≤ off ∨ off % 4 ≠ 3 then s1
      else s1.writeMb 31 (off - 3) (BitVec.ofNat 32 (leNat (l1.drop (l1.length - 4))))

/-- `REGISTER_WRITE`: `ARRAY_FLAGS` clears where ones are written, but for a flag that the array sets in the same beat (R7, R200, Table 3.9);
every other status register is read-only. On the sideband a write transfer carries MB31's registers byte by byte (R482). -/
def execRegisterWrite (reg : RegName) (v : Word32) (s : State) : Out :=
  match reg with
  | .mailbox m off => ok (if off % 4 = 0 then s.unlessReserved m (s.writeMb m.val off v) else s)
  | .block cls inst off =>
    if cls = 2 ∧ inst < 16384 ∧ off = 4 then ok (s.setArray inst ((s.array inst).clearFlags s.sched (v.setWidth 6)))
    else ok s
  | .sideband p => ok (if s.sidebandOn then s.sidebandWrite p (v.setWidth 8) else s)

end Sys2Proof.Machine
end

