-- ==== Sys2Proof/Machine/Hub.lean ====
section
/-! DEFINITION. Commands of hub firmware: identity, snapshots, logs, copies, drains and relays, and the timeouts of commands
(R325, R349, R401, R402, R406, R417-R420). -/

namespace Sys2Proof.Machine

open Sys2Proof

/-- `IDENTIFY` (R404, Table 14.6). -/
def execIdentify (s : State) : Out :=
  match s.cur 0x01 with
  | none => ok s
  | some c =>
    let fw := if s.power.fwBank then s.power.fwB else s.power.fwA
    let pkg := match s.packageNo with | some n => n + 2 ^ 15 | none => 0
    ok (s.finish c stDone 0
      (resAt 8 8 Config.serial.toNat + resAt 16 8 0x412D3858542D5744 + resAt 24 1 0xA0 + resAt 25 1 1 + resAt 26 1 0 +
       resAt 27 1 (bit1 s.power.fwBank) + resAt 28 4 fw.version.toNat + resAt 32 2 pkg + resAt 34 1 Config.populated.toNat +
       resAt 35 1 s.power.stage.toNat))

/-! ### Snapshots and telemetry (R29, R30, R417) -/

/-- The instances that a command's selectors name, in order. -/
def selectedBlocks (c : BitVec 512) : List (Nat × Nat) :=
  (List.range 4).flatMap fun i =>
    let (cls, first, count) := selector c i
    if cls = 0 then [] else (List.range count).map fun j => (cls, first + j)

/-- Header of a snapshot (1) or telemetry (2) with `records` records of `bytes` bytes, itself included (Table 14.13). -/
def State.snapHeader (s : State) (kind records bytes : Nat) : List Byte :=
  let flags := pack [(bit1 s.ordered, 0), (bit1 s.running, 1), (bit1 s.beat.faultHold, 2), (bit1 s.mach.locked, 3), (bit1 s.service, 4)]
  leBytes 1 kind ++ leBytes 1 flags.toNat ++ leBytes 2 records ++ leBytes 4 bytes ++ leBytes 8 s.sched ++ leBytes 8 s.wall ++
  leBytes 8 s.cadStamp ++ leBytes 8 (if s.running then s.pbeat else 2 ^ 64 - 1) ++
  leBytes 2 (match s.packageNo with | some n => n + 2 ^ 15 | none => 0) ++ leBytes 2 s.peloton ++ leBytes 2 s.epoch ++ leBytes 2 0 ++
  leBytes 16 (match s.image with | some i => i.digest.toNat | none => 0)

/-- The record of a block instance (R417). -/
def State.snapRecord (s : State) (b : Nat × Nat) : List Byte :=
  let body := s.blockBytes b.1 b.2
  leBytes 2 b.1 ++ leBytes 2 b.2 ++ leBytes 4 body.length ++ body

/-- Whole records that fit in `room` bytes, from the first. -/
def takeRecords : List (List Byte) → Nat → List (List Byte)
  | [], _ => []
  | r :: rest, room => if r.length ≤ room then r :: takeRecords rest (room - r.length) else []

/-- A snapshot or telemetry read is complete: its buffer has been written as far as it goes, or could not be (R417). -/
def State.endSnap (s : State) (j : SnapJob) (fine whole : Bool) (bytes : Nat) : State :=
  (s.setHub { s.hub with snaps := s.hub.snaps.erase j }).completeCmd j.mb (slotTag j.slot) (slotOp j.slot)
    (if fine && whole then stDone else stFailed) 0 (resAt 8 4 (if fine then bytes else 0))

/-- Answer a snapshot or telemetry read at its boundary: the inline bytes, or the buffer, whose write begins. -/
def State.answerSnap (s : State) (j : SnapJob) : State :=
  let c := j.slot
  let buf := slotN c 8 8
  if buf = 0 then
    let s1 := s.setHub { s.hub with snaps := s.hub.snaps.erase j }
    let body := match selectedBlocks c with | b :: _ => s.blockBytes b.1 b.2 | [] => []
    match s1.hub.current with
    | some a => if a.slot = c ∧ a.mb = j.mb then s1.finish a stDone 0 (leNat ((body.drop (slotN c 20 4)).take 48)) else s1
    | none => s1
  else
    let all := (selectedBlocks c).map s.snapRecord
    let len := slotN c 16 4
    let recs := if len < 64 then [] else takeRecords all (len - 64)
    let bytes := 64 + (recs.map List.length).sum
    let out := if len < 64 then [] else s.snapHeader (if j.isSnap then 1 else 2) recs.length bytes ++ recs.flatten
    if out.isEmpty then s.endSnap j true false 0
    else
      let w : HubJob := { s.hubJob buf out.length with whole := recs.length == all.length }
      (s.setHub { s.hub with snaps := s.hub.snaps.map fun x => if x = j then { j with job := some w } else x }).hubRequest w true out

/-- Begin a snapshot or telemetry read: the boundary lies 4,096 wall beats ahead while the beat runs (R417). -/
def State.beginSnap (s : State) (op : Nat) : State :=
  match s.cur op with
  | none => s
  | some c =>
    if s.hub.snaps.any fun j => j.slot == c.slot && j.mb == c.mb then s
    else
      let j : SnapJob := { mb := c.mb, slot := c.slot, isSnap := op == 0x02, wallAt := if s.beat.aligned then s.wall + 4096 else s.wall }
      let s1 := s.setHub { s.hub with snaps := s.hub.snaps ++ [j] }
      if slotN c.slot 8 8 = 0 then s1 else s1.background

/-- `GET_STATE` (R417). -/
def execGetState (s : State) : Out := ok (s.beginSnap 0x02)

/-- `READ_TELEMETRY` (R417). -/
def execReadTelemetry (s : State) : Out := ok (s.beginSnap 0x03)

/-- A snapshot raises a hold: a program runs, and no fault hold is in force (R417). -/
def State.snapHolds (s : State) (j : SnapJob) : Bool := j.isSnap && s.running && !s.beat.faultHold

/-- `SNAPSHOT_LATCH`: 16 wall beats before the boundary a snapshot raises its Hub service hold; at the boundary every beat-domain
value is captured and the hold drops, and when the buffer has been written the command completes (R417). A shift on the same boundary
comes first, so that the snapshot shows the settings after it (R30). -/
def execSnapshotLatch (s : State) : Out :=
  match s.hub.snaps.find? fun j => j.job.any fun w => w.job.done with
  | some j => ok (match j.job with | some w => s.endSnap j (w.job.status == 0) w.whole w.job.len | none => s)
  | none =>
    match s.hub.snaps.find? fun j => j.job.isNone with
    | none => ok s
    | some j =>
      if s.wall < j.wallAt ∧ s.beat.aligned then
        if s.snapHolds j && decide (j.wallAt ≤ s.wall + 16) then ok (s.setBeat { s.beat with hubDemand := true }) else ok s
      else if s.shiftHere then ok s
      else
        let s1 := s.answerSnap j
        ok (if s.snapHolds j && (s.cur 0x22).isNone then s1.setBeat { s1.beat with hubDemand := false } else s1)

/-! ### The congestion map (R349) -/

/-- The ports and networks that have records: circuits are cube ports' only. -/
def congestionPlaces : List (Nat × Nat) :=
  (List.range 32).flatMap fun f => (if f % 8 < 6 then [0, 1, 2] else [0, 1]).map fun n => (f, n)

/-- Congestion of a port and network: fibre 8k + j at 3j + network of unit k. -/
def State.congestionOf (s : State) (f n : Nat) : Congestion := SMap.get {} (s.fab (f / 8)).congestion (3 * (f % 8) + n)

/-- A record (Table 11.11). -/
def congestionRecord (f n : Nat) (x : Congestion) : List Byte :=
  leBytes 1 f ++ leBytes 1 n ++ leBytes 2 0 ++ leBytes 4 x.samples.toNat ++
  (List.range 8).flatMap (fun b => leBytes 4 ((x.bins[b]?).getD 0)) ++ leBytes 4 x.stall.toNat ++ leBytes 4 x.oldest.toNat ++
  leBytes 8 x.bytesOut.toNat ++ leBytes 8 0

/-- `GET_CONGESTION_MAP`: as many whole records as fit are written, and a new interval starts as they are taken (R349; log entry
31). -/
def execGetCongestionMap (s : State) : Out :=
  match s.cur 0x04 with
  | none => ok s
  | some c =>
    match s.hub.job with
    | some w =>
      if !w.job.done then ok s
      else if w.job.status = 0 then ok (s.finish c (if w.whole then stDone else stFailed) 0 (resAt 8 4 w.res))
      else ok (s.finish c stFailed 0 0)
    | none =>
      let all := congestionPlaces.map fun p => congestionRecord p.1 p.2 (s.congestionOf p.1 p.2)
      let recs := takeRecords all (slotN c.slot 16 4)
      let out := recs.flatten
      let s1 := forAll 4 s fun s k => s.setFab k { s.fab k with congestion := [] }
      if out.isEmpty then ok (s1.finish c stFailed 0 0)
      else
        ok (s1.beginBuf { s.hubJob (slotN c.slot 8 8) out.length with whole := recs.length == all.length, res := recs.length } true out)

/-! ### Logs (R418) -/

/-- The 48 bytes of a log record (Table 14.14). -/
def LogRec.bytes (r : LogRec) : List Byte :=
  leBytes 48 (r.seq.toNat + 2 ^ 32 * r.cls.toNat + 2 ^ 40 * r.code.toNat + 2 ^ 48 * r.flags.toNat + 2 ^ 56 * r.unitKind.toNat +
    2 ^ 64 * r.cadence.toNat + 2 ^ 128 * r.sched.toNat + 2 ^ 192 * r.wall.toNat + 2 ^ 256 * r.die.toNat + 2 ^ 272 * r.unit.toNat +
    2 ^ 288 * r.detail.toNat)

/-- Records at or after a sequence number. -/
def logFrom (l : List LogRec) (seq : Nat) : List LogRec := l.filter fun r => atOrAbove r.seq (BitVec.ofNat 32 seq)

/-- `READ_LOG` (R418). -/
def execReadLog (s : State) : Out :=
  match s.cur 0x05 with
  | none => ok s
  | some c =>
    let ao := slotN c.slot 8 1 == 1
    let recs := logFrom (if ao then s.aoLog else s.hubLog) (slotN c.slot 12 4)
    let buf := slotN c.slot 24 8
    if buf = 0 then ok (s.finish c stDone 0 (match recs with | r :: _ => leNat r.bytes | [] => 0))
    else
      match s.hub.job with
      | some w => if !w.job.done then ok s else if w.job.status = 0 then ok (s.finish c stDone 0 w.res) else ok (s.finish c stFailed 0 0)
      | none =>
        let some_ := recs.take (slotN c.slot 16 2)
        let next : Word32 := match some_.getLast? with | some r => r.seq + 1 | none => if ao then s.aoSeq else s.hubSeq
        let res := resAt 8 2 some_.length + resAt 12 4 next.toNat
        let out := some_.flatMap LogRec.bytes
        if out.isEmpty then ok (s.finish c stDone 0 res) else ok (s.beginBuf { s.hubJob buf out.length with res := res } true out)

/-- `CLEAR_LOG` removes records up to and including through_seq (R418). -/
def execClearLog (s : State) : Out :=
  match s.cur 0x06 with
  | none => ok s
  | some c =>
    let past (r : LogRec) : Bool := atOrAbove (BitVec.ofNat 32 (slotN c.slot 12 4)) r.seq
    if slotN c.slot 8 1 = 1 then
      ok ({ s with aoLog := s.aoLog.filter fun r => !past r }.finish c stDone 0 (resAt 8 2 (s.aoLog.filter past).length))
    else ok ({ s with hubLog := s.hubLog.filter fun r => !past r }.finish c stDone 0 (resAt 8 2 (s.hubLog.filter past).length))

/-! ### Copies (R238, R250, R406) -/

/-- The channel that a `COPY` names. -/
def copyChannel (c : BitVec 512) : Nat := 32 * slotN c 8 1 + slotN c 9 1

/-- `COPY` posts a chain with its own budget (R238). -/
def execCopy (s : State) : Out :=
  match s.cur 0x23 with
  | none => ok s
  | some c =>
    let n := copyChannel c.slot
    let ch := s.channel n
    if slotN c.slot 10 1 % 2 = 1 then ok s
    else if s.claimedNow n || decide (8 ≤ ch.queue.length) then ok (s.finish c stFailed 0 0)
    else
      let chain : Chain :=
        { first := BitVec.ofNat 64 (slotN c.slot 16 8), budget := slotN c.slot 12 2, owner := some (c.mb, BitVec.ofNat 16 (slotTag c.slot)) }
      ok (s.setChannel n { ch with queue := ch.queue ++ [chain] }).background

/-- `COPY` with abort set: the stop request is placed (R250, R406). -/
def execCopyAbort (s : State) : Out :=
  match s.cur 0x23 with
  | none => ok s
  | some c =>
    let n := copyChannel c.slot
    if slotN c.slot 10 1 % 2 = 0 then ok s
    else if s.claimedNow n then ok (s.finish c stState 0 0)
    else ok ((s.requestStop n).finish c stDone 0 0)

/-! ### Draining (R325) -/

/-- `DRAIN_FABRIC` stops every new request injection. -/
def execDrainFabric (s : State) : Out :=
  match s.cur 0x33 with
  | none => ok s
  | some _ => ok (s.setHub { s.hub with stopped := true }).background

/-- `RESUME_FABRIC` lets requests be injected again, and copies that waited go on (R325, R339); drains still open end `ABORTED` (log entry
32). -/
def execResumeFabric (s : State) : Out :=
  match s.cur 0x34 with
  | none => ok s
  | some c =>
    let s1 := s.setHub { s.hub with stopped := false }
    let s2 := (s1.hub.openCmds.filter fun o => o.opcode == 0x33).foldl (fun s o => s.completeCmd o.mb o.tag.toNat 0x33 stAborted 0 0) s1
    let s3 := forAll 32 s2 fun s e => s.pumpEngine 1100 e
    ok (s3.finish c stDone 0 0)

/-! ### Relays (R401) -/

/-- A relay packet from the hub of a neighbour: a command, which is executed as a fabric-class command, or the response to one
that this hub relayed. -/
def State.relayArrives (s : State) (q : CubePort) (response : Bool) (slot : BitVec 512) : State :=
  if response then
    match s.hub.relays.find? fun r => r.port == q && r.tag.toNat == slotTag slot && r.opcode.toNat == slotOp slot with
    | some r =>
      let accepted := slotN slot 1 1 == stAccepted && slotN slot 6 1 == 0
      let rest := if accepted then s.hub.relays.map fun x => if x = r then { r with deadline := 0 } else x else s.hub.relays.erase r
      (s.setHub { s.hub with relays := rest }).postSlot r.mb.val slot
    | none => s
  else if s.power.vaoGood && !s.power.inReset && !s.hub.shutdown then 
    (s.setHub { s.hub with bells := s.hub.bells ++ [{ who := Fin.ofNat 56 (32 + q.val), rung := s.nowNs, slot := some slot }] }).takeAll
  else s

/-- `RELAY_RECEIVE` (R401). -/
def execRelayReceive (q : CubePort) (response : Bool) (slot : BitVec 512) (s : State) : Out := ok (s.relayArrives q response slot)

/-- `RELAY_TIMEOUT`: a relay with no response within 10 ms completes `TIMED_OUT` (R401; log entry 33). -/
def execRelayTimeout (m : MbId) (tag : BitVec 16) (s : State) : Out :=
  match s.hub.relays.find? fun r => r.mb == m && r.tag == tag && r.deadline != 0 && decide (r.deadline ≤ s.nowNs) with
  | some r =>
    ok ((s.setHub { s.hub with relays := s.hub.relays.erase r }).postSlot m.val (respSlot r.opcode.toNat stTimedOut tag.toNat 0 0 0))
  | none => ok s

/-! ### Notifications (R420) -/

/-- `MAILBOX_NOTIFY`: a fabric mailbox with an enabled event stores its `RSP_COUNT` at its notification address, at most once in
10 us (R420). The host adapter's interrupt and `SB_ALERT_N` are the enabled events themselves. -/
def execMailboxNotify (m : MbId) (s : State) : Out :=
  let x := s.mb m
  let a := x.notifyLo.toNat + 2 ^ 32 * x.notifyHi.toNat
  let late : Bool := match x.notifiedAt with | some t => decide (t + 10000 ≤ s.nowNs) | none => true
  if mbClass m = 1 ∧ (x.event &&& x.eventEn) ≠ 0 ∧ a ≠ 0 ∧ late then
    let s1 := s.setMb m { x with notifiedAt := some s.nowNs }
    let off := gaOffset a
    let data := leBytes 4 x.rspCount.toNat
    if s1.ownAddress a then ok (if gaSpace a = 0 then s1.hubRequest (s1.hubJob off 4) true data else s1)
    else
      match s1.sendWindow (gaPackage a) off 4 (gaSpace a) .store with
      | some dst =>
        if routePresent (s1.routeEntry (gaPackage a)) then
          ok (s1.request 0 34 0 3 { ty := 2, space := BitVec.ofNat 8 (gaSpace a), len := 4, dst := BitVec.ofNat 16 dst, offset := BitVec.ofNat 48 off,
                                    payload := data }).2
        else ok s1
      | none => ok s1
  else ok s

/-! ### Timeouts of commands (R402, R406, Table 14.5) -/

/-- Hub firmware drops what it still does for a command that has timed out. -/
def State.dropCommand (s : State) (o : OpenCmd) : State :=
  let same (c : Accepted) : Bool := c.slot == o.slot && c.mb == o.mb
  let h := s.hub
  let mine := h.current.any same
  let gone := h.snaps.filter fun j => j.mb == o.mb && j.slot == o.slot
  let s0 := gone.foldl (fun s j => s.dropJob j.job) (if mine then s.dropJob h.job else s)
  let s1 := (s0.setHub { h with accepted := h.accepted.filter fun c => !same c
                                current := if mine then none else h.current
                                job := if mine then none else h.job
                                shifts := h.shifts.filter fun j => !(j.mb == o.mb && j.tag == o.tag && j.opcode == o.opcode)
                                snaps := h.snaps.filter fun j => !(j.mb == o.mb && j.slot == o.slot) }).refreshShift
  if o.opcode = 0x21 then { s1 with prog := { s1.prog with startAt := none } }
  else if o.opcode = 0x40 then s1.setPower { s1.power with calStep := 0 }
  else if o.opcode = 0x22 ∨ o.opcode = 0x02 then s1.setBeat { s1.beat with hubDemand := false }
  else s1

/-- `COMMAND_TIMEOUT`: a long command whose timeout expires completes `TIMED_OUT`; a `COPY` chain receives a stop request (R402,
R406). -/
def execCommandTimeout (m : SenderId) (tag : BitVec 16) (s : State) : Out :=
  match s.hub.openCmds.find? fun o => o.mb == m && o.tag == tag && decide (o.deadline ≤ s.nowNs) with
  | none => ok s
  | some o =>
    let s1 := s.dropCommand o
    if o.opcode = 0x23 then
      let n := copyChannel o.slot
      let ch := s1.channel n
      if ch.owner = some (m, tag) then
        ok ((s1.completeCmd m tag.toNat 0x23 stTimedOut 0 (ch.copyResults 0)).requestStop n)
      else
        let s2 := s1.setChannel n { ch with queue := ch.queue.filter fun x => x.owner != some (m, tag) }
        ok (s2.completeCmd m tag.toNat 0x23 stTimedOut 0 0)
    else ok (s1.completeCmd m tag.toNat o.opcode.toNat stTimedOut 0 0)

end Sys2Proof.Machine
end

