-- ==== Sys2Proof/Machine/Fabric.lean ====
section
/-! DEFINITION. The fabric units: forwarding, injection, operation records, and remote memory at the target and at the source
(R320-R349). -/

namespace Sys2Proof.Machine

open Sys2Proof

/-! ### Sending on a lane (R315, R320, R349) -/

/-- Credits that a transmitter holds for a packet's class. -/
def State.credits (s : State) (f w : Nat) (p : Packet) : Nat := if p.fcClass = 0 then (s.fifo f w).credit0 else (s.fifo f w).credit1

/-- A lane can take a packet now: its class has a credit for every block, and a circuit's output is `ADD` (R295, R315, R330). -/
def State.laneReady (s : State) (f w : Nat) (p : Packet) : Bool :=
  decide (p.blockCount ≤ s.credits f w p) && (!circuitWave f w || s.addsNow f w)

/-- Network of a lane's congestion record: circuits are the third (R349). -/
def State.congestionNet (s : State) (f w : Nat) : Nat := if circuitWave f w then 2 else s.laneNet f w

/-- Change a congestion record. -/
def State.noteCongestion (s : State) (f n : Nat) (g : Congestion → Congestion) : State :=
  let fb := s.fab (f / 8)
  let key := 3 * (f % 8) + n
  s.setFab (f / 8) { fb with congestion := SMap.set {} fb.congestion key (g (SMap.get {} fb.congestion key)) }

/-- A lane sends blocks of a packet: they take their credits. Credits owed on the lane go before them in a control block, which is at least one
in every 64 blocks, for a packet has at most nine (R315). -/
def State.sendBlocks (s : State) (f w : Nat) (p : Packet) (bs : List (BitVec 257)) : State :=
  let s0 := if (s.fifo f w).owed0 + (s.fifo f w).owed1 = 0 then s else s.sendControl f w 0xF0 0
  let x := s0.fifo f w
  let n := bs.length
  let y := if p.fcClass = 0 then { x with credit0 := x.credit0 - n } else { x with credit1 := x.credit1 - n }
  ((s0.setFifo f w y).transmit f w bs).noteCongestion f (s.congestionNet f w) fun c =>
    { c with bytesOut := c.bytesOut + BitVec.ofNat 64 (32 * n), oldest := BitVec.ofNat 16 (max c.oldest.toNat (s.ageOf p)) }

/-- Send a whole packet on a lane. -/
def State.launch (s : State) (f w : Nat) (p : Packet) : State := (s.sendBlocks f w p p.blocks).noteSent f w p

/-! ### Inputs and outputs of a router (R333) -/

/-- An input of a router as a number: a FIFO 16j + w, a transit lane 128 + die, requests 132 and replies 133 of the die itself. -/
def inputKey : FabricInput → List Nat
  | .fifo f w => [16 * (f.val % 8) + w.val]
  | .transit src => [128 + src.val]
  | .injected => [132, 133]

/-- Present bytes that let a consumer start an arriving packet: the threshold that was in force when its header came (R334). -/
def State.mayStart (s : State) (f w : Nat) (p : Packet) : Bool :=
  decide (min (64 * (s.fifo f w).code) (32 * p.blockCount) ≤ 32 * s.arriving f w)

/-- The packet at the head of an input, as numbered, of die k: in a FIFO that holds no whole packet, the one that is arriving once its
consumer may start it (R334; chunk FIFOs have no cut-through, R383). One that its consumer has started, and a FIFO that a flush is to
empty, offer none (R336). -/
def State.headOf (s : State) (k i : Nat) : Option Packet :=
  if i < 128 then
    let f := 8 * k + i / 16
    let w := i % 16
    let x := s.fifo f w
    if x.started || x.flush then none
    else
      match x.packets with
      | p :: _ => some p
      | [] => (s.wave f w).partial_.bind fun p =>
          if !p.collective && fld p.fan 11 0 == 0 && s.mayStart f w p then some p else none
  else if i < 132 then (SMap.get [] (s.fab k).transitIn (i - 128)).head?
  else (s.fab k).outq.find? fun p => p.network == i - 132

/-- The input's packet came by circuit (R330). -/
def byCircuit (k i : Nat) : Bool := decide (i < 128) && circuitWave (8 * k + i / 16) (i % 16)

/-- Where the packet of an input goes. -/
def State.routeFrom (s : State) (k i : Nat) (p : Packet) : Dest := s.destOf k (byCircuit k i) (decide (132 ≤ i)) p

/-- Dimensions of a fan mask. -/
def fanDims (m : Nat) : List Nat := (List.range 12).filter fun d => nbit m d

/-- The lane of a multicast copy across a dimension (R322, R327). -/
def State.fanLane (s : State) (p : Packet) (d : Nat) : Option (Nat × Nat) :=
  s.chooseLane p.srcPkg (fld p.fan 11 0) (s.directionLanes d p.network)

/-- The copy of a packet that crosses dimension d: mask bits 0 to d are cleared, and it names its receiver, the neighbour across d (R327,
R351; log entry 35). -/
def State.fanCopy (s : State) (p : Packet) (d : Nat) : Packet :=
  { p with fan := BitVec.ofNat 16 (fld p.fan 11 0 / 2 ^ (d + 1) * 2 ^ (d + 1)), dst := BitVec.ofNat 16 (cubeNeighbour s.ownPackage d) }

/-- Dimensions of a mask whose two ports lie on a lightplane die (R279). -/
def fanDimsOf (k m : Nat) : List Nat := (fanDims m).filter fun d => d / 3 == k

/-- The other lightplane dies that hold dimensions of a mask: the packet crosses to each of them once, and that die sends its copies
(R323, R327). One that has crossed goes no further. -/
def fanDies (k i m : Nat) : List Nat :=
  if 128 ≤ i ∧ i < 132 then [] else (List.range 4).filter fun k2 => k2 != k && !(fanDimsOf k2 m).isEmpty

/-- A received multicast packet as it is delivered here. -/
def State.fanHere (s : State) (p : Packet) : Packet := { p with fan := 0, dst := BitVec.ofNat 16 s.ownPackage }

/-! ### What a router does with a packet (R320, R323, R327, R333) -/

/-- One thing that a router does with a packet: a unicast packet has one, a multicast packet one for each copy. -/
inductive Move where
  /-- it leaves on a lane of the die, as it is sent -/
  | lane (f w : Nat) (p : Packet)
  /-- it crosses to another lightplane die, to be delivered or sent from there, or (`home` false) as a multicast packet -/
  | cross (k2 : Nat) (home : Bool) (p : Packet)
  /-- delivery at this die -/
  | here (p : Packet)
  /-- a multicast copy whose dimension has no lane up -/
  | lost (d : Nat)
  /-- no way to go: n tells the copies apart; the reply, if one is due -/
  | nowhere (n : Nat) (reply : Option Packet)
  /-- no lane of its direction is up -/
  | wait
  deriving DecidableEq, Repr

/-- The output that serves a move: 16j + w, 128 + die, 132 for delivery, and for what needs none a number of its own. -/
def Move.out : Move → Nat
  | .lane f w _ => 16 * (f % 8) + w
  | .cross k2 _ _ => 128 + k2
  | .here _ => 132
  | .lost d => 160 + d
  | .nowhere n _ => 180 + n
  | .wait => 133

/-- The number by which a packet's moves are told apart. -/
def Move.key : Move → Nat
  | .cross k2 true _ => 136 + k2
  | m => m.out

/-- What a router does with the packet of an input. -/
def State.movesOf (s : State) (k i : Nat) (p : Packet) : List Move :=
  let m := fld p.fan 11 0
  let delivery (q : Packet) : Move :=
    match s.deliveryOf k q with
    | .here => .here q
    | .die k2 => .cross k2 true q
    | _ => .nowhere 4 none
  if m ≠ 0 then
    ((fanDimsOf k m).map fun d => match s.fanLane p d with | some (f, w) => .lane f w (s.fanCopy p d) | none => .lost d) ++
    ((fanDies k i m).map fun k2 => if s.transitOpen k k2 then .cross k2 false p else .nowhere k2 none) ++
    (if 128 ≤ i then [] else [delivery (s.fanHere p)])
  else
    match s.routeFrom k i p with
    | .here => [.here p]
    | .lane f w detour axis => [.lane f w (s.hopFlags p f detour axis)]
    | .die k2 => [.cross k2 true p]
    | .wait => [.wait]
    | .unreachable =>
      [.nowhere 4 (if p.network = 0 ∧ !routePresent (s.routeEntry p.dstPkg) then some (s.replyTo p 0x21 0 [] 0) else none)]

/-- The moves of the packet at the head of an input that have not been made. -/
def State.movesLeft (s : State) (k i : Nat) (p : Packet) : List Move :=
  (s.movesOf k i p).filter fun m => !(SMap.get [] (s.fab k).copied i).contains m.key

/-- The wavelength's chunk FIFO at the die's collective engine, of 256 KiB, has room for a class-2 packet (R383). -/
def State.chunkRoom (s : State) (k i : Nat) (p : Packet) : Bool :=
  let mine := (s.fab k).local_.filter fun x => x.2.svcClass == 2 && x.1 == some (Fin.ofNat 32 (8 * k + i / 16), Fin.ofNat 16 (i % 16))
  p.svcClass != 2 || decide (128 ≤ i) || decide (mine.foldl (fun n x => n + 32 * x.2.blockCount) (32 * p.blockCount) ≤ 262144)

/-- A move is eligible at its output: its class holds credits there (R333), the transit lane has taken what was sent before, or delivery
has room. -/
def State.eligible (s : State) (k i : Nat) : Move → Bool
  | .lane f w q => s.laneReady f w q
  | .cross k2 _ _ => (SMap.get [] (s.fab k).transitOut k2).isEmpty
  | .here q => s.chunkRoom k i q
  | .wait => false
  | _ => true

/-- The input whose packet, started before it was whole, holds an output: an arbiter never pre-empts it (R333, R334). -/
def State.holder (s : State) (k out : Nat) : Option Nat :=
  (List.range 128).find? fun i => let x := s.fifo (8 * k + i / 16) (i % 16); x.started && x.out == out

/-- Inputs of a die that compete for an output, with their packets. -/
def State.rivals (s : State) (k out : Nat) : List (Nat × Packet) :=
  (List.range 134).filterMap fun i => (s.headOf k i).bind fun p =>
    if (s.movesLeft k i p).any fun m => m.out == out && s.eligible k i m then some (i, p) else none

/-- How many places an input comes after the one that an output served last. -/
def State.turnOf (s : State) (k out i : Nat) : Nat := (i + 134 - SMap.get 0 (s.fab k).served out) % 134

/-- The input that an output serves next: the oldest packet, round-robin among equals, after the input served last (R333). -/
def State.nextInput (s : State) (k out : Nat) : Option Nat :=
  let better (a b : Nat × Packet) : Bool :=
    decide (s.ageOf b.2 < s.ageOf a.2) || (s.ageOf a.2 == s.ageOf b.2 && decide (s.turnOf k out a.1 < s.turnOf k out b.1))
  if (s.holder k out).isSome then none
  else ((s.rivals k out).foldl (fun m x => match m with | none => some x | some y => if better x y then some x else some y) none).map (·.1)

/-- Take the head packet out of an input; a FIFO's blocks are owed as credits (R315). -/
def State.takeInput (s : State) (k i : Nat) (p : Packet) : State :=
  if i < 128 then
    let f := 8 * k + i / 16
    let w := i % 16
    let x := s.fifo f w
    s.setFifo f w ({ x with packets := x.packets.drop 1, lastRead := p.blocks.getLastD 0 }.owe p.fcClass p.blockCount)
  else if i < 132 then
    s.setFab k { s.fab k with transitIn := SMap.set [] (s.fab k).transitIn (i - 128) ((SMap.get [] (s.fab k).transitIn (i - 128)).drop 1) }
  else s.setFab k { s.fab k with outq := (s.fab k).outq.erase p }

/-- Deliver a packet at a die: a request whose header breaks Table 11.1 is answered `BAD_PKT` by its target (R317; log entry 93), a
relay goes to the hub (R401), any other waits for its unit. -/
def State.deliver (s : State) (k i : Nat) (p : Packet) : State :=
  let f := 8 * k + i / 16
  if !p.known then s.countBad k
  else if p.network == 0 && !p.wellFormed then s.pushOut k (s.replyTo p 0x13 0 [] 0)
  else if p.relay then
    if i < 128 ∧ i % 16 = 0 then
      match fibreCube f with
      | some q => s.relayArrives (Fin.ofNat 24 q) (bitOf p.reqId 22) (BitVec.ofNat 512 (leNat (p.payload.take 64)))
      | none => s
    else s
  else s.setFab k { s.fab k with local_ := (s.fab k).local_ ++ [(if i < 128 then some (Fin.ofNat 32 f, Fin.ofNat 16 (i % 16)) else none, p)] }

/-- Make a move of a whole packet. -/
def State.makeMove (s : State) (k i : Nat) : Move → State
  | .lane f w q => s.launch f w q
  | .cross k2 _ q => s.blocksAcross k k2 q.blocks
  | .here q => s.deliver k i q
  | .lost _ => s.setFab k { s.fab k with mcDrop := (s.fab k).mcDrop + 1 }
  | .nowhere _ reply => match reply with | some r => (s.countUnreach k).pushOut k r | none => s.countUnreach k
  | .wait => s

/-- An output serves the packet of an input: with its last move the packet leaves the input (R327, R333). -/
def State.serveMove (s : State) (k i : Nat) (p : Packet) (m : Move) : State :=
  let fb := s.fab k
  let last := (s.movesLeft k i p).all fun x => x.key == m.key
  let s1 := s.setFab k { fb with
    served := SMap.set 0 fb.served m.out (i + 1)
    copied := SMap.set [] fb.copied i (if last then [] else SMap.get [] fb.copied i ++ [m.key]) }
  (if last then s1.takeInput k i p else s1).makeMove k i m

/-! ### Cut-through (R334) -/

/-- A consumer that has started a packet takes the blocks of it that have come since, in pairs where they cross to another die, and with the
last of them the packet is done. -/
def State.pumpFifo (s : State) (f w : Nat) (p : Packet) : State :=
  let k := f / 8
  let x := s.fifo f w
  let q : Packet := { p with flags := x.outFlags }
  let whole := !x.packets.isEmpty
  let across := decide (128 ≤ x.out) && decide (x.out < 132)
  let there := if whole then q.blockCount else s.arriving f w
  let n := if across && !whole then there / 2 * 2 else there
  let bs := (q.blocks.take n).drop x.gone
  let y := ({ x with gone := n, lastRead := bs.getLastD x.lastRead }).owe p.fcClass bs.length
  let s1 := s.setFifo f w (if whole then { y with packets := y.packets.drop 1, started := false, gone := 0 } else y)
  let f2 := 8 * k + x.out / 16
  let w2 := x.out % 16
  if across then (if bs.isEmpty then s1 else s1.blocksAcross k (x.out - 128) bs)
  else if x.out < 128 then
    let s2 := if bs.isEmpty then s1 else s1.sendBlocks f2 w2 q bs
    if whole then s2.noteSent f2 w2 q else s2
  else if whole then s1.deliver k (16 * (f % 8) + w) q.trim
  else s1

/-- The packet that a consumer has started: whole since, or arriving still. -/
def State.startedPacket (s : State) (f w : Nat) : Option Packet :=
  if (s.fifo f w).started then (s.fifo f w).packets.head?.or (s.wave f w).partial_ else none

/-- A consumer starts a packet that is still arriving: it holds its output from here on. -/
def State.startPacket (s : State) (k i : Nat) (p : Packet) (m : Move) : State :=
  let f := 8 * k + i / 16
  let w := i % 16
  let fb := s.fab k
  let s1 := s.setFab k { fb with served := SMap.set 0 fb.served m.out (i + 1) }
  match m with
  | .lane _ _ q | .cross _ _ q | .here q =>
    (s1.setFifo f w { s1.fifo f w with started := true, out := m.out, gone := 0, outFlags := q.flags }).pumpFifo f w p
  | _ => s

/-- The transmitter of a wavelength that has nothing else to send sends `IDLE`, with the credits that it owes, to the end of its multiframe
(R285, R315, R318). A steered wavelength fills its bursts with `IDLE` where they end. -/
def State.idleLane (s : State) (f w : Nat) : State :=
  if s.portOpen f && !s.steered f w && (!circuitWave f w || s.addsNow f w) then (s.sendControl f w 0xF0 0).fillMultiframe f w else s

/-- The packet of an input is still arriving. -/
def State.unfinished (s : State) (k i : Nat) : Bool := decide (i < 128) && (s.fifo (8 * k + i / 16) (i % 16)).packets.isEmpty

/-- `PACKET_FORWARD`: the router of a lightplane die makes the next move of an input's packet that its output would serve next (R320, R323,
R327, R330, R333). A packet that is still arriving is started, and its blocks follow as they come (R334); with nothing to do at a FIFO,
the idle transmitter beside it sends `IDLE` (R318). -/
def execPacketForward (k : LpId) (inp : FabricInput) (s : State) : Out :=
  if s.inDomainReset (.fab k) then ok s else
  let wins (i : Nat) : Option (Nat × Packet × Move) := (s.headOf k i).bind fun p =>
    ((s.movesLeft k i p).find? fun m => s.eligible k i m && s.nextInput k m.out == some i).map fun m => (i, p, m)
  let own : Bool := match inp with | .fifo f _ => f.val / 8 == k.val | _ => true
  let follows : Option (Nat × Nat × Packet) :=
    match inp with
    | .fifo f w => (s.startedPacket f w).map fun p => (f.val, w.val, p)
    | _ => none
  if !own then ok s
  else
    match follows, (inputKey inp).findSome? wins with
    | some (f, w, p), _ => ok (s.pumpFifo f w p)
    | none, some (i, p, m) => ok (if s.unfinished k i then s.startPacket k i p m else s.serveMove k i p m)
    | none, none =>
      match inp with
      | .fifo f w => ok (s.idleLane f w)
      | _ => ok s

/-! ### Injection (R317, R331, R332, R342, R401) -/

/-- A relay packet of a slot (R401). -/
def State.relayPacket (s : State) (k : Nat) (response : Bool) (slot : BitVec 512) : Packet × State :=
  let fb := s.fab k
  let key := 64 * (2 * k) + 35
  let n := SMap.get 0 fb.seq key
  ({ ty := 0x02, flags := 0xC0, space := 1, len := 64, peloton := BitVec.ofNat 16 s.peloton, injectUs := BitVec.ofNat 32 s.cadUs,
     reqId := BitVec.ofNat 32 (2 * k * 2 ^ 29 + 35 * 2 ^ 23 + (if response then 2 ^ 22 else 0) + n % 2 ^ 22), payload := leBytes 64 slot.toNat },
   s.setFab k { fb with seq := SMap.set 0 fb.seq key ((n + 1) % 2 ^ 23) })

/-- An output serves a packet of the hub's that is injected now: nothing older waits for it, and no other input is before it in turn
(R333, R401). -/
def State.outputFree (s : State) (k out : Nat) : Bool :=
  (s.holder k out).isNone && (s.rivals k out).all fun x => s.ageOf x.2 == 0 && decide (s.turnOf k out 132 < s.turnOf k out x.1)

/-- Send the oldest relay that leaves on this die; one whose port no longer carries packets is gone (R401). -/
def State.sendRelay (s : State) (k : Nat) : Option State :=
  match s.hub.relayOut.find? fun r => cubeFibre r.1.val / 8 == k with
  | none => none
  | some r =>
    let f := cubeFibre r.1.val
    let s1 := s.setHub { s.hub with relayOut := s.hub.relayOut.erase r }
    let (p, s2) := s1.relayPacket k r.2.1 r.2.2
    if !s.portOpen f then some s1
    else if s.laneReady f 0 p && s.outputFree k (16 * (f % 8)) then
      some ((s2.setFab k { s2.fab k with served := SMap.set 0 (s2.fab k).served (16 * (f % 8)) 133 }).launch f 0 p)
    else none

/-- Tokens allow a request of a class now (R331, R332). -/
def State.tokensAllow (s : State) (k cls : Nat) : Bool :=
  let rate := s.keyN 0x0301 (16 * cls) 4
  rate == 0xFFFFFFFF || (rate != 0 && decide (0 ≤ (s.accrued k cls).1))

/-- Injection subtracts a packet's bytes from the tokens of its class; an unshaped class has none to spend. -/
def State.spendTokens (s : State) (k cls bytes : Nat) : State :=
  if s.keyN 0x0301 (16 * cls) 4 = 0xFFFFFFFF then s
  else
    let s1 := s.accrue k
    s1.setFab k { s1.fab k with tokens := (s1.fab k).tokens.zipIdx.map fun x => if x.2 = cls then x.1 - Int.ofNat bytes else x.1 }

/-- Issuer i of die k, and the compute die attached to it. -/
def State.issuer (s : State) (k i : Nat) : IssuerState := SMap.get {} (s.fab k).issuers i
def State.setIssuer (s : State) (k i : Nat) (x : IssuerState) : State :=
  s.setFab k { s.fab k with issuers := SMap.set {} (s.fab k).issuers i x }
def issuerDie (k i : Nat) : Nat := 2 * k + i

/-- Answer the access of a channel that a packet carries. -/
def State.respondRemote (s : State) (c : Nat) (id : Word32) (failed : Bool) (data : List Byte) (flags : List Bool) : State :=
  let a := s.channel c
  match a.cur with
  | some d =>
    let out := d.out.map fun x => if x.reqId = some id ∧ x.resp = none then { x with resp := some (failed, data, flags) } else x
    s.setChannel c { a with cur := some { d with out := out } }
  | none => s

/-- Hand a reply, or the lack of one, to the source of a request. -/
def State.answerSource (s : State) (k : Nat) (reqId : Word32) (st : Nat) (data : List Byte) (mask : Word32) (off : Nat) : State :=
  let die := fld reqId 31 29
  let unit := fld reqId 28 23
  if unit < 32 then
    s.respondRemote (32 * die + unit) reqId (decide (0x10 ≤ st)) data (data.zipIdx.map fun b => bitOf mask ((off % 256 + b.2) / 8))
  else if unit = 32 then
    let i := die % 2
    let x := s.issuer k i
    s.setIssuer k i { x with out := x.out.map fun o => if o.reqId = some reqId ∧ o.reply = none then { o with reply := some (BitVec.ofNat 8 st, data, mask) } else o }
  else s

/-- `PACKET_INJECT`: the oldest queued request of a class enters the router when the tokens are at least 0 and the fabric is not
draining; a memory request is then outstanding for 100 us (R325, R332, R342). Routes may have changed since it was queued: one whose
destination is no longer present completes as `UNREACHABLE` and sends no packet (R339). Relays come first in class 3 (R401). -/
def execPacketInject (k : LpId) (cls : Fin 4) (s : State) : Out :=
  if s.inDomainReset (.fab k) then ok s else
  match (if cls.val = 3 then s.sendRelay k else none) with
  | some s1 => ok s1
  | none =>
    match SMap.get [] (s.fab k).inject cls with
    | [] => ok s
    | p :: rest =>
      if s.hub.stopped then ok s
      else if fld p.fan 11 0 = 0 ∧ !routePresent (s.routeEntry p.dstPkg) then
        let s1 := s.setFab k { s.fab k with inject := SMap.set [] (s.fab k).inject cls rest }
        ok (if p.collective then s1 else s1.answerSource k p.reqId 0x21 [] 0 0)
      else if !s.tokensAllow k cls then ok s
      else
        let s1 := s.spendTokens k cls (32 * p.blockCount)
        let fb := s1.fab k
        let wait : List Outstanding := if p.collective then [] else [{ reqId := p.reqId, deadline := s.nowNs + 100000 }]
        let sent : Packet := { p with injectUs := BitVec.ofNat 32 s.cadUs }
        let s2 := s1.setFab k { fb with inject := SMap.set [] fb.inject cls rest, outq := fb.outq ++ [sent], out := fb.out ++ wait }
        ok (if p.ty = 0x10 then s2.noteSending k p else s2)

/-! ### Remote memory at the target (R24, R316, R343-R345) -/

/-- Two requests of one source have overlapping ranges (R345). -/
def Packet.overlaps (p q : Packet) : Bool :=
  p.src == q.src && p.reqDie == q.reqDie && p.reqUnit == q.reqUnit && p.space == q.space &&
  decide (p.offset.toNat < q.offset.toNat + fld q.len 8 0) && decide (q.offset.toNat < p.offset.toNat + fld p.len 8 0)

/-- Every overlapping request of the same source that came before has been performed (R345). -/
def State.inOrder (s : State) (k : Nat) (p : Packet) : Bool :=
  (((s.fab k).local_.takeWhile fun x => x.2 != p).all fun x => x.2.network != 0 || x.2.collective || !x.2.overlaps p) &&
  ((s.fab k).serving.all fun x => x.job.done || !x.packet.overlaps p)

/-- Take the oldest request of a kind that has been delivered and that no request of its source holds up. -/
def State.takeRequest (s : State) (k : Nat) (f : Packet → Bool) : Option (Option FibreId × Packet × State) :=
  ((s.fab k).local_.find? fun x => x.2.network == 0 && !x.2.collective && f x.2 && s.inOrder k x.2).map fun x =>
    (x.1.map (·.1), x.2, s.setFab k { s.fab k with local_ := (s.fab k).local_.erase x })

/-- The mailbox and byte of an offset in control space that a request may reach: `none` from inside the package; MB0-MB15 from a
service port, MB16-MB23 from a cube port (R24). -/
def controlPlace (from_ : Option FibreId) (off len : Nat) : Option (Nat × Nat) :=
  let m := (off - 0x0F0000000000) / 4096
  let o := off % 4096
  match from_ with
  | none => none
  | some f =>
    let mine := if (fibreCube f.val).isSome then decide (16 ≤ m) && decide (m < 24) else decide (m < 16)
    if 0x0F0000000000 ≤ off ∧ mine ∧ o % 4 = 0 ∧ len % 4 = 0 ∧ o + len ≤ 4096 then some (m, o) else none

/-- A memory request that has been performed: status, reply data with its poison flags, and the state. -/
abbrev Performed := Nat × List (Byte × Bool) × State

/-- The range lies in tiers 1 to 3, where atomic operations may act (R344). -/
def atomicTier (off : Nat) : Bool :=
  match regionOf off with
  | some (.vault _, _) | some (.hbm _, _) | some (.cap _, _) => true
  | _ => false

/-- A memory-space request that the target refuses without an access: its range is not whole in one region that serves (R10, R343). -/
def State.refusesAccess (s : State) (off len : Nat) : Bool :=
  match regionOf off with
  | some (r, o) => !(decide (o + len ≤ r.size) && s.regionServes r)
  | none => true

/-- A `LOAD` of control space (R24, R343). -/
def State.controlLoad (s : State) (from_ : Option FibreId) (space off len : Nat) : Performed :=
  match (if space = 1 then controlPlace from_ off len else none) with
  | some (m, o) => (0x00, (List.range (len / 4)).flatMap fun i => (leBytes 4 (s.mbWord m (o + 4 * i)).toNat).map fun b => (b, false), s)
  | none => (0x10, [], s)

/-- A `STORE` to control space (R24, R343). -/
def State.controlStore (s : State) (from_ : Option FibreId) (space off : Nat) (bs : List (Byte × Bool)) : Performed :=
  match (if space = 1 then controlPlace from_ off bs.length else none) with
  | some (m, o) =>
    (0x00, [], (List.range (bs.length / 4)).foldl (fun s i =>
      s.writeMb m (o + 4 * i) (BitVec.ofNat 32 (leNat (((bs.map (·.1)).drop (4 * i)).take 4)))) s)
  | none => (0x10, [], s)

/-- A memory request: what it does, where, and its data. -/
structure MemRequest where
  code  : Nat
  space : Nat
  off   : Nat
  len   : Nat
  /-- data of a `STORE`, with its poison flags -/
  bytes : List (Byte × Bool)
  /-- operation and operands of an `ATOMIC` -/
  atomic : Nat × Nat × Nat
  deriving DecidableEq, Repr

/-- The request that a packet carries (Table 11.2). -/
def Packet.request (p : Packet) : MemRequest :=
  { code := p.ty.toNat, space := fld p.space 3 0, off := p.offset.toNat, len := fld p.len 8 0,
    bytes := if p.ty = 0x02 then p.payload.zip (p.poisonFlags p.payload.length) else [],
    atomic := (p.code.toNat, leNat (p.payload.take 8), leNat ((p.payload.drop 8).take 8)) }

/-- What a request answers at once: control space, and what is refused without an access (R24, R343, R344). -/
def State.atOnce (s : State) (from_ : Option FibreId) (r : MemRequest) : Option Performed :=
  let n := if r.code = 2 then r.bytes.length else r.len
  if r.code = 3 ∧ (r.space ≠ 0 ∨ !atomicTier r.off ∨ r.off % max 1 r.len ≠ 0) then some (0x10, [], s)
  else if r.space ≠ 0 then some (if r.code = 2 then s.controlStore from_ r.space r.off r.bytes else s.controlLoad from_ r.space r.off r.len)
  else if s.refusesAccess r.off n then some (0x10, [], s)
  else none

/-- The servant request of a memory request. -/
def MemRequest.servant (r : MemRequest) (o : ReqOwner) : ServantReq :=
  let n := if r.code = 2 then r.bytes.length else r.len
  { owner := o, write := r.code != 1, addr := r.off, data := r.bytes.map (·.1), poison := r.bytes.map (·.2), len := n, whole := n,
    atomic := if r.code = 3 then some r.atomic else none }

/-- The progress of a memory request before any of it is performed. -/
def MemRequest.job (r : MemRequest) : ServJob := { off := r.off, len := if r.code = 2 then r.bytes.length else r.len }

/-- The status and data that a performed access answers: a `LOAD` of a poisoned word is answered poisoned (R218, R343). -/
def ServJob.result (j : ServJob) (load : Bool) : Nat × List (Byte × Bool) :=
  (if j.status ≠ 0 then j.status else if load && j.data.any (·.2) then 0x01 else 0x00, j.data)

/-- Answer a request with what was performed; a reply has data only on success (Table 11.2). -/
def State.answerRequest (k : Nat) (p : Packet) (r : Performed) : State :=
  let (st, data, s1) := r
  let good := decide (st < 0x10)
  let bytes := if good then data.map (·.1) else []
  s1.pushOut k (s1.replyTo p st bytes.length bytes (if good then poisonMask p.offset.toNat (data.map (·.2)) else 0))

/-- Serve the requests of a kind at a target: one whose accesses have all been performed is answered; with none, the oldest that has
been delivered is taken, and its access is issued to the servant side of its memory (R16, R25, R343). -/
def State.serveRemote (s : State) (k : Nat) (kind : Packet → Bool) : State :=
  match (s.fab k).serving.find? fun x => kind x.packet && x.job.done with
  | some x =>
    let s1 := s.setFab k { s.fab k with serving := (s.fab k).serving.erase x }
    let (st, data) := x.job.result (x.packet.ty == 0x01)
    State.answerRequest k x.packet (st, data, s1)
  | none =>
    match s.takeRequest k kind with
    | some (f, p, s1) =>
      (match s1.atOnce f p.request with
       | some r => State.answerRequest k p r
       | none =>
         let fb := s1.fab k
         (s1.setFab k { fb with serving := fb.serving ++ [{ n := fb.servNo, packet := p, job := p.request.job }], servNo := fb.servNo + 1 }).enqueue
           (p.request.servant (.remote k fb.servNo)))
    | none => s

/-- `REMOTE_LOAD` (R343). -/
def execRemoteLoad (k : LpId) (s : State) : Out :=
  if s.inDomainReset (.fab k) then ok s else ok (s.serveRemote k fun p => p.ty == 0x01)

/-- `REMOTE_STORE` (R341, R343). -/
def execRemoteStore (k : LpId) (s : State) : Out :=
  if s.inDomainReset (.fab k) then ok s else ok (s.serveRemote k fun p => p.ty == 0x02)

/-- Serve the `ATOMIC` requests of an operation (R344). -/
def State.remoteAtomic (s : State) (k aop : Nat) : State := s.serveRemote k fun p => p.ty == 0x03 && p.code.toNat == aop

/-- `ADD` (Table 11.6). -/
def execAtomicAdd (k : LpId) (s : State) : Out := if s.inDomainReset (.fab k) then ok s else ok (s.remoteAtomic k 0)
/-- `SWAP`. -/
def execAtomicSwap (k : LpId) (s : State) : Out := if s.inDomainReset (.fab k) then ok s else ok (s.remoteAtomic k 1)
/-- `CAS`. -/
def execAtomicCas (k : LpId) (s : State) : Out := if s.inDomainReset (.fab k) then ok s else ok (s.remoteAtomic k 2)
/-- `MIN`. -/
def execAtomicMin (k : LpId) (s : State) : Out := if s.inDomainReset (.fab k) then ok s else ok (s.remoteAtomic k 3)
/-- `MAX`. -/
def execAtomicMax (k : LpId) (s : State) : Out := if s.inDomainReset (.fab k) then ok s else ok (s.remoteAtomic k 4)
/-- `MINU`. -/
def execAtomicMinu (k : LpId) (s : State) : Out := if s.inDomainReset (.fab k) then ok s else ok (s.remoteAtomic k 5)
/-- `MAXU`. -/
def execAtomicMaxu (k : LpId) (s : State) : Out := if s.inDomainReset (.fab k) then ok s else ok (s.remoteAtomic k 6)
/-- `FADD`: FP32, round to nearest even (R182). -/
def execAtomicFadd (k : LpId) (s : State) : Out := if s.inDomainReset (.fab k) then ok s else ok (s.remoteAtomic k 7)

/-! ### Operation records (R337-R339, R346, Table 11.5) -/

/-- The router whose P3 lane brings the records of a die (R337). -/
def recordRouter (d : Nat) : Nat := 256 * d + (if d < 4 then 7 else 255)

/-- `OPERATION_RECORD`: every flit that has come on edge lane 31 is a record and joins the issuer's queue; a full queue leaves it where it
is (R337). -/
def execOperationRecord (k : LpId) (i : Fin 2) (s : State) : Out :=
  if s.inDomainReset (.fab k) then ok s else
  let r := recordRouter (issuerDie k i)
  let x := s.router r
  let q := s.issuer k i
  match x.fifoOut.find? fun e => e.port == .p3 && s.crossed e with
  | some e =>
    if 64 ≤ q.queue.length then ok s
    else
      let s1 := s.takeOut r e
      ok (s1.setIssuer k i { s1.issuer k i with queue := q.queue ++ [e.flit] })
  | none => ok s

/-- Fields of a record (Table 11.5). -/
def opCode (r : BitVec 512) : Nat := slotN r 0 1
def opAop (r : BitVec 512) : Nat := slotN r 1 1
def opLen (r : BitVec 512) : Nat := slotN r 2 2
def opCtr (r : BitVec 512) : Nat := slotN r 4 1
def opAddr (r : BitVec 512) : Nat := slotN r 8 8
def opResult (r : BitVec 512) : Nat := slotN r 16 8

/-- A result lies in a local-store data area or scratchpad of the issuing die. -/
def resultFits (d off len : Nat) : Bool :=
  match regionOf off with
  | some (.store g, o) => g / 2048 == d && decide (o + len ≤ 0x2C000)
  | some (.scratch p, o) => p / 256 == d && decide (o + len ≤ 0x10000)
  | _ => false

/-- The fields of a record keep Table 11.5. -/
def State.recordOk (s : State) (d : Nat) (r : BitVec 512) : Bool :=
  let n := opLen r
  let res (len : Nat) : Bool := resultFits d (opResult r) len
  decide (opCtr r < 64) && s.opCounter (opCtr r) && slotN r 5 3 == 0 && slotN r 56 8 == 0 &&
  (match opCode r with
   | 1 => opAop r == 0 && decide (1 ≤ n) && decide (n ≤ 256) && res n
   | 2 => opAop r == 0 && decide (1 ≤ n) && decide (n ≤ 32) && opResult r == 0
   | 3 => decide (opAop r ≤ 7) && (n == 4 || (n == 8 && opAop r != 7)) && res 8
   | 4 => opAop r == 0 && n == 0 && opAddr r == 0 && opResult r == 0
   | _ => false)

/-- What a record asks for, as a memory request inside the package (R20). -/
def opRequest (f : Flit) : MemRequest :=
  let r := f.data
  { code := opCode r, space := gaSpace (opAddr r), off := gaOffset (opAddr r), len := opLen r,
    bytes := if opCode r = 2 then (List.range (opLen r)).map fun i => (BitVec.ofNat 8 (slotN r (24 + i) 1), bitOf f.poison (3 + i / 8)) else [],
    atomic := (opAop r, slotN r 24 8, slotN r 32 8) }

/-- The packet of a record (R316, R317). -/
def opPacket (f : Flit) (dst : Nat) : Packet :=
  let r := f.data
  let off := gaOffset (opAddr r)
  let flags := (List.range (opLen r)).map fun i => bitOf f.poison (3 + i / 8)
  { ty := BitVec.ofNat 8 (opCode r), code := BitVec.ofNat 8 (opAop r), space := BitVec.ofNat 8 (gaSpace (opAddr r)), len := BitVec.ofNat 16 (opLen r),
    dst := BitVec.ofNat 16 dst, offset := BitVec.ofNat 48 off
    poison := if opCode r = 2 then poisonMask off flags else 0
    payload := if opCode r = 2 then leBytes (opLen r) (slotN r 24 32) else if opCode r = 3 then leBytes 16 (slotN r 24 16) else [] }

/-- The access of a record, for the send windows. -/
def opAccess (r : BitVec 512) : Access3 := match opCode r with | 1 => .load | 2 => .store | _ => .atomic

/-- Start a record: its access is issued inside the package, it is sent as a request, or it is complete with the status of the first
check of R339 that fails. -/
def State.startRecord (s : State) (k i : Nat) (f : Flit) : State :=
  let r := f.data
  let d := issuerDie k i
  let x := s.issuer k i
  let pkg := gaPackage (opAddr r)
  let open_ (s : State) (id : Option Word32) (reply : Option (Byte × List Byte × Word32)) : State :=
    let y := s.issuer k i
    s.setIssuer k i { y with out := y.out ++ [{ n := x.next, record := r, reqId := id, reply := reply }], next := x.next + 1 }
  let done (s : State) (st : Nat) : State := open_ s none (some (BitVec.ofNat 8 st, [], 0))
  if !s.recordOk d r then done s 0x23
  else if opCode r = 4 then done s 0
  else if s.ownAddress (opAddr r) then
    match s.atOnce none (opRequest f) with
    | some (st, data, s1) => open_ s1 none (some (BitVec.ofNat 8 st, data.map (·.1), poisonMask (gaOffset (opAddr r)) (data.map (·.2))))
    | none =>
      let run : OpRun := { n := x.next, record := r, reqId := none, reply := none, job := some (opRequest f).job }
      (s.setIssuer k i { x with out := x.out ++ [run], next := x.next + 1 }).enqueue ((opRequest f).servant (.record k i x.next))
  else
    match s.sendWindow pkg (gaOffset (opAddr r)) (opLen r) (gaSpace (opAddr r)) (opAccess r) with
    | none => done s 0x20
    | some dst =>
      if s.packageNo.isNone then done s 0x20
      else if opCode r = 3 ∧ opAop r = 7 ∧ s.ordered then done s 0x12
      else if !routePresent (s.routeEntry pkg) then done s 0x21
      else
        let (id, s1) := s.request k 32 d 1 (opPacket f dst)
        open_ s1 (some id) none

/-- A record asks for a request to another package. -/
def State.recordLeaves (s : State) (d : Nat) (r : BitVec 512) : Bool := s.recordOk d r && opCode r != 4 && !s.ownAddress (opAddr r)

/-- Start the record at the head of an issuer's queue if it is of an operation, or of none (R338): up to 64 are outstanding, and none
follows a `FENCE` that is not complete. A request to another package waits while the fabric is stopped (R339). -/
def State.issueRecord (s : State) (k i op : Nat) : State :=
  let x := s.issuer k i
  match x.queue with
  | f :: rest =>
    let mine := opCode f.data == op || opCode f.data == 0 || decide (4 < opCode f.data)
    if mine && !(s.recordLeaves (issuerDie k i) f.data && s.hub.stopped) && decide (x.out.length < 64) && !(x.out.any fun o => opCode o.record == 4) && !s.inDomainReset (.fab (Fin.ofNat 4 k)) then
      (s.setIssuer k i { x with queue := rest }).startRecord k i f
    else s
  | [] => s

/-- `OP_LOAD` (R338). -/
def execOpLoad (k : LpId) (i : Fin 2) (s : State) : Out := if s.inDomainReset (.fab k) then ok s else ok (s.issueRecord k i 1)
/-- `OP_STORE` (R338). -/
def execOpStore (k : LpId) (i : Fin 2) (s : State) : Out := if s.inDomainReset (.fab k) then ok s else ok (s.issueRecord k i 2)
/-- `OP_ATOMIC` (R338). -/
def execOpAtomic (k : LpId) (i : Fin 2) (s : State) : Out := if s.inDomainReset (.fab k) then ok s else ok (s.issueRecord k i 3)
/-- `OP_FENCE` (R338). -/
def execOpFence (k : LpId) (i : Fin 2) (s : State) : Out := if s.inDomainReset (.fab k) then ok s else ok (s.issueRecord k i 4)

/-- The reply of a record whose access inside the package has been performed. -/
def OpRun.settled (o : OpRun) : OpRun :=
  match o.reply, o.job with
  | none, some j =>
    if j.done then
      let (st, data) := j.result (opCode o.record == 1)
      { o with reply := some (BitVec.ofNat 8 st, data.map (·.1), poisonMask j.off (data.map (·.2))), job := none }
    else o
  | _, _ => o

/-- A successful record has a result to write (Table 11.5). -/
def hasResult (r : BitVec 512) (st : Byte) (data : List Byte) : Bool :=
  decide (st.toNat < 0x10) && (opCode r == 1 || opCode r == 3) && !data.isEmpty

/-- A record ends with a status: its counter steps, or it is `OP_BAD` (R338, R346). -/
def State.endRecord (s : State) (d i : Nat) (r : BitVec 512) (st : Nat) : State :=
  if st < 0x10 then s.stepChunk (opCtr r)
  else if s.prog.running then s.raiseFault 0x1E 5 d i (opAddr r + 2 ^ 64 * st)
  else s

/-- `OP_RECORD_COMPLETE`: the reply has arrived and the result is written, and once that write is answered the counter steps, or the
record ends as `OP_BAD` (R338, R346). A `FENCE` completes after every earlier record. -/
def execOpRecordComplete (k : LpId) (i : Fin 2) (n : Nat) (s : State) : Out :=
  if s.inDomainReset (.fab k) then ok s else
  let x := s.issuer k i
  match x.out.find? fun o => o.n == n with
  | some o0 =>
    let o := o0.settled
    let d := issuerDie k i
    let done (st : Nat) : State := (s.setIssuer k i { x with out := x.out.erase o0 }).endRecord d i o.record st
    match o.reply, o.job with
    | some (st, data, mask), none =>
      if opCode o.record = 4 ∧ (x.out.any fun y => decide (y.n < n)) then ok s
      else if hasResult o.record st data then
        let off := gaOffset (opAddr o.record)
        let flags := data.zipIdx.map fun b => bitOf mask ((off % 256 + b.2) / 8)
        let job : ServJob := { off := opResult o.record, len := data.length }
        ok ((s.setIssuer k i { x with out := x.out.map fun y => if y.n = n then { o with job := some job } else y }).enqueue
          { owner := .record k i n, write := true, addr := opResult o.record, data := data, poison := flags, len := data.length, whole := data.length })
      else ok (done st.toNat)
    | some (st, _, _), some j => if j.done then ok (done (if j.status = 0 then st.toNat else 0x10)) else ok s
    | none, _ => ok s
  | none => ok s

/-! ### Replies and timeouts (R342) -/

/-- `REPLY_RECEIVE`: the oldest memory reply delivered goes to its source; one that matches no outstanding request is discarded and
counted (R342). -/
def execReplyReceive (k : LpId) (s : State) : Out :=
  if s.inDomainReset (.fab k) then ok s else
  match s.takeLocal k fun p => p.network == 1 && !p.collective with
  | none => ok s
  | some ((_, p), s1) =>
    let fb := s1.fab k
    match fb.out.find? fun o => o.reqId == p.reqId with
    | none => ok (s1.setFab k { fb with replyLate := fb.replyLate + 1 })
    | some o =>
      let bad := decide (0x10 ≤ p.code.toNat)
      let s2 := s1.setFab k { fb with out := fb.out.erase o, errReply := if bad then fb.errReply + 1 else fb.errReply }
      ok (s2.answerSource k p.reqId p.code.toNat p.payload p.poison p.offset.toNat)

/-- `REQUEST_TIMEOUT`: a source has no reply 100 us after it injected a request (R342). -/
def execRequestTimeout (k : LpId) (reqId : Word32) (s : State) : Out :=
  if s.inDomainReset (.fab k) then ok s else
  match (s.fab k).out.find? fun o => o.reqId == reqId && decide (o.deadline ≤ s.nowNs) with
  | none => ok s
  | some o =>
    let fb := s.fab k
    let s1 := s.setFab k { fb with out := fb.out.erase o, timeout := fb.timeout + 1 }
    if fld reqId 28 23 < 32 then
      let c : ChanId := Fin.ofNat 256 (32 * fld reqId 31 29 + fld reqId 28 23)
      match (s1.channel c).cur with
      | some d =>
        match d.out.find? fun x => x.reqId == some reqId with
        | some x => ok (s1.timeOutAccess c x)
        | none => ok s1
      | none => ok s1
    else ok (s1.answerSource k reqId 0x22 [] 0 0)

/-! ### Drained, and congestion samples (R325, R349) -/

/-- `FABRIC_DRAINED`: an open `DRAIN_FABRIC` completes (R325). -/
def execFabricDrained (s : State) : Out :=
  if s.drained then
    match s.hub.openCmds.find? fun o => o.opcode == 0x33 with
    | some o => ok (s.completeCmd o.mb o.tag.toNat 0x33 stDone 0 0)
    | none => ok s
  else ok s

/-- The bin of an occupancy in bytes (Table 11.11). -/
def congestionBin (bytes : Nat) : Nat := min 7 ((bytes + 8191) / 8192)

/-- A packet, or a copy of one, waits for a lane that holds no credit for it. -/
def State.stalled (s : State) (k f n : Nat) : Bool :=
  (List.range 134).any fun i =>
    match s.headOf k i with
    | some p => (s.movesLeft k i p).any fun m =>
        match m with
        | .lane f2 w q => f2 == f && s.congestionNet f2 w == n && decide (s.credits f2 w q < q.blockCount)
        | _ => false
    | none => false

/-- `CONGESTION_SAMPLE`: one sample of every port and network of a die (R349). -/
def execCongestionSample (k : LpId) (s : State) : Out :=
  if s.inDomainReset (.fab k) then ok s else
  ok ((congestionPlaces.filter fun p => p.1 / 8 == k.val).foldl (fun t p =>
    let (f, n) := p
    let level := ((List.range 16).filter fun w => s.congestionNet f w == n).foldl (fun b w => b + 32 * s.fifoLevel f w) 0
    t.noteCongestion f n fun c =>
      let bins := (List.range 8).map fun b => (c.bins[b]?).getD 0
      { c with samples := c.samples + 1, bins := bins.zipIdx.map fun x => if x.2 = congestionBin level then x.1 + 1 else x.1
               stall := if s.stalled k f n then c.stall + 1 else c.stall }) s)

end Sys2Proof.Machine
end

