-- ==== Sys2Proof/Machine/Crypto.lean ====
section
/-! DEFINITION. SHA-384 (FIPS 180) and the verification of ECDSA over P-384 (FIPS 186, SEC 1), which image signatures use
(R409, R488). Byte strings are most significant byte first. -/

namespace Sys2Proof.Machine

open Sys2Proof

/-! ### SHA-384 -/

/-- The `n` words of 64 bits that a number holds, the least significant first. -/
def words64 (n w : Nat) : List Nat := (List.range n).map fun i => w / 2 ^ (64 * i) % 2 ^ 64

/-- The additive constants of the 80 rounds, five numbers of 16 words: word t is the first 64 fraction bits of the cube root of
prime t. -/
def shaK : List Nat :=
  words64 16 0xc19bf174cf6926949bdc06a725c7123580deb1fe3b1696b172be5d74f27b896f550c7dc3d5ffb4e2243185be4ee4b28c12835b0145706fbed807aa98a3030242ab1c5ed5da6d8118923f82a4af194f9b59f111f1b605d0193956c25bf348b538e9b5dba58189dbbcb5c0fbcfec4d3b2f7137449123ef65cd428a2f98d728ae22 ++
  words64 16 0x142929670a0e6e7006ca6351e003826fd5a79147930aa725c6e00bf33da88fc2bf597fc7beef0ee4b00327c898fb213fa831c66d2db43210983e5152ee66dfab76f988da831153b55cb0a9dcbd41fbd44a7484aa6ea6e4832de92c6f592b0275240ca1cc77ac9c650fc19dc68b8cd5b5efbe4786384f25e3e49b69c19ef14ad2 ++
  words64 16 0x106aa07032bbd1b8f40e35855771202ad69906245565a910d192e819d6ef5218c76c51a30654be30c24b8b70d0f89791a81a664bbc423001a2bfe8a14cf1036492722c851482353b81c2c92e47edaee6766a0abb3c77b2a8650a73548baf63de53380d139d95b3df4d2c6dfc5ac42aed2e1b21385c26c92627b70a8546d22ffc ++
  words64 16 0xc67178f2e372532bbef9a3f7b2c67915a4506cebde82bde990befffa23631e288cc702081a6439ec84c87814a1f0ab7278a5636f43172f60748f82ee5defb2fc682e6ff3d6b2b8a35b9cca4f7763e3734ed8aa4ae3418acb391c0cb3c5c95a6334b0bcb5e19b48a82748774cdf8eeb991e376c085141ab5319a4c116b8d2d0c8 ++
  words64 16 0x6c44198c4a4758175fcb6fab3ad6faec597f299cfc657e2a4cc5d4becb3e42b6431d67c49c100d4c3c9ebe0a15c9bebc32caab7b40c7249328db77f523047d841b710b35131c471b113f9804bef90dae0a637dc5a2c898a606f067aa72176fbaf57d4f7fee6ed178eada7dd6cde0eb1ed186b8c721c0c207ca273eceea26619c

/-- The chaining value before the first block: the fraction bits of the square roots of the 9th to 16th primes. -/
def shaInit : List Nat :=
  words64 8 0x47b5481dbefa4fa4db0c2e0d64f98fa78eb44a876858151167332667ffc00b31152fecd8f70e59399159015a3070dd17629a292a367cd507cbbb9d5dc1059ed8

/-- The number whose bytes these are, most significant first. -/
def beNat (bs : List Byte) : Nat := bs.foldl (fun n b => 256 * n + b.toNat) 0

/-- Add modulo 2^64. -/
def add64 (a b : Nat) : Nat := (a + b) % 2 ^ 64
/-- Rotate right. -/
def rotr64 (n x : Nat) : Nat := x / 2 ^ n + x % 2 ^ n * 2 ^ (64 - n)

/-- The words of a block and the 64 that follow from them; `w` holds the last 16, newest first. -/
def shaSchedule : Nat → List Nat → List Nat
  | 0, _ => []
  | n + 1, w =>
    let g (i : Nat) : Nat := (w[i]?).getD 0
    let s0 := rotr64 1 (g 14) ^^^ rotr64 8 (g 14) ^^^ (g 14 / 2 ^ 7)
    let s1 := rotr64 19 (g 1) ^^^ rotr64 61 (g 1) ^^^ (g 1 / 2 ^ 6)
    let x := (g 15 + s0 + g 6 + s1) % 2 ^ 64
    x :: shaSchedule n (x :: w.take 15)

/-- One round on the eight working values. -/
def shaRound (v : List Nat) (kw : Nat) : List Nat :=
  match v with
  | [a, b, c, d, e, f, g, h] =>
    let s1 := rotr64 14 e ^^^ rotr64 18 e ^^^ rotr64 41 e
    let ch := (e &&& f) ^^^ ((e ^^^ (2 ^ 64 - 1)) &&& g)
    let t1 := (h + s1 + ch + kw) % 2 ^ 64
    let s0 := rotr64 28 a ^^^ rotr64 34 a ^^^ rotr64 39 a
    let maj := (a &&& b) ^^^ (a &&& c) ^^^ (b &&& c)
    [(t1 + s0 + maj) % 2 ^ 64, a, b, c, add64 d t1, e, f, g]
  | _ => v

/-- Compress one block of 128 bytes. -/
def shaBlock (h : List Nat) (blk : List Byte) : List Nat :=
  let w := (List.range 16).map fun i => beNat ((blk.drop (8 * i)).take 8)
  let kw := List.zipWith (· + ·) shaK (w ++ shaSchedule 64 w.reverse)
  List.zipWith add64 h (kw.foldl shaRound h)

/-- Compress a padded message. -/
def shaBlocks : Nat → List Nat → List Byte → List Nat
  | 0, h, _ => h
  | n + 1, h, bs => shaBlocks n (shaBlock h (bs.take 128)) (bs.drop 128)

/-- Zero bytes of padding after the 0x80, for a message of `n` bytes. -/
def shaPad (n : Nat) : Nat := (239 - n % 128) % 128

/-- SHA-384 as a 384-bit number, its first byte most significant. -/
def sha384 (bs : List Byte) : BitVec 384 :=
  let n := bs.length
  let m := bs ++ [0x80] ++ List.replicate (shaPad n) 0 ++ (leBytes 16 (8 * n)).reverse
  BitVec.ofNat 384 (((shaBlocks (m.length / 128) shaInit m).take 6).foldl (fun x w => 2 ^ 64 * x + w) 0)

/-! ### P-384 -/

def p384P : Nat := 2 ^ 384 - 2 ^ 128 - 2 ^ 96 + 2 ^ 32 - 1
def p384B : Nat := 0xb3312fa7e23ee7e4988e056be3f82d19181d9c6efe8141120314088f5013875ac656398d8a2ed19d2a85c8edd3ec2aef
def p384N : Nat := 0xffffffffffffffffffffffffffffffffffffffffffffffffc7634d81f4372ddf581a0db248b0a77aecec196accc52973
def p384Gx : Nat := 0xaa87ca22be8b05378eb1c71ef320ad746e1d3b628ba79b9859f741e082542a385502f25dbf55296c3a545e3872760ab7
def p384Gy : Nat := 0x3617de4a96262c6f5d9e98bf9292dc29f8f41dbd289a147ce9da3113b5f0b8c00a60b1ce1d7e819d7a431d7c90ea0e5f

/-- `a ^ e` modulo `m`, for an exponent of at most `k` bits. -/
def powMod : Nat → Nat → Nat → Nat → Nat
  | 0, _, _, m => 1 % m
  | k + 1, a, e, m => powMod k (a * a % m) (e / 2) m * (if e % 2 = 1 then a else 1) % m

/-- Inverse modulo a prime. -/
def invMod (a m : Nat) : Nat := powMod 384 (a % m) (m - 2) m

/-- Add points; none is the point at infinity. -/
def ecAdd (a b : Option (Nat × Nat)) : Option (Nat × Nat) :=
  match a, b with
  | none, q => q
  | q, none => q
  | some (x1, y1), some (x2, y2) =>
    let p := p384P
    if x1 = x2 ∧ (y1 + y2) % p = 0 then none
    else
      let lam := if x1 = x2 then (3 * x1 * x1 + (p - 3)) * invMod (2 * y1) p % p else (y2 + p - y1) * invMod (x2 + p - x1) p % p
      let x3 := (lam * lam + 2 * p - x1 - x2) % p
      some (x3, (lam * (x1 + p - x3) + p - y1) % p)

/-- Multiply a point by a scalar of at most `n` bits. -/
def ecMul : Nat → Nat → Option (Nat × Nat) → Option (Nat × Nat)
  | 0, _, _ => none
  | n + 1, k, q => ecAdd (if k % 2 = 1 then q else none) (ecMul n (k / 2) (ecAdd q q))

/-- The signature (r, s) verifies over a hash with the public key (x, y). -/
def ecdsaVerify (x y r t : Nat) (hash : BitVec 384) : Bool :=
  let p := p384P
  let n := p384N
  decide (x < p) && decide (y < p) && (y * y % p == (x * x * x + (p - 3) * x + p384B) % p) &&
  decide (1 ≤ r) && decide (r < n) && decide (1 ≤ t) && decide (t < n) &&
  (let w := invMod t n
   match ecAdd (ecMul 384 (hash.toNat * w % n) (some (p384Gx, p384Gy))) (ecMul 384 (r * w % n) (some (x, y))) with
   | some (rx, _) => rx % n == r
   | none => false)

end Sys2Proof.Machine
end

