-- ==== Sys2Proof/Machine/Image.lean ====
section
/-! DEFINITION. Program and firmware images: their header, sections, checks and signature, and what `LOAD_IMAGE` writes
(R130, R133, R135, R142, R150, R155, R162, R165, R187, R276, R409, R441, R488). -/

namespace Sys2Proof.Machine

open Sys2Proof

/-! ### Reading an image -/

/-- `n` bytes of an image from byte `o`, as a number. -/
def imgN (g : Nat → Byte) (o n : Nat) : Nat := leNat ((List.range n).map fun i => g (o + i))

/-- An entry of the section table: kind, die, offset from the header, length, place in the table. -/
structure Section where
  kind : Nat
  die  : Nat
  off  : Nat
  len  : Nat
  idx  : Nat
  deriving DecidableEq, Repr

/-- The dies that a section serves. -/
def Section.dies (x : Section) : List Nat := if x.die = 0xFF then List.range 8 else [x.die]

/-- The first of ordered rules that fails. -/
def firstRule (rules : List (Nat × Bool)) : Option Nat := (rules.find? fun r => !r.2).map (·.1)

/-- Bytes `o` to `o + n - 1` are zero. -/
def zeros (g : Nat → Byte) (o n : Nat) : List (Nat × Bool) := (List.range n).map fun i => (o + i, g (o + i) == 0)

/-- Why an image is refused: reason, section, byte within it (Table 14.11). -/
structure ImageFail where
  reason : Nat
  sec    : Nat := 0
  byte   : Nat := 0
  deriving DecidableEq, Repr

/-! ### Kind 0x01: array table and pass memories (R130) -/

/-- A field of the array table. -/
def arrN (g : Nat → Byte) (a o n : Nat) : Nat := imgN g (16 * a + o) n

/-- Words of the arrays before array `a`. -/
def wordsBefore (g : Nat → Byte) (a : Nat) : Nat := ((List.range a).map fun i => arrN g i 12 2).sum

/-- The gang of an array keeps R130: its leader is named, and every array of the block that it leads holds the same `SIZE` and
`LEADER`, is active when it is, and has no words of its own. -/
def gangRules (g : Nat → Byte) (a : Nat) : List (Nat × Bool) :=
  let size := arrN g a 10 1
  let lead := a / 2 ^ size * 2 ^ size
  let members := if a = lead then ((List.range (2 ^ size)).map (a + ·)).filter (· != a) else []
  [(16 * a + 8, arrN g a 8 2 == lead), (16 * a + 10, arrN g lead 10 1 == size),
   (16 * a + 12, a == lead || arrN g a 12 2 == 0)] ++
  members.flatMap fun m =>
    [(16 * m + 8, arrN g m 8 2 == a), (16 * m + 10, arrN g m 10 1 == size),
     (16 * m + 11, !(nbit (arrN g a 11 1) 0) || nbit (arrN g m 11 1) 0), (16 * m + 12, arrN g m 12 2 == 0)]

def arraySection (g : Nat → Byte) (len : Nat) : Option Nat :=
  if len < 32768 ∨ len ≠ 32768 + 16 * wordsBefore g 2048 then some 0
  else
    firstRule (((List.range 2048).flatMap fun a =>
      let b := 16 * a
      [(b, decide (arrN g a 0 4 < 2 ^ 18)), (b + 4, decide (arrN g a 4 4 < 2 ^ 17)), (b + 8, decide (arrN g a 8 2 < 2 ^ 11)),
       (b + 10, decide (arrN g a 10 1 ≤ 6)), (b + 11, decide (arrN g a 11 1 < 2)), (b + 12, decide (arrN g a 12 2 ≤ 1024))] ++ zeros g (b + 14) 2) ++
      (List.range 2048).flatMap (gangRules g))

/-! ### Kind 0x02: slot tables (R133-R135, R138, R142, R276) -/

/-- An output lies on an asynchronous compute-compute link of a companion die (R276). -/
def State.companionOutput (s : State) (die r : Nat) (q : PortName) : Bool :=
  match portEdge (256 * die + r) q with
  | some (edge, _) =>
    (match edgeFar die edge, edgeEnd die edge with
     | some (some _), some e => (s.linkEnd e).mode == 1
     | _, _ => false)
  | none => false

/-- Slot entry `e` of router `r` of a die is permitted (R133, R135, R142, R276). -/
def State.slotAllowed (s : State) (die r e v : Nat) : Bool :=
  let outs := slotOutputs.zipIdx.map fun x => (x.1, (v >>> (60 - 4 * x.2)) % 16)
  v % 512 == 0 &&
  (outs.all fun x => x.2 == 0 ||
    (match sourcePort x.2 with
     | some src => hasPort (256 * die + r) x.1 && hasPort (256 * die + r) src && !reservedOutput die r e x.1 && (nbit v 9 || !s.companionOutput die r x.1)
     | none => false)) &&
  (let l := (v >>> 44) % 16
   l != 5 && (l == 0 || nbit v 14 || nbit v 9))

def State.routerSection (s : State) (g : Nat → Byte) (len : Nat) (dies : List Nat) : Option Nat :=
  let period := imgN g 0 2
  if len ≠ 557072 then some 0
  else
    firstRule ([(0, decide (16 ≤ period) && decide (period ≤ 256) && decide (period % 16 = 0))] ++ zeros g 2 14 ++
      (List.range 256).flatMap fun r =>
        let b := 16 + 2176 * r
        ((List.range 256).map fun e =>
          let v := imgN g (b + 8 * e) 8
          (b + 8 * e, v == 0 || (decide (e < period) && dies.all fun d => s.slotAllowed d r e v))) ++
        (List.range 16).map fun n =>
          let x := imgN g (b + 2048 + 8 * n) 8
          (b + 2048 + 8 * n, decide (x < 2 ^ 62) && decide (x % 2 ^ 14 = 0) && decide (nfld x 57 46 ≤ 2815)))

/-! ### Kind 0x03: derailleur tables (R150, R154, R155, R162, R165) -/

def descAt (i : Nat) : Nat := 131072 + 1024 + 32768 + 64 * i
def bindAt (x : Nat) : Nat := 16 * x
def quotaAt (row d : Nat) : Nat := 131072 + 16 * row + 2 * d
def voidAt (i : Nat) : Nat := 131072 + 1024 + 8 * i

/-- Descriptor `i`. -/
def imgDesc (g : Nat → Byte) (i : Nat) : LayerDesc := layerDesc (BitVec.ofNat 512 (imgN g (descAt i) 64))

/-- Capacity of binding entry `x`, and its quota on die `d`. -/
def imgCap (g : Nat → Byte) (x : Nat) : Nat := 2 ^ imgN g (bindAt x + 1) 1
def imgQuota (g : Nat → Byte) (x d : Nat) : Nat :=
  if imgN g (bindAt x + 2) 1 = 0 then imgCap g x / 8 else imgN g (quotaAt (imgN g (bindAt x + 2) 1) d) 2

/-- Bound entries of a descriptor's bind range. -/
def imgBound (g : Nat → Byte) (y : LayerDesc) : List Nat := ((List.range y.bind).map (y.offset + ·)).filter fun x => imgN g (bindAt x) 1 != 0

def bindRules (g : Nat → Byte) (x : Nat) : List (Nat × Bool) :=
  let b := bindAt x
  let kind := imgN g b 1
  let cap := imgN g (b + 1) 1
  let row := imgN g (b + 2) 1
  let home := imgN g (b + 3) 1
  [(b, decide (kind ≤ 2)), (b + 1, kind == 0 || (decide (3 ≤ cap) && decide (cap ≤ 10))),
   (b + 2, decide (row ≤ 63) && (kind == 0 || row == 0 || ((List.range 8).map fun d => imgN g (quotaAt row d) 2).sum == 2 ^ cap)),
   (b + 3, decide (home < 16) && (kind != 2 || home == 0)), (b + 4, decide (imgN g (b + 4) 2 < 16384))] ++ zeros g (b + 6) 10

/-- The ranges of Table 5.3, for every descriptor of the table. It gives overflow_expert no range: the model refuses a value that names
no binding entry, above 8,191 (DESIGN CHOICE, log entry 84). -/
def descRules (g : Nat → Byte) (i : Nat) : List (Nat × Bool) :=
  let b := descAt i
  let y := imgDesc g i
  let r (o v lo hi : Nat) : Nat × Bool := (b + o, decide (lo ≤ v) && decide (v ≤ hi))
  [(b, decide (y.tokBase + y.tok ≤ 65536)), r 2 y.tok 1 4096, (b + 4, decide (1 ≤ y.slots) && decide (y.slots + y.tok ≤ 16384)),
   r 6 y.inLines 1 2816, r 8 y.outLines 1 2816, r 10 y.offset 0 8191, (b + 12, decide (1 ≤ y.bind) && decide (y.offset + y.bind ≤ 8192)),
   r 14 y.overflow 0 8191, r 16 y.kActive 1 8, r 17 y.policy 0 2, r 18 y.fmt 7 8, (b + 19, decide (imgN g (b + 19) 1 < 4)),
   r 20 y.fills 0 16384, r 22 y.voidFirst 0 4095, (b + 24, decide (y.voidFirst + y.voidCount ≤ 4096))] ++ zeros g (b + 26) 38

/-- Sweep ranges of the bound entries of a descriptor on a die, and the byte that names each; a quota of 0 has no range (R155). -/
def sweepRules (g : Nat → Byte) (i die : Nat) : List (Nat × Bool) :=
  let y := imgDesc g i
  let rs := ((imgBound g y).map fun x => (x, imgN g (bindAt x + 4) 2, imgQuota g x die)).filter fun r => r.2.2 != 0
  rs.map fun (x, base, q) =>
    (bindAt x + 4, decide (base + q ≤ y.slots) &&
      rs.all fun (x2, base2, q2) => x2 == x || !(decide (base < base2 + q2) && decide (base2 < base + q)))

/-- Void windows of a descriptor (R162, R165). An entry in no descriptor's range has no `VOID` duration to be held to, and is not checked
(DESIGN CHOICE, log entry 85). -/
def voidRules (g : Nat → Byte) (i die : Nat) : List (Nat × Bool) :=
  let y := imgDesc g i
  let ws := (voidEntries y).map fun e => (e, voidEntry (BitVec.ofNat 64 (imgN g (voidAt e) 8)))
  ws.map fun (e, x, arr, off, len) =>
    (voidAt e, decide (1 ≤ len) && decide (ceil32 y.fills + 2 ≤ off) && imgN g (bindAt x) 1 == 1 && imgN g (bindAt x + 3) 1 == die + 8 &&
      ws.all fun (e2, x2, arr2, off2, len2) =>
        e2 == e || arr2 != arr || (x2 == x && !(decide (off < off2 + len2) && decide (off2 < off + len))))

def derailleurSection (g : Nat → Byte) (len : Nat) (dies : List Nat) : Option Nat :=
  if len ≠ 168960 then some 0
  else
    firstRule ((List.range 8192).flatMap (bindRules g) ++
      ((List.range 512).map fun i => (131072 + 2 * i, decide (imgN g (131072 + 2 * i) 2 ≤ 1024))) ++
      (List.range 64).flatMap (descRules g) ++
      dies.flatMap fun d => (List.range 64).flatMap fun i => sweepRules g i d ++ voidRules g i d)

/-- The tables of two dies, the lower first, agree as R150 and R155 ask: the byte in the higher die's. -/
def diePairBad (a b : Nat → Byte) : Option Nat :=
  firstRule (((List.range 8192).map fun x => (bindAt x, imgN a (bindAt x) 4 == imgN b (bindAt x) 4)) ++
    (List.range 64).map fun i =>
      (descAt i, decide ((imgDesc a i).tokBase + (imgDesc a i).tok ≤ (imgDesc b i).tokBase)))

/-! ### Kind 0x04: spokes (R186, R187) -/

/-- Scratchpad image of spoke `p` within its section. -/
def padAt (p : Nat) : Nat := 4096 + 65536 * p

/-- The task table of an active spoke keeps R187, and lies in the scratchpad. -/
def taskRules (g : Nat → Byte) (p : Nat) : List (Nat × Bool) :=
  let lay : Word32 := BitVec.ofNat 32 (imgN g (16 * p) 4)
  let n := fld lay 7 0 + 1
  let t (i : Nat) : Nat := padAt p + 256 * fld lay 15 8 + 32 * i
  if 65536 < 256 * fld lay 15 8 + 32 * n then [(16 * p, false)]
  else
    (List.range n).flatMap fun i =>
      let b := t i
      let start (j : Nat) : Nat := imgN g (t j) 8
      let last (j : Nat) : Nat := start j + (imgN g (t j + 16) 4 - 1) * imgN g (t j + 12) 4 + imgN g (t j + 8) 4
      let entry := imgN g (b + 20) 2
      [(b, decide (start i < 2 ^ 48) && (i == 0 || decide (last (i - 1) ≤ start i)) && decide (last i ≤ 2 ^ 48)),
       (b + 8, decide (1 ≤ imgN g (b + 8) 4)),
       (b + 12, decide (imgN g (b + 16) 4 ≤ 1) || decide (imgN g (b + 8) 4 ≤ imgN g (b + 12) 4)), (b + 16, decide (1 ≤ imgN g (b + 16) 4)),
       (b + 20, decide (entry % 4 = 0) && decide (codeFirst lay ≤ entry) && decide (entry + 4 ≤ codeEnd lay))] ++ zeros g (b + 22) 10

def spokeSection (g : Nat → Byte) (len : Nat) : Option Nat :=
  if len ≠ 16781312 then some 0
  else
    firstRule (((List.range 256).flatMap fun p =>
      [(16 * p, nbit (imgN g (16 * p + 4) 1) 0 || imgN g (16 * p) 4 == 0), (16 * p + 4, decide (imgN g (16 * p + 4) 1 < 2))] ++ zeros g (16 * p + 5) 11) ++
      (List.range 256).flatMap fun p => if nbit (imgN g (16 * p + 4) 1) 0 then taskRules g p else [])

/-! ### Kinds 0x05 to 0x08 -/

/-- Encodings and ranges of a collective entry (Tables 13.1, 13.3). -/
def collRules (e : BitVec 512) : List (Nat × Bool) :=
  let op := ceOp e
  let reduces := op == 1 || op == 2
  let stripe (flag off : Nat) : Nat × Bool :=
    let w := slotN e off 2
    (off, if nbit (slotN e 14 1) flag then decide (1 ≤ w) && decide (w ≤ 16384) else w == 0)
  [(0, decide (1 ≤ op) && decide (op ≤ 6)),
   (1, if reduces then decide (slotN e 1 1 / 16 ≤ 2) && decide (slotN e 1 1 % 16 ≤ 2) else slotN e 1 1 == 0),
   (2, decide (16 ≤ slotN e 2 1) && decide (slotN e 2 1 ≤ 20)), (3, decide (slotN e 3 1 < 64)), (4, decide (slotN e 4 2 < 4096)),
   (6, decide (slotN e 6 2 < 4096)), (8, slotN e 11 1 == 0 && ((op == 6) == (ceChunks e == 0))),
   (12, decide (slotN e 12 2 < 4096) && (op == 4 || slotN e 12 2 == 0)), (14, decide (slotN e 14 1 < 8)), (15, slotN e 15 1 == 0),
   (16, slotN e 22 2 == 0), (24, slotN e 30 2 == 0), (34, slotN e 34 2 == 0 || decide (100 ≤ slotN e 34 2)), stripe 1 36, stripe 2 38] ++
  (match gateBad e 40 with | some b => [(b, false)] | none => []) ++ (match gateBad e 52 with | some b => [(b, false)] | none => [])

def collSection (g : Nat → Byte) (len : Nat) : Option Nat :=
  let n := imgN g 0 2
  if len < 8 ∨ 4096 < n ∨ len ≠ 8 + 64 * n then some 0
  else
    firstRule (zeros g 2 6 ++ (List.range n).flatMap fun i =>
      (collRules (BitVec.ofNat 512 (imgN g (8 + 64 * i) 64))).map fun r => (8 + 64 * i + r.1, r.2))

def claimSection (g : Nat → Byte) (len : Nat) : Option Nat :=
  if len ≠ 560 then some 0
  else
    firstRule (((List.range 256).map fun c => (32 + 2 * c, nbit (imgN g (c / 8) 1) (c % 8) == (imgN g (32 + 2 * c) 2 != 0))) ++ zeros g 552 8)

/-- Preloads: offset and length; `before` are those of earlier sections. -/
def preloadSection (g : Nat → Byte) (len : Nat) (before : List (Nat × Nat)) (serves : Nat → Nat → Bool) : Option Nat :=
  let off := imgN g 0 8
  let b := len - 16
  let place : Bool :=
    match regionOf off with
    | some (.store _, o) => decide (o + b ≤ 0x2C000)
    | some (.scratch _, _) => false
    | some (.cap _, o) => decide (o % 0x1000000000 + b ≤ 0x1000000000)
    | some (r, o) => decide (o + b ≤ r.size)
    | none => false
  if len < 17 then some 0
  else
    firstRule ([(0, decide (off < 2 ^ 48) && place && serves off b &&
      before.all fun p => !(decide (off < p.1 + p.2) && decide (p.1 < off + b)))] ++ zeros g 8 8)

def profileSection (g : Nat → Byte) (len : Nat) : Option Nat :=
  let n := imgN g 0 4
  if len < 8 ∨ n < 1 ∨ 65535 < n ∨ len ≠ 8 + 16 * n then some 0
  else
    firstRule (zeros g 4 4 ++ (List.range n).flatMap fun i =>
      let b := 8 + 16 * i
      (b, decide (imgN g b 8 < 2 ^ 48) && (i == 0 || decide (imgN g (b - 16) 8 < imgN g b 8))) :: zeros g (b + 12) 4)

/-! ### The whole image (R409) -/

/-- The section table. -/
def sectionTable (g : Nat → Byte) : List Section :=
  (List.range (imgN g 26 2)).map fun i =>
    let b := 64 + 16 * i
    { kind := imgN g b 2, die := imgN g (b + 2) 1, off := imgN g (b + 4) 8, len := imgN g (b + 12) 4, idx := i }

/-- The bytes of a section. -/
def Section.data (x : Section) (g : Nat → Byte) : Nat → Byte := fun o => g (x.off + o)

/-- Step 2 of R409: the header, then the section table entries in order, then their counts. -/
def headerFail (g : Nat → Byte) (len : Nat) : Option ImageFail :=
  let fmt := imgN g 4 2
  let total := imgN g 8 8
  let n := imgN g 26 2
  let secs := sectionTable g
  let fixed : Bool :=
    decide (imgN g 7 1 < 2) && decide (64 + 16 * n + 256 ≤ total) && decide (total ≤ len) && (fmt == 0x0200 || decide (imgN g 24 1 ≤ 3)) &&
      imgN g 25 1 == 0 && decide (1 ≤ n) && decide (n ≤ 4096) && (zeros g 32 32).all (·.2)
  let entry (x : Section) : Option ImageFail :=
    if !(if fmt = 0x0200 then x.kind == 0x10 else decide (1 ≤ x.kind) && decide (x.kind ≤ 8)) then some { reason := 5, sec := x.idx }
    else if g (64 + 16 * x.idx + 3) ≠ 0 ∨ (7 < x.die ∧ x.die ≠ 0xFF) ∨ x.off < 64 + 16 * n ∨ total < x.off + x.len + 256 then
      some { reason := 1, sec := x.idx }
    else if (secs.take x.idx).any fun y => decide (x.off < y.off + y.len) && decide (y.off < x.off + x.len) then some { reason := 1, sec := x.idx }
    else none
  let ofKind (k : Nat) : List Section := secs.filter fun x => x.kind == k
  let perDie (k : Nat) : Bool := (List.range 8).all fun d => ((ofKind k).filter fun x => x.die == d || x.die == 0xFF).length == 1
  let whole (k : Nat) : Bool := (ofKind k).all fun x => x.die == 0xFF
  let counts : Bool :=
    if fmt = 0x0200 then secs.length == 1 && whole 0x10
    else ([1, 2, 3, 4] : List Nat).all perDie && ([5, 6, 7, 8] : List Nat).all whole && (ofKind 5).length == 1 && (ofKind 6).length == 1 &&
      decide ((ofKind 8).length ≤ 1)
  if len < 64 ∨ imgN g 0 4 ≠ 0x31524459 then some { reason := 1 }
  else if (fmt ≠ 0x0100 ∧ fmt ≠ 0x0200) ∨ imgN g 6 1 ≠ 0xA0 then some { reason := 4 }
  else if !fixed then some { reason := 1 }
  else
    match secs.findSome? entry with
    | some f => some f
    | none => if counts then none else some { reason := 1 }

/-- Steps 3 and 4 of R409: the key, then the signature. -/
def signatureFail (g : Nat → Byte) : Option ImageFail :=
  let body := imgN g 8 8 - 256
  let raw (o n : Nat) : List Byte := (List.range n).map fun i => g (body + o + i)
  let h := sha384 (raw 0 97)
  if !((List.finRange 4).any fun i => Config.keyHash i == h && !Config.keyRevoked i) then some { reason := 3 }
  else if g body == 0x04 && ecdsaVerify (beNat (raw 1 48)) (beNat (raw 49 48)) (beNat (raw 97 48)) (beNat (raw 145 48)) (sha384 ((List.range body).map g)) &&
      (zeros g (body + 193) 63).all (·.2) then none
  else some { reason := 2 }

/-- Preloads of the sections before one: offset and length. -/
def preloadsBefore (g : Nat → Byte) (idx : Nat) : List (Nat × Nat) :=
  (((sectionTable g).take idx).filter fun x => x.kind == 7).map fun x => (imgN g x.off 8, x.len - 16)

/-- The byte at which a section breaks a rule of its kind. -/
def State.sectionFail (s : State) (g : Nat → Byte) (x : Section) : Option Nat :=
  let d := x.data g
  match x.kind with
  | 1 => arraySection d x.len
  | 2 => s.routerSection d x.len x.dies
  | 3 => derailleurSection d x.len x.dies
  | 4 => spokeSection d x.len
  | 5 => collSection d x.len
  | 6 => claimSection d x.len
  | 7 => preloadSection d x.len (preloadsBefore g x.idx) s.writable
  | 8 => profileSection d x.len
  | _ => none

/-- The derailleur section of a die. -/
def derailleurOf (g : Nat → Byte) (d : Nat) : Option Section := (sectionTable g).find? fun x => x.kind == 3 && (x.die == d || x.die == 0xFF)

/-- Checks across dies (R150, R155). -/
def crossDieFail (g : Nat → Byte) : Option ImageFail :=
  ((List.range 8).flatMap fun b => (List.range b).map fun a => (a, b)).findSome? fun p =>
    match derailleurOf g p.1, derailleurOf g p.2 with
    | some x, some y => (diePairBad (x.data g) (y.data g)).map fun byte => { reason := 6, sec := y.idx, byte := byte }
    | _, _ => none

/-- Steps 2 to 5 of R409. A firmware image has no step 5 (R441). -/
def State.imageFail (s : State) (g : Nat → Byte) (len : Nat) : Option ImageFail :=
  (headerFail g len).or <| (signatureFail g).or <|
    if imgN g 4 2 = 0x0200 then none
    else
      ((sectionTable g).findSome? fun x => (s.sectionFail g x).map fun b => { reason := 6, sec := x.idx, byte := b }).or (crossDieFail g)

/-! ### Writing the sections (R409 step 6) -/

/-- List what is not zero of `n` entries of a table. -/
def tableMap {w : Nat} (n base : Nat) (f : Nat → BitVec w) : SMap (BitVec w) :=
  ((List.range n).map fun i => (base + i, f i)).filter fun e => e.2 != 0

/-- Put a part of a package table into the image. -/
def mergeMap {α : Type} (m part : SMap α) : SMap α := part.foldl (fun m e => SMap.insert m e.1 e.2) m

/-- Write one section for one die. -/
def State.writeSection (s : State) (i : ImageState) (g : Nat → Byte) (x : Section) (die : Nat) : State × ImageState :=
  let d := x.data g
  match x.kind with
  | 1 =>
    let s1 := forAll 2048 s fun s a =>
      let n := arrN d a 12 2
      let first := 32768 + 16 * wordsBefore d a
      s.writeFresh (passAddr (2048 * die + a) 0) ((List.range 16384).map fun b => if b < 16 * n then d (first + b) else 0)
    (s1, { i with arrays := mergeMap i.arrays (tableMap 2048 (2048 * die) fun a => BitVec.ofNat 128 (imgN d (16 * a) 16)) })
  | 2 =>
    let at_ (r o : Nat) : Nat := 16 + 2176 * r + 8 * o
    (s, { i with
      slots := mergeMap i.slots (tableMap 65536 (65536 * die) fun n => BitVec.ofNat 64 (imgN d (at_ (n / 256) (n % 256)) 8))
      xfers := mergeMap i.xfers (tableMap 4096 (4096 * die) fun n => BitVec.ofNat 64 (imgN d (at_ (n / 16) (256 + n % 16)) 8))
      periods := SMap.set 16 i.periods die (BitVec.ofNat 9 (imgN d 0 2)) })
  | 3 =>
    (s.setDerailleur die { s.derailleur die with
      binding := tableMap 8192 0 fun n => BitVec.ofNat 128 (imgN d (bindAt n) 16)
      quota := tableMap 64 0 fun n => BitVec.ofNat 128 (imgN d (quotaAt n 0) 16)
      voidTab := tableMap 4096 0 fun n => BitVec.ofNat 64 (imgN d (voidAt n) 8)
      desc := tableMap 64 0 fun n => BitVec.ofNat 512 (imgN d (descAt n) 64) }, i)
  | 4 =>
    let s1 := forAll 256 s fun s p => s.writeFresh (scratchBase (256 * die + p)) ((List.range 65536).map fun b => d (padAt p + b))
    let part := ((List.range 256).filter fun p => nbit (imgN d (16 * p + 4) 1) 0).map fun p => (256 * die + p, some (BitVec.ofNat 32 (imgN d (16 * p) 4)))
    (s1, { i with spokes := mergeMap i.spokes part })
  | _ => (s, i)

/-- Write a section of the whole package. -/
def State.writeShared (s : State) (i : ImageState) (g : Nat → Byte) (x : Section) : State × ImageState :=
  let d := x.data g
  match x.kind with
  | 5 => (s, { i with coll := tableMap (imgN d 0 2) 0 fun n => BitVec.ofNat 512 (imgN d (8 + 64 * n) 64) })
  | 6 =>
    (s, { i with claimed := BitVec.ofNat 256 (imgN d 0 32), budgets := tableMap 256 0 fun c => BitVec.ofNat 16 (imgN d (32 + 2 * c) 2),
                 opCounters := BitVec.ofNat 64 (imgN d 544 8) })
  | 7 => (s.writeFresh (imgN d 0 8) ((List.range (x.len - 16)).map fun b => d (16 + b)), i)
  | _ => (s, i)

/-- Write every section and make the image the loaded image. -/
def State.installImage (s : State) (g : Nat → Byte) : State :=
  let total := imgN g 8 8
  let i0 : ImageState :=
    { seed := BitVec.ofNat 64 (imgN g 16 8), plan := BitVec.ofNat 2 (imgN g 24 1), entropy := nbit (imgN g 7 1) 0,
      digest := BitVec.ofNat 128 (leNat ((leBytes 48 (sha384 ((List.range total).map g)).toNat).reverse.take 16)) }
  let (s1, i1) := (sectionTable g).foldl (fun si x =>
    if x.kind ≤ 4 then x.dies.foldl (fun si d => si.1.writeSection si.2 g x d) si else si.1.writeShared si.2 g x) (s, i0)
  { s1 with image := some i1 }

/-- Write a firmware image to the bank that is not in use (R441). -/
def State.installFirmware (s : State) (g : Nat → Byte) : State :=
  let b : FwBank := { version := BitVec.ofNat 32 (imgN g 16 4), rollback := BitVec.ofNat 16 (imgN g 20 2)
                      image := some ((List.range (imgN g 8 8)).map g) }
  s.setPower (if s.power.fwBank then { s.power with fwA := b } else { s.power with fwB := b })

/-- `LOAD_IMAGE` reads the image, and then acts on what it has read (R405, R409, R441). -/
def execLoadImage (s : State) : Out :=
  match s.cur 0x20 with
  | none => ok s
  | some c =>
    let buf := slotN c.slot 8 8
    let len := slotN c.slot 16 8
    let fail (s : State) (f : ImageFail) : Out := ok (s.finish c stFailed 0 (resAt 8 1 f.reason + resAt 10 2 f.sec + resAt 12 4 f.byte))
    match s.hub.job with
    | none => if len = 0 then fail s { reason := 1 } else ok (s.beginBuf (s.hubJob buf len) false [])
    | some w =>
      if !w.job.done then ok s
      else
        let data := w.job.data
        let g : Nat → Byte := fun i => ((data[i]?).getD (0, false)).1
        if w.job.status ≠ 0 ∨ data.any (·.2) then fail s { reason := 7 }
        else if imgN g 4 2 = 0x0100 ∧ (s.running || s.service) then fail s { reason := 0 }
        else
          match s.imageFail g len with
          | some f => fail s f
          | none => ok ((if imgN g 4 2 = 0x0200 then s.installFirmware g else s.installImage g).finish c stDone 0 0)

end Sys2Proof.Machine
end

