-- ==== Sys2Proof/Machine/Repair.lean ====
section
/-! DEFINITION. Repair access and the calibration store (R234-R236, R310, R438). -/

namespace Sys2Proof.Machine

open Sys2Proof

/-! ### Repair access (R234-R236, Table 7.9) -/

/-- The offset of a `REPAIR_ACCESS`. -/
def repairOff (c : Accepted) : Nat := slotN c.slot 16 8

/-- Run a repair operation that is the current command; the package has left the service state since (R234). -/
def State.repair (s : State) (op : Nat) (f : Accepted → Out) : Out :=
  match s.cur 0x41 with
  | none => ok s
  | some c => if slotN c.slot 8 1 ≠ op then ok s else if !s.service then ok (s.finish c stFailed 0 0) else f c

/-- The row, or word column, that an offset names; none for capacity memory and what is no memory of tiers 1 and 2. -/
def repairAt (off : Nat) (column : Bool) (word : Nat) (hard : Bool) : Option Repair :=
  match regionOf off with
  | some (.vault g, o) =>
    let (bank, row, _) := vaultPlace o
    some { unit := g, bank := bank, column := column, index := if column then word else row, hard := hard }
  | some (.hbm t, o) =>
    let (pc, bank, row, _) := hbmPlace o
    some { unit := 16384 + t, bank := 16 * pc + bank, column := false, index := row, hard := hard }
  | _ => none

/-- The words of the row that an offset names. -/
def rowWords (off : Nat) : List Nat :=
  match regionOf off with
  | some (.cap t, o) =>
    let base := o - o % 128 - nfld o 13 10 * 1024
    (List.range 256).map fun i => capBase t + base + i / 16 * 1024 + 8 * (i % 16)
  | _ => match repairAt off false 0 false with | some r => r.words | none => []

/-- `REPAIR_MAP` (Table 7.9, Tables 7.5 and 7.6). -/
def execRepairMap (s : State) : Out :=
  s.repair 1 fun c =>
    let place (tier unit ch bank rank row col : Nat) : State :=
      s.finish c stDone 0 (resAt 8 1 tier + resAt 9 1 unit + resAt 10 2 ch + resAt 12 1 bank + resAt 13 1 rank + resAt 16 4 row + resAt 20 2 col)
    match regionOf (repairOff c) with
    | some (.vault g, o) =>
      let (bank, row, _) := vaultPlace o
      ok (place 1 (g / 2048) (g % 2048) bank 0 row (o / 96 / 64 % 4))
    | some (.hbm t, o) => let (pc, bank, row, col) := hbmPlace o; ok (place 2 t pc bank 0 row col)
    | some (.cap t, o) => let (rank, ch, bank, row, col) := capPlace o; ok (place 3 t ch bank rank row col)
    | _ => ok (s.finish c stFailed 0 0)

/-- `REPAIR_TEST`: the row is overwritten with patterns, which the manual does not give: each word is left with a free value, and one
that fails with free check bits too. `failing` are the offsets of the words that read back wrong. -/
def execRepairTest (failing : List Nat) (s : State) : Out :=
  s.repair 2 fun c =>
    let ws := rowWords (repairOff c)
    let bad := ws.filter fun a => failing.contains a
    let s1 := ws.foldl (fun s a =>
      let (v, s0) := s.draw
      let (e, s1) := s0.draw
      let mark : Option EccMark :=
        if !bad.contains a then none
        else match e.toNat % 3 with | 0 => some .uncorrectable | 1 => some .single | _ => none
      (s1.setMark a mark).putBytes a (leBytes 8 v.toNat)) s
    ok (s1.finish c stDone 0 (resAt 8 4 bad.length + resAt 16 8 ((bad.foldl (fun m a => some (match m with | some v => min v a | none => a)) none).getD 0)))

/-- Spares of a kind already used in a repair's bank. -/
def State.sparesUsed (s : State) (r : Repair) : Nat :=
  (s.repairs.filter fun x => x.unit == r.unit && x.bank == r.bank && x.column == r.column).length

/-- Spares of a kind in a bank: 8 rows and 2 word columns of a vault bank, what the standard gives an HBM4 bank (R235). -/
def spareCount (r : Repair) : Nat :=
  if r.unit < 16384 then (if r.column then 2 else 8)
  else if r.column then 0 else Config.stackSpares (r.unit - 16384) (r.bank / 16) (r.bank % 16)

/-- VVLT of a vault's die stands at its nominal voltage (R235). -/
def State.vvltNominal (s : State) (r : Repair) : Bool :=
  decide (16384 ≤ r.unit) || (SMap.get {} s.power.rails (10 + r.unit / 2048)).setMv == 1100

/-- Count a repair in its register (Tables 7.7 and 7.8). -/
def State.countRepair (s : State) (r : Repair) : State :=
  if r.unit < 16384 then
    let d := r.unit / 2048
    let m := s.dmem d
    s.setDmem d (if r.column then { m with spareCols := m.spareCols + 1 } else { m with spareRows := m.spareRows + 1 })
  else
    let t := r.unit - 16384
    let k := s.stk t
    s.setStk t (if r.hard then { k with hard := k.hard + 1 } else { k with soft := k.soft + 1 })

/-- Put a spare in place of a row or word column and zero it (R235, R236). -/
def State.putSpare (s : State) (r : Repair) : State :=
  let s1 := { s with repairs := s.repairs ++ [{ r with fresh := true }] }.countRepair r
  r.words.foldl (fun s a => (s.setMark a none).putBytes a (List.replicate 8 0)) s1

/-- A repair of a die's vaults ends their lost state: they are in the stop state, and the next sample takes it from there (Table 7.4;
DEDUCED, log entry 80). -/
def State.leaveLost (s : State) (r : Repair) : State :=
  let d := r.unit / 2048
  if r.unit < 16384 ∧ (s.dmem d).tstate = 4 then s.setDmem d { s.dmem d with tstate := 3 } else s

/-- A soft or hard repair. -/
def State.replace (s : State) (c : Accepted) (hard : Bool) : State :=
  match repairAt (repairOff c) (slotN c.slot 9 1 == 1) (slotN c.slot 10 1) hard with
  | none => s.finish c stFailed 0 0
  | some r =>
    if spareCount r ≤ s.sparesUsed r || (hard && !s.vvltNominal r) then s.finish c stFailed 0 0
    else ((s.putSpare r).leaveLost r).finish c stDone 0 0

/-- `REPAIR_SOFT` (R235, R236). -/
def execRepairSoft (s : State) : Out := s.repair 3 fun c => ok (s.replace c false)

/-- `REPAIR_HARD` (R235, R236). -/
def execRepairHard (s : State) : Out := s.repair 4 fun c => ok (s.replace c true)

/-- `REPAIR_STATUS`: spares left in the bank of the offset; none in capacity memory. -/
def execRepairStatus (s : State) : Out :=
  s.repair 5 fun c =>
    let left (column : Bool) : Nat :=
      match repairAt (repairOff c) column 0 false with
      | some r => if r.column = column then spareCount r - s.sparesUsed r else 0
      | none => 0
    ok (s.finish c stDone 0 (resAt 8 1 (left false) + resAt 9 1 (left true)))

/-! ### The calibration store (R310, R438) -/

/-- The mean of heater codes. -/
def meanCode (cs : List Nat) : BitVec 12 := BitVec.ofNat 12 (meanOf (Int.ofNat cs.sum) cs.length).toNat

/-- A record of a bank's body: kind, length, and its bytes (R436). -/
def calRecord (kind : Nat) (bs : List Byte) : List Byte := leBytes 2 kind ++ leBytes 2 bs.length ++ bs

/-- The body of a bank. The spec gives the kinds; how each record holds its values is a DESIGN CHOICE (log entry 95). -/
def CalBank.body (c : CalBank) : List Byte :=
  calRecord 1 (c.vcoreMv.flatMap (fun v => leBytes 2 v.toNat) ++ leBytes 4 c.portRec.toNat) ++
  calRecord 2 (c.biases.flatMap fun e => leBytes 2 e.1 ++ leBytes 2 e.2.toNat) ++
  calRecord 3 (c.tones.flatMap fun e => leBytes 2 e.1 ++ leBytes 2 e.2.toNat) ++ calRecord 4 c.trims

/-- Header and body as the CRC takes them (Table 15.5). -/
def CalBank.bytes (c : CalBank) : List Byte :=
  leBytes 4 c.magic.toNat ++ leBytes 2 c.format.toNat ++ leBytes 2 0 ++ leBytes 4 c.generation.toNat ++ leBytes 4 c.bodyLen.toNat ++
  leBytes 8 c.serial.toNat ++ leBytes 40 0 ++ c.body

/-- The CRC-32 of a commit record over its own first 28 bytes (Table 15.5). -/
def CommitRec.crcSelf (x : CommitRec) : Nat :=
  crc32 (leBytes 4 x.magic.toNat ++ leBytes 4 x.generation.toNat ++ leBytes 4 x.crc.toNat ++ leBytes 4 x.len.toNat ++ leBytes 12 0)

/-- The commit record that belongs to a bank (Table 15.5). -/
def CalBank.commitRec (c : CalBank) : CommitRec :=
  let x : CommitRec := { magic := 0x544D4F43, generation := c.generation, crc := BitVec.ofNat 32 (crc32 c.bytes), len := c.bodyLen, self := 0 }
  { x with self := BitVec.ofNat 32 x.crcSelf }

/-- The result of R437 for a bank: 0 valid, 1 commit, 2 CRC, 3 serial (Table 15.8). A header with another magic or format counts as a CRC
result (DEDUCED, log entry 95). -/
def bankResult (b : Option CalBank) : Nat :=
  match b with
  | none => 1
  | some c =>
    match c.commit with
    | none => 1
    | some x =>
      if x.magic ≠ 0x544D4F43 ∨ x.self.toNat ≠ x.crcSelf ∨ x.generation ≠ c.generation ∨ x.len ≠ c.bodyLen then 1
      else if c.magic ≠ 0x314C4143 ∨ c.format ≠ 0x0100 ∨ x.crc.toNat ≠ crc32 c.bytes then 2
      else if c.serial ≠ Config.serial then 3 else 0

/-- What `CAL_SAVE` writes: new biases of the locked rings, the tones and trims; the factory record unchanged (R310, R438). With no
bank loaded the factory record holds what the package runs on (log entry 36). -/
def State.newBank (s : State) : CalBank :=
  let old := s.cal
  let locked := s.rings.filter fun e => e.2.state == 2 && !e.2.coast
  let c : CalBank :=
  { generation := (match old with | some b => b.generation | none => 0) + 1
    bodyLen := 0, serial := Config.serial
    vcoreMv := match old with | some b => b.vcoreMv | none => List.replicate 8 720
    portRec := match old with | some b => b.portRec | none => BitVec.ofNat 32 (((List.range 4).map fun k => s.setting (0x0440 + k) % 256 * 2 ^ (8 * k)).sum)
    biases := locked.foldl (fun m e => SMap.set 0 m e.1 (meanCode e.2.codes)) (match old with | some b => b.biases | none => [])
    tones := s.rings.foldl (fun m e => SMap.set 0 m e.1 e.2.tone) (match old with | some b => b.tones | none => [])
    trims := match old with | some b => b.trims | none => [] }
  { c with bodyLen := BitVec.ofNat 32 c.body.length }

/-- Put a bank into the store: true B. -/
def PowerState.setCal (p : PowerState) (b : Bool) (x : Option CalBank) : PowerState := if b then { p with calB := x } else { p with calA := x }

/-- An open `CAL_SAVE` has done a step. -/
def State.calStepped (s : State) (n : Nat) : State := s.setPower { s.power with calStep := n }

/-- The bank that an open `CAL_SAVE` writes: B while A is loaded, else A (R438). -/
def State.calTarget (s : State) : Bool := s.power.loadedCal == some false

/-- `CAL_SAVE`, one step of R438 at a time: erase, write header and body, compare them, write the commit record, compare it and load the
bank. Whether a comparison fails is a free value (log entry 36). -/
def execCalSave (s : State) : Out :=
  match s.cur 0x40 with
  | none => ok s
  | some c =>
    let b := s.calTarget
    let bank := if b then s.power.calB else s.power.calA
    let failed (s : State) : State := (s.calStepped 0).finish c stFailed 0 0
    match s.power.calStep with
    | 0 => ok ((s.setPower (s.power.setCal b none)).calStepped 1)
    | 1 => ok ((s.setPower (s.power.setCal b (some s.newBank))).calStepped 2)
    | 2 =>
      let (r, s1) := s.draw
      ok (if bitOf r 0 then failed s1 else s1.calStepped 3)
    | 3 => ok ((s.setPower (s.power.setCal b (bank.map fun x => { x with commit := some x.commitRec }))).calStepped 4)
    | _ =>
      let (r, s1) := s.draw
      if bitOf r 0 then ok (failed (s1.setPower (s1.power.setCal b (bank.map fun x => if bitOf r 1 then { x with commit := none } else x))))
      else
        let s2 := (s1.setPower { s1.power with loadedCal := some b }).calStepped 0
        ok (s2.finish c stDone 0 (resAt 8 1 (bit1 b) + resAt 12 4 (match bank with | some x => x.generation.toNat | none => 0)))

end Sys2Proof.Machine
end

