-- ==== Sys2Proof/Machine/Reset.lean ====
section
/-! DEFINITION. Cold and warm reset, and the resets of single domains (R442-R445, R468, Tables 15.4 and 15.6). -/

namespace Sys2Proof.Machine

open Sys2Proof

/-! ### What every reset but a cold one keeps (R443) -/

/-- Counters of a memory block. -/
def DieMem.kept (m : DieMem) : DieMem :=
  { vltCe := m.vltCe, vltUe := m.vltUe, vltUeAddr := m.vltUeAddr, spareRows := m.spareRows, spareCols := m.spareCols, t0Ce := m.t0Ce,
    t0Ue := m.t0Ue }
/-- Counters of a stack block. -/
def StackState.kept (k : StackState) : StackState :=
  { ce := k.ce, ue := k.ue, ueAddr := k.ueAddr, rowHit := k.rowHit, rowMiss := k.rowMiss, retry := k.retry, hard := k.hard, soft := k.soft }
/-- Counters of a channel block. -/
def ChannelState.kept (c : ChannelState) : ChannelState := { count := c.count, bad := c.bad, bytes := c.bytes }
/-- Counters of a link block. -/
def EndState.kept (e : EndState) : EndState :=
  { crcFail := e.crcFail, replay := e.replay, ue := e.ue, holdFix := e.holdFix, reqErr := e.reqErr }
/-- Counters of a wavelength. -/
def WaveState.kept (x : WaveState) : WaveState :=
  { cwCorr := x.cwCorr, cwUncorr := x.cwUncorr, symCorr := x.symCorr, frameErr := x.frameErr, bursts := x.bursts, burstLost := x.burstLost,
    arrMax := x.arrMax, arrMin := x.arrMin }
/-- Counters of a port block. -/
def PortState.kept (p : PortState) : PortState := { downs := p.downs, waves := SMap.update {} p.waves fun _ x => x.kept }
/-- Counters of a fabric block. -/
def FabState.kept (f : FabState) : FabState :=
  { pktLost := f.pktLost, pktBad := f.pktBad, cutCnt := f.cutCnt, mcDrop := f.mcDrop, replyLate := f.replyLate, timeout := f.timeout,
    errReply := f.errReply, unreach := f.unreach, flushed := f.flushed }
/-- Counters of a collective block. -/
def EngineState.kept (e : EngineState) : EngineState :=
  { started := e.started, closed := e.closed, aborted := e.aborted, dropGen := e.dropGen, dropEpoch := e.dropEpoch, dropAge := e.dropAge,
    dropPel := e.dropPel, poison := e.poison }
/-- Counters of a sensor block. -/
def SensorState.kept (x : SensorState) : SensorState := { suspects := x.suspects, max := x.max, min := x.min }
/-- A laser input in reset: no request. Its `LASER_OK` is a pin, and its fault clears only in truing (R305). -/
def LaserState.kept (x : LaserState) : LaserState := { ok := x.ok, fault := x.fault }

/-! ### The resets of the package -/

/-- The compute dies and their memory controllers in reset. -/
def State.resetCompute (s : State) : State :=
  { s with
    beat := {}, prog := {}, counters := [], chunk := [], abort := 0, arrays := [], unparks := [], ramps := [], routers := [], crossings := [],
    derailleurs := [], spokes := [], collPosts := [], t0Writes := [], vaults := [], localReqs := [],
    dieMem := SMap.update {} s.dieMem fun _ m => m.kept
    memStacks := SMap.update {} s.memStacks fun _ k => k.kept
    channels := SMap.update {} s.channels fun _ c => c.kept
    ends := SMap.update {} s.ends fun _ e => e.kept }

/-- The lightplane dies in reset. The cadence count is kept (R443). -/
def State.resetLightplane (s : State) : State :=
  { s with
    ports := SMap.update {} s.ports fun _ p => p.kept
    rings := [], steer := []
    lasers := SMap.update {} s.lasers fun _ x => x.kept
    fabs := SMap.update {} s.fabs fun _ f => f.kept
    engines := SMap.update {} s.engines fun _ e => e.kept
    mach := { steps := s.mach.steps, quar := s.mach.quar, count := s.mach.count } }

/-- The hub, its mailboxes and its log in reset. The settings end the service state, which clears what was repaired in it (R236, R408). -/
def State.resetHub (s : State) : State :=
  let s1 := if s.service then s.clearRepaired else s
  { s1 with mbs := [], hubCount := [], hub := {}, settings := [], image := none, hubLog := [], hubSeq := 0, latches := [], tap := { trstLow := s.tap.trstLow } }

/-- Every rail but VAO is enabled. -/
def State.allEnabled (s : State) : Bool := (List.range 25).all fun i => (SMap.get {} s.power.rails (i + 1)).en

/-- The power manager and the start sequence in reset: rails, pins and flash stay. Truing will find rails that are all up (R443). -/
def State.resetPower (s : State) : State :=
  let p := s.power
  let t := s.therm
  { s with
    power := { inReset := p.inReset, vaoGood := p.vaoGood, strap := p.strap, rails := p.rails, railsHeld := s.allEnabled, interlockLow := p.interlockLow,
               calA := p.calA, calB := p.calB, fwA := p.fwA, fwB := p.fwB }
    therm := { energyUj := t.energyUj, brakeChg := t.brakeChg, gearChg := t.gearChg, sensors := SMap.update {} t.sensors fun _ x => x.kept,
               brakeZeroSince := some s.nowNs } }

/-- A warm reset: every domain but AO, with its record (R443; Table 15.8). -/
def State.warmReset (s : State) (source : Nat) : State :=
  s.resetCompute.resetLightplane.resetHub.resetPower.logEvent 0x96 10 0xFF 0 source

/-- `WARM_RESET`: `RESET_N` low for 1 us (R443). During a cold reset it has no further effect (R480). -/
def execWarmReset (s : State) : Out :=
  if !s.power.vaoGood ∨ s.power.inReset then ok s
  else
    let s1 := s.warmReset 0
    ok (s1.setPower { s1.power with inReset := true })

/-- Repairs of a unit and kind. -/
def repairCount (rs : List Repair) (f : Repair → Bool) : BitVec 16 := BitVec.ofNat 16 (rs.filter f).length

/-- `COLD_RESET`: VAO has come up, or `PWROK_AO` has fallen (R236, R442). The flash, the hard repairs and the pins stay, and the AO log
while VAO stays up. -/
def execColdReset (vaoUp : Bool) (s : State) : Out :=
  let hard := (s.repairs.filter fun r => r.hard).map fun r => { r with fresh := false }
  let p := s.power
  let s1 : State :=
    { pending := s.pending, freeCtr := s.freeCtr, nowNs := s.nowNs, repairs := hard
      dieMem := buildMap {} 8 fun d =>
        { spareRows := repairCount hard fun r => r.unit < 16384 && r.unit / 2048 == d && !r.column
          spareCols := repairCount hard fun r => r.unit < 16384 && r.unit / 2048 == d && r.column }
      memStacks := buildMap {} 16 fun t => { hard := repairCount hard fun r => r.unit == 16384 + t }
      lasers := SMap.update {} s.lasers fun _ x => { ok := x.ok }
      therm := { brakeZeroSince := some s.nowNs }
      tap := { trstLow := s.tap.trstLow }
      power := { inReset := p.inReset, strap := p.strap, interlockLow := p.interlockLow, calA := p.calA, calB := p.calB, fwA := p.fwA, fwB := p.fwB } }
  ok (if vaoUp then s1 else { s1 with aoLog := s.aoLog, aoSeq := s.aoSeq })

/-! ### Domain resets (R444, Table 15.6) -/

/-- The domain that a `RESET_DOMAIN` names. -/
def domainOf (c : BitVec 512) : Option ResetDomain :=
  let i := slotN c 9 1
  match slotN c 8 1 with
  | 1 => some (.vault (Fin.ofNat 8 i))
  | 2 => some (.stk (Fin.ofNat 16 i))
  | 3 => some (.cap (Fin.ofNat 16 i))
  | 4 => some (.fab (Fin.ofNat 4 i))
  | 5 => some (.ptx (Fin.ofNat 32 i))
  | 6 => some (.prx (Fin.ofNat 32 i))
  | 7 => some .cad
  | 8 => some .sense
  | _ => none

/-- The domain has FIFO crossings that re-synchronise (R445). -/
def hasCrossing : ResetDomain → Bool
  | .vault _ | .fab _ => true
  | _ => false

/-- The current command is a `RESET_DOMAIN` of a domain code: a forced one first stops the program; then the reset takes effect, and the
command waits for the domain to serve again (R405, R444). -/
def State.resetDomain (s : State) (code : Nat) (effect : State → Nat → State) : Out :=
  match s.cur 0x43 with
  | none => ok s
  | some c =>
    match domainOf c.slot with
    | none => ok s
    | some dom =>
      let i := slotN c.slot 9 1
      let force := slotN c.slot 10 1 % 2 == 1
      let stops := s.prog.running && decide (code ≤ 4)
      if slotN c.slot 8 1 ≠ code then ok s
      else if stops && !force then ok (s.finish c stFailed 0 0)
      else if stops && !s.stopReady then ok (s.setBeat { s.beat with hubDemand := true })
      else
        let s1 := if stops then (s.endOpen c.no).programStopped else s
        let s2 := effect (s1.logEvent 0x97 10 0xFF 0 (code + 2 ^ 8 * i + 2 ^ 16 * bit1 force)) i
        let p := s2.power
        let s3 := s2.setPower { p with resets := (dom, s.nowNs) :: p.resets.filter fun r => r.1 != dom
                                       resync := (if hasCrossing dom then [(dom, 1)] else []) ++ p.resync.filter fun r => r.1 != dom }
        ok s3.background

/-- Requests of a queue are answered with an error. -/
def State.failAll (s : State) (q : List ServantReq) : State := q.foldl (fun s r => s.respond r 0x10 []) s

/-- A die's vault domain: the servant sides, the scrubber and the channels (R215, R251). -/
def State.resetVaults (s : State) (d : Nat) : State :=
  let mine := s.vaults.filter fun e => e.1 / 2048 == d
  let s1 := mine.foldl (fun s e =>
    (s.setVault e.1 { e.2 with queue := [], merging := false, scrubAt := none, writeback := none }).failAll e.2.queue) s
  forAll 32 s1 fun s c => s.resetChannel (32 * d + c)

/-- A stack's controller: the stack enters self-refresh and is trained again. -/
def State.resetStack (s : State) (t : Nat) : State :=
  let k := s.stk t
  (s.setStk t { k with state := 1, queue := [], openRows := [], dirWrite := false, turned := false }).failAll k.queue

/-- An ingress FIFO is flushed: one of which the consumer has begun a packet finishes that packet first (R336). -/
def State.flushNow (s : State) (f w : Nat) : State :=
  let x := s.fifo f w
  if x.started then s.setFifo f w { x with flush := true } else s.flushFifo f w

/-- The fabric unit, collective engine and truing loops of a lightplane die (R305, R307, R336). The aborts leave on the fabric unit once
it serves again, and so do the rest of packets that it had begun. -/
def State.resetFab (s : State) (k : Nat) : State :=
  let s1 := forAll 128 s fun s i => s.flushNow (8 * k + i / 16) (i % 16)
  let f := s1.fab k
  let s1 : State := { s1 with localReqs := SMap.update [] s1.localReqs fun i q => if i / 2 = 16 + k then [] else q }
  let s2 := s1.setFab k { f.kept with
    seq := f.seq, congestion := f.congestion, tokensAt := s.nowNs, transitNo := f.transitNo, fifos := f.fifos.filter fun e => e.2.started }
  let e := s2.engine k
  let s3 := s2.setEngine k { e with checked := [], early := [], applied := [], resend := [] }
  let s4 := s3.abortEngine k 8
  let s5 : State := { s4 with rings := SMap.update {} s4.rings fun i x => if i / 844 = k then { tone := x.tone, heater := x.heater, bias := x.bias, bad := x.bad } else x }
  let s6 := forAll 2 s5 fun s m => s.setLaser (2 * k + m) { s.laser (2 * k + m) with fault := false }
  s6.repeatFrom ((List.range 8).map fun j => 8 * k + j) 1

/-- `RESET_DOMAIN_VAULT` (Table 15.6). -/
def execResetDomainVault (s : State) : Out := s.resetDomain 1 State.resetVaults

/-- `RESET_DOMAIN_STK` (Table 15.6). -/
def execResetDomainStk (s : State) : Out := s.resetDomain 2 State.resetStack

/-- `RESET_DOMAIN_CAP` (Table 15.6). -/
def execResetDomainCap (s : State) : Out := s.resetDomain 3 fun s t => s.resetStack (16 + t)

/-- `RESET_DOMAIN_FAB` (Table 15.6). -/
def execResetDomainFab (s : State) : Out := s.resetDomain 4 State.resetFab

/-- `RESET_DOMAIN_PTX` (Table 15.6). -/
def execResetDomainPtx (s : State) : Out := s.resetDomain 5 fun s f => s.repeatFrom [f] 3

/-- `RESET_DOMAIN_PRX`: the receivers lose what they were receiving (Table 15.6). -/
def execResetDomainPrx (s : State) : Out :=
  s.resetDomain 6 fun s f =>
    let s1 := forAll 16 s fun s w => (s.dataLost f w).setWave f w ((s.dataLost f w).wave f w).darken
    s1.repeatFrom [f] 5

/-- `RESET_DOMAIN_CAD`: the count is kept and the package unlocked; the servo relocks with a step (Table 15.6, R367). -/
def execResetDomainCad (s : State) : Out :=
  s.resetDomain 7 fun s _ =>
    let m := s.mach
    (s.setMach { m with locked := false, holdover := false, stratum := 0xFF, parent := 0x1F, offset := 0, ppm := 0, goodRun := 0,
                        cadenceOut := false }).darkSteered

/-- `RESET_DOMAIN_SENSE`: the filters hold no samples (R450); brake and gear stay (Table 15.6). -/
def execResetDomainSense (s : State) : Out :=
  s.resetDomain 8 fun s _ =>
    s.setTherm { s.therm with sensors := SMap.update {} s.therm.sensors fun _ x => x.kept }

/-- A stack is trained again after a reset of its controller: an HBM4 stack at 9.77 Gb/s, or at 8.00 Gb/s where that fails, or not at all;
which is a free value (log entry 3). The turns of a capacity port run from here (R224, R229). -/
def State.retrain (s : State) (t : Nat) : State :=
  let (r, s1) := s.draw
  let rate := if t < 16 then ([9766, 8000, 0][r.toNat % 3]?).getD 0 else ([25000, 0][r.toNat % 2]?).getD 0
  s1.setStk t { s1.stk t with rate := BitVec.ofNat 16 rate, state := if rate = 0 then 3 else 2, turnAt := s.nowNs }

/-- A domain serves again. A vault's first scrub read comes 64 us later (R215); a root is its own reference and locks again. -/
def State.serveDomain (s : State) (dom : ResetDomain) : State :=
  match dom with
  | .vault d => s.setDmem d { s.dmem d with servingFrom := s.nowNs }
  | .stk t => s.retrain t
  | .cap t => s.retrain (16 + t)
  | .cad => if s.mach.root then s.setMach { s.mach with locked := true, stratum := 0 } else s
  | _ => s

/-- The controller of a domain serves: a stack only when it has trained (R444, Table 7.8). -/
def State.domainServes (s : State) : ResetDomain → Bool
  | .stk t => (s.stk t).state == 2
  | .cap t => (s.stk (16 + t)).state == 2
  | _ => true

/-- `DOMAIN_READY`: a domain in reset serves again once its crossings have re-synchronised, and its command completes; one that does not
serve within the 2 s of the command stays in reset (R444). -/
def execDomainReady (dom : ResetDomain) (s : State) : Out :=
  if !s.inDomainReset dom ∨ (s.power.resync.any fun r => r.1 == dom) then ok s
  else
    match s.hub.openCmds.find? fun o => o.opcode == 0x43 && domainOf o.slot == some dom with
    | none => ok s
    | some o =>
      if o.deadline ≤ s.nowNs then ok (s.completeCmd o.mb o.tag.toNat 0x43 stTimedOut 0 0)
      else
        let s1 := s.serveDomain dom
        if s1.domainServes dom then
          ok ((s1.setPower { s1.power with resets := s1.power.resets.filter fun r => r.1 != dom }).completeCmd o.mb o.tag.toNat 0x43 stDone 0 0)
        else ok s1

/-- The crossing direction ends at lightplane die k. -/
def endsAt (n k : Nat) : Bool :=
  let c := crossingOf (n / 2)
  match edgeEnd c.site (c.exit (n % 2 == 1)) with
  | some e => decide (20 ≤ e) && (e - 20) / 4 == k
  | none => false

/-- The crossing FIFO at the end of a transit path is empty and its credits are full, but for those of flits that are still on the tracks. -/
def CrossingState.emptied (t : CrossingState) (n : Nat) : CrossingState :=
  let last (y : TransitFlit) : Bool := (nextWay (n / 2, n % 2 == 1) y.way).isNone
  { t with leaving := t.leaving.filter fun y => !last y, exitUsed := (t.onTrack.filter last).length }

/-- Step 2 of a handshake: the other side empties its FIFO, and its credits are full (R468): those of the lanes, and those of the transit
lane. The BEAT–VAULT crossing holds what the vault's queues held. -/
def State.emptyCrossing (s : State) (dom : ResetDomain) : State :=
  match dom with
  | .fab k =>
    { s with
      routers := SMap.update {} s.routers fun r x => if r / 512 = k.val then { x with fifoIn := [], fifoOut := [] } else x
      crossings := SMap.update {} s.crossings fun n t => if endsAt n k then t.emptied n else t
      ends := SMap.update {} s.ends fun e x =>
        if 20 ≤ e ∧ (e - 20) / 4 = k.val then { x with credits := x.credits.filter fun c => c.2.2.any fun n => decide (n < 24) } else x }
  | _ => s

/-- `FIFO_RESYNC`: the next step of the handshake of a domain's crossings: request, empty and acknowledge, drop the request, drop the
acknowledge (R468). -/
def execFifoResync (dom : ResetDomain) (s : State) : Out :=
  match s.power.resync.find? fun r => r.1 == dom with
  | none => ok s
  | some (_, n) =>
    let rest := s.power.resync.filter fun r => r.1 != dom
    if n = 1 then ok ((s.emptyCrossing dom).setPower { s.power with resync := (dom, 2) :: rest })
    else ok (s.setPower { s.power with resync := if n < 4 then (dom, n + 1) :: rest else rest })

end Sys2Proof.Machine
end

