-- ==== Sys2Proof/Machine/Power.lean ====
section
/-! DEFINITION. Power rails, start stages and shutdown (R407, R421-R441, R480, R481). -/

namespace Sys2Proof.Machine

open Sys2Proof

/-! ### Rails (R421-R428, Table 15.1) -/

/-- The rails of a sequence group, numbered group - 1. -/
def railsOf (g : Nat) : List Nat :=
  match g with
  | 0 => [1]
  | 1 => [2, 3, 4, 5, 6, 7, 8, 9]
  | 2 => [10, 11, 12, 13, 14, 15, 16, 17]
  | n => [n + 15]

/-- The group of a rail. -/
def groupOf (n : Nat) : Nat := if n ≤ 1 then 0 else if n ≤ 9 then 1 else if n ≤ 17 then 2 else n - 15

/-- The set voltage of a rail in mV: the operating point of a VCORE rail (R423), else its nominal voltage (Table 15.1). -/
def State.setVoltage (s : State) (n : Nat) : BitVec 16 :=
  if n ≤ 1 then 1800
  else if n ≤ 9 then (match s.cal with | some c => (c.vcoreMv[n - 2]?).getD 720 | none => 720)
  else if n ≤ 17 then 1100
  else if n ≤ 20 then Config.stackMv n
  else if n = 21 then 2500
  else if n = 22 then 1100
  else if n = 23 then 900
  else if n = 24 then 1200
  else 3300

/-- A reading lies within 3% of the set value (R424). -/
def withinSet (v setv : Nat) : Bool := decide (100 * v ≤ 103 * setv) && decide (97 * setv ≤ 100 * v)

/-- A fault or loss of a rail is counted, and its record written (Tables 15.7 and 15.8). -/
def State.railEvent (s : State) (n code cause : Nat) : State :=
  let x := s.rail n
  (s.setRail n { x with state := 3, faults := x.faults + 1, busErr := cause == 2 && code == 0x90 }).log 2 code 10 0xFF 0 (n + 2 ^ 8 * cause)

/-- The power-down order begins: laser requests drop, and a Hub service hold is raised for the group that goes first (R425). -/
def State.beginPowerDown (s : State) : State :=
  let s1 : State := { s with lasers := SMap.update {} s.lasers fun _ x => { x with req := false, fellAt := none } }
  let s2 := s1.setPower { s1.power with downGroup := some (10, s.nowNs), upGroup := none, groupsUp := 0 }
  s2.setBeat { s2.beat with hubDemand := true }

/-- A machine check of the hub: its record, and the fault hold on the hub's own demand (R46, R428, R481). -/
def State.hubCheck (s : State) (code detail : Nat) : State :=
  let s1 := s.log 2 code 10 0xFF 0 detail
  s1.setBeat { s1.beat with faultHold := true, machineCheck := true, hubDemand := true, faultAt := some (s1.beat.faultAt.getD s1.wall) }

/-- The package powers down and stays at stage 0x4. -/
def State.shutDown (s : State) : State := ({ s with power := { s.power with stage := 4 } } : State).beginPowerDown

/-- A regulator fails on RAILBUS (R422) outside power-up: the rail fault is recorded as Table 15.8 does with cause 2, and the package powers
down (DESIGN CHOICE, log entry 110). -/
def State.busFailed (s : State) (n : Nat) : State := (s.railEvent n 0x90 2).shutDown

/-- What ends when the enables of a group drop: the lightplane and the clocks that truing started (log entry 112) with the first group to
go, the compute dies with VCORE. -/
def State.unpowered (s : State) (g : Nat) : State :=
  if g = 10 then (let s1 := s.resetLightplane; s1.setPower { s1.power with clocks := false }) else if g = 1 then s.resetCompute else s

/-- The enable of a rail drops (R425, R426). -/
def RailState.dropped (x : RailState) : RailState :=
  if x.en then { x with en := false, fell := true, state := if x.state = 3 then 3 else if x.pg then 1 else 0 } else x

/-- Before group 11 drops no program runs, every array is parked and every spoke halted, under a Hub service hold (R425). -/
def State.downReady (s : State) : Bool := !s.beat.aligned || (s.beat.held && s.beat.causeHub)

/-- Stop what runs, and keep the Hub service hold. -/
def State.stopForPower (s : State) : State :=
  let s1 := if s.prog.running then s.programStopped else s.abortAll 8
  s1.setBeat { s1.beat with hubDemand := true }

/-- `RAIL_GROUP_POWER_DOWN`: the group's enables drop together; once every power-good input of it is low, the next group follows
(R425). -/
def execRailGroupPowerDown (grp : RailGroup) (pgLow : Bool) (s : State) : Out :=
  match s.power.downGroup with
  | none => ok s
  | some (g, _) =>
    if g ≠ grp.val then ok s
    else if (railsOf g).any fun n => (s.rail n).en then
      if g = 10 ∧ !s.downReady then ok (s.setBeat { s.beat with hubDemand := true })
      else
        let s0 := if g = 10 then s.stopForPower else s
        let s1 := (railsOf g).foldl (fun s n => s.setRail n (s.rail n).dropped) s0
        let s2 := s1.unpowered g
        ok (s2.setPower { s2.power with downGroup := some (g, s.nowNs) })
    else if pgLow then
      let s1 := (railsOf g).foldl (fun s n => s.setRail n { s.rail n with pg := false, fell := false, state := if (s.rail n).state = 3 then 3 else 0 }) s
      ok (s1.setPower { s1.power with downGroup := if g = 0 then none else some (g - 1, s.nowNs) })
    else ok s

/-- `RAIL_FAULT_POWER_DOWN`: a power-good input of a dropped group is still high after 10 ms, or one has fallen while its enable is
high: every remaining enable drops at once (R426). -/
def execRailFaultPowerDown (n : RailId) (cause : Fin 2) (s : State) : Out :=
  match s.power.downGroup with
  | none => ok s
  | some (g, t) =>
    let x := s.rail n
    let late := groupOf n == g && !x.en && x.fell && decide (t + 10000000 ≤ s.nowNs)
    let early := x.en
    if n.val ≠ 0 ∧ (if cause.val = 0 then late else early) then
      let s1 := (if early then s.setRail n { x with pg := false } else s)
      let s2 := s1.setPower { s1.power with downGroup := none
                                            clocks := false
                                            rails := SMap.update {} s1.power.rails fun _ r => r.dropped }
      ok ((s2.resetLightplane.resetCompute).railEvent n 0x92 cause)
    else ok s

/-- `RAIL_LOSS`: a power-good input falls while its enable is high, outside power-down: a machine check, a fault hold, and the
package powers down (R428). -/
def execRailLoss (n : RailId) (s : State) : Out :=
  let x := s.rail n
  if n.val ≠ 0 ∧ x.en ∧ x.pg ∧ s.power.downGroup = none then
    let y : RailState := { x with pg := false, state := 3, faults := x.faults + 1 }
    ok (((s.setRail n y).hubCheck 0x91 n).shutDown)
  else ok s

/-! ### Start stages (R429-R434) -/

/-- A truing fault of a unit: the record with its step and cause; the stage stays 0x2, no laser is requested and every port is dark, as in
kickstand (R429, R433). -/
def State.unitTruingFailed (s : State) (unitKind die unit step cause : Nat) : State :=
  let s1 := { s with power := { s.power with truingFault := true } }.logEvent 0x93 unitKind die unit (step + 2 ^ 8 * cause)
  let s2 : State := { s1 with lasers := SMap.update {} s1.lasers fun _ x => { x with req := false, fellAt := none } }
  forAll 32 s2 fun s f => s.disablePort f

/-- A truing fault that names no unit but the hub. -/
def State.truingFailed (s : State) (step cause : Nat) : State := s.unitTruingFailed 10 0xFF 0 step cause

/-- A truing fault that names a failed link: the link's number, and the die of its lower end (R267, R447). -/
def State.linkTruingFailed (s : State) (l cause : Nat) : State := s.unitTruingFailed 10 (endDie (2 * l)) l 4 cause

/-- A truing fault that names the die whose fuse CRC fails: a compute die by its number and unit 0, a lightplane die by its number and unit 1
(R273; log entry 17). -/
def State.dieTruingFailed (s : State) (d : Nat) : State := s.unitTruingFailed 10 (d % 8) (d / 8) 3 7

/-- The group that comes up next: the groups come in order (R424). -/
def State.nextGroup (s : State) : Option Nat := if s.power.groupsUp < 11 then some s.power.groupsUp else none

/-- A rail fault in power-up: the sequence stops, the package powers down, and truing has failed at step 2 (R424). -/
def State.railFailed (s : State) (n cause : Nat) : State := ((s.railEvent n 0x90 cause).beginPowerDown).truingFailed 2 cause

/-- Truing step 2 is under way. -/
def State.powering (s : State) : Bool :=
  s.power.stage == 2 && !s.power.truingFault && !s.power.railsHeld && s.power.downGroup.isNone && !s.power.inReset

/-- `RAIL_GROUP_POWER_UP`: the set voltages are written and the enables of the next group rise; then its power-good inputs are high,
and `vout`, read in the order of the group's rails, must lie within 3% of what is set (R424). -/
def execRailGroupPowerUp (grp : RailGroup) (vout : List Nat) (s : State) : Out :=
  let g := grp.val
  if !s.powering then ok s
  else
    match s.power.upGroup with
    | none =>
      if s.nextGroup ≠ some g then ok s
      else
        let s1 := (railsOf g).foldl (fun s n => s.setRail n { s.rail n with setMv := s.setVoltage n, en := true, state := 1, busErr := false }) s
        ok (s1.setPower { s1.power with upGroup := some (g, s.nowNs) })
    | some (h, t) =>
      if h ≠ g then ok s
      else if t + 10000000 < s.nowNs then ok (s.railFailed ((railsOf g).headD 0) 0)
      else
        let reads := (railsOf g).zipIdx.map fun x => (x.1, (vout[x.2]?).getD 0)
        let s1 := reads.foldl (fun s x => s.setRail x.1 { s.rail x.1 with pg := true, busErr := false, vout := BitVec.ofNat 16 x.2 }) s
        match reads.find? fun x => !withinSet x.2 (s.rail x.1).setMv.toNat with
        | some x => ok (s1.railFailed x.1 1)
        | none =>
          let s2 := (railsOf g).foldl (fun s n => s.setRail n { s.rail n with state := 2 }) s1
          ok (s2.setPower { s2.power with upGroup := none, groupsUp := g + 1 })

/-- `RAIL_GROUP_TIMEOUT`: rail `n` has kept its group from being good: no power-good within 10 ms, a voltage out of range, or a
RAILBUS error (R422, R424). -/
def execRailGroupTimeout (n : RailId) (cause : Fin 3) (s : State) : Out :=
  match s.power.upGroup with
  | some (g, t) =>
    if s.powering && groupOf n == g && n.val != 0 && (cause.val != 0 || decide (t + 10000000 ≤ s.nowNs)) then ok (s.railFailed n cause) else ok s
  | none => ok s

/-- Kickstand is entered: VIO is enabled, and is good by the time its straps are sampled (DEDUCED, log entry 109: the straps are on VIO);
`INTERLOCK_N` counts as low until 1 s after VIO has risen (R429, R430, R480). -/
def State.enterKickstand (s : State) (straps : BitVec 4) : State :=
  let s1 := s.setPower { s.power with stage := 1, strap := straps, interlockLow := s.power.interlockLow || !s.vioOn }
  s1.setRail 1 { s1.rail 1 with en := true, pg := true, state := 2, setMv := 1800, fell := false }

/-- `PWROK_AO_RISE`: `PWROK_AO` has been high for 100 us (R429, R480). -/
def execPwrokAoRise (straps : BitVec 4) (s : State) : Out :=
  if s.power.vaoGood then ok s
  else ok ({ s with power := { s.power with vaoGood := true } }.enterKickstand straps)

/-- `RESET_N_RELEASE`: the package leaves reset and enters kickstand (R480). -/
def execResetNRelease (straps : BitVec 4) (s : State) : Out :=
  if s.power.inReset then
    let s1 : State := { s with power := { s.power with inReset := false } }
    ok (if s1.power.vaoGood then s1.enterKickstand straps else s1)
  else ok s

/-- The package is in kickstand. -/
def State.kickstand (s : State) : Bool := s.power.vaoGood && !s.power.inReset && s.power.stage == 1

/-- `STRAP0_FALL`: in kickstand `STRAP0` has been low for 100 us (R430, R480). -/
def execStrap0Fall (s : State) : Out :=
  if s.kickstand then ok (s.setPower { s.power with strap := s.power.strap &&& 0b1110 }) else ok s

/-! ### Step 1 of truing: firmware and calibration (R436-R440) -/

/-- Steps 2 to 4 of R409 pass for the image of a bank, which must be a firmware image (R439, R441); the bank as manufactured passes (log
entry 37). -/
def FwBank.verifies (f : FwBank) : Bool :=
  match f.image with
  | none => true
  | some l =>
    let g : Nat → Byte := fun i => (l[i]?).getD 0
    imgN g 4 2 == 0x0200 && (headerFail g l.length).isNone && (signatureFail g).isNone

/-- A firmware bank passes the boot ROM's checks and has not been tried since the reset (R439, R440). -/
def State.bankPasses (s : State) (b : Bool) : Bool :=
  let f := if b then s.power.fwB else s.power.fwA
  f.verifies && decide (Config.rollbackMin.toNat ≤ f.rollback.toNat) && !s.power.fwTried.testBit (if b then 1 else 0)

/-- The bank with the higher version, A if they are equal. -/
def PowerState.newer (p : PowerState) : Bool := decide (p.fwA.version.toNat < p.fwB.version.toNat)

/-- The bank that the boot ROM starts, with the cause of a fallback: 0 strap, 1 verify (R439, Table 15.8). -/
def State.pickBank (s : State) : Option (Bool × Option Nat) :=
  let first := s.power.newer
  match s.bankPasses first, s.bankPasses (!first) with
  | true, true => if bitOf s.power.strap 1 then some (!first, some 0) else some (first, none)
  | true, false => some (first, none)
  | false, true => some (!first, some 1)
  | false, false => none

/-- Start a firmware bank: true B. -/
def State.startBank (s : State) (b : Bool) : State :=
  s.setPower { s.power with fwBank := b, fwStartAt := s.nowNs, fwTried := s.power.fwTried ||| (if b then 2 else 1) }

/-- Load the valid calibration bank with the higher generation, and the port enables of its port record (R290, R437). -/
def State.loadCalibration (s : State) : State :=
  let a := bankResult s.power.calA
  let b := bankResult s.power.calB
  let gen (x : Option CalBank) : Nat := match x with | some c => c.generation.toNat | none => 0
  let pick : Option Bool :=
    if a = 0 ∧ b = 0 then some (decide (gen s.power.calA < gen s.power.calB))
    else if a = 0 then some false else if b = 0 then some true else none
  let s1 := s.setPower { s.power with loadedCal := pick }
  match s1.cal with
  | some c => forAll 4 s1 fun s k => s.setSetting (0x0440 + k) (fld c.portRec (8 * k + 7) (8 * k))
  | none => s1.logEvent 0x95 10 0xFF 0 (a + 2 ^ 8 * b)

/-- Truing begins (R430, R432 step 1). With no bank that passes the package stays in kickstand, and one record says so (R439; log entry
37). -/
def State.beginTruing (s : State) : State :=
  match s.pickBank with
  | none =>
    if s.power.noBank then s else { s with power := { s.power with noBank := true } }.logEvent 0x94 10 0xFF 0 (0xFF + 2 ^ 8)
  | some (b, why) =>
    let s1 := s.startBank b
    let s2 := match why with | some w => s1.logEvent 0x94 10 0xFF 0 (bit1 b + 2 ^ 8 * w) | none => s1
    let s3 := s2.loadCalibration
    { s3 with power := { s3.power with stage := 2, truingBegun := true, groupsUp := 0 }
              lasers := SMap.update {} s3.lasers fun _ x => { x with fault := false } }

/-- The firmware has reached truing step 2: it powers rails, or, where they are held, trains links. -/
def State.stepTwoReached (s : State) : Bool :=
  s.power.upGroup.isSome || s.power.downGroup.isSome || s.power.truingFault ||
    (if s.power.railsHeld then s.power.clocks else decide (0 < s.power.groupsUp))

/-- `FIRMWARE_WATCHDOG`: firmware that has not reached step 2 within 2 s is reset, and the ROM starts the other bank (R440). -/
def execFirmwareWatchdog (s : State) : Out :=
  if s.power.stage = 2 ∧ !s.stepTwoReached ∧ s.power.fwStartAt + 2000000000 ≤ s.nowNs then
    let s1 : State := { s with mbs := [], hubCount := [], hub := {}, settings := [], power := { s.power with loadedCal := none } }
    let b := !s.power.fwBank
    if s1.bankPasses b then ok (((s1.startBank b).logEvent 0x94 10 0xFF 0 (bit1 b + 2 ^ 8 * 2)).loadCalibration)
    else
      ok ({ s1 with power := { s1.power with stage := 1, truingBegun := false, noBank := true }
                    lasers := SMap.update {} s1.lasers fun _ x => { x with req := false, fellAt := none } }.logEvent 0x94 10 0xFF 0 (0xFF + 2 ^ 8 * 2))
  else ok s

/-! ### The end of truing (R432-R435, R219) -/

/-- Zero tiers 0 to 3 with valid check bits; the vaults owe refresh from now on (R209, R219). -/
def State.zeroMemory (s : State) : State :=
  { s with mem := [], ecc := [], t0Writes := []
           vaults := SMap.update {} s.vaults fun _ v => { v with paid := 0 }
           dieMem := buildMap {} 8 fun d => { s.dmem d with owedAt := some s.nowNs, owedUnits := 0, servingFrom := s.nowNs, lost := false
                                                            tstate := if (s.dmem d).tstate = 4 then 0 else (s.dmem d).tstate } }

/-- Train the stacks: the rate found, or failed (R224, Table 7.8). -/
def State.trainStacks (s : State) (rates : List Nat) : State :=
  forAll 32 s fun s t =>
    let r := (rates[t]?).getD 0
    s.setStk t { s.stk t with rate := BitVec.ofNat 16 r, state := if r = 0 then 3 else 2, turnAt := s.nowNs }

/-- Truing step 6 is over: the ring region of every die has come to its control point, or its 4 s have passed, and every enabled port of
such a die is up, or 10 s more have passed (R307, R432, R459). -/
def State.portsDone (s : State) : Bool :=
  let warm (k : Nat) : Bool := fld s.therm.ring (2 * k + 1) (2 * k) != 0
  decide (s.power.trainedAt + 14000000000 ≤ s.nowNs) ||
    ((List.range 4).all fun k => warm k || decide (s.power.trainedAt + 4000000000 ≤ s.nowNs)) &&
      (List.range 32).all fun f => !s.portEnabled f || (s.port f).state == 2 || !warm (f / 8)

/-- The first failed link, and its cause. -/
def State.failedLink (s : State) : Option (Nat × Nat) := (s.ends.find? fun e => e.2.state == 5).map fun e => (e.1 / 2, e.2.cause.toNat)

/-- The first die whose fuse CRC fails (R273). -/
def badFuses : Option Nat := (List.range 12).find? fun d => !fuseGood (Fin.ofNat 12 d)

/-- Every rail but VAO is good; rails held through a warm reset are good while their power-good inputs are high (R443). -/
def State.railsGood (s : State) : Bool := (List.range 25).all fun i => (s.rail (i + 1)).pg && (s.power.railsHeld || s.power.groupsUp == 11)

/-- Steps 3 to 8 of truing, as far as they have come (R432): once every rail is good the clocks start (R465). -/
def State.finishTruing (s0 : State) (rep : TruingReport) : State :=
  let s := if s0.railsGood then s0.setPower { s0.power with clocks := true } else s0
  if !s.railsGood then (if s.power.railsHeld then s.truingFailed 2 0 else s)
  else
    match badFuses, rep.failStep, s.failedLink with
    | some d, _, _ => s.dieTruingFailed d
    | none, some (3, c), _ => s.truingFailed 3 c.toNat
    | none, some (4, c), _ => s.truingFailed 4 c.toNat
    | none, _, some (l, c) => s.linkTruingFailed l c
    | none, f, none =>
      if !s.beat.aligned ∨ !((List.range 18).all fun l => (s.linkEnd (2 * l)).state == 4) ∨ !s.portsDone then s
      else
        let s1 := (s.trainStacks rep.stackRate).zeroMemory
        match f with
        | some (8, c) => s1.truingFailed 8 c.toNat
        | _ => s1.setPower { s1.power with stage := 3 }

/-- REFCLK measures 97 to 103 MHz (R481). -/
def refclkOk (kHz : Nat) : Bool := decide (97000 ≤ kHz) && decide (kHz ≤ 103000)

/-- `TRUING`: in kickstand with `STRAP0` low and REFCLK good it begins, unless `STRAP0` has risen; in the truing stage it goes on to the
ready stage or a truing fault (R430, R432, R433, R480, R481). -/
def execTruing (rep : TruingReport) (s : State) : Out :=
  if s.kickstand then
    if rep.strap0High then ok (s.setPower { s.power with strap := s.power.strap ||| 1 })
    else if bitOf s.power.strap 0 ∨ !refclkOk rep.refclkKHz then ok s else ok s.beginTruing
  else if s.power.stage = 2 ∧ !s.power.truingFault ∧ !s.power.inReset ∧ s.power.downGroup = none then ok (s.finishTruing rep)
  else ok s

/-- `REFCLK_LOSS`: after truing has begun, the reference is out of range or absent: a machine check, the hub moves to the AO clock, and the
package powers down, unless it does so already (R481). -/
def execRefclkLoss (s : State) : Out :=
  if s.power.truingBegun ∧ !s.power.refLost ∧ !s.power.inReset then
    let s1 := s.hubCheck 0x45 0
    let s2 := s1.setPower { s1.power with refLost := true, clocks := false, stage := 4 }
    ok (if s.power.downGroup.isSome ∨ s.power.stage = 4 then s2 else s2.beginPowerDown)
  else ok s

/-! ### Shutdown (R407) -/

/-- `SHUTDOWN_POWER_DOWN`: mode 0 posts `DONE`, takes no further command and runs the power-down order. -/
def execShutdownPowerDown (s : State) : Out :=
  match s.cur 0x44 with
  | some c =>
    if slotN c.slot 8 1 ≠ 0 then ok s
    else
      let s1 := s.finish c stDone 0 0
      ok ({ s1 with hub := { s1.hub with shutdown := true } }.shutDown)
  | none => ok s

/-- `SHUTDOWN_WARM_RESTART`: mode 1 posts `DONE` and takes no further command; then the package restarts as by a warm reset, and enters
kickstand (R407, R443). -/
def execShutdownWarmRestart (straps : BitVec 4) (s : State) : Out :=
  if s.power.restart then ok ((s.warmReset 1).enterKickstand straps)
  else
    match s.cur 0x44 with
    | some c =>
      if slotN c.slot 8 1 ≠ 1 then ok s
      else
        let s1 := s.finish c stDone 0 0
        ok { s1 with hub := { s1.hub with shutdown := true }, power := { s1.power with restart := true } }
    | none => ok s

end Sys2Proof.Machine
end

