-- ==== Sys2Proof/Machine/Thermal.lean ====
section
/-! DEFINITION. Sensors, limits, the orderly stop, region heaters, the brake and the gear (R220-R223, R448-R464). -/

namespace Sys2Proof.Machine

open Sys2Proof

/-! ### Sites (R448-R451, Tables 16.1 and 16.2) -/

/-- The site is on a powered die: LP0's sites and the thermistors run on VAO (R429, R450). -/
def State.sitePowered (s : State) (i : Nat) : Bool :=
  let on (n : Nat) : Bool := (s.rail n).pg
  if i < 128 then on (2 + i / 16)
  else if i < 160 then on (2 + (i - 128) / 4)
  else if i < 168 then true
  else if i < 192 then on 23
  else if i < 208 then on (2 + (i - 192) / 2) && on 18 && on 19 && on 20
  else if i < 224 then on (2 + (i - 208) / 2) && on 21 && on 22
  else true

/-- The neighbours of a site (Table 16.2). -/
def siteNeighbours (i : Nat) : List Nat :=
  if i < 128 then
    let r := i % 16 / 4
    let c := i % 4
    (if 0 < r then [i - 4] else []) ++ (if r < 3 then [i + 4] else []) ++ (if 0 < c then [i - 1] else []) ++ (if c < 3 then [i + 1] else [])
  else if i < 160 then ((List.range 4).map fun j => i / 4 * 4 + j).filter (· != i)
  else if i < 192 then (if 0 < i % 8 then [i - 1] else []) ++ (if i % 8 < 7 then [i + 1] else [])
  else if i < 224 then [i ^^^ 1]
  else []

/-- Put a number into a rising list. -/
def insertInt (v : Int) : List Int → List Int
  | [] => [v]
  | x :: xs => if v ≤ x then v :: x :: xs else x :: insertInt v xs

/-- Twice the median; of an even count, the sum of the middle two (R452). -/
def median2 (l : List Int) : Option Int :=
  let r := l.foldl (fun a v => insertInt v a) []
  let n := r.length
  match r[(n - 1) / 2]?, r[n / 2]? with
  | some a, some b => some (a + b)
  | _, _ => none

/-- The filter is full. -/
def SensorState.full (x : SensorState) : Bool := x.samples.length == 8
/-- The base-2 logarithm of n > 0 in units of 2^-40, by repeated squaring. -/
def log2Fix (n : Nat) : Nat :=
  let e := Nat.log2 n
  let step (x : Nat × Nat) : Nat × Nat :=
    let q := x.1 * x.1 / 2 ^ 64
    if 2 ^ 65 ≤ q then (q / 2, 2 * x.2 + 1) else (q, 2 * x.2)
  e * 2 ^ 40 + ((List.range 40).foldl (fun x _ => step x) (n * 2 ^ 64 / 2 ^ e, 0)).2

/-- What a thermistor of `r` milliohms reads, in 1/16 °C: 1 / (1/298.15 + ln(R / 10,000) / 3,435) − 273.15, to the nearest unit and within 16
bits; a short reads the highest value (R449; log entry 117). -/
def thermistorReading (r : Nat) : Int :=
  -- ln(R / 10,000) = (log2 r − log2 10^7) ln 2, in 2^-40 and 10^-21
  let l : Int := Int.ofNat (log2Fix r) - 25567489968751
  let n : Int := 343500 * 2 ^ 40 * 10 ^ 21 + l * 693147180559945309417 * 29815
  let d : Int := 29815 * 3435 * 2 ^ 40 * 10 ^ 21
  if r = 0 ∨ n ≤ 0 then 32767 else max (-32768) (min 32767 ((3200 * d - 874080 * n + 100 * n) / (200 * n)))

/-- The site is neither invalid nor suspect (R451). -/
def SensorState.valid (x : SensorState) : Bool := x.full && !x.suspect
/-- The filtered reading. -/
def SensorState.read (x : SensorState) : Int := x.filtered.toInt

/-- A sample enters the filter; on an unpowered die the filter is empty (R450). -/
def SensorState.sample (x : SensorState) (powered : Bool) (v : Int) : SensorState :=
  if powered then
    let l := v :: x.samples.take 7
    { x with samples := l, filtered := BitVec.ofInt 16 (meanOf l.sum l.length) }
  else { x with samples := [], hist := [], clearMs := 0, suspect := false, cause := 0 }

/-- Largest less smallest. -/
def spread (l : List Int) : Int :=
  match l with
  | [] => 0
  | x :: xs => xs.foldl max x - xs.foldl min x

/-- The range test (R452). -/
def SensorState.outOfRange (x : SensorState) : Bool := decide (x.read < -320) || decide (2400 < x.read)

/-- The stuck test, over the history that includes this sample (R452). -/
def SensorState.stuck (x : SensorState) : Bool :=
  x.hist.length == 2000 && decide (spread (x.hist.map (·.1)) < 1) && decide (96 < spread (x.hist.filterMap (·.2)))

/-- Readings of the sites of a list that satisfy a test. -/
def readings (xs : List SensorState) (is : List Nat) (f : SensorState → Bool) : List Int :=
  is.filterMap fun i => match xs[i]? with | some x => if f x then some x.read else none | none => none

/-- The neighbour test (R452). -/
def neighbourBad (xs : List SensorState) (i : Nat) (x : SensorState) : Bool :=
  let l := readings xs (siteNeighbours i) fun y => y.valid && !y.outOfRange && !y.stuck
  decide (2 ≤ l.length) && (match median2 l with | some m => decide (384 < (2 * x.read - m).natAbs) | none => false)

/-- The first test that holds for a site: 1 range, 2 stuck, 3 neighbour (R452). -/
def testCause (xs : List SensorState) (i : Nat) (x : SensorState) : Nat :=
  if !x.full then 0 else if x.outOfRange then 1 else if x.stuck then 2 else if neighbourBad xs i x then 3 else 0

/-- A site after its tests: it becomes suspect, or clears after 2,000 samples in which none held (R452). -/
def SensorState.tested (x : SensorState) (cause : Nat) : SensorState :=
  if !x.full then x
  else if !x.suspect then
    (if cause = 0 then x else { x with suspect := true, cause := BitVec.ofNat 2 cause, suspects := x.suspects + 1, clearMs := 0 })
  else if cause ≠ 0 then { x with clearMs := 0 }
  else if x.clearMs + 1 < 2000 then { x with clearMs := x.clearMs + 1 }
  else { x with suspect := false, cause := 0, clearMs := 0 }

/-- The effective reading (R453): of a suspect site, the largest of its valid neighbours plus 5 °C, or 125 °C. -/
def effectiveOf (xs : List SensorState) (i : Nat) (x : SensorState) : BitVec 16 :=
  if !x.suspect then x.filtered
  else
    match readings xs (siteNeighbours i) SensorState.valid with
    | [] => 2000
    | v :: vs => BitVec.ofInt 16 (vs.foldl max v + 80)

/-- Note an effective reading and its extremes since cold reset. -/
def SensorState.noted (x : SensorState) (e : BitVec 16) : SensorState :=
  if !x.full then { x with effective := e }
  else { x with effective := e, max := if x.max.toInt < e.toInt then e else x.max, min := if e.toInt < x.min.toInt then e else x.min }

/-- All sites after a sample of all (R450-R453). -/
def sampleSites (powered : Nat → Bool) (xs : List SensorState) (vs : List Int) : List SensorState :=
  let a := xs.zipIdx.map fun x => x.1.sample (powered x.2) ((vs[x.2]?).getD 0)
  let b := a.zipIdx.map fun x =>
    if x.1.full then { x.1 with hist := (x.1.read, median2 (readings a (siteNeighbours x.2) SensorState.valid)) :: x.1.hist.take 1999 } else x.1
  let c := b.zipIdx.map fun x => x.1.tested (testCause b x.2 x.1)
  c.zipIdx.map fun x => x.1.noted (effectiveOf c x.2 x.1)

/-- The logs of what changed at a site (Table 16.8). -/
def State.logSite (s : State) (i : Nat) (old new : SensorState) : State :=
  if !old.suspect && new.suspect then s.logEvent 0x9C 10 0xFF 0 (i + 2 ^ 16 * new.cause.toNat + 2 ^ 32 * new.filtered.toNat)
  else if old.suspect && !new.suspect && new.full then s.logEvent 0x9D 10 0xFF 0 i
  else s

/-- What a site's sample reads: a thermistor gives its resistance in milliohms, every other site its temperature (R449). -/
def siteReading (i : Nat) (v : Int) : Int := if 224 ≤ i then thermistorReading v.toNat else v

/-- Sample every site. -/
def State.sampleAll (s : State) (ws : List Int) : State :=
  let vs := ws.zipIdx.map fun x => siteReading x.2 x.1
  let old := (List.range 232).map fun i => SMap.get {} s.therm.sensors i
  let new := sampleSites s.sitePowered old vs
  let s1 := s.setTherm { s.therm with sensors := buildMap {} 232 fun i => (new[i]?).getD {} }
  forAll 232 s1 fun s i => s.logSite i ((old[i]?).getD {}) ((new[i]?).getD {})

/-! ### The orderly stop (R222, R456) -/

/-- A channel has something to stop. -/
def ChannelState.busy (c : ChannelState) : Bool := c.cur.isSome || c.next.isSome || !c.queue.isEmpty

/-- Steps 2 and 3 of the orderly stop, under the hold; the hold then drops. -/
def State.stopNow (s : State) : State :=
  let s1 := if s.prog.running then s.programStopped else s.stopIdle
  s1.setTherm { s1.therm with stopping := false }

/-- The orderly stop: a Hub service hold in every case, then the program stops, arrays park and spokes halt, and every channel stops at its
next descriptor boundary (R222). `logic` says that a die's logic has caused it, which decides when a program may start again (R456). -/
def State.orderlyStop (s : State) (logic : Bool) : State :=
  let t := s.therm
  let s1 := s.setTherm { t with stopVault := t.stopVault || !logic, stopLogic := t.stopLogic || logic, stopping := true }
  let s2 := if s1.prog.startAt.isSome then { s1 with prog := { s1.prog with startAt := none } }.completeStart stAborted 0 else s1
  let s3 := s2.channels.foldl (fun s e => if e.2.busy then s.requestStop e.1 else s) s2
  if s3.stopReady then s3.stopNow else s3.setBeat { s3.beat with hubDemand := true }

/-! ### Limits (R220-R223, R454-R458, Tables 7.4 and 16.3) -/

/-- A reading in a record. -/
def reading16 (t : Int) : Nat := (BitVec.ofInt 16 t).toNat

/-- Detail of a limit record: source, part, reading (Table 16.8). -/
def limitDetail (source idx : Nat) (t : Int) : Nat := source + 2 ^ 8 * idx + 2 ^ 16 * reading16 t

/-- Log that a part entered or left its throttle state, numbered `thr`: it enters when the reading reaches the entry, be it the stop value
at once, and leaves when the reading falls below the exit, be it from the stop state; a part that goes on from throttle to stop has not
left (R220, R455; DEDUCED, log entry 111). -/
def State.logThrottle (s : State) (source idx thr old new : Nat) (t : Int) : State :=
  if old < thr ∧ thr ≤ new then s.logEvent 0x98 10 0xFF 0 (limitDetail source idx t)
  else if thr ≤ old ∧ new < thr then s.logEvent 0x99 10 0xFF 0 (limitDetail source idx t)
  else s

/-- The throttle entries of key 0x0500, in 1/16 °C (Table 16.4). -/
def State.logicEntry (s : State) : Int := s.keyN 0x0500 0 2
def State.vaultEntry (s : State) : Int := s.keyN 0x0500 2 2

/-- The next vault state (Table 7.4): it rises at the entries, and falls below the exits; the stop state ends when every vault is below
90 °C (R222), the lost state never here. -/
def vaultNext (cur : Nat) (t entry : Int) (cold : Bool) : Nat :=
  let up := if 1760 ≤ t then 4 else if 1680 ≤ t then 3 else if entry ≤ t then 2 else if 1360 ≤ t then 1 else 0
  let fall := if entry - 80 ≤ t then 2 else if 1280 ≤ t then 1 else 0
  if cur = 4 then 4
  else if cur < up then up
  else if cur = 3 then (if cold then fall else 3)
  else if cur = 2 then fall
  else if cur = 1 ∧ 1280 ≤ t then 1
  else 0

/-- The next state of a part with throttle 1 and stop 2 (and for logic critical 3): `release` lets the stop state end. -/
def partNext (cur : Nat) (t entry stop exit_ : Int) (release : Bool) : Nat :=
  let up := if stop ≤ t then 2 else if entry ≤ t then 1 else 0
  if cur < up then up
  else if cur = 2 then (if release then (if exit_ ≤ t then 1 else 0) else 2)
  else if cur = 1 ∧ exit_ ≤ t then 1
  else 0

/-- A die has lost its vaults: every word is poisoned (R223). -/
def State.loseVaults (s : State) (d : Nat) : State :=
  let s1 := s.setEcc (s.ecc.filter fun e => decide (8 * e.1 / 0x800000000 ≠ d))
  s1.setDmem d { s1.dmem d with lost := true }

/-- The vaults of a die after a sample (R209, R220-R223). -/
def State.limitVault (s : State) (cold : Bool) (d : Nat) : State :=
  match s.hottestOf (128 + 4 * d) 4 with
  | none => s
  | some t =>
    let old := (s.dmem d).tstate.toNat
    let new := vaultNext old t s.vaultEntry cold
    let s1 := (s.setDmem d { s.dmem d with temp := BitVec.ofInt 16 t, tstate := BitVec.ofNat 3 new }).setRefresh d (BitVec.ofNat 2 (min new 2))
    let s2 := s1.logThrottle 1 d 2 old new t
    let s3 := if old < 3 ∧ 3 ≤ new then (s2.log 2 0x43 8 d 0 (reading16 t)).orderlyStop false else s2
    if old < 4 ∧ new = 4 then (s3.log 2 0x44 8 d 0 (reading16 t)).loseVaults d else s3

/-- The logic of a die after a sample (R455, R456). -/
def State.limitLogic (s : State) (cold : Bool) (d : Nat) : State :=
  match s.hottestOf (16 * d) 16 with
  | none => s
  | some t =>
    let old := fld s.therm.logic (2 * d + 1) (2 * d)
    let new := if old = 3 ∨ 2000 ≤ t then 3 else partNext old t s.logicEntry 1840 (s.logicEntry - 80) cold
    let s1 := s.setTherm { s.therm with logic := setFld s.therm.logic (2 * d + 1) (2 * d) new }
    let s2 := s1.logThrottle 0 d 1 old new t
    let s3 := if old < 2 ∧ 2 ≤ new then (s2.log 2 0x9A 10 0xFF 0 (limitDetail 0 d t)).orderlyStop true else s2
    if old < 3 ∧ new = 3 then (s3.log 2 0x9B 10 0xFF 0 (d + 2 ^ 16 * reading16 t)).shutDown else s3

/-- A stack after a sample (R455, R457). -/
def State.limitStack (s : State) (t : Nat) : State :=
  match s.hottestOf (192 + t) 1 with
  | none => s
  | some v =>
    let k := s.stk t
    let old := k.limit.toNat
    let new := partNext old v 1520 1680 1440 (decide (v < 1440))
    let src := if t < 16 then 2 else 3
    let s1 := s.setStk t { k with temp := BitVec.ofInt 16 v, limit := BitVec.ofNat 2 new }
    let s2 := s1.logThrottle src (t % 16) 1 old new v
    if old < 2 ∧ new = 2 then (s2.log 2 0x9A 10 0xFF 0 (limitDetail src (t % 16) v)).orderlyStop false else s2

/-- A thermistor after a sample: its limits are in key 0x0501; a suspect one with limits has reached its stop value (R458). -/
def State.limitThermistor (s : State) (n : Nat) : State :=
  let entry : Int := s.keyN 0x0501 (4 * n) 2
  let stop : Int := s.keyN 0x0501 (4 * n + 2) 2
  match s.hottestOf (224 + n) 1 with
  | none => s
  | some v =>
    let x := SMap.get {} s.therm.sensors (224 + n)
    let old := fld s.therm.thermistor (2 * n + 1) (2 * n)
    let new := if entry = 0 ∧ stop = 0 then 0 else if x.suspect then 2 else partNext old v entry stop (entry - 80) (decide (v < entry - 80))
    let s1 := s.setTherm { s.therm with thermistor := setFld s.therm.thermistor (2 * n + 1) (2 * n) new }
    let s2 := s1.logThrottle 4 n 1 old new v
    if old < 2 ∧ new = 2 then (s2.log 2 0x9A 10 0xFF 0 (limitDetail 4 n v)).orderlyStop false else s2

/-- Every die's reading of a kind is below a value; an invalid one says nothing (R454). -/
def State.allBelow (s : State) (first n : Nat) (v : Int) : Bool :=
  (List.range 8).all fun d => match s.hottestOf (first + n * d) n with | some t => decide (t < v) | none => true

/-- `SENSOR_SAMPLE`: every site is sampled, filtered and tested, and the limits follow (R449-R458). An orderly stop that waited for its
hold goes on. -/
def execSensorSample (samples : List Int) (s : State) : Out :=
  if !s.power.vaoGood ∨ s.power.inReset ∨ s.inDomainReset .sense then ok s
  else
    let s0 := if s.therm.stopping && s.stopReady then s.stopNow else s
    let s1 := s0.sampleAll samples
    let s2 := forAll 8 s1 fun s d => s.limitVault (s1.allBelow 128 4 1440) d
    let s3 := forAll 8 s2 fun s d => s.limitLogic (s1.allBelow 0 16 1600) d
    let s4 := forAll 32 s3 fun s t => s.limitStack t
    ok (forAll 8 s4 fun s n => s.limitThermistor n)

/-! ### Ring regions (R459) -/

/-- A die's ports go down with its lasers, those in bring-up too. -/
def State.regionStop (s : State) (k : Nat) : State := forAll 8 s.dropLasers fun s j => (s.goDown (8 * k + j)).holdDown (8 * k + j)

/-- Since when a region has been out of its band. -/
def ThermState.bandSince (t : ThermState) (k : Nat) : Option Nat := (t.ringBandSince.find? fun x => x.1 == k).map (·.2)

/-- Set the state of a region, and note since when it has been out of its band. -/
def State.setRegion (s : State) (k st : Nat) (since : Option Nat) : State :=
  let t := s.therm
  s.setTherm { t with ring := setFld t.ring (2 * k + 1) (2 * k) st
                      ringBandSince := (match since with | some v => [(k, v)] | none => []) ++ t.ringBandSince.filter fun x => x.1 != k }

/-- `REGION_HEATER_CONTROL`: the region's loop acts, and its state follows the mean of its valid sites; the heater drive is a free value
(R459). -/
def execRegionHeaterControl (k : LpId) (s : State) : Out :=
  let sites := (List.range 8).map fun i => SMap.get {} s.therm.sensors (160 + 8 * k + i)
  let l := (sites.filter SensorState.valid).map SensorState.read
  if !(s.rail 25).pg ∨ s.power.inReset then ok s
  else
    match s.hottestOf (160 + 8 * k) 8 with
    | none => ok s
    | some hot =>
      let (free, s1) := s.draw
      let s2 := s1.setTherm { s1.therm with regionHeat := SMap.set 0 s1.therm.regionHeat k (free.toNat % 4096) }
      let off : Nat := (l.sum - (l.length : Int) * (s2.keyN 0x0502 (2 * k) 2 : Nat)).natAbs
      let near := !l.isEmpty && decide (10 * off ≤ 16 * l.length)
      let far := !l.isEmpty && decide (8 * l.length < off)
      let cur := fld s2.therm.ring (2 * k + 1) (2 * k)
      let note (s : State) (ev : Nat) : State := s.logEvent 0x9E 10 0xFF 0 (k + 2 ^ 8 * ev + 2 ^ 16 * reading16 hot)
      if cur ≠ 3 ∧ 1440 ≤ hot then ok (((note s2 1).setRegion k 3 none).regionStop k)
      else if cur = 3 then
        (if near ∧ hot < 1440 then ok (((note s2 2).setRegion k 1 none).repeatFrom ((List.range 8).map fun j => 8 * k + j) 2) else ok s2)
      else if cur = 0 then ok (if near then s2.setRegion k 1 none else s2)
      else if cur = 2 then ok (if near then (note s2 2).setRegion k 1 none else s2)
      else if far then
        let t := (s2.therm.bandSince k).getD s2.nowNs
        if t + 1000000000 ≤ s2.nowNs then ok ((note s2 0).setRegion k 2 none) else ok (s2.setRegion k 1 (some t))
      else ok (s2.setRegion k 1 none)

/-! ### Power, brake and gear (R461-R464) -/

/-- The brake values have changed from a `BRAKE_N` of `old`: the change is counted and carried to the beat domain (R50, R462). -/
def State.brakeChanged (s : State) (old : Nat) : State :=
  let s1 := s.noteBrake old
  let n := BitVec.ofNat 4 s1.therm.brake
  if s1.therm.brake = old then s1
  else if s1.beat.aligned then s1.setBeat { s1.beat with brakePending := s1.beat.brakePending ++ [(n, s1.wall)] }
  else s1.setBeat { s1.beat with brakeN := n, brakePending := [] }

/-- Some site's reading is valid: until then brake and gear hold their values (R454, Table 15.6). -/
def State.sensed (s : State) : Bool := (s.hottestOf 0 232).isSome

/-- The sustained limit L, in 0.1 mW. -/
def State.limitUnits (s : State) : Nat := s.setting 0x0200 % 65536 * 10000

/-- The readings of a sweep: a failed transaction sets `BUS_ERR` and keeps the last readings (R422, R446). -/
def State.readRails (s : State) (readings : List Reading) : State :=
  forAll 25 s fun s i =>
    match readings[i]? with
    | some r =>
      let x := s.rail (i + 1)
      s.setRail (i + 1) (if r.failed then { x with busErr := true } else { x with busErr := false, vout := r.mv, iout := r.da })
    | none => s

/-- The package has come to draw more than its limit, or no longer does (Table 16.8; DESIGN CHOICE, log entry 111). -/
def State.logPower (s : State) (old new : Bool) (watts : Nat) : State :=
  if old = new then s else s.logEvent (if new then 0x98 else 0x99) 10 0xFF 0 (5 + 2 ^ 16 * watts)

/-- `POWER_SAMPLE`: a sweep of rails 1 to 25 is complete: the sample, the average, the energy and n_power, which holds while no reading is
valid (R454, R461, R462, R464). A powered regulator that fails on RAILBUS is a rail fault (R422). -/
def execPowerSample (readings : List Reading) (s : State) : Out :=
  if !s.power.vaoGood ∨ s.power.inReset ∨ s.power.stage = 1 then ok s
  else
    let s1 := s.readRails readings
    let sample := (List.range 25).foldl (fun n i => n + (s1.rail (i + 1)).vout.toNat * (s1.rail (i + 1)).iout.toNat) 100000
    let t := s1.therm
    let l := sample :: t.power.take 9
    let sum := l.sum
    let now := s1.nowNs
    let limit := s1.limitUnits * l.length
    let exceeds := decide (limit < sum)
    let below := if 100 * sum ≤ 95 * limit then some (t.belowSince.getD now) else none
    let low := if 10 * sum ≤ 6 * limit then some (t.lowSince.getD now) else none
    let old (x : Option Nat) (d : Nat) : Bool := match x with | some v => decide (v + d ≤ now) | none => true
    let holds := !s1.sensed || readings.all (·.failed)
    let rises := !holds && exceeds && old t.raisedAt 100000000 && decide (t.nPower.toNat < 15)
    let falls := !holds && below.isSome && old below 1000000000 && old t.fellAt 1000000000 && decide (0 < t.nPower.toNat)
    let t1 : ThermState :=
      { t with power := l, overLimit := exceeds, energyUj := t.energyUj + sample, belowSince := below, lowSince := low
               nPower := if rises then t.nPower + 1 else if falls then t.nPower - 1 else t.nPower
               raisedAt := if rises then some now else t.raisedAt
               fellAt := if falls then some now else t.fellAt }
    let s2 := ((s1.setTherm t1).brakeChanged t.brake).logPower t.overLimit exceeds (meanWatts sum l.length)
    let failed := (List.range 25).find? fun i => (match readings[i]? with | some r => r.failed | none => false) && (s2.rail (i + 1)).en && (s2.rail (i + 1)).pg
    match failed with
    | some i => ok (if s2.power.downGroup.isSome ∨ s2.power.stage = 4 then s2 else if s2.powering then s2.railFailed (i + 1) 2 else s2.busFailed (i + 1))
    | none => ok s2

/-- Readings of the parts in a throttle state or beyond. -/
def State.throttledReadings (s : State) : List Int :=
  let pick (b : Bool) (first n : Nat) : List Int := if b then (s.hottestOf first n).toList else []
  ((List.range 8).flatMap fun d =>
    pick (fld s.therm.logic (2 * d + 1) (2 * d) != 0) (16 * d) 16 ++ pick (decide (2 ≤ (s.dmem d).tstate.toNat)) (128 + 4 * d) 4) ++
  ((List.range 32).flatMap fun t => pick ((s.stk t).limit != 0) (192 + t) 1) ++
  ((List.range 8).flatMap fun n => pick (fld s.therm.thermistor (2 * n + 1) (2 * n) != 0) (224 + n) 1)

/-- `THERMAL_BRAKE_STEP`: every 100 ms n_thermal rises while a throttle state holds and the hottest part has not fallen by 0.5 °C, and
falls while none holds; it stays while every reading that it needs is invalid: those of dies and stacks, and of thermistors with limits
(R458, R462, R464). -/
def execThermalBrakeStep (s : State) : Out :=
  let t := s.therm
  let limits (n : Nat) : Bool := s.keyN 0x0501 (4 * n) 2 != 0 || s.keyN 0x0501 (4 * n + 2) 2 != 0
  let blind := (s.hottestOf 0 160).isNone && (s.hottestOf 192 32).isNone && (List.range 8).all fun n => !limits n || (s.hottestOf (224 + n) 1).isNone
  if !s.power.vaoGood ∨ s.nowNs < t.thermalAt + 100000000 ∨ blind then ok s
  else
    let hot : Option Int := match s.throttledReadings with | [] => none | v :: vs => some (vs.foldl max v)
    let cooled : Bool := match t.hottest, hot with | some a, some b => decide (b + 8 ≤ a) | _, _ => false
    let n :=
      if s.throttled then (if cooled || t.nThermal = 15 then t.nThermal else t.nThermal + 1)
      else if t.nThermal = 0 then 0 else t.nThermal - 1
    ok ((s.setTherm { t with nThermal := n, hottest := hot, thermalAt := s.nowNs }).brakeChanged t.brake)

/-- The gear that hub firmware wants, with the cause of the change: 0 power, 1 thermal (R463). It holds while no reading is valid (R454). -/
def State.gearWanted (s : State) : Option (Nat × Nat) :=
  let t := s.therm
  let g := s.beat.gear.toNat
  let since (x : Option Nat) (d : Nat) : Bool := match x with | some v => decide (v + d ≤ s.nowNs) | none => false
  if !s.sensed then none
  else if since t.brakeHiSince 100000000 && decide (g < 3) then some (g + 1, if t.nPower.toNat < t.nThermal.toNat then 1 else 0)
  else if decide (s.setting 0x0280 % 4 < g) && since t.brakeZeroSince 1000000000 && !s.throttled && since t.lowSince 1000000000 then some (g - 1, 0)
  else none

/-- `GEAR_CHANGE`: hub firmware raises the shift demand; in its hold, at a frame boundary, the gear changes (R51, R463). -/
def execGearChange (s : State) : Out :=
  match s.gearWanted with
  | none => ok (s.setTherm { s.therm with gearJob := false }).refreshShift
  | some (code, cause) =>
    if !s.beat.aligned || (s.therm.gearJob && s.beat.held && s.beat.causeShift && decide (s.wall % 16 = 0)) then
      let s1 := s.changeGear code cause
      ok (s1.setTherm { s1.therm with gearJob := false }).refreshShift
    else ok (s.setTherm { s.therm with gearJob := true }).refreshShift

end Sys2Proof.Machine
end

