-- ==== Sys2Proof/Machine/Pins.lean ====
section
/-! DEFINITION. The sideband, boundary scan and the output pins (R447, R480-R483). -/

namespace Sys2Proof.Machine

open Sys2Proof

/-! ### Output pins (Table 17.4) -/

/-- `FAULT_N` is driven low: the AO log holds a record of class 0x02 (R447). -/
def State.faultLow (s : State) : Bool := s.aoLog.any fun r => r.cls == 2

/-- `SB_ALERT_N` is driven low: MB31 has an enabled event (R420). -/
def State.alertLow (s : State) : Bool := decide ((s.mb 31).event &&& (s.mb 31).eventEn ≠ 0)

/-- The signal pins that the boundary register covers (Table 17.4, R483). -/
inductive Pin where
  | pwrokAo | resetN | faultN
  | en (n : Nat)
  | pg (n : Nat)
  | railbusClk | railbusDat | sbScl | sbSda | sbAlertN
  | laserReq (n : Nat)
  | laserOk (n : Nat)
  | interlockN | tck | tms | tdi | trstN | tdo
  | strap (n : Nat)
  | cadenceOut
  deriving DecidableEq, Repr

/-- The cells of the boundary register in its order, which R483 does not give: the order of Table 17.4 (DESIGN CHOICE, log entry 113). -/
def boundaryPins : List Pin :=
  [.pwrokAo, .resetN, .faultN] ++ (List.range 25).map (fun i => .en (i + 1)) ++ (List.range 25).map (fun i => .pg (i + 1)) ++
    [.railbusClk, .railbusDat, .sbScl, .sbSda, .sbAlertN] ++ (List.range 8).map .laserReq ++ (List.range 8).map .laserOk ++
    [.interlockN, .tck, .tms, .tdi, .trstN, .tdo] ++ (List.range 4).map .strap ++ [.cadenceOut]

/-! ### Boundary scan (R483) -/

/-- `BYPASS` of IEEE 1149.1: all ones. -/
def tapBypass : BitVec 5 := 0x1F

/-- Instructions that are always available: `BYPASS`, `IDCODE`, `SAMPLE/PRELOAD` (R483; log entry 5). -/
def tapAlways (ir : BitVec 5) : Bool := ir == tapBypass || ir == 0x01 || ir == Config.tapSample

/-- The instruction in effect: one that is not always available acts as `BYPASS` but while `STRAP0` holds the package in kickstand (R483). -/
def State.tapInForce (s : State) : BitVec 5 :=
  if tapAlways s.tap.ir || (s.power.vaoGood && !s.power.inReset && s.power.stage == 1 && bitOf s.power.strap 0) then s.tap.ir else tapBypass

/-- The boundary register lies between `TDI` and `TDO`. -/
def State.boundarySelected (s : State) : Bool :=
  s.tapInForce != tapBypass && s.tapInForce != 0x01 && (s.tapInForce == Config.tapSample || s.tapInForce == Config.tapExtest)

/-- `EXTEST` drives the pins. -/
def State.extest (s : State) : Bool := !s.tap.trstLow && s.boundarySelected && s.tapInForce == Config.tapExtest

/-- The level that the package drives on a pin, none where it is released or of high impedance (R429, R447, R478, Table 17.4). What shows
on `RAILBUS` and the sideband within a transfer is not held. -/
def State.pinLevel (s : State) (p : Pin) : Option Bool :=
  match p with
  | .en n => if s.power.vaoGood then some (s.rail n).en else none
  | .faultN => if s.power.vaoGood && s.faultLow then some false else none
  | .sbAlertN => if s.vioOn && s.alertLow then some false else none
  | .laserReq n => if s.vioOn then some (s.laser n).req else none
  | .tdo => s.tap.tdo
  | .cadenceOut => some (s.vioOn && s.mach.cadenceOut)
  | _ => none

/-- What the cell of a pin drives under `EXTEST`: never an enable or a laser request; an open-drain pin is low or released (R478, R483). -/
def extestDrives (p : Pin) (b : Bool) : Option (Option Bool) :=
  match p with
  | .faultN | .railbusClk | .railbusDat | .sbScl | .sbSda | .sbAlertN => some (if b then none else some false)
  | .cadenceOut => some (some b)
  | _ => none

/-- The level of an output pin, with boundary scan. -/
def State.pinOut (s : State) (p : Pin) : Option Bool :=
  match (if s.extest then (extestDrives p ((s.tap.latch[boundaryPins.idxOf p]?).getD false)) else none) with
  | some x => x
  | none => s.pinLevel p

/-- What `IDCODE` shifts out: version 0x0, part 0x7B18, manufacturer 0x459 and bit 0 set (R483). -/
def tapIdcode : BitVec 32 := BitVec.ofNat 32 (pack [(1, 0), (0x459, 1), (0x7B18, 12), (0, 28)]).toNat

/-- What the selected data register captures: a bit of 0 under `BYPASS`, `IDCODE`, or the level of every pin of the boundary register, of one
that the package drives its own (R483, IEEE 1149.1). -/
def State.captured (s : State) (pins : List Bool) : List Bool :=
  if s.boundarySelected then boundaryPins.zipIdx.map fun x => (s.pinOut x.1).getD ((pins[x.2]?).getD false)
  else if s.tapInForce = 0x01 then (List.range 32).map (bitOf tapIdcode)
  else [false]

/-- `TAP_INSTRUCTION`: boundary scan by IEEE 1149.1. `TRST_N` low resets the TAP to `IDCODE` and holds it there; `TDO` is of high impedance
unless shifting (R478, R483; log entries 5 and 113). -/
def execTapInstruction (e : TapEvent) (s : State) : Out :=
  let t := s.tap
  if !s.vioOn then ok s
  else
    match e with
    | .trst low => ok (s.setTap (if low then { t with trstLow := true, ir := 0x01, dr := [], tdo := none } else { t with trstLow := false }))
    | .instruction ir => if t.trstLow then ok s else ok (s.setTap { t with ir := ir, dr := [], tdo := none })
    | .capture pins => if t.trstLow then ok s else ok (s.setTap { t with dr := s.captured pins, tdo := none })
    | .shift tdi => if t.trstLow then ok s else ok (s.setTap { t with dr := t.dr.drop 1 ++ [tdi], tdo := some (t.dr.headD false) })
    | .update => if t.trstLow then ok s else ok (s.setTap { t with latch := if s.boundarySelected then t.dr.take 85 else t.latch, tdo := none })

/-! ### The sideband (R482) -/

/-- The provisional ID of I3C mode: 0x2C4 in [47:33], 0 in [32], and the low 32 bits of the package serial (R482). -/
def provisionalId : BitVec 48 := BitVec.ofNat 48 (0x2C4 * 2 ^ 33 + Config.serial.toNat % 2 ^ 32)

/-- The sideband address: the dynamic one once assigned, else that of `STRAP3` (R482). -/
def State.sidebandAddress (s : State) : BitVec 7 :=
  match s.tap.dynAddr with
  | some a => a
  | none => if bitOf s.power.strap 3 then 0x5B else 0x5A

/-- `DYNAMIC_ADDRESS_ASSIGN`: in I3C mode (`STRAP2` high) the package takes a dynamic address (R482). -/
def execDynamicAddressAssign (addr : BitVec 7) (s : State) : Out :=
  if s.power.vaoGood && bitOf s.power.strap 2 then ok (s.setTap { s.tap with dynAddr := some addr }) else ok s

/-- `SMBUS_CLOCK_LOW_TIMEOUT`: in SMBus mode (`STRAP2` low) the transfer in progress is abandoned, and a register left partly written is
unchanged (R482). -/
def execSmbusClockLowTimeout (s : State) : Out :=
  if s.power.vaoGood && !bitOf s.power.strap 2 then ok (s.setTap { s.tap with transfer := none }) else ok s

end Sys2Proof.Machine
end

