-- ==== Sys2Proof/Machine/Dispatch.lean ====
section
/-! DEFINITION. One arm per command: a direct call of its meaning. -/

namespace Sys2Proof.Machine

open Sys2Proof

/-- What a command does to everything but the queue. -/
def exec (i : Instr) (s : State) : Host.Outcome State Fault Refusal :=
  match i with
  | .nop g => Sys2Proof.Machine.execNop g s
  | .pass g => Sys2Proof.Machine.execPass g s
  | .passBeatIssue g => Sys2Proof.Machine.execPassBeatIssue g s
  | .passBroadcast g => Sys2Proof.Machine.execPassBroadcast g s
  | .accumulatorWrite g => Sys2Proof.Machine.execAccumulatorWrite g s
  | .stream g => Sys2Proof.Machine.execStream g s
  | .streamFetch g st => Sys2Proof.Machine.execStreamFetch g st s
  | .streamLineArrival g st => Sys2Proof.Machine.execStreamLineArrival g st s
  | .zero g => Sys2Proof.Machine.execZero g s
  | .loadacc g => Sys2Proof.Machine.execLoadacc g s
  | .drain g => Sys2Proof.Machine.execDrain g s
  | .drainOutputWrite g => Sys2Proof.Machine.execDrainOutputWrite g s
  | .loop g => Sys2Proof.Machine.execLoop g s
  | .endloop g => Sys2Proof.Machine.execEndloop g s
  | .wait g => Sys2Proof.Machine.execWait g s
  | .waitRelease u => Sys2Proof.Machine.execWaitRelease u s
  | .waitTimeout u => Sys2Proof.Machine.execWaitTimeout u s
  | .waitAborted u => Sys2Proof.Machine.execWaitAborted u s
  | .signal g => Sys2Proof.Machine.execSignal g s
  | .dummy g => Sys2Proof.Machine.execDummy g s
  | .freewheel g => Sys2Proof.Machine.execFreewheel g s
  | .freewheelWake g => Sys2Proof.Machine.execFreewheelWake g s
  | .park g => Sys2Proof.Machine.execPark g s
  | .parkPowerGate g => Sys2Proof.Machine.execParkPowerGate g s
  | .unpark g => Sys2Proof.Machine.execUnpark g s
  | .unparkRampStart d => Sys2Proof.Machine.execUnparkRampStart d s
  | .unparkComplete g => Sys2Proof.Machine.execUnparkComplete g s
  | .endWord g => Sys2Proof.Machine.execEndWord g s
  | .endClockGate g => Sys2Proof.Machine.execEndClockGate g s
  | .holdShaperDecay g => Sys2Proof.Machine.execHoldShaperDecay g s
  | .releaseNoticeRamp g => Sys2Proof.Machine.execReleaseNoticeRamp g s
  | .programFault => Sys2Proof.Machine.execProgramFault s
  | .faultHoldClear => Sys2Proof.Machine.execFaultHoldClear s
  | .holdDemandArrival => Sys2Proof.Machine.execHoldDemandArrival s
  | .brakeApply => Sys2Proof.Machine.execBrakeApply s
  | .servantCounterCrossing d st => Sys2Proof.Machine.execServantCounterCrossing d st s
  | .chainlineSlot r => Sys2Proof.Machine.execChainlineSlot r s
  | .chaxelFlitPresent r q => Sys2Proof.Machine.execChaxelFlitPresent r q s
  | .lightplaneFifoInbound r q flit => Sys2Proof.Machine.execLightplaneFifoInbound r q flit s
  | .servantChainlineRequest r => Sys2Proof.Machine.execServantChainlineRequest r s
  | .transitMove x dir => Sys2Proof.Machine.execTransitMove x dir s
  | .transitFlitArrival x dir flit => Sys2Proof.Machine.execTransitFlitArrival x dir flit s
  | .transitCreditReturn x dir => Sys2Proof.Machine.execTransitCreditReturn x dir s
  | .dtrigOpen p => Sys2Proof.Machine.execDtrigOpen p s
  | .dtrigDispatch p => Sys2Proof.Machine.execDtrigDispatch p s
  | .dtrigVoid p => Sys2Proof.Machine.execDtrigVoid p s
  | .dtrigCombine p => Sys2Proof.Machine.execDtrigCombine p s
  | .derailleurPhaseStart d => Sys2Proof.Machine.execDerailleurPhaseStart d s
  | .routeLanding p => Sys2Proof.Machine.execRouteLanding p s
  | .assignment d => Sys2Proof.Machine.execAssignment d s
  | .dispatchSweep d out line => Sys2Proof.Machine.execDispatchSweep d out line s
  | .fillSweep d => Sys2Proof.Machine.execFillSweep d s
  | .voidArming d => Sys2Proof.Machine.execVoidArming d s
  | .voidWindowStart g => Sys2Proof.Machine.execVoidWindowStart g s
  | .combineSweep d out line => Sys2Proof.Machine.execCombineSweep d out line s
  | .taskRunStart p => Sys2Proof.Machine.execTaskRunStart p s
  | .runComplete p => Sys2Proof.Machine.execRunComplete p s
  | .budgetOverrun p => Sys2Proof.Machine.execBudgetOverrun p s
  | .untilRelease p => Sys2Proof.Machine.execUntilRelease p s
  | .add p => Sys2Proof.Machine.execAdd p s
  | .sub p => Sys2Proof.Machine.execSub p s
  | .and p => Sys2Proof.Machine.execAnd p s
  | .or p => Sys2Proof.Machine.execOr p s
  | .xor p => Sys2Proof.Machine.execXor p s
  | .sll p => Sys2Proof.Machine.execSll p s
  | .srl p => Sys2Proof.Machine.execSrl p s
  | .sra p => Sys2Proof.Machine.execSra p s
  | .slt p => Sys2Proof.Machine.execSlt p s
  | .sltu p => Sys2Proof.Machine.execSltu p s
  | .min p => Sys2Proof.Machine.execMin p s
  | .max p => Sys2Proof.Machine.execMax p s
  | .mul p => Sys2Proof.Machine.execMul p s
  | .mulh p => Sys2Proof.Machine.execMulh p s
  | .div p => Sys2Proof.Machine.execDiv p s
  | .divu p => Sys2Proof.Machine.execDivu p s
  | .rem p => Sys2Proof.Machine.execRem p s
  | .remu p => Sys2Proof.Machine.execRemu p s
  | .addi p => Sys2Proof.Machine.execAddi p s
  | .andi p => Sys2Proof.Machine.execAndi p s
  | .ori p => Sys2Proof.Machine.execOri p s
  | .xori p => Sys2Proof.Machine.execXori p s
  | .slti p => Sys2Proof.Machine.execSlti p s
  | .lui p => Sys2Proof.Machine.execLui p s
  | .shi p => Sys2Proof.Machine.execShi p s
  | .lw p => Sys2Proof.Machine.execLw p s
  | .lh p => Sys2Proof.Machine.execLh p s
  | .lhu p => Sys2Proof.Machine.execLhu p s
  | .lb p => Sys2Proof.Machine.execLb p s
  | .lbu p => Sys2Proof.Machine.execLbu p s
  | .sw p => Sys2Proof.Machine.execSw p s
  | .sh p => Sys2Proof.Machine.execSh p s
  | .sb p => Sys2Proof.Machine.execSb p s
  | .vld p => Sys2Proof.Machine.execVld p s
  | .vst p => Sys2Proof.Machine.execVst p s
  | .spokeStoreWrite p => Sys2Proof.Machine.execSpokeStoreWrite p s
  | .beq p => Sys2Proof.Machine.execBeq p s
  | .bne p => Sys2Proof.Machine.execBne p s
  | .blt p => Sys2Proof.Machine.execBlt p s
  | .bge p => Sys2Proof.Machine.execBge p s
  | .bltu p => Sys2Proof.Machine.execBltu p s
  | .bgeu p => Sys2Proof.Machine.execBgeu p s
  | .jal p => Sys2Proof.Machine.execJal p s
  | .jalr p => Sys2Proof.Machine.execJalr p s
  | .vfadd p => Sys2Proof.Machine.execVfadd p s
  | .vfsub p => Sys2Proof.Machine.execVfsub p s
  | .vfmul p => Sys2Proof.Machine.execVfmul p s
  | .vfma p => Sys2Proof.Machine.execVfma p s
  | .vfnma p => Sys2Proof.Machine.execVfnma p s
  | .vfmin p => Sys2Proof.Machine.execVfmin p s
  | .vfmax p => Sys2Proof.Machine.execVfmax p s
  | .vfabs p => Sys2Proof.Machine.execVfabs p s
  | .vfneg p => Sys2Proof.Machine.execVfneg p s
  | .vfscale p => Sys2Proof.Machine.execVfscale p s
  | .vfexp p => Sys2Proof.Machine.execVfexp p s
  | .vbfadd p => Sys2Proof.Machine.execVbfadd p s
  | .vbfmul p => Sys2Proof.Machine.execVbfmul p s
  | .vbfma p => Sys2Proof.Machine.execVbfma p s
  | .vadd p => Sys2Proof.Machine.execVadd p s
  | .vsub p => Sys2Proof.Machine.execVsub p s
  | .vand p => Sys2Proof.Machine.execVand p s
  | .vor p => Sys2Proof.Machine.execVor p s
  | .vxor p => Sys2Proof.Machine.execVxor p s
  | .vshl p => Sys2Proof.Machine.execVshl p s
  | .vshr p => Sys2Proof.Machine.execVshr p s
  | .vsra p => Sys2Proof.Machine.execVsra p s
  | .vmull p => Sys2Proof.Machine.execVmull p s
  | .vmin p => Sys2Proof.Machine.execVmin p s
  | .vmax p => Sys2Proof.Machine.execVmax p s
  | .vsel p => Sys2Proof.Machine.execVsel p s
  | .vslide p => Sys2Proof.Machine.execVslide p s
  | .vfeq p => Sys2Proof.Machine.execVfeq p s
  | .vflt p => Sys2Proof.Machine.execVflt p s
  | .vfle p => Sys2Proof.Machine.execVfle p s
  | .vieq p => Sys2Proof.Machine.execVieq p s
  | .vilt p => Sys2Proof.Machine.execVilt p s
  | .viltu p => Sys2Proof.Machine.execViltu p s
  | .vexp2 p => Sys2Proof.Machine.execVexp2 p s
  | .vlog2 p => Sys2Proof.Machine.execVlog2 p s
  | .vrsqrt p => Sys2Proof.Machine.execVrsqrt p s
  | .vrcp p => Sys2Proof.Machine.execVrcp p s
  | .vtanh p => Sys2Proof.Machine.execVtanh p s
  | .vfrsum p => Sys2Proof.Machine.execVfrsum p s
  | .vfrmax p => Sys2Proof.Machine.execVfrmax p s
  | .vfrmin p => Sys2Proof.Machine.execVfrmin p s
  | .virsum p => Sys2Proof.Machine.execVirsum p s
  | .vsort p => Sys2Proof.Machine.execVsort p s
  | .vmrg p => Sys2Proof.Machine.execVmrg p s
  | .vfkey p => Sys2Proof.Machine.execVfkey p s
  | .viota p => Sys2Proof.Machine.execViota p s
  | .vcvtf8 p => Sys2Proof.Machine.execVcvtf8 p s
  | .vcvtbf p => Sys2Proof.Machine.execVcvtbf p s
  | .vcvtbl p => Sys2Proof.Machine.execVcvtbl p s
  | .vwid8 p => Sys2Proof.Machine.execVwid8 p s
  | .vwidb p => Sys2Proof.Machine.execVwidb p s
  | .vf2i p => Sys2Proof.Machine.execVf2i p s
  | .vi2f p => Sys2Proof.Machine.execVi2f p s
  | .vsplat p => Sys2Proof.Machine.execVsplat p s
  | .vins p => Sys2Proof.Machine.execVins p s
  | .vmovx p => Sys2Proof.Machine.execVmovx p s
  | .pand p => Sys2Proof.Machine.execPand p s
  | .por p => Sys2Proof.Machine.execPor p s
  | .pnot p => Sys2Proof.Machine.execPnot p s
  | .pset p => Sys2Proof.Machine.execPset p s
  | .pget p => Sys2Proof.Machine.execPget p s
  | .spokeNop p => Sys2Proof.Machine.execSpokeNop p s
  | .tend p => Sys2Proof.Machine.execTend p s
  | .untilTask p => Sys2Proof.Machine.execUntilTask p s
  | .csrr p => Sys2Proof.Machine.execCsrr p s
  | .csrw p => Sys2Proof.Machine.execCsrw p s
  | .spokeWait p => Sys2Proof.Machine.execSpokeWait p s
  | .spokeSignal p => Sys2Proof.Machine.execSpokeSignal p s
  | .rdcnt p => Sys2Proof.Machine.execRdcnt p s
  | .rwr p => Sys2Proof.Machine.execRwr p s
  | .qpush p => Sys2Proof.Machine.execQpush p s
  | .qpop p => Sys2Proof.Machine.execQpop p s
  | .cepost p => Sys2Proof.Machine.execCepost p s
  | .clpost p => Sys2Proof.Machine.execClpost p s
  | .refreshOp g => Sys2Proof.Machine.execRefreshOp g s
  | .vaultServantAccess g => Sys2Proof.Machine.execVaultServantAccess g s
  | .scrubRead g => Sys2Proof.Machine.execScrubRead g s
  | .scrubWriteback g => Sys2Proof.Machine.execScrubWriteback g s
  | .stackAccess t rep => Sys2Proof.Machine.execStackAccess t rep s
  | .capTurn t => Sys2Proof.Machine.execCapTurn t s
  | .capFlitReceive t err => Sys2Proof.Machine.execCapFlitReceive t err s
  | .descriptorFetch c => Sys2Proof.Machine.execDescriptorFetch c s
  | .copyAccessResponse c n => Sys2Proof.Machine.execCopyAccessResponse c n s
  | .copyAccessTimeout c n => Sys2Proof.Machine.execCopyAccessTimeout c n s
  | .descriptorComplete c => Sys2Proof.Machine.execDescriptorComplete c s
  | .channelStop c => Sys2Proof.Machine.execChannelStop c s
  | .chaxelGroupReceive e grp err crcErr => Sys2Proof.Machine.execChaxelGroupReceive e grp err crcErr s
  | .replayRequest e err => Sys2Proof.Machine.execReplayRequest e err s
  | .replayCheck e err crcErr => Sys2Proof.Machine.execReplayCheck e err crcErr s
  | .chxPhase e drift => Sys2Proof.Machine.execChxPhase e drift s
  | .holdWordReceive e x0 x1 x2 => Sys2Proof.Machine.execHoldWordReceive e x0 x1 x2 s
  | .linkTraining l rep => Sys2Proof.Machine.execLinkTraining l rep s
  | .alignmentMark l delays => Sys2Proof.Machine.execAlignmentMark l delays s
  | .beatZero => Sys2Proof.Machine.execBeatZero s
  | .frameReceive f w marker sequence payload => Sys2Proof.Machine.execFrameReceive f w marker sequence payload s
  | .codewordDecode f w => Sys2Proof.Machine.execCodewordDecode f w s
  | .steeringSlotStart k w slot => Sys2Proof.Machine.execSteeringSlotStart k w slot s
  | .burstReceive f w rep => Sys2Proof.Machine.execBurstReceive f w rep s
  | .truingWindow k ring lit sum cnt => Sys2Proof.Machine.execTruingWindow k ring lit sum cnt s
  | .ringFault k ring => Sys2Proof.Machine.execRingFault k ring s
  | .laserRequest n => Sys2Proof.Machine.execLaserRequest n s
  | .laserOkRise n => Sys2Proof.Machine.execLaserOkRise n s
  | .laserOkFall n => Sys2Proof.Machine.execLaserOkFall n s
  | .laserFault n => Sys2Proof.Machine.execLaserFault n s
  | .interlockLow => Sys2Proof.Machine.execInterlockLow s
  | .interlockHigh => Sys2Proof.Machine.execInterlockHigh s
  | .portBringUp f ok => Sys2Proof.Machine.execPortBringUp f ok s
  | .portUp f => Sys2Proof.Machine.execPortUp f s
  | .portDown f => Sys2Proof.Machine.execPortDown f s
  | .blockReceive f w block => Sys2Proof.Machine.execBlockReceive f w block s
  | .creditReturn f w block => Sys2Proof.Machine.execCreditReturn f w block s
  | .cut f w => Sys2Proof.Machine.execCut f w s
  | .packetForward k inp => Sys2Proof.Machine.execPacketForward k inp s
  | .packetInject k cls => Sys2Proof.Machine.execPacketInject k cls s
  | .fifoUnderrun f w => Sys2Proof.Machine.execFifoUnderrun f w s
  | .fifoFlush f w => Sys2Proof.Machine.execFifoFlush f w s
  | .operationRecord k st => Sys2Proof.Machine.execOperationRecord k st s
  | .opLoad k st => Sys2Proof.Machine.execOpLoad k st s
  | .opStore k st => Sys2Proof.Machine.execOpStore k st s
  | .opAtomic k st => Sys2Proof.Machine.execOpAtomic k st s
  | .opFence k st => Sys2Proof.Machine.execOpFence k st s
  | .opRecordComplete k st n => Sys2Proof.Machine.execOpRecordComplete k st n s
  | .remoteLoad k => Sys2Proof.Machine.execRemoteLoad k s
  | .remoteStore k => Sys2Proof.Machine.execRemoteStore k s
  | .atomicAdd k => Sys2Proof.Machine.execAtomicAdd k s
  | .atomicSwap k => Sys2Proof.Machine.execAtomicSwap k s
  | .atomicCas k => Sys2Proof.Machine.execAtomicCas k s
  | .atomicMin k => Sys2Proof.Machine.execAtomicMin k s
  | .atomicMax k => Sys2Proof.Machine.execAtomicMax k s
  | .atomicMinu k => Sys2Proof.Machine.execAtomicMinu k s
  | .atomicMaxu k => Sys2Proof.Machine.execAtomicMaxu k s
  | .atomicFadd k => Sys2Proof.Machine.execAtomicFadd k s
  | .replyReceive k => Sys2Proof.Machine.execReplyReceive k s
  | .requestTimeout k reqId => Sys2Proof.Machine.execRequestTimeout k reqId s
  | .fabricDrained => Sys2Proof.Machine.execFabricDrained s
  | .congestionSample k => Sys2Proof.Machine.execCongestionSample k s
  | .discoverySend q => Sys2Proof.Machine.execDiscoverySend q s
  | .discoveryReceive q content => Sys2Proof.Machine.execDiscoveryReceive q content s
  | .discoveryWindowEnd => Sys2Proof.Machine.execDiscoveryWindowEnd s
  | .beaconSend q => Sys2Proof.Machine.execBeaconSend q s
  | .beaconReceive q content => Sys2Proof.Machine.execBeaconReceive q content s
  | .parentLost => Sys2Proof.Machine.execParentLost s
  | .holdoverExpire => Sys2Proof.Machine.execHoldoverExpire s
  | .cadenceOutEdge => Sys2Proof.Machine.execCadenceOutEdge s
  | .collectiveTakePost k => Sys2Proof.Machine.execCollectiveTakePost k s
  | .collectiveStart k => Sys2Proof.Machine.execCollectiveStart k s
  | .gateOpen k slot dst chunk => Sys2Proof.Machine.execGateOpen k slot dst chunk s
  | .clData k => Sys2Proof.Machine.execClData k s
  | .clArrive k => Sys2Proof.Machine.execClArrive k s
  | .clRelease k => Sys2Proof.Machine.execClRelease k s
  | .clAbort k => Sys2Proof.Machine.execClAbort k s
  | .clCredit k => Sys2Proof.Machine.execClCredit k s
  | .clAck k => Sys2Proof.Machine.execClAck k s
  | .chunkResultStep k slot => Sys2Proof.Machine.execChunkResultStep k slot s
  | .collectiveClose k slot => Sys2Proof.Machine.execCollectiveClose k slot s
  | .collectiveStall k slot => Sys2Proof.Machine.execCollectiveStall k slot s
  | .collectiveDeadline k slot => Sys2Proof.Machine.execCollectiveDeadline k slot s
  | .collectiveAbort k slot => Sys2Proof.Machine.execCollectiveAbort k slot s
  | .abortResend k => Sys2Proof.Machine.execAbortResend k s
  | .cmdTailWrite m v => Sys2Proof.Machine.execCmdTailWrite m v s
  | .rspHeadWrite m v => Sys2Proof.Machine.execRspHeadWrite m v s
  | .cmdWinWrite m st v => Sys2Proof.Machine.execCmdWinWrite m st v s
  | .mbEventClear m v => Sys2Proof.Machine.execMbEventClear m v s
  | .registerWrite reg v => Sys2Proof.Machine.execRegisterWrite reg v s
  | .loRegisterRead reg => Sys2Proof.Machine.execLoRegisterRead reg s
  | .commandSelect => Sys2Proof.Machine.execCommandSelect s
  | .identify => Sys2Proof.Machine.execIdentify s
  | .getState => Sys2Proof.Machine.execGetState s
  | .snapshotLatch => Sys2Proof.Machine.execSnapshotLatch s
  | .readTelemetry => Sys2Proof.Machine.execReadTelemetry s
  | .getCongestionMap => Sys2Proof.Machine.execGetCongestionMap s
  | .readLog => Sys2Proof.Machine.execReadLog s
  | .clearLog => Sys2Proof.Machine.execClearLog s
  | .stage => Sys2Proof.Machine.execStage s
  | .check => Sys2Proof.Machine.execCheck s
  | .shift => Sys2Proof.Machine.execShift s
  | .shiftDemand => Sys2Proof.Machine.execShiftDemand s
  | .shiftInstant => Sys2Proof.Machine.execShiftInstant s
  | .discard => Sys2Proof.Machine.execDiscard s
  | .loadImage => Sys2Proof.Machine.execLoadImage s
  | .startProgram => Sys2Proof.Machine.execStartProgram s
  | .programBeatZero => Sys2Proof.Machine.execProgramBeatZero s
  | .stopProgram => Sys2Proof.Machine.execStopProgram s
  | .copy => Sys2Proof.Machine.execCopy s
  | .copyAbort => Sys2Proof.Machine.execCopyAbort s
  | .bindPeloton => Sys2Proof.Machine.execBindPeloton s
  | .releasePeloton => Sys2Proof.Machine.execReleasePeloton s
  | .setWindows => Sys2Proof.Machine.execSetWindows s
  | .drainFabric => Sys2Proof.Machine.execDrainFabric s
  | .resumeFabric => Sys2Proof.Machine.execResumeFabric s
  | .calSave => Sys2Proof.Machine.execCalSave s
  | .repairMap => Sys2Proof.Machine.execRepairMap s
  | .repairTest failing => Sys2Proof.Machine.execRepairTest failing s
  | .repairSoft => Sys2Proof.Machine.execRepairSoft s
  | .repairHard => Sys2Proof.Machine.execRepairHard s
  | .repairStatus => Sys2Proof.Machine.execRepairStatus s
  | .setPowerLimit => Sys2Proof.Machine.execSetPowerLimit s
  | .resetDomainVault => Sys2Proof.Machine.execResetDomainVault s
  | .resetDomainStk => Sys2Proof.Machine.execResetDomainStk s
  | .resetDomainCap => Sys2Proof.Machine.execResetDomainCap s
  | .resetDomainFab => Sys2Proof.Machine.execResetDomainFab s
  | .resetDomainPtx => Sys2Proof.Machine.execResetDomainPtx s
  | .resetDomainPrx => Sys2Proof.Machine.execResetDomainPrx s
  | .resetDomainCad => Sys2Proof.Machine.execResetDomainCad s
  | .resetDomainSense => Sys2Proof.Machine.execResetDomainSense s
  | .domainReady dom => Sys2Proof.Machine.execDomainReady dom s
  | .fifoResync dom => Sys2Proof.Machine.execFifoResync dom s
  | .shutdownPowerDown => Sys2Proof.Machine.execShutdownPowerDown s
  | .shutdownWarmRestart straps => Sys2Proof.Machine.execShutdownWarmRestart straps s
  | .relayReceive q response slot => Sys2Proof.Machine.execRelayReceive q response slot s
  | .relayTimeout m tag => Sys2Proof.Machine.execRelayTimeout m tag s
  | .mailboxNotify m => Sys2Proof.Machine.execMailboxNotify m s
  | .coldReset vaoUp => Sys2Proof.Machine.execColdReset vaoUp s
  | .warmReset => Sys2Proof.Machine.execWarmReset s
  | .strap0Fall => Sys2Proof.Machine.execStrap0Fall s
  | .truing rep => Sys2Proof.Machine.execTruing rep s
  | .railGroupPowerUp grp vout => Sys2Proof.Machine.execRailGroupPowerUp grp vout s
  | .railGroupTimeout n cause => Sys2Proof.Machine.execRailGroupTimeout n cause s
  | .railGroupPowerDown grp pgLow => Sys2Proof.Machine.execRailGroupPowerDown grp pgLow s
  | .railFaultPowerDown n cause => Sys2Proof.Machine.execRailFaultPowerDown n cause s
  | .railLoss n => Sys2Proof.Machine.execRailLoss n s
  | .firmwareWatchdog => Sys2Proof.Machine.execFirmwareWatchdog s
  | .refclkLoss => Sys2Proof.Machine.execRefclkLoss s
  | .sensorSample samples => Sys2Proof.Machine.execSensorSample samples s
  | .powerSample readings => Sys2Proof.Machine.execPowerSample readings s
  | .thermalBrakeStep => Sys2Proof.Machine.execThermalBrakeStep s
  | .gearChange => Sys2Proof.Machine.execGearChange s
  | .regionHeaterControl k => Sys2Proof.Machine.execRegionHeaterControl k s
  | .tapInstruction ir => Sys2Proof.Machine.execTapInstruction ir s
  | .commandTimeout m tag => Sys2Proof.Machine.execCommandTimeout m tag s
  | .resetNRelease straps => Sys2Proof.Machine.execResetNRelease straps s
  | .pwrokAoRise straps => Sys2Proof.Machine.execPwrokAoRise straps s
  | .voidWindowEnd g => Sys2Proof.Machine.execVoidWindowEnd g s
  | .dynamicAddressAssign addr => Sys2Proof.Machine.execDynamicAddressAssign addr s
  | .smbusClockLowTimeout => Sys2Proof.Machine.execSmbusClockLowTimeout s

end Sys2Proof.Machine
end

