-- ==== Sys2Proof/Safety.lean ====
section
/-! DEFINITION. What claims about the part are stated in: the invariant of memory, what a safe step is, and the predicates
that several statements share. -/

namespace Sys2Proof.Machine

open Sys2Proof

/-- Memory stands in its one canonical form. -/
def State.memOk (s : State) : Bool := Memory.wf s.mem

/-- The step answers a next state: the part never stops with a fault. -/
def safeStep (s : State) : Prop := ∃ t, step s = .next t

/-- The command answers a next state, and `P` holds of it. -/
def Answers (c : Instr) (s : State) (P : State → Prop) : Prop := ∃ t, exec c s = Host.Outcome.next t ∧ P t

/-- The schedule, the compute dies, the copy channels, the settings and the queue are as they were. -/
def RestSame (s t : State) : Prop :=
  t.ecc = s.ecc ∧ t.pending = s.pending ∧ t.beat = s.beat ∧ t.prog = s.prog ∧ t.arrays = s.arrays ∧
    t.routers = s.routers ∧ t.derailleurs = s.derailleurs ∧ t.spokes = s.spokes ∧ t.counters = s.counters ∧
    t.channels = s.channels ∧ t.settings = s.settings

/-- So is memory. -/
def ComputeSame (s t : State) : Prop := t.mem = s.mem ∧ RestSame s t

/-- The byte lies in a destination chunk that a collective has not counted (R395). -/
def CollState.looseAt (c : CollState) (a : Nat) : Prop :=
  ∃ i, c.stepsMade ≤ i ∧ i < resultChunks c.entry c.size ∧ ceChunkAt c.entry true i ≤ a ∧ a < ceChunkAt c.entry true i + ceChunk c.entry

/-- Memory is as it was, but for the bytes that open collectives leave unspecified when they abort (R392, R395). -/
def MemSameButAborts (s t : State) : Prop :=
  ∀ a, (∀ k < 4, ∀ c ∈ (s.engine k).open_, ¬c.looseAt a) → t.byte a = s.byte a

/-- They are as they were, but for what an abort leaves open. -/
def ComputeSameButAborts (s t : State) : Prop := MemSameButAborts s t ∧ RestSame s t

/-- The hub log has taken one record, of this class and code, stamped with this beat. -/
def Logged (s t : State) (cls code : Nat) : Prop :=
  t.hubSeq = s.hubSeq + 1 ∧ ∃ r, t.hubLog.getLast? = some r ∧ r.cls = BitVec.ofNat 8 cls ∧ r.code = BitVec.ofNat 8 code ∧
    r.seq = s.hubSeq ∧ r.sched = s.beat.schedBeat ∧ r.wall = s.beat.wallBeat

/-! ### Arrays -/

/-- Nothing but the arrays differs. -/
def OnlyArrays (s t : State) : Prop := { t with arrays := s.arrays } = s

/-- Nothing but array `g` differs, and it has become `a`. -/
def ArrayBecomes (s t : State) (g : Nat) (a : ArrayState) : Prop :=
  t.array g = a ∧ (∀ m, m ≠ g → t.array m = s.array m) ∧ OnlyArrays s t

/-- No word of memory carries a mark of its check bits or poison, now or at the start of the beat. -/
def State.unmarked (s : State) : Prop := ∀ a, s.mark a = none ∧ s.atStart.mark a = none

/-- Nothing but the arrays and the counts of checked memory words differs. -/
def OnlyArraysAndChecks (s t : State) : Prop :=
  { t with arrays := s.arrays, dieMem := s.dieMem, memStacks := s.memStacks } = s

/-- `t` with what the counting of checked words, a record and the hold of a fault may change put back. -/
def OnlyReportsOf (s t : State) : State :=
  { t with dieMem := s.dieMem, memStacks := s.memStacks, hubLog := s.hubLog, aoLog := s.aoLog, hubSeq := s.hubSeq,
           aoSeq := s.aoSeq, mbs := s.mbs, beat := s.beat }

/-- The last record of the hub log is that of a program fault of this beat (R46, Table 14.14), and the package is in a fault
hold on the demand of the die. -/
def FaultRecorded (s t : State) (code unitKind die unit : Nat) : Prop :=
  t.beat.faultHold = true ∧ bitOf t.beat.faultDemands die = true ∧
    ∃ r, t.hubLog.getLast? = some r ∧ r.cls = 1 ∧ r.code = BitVec.ofNat 8 code ∧ r.unitKind = BitVec.ofNat 8 unitKind ∧
      r.die = BitVec.ofNat 8 die ∧ r.unit = BitVec.ofNat 16 unit ∧ r.sched = s.beat.schedBeat ∧ r.wall = s.beat.wallBeat

/-- A wait's fault: the array or the spoke is faulted (R105, R202); nothing else but the records and the hold. -/
def WaitFaulted (s t : State) (code : Nat) : WaitUnit → Prop
  | .array g => FaultRecorded s t code 0 (g.val / 2048) (g.val % 2048) ∧ t.array g = { s.array g with seqState := 5 } ∧
      (∀ m, m ≠ g.val → t.array m = s.array m) ∧ { OnlyReportsOf s t with arrays := s.arrays } = s
  | .spoke p => FaultRecorded s t code 1 (p.val / 256) (p.val % 256) ∧ (t.spoke p).mode = 3 ∧
      (∀ q, q ≠ p.val → t.spoke q = s.spoke q) ∧ { OnlyReportsOf s t with spokes := s.spokes } = s

/-- Nothing but the arrays, the counts of checked words, and the record and hold of a machine check differs. -/
def OnlyArraysAndReports (s t : State) : Prop :=
  { OnlyReportsOf s t with arrays := s.arrays } = s

/-- The free issue port of leader `g` holds word `w` with opcode `op`, which no member's sequence, power or void window
forbids, and the pass port is free where the word waits for it (R96, R102, R124, R164). -/
def State.offers (s : State) (g op : Nat) (w : BitVec 128) : Prop :=
  s.portFree g = true ∧ (s.array g).pc < 1024 ∧ s.passWord g (s.array g).pc = w ∧ opcodeOf w = op ∧
    (waitsForPass op && passBusy (s.array g) s.pbeat) = false ∧
    ∀ m ∈ s.members g, sequenceFault (s.array m) op = none ∧ lateFault (s.array m) s.pbeat op = none

/-- Nothing but the arrays and the counts of checked words differs; where no word of memory is marked, nothing but the arrays. -/
def ArraysMove (s t : State) : Prop := OnlyArraysAndChecks s t ∧ (s.unmarked → OnlyArrays s t)

/-- A word that keeps to its form issues, and every member of the gang becomes what `upd` says of the array just issued to;
nothing else changes but the counts of a fetch whose word is marked (R204). `upd` is given the program beat and `SCHED_BEAT`. -/
def GangIssue (mk : ArrayId → Instr) (op : Nat) (form : State → ArrayState → BitVec 128 → Prop)
    (upd : Nat → Nat → BitVec 128 → ArrayState → ArrayState) : Prop :=
  ∀ (g : ArrayId) (s : State) (w : BitVec 128), s.offers g op w → (∀ m ∈ s.members g, form s (s.array m) w) →
    Answers (mk g) s fun t =>
      (∀ m ∈ s.members g, t.array m = upd s.pbeat s.sched w ((s.array m).issued s.pbeat)) ∧
      (∀ m, m ∉ s.members g → t.array m = s.array m) ∧ ArraysMove s t

/-- The free issue port of leader `g` is at control word `w` with opcode `op`, the fourth of its run at most (R103). -/
def State.atControl (s : State) (g op : Nat) (w : BitVec 128) : Prop :=
  s.portFree g = true ∧ (s.array g).pc < 1024 ∧ s.passWord g (s.array g).pc = w ∧ opcodeOf w = op ∧ (s.array g).controlRun < 4

/-- The sequencers of a gang move to a word and a nest of loops. -/
def ControlMoves (mk : ArrayId → Instr) (g : ArrayId) (s : State) (pc : Nat) (loops : List LoopLevel) : Prop :=
  Answers (mk g) s fun t =>
    (∀ m ∈ s.members g, t.array m = { s.array m with pc := pc, loops := loops, controlRun := (s.array g).controlRun + 1 }) ∧
    (∀ m, m ∉ s.members g → t.array m = s.array m) ∧ ArraysMove s t

/-! ### Memory -/

/-- Consecutive bytes are stored, and every other byte of memory is as it was. -/
def Wrote (s t : State) (a : Nat) (bs : List Byte) : Prop :=
  (∀ i b, bs[i]? = some b → t.byte (a + i) = b) ∧ ∀ x, x < a ∨ a + bs.length ≤ x → t.byte x = s.byte x

/-- An access of hub firmware, answered if it is the one numbered `n` (R404). -/
def HubJob.answered (j : HubJob) (n : Nat) (q : ServantReq) (st : Nat) (data : List (Byte × Bool)) : HubJob :=
  if j.n = n then { j with job := j.job.answer q st data } else j

/-- The owner of a request has its answer, status and data, and no other channel or fabric unit changes: the access of a copy
channel that awaits it, the channel's fetch or status write, the request that a fabric unit serves, a record, an access of hub firmware,
or a chunk access of a collective engine (R16, R25, R242, R246, R338, R343). -/
def Answered (s t : State) (q : ServantReq) (st : Nat) (data : List (Byte × Bool)) : Prop :=
  match q.owner with
  | .access c n => t.fabs = s.fabs ∧ t.hub = s.hub ∧ t.engines = s.engines ∧ (∀ k, k ≠ c.val → t.channel k = s.channel k) ∧
      t.channel c = { s.channel c with
        cur := (s.channel c).cur.map fun d => { d with out := d.out.map fun x =>
          if x.n = n ∧ x.resp = none then { x with resp := some (st != 0, data.map (·.1), data.map (·.2)) } else x } }
  | .control c n => t.fabs = s.fabs ∧ t.hub = s.hub ∧ t.engines = s.engines ∧ (∀ k, k ≠ c.val → t.channel k = s.channel k) ∧
      t.channel c = { s.channel c with
        ctl := (s.channel c).ctl.map fun x =>
          if x.n = n ∧ x.resp = none then { x with resp := some (st != 0, data.map (·.1), data.map (·.2)) } else x }
  | .remote k n => t.channels = s.channels ∧ t.hub = s.hub ∧ t.engines = s.engines ∧ (∀ j, j ≠ k → t.fab j = s.fab j) ∧
      t.fab k = { s.fab k with serving := (s.fab k).serving.map fun x => if x.n = n then { x with job := x.job.answer q st data } else x }
  | .record k i n => t.channels = s.channels ∧ t.hub = s.hub ∧ t.engines = s.engines ∧ (∀ j, j ≠ k → t.fab j = s.fab j) ∧
      { t.fab k with issuers := [] } = { s.fab k with issuers := [] } ∧
      ∀ j, SMap.get {} (t.fab k).issuers j =
        if j = i then
          { SMap.get {} (s.fab k).issuers i with
            out := (SMap.get {} (s.fab k).issuers i).out.map fun o => if o.n = n then { o with job := o.job.map fun x => x.answer q st data } else o }
        else SMap.get {} (s.fab k).issuers j
  | .hub n => t.channels = s.channels ∧ t.fabs = s.fabs ∧ t.engines = s.engines ∧
      t.hub = { s.hub with job := s.hub.job.map fun j => j.answered n q st data
                           taking := s.hub.taking.map fun x => (x.1, x.2.answered n q st data)
                           snaps := s.hub.snaps.map fun x => { x with job := x.job.map fun j => j.answered n q st data } }
  | .chunk k n => t.channels = s.channels ∧ t.fabs = s.fabs ∧ t.hub = s.hub ∧ (∀ j, j ≠ k → t.engine j = s.engine j) ∧
      t.engine k = { s.engine k with
        accesses := (s.engine k).accesses.map fun a => if a.n = n then { a with job := a.job.answer q st data } else a }

/-- No owner of a servant request has an answer. -/
def NoAnswer (s t : State) : Prop := t.channels = s.channels ∧ t.fabs = s.fabs ∧ t.hub = s.hub ∧ t.engines = s.engines

/-- An atomic request has been performed at its memory: the operand is read, the result written unless it is poisoned or refused, and
the old value answered (R218, R344). -/
def AtomicServed (s t : State) (q : ServantReq) (a : Nat × Nat × Nat) (read : List (Byte × Bool)) : Prop :=
  Answered s t q (s.atomicResult a.1 q.len a.2.1 a.2.2 read).1 (clean (s.atomicResult a.1 q.len a.2.1 a.2.2 read).2.1) ∧
  (∀ v, (s.atomicResult a.1 q.len a.2.1 a.2.2 read).2.2 = some v → Wrote s t q.addr v) ∧
  ((s.atomicResult a.1 q.len a.2.1 a.2.2 read).2.2 = none → t.mem = s.mem)

/-- What is left of a request when its first `k` bytes have been served: it goes on at the front of its queue. -/
def RestOf (q q' : ServantReq) (k : Nat) : Prop :=
  q'.addr = q.addr + k ∧ q'.len = q.len - k ∧ q'.owner = q.owner ∧ q'.write = q.write ∧ q'.data = q.data.drop k ∧
    q'.poison = q.poison.drop k ∧ q'.whole = q.whole ∧ q'.part = q.part

/-- A channel has halted: it has no descriptor, fetch or queue left; under a claiming program and no `COPY` it stays halted with its
cause, in a fault hold, else it is idle (R249). -/
def ChannelHalted (s t : State) (c : ChanId) (owner : Option (SenderId × BitVec 16)) (cause : Nat) : Prop :=
  (t.channel c).cur = none ∧ (t.channel c).ctl = none ∧ (t.channel c).next = none ∧ (t.channel c).queue = [] ∧ (t.channel c).owner = none ∧
  (owner = none → s.claimedNow c = true →
    (t.channel c).state = 2 ∧ (t.channel c).halt = BitVec.ofNat 2 cause ∧ FaultRecorded s t 0x1D 4 (c.val / 32) (c.val % 32)) ∧
  (owner ≠ none ∨ s.claimedNow c = false → (t.channel c).state = 0 ∧ (t.channel c).halt = 0) ∧
  (∀ m, m ≠ c.val → t.channel m = s.channel m) ∧ t.mem = s.mem

/-! ### Servant flits on the chainline -/

/-- The only servant traffic of router `r` is flit `x`, which waits at an input and leaves it through output `q` alone in this beat:
the output towards its place while no program runs, else the one that a granted entry names (R25, R134, R139). -/
def State.oneFlit (s : State) (r : RouterId) (x : ServFlit) (q : PortName) : Prop :=
  s.beat.aligned = true ∧ (s.router r).slotAt ≠ some s.beat.routed ∧ (s.router r).servant = [x] ∧ x.ready ≤ s.beat.routed ∧
    x.port ≠ .l ∧ (s.router r).request = none ∧ (s.router r).fifoIn = [] ∧ (∀ k, SMap.get [] s.localReqs k = []) ∧
    s.servantRoom r x q = true ∧
    (s.prog.running = false ∧ q = x.wants r ∨
      s.runs = true ∧ bitOf (s.slotEntry r) 9 = true ∧ entryOuts r (s.slotEntry r) x.port = [q])

/-- The offset of the bytes that a servant flit covers in the line at `a`, and how many they are. -/
def ServFlit.place (x : ServFlit) (a : Nat) : Nat × Nat := (a + x.span.1, x.span.2)

/-! ### Hub -/

/-- Nothing but the hub's own state, the mailboxes and their response counters differs. -/
def HubOnly (s t : State) : Prop := { t with hub := s.hub, mbs := s.mbs, hubCount := s.hubCount } = s

/-- A request stands last in the queue of the memory that holds its address: of the vault or the stack; a request to tier 0 or a
scratchpad waits for the chainline, cut into lines. Nothing else changes (R16, R25, R211). -/
def Queued (s t : State) (q : ServantReq) : Prop :=
  (∀ g o, regionOf q.addr = some (.vault g, o) → t.vault g = { s.vault g with queue := (s.vault g).queue ++ [q] } ∧
    (∀ h, h ≠ g → t.vault h = s.vault h) ∧ { t with vaults := s.vaults } = s) ∧
  (∀ k o, regionOf q.addr = some (.hbm k, o) → t.stk k = { s.stk k with queue := (s.stk k).queue ++ [q] } ∧
    (∀ h, h ≠ k → t.stk h = s.stk h) ∧ { t with memStacks := s.memStacks } = s) ∧
  (∀ k o, regionOf q.addr = some (.cap k, o) → t.stk (16 + k) = { s.stk (16 + k) with queue := (s.stk (16 + k)).queue ++ [q] } ∧
    (∀ h, h ≠ 16 + k → t.stk h = s.stk h) ∧ { t with memStacks := s.memStacks } = s) ∧
  (∀ o, (∃ g, regionOf q.addr = some (.store g, o)) ∨ (∃ p, regionOf q.addr = some (.scratch p, o)) →
    (∀ k, SMap.get [] t.localReqs k = SMap.get [] s.localReqs k ++ (lineParts (q.len / 64 + 2) q).filter fun x => requestPort x == k) ∧
    { t with localReqs := s.localReqs } = s)

/-- Hub firmware begins the access of the command that it executes: a servant request like any other waits at the memory that holds the
buffer, and the command goes on once it has been answered (R16, R25, R211, R404). -/
def BeginsBuffer (s t : State) (off len : Nat) (write : Bool) (bs : List Byte) (keeps : HubJob → Prop) : Prop :=
  ∃ m : State, HubOnly s m ∧ (∃ j : HubJob, m.hub = { s.hub with job := some j, jobNo := s.hub.jobNo + 1 } ∧ j.n = s.hub.jobNo ∧
      j.job = { off := off, len := len } ∧ keeps j) ∧
    (∀ r o, regionOf off = some (r, o) → s.regionServes r = true →
      Queued m t { owner := .hub s.hub.jobNo, write := write, addr := off, data := bs, poison := bs.map fun _ => false, len := len
                   whole := len })

/-- A command that works through a buffer waits while its access is under way (R404). -/
def WaitsForBuffer (mk : Instr) (s : State) : Prop := (∃ w, s.hub.job = some w ∧ w.job.done = false) → exec mk s = .next s

/-- The buffer of the command has been read whole: these bytes, none of them poisoned (R218, R404). -/
def State.bufferRead (s : State) (bs : List Byte) : Prop :=
  ∃ w, s.hub.job = some w ∧ w.job.done = true ∧ w.job.status = 0 ∧ w.job.data = bs.map fun b => (b, false)

/-- It could not be read, or holds poison. -/
def State.bufferFailed (s : State) : Prop :=
  ∃ w, s.hub.job = some w ∧ w.job.done = true ∧ (w.job.status ≠ 0 ∨ w.job.data.any (·.2) = true)

/-- A response slot is posted to its sender: into the ring of a mailbox, behind those that wait while the ring is full, or as a
relay to the neighbour whose hub asked. No other mailbox changes (R401, R402). -/
def HubReplied (s t : State) (who : SenderId) (slot : BitVec 512) : Prop :=
  (who.val < 32 → (s.mb who).held < 64 → (s.mb who).waiting = [] →
    SMap.get 0 (t.mb who).rspSlots ((s.mb who).rspTail.toNat % 64) = slot ∧ (t.mb who).rspTail = (s.mb who).rspTail + 1 ∧
      (t.mb who).rspCount = (s.mb who).rspCount + 1 ∧ bitOf (t.mb who).event 0 = true) ∧
  (who.val < 32 → 64 ≤ (s.mb who).held ∨ (s.mb who).waiting ≠ [] → (t.mb who).waiting = (s.mb who).waiting ++ [slot]) ∧
  (32 ≤ who.val → t.hub.relayOut = s.hub.relayOut ++ [(Fin.ofNat 24 (who.val - 32), true, slot)]) ∧
  ∀ m, m ≠ who.val → t.mb m = s.mb m

/-- The foreground part of the command that hub firmware executes has ended with its answer: the first response of a short
command, the completion of a long one that is open (R402, R403). -/
def HubFinished (s t : State) (c : Accepted) (status foff res : Nat) : Prop :=
  t.hub.current = none ∧
  (isLong c.slot = false → HubReplied s t c.mb (respSlot (slotOp c.slot) status (slotTag c.slot) foff 0 res)) ∧
  (isLong c.slot = true → ∀ o, s.openCmd c.mb (slotTag c.slot) (slotOp c.slot) = some o →
    t.hub.openCmds = s.hub.openCmds.erase o ∧ HubReplied s t c.mb (respSlot (slotOp c.slot) status (slotTag c.slot) foff 1 res))

/-- Hub firmware has judged a command of its own package whose fields are in order, with what it read of the command's buffer (none: it
could not be read): it is rejected, or it is accepted, a long one with `ACCEPTED` (R402-R405). -/
def Judged (s t : State) (who : SenderId) (rung : Nat) (c : BitVec 512) (got : Option (List Byte)) : Prop :=
  HubOnly s t ∧
  (∀ f, s.stateFailure who c got = some f → HubReplied s t who (respSlot (slotOp c) f.1 (slotTag c) f.2 0 0) ∧
    t.hub.accepted = s.hub.accepted ∧ t.hub.openCmds = s.hub.openCmds) ∧
  (s.stateFailure who c got = none →
    (∃ a : Accepted, t.hub.accepted = s.hub.accepted ++ [a] ∧ a.mb = who ∧ a.slot = c ∧ a.rung = rung ∧ a.data = got) ∧
    (isLong c = true → HubReplied s t who (respSlot (slotOp c) 0x01 (slotTag c) 0 0 0) ∧
      ∃ o : OpenCmd, t.hub.openCmds = s.hub.openCmds ++ [o] ∧ o.mb = who ∧ o.tag.toNat = slotTag c ∧ o.opcode.toNat = slotOp c ∧
        o.deadline = s.nowNs + s.timeoutOf c) ∧
    (isLong c = false → t.hub.openCmds = s.hub.openCmds))

/-- Hub firmware has begun to read what a command is judged by, `need` of its buffer; the command is the one being taken (R403, R405). -/
def BeginsTaking (s t : State) (b : Bell) (need : Nat × Nat) : Prop :=
  ∃ u : State, HubOnly s u ∧ (∃ j : HubJob, u.hub = { s.hub with taking := some (b, j), jobNo := s.hub.jobNo + 1 } ∧ j.n = s.hub.jobNo ∧
      j.job = { off := need.1, len := need.2 }) ∧
    ∀ r o, regionOf need.1 = some (r, o) → s.regionServes r = true →
      Queued u t { owner := .hub s.hub.jobNo, write := false, addr := need.1, data := [], poison := [], len := need.2, whole := need.2 }

/-- One mailbox has become `x`, and nothing else differs. -/
def MailboxBecomes (s t : State) (m : MbId) (x : MailboxState) : Prop :=
  t.mb m = x ∧ (∀ j, j ≠ m.val → t.mb j = s.mb j) ∧ { t with mbs := s.mbs } = s

/-- A private cassette that passes is taken as a shift of its own; one that does not is `FAILED` (R405, R416). `s0` is the state once its
buffer has been read. -/
def PrivateShift (mk : Instr) (c : Accepted) (s0 s : State) (entries : List CassEntry) (at_ : Nat) : Prop :=
  (s0.privateBlocked c.slot = true → Answers mk s fun t => HubFinished s0 t c 0x20 0 0 ∧ HubOnly s0 t ∧ t.hub.shifts = s0.hub.shifts) ∧
  (s0.privateBlocked c.slot = false →
    (∀ r, checkRules s0 (s0.overlay s0.hub.cassette) entries = some r →
      Answers mk s fun t => HubFinished s0 t c 0x20 0 r.res ∧ HubOnly s0 t ∧ t.hub.shifts = s0.hub.shifts) ∧
    (checkRules s0 (s0.overlay s0.hub.cassette) entries = none →
      Answers mk s fun t => (∃ j : ShiftJob, t.hub.shifts = s0.hub.shifts ++ [j] ∧ j.entries = entries ∧ j.at_ = BitVec.ofNat 64 at_ ∧
        j.mb = c.mb ∧ j.tag.toNat = slotTag c.slot ∧ j.package = false) ∧
      (at_ ≠ 0 → t.hub.current = none) ∧ (at_ = 0 → t.hub.current = some c) ∧
      t.settings = s0.settings ∧ t.mem = s0.mem ∧ t.mbs = s0.mbs ∧ t.hub.cassette = s0.hub.cassette))

/-! ### Fabric -/

/-- Nothing but the fabric units differs. -/
def OnlyFabs (s t : State) : Prop := { t with fabs := s.fabs } = s

/-- The input belongs to a router: a FIFO of its own fibres, a transit lane, or its own queue. -/
def ownInput (k : LpId) : FabricInput → Prop
  | .fifo f _ => f.val / 8 = k.val
  | .transit _ => True
  | .injected => True

/-- Wavelength 0 of a cube port has sent a control block of this type, with the credits that it owed (R315, R318). -/
def SentControl (s t : State) (q : Nat) (ty : Nat) (content : BitVec 208) : Prop :=
  let x := s.fifo (cubeFibre q) 0
  t.fifo (cubeFibre q) 0 = { x with owed0 := x.owed0 - min 1024 x.owed0, owed1 := x.owed1 - min 1024 x.owed1 } ∧
    SMap.get 0 (t.fab (cubeFibre q / 8)).sentCtl (16 * (cubeFibre q % 8)) =
      controlBlockOf ty (min 1024 x.owed0) (min 1024 x.owed1) content.toNat

/-- Move `m` of packet `p`, at the head of input `i`, is the next that the router makes at the inputs `keys`: the first move left of the
first input whose output would serve it next (R333). -/
def NextMove (s : State) (k : LpId) (keys : List Nat) (i : Nat) (p : Packet) (m : Move) : Prop :=
  i ∈ keys ∧ s.headOf k i = some p ∧
    (s.movesLeft k i p).find? (fun x => s.eligible k i x && s.nextInput k x.out == some i) = some m ∧
    ∀ j ∈ keys, j < i → ∀ q, s.headOf k j = some q → ∀ x ∈ s.movesLeft k j q, s.eligible k j x = true → s.nextInput k x.out ≠ some j

/-- A transmitter after it has taken blocks: it keeps them for the bursts of a steered wavelength, and else sends a multiframe of 500 once
they are that many (R285, R295). -/
def WaveState.sends (x : WaveState) (steered : Bool) (bs : List (BitVec 257)) : WaveState :=
  let all := x.txBlocks ++ bs
  if steered = true ∨ all.length < 500 then { x with txBlocks := all }
  else { x with txBlocks := all.drop 500, frames := multiframe (all.take 500) }

/-- The control block that a lane sends: its type, and the credits that the lane owes, 1,024 of a class at most (R315, R318). -/
def FifoState.creditBlock (x : FifoState) (ty : Nat) : BitVec 257 := controlBlockOf ty (min 1024 x.owed0) (min 1024 x.owed1) 0

/-- The router of die `k` has sent `CUT` on an output in place of the rest of a packet: on a lane, or towards another die (R335). -/
def CutSent (s t : State) (k out : Nat) : Prop :=
  (out < 128 → ∃ c0 c1, SMap.get 0 (t.fab k).sentCtl out = controlBlockOf 0xF1 c0 c1 0) ∧
  (128 ≤ out → out < 132 → SMap.get [] (t.fab k).transitOut (out - 128) =
    SMap.get [] (s.fab k).transitOut (out - 128) ++ transitFlits [controlBlockOf 0xF1 0 0 0])

/-- The packet that was arriving on a wavelength is lost: its blocks that the FIFO still held are owed as credits, and one that its consumer
had started is cut, with `CUT` on the output that it held (R335; the credits of a cut packet, log entry 27). -/
def PartialLost (s t : State) (f w : Nat) : Prop :=
  let begun : Prop := s.startedArriving f w = true
  let x := s.fifo f w
  let y := t.fifo f w
  (t.wave f w).partial_ = none ∧ y.packets = x.packets ∧
  (¬begun → y.owed0 + y.owed1 = x.owed0 + x.owed1 + s.arriving f w ∧ y.started = x.started ∧
    (t.fab (f / 8)).cutCnt = (s.fab (f / 8)).cutCnt) ∧
  (begun → y.started = false ∧ (t.fab (f / 8)).cutCnt = (s.fab (f / 8)).cutCnt + 1 ∧ CutSent s t (f / 8) x.out) ∧
  (begun → x.out ≠ 16 * (f % 8) + w → y.owed0 + y.owed1 = x.owed0 + x.owed1 + (s.arriving f w - x.gone)) ∧
  { t with ports := s.ports, fabs := s.fabs } = s

/-- A lane has sent blocks of a packet: a credit of its class for each is spent, and the credits that the lane owes went before them in a
control block (R315, R318). -/
def LaneSent (u t : State) (f w : Nat) (q : Packet) (bs : List (BitVec 257)) : Prop :=
  let x := u.fifo f w
  let y := t.fifo f w
  let owes : Prop := 0 < x.owed0 + x.owed1
  (q.fcClass = 0 → y.credit0 = x.credit0 - bs.length ∧ y.credit1 = x.credit1) ∧
  (q.fcClass ≠ 0 → y.credit1 = x.credit1 - bs.length ∧ y.credit0 = x.credit0) ∧
  y.owed0 = x.owed0 - min 1024 x.owed0 ∧ y.owed1 = x.owed1 - min 1024 x.owed1 ∧
  (t.congestionOf f (u.congestionNet f w)).bytesOut = (u.congestionOf f (u.congestionNet f w)).bytesOut + BitVec.ofNat 64 (32 * bs.length) ∧
  (owes → SMap.get 0 (t.fab (f / 8)).sentCtl (16 * (f % 8) + w) = x.creditBlock 0xF0 ∧
    t.wave f w = ((u.wave f w).sends (u.steered f w) [x.creditBlock 0xF0]).sends (u.steered f w) bs) ∧
  (¬owes → t.wave f w = (u.wave f w).sends (u.steered f w) bs)

/-- The reply of a request, with a status and bytes (R316, Table 11.2). -/
def ReplyTo (p q : Packet) (status : Byte) (bs : List Byte) : Prop :=
  q.ty = p.ty + 0x80 ∧ q.code = status ∧ q.payload = bs ∧ q.len = BitVec.ofNat 16 bs.length ∧ q.dst = p.src ∧ q.reqId = p.reqId ∧
    q.offset = p.offset ∧ q.svcClass = p.svcClass

/-- Only the fabric unit of die `j` and ports of its own fibres differ. -/
def OnlyLaneOf (u t : State) (j : Nat) : Prop :=
  (∀ x, x ≠ j → t.fab x = u.fab x) ∧ (∀ f, f / 8 ≠ j → t.port f = u.port f) ∧ { t with fabs := u.fabs, ports := u.ports } = u

/-- Nothing but fabric unit `k` differs, and it has become `x`. -/
def FabBecomes (u t : State) (k : Nat) (x : FabState) : Prop := t.fab k = x ∧ (∀ j, j ≠ k → t.fab j = u.fab j) ∧ OnlyFabs u t

/-- A packet has been delivered at a die: it waits for its unit; a request that breaks Table 11.1 is answered `BAD_PKT`; an unknown type is
counted; and a relay from a neighbour goes to the hub (R316, R317, R401). -/
def Delivered (u t : State) (k : LpId) (i : Nat) (p : Packet) : Prop :=
  let good : Prop := p.known = true ∧ (p.network = 0 → p.wellFormed = true)
  let from_ : Option (FibreId × WaveId) := if i < 128 then some (Fin.ofNat 32 (8 * k.val + i / 16), Fin.ofNat 16 (i % 16)) else none
  (p.known = false → FabBecomes u t k { u.fab k with pktBad := (u.fab k).pktBad + 1 }) ∧
  (p.known = true → p.network = 0 → p.wellFormed = false →
    ∃ r : Packet, ReplyTo p r 0x13 [] ∧ FabBecomes u t k { u.fab k with outq := (u.fab k).outq ++ [r] }) ∧
  (good → p.relay = false → FabBecomes u t k { u.fab k with local_ := (u.fab k).local_ ++ [(from_, p)] }) ∧
  (good → p.relay = true → i < 128 → i % 16 = 0 → ∀ q : CubePort, fibreCube (8 * k.val + i / 16) = some q.val →
    exec (.relayReceive q (bitOf p.reqId 22) (BitVec.ofNat 512 (leNat (p.payload.take 64)))) u = .next t)

/-- The packet leaves its input with its last move; a FIFO owes the credits of its blocks. A move before the last is noted, so that each
is made once (R315, R327, R333). -/
def LeavesInput (s u : State) (k : LpId) (i : Nat) (p : Packet) (m : Move) (last : Prop) : Prop :=
  let a := s.fab k
  let b := u.fab k
  SMap.get 0 b.served m.out = i + 1 ∧ (∀ o, o ≠ m.out → SMap.get 0 b.served o = SMap.get 0 a.served o) ∧
  (last → SMap.get [] b.copied i = []) ∧ (¬last → SMap.get [] b.copied i = SMap.get [] a.copied i ++ [m.key]) ∧
  (∀ j, j ≠ i → SMap.get [] b.copied j = SMap.get [] a.copied j) ∧
  (¬last → b.fifos = a.fifos ∧ b.transitIn = a.transitIn ∧ b.outq = a.outq) ∧
  (last → i < 128 → SMap.get {} b.fifos i =
      ({ SMap.get {} a.fifos i with packets := (SMap.get {} a.fifos i).packets.drop 1, lastRead := p.blocks.getLastD 0 } : FifoState).owe p.fcClass p.blockCount ∧
    (∀ j, j ≠ i → SMap.get {} b.fifos j = SMap.get {} a.fifos j) ∧ b.transitIn = a.transitIn ∧ b.outq = a.outq) ∧
  (last → 128 ≤ i → i < 132 → SMap.get [] b.transitIn (i - 128) = (SMap.get [] a.transitIn (i - 128)).drop 1 ∧
    (∀ j, j ≠ i - 128 → SMap.get [] b.transitIn j = SMap.get [] a.transitIn j) ∧ b.fifos = a.fifos ∧ b.outq = a.outq) ∧
  (last → 132 ≤ i → b.outq = a.outq.erase p ∧ b.fifos = a.fifos ∧ b.transitIn = a.transitIn) ∧
  { b with served := [], copied := [], fifos := [], transitIn := [], outq := [] } =
    { a with served := [], copied := [], fifos := [], transitIn := [], outq := [] } ∧
  (∀ j, j ≠ k.val → u.fab j = s.fab j) ∧ OnlyFabs s u

/-- What a move of a whole packet does to the state in which its output has served it (R315, R320, R323, R327, R335). -/
def MoveMade (u t : State) (k : LpId) (i : Nat) : Move → Prop
  | .lane f w q => SMap.get {} (t.fab (f / 8)).sent (16 * (f % 8) + w) = q ∧ LaneSent u t f w q q.blocks ∧ OnlyLaneOf u t (f / 8)
  | .cross k2 _ q => SMap.get [] (t.fab k).transitOut k2 = transitFlits q.blocks ∧
      (∀ j, j ≠ k2 → SMap.get [] (t.fab k).transitOut j = SMap.get [] (u.fab k).transitOut j) ∧
      FabBecomes u t k { u.fab k with transitOut := (t.fab k).transitOut }
  | .here q => Delivered u t k i q
  | .lost _ => FabBecomes u t k { u.fab k with mcDrop := (u.fab k).mcDrop + 1 }
  | .nowhere _ none => FabBecomes u t k { u.fab k with unreach := (u.fab k).unreach + 1 }
  | .nowhere _ (some r) => FabBecomes u t k { u.fab k with unreach := (u.fab k).unreach + 1, outq := (u.fab k).outq ++ [r] }
  | .wait => t = u

/-- Blocks of a packet that a consumer has started leave through the output that it holds: a lane, the transit lane to another die in
pairs, or delivery, which follows when the packet is whole (R333-R335). -/
def FollowsOut (u t : State) (k : LpId) (out : Nat) (q : Packet) (bs : List (BitVec 257)) : Prop :=
  (out < 128 → bs ≠ [] → LaneSent u t (8 * k.val + out / 16) (out % 16) q bs ∧ OnlyLaneOf u t k) ∧
  (128 ≤ out → out < 132 → SMap.get [] (t.fab k).transitOut (out - 128) = SMap.get [] (u.fab k).transitOut (out - 128) ++ transitFlits bs ∧
    OnlyLaneOf u t k)

/-- The record at the head of an issuer's queue is taken, and stands among its outstanding records (R338). -/
def RecordOpened (k : LpId) (i : Fin 2) (s t : State) (f : Flit) (rest : List Flit) (reqId : Option Word32)
    (reply : Option (Byte × List Byte × Word32)) (job : Option ServJob := none) : Prop :=
  t.issuer k i = { queue := rest, next := (s.issuer k i).next + 1
                   out := (s.issuer k i).out ++ [{ n := (s.issuer k i).next, record := f.data, reqId := reqId, reply := reply, job := job }] }

/-- What starting a record of an operation does (R20, R338-R340): one that leaves the package waits while the fabric is stopped. -/
def StartsRecords (mk : LpId → Fin 2 → Instr) (op : Nat) : Prop :=
  ∀ (k : LpId) (i : Fin 2) (s : State) (f : Flit) (rest : List Flit), s.inDomainReset (.fab k) = false →
    (s.issuer k i).queue = f :: rest → (opCode f.data = op ∨ opCode f.data = 0 ∨ 4 < opCode f.data) →
    (s.issuer k i).out.length < 64 → (∀ o ∈ (s.issuer k i).out, opCode o.record ≠ 4) →
    let r := f.data
    let off := gaOffset (opAddr r)
    let ends (st : Byte) : Prop := Answers (mk k i) s fun t => RecordOpened k i s t f rest none (some (st, [], 0)) ∧ OnlyFabs s t
    let local_ : Prop := s.recordOk (issuerDie k i) r = true ∧ op ≠ 4 ∧ s.ownAddress (opAddr r) = true
    let leaves : Prop := s.recordOk (issuerDie k i) r = true ∧ op ≠ 4 ∧ s.ownAddress (opAddr r) = false
    let fits : Prop := gaSpace (opAddr r) = 0 ∧ s.refusesAccess off (opLen r) = false ∧
      (op = 3 → atomicTier off = true ∧ off % opLen r = 0)
    (s.recordOk (issuerDie k i) r = false → ends 0x23) ∧
    (s.recordOk (issuerDie k i) r = true → op = 4 → ends 0) ∧
    (local_ → fits → Answers (mk k i) s fun t => ∃ m : State, OnlyFabs s m ∧ (∀ j, j ≠ k.val → m.fab j = s.fab j) ∧
      RecordOpened k i s m f rest none none (some { off := off, len := opLen r }) ∧
      Queued m t { owner := .record k i (s.issuer k i).next, write := op != 1, addr := off, len := opLen r, whole := opLen r
                   data := if op = 2 then leBytes (opLen r) (slotN r 24 32) else []
                   poison := if op = 2 then (List.range (opLen r)).map fun j => bitOf f.poison (3 + j / 8) else []
                   atomic := if op = 3 then some (opAop r, slotN r 24 8, slotN r 32 8) else none }) ∧
    (local_ → ¬fits → ends 0x10) ∧
    (leaves → s.hub.stopped = true → exec (mk k i) s = .next s) ∧
    (leaves → s.hub.stopped = false →
      let win := s.sendWindow (gaPackage (opAddr r)) off (opLen r) (gaSpace (opAddr r)) (opAccess r)
      let barred : Prop := op = 3 ∧ opAop r = 7 ∧ s.ordered = true
      (win = none ∨ s.packageNo = none → ends 0x20) ∧
      (win ≠ none → s.packageNo ≠ none → barred → ends 0x12) ∧
      (win ≠ none → s.packageNo ≠ none → ¬barred → routePresent (s.routeEntry (gaPackage (opAddr r))) = false → ends 0x21) ∧
      (∀ dst, win = some dst → s.packageNo ≠ none → ¬barred → routePresent (s.routeEntry (gaPackage (opAddr r))) = true →
        Answers (mk k i) s fun t => ∃ q : Packet, RecordOpened k i s t f rest (some q.reqId) none ∧
          SMap.get [] (t.fab k).inject 1 = SMap.get [] (s.fab k).inject 1 ++ [q] ∧
          q.ty = BitVec.ofNat 8 op ∧ q.dst = BitVec.ofNat 16 dst ∧ q.offset = BitVec.ofNat 48 off ∧
          q.len = BitVec.ofNat 16 (opLen r) ∧ q.code = BitVec.ofNat 8 (opAop r) ∧ q.svcClass = 1 ∧
          (SMap.get 0 (s.fab k).seq (64 * issuerDie k i + 32) < 2 ^ 23 → q.reqUnit = 32 ∧ q.reqDie = issuerDie k i) ∧ OnlyFabs s t))

/-- The oldest request of a kind that has been delivered at a die and that no request of its source holds up, where no performed one
waits to be answered (R345). -/
def State.serves (s : State) (k : LpId) (kind : Packet → Bool) (from_ : Option (FibreId × WaveId)) (p : Packet) : Prop :=
  s.inDomainReset (.fab k) = false ∧ (∀ y ∈ (s.fab k).serving, kind y.packet = true → y.job.done = false) ∧
    (s.fab k).local_.find? (fun x => x.2.network == 0 && !x.2.collective && kind x.2 && s.inOrder k x.2) = some (from_, p)

/-- The request is gone, and its reply is on its way to the source. -/
def RemoteAnswered (s t : State) (k : LpId) (from_ : Option (FibreId × WaveId)) (p : Packet) (status : Byte) (bs : List Byte) : Prop :=
  ∃ q : Packet, t.fab k = { s.fab k with local_ := (s.fab k).local_.erase (from_, p), outq := (s.fab k).outq ++ [q] } ∧
    ReplyTo p q status bs ∧ ∀ j, j ≠ k.val → t.fab j = s.fab j

/-- The request is being served: its access waits at the servant side of the memory (R16, R25, R343). -/
def RemoteIssued (s t : State) (k : LpId) (from_ : Option (FibreId × WaveId)) (p : Packet) (n : Nat) (atomic : Option (Nat × Nat × Nat)) :
    Prop :=
  ∃ m : State, OnlyFabs s m ∧ (∀ j, j ≠ k.val → m.fab j = s.fab j) ∧
    m.fab k = { s.fab k with
      local_ := (s.fab k).local_.erase (from_, p), servNo := (s.fab k).servNo + 1
      serving := (s.fab k).serving ++ [{ n := (s.fab k).servNo, packet := p, job := { off := p.offset.toNat, len := n } }] } ∧
    Queued m t { owner := .remote k (s.fab k).servNo, write := p.ty != 0x01, addr := p.offset.toNat, len := n, whole := n
                 data := if p.ty = 0x02 then p.payload else []
                 poison := if p.ty = 0x02 then p.poisonFlags p.payload.length else [], atomic := atomic }

/-- A performed request of a kind is served no longer, and its reply has what the access read where it succeeded, with the poison of its
words (R218, R316, R343). -/
def AnswersPerformed (mk : LpId → Instr) (kind : Packet → Bool) : Prop :=
  ∀ (k : LpId) (s : State) (x : Serving), s.inDomainReset (.fab k) = false →
    (s.fab k).serving.find? (fun x => kind x.packet && x.job.done) = some x →
    let st := if x.job.status ≠ 0 then x.job.status else if x.packet.ty = 0x01 ∧ x.job.data.any (·.2) = true then 0x01 else 0x00
    Answers (mk k) s fun t => ∃ q : Packet,
      t.fab k = { s.fab k with serving := (s.fab k).serving.erase x, outq := (s.fab k).outq ++ [q] } ∧
      ReplyTo x.packet q (BitVec.ofNat 8 st) (if st < 0x10 then x.job.data.map (·.1) else []) ∧
      (st < 0x10 → q.poison = poisonMask x.packet.offset.toNat (x.job.data.map (·.2))) ∧
      (∀ j, j ≠ k.val → t.fab j = s.fab j) ∧ OnlyFabs s t

/-- What an atomic operation does at its target: it waits at the servant side of its memory with its operands, or is refused; once
performed it is answered; and `val` gives the new value from the width in bits, the old value and the operands (R343, R344, Table
11.6). -/
def PerformsAtomic (mk : LpId → Instr) (aop : Nat) (val : Nat → Nat → Nat → Nat → Nat) : Prop :=
  (∀ n old op0 op1, n = 4 ∨ n = 8 ∧ aop ≠ 7 → old < 2 ^ (8 * n) → op0 < 2 ^ (8 * n) → op1 < 2 ^ (8 * n) →
    atomicValue aop n old op0 op1 % 2 ^ (8 * n) = val (8 * n) old op0 op1) ∧
  AnswersPerformed mk (fun p => p.ty == 0x03 && p.code.toNat == aop) ∧
  ∀ (k : LpId) (s : State) (f : Option (FibreId × WaveId)) (p : Packet),
    s.serves k (fun p => p.ty == 0x03 && p.code.toNat == aop) f p →
    let n := fld p.len 8 0
    let off := p.offset.toNat
    let fits : Prop := fld p.space 3 0 = 0 ∧ off % max 1 n = 0 ∧ s.refusesAccess off n = false ∧
      ∃ r o, regionOf off = some (r, o) ∧ (∀ g, r ≠ .store g) ∧ ∀ q, r ≠ .scratch q
    (fits → Answers (mk k) s fun t =>
      RemoteIssued s t k f p n (some (aop, leNat (p.payload.take 8), leNat ((p.payload.drop 8).take 8)))) ∧
    (¬fits → Answers (mk k) s fun t => RemoteAnswered s t k f p 0x10 [] ∧ OnlyFabs s t)

/-! ### Spokes -/

/-- A spoke that may issue is at instruction `w`, of this opcode and function, whose sources are ready and whose unused bits are
zero (R180, R181, R188). -/
def State.spokeAt (s : State) (p : SpokeId) (op fn unused : Nat) (srcs : List Nat) (w : Word32) : Prop :=
  s.spokeFree p = true ∧ (s.spoke p).pc.toNat % 4 = 0 ∧ codeFirst (s.spoke p).layout ≤ (s.spoke p).pc.toNat ∧
    (s.spoke p).pc.toNat < codeEnd (s.spoke p).layout ∧ s.spokeWord p = w ∧ spokeOp w = some (op, fn) ∧
    (∀ r ∈ srcs, (s.spoke p).readyBy s.pbeat r = true) ∧ w.toNat &&& unused = 0

/-- The state with the counts of checked words put back to those of `s`: they are all that the fetch of an instruction may change
(R204). -/
def State.countsOf (t s : State) : State := { t with dieMem := s.dieMem, memStacks := s.memStacks }

/-- Where no word of memory is marked, a fetch counts nothing. -/
def FetchQuiet (s t : State) : Prop := s.unmarked → t.dieMem = s.dieMem ∧ t.memStacks = s.memStacks

/-- Of the spokes only `p` differs. -/
def OnlySpoke (s t : State) (p : SpokeId) : Prop := (∀ q, q ≠ p.val → t.spoke q = s.spoke q) ∧ FetchQuiet s t

/-- Nothing but spokes differs, no spoke but `p`, and it is at `pc` and issues next in beat `next`. -/
def SpokeMoved (s t : State) (p : SpokeId) (pc : Word32) (next : Nat) : Prop :=
  (t.spoke p).pc = pc ∧ (t.spoke p).nextIssue = next ∧ OnlySpoke s t p ∧ { t.countsOf s with spokes := s.spokes } = s

/-- An instruction has issued: `PC` is past it and the next may issue in the next beat. -/
def SpokeStepped (s t : State) (p : SpokeId) : Prop := SpokeMoved s t p ((s.spoke p).pc + 4) (s.pbeat + 1)

/-- An x register has a new value, ready from a beat on; x0 keeps 0. A load in flight to it no longer writes it. Nothing else of
the spoke changes (Table 6.1, R181). -/
def SpokeX (s t : State) (p : SpokeId) (rd : Nat) (v : Word32) (at_ : Nat) : Prop :=
  (∀ n, (t.spoke p).xr n = if n = rd ∧ rd ≠ 0 then v else (s.spoke p).xr n) ∧
  (∀ r, SMap.get 0 (t.spoke p).ready r = if r = rd ∧ rd ≠ 0 then at_ else SMap.get 0 (s.spoke p).ready r) ∧
  (t.spoke p).loads = (s.spoke p).loads.map (fun l => if l.vec = false ∧ l.reg = rd ∧ rd ≠ 0 then { l with lanes := 0 } else l) ∧
  { t.spoke p with x := [], ready := [], loads := [], pc := 0, nextIssue := 0 } =
    { s.spoke p with x := [], ready := [], loads := [], pc := 0, nextIssue := 0 }

/-- A v register has new lanes, ready from a beat on, and flags are raised; `ls` are the lanes that the instruction writes, which
a load in flight no longer writes. Nothing else of the spoke changes (R181, R182). -/
def SpokeV (s t : State) (p : SpokeId) (vd : Nat) (new : Nat → Word32) (ls : BitVec 16) (at_ : Nat) (fl : BitVec 5) : Prop :=
  (∀ i < 16, lane ((t.spoke p).vr vd) i = new i) ∧ (∀ n, n ≠ vd → (t.spoke p).vr n = (s.spoke p).vr n) ∧
  (∀ n, ∀ i < 16, (t.spoke p).laneReady n i = if n = vd ∧ bitOf ls i then at_ else (s.spoke p).laneReady n i) ∧
  (t.spoke p).loads = (s.spoke p).loads.map (fun l => if l.vec = true ∧ l.reg = vd then { l with lanes := l.lanes &&& ~~~ls } else l) ∧
  (t.spoke p).fflags = (s.spoke p).fflags ||| fl ∧
  { t.spoke p with v := [], vready := [], loads := [], pc := 0, nextIssue := 0, fflags := 0 } =
    { s.spoke p with v := [], vready := [], loads := [], pc := 0, nextIssue := 0, fflags := 0 }

/-- The lanes of a register pair that a predicate selects have new values (R182, R184). -/
def SpokePair (s t : State) (p : SpokeId) (vd : Nat) (pred : BitVec 16) (lo hi : Nat → Word32) (at_ : Nat) : Prop :=
  (∀ i < 16, lane ((t.spoke p).vr vd) i = if bitOf pred i then lo i else lane ((s.spoke p).vr vd) i) ∧
  (∀ i < 16, lane ((t.spoke p).vr (vd + 1)) i = if bitOf pred i then hi i else lane ((s.spoke p).vr (vd + 1)) i) ∧
  (∀ n, n ≠ vd → n ≠ vd + 1 → (t.spoke p).vr n = (s.spoke p).vr n) ∧
  (∀ n, ∀ i < 16, (t.spoke p).laneReady n i =
    if (n = vd ∨ n = vd + 1) ∧ bitOf pred i then at_ else (s.spoke p).laneReady n i) ∧
  { t.spoke p with v := [], vready := [], loads := [], pc := 0, nextIssue := 0, fflags := 0 } =
    { s.spoke p with v := [], vready := [], loads := [], pc := 0, nextIssue := 0, fflags := 0 }

/-- A p register has a new value, ready from a beat on; p0 keeps all ones (Table 6.1, R181). -/
def SpokeP (s t : State) (p : SpokeId) (pd : Nat) (v : BitVec 16) (at_ : Nat) (fl : BitVec 5) : Prop :=
  (∀ n, (t.spoke p).pr n = if n = pd ∧ pd ≠ 0 then v else (s.spoke p).pr n) ∧
  (∀ r, SMap.get 0 (t.spoke p).ready r = if r = 48 + pd ∧ pd ≠ 0 then at_ else SMap.get 0 (s.spoke p).ready r) ∧
  (t.spoke p).fflags = (s.spoke p).fflags ||| fl ∧
  { t.spoke p with p := [], ready := [], pc := 0, nextIssue := 0, fflags := 0 } =
    { s.spoke p with p := [], ready := [], pc := 0, nextIssue := 0, fflags := 0 }

/-- A spoke fault: the spoke is faulted with its `PC` at the instruction, the record and the fault hold stand, and nothing else
changes (R46, R201, R202). -/
def SpokeFaulted (s t : State) (p : SpokeId) (code : Nat) : Prop :=
  FaultRecorded s t code 1 (p.val / 256) (p.val % 256) ∧ (t.spoke p).mode = 3 ∧
  { t.spoke p with mode := 0, runBeats := 0 } = { s.spoke p with mode := 0, runBeats := 0 } ∧
  (∀ q, q ≠ p.val → t.spoke q = s.spoke q) ∧ { OnlyReportsOf s t with spokes := s.spokes } = s

/-- Format S: rd from rs1 and rs2 (Table 6.3). -/
def ScalarRR (mk : SpokeId → Instr) (fn lat : Nat) (f : Word32 → Word32 → Word32) : Prop :=
  ∀ (p : SpokeId) (s : State) (w : Word32), s.spokeAt p 0x01 fn 0 [fld w 20 16, fld w 15 11] w →
    Answers (mk p) s fun t => SpokeStepped s t p ∧
      SpokeX s t p (fld w 25 21) (f ((s.spoke p).xr (fld w 20 16)) ((s.spoke p).xr (fld w 15 11))) (s.pbeat + lat)

/-- Format I: rd from rs1 and the sign-extended imm16 (Table 6.3). -/
def ScalarRI (mk : SpokeId → Instr) (op unused : Nat) (f : Word32 → Word32 → Word32) : Prop :=
  ∀ (p : SpokeId) (s : State) (w : Word32), s.spokeAt p op 0 unused [fld w 20 16] w → (op = 0x08 → fld w 6 5 ≠ 3) →
    Answers (mk p) s fun t => SpokeStepped s t p ∧
      SpokeX s t p (fld w 25 21) (f ((s.spoke p).xr (fld w 20 16)) (BitVec.ofInt 32 (sext 16 (fld w 15 0)))) (s.pbeat + 1)

/-- A scalar load of `n` bytes: it reads one beat later from the scratchpad and two beats later from a local store, and its
register is ready two beats after that (R176, R177, R181). -/
def ScalarLoad (mk : SpokeId → Instr) (op n : Nat) (signed : Bool) : Prop :=
  ∀ (p : SpokeId) (s : State) (w : Word32), s.spokeAt p op 0 0 [fld w 20 16] w →
    let a := addrI (s.spoke p) w
    let rd := fld w 25 21
    (spokeAddrBad (s.spoke p).layout p a n n false = true → Answers (mk p) s fun t => SpokeFaulted s t p 0x18) ∧
    (∀ off far, spokeAddr p a n = some (off, far) → a % n = 0 → Answers (mk p) s fun t => SpokeStepped s t p ∧
      (∀ r, SMap.get 0 (t.spoke p).ready r =
        if r = rd ∧ rd ≠ 0 then s.pbeat + (if far then 5 else 3) else SMap.get 0 (s.spoke p).ready r) ∧
      (t.spoke p).loads =
        (s.spoke p).loads.map (fun l => if l.vec = false ∧ l.reg = rd ∧ rd ≠ 0 then { l with lanes := 0 } else l) ++
        [{ readAt := s.pbeat + (if far then 2 else 1), addr := off, size := n, signed := signed, vec := false, reg := rd, sel := 1
           lanes := if rd = 0 then 0 else 1 }] ∧
      { t.spoke p with ready := [], loads := [], pc := 0, nextIssue := 0 } =
        { s.spoke p with ready := [], loads := [], pc := 0, nextIssue := 0 })

/-- A scalar store of `n` bytes: they are written at the end of the next beat in the scratchpad and of the one after in a local
store (R176, R177). -/
def ScalarStore (mk : SpokeId → Instr) (op n : Nat) : Prop :=
  ∀ (p : SpokeId) (s : State) (w : Word32), s.spokeAt p op 0 0 [fld w 20 16, fld w 25 21] w →
    let a := addrI (s.spoke p) w
    (spokeAddrBad (s.spoke p).layout p a n n true = true → Answers (mk p) s fun t => SpokeFaulted s t p 0x18) ∧
    (∀ off far, spokeAddrBad (s.spoke p).layout p a n n true = false → spokeAddr p a n = some (off, far) →
      Answers (mk p) s fun t => SpokeStepped s t p ∧
      (∃ bs, (t.spoke p).stores = (s.spoke p).stores ++ [{ due := s.pbeat + (if far then 2 else 1), addr := off, bytes := bs }] ∧
        bs.map (·.1) = (List.range n).map (off + ·) ∧ bs.map (·.2) = leBytes n ((s.spoke p).xr (fld w 25 21)).toNat) ∧
      { t.spoke p with stores := [], pc := 0, nextIssue := 0 } = { s.spoke p with stores := [], pc := 0, nextIssue := 0 })

/-- A branch: taken, `PC` moves by 4 x off16 and issue is held for 3 beats; not taken, `PC` moves past it (R181). -/
def Branch (mk : SpokeId → Instr) (op : Nat) (c : Word32 → Word32 → Prop) : Prop :=
  ∀ (p : SpokeId) (s : State) (w : Word32), s.spokeAt p op 0 0 [fld w 25 21, fld w 20 16] w →
    let x := (s.spoke p).xr (fld w 25 21)
    let y := (s.spoke p).xr (fld w 20 16)
    (c x y → Answers (mk p) s fun t =>
      SpokeMoved s t p ((s.spoke p).pc + BitVec.ofInt 32 (4 * sext 16 (fld w 15 0))) (s.pbeat + 3) ∧
      { t.spoke p with pc := 0, nextIssue := 0 } = { s.spoke p with pc := 0, nextIssue := 0 }) ∧
    (¬c x y → Answers (mk p) s fun t => SpokeStepped s t p ∧
      { t.spoke p with pc := 0, nextIssue := 0 } = { s.spoke p with pc := 0, nextIssue := 0 })

/-- Flags that the selected lanes raise. -/
def laneFlags (pred : BitVec 16) (f : Nat → BitVec 5) : BitVec 5 :=
  ((List.range 16).map fun i => if bitOf pred i then f i else 0).foldl (· ||| ·) 0

/-- Format V under a predicate: lane i of vd is computed where pg is set, and keeps its value and raises nothing elsewhere
(R182). -/
def VectorLanes (mk : SpokeId → Instr) (op fn unused lat : Nat) (srcs : Word32 → List Nat) (bad : Word32 → Bool)
    (f : SpokeState → Word32 → Nat → Word32 × BitVec 5) : Prop :=
  ∀ (p : SpokeId) (s : State) (w : Word32), s.spokeAt p op fn unused (srcs w) w → bad w = false →
    Answers (mk p) s fun t => SpokeStepped s t p ∧
      SpokeV s t p (fld w 25 22)
        (fun i => if bitOf ((s.spoke p).pr (fld w 9 7)) i then (f (s.spoke p) w i).1 else lane ((s.spoke p).vr (fld w 25 22)) i)
        ((s.spoke p).pr (fld w 9 7)) (s.pbeat + lat) (laneFlags ((s.spoke p).pr (fld w 9 7)) fun i => (f (s.spoke p) w i).2)

/-- One source va. -/
def VectorOne (mk : SpokeId → Instr) (op fn lat : Nat) (f : Word32 → Word32 × BitVec 5) : Prop :=
  VectorLanes mk op fn 0x3FC00 lat (srcsV true false false) noBad fun a w i => f (lane (a.vr (fld w 21 18)) i)

/-- Sources va and vb. -/
def VectorTwo (mk : SpokeId → Instr) (op fn lat : Nat) (f : Word32 → Word32 → Word32 × BitVec 5) : Prop :=
  VectorLanes mk op fn 0x3C00 lat (srcsV true true false) noBad fun a w i =>
    f (lane (a.vr (fld w 21 18)) i) (lane (a.vr (fld w 17 14)) i)

/-- Integer sources va and vb: no flag. -/
def IntegerTwo (mk : SpokeId → Instr) (fn lat : Nat) (f : Word32 → Word32 → Word32) : Prop :=
  VectorTwo mk 0x32 fn lat fun a b => (f a b, 0)

/-- Sources va, vb and vc over 16 FP32 lanes. -/
def VectorThree (mk : SpokeId → Instr) (fn : Nat) (f : Word32 → Word32 → Word32 → Word32 × BitVec 5) : Prop :=
  VectorLanes mk 0x30 fn 0 4 (srcsV true true true) noBad fun a w i =>
    f (lane (a.vr (fld w 21 18)) i) (lane (a.vr (fld w 17 14)) i) (lane (a.vr (fld w 13 10)) i)

/-- BF16 sources over 32 lanes: predicate bit i covers lanes 2i and 2i + 1. -/
def VectorHalves (mk : SpokeId → Instr) (fn unused : Nat) (vc : Bool) (f : Nat → Nat → Nat → Nat × BitVec 5) : Prop :=
  VectorLanes mk 0x31 fn unused 4 (srcsV true true vc) noBad fun a w i =>
    let r (j : Nat) := f (half (a.vr (fld w 21 18)) j) (half (a.vr (fld w 17 14)) j) (half (a.vr (fld w 13 10)) j)
    (BitVec.ofNat 32 ((r (2 * i)).1 + 65536 * (r (2 * i + 1)).1), (r (2 * i)).2 ||| (r (2 * i + 1)).2)

/-- A comparison into pd: bit i is the comparison where pg is set, else 0 (R181). -/
def VectorCompare (mk : SpokeId → Instr) (fn : Nat) (f : Word32 → Word32 → Bool × BitVec 5) : Prop :=
  ∀ (p : SpokeId) (s : State) (w : Word32), s.spokeAt p 0x33 fn 0x02003C00 (srcsV true true false w) w →
    let a := s.spoke p
    let c (i : Nat) := f (lane (a.vr (fld w 21 18)) i) (lane (a.vr (fld w 17 14)) i)
    Answers (mk p) s fun t => SpokeStepped s t p ∧ ∃ v : BitVec 16,
      (∀ i < 16, bitOf v i = (bitOf (a.pr (fld w 9 7)) i && (c i).1)) ∧
      SpokeP s t p (fld w 24 22) v (s.pbeat + 2) (laneFlags (a.pr (fld w 9 7)) fun i => (c i).2)

/-- The fixed tree: `treeOf f n x i` combines the 2^n values from `x (2^n i)` on, neighbours first (R183). -/
def treeOf (f : Word32 → Word32 → Word32) : Nat → (Nat → Word32) → Nat → Word32
  | 0, x, i => x i
  | n + 1, x, i => f (treeOf f n x (2 * i)) (treeOf f n x (2 * i + 1))

/-- A reduction: every lane of vd is the tree of the lanes that pg selects, the others entering as `z` (R183). -/
def Reduces (mk : SpokeId → Instr) (fn lat : Nat) (z : Word32) (f : Word32 → Word32 → Word32) : Prop :=
  ∀ (p : SpokeId) (s : State) (w : Word32), s.spokeAt p 0x35 fn 0x3FC00 (srcsV true false false w) w →
    Answers (mk p) s fun t => SpokeStepped s t p ∧ ∃ fl, SpokeV s t p (fld w 25 22)
      (fun _ => treeOf f 4 (fun i => if bitOf ((s.spoke p).pr (fld w 9 7)) i then lane ((s.spoke p).vr (fld w 21 18)) i else z) 0)
      0xFFFF (s.pbeat + lat) fl

/-- A predicate operation. -/
def PredicateOp (mk : SpokeId → Instr) (fn unused : Nat) (f : BitVec 16 → BitVec 16 → BitVec 16) : Prop :=
  ∀ (p : SpokeId) (s : State) (w : Word32), s.spokeAt p 0x39 fn unused [48 + fld w 20 18, 48 + fld w 16 14] w →
    Answers (mk p) s fun t => SpokeStepped s t p ∧
      SpokeP s t p (fld w 24 22) (f ((s.spoke p).pr (fld w 20 18)) ((s.spoke p).pr (fld w 16 14))) (s.pbeat + 1) 0

/-- A `DTRIG` of one phase: a trigger that keeps R149 waits for its first beat, four beats on, and is the last trigger of its
die; another is a fault of the spoke (R148, R149, R194). -/
def Triggers (mk : SpokeId → Instr) (code : Nat) : Prop :=
  ∀ (p : SpokeId) (s : State) (w : Word32), s.spokeAt p 0x3F 0x11 0x03FF3000 [] w → fld w 15 14 = code →
    let d := s.derailleur (p.val / 256)
    (∀ c, d.triggerFault s.pbeat (fld w 11 6) code = some c → Answers (mk p) s fun t => SpokeFaulted s t p c) ∧
    (d.triggerFault s.pbeat (fld w 11 6) code = none → Answers (mk p) s fun t =>
      t.derailleur (p.val / 256) = { d with triggers := d.triggers ++ [(fld w 11 6, code, s.pbeat + 4)], lastTrigBeat := some s.pbeat
                                            lastTrigger := BitVec.ofNat 8 (64 * code + fld w 11 6) } ∧
      (∀ q, q ≠ p.val / 256 → t.derailleur q = s.derailleur q) ∧
      t.spoke p = { s.spoke p with pc := (s.spoke p).pc + 4, nextIssue := s.pbeat + 1 } ∧ OnlySpoke s t p ∧
      { t.countsOf s with spokes := s.spokes, derailleurs := s.derailleurs } = s)

/-- A sweep whose first beat has come starts once: it joins the sweeps in progress, from which those that are over drop out, and
nothing else changes; before its beat nothing happens (R159, R160, R166). -/
def SweepStarts (c : Instr) (die : DieId) (s : State) (w : Sweep) : Prop :=
  (s.runs = true → w.start ≤ s.pbeat → w ∉ (s.derailleur die).sweeps → Answers c s fun t =>
    t.derailleur die = { s.derailleur die with
      sweeps := ((s.derailleur die).sweeps.filter fun x => decide (s.pbeat < x.start + (x.count + 31) / 32)) ++ [w] } ∧
    (∀ q, q ≠ die.val → t.derailleur q = s.derailleur q) ∧ { t with derailleurs := s.derailleurs } = s) ∧
  (s.runs = true → s.pbeat < w.start → exec c s = .next s)

/-! ### Collectives -/

/-- Collective `c` of an engine has been aborted: it is no longer open, its slot's generation has advanced, the abort flag of its
chunk counter is set, the engine holds the cause and the origin, and an event is logged. The chunk counters are as they were, and so is
memory but for the destination chunks that the collective has not counted (R392-R395). -/
def CollAborted (s t : State) (k : LpId) (c : CollState) (cause origin : Nat) : Prop :=
  (∀ x ∈ (t.engine k).open_, x.slot ≠ c.slot) ∧ (t.engine k).aborted = (s.engine k).aborted + 1 ∧
  SMap.get 0 (t.engine k).gens c.slot = c.gen + 1 ∧ bitOf t.abort (ceCounter c.entry) = true ∧
  (t.engine k).lastAbort = BitVec.ofNat 32 (origin * 2 ^ 20 + cause * 65536 + c.gen.toNat * 4096 + c.slot) ∧
  (∀ j, j ≠ k.val → t.engine j = s.engine j) ∧
  (∃ r, t.hubLog.getLast? = some r ∧ r.cls = 3 ∧ r.code = 0x85) ∧
  (∀ a ∈ (t.engine k).accesses, a.slot ≠ c.slot) ∧ (∀ a, ¬c.looseAt a → t.byte a = s.byte a) ∧
  { t with engines := s.engines, fabs := s.fabs, abort := s.abort, hubLog := s.hubLog, aoLog := s.aoLog, hubSeq := s.hubSeq
           aoSeq := s.aoSeq, mbs := s.mbs, mem := s.mem, freeCtr := s.freeCtr, vaults := s.vaults, memStacks := s.memStacks
           localReqs := s.localReqs } = s

/-- The next collective packet of a type at a die: one that was held for its slot's start, else the oldest that has been delivered
(R390). -/
def State.collPacket (s : State) (k : LpId) (ty : Byte) (held : Bool) (f : Option (FibreId × WaveId)) (p : Packet) : Prop :=
  s.inDomainReset (.fab k) = false ∧ (s.engine k).applied.find? (fun x => x.ty == ty) = (if held then some p else none) ∧
    (held = false → (s.fab k).local_.find? (fun x => x.2.ty == ty) = some (f, p))

/-- A collective packet is taken, and its engine becomes `e` but for the packet. -/
def CollDropped (s t : State) (k : LpId) (held : Bool) (f : Option (FibreId × WaveId)) (p : Packet) (e : EngineState) : Prop :=
  t.engine k = (if held then { e with applied := e.applied.erase p } else e) ∧
  t.fab k = (if held then s.fab k else { s.fab k with local_ := (s.fab k).local_.erase (f, p) }) ∧
  (∀ j, j ≠ k.val → t.engine j = s.engine j) ∧ (∀ j, j ≠ k.val → t.fab j = s.fab j) ∧ { t with engines := s.engines, fabs := s.fabs } = s

/-- The packet is of this peloton, of the last millisecond unless it was held, and of the use of the slot that is open (R387, R390,
Table 13.5). -/
def State.collNames (s : State) (k : LpId) (held : Bool) (p : Packet) (c : CollState) : Prop :=
  fld p.peloton 11 0 = s.peloton ∧ (held = true ∨ s.ageOf p ≤ 1000) ∧ s.coll k (clSlot p) = some c ∧ clEpoch p = c.epoch.toNat ∧
    clGen p = c.gen.toNat

/-- The packet passes every test of Table 13.5, and comes from rank `y` of the group. -/
def State.collAccepts (s : State) (k : LpId) (held : Bool) (p : Packet) (c : CollState) (y : Nat) : Prop :=
  s.collNames k held p c ∧ bitOf p.flags 5 = s.ordered ∧ s.packageRank (ceSpan c.entry) p.srcPkg = some y ∧
    p.code.toNat = ceOp c.entry ∧ fld p.space 3 0 = slotN c.entry 2 1 - 16 ∧ clChunk p < treeChunks c.entry c.size ∧
    clIndex p < ceChunk c.entry / 256

/-- Packets that the package holds for the start of their slots. -/
def State.earlyHeld (s : State) : Nat := ((List.range 4).map fun q => (s.engine q).early.length).sum

/-- What every collective packet meets before its type's own test, once the engine has taken the answers of its chunk accesses: a wrong
peloton, an age over a millisecond of one that was not held, a wrong epoch or a wrong generation discards and counts it, the first that
holds; a credit, an arrival or an abort of the next use of a slot that is not open is held, at most 256 in all; a packet in the other order
mode, or with fields that do not fit, aborts the collective (R387, R390, R392, Table 13.5). -/
def CollTested (mk : LpId → Instr) (ty : Byte) : Prop :=
  ∀ (k : LpId) (s : State) (held : Bool) (f : Option (FibreId × WaveId)) (p : Packet),
    let u := s.landAccesses k
    let e := u.engine k
    let young : Prop := held = true ∨ u.ageOf p ≤ 1000
    let waits : Prop := clGen p = (SMap.get 0 e.gens (clSlot p) + 1).toNat ∧ (ty = 0x90 ∨ ty = 0x11 ∨ ty = 0x1F) ∧ u.earlyHeld < 256
    u.collPacket k ty held f p →
    (fld p.peloton 11 0 ≠ u.peloton → Answers (mk k) s fun t => CollDropped u t k held f p { e with dropPel := e.dropPel + 1 }) ∧
    (fld p.peloton 11 0 = u.peloton → ¬young → Answers (mk k) s fun t => CollDropped u t k held f p { e with dropAge := e.dropAge + 1 }) ∧
    (fld p.peloton 11 0 = u.peloton → young →
      (u.coll k (clSlot p) = none → clEpoch p ≠ u.epoch →
        Answers (mk k) s fun t => CollDropped u t k held f p { e with dropEpoch := e.dropEpoch + 1 }) ∧
      (u.coll k (clSlot p) = none → clEpoch p = u.epoch → waits →
        Answers (mk k) s fun t => CollDropped u t k held f p { e with early := e.early ++ [p] }) ∧
      (u.coll k (clSlot p) = none → clEpoch p = u.epoch → ¬waits →
        Answers (mk k) s fun t => CollDropped u t k held f p { e with dropGen := e.dropGen + 1 }) ∧
      (∀ c, u.coll k (clSlot p) = some c →
        (clEpoch p ≠ c.epoch.toNat → Answers (mk k) s fun t => CollDropped u t k held f p { e with dropEpoch := e.dropEpoch + 1 }) ∧
        (clEpoch p = c.epoch.toNat → clGen p ≠ c.gen.toNat →
          Answers (mk k) s fun t => CollDropped u t k held f p { e with dropGen := e.dropGen + 1 }) ∧
        (clEpoch p = c.epoch.toNat → clGen p = c.gen.toNat → ty ≠ 0x1F → bitOf p.flags 5 ≠ u.ordered →
          Answers (mk k) s fun t => CollAborted u t k c 5 u.ownPackage) ∧
        (clEpoch p = c.epoch.toNat → clGen p = c.gen.toNat → ty ≠ 0x1F → bitOf p.flags 5 = u.ordered →
          (¬∃ y, u.collAccepts k held p c y) → Answers (mk k) s fun t => CollAborted u t k c 7 u.ownPackage)))

/-- An engine has begun to read or write a chunk: the access, with the next number, is under way, and its request waits at the memory that
holds the chunk (R16, R25, R211). -/
def ChunkBegun (s t : State) (k : LpId) (c : CollState) (use : ChunkUse) (i at_ : Nat) (d : List (Byte × Bool)) : Prop :=
  (∃ a ∈ (t.engine k).accesses, a.isFor c.slot use i = true ∧ a.n = (s.engine k).accessNo ∧ a.job.off = at_ ∧ a.job.len = ceChunk c.entry) ∧
  ∀ r o, regionOf at_ = some (r, o) → s.regionServes r = true → ∃ m : State, Queued m t
    { owner := .chunk k (s.engine k).accessNo, write := use == .dest, addr := at_, data := d.map (·.1), poison := d.map (·.2)
      len := ceChunk c.entry, whole := ceChunk c.entry }

/-- One chunk access of an engine has been answered: a source becomes the own contribution, or is sent to the member of its block; the own
block is written next; and a chunk at its destination counts as written. An access that failed leaves its chunk as it is, which is the
model's choice (log entry 99) (R375, R378, R384). -/
def ChunkLands (s : State) (k : LpId) (c : CollState) (a : ChunkAccess) : Prop :=
  let u := s.landAccesses k
  let data := a.job.data
  (a.job.status ≠ 0 → u.coll k a.slot = some c ∧ u.fabs = s.fabs) ∧
  (a.job.status = 0 → a.use = .source → c.isA2A = true →
    (∃ d, u.coll k a.slot = some d ∧ (d.chunk (c.size * ceChunks c.entry + a.index)).sentTo = [c.blockOf a.index]) ∧
    ∀ i < data.length / 256, ∃ cls, ∃ q ∈ SMap.get [] (u.fab k).inject cls, q.ty = 0x10 ∧
      q.dst = BitVec.ofNat 16 (s.memberOf c (c.blockOf a.index)) ∧ q.payload = ((data.drop (256 * i)).take 256).map (·.1)) ∧
  (a.job.status = 0 → a.use = .source → c.isA2A = false → ∃ d, u.coll k a.slot = some d ∧
    let j := c.chunkOfSource a.index
    ((d.chunk j).acc ≠ none ∨ (d.chunk j).full = true ∨ (d.chunk j).sentTo ≠ []) ∧
    (c.up = true → (∃ y ∈ s.childrenOf c j, y ∉ (c.chunk j).combined) → (c.chunk j).ready = [] → (d.chunk j).acc = some data)) ∧
  (a.job.status = 0 → a.use = .own → ∃ x ∈ (u.engine k).accesses, x.isFor a.slot .dest a.index = true) ∧
  (a.job.status = 0 → a.use = .dest → ∃ d, u.coll k a.slot = some d ∧ (d.chunk (c.chunkOfDest a.index)).written = true) ∧
  (∀ j, j ≠ k.val → u.engine j = s.engine j) ∧
  { u with engines := s.engines, fabs := s.fabs, vaults := s.vaults, memStacks := s.memStacks, localReqs := s.localReqs } = s

/-! ### Resets and power -/

/-- A `RESET_DOMAIN` of a domain code. While a program runs, a VAULT, STK, CAP or FAB domain fails without force, and with force
waits for the Hub service hold of the stop; else the record is written, the domain is in reset from now on and its FIFO crossing
starts to re-synchronise. Memory and the rest of the part run on (R405, R444, R445). -/
def DomainReset (mk : Instr) (code : Nat) (eff : State → State → Nat → Prop) : Prop :=
  ∀ (s : State) (c : Accepted) (dom : ResetDomain), s.cur 0x43 = some c → slotN c.slot 8 1 = code → domainOf c.slot = some dom →
    let stops : Prop := s.prog.running = true ∧ code ≤ 4
    (stops → slotN c.slot 10 1 % 2 = 0 → Answers mk s fun t => HubFinished s t c 0x20 0 0 ∧ HubOnly s t) ∧
    (stops → slotN c.slot 10 1 % 2 = 1 → s.stopReady = false →
      exec mk s = .next { s with beat := { s.beat with hubDemand := true } }) ∧
    (stops → slotN c.slot 10 1 % 2 = 1 → s.stopReady = true → Answers mk s fun t =>
      t.prog.running = false ∧ (dom, s.nowNs) ∈ t.power.resets ∧ MemSameButAborts s t ∧ t.hub.current = none) ∧
    (¬stops → Answers mk s fun t =>
      t.power = { s.power with
        resets := (dom, s.nowNs) :: s.power.resets.filter fun r => r.1 != dom
        resync := (if hasCrossing dom then [(dom, 1)] else []) ++ s.power.resync.filter fun r => r.1 != dom } ∧
      t.hub.current = none ∧ MemSameButAborts s t ∧ t.ecc = s.ecc ∧ t.beat = s.beat ∧ t.prog = s.prog ∧ t.arrays = s.arrays ∧
      t.spokes = s.spokes ∧ t.settings = s.settings ∧ t.repairs = s.repairs ∧ t.pending = s.pending ∧
      eff s t (slotN c.slot 9 1))

/-- A port that is enabled and not off repeats bring-up from a step. -/
def PortRepeats (s t : State) (f step : Nat) : Prop :=
  s.portEnabled f = true → (s.port f).state ≠ 0 →
    (t.port f).state = 1 ∧ (t.port f).step = BitVec.ofNat 3 (min (step - 1) (s.port f).step.toNat)

/-- The AO log has taken one record of this class and code. -/
def AoLogged (s t : State) (cls code detail : Nat) : Prop :=
  t.aoSeq = s.aoSeq + 1 ∧ ∃ r, t.aoLog.getLast? = some r ∧ r.cls = BitVec.ofNat 8 cls ∧ r.code = BitVec.ofNat 8 code ∧
    r.detail = BitVec.ofNat 96 detail ∧ r.seq = s.aoSeq

/-- The package powers down: the laser requests drop, the sequence begins with group 11, and the Hub service hold is demanded
(R425). -/
def PowersDown (s t : State) : Prop :=
  (∀ e ∈ t.lasers, e.2.req = false) ∧ t.power.downGroup = some (10, s.nowNs) ∧ t.power.upGroup = none ∧ t.beat.hubDemand = true

/-- A machine check of the hub: the package is in a fault hold (R46, R428, R481). -/
def HubChecked (t : State) : Prop := t.beat.faultHold = true ∧ t.beat.machineCheck = true ∧ t.beat.faultAt ≠ none

/-- Kickstand is entered: stage 0x1 with the straps as sampled and VIO enabled, good by then as the model has it (log entry 109), and
`INTERLOCK_N` counting as low if VIO was off; the other rails, and the rest of the part, are as they were (R429, R430, R480). -/
def EntersKickstand (s t : State) (straps : BitVec 4) : Prop :=
  t.power = { s.power with stage := 1, strap := straps, rails := t.power.rails, interlockLow := s.power.interlockLow || !s.vioOn } ∧
  t.rail 1 = { s.rail 1 with en := true, pg := true, state := 2, setMv := 1800, fell := false } ∧
  (∀ n, n ≠ 1 → t.rail n = s.rail n) ∧ { t with power := s.power } = s

/-- A warm reset: every domain but AO is reset; the rails, the AO log, the repairs, the cadence count and the counters that only a
cold reset clears are kept, the laser requests drop and the hub log holds the record of the reset alone (R443). -/
def WarmReset (s t : State) (source : Nat) : Prop :=
  t.beat = {} ∧ t.prog = {} ∧ t.arrays = [] ∧ t.spokes = [] ∧ t.routers = [] ∧ t.derailleurs = [] ∧ t.counters = [] ∧ t.chunk = [] ∧
  t.abort = 0 ∧ t.vaults = [] ∧ t.hub = {} ∧ t.settings = [] ∧ t.image = none ∧ t.hubLog.length = 1 ∧ (∀ e ∈ t.lasers, e.2.req = false) ∧
  t.power.rails = s.power.rails ∧ (s.service = false → t.repairs = s.repairs ∧ t.ecc = s.ecc) ∧
  (s.service = true → ∀ r ∈ t.repairs, r.fresh = false) ∧ t.tap = { trstLow := s.tap.trstLow } ∧ t.mach.count = s.mach.count ∧ t.mach.locked = false ∧
  t.therm.energyUj = s.therm.energyUj ∧ t.therm.brakeChg = s.therm.brakeChg ∧ t.therm.gearChg = s.therm.gearChg ∧
  t.dieMem = SMap.update {} s.dieMem (fun _ m => m.kept) ∧ t.fabs = SMap.update {} s.fabs (fun _ f => f.kept) ∧
  t.engines = SMap.update {} s.engines (fun _ e => e.kept) ∧ t.channels = SMap.update {} s.channels (fun _ c => c.kept) ∧
  t.mem = s.mem ∧ t.pending = s.pending ∧ AoLogged s t 3 0x96 source

/-- A step of truing has failed, from the power state `p`: the stage stays, no laser is requested, every port is dark, and the record names
the step and its cause; that record is the last where no collective was open (R429, R433, Table 15.8). -/
def TruingFailed (s t : State) (p : PowerState) (step cause : Nat) : Prop :=
  t.power = { p with truingFault := true } ∧ (∀ e ∈ t.lasers, e.2.req = false) ∧ (∀ f < 32, (t.port f).state = 0) ∧ MemSameButAborts s t ∧
  (s.collOpen = false → AoLogged s t 3 0x93 (step + 256 * cause))

/-- The AO log's last record names a die and a unit. -/
def LastNames (t : State) (die unit : Nat) : Prop :=
  ∃ r, t.aoLog.getLast? = some r ∧ r.die = BitVec.ofNat 8 die ∧ r.unit = BitVec.ofNat 16 unit

/-! ### The whole part -/

/-- The invariant: memory is canonical, the logs keep to their capacities (R418), a beat is held exactly for one of the four
causes (R36), and the stage is one of R429 to R434. -/
def State.Inv (s : State) : Prop :=
  s.memOk = true ∧ s.hubLog.length ≤ 4096 ∧ s.aoLog.length ≤ 256 ∧
  s.beat.held = (s.beat.causeWait || s.beat.causeBrake || s.beat.causeShift || s.beat.causeHub) ∧
  1 ≤ s.power.stage.toNat ∧ s.power.stage.toNat ≤ 4

end Sys2Proof.Machine
end

