-- ==== Sys2Proof/WellFormed.lean ====
section
/-! DEFINITION. Which commands are well-formed: operands of a free width within the range the spec gives them. Every other
operand is in range by its type. -/

namespace Sys2Proof

/-- Rails of a sequence group, numbered group - 1 (Table 15.1). -/
def railsInGroup (g : RailGroup) : Nat := if g.val = 0 then 1 else if g.val ≤ 2 then 8 else 1

/-- The findings of a training: a window lies in the 64 steps of the trim, and a sample among the two bits that each position sends in a beat of its test (R267,
R268). -/
def trainingOk (rep : TrainingReport) : Bool :=
  (rep.sweeps.all fun x => decide (x.first.val + x.width ≤ 64)) && (rep.samples.all fun x => decide (x.index < 2 ^ 21)) &&
    rep.retest.all fun x => decide (x.index < 2 ^ 17)

/-- The bits that arrived in a slot are as many as the report says. -/
def burstOk (rep : BurstReport) : Bool := decide (rep.bits < 2 ^ rep.count)

/-- A trained rate of a stack in Mb/s (R227, R230), 0 where training failed: HBM4 stacks first, then capacity stacks. -/
def stackRatesOk (rs : List Nat) : Bool :=
  rs.length == 32 && (rs.take 16).all (fun r => [0, 8000, 9766].contains r) && (rs.drop 16).all (fun r => [0, 25000].contains r)

/-- A register offset is word-aligned (R7). -/
def RegName.aligned : RegName → Bool
  | .mailbox _ off => off % 4 == 0
  | .block _ _ off => off % 4 == 0
  | .sideband _ => true

/-- The command is well-formed. -/
def Instr.wf : Instr → Bool
  | .dispatchSweep _ _ line | .combineSweep _ _ line => decide (line < 2816)             -- Table 5.4
  | .linkTraining _ rep => trainingOk rep
  | .alignmentMark _ delays => delays.length == 16                                       -- R272
  | .steeringSlotStart _ _ slot => decide (slot < 64)                                    -- Table 10.6
  | .burstReceive _ _ rep => burstOk rep
  | .truingWindow _ _ lit _ _ => decide (lit ≤ 125000)                                   -- R300
  | .registerWrite reg _ | .loRegisterRead reg => reg.aligned
  | .repairTest failing => failing.all fun a => a % 8 == 0                               -- R234
  | .truing rep => stackRatesOk rep.stackRate
  | .railGroupPowerUp grp vout => vout.length == railsInGroup grp                        -- R424
  | .sensorSample samples => samples.length == 232                                       -- Table 16.1
  | .tapInstruction (.capture pins) => pins.length == 85                                 -- Table 17.4
  | .powerSample readings => readings.length == 25                                       -- R461
  | _ => true

end Sys2Proof
end

