-- ==== Sys2Proof/Certificates/Slice0/Obligations.lean ====
section
/-! DEFINITION. The statements for the provers. -/

open Sys2Proof Sys2Proof.Machine

/-- `NOP`, `DUMMY`, `ZERO`, `STREAM`, `FREEWHEEL`, `PARK` and `END` issue for every member of the gang and change nothing but
the members and the counts of a marked fetch: the port is held for the word's count, a `DUMMY` presents its rows, `ZERO` enters the accumulator path, a
`STREAM` installs its descriptor, and the gated words begin their gap (R113, R114, R123-R126). -/
def Obligations.ArrayWordsIssueForTheirGang : Prop :=
  GangIssue .nop 0 (fun _ _ w => fld w 103 0 = 0 ∧ fld w 123 104 ≠ 0)
    (fun pb _ w a => { a with issueFree := pb + fld w 123 104 }) ∧
  GangIssue .dummy 0xA (fun _ _ w => fld w 123 120 ≤ 8 ∧ fld w 119 100 ≠ 0 ∧ fld w 99 0 = 0)
    (fun pb _ w a => { a with issueFree := pb + fld w 119 100
                              presented := (pb, pb + fld w 119 100 - 1, fld w 123 120) :: a.presented.take 31 }) ∧
  GangIssue .zero 3 (fun _ a w => fld w 118 0 = 0 ∧ (fld w 121 121 = 0 ∨ fld w 120 119 < a.loops.length))
    (fun pb _ w a => { a with path := a.path ++ [{ kind := .zero, issue := pb, word := w
                                                   acc := effAcc (fld w 123 122) (loopSel a.loops (fld w 121 121) (fld w 120 119)).join }] }) ∧
  GangIssue .stream 2
    (fun s a w => fld w 121 120 = 0 ∧ fld w 69 50 ≠ 0 ∧ fld w 49 0 = 0 ∧
      (∀ ph < 16, (fld w 119 104).testBit ph = true → servantPhase s.prog.plan.toNat ph = false) ∧
      (∀ x ∈ otherMasks a (fld w 123 122), x &&& BitVec.ofNat 16 (fld w 119 104) = 0) ∧
      (SMap.get {} a.streams (fld w 123 122)).next = none)
    (fun pb _ w a =>
      let st : StreamState := SMap.get {} a.streams (fld w 123 122)
      let d : StreamDesc := { phaseMask := BitVec.ofNat 16 (fld w 119 104), startLine := BitVec.ofNat 17 (fld w 103 87)
                              stride := BitVec.ofNat 17 (fld w 86 70), count := fld w 69 50, fetched := 0, issuedAt := pb }
      { a with streams := SMap.set {} a.streams (fld w 123 122)
                            (if st.cur = none then { st with cur := some d } else { st with next := some d }) }) ∧
  GangIssue .freewheel 0xB (fun _ _ w => 33 ≤ fld w 123 104 ∧ fld w 103 0 = 0)
    (fun pb sched w a => { a with issueFree := pb + fld w 123 104, gatedSince := a.gatedSince.or (some (sched + 16))
                                  gate := some ((a.gate.map (·.1)).getD (pb + 16), pb + fld w 123 104 - 5) }) ∧
  GangIssue .park 0xC (fun _ _ w => 64 ≤ fld w 123 104 ∧ fld w 103 0 = 0)
    (fun pb sched w a => { a with issueFree := pb + fld w 123 104, parkAt := a.parkAt.or (some pb)
                                  gatedSince := a.gatedSince.or (some (sched + 16)) }) ∧
  GangIssue .endWord 0xE (fun _ _ w => fld w 123 0 = 0)
    (fun pb _ _ a => { a with seqState := 4, endAt := some pb })

/-- `LOOP` opens a level, or with count 0 goes past its body; `ENDLOOP` goes back for the next iteration or closes the level.
Both move every member of the gang, take no issue beat of their own, and change nothing else (R103, R117). -/
def Obligations.LoopWordsMoveTheSequencers : Prop :=
  (∀ (g : ArrayId) (s : State) (w : BitVec 128) (e : Nat), s.atControl g 6 w → fld w 103 94 = e → fld w 37 0 = 0 →
    (s.array g).pc < e → opcodeOf (s.passWord g e) = 7 → (∀ l, (s.array g).loops.getLast? = some l → e < l.endIdx) →
    (∃ k, (s.array g).pc < k ∧ k < e ∧ isControl (s.passWord g k) = false) →
    (fld w 123 104 = 0 → ControlMoves .loop g s (e + 1) (s.array g).loops) ∧
    (fld w 123 104 ≠ 0 → (s.array g).loops.length < 4 →
      ControlMoves .loop g s ((s.array g).pc + 1)
        ((s.array g).loops ++ [{ start := (s.array g).pc + 1, endIdx := e, count := fld w 123 104, idx := 0
                                 aStep := BitVec.ofNat 18 (fld w 93 76), sStep := BitVec.ofNat 18 (fld w 75 58)
                                 dStep := BitVec.ofNat 18 (fld w 57 40), accStep := BitVec.ofNat 2 (fld w 39 38) }]))) ∧
  (∀ (g : ArrayId) (s : State) (w : BitVec 128) (l : LoopLevel), s.atControl g 7 w → fld w 123 0 = 0 →
    (s.array g).loops.getLast? = some l → l.endIdx = (s.array g).pc →
    (l.idx + 1 < l.count →
      ControlMoves .endloop g s l.start ((s.array g).loops.dropLast ++ [{ l with idx := l.idx + 1 }])) ∧
    (l.count ≤ l.idx + 1 → ControlMoves .endloop g s ((s.array g).pc + 1) (s.array g).loops.dropLast))

/-- `SIGNAL` gives its signal counter one step for the gang, for the end of the beat; `WAIT` samples its counter, keeps the port for 16 beats and presents
its rows, and a counter that is short adds the leader's wait with its timeout; `UNPARK` restores power with accumulators at
+0 and 2,000 beats to go. Nothing else changes but the counts of a marked fetch (R39, R44, R96, R97, R118-R120, R130). -/
def Obligations.SignalWaitAndUnparkIssue : Prop :=
  (∀ (g : ArrayId) (s : State) (w : BitVec 128), s.offers g 9 w → fld w 123 122 = 0 → fld w 121 112 < 0x100 →
    fld w 111 96 ≠ 0 → fld w 95 0 = 0 →
    Answers (.signal g) s fun t =>
      (∀ m ∈ s.members g, t.array m = (s.array m).issued s.pbeat) ∧ (∀ m, m ∉ s.members g → t.array m = s.array m) ∧
      (∀ d id, SMap.get 0 (t.dieCounters d).steps id =
        if d = g.val / 2048 ∧ id = fld w 121 112 then SMap.get 0 (s.dieCounters d).steps id + BitVec.ofNat 32 (fld w 111 96)
        else SMap.get 0 (s.dieCounters d).steps id) ∧
      (∀ d, { t.dieCounters d with steps := [] } = { s.dieCounters d with steps := [] }) ∧
      ArraysMove s { t with counters := s.counters }) ∧
  (∀ (g : ArrayId) (s : State) (w : BitVec 128), s.offers g 8 w → (∀ m ∈ s.members g, waitCheck s m w = none) →
    Answers (.wait g) s fun t =>
      let target := waitTarget w (loopSel (s.array g).loops (fld w 53 53) (fld w 52 51)).join
      (∀ m ∈ s.members g, t.array m =
        { (s.array m).issued s.pbeat with
          issueFree := s.pbeat + 16, seqState := 3
          presented := (s.pbeat, s.pbeat + 15, fld w 34 31) :: (s.array m).presented.take 31 }) ∧
      (∀ m, m ∉ s.members g → t.array m = s.array m) ∧
      (atOrAbove (s.counterValue (g.val / 2048) (fld w 121 112)) target = true → t.beat = s.beat) ∧
      (atOrAbove (s.counterValue (g.val / 2048) (fld w 121 112)) target = false →
        ∃ x : WaitState, t.beat = { s.beat with waits := s.beat.waits ++ [x] } ∧ x.unit = .array g ∧ x.die.val = g.val / 2048 ∧
          x.counter = fld w 121 112 ∧ x.target = target ∧ x.heldLeft = waitLimit (fld w 79 56) (fld w 55 54) ∧
          x.sampleWall = s.wall) ∧
      ArraysMove s { t with beat := s.beat }) ∧
  (∀ (g : ArrayId) (s : State) (w : BitVec 128), s.offers g 0xD w → fld w 123 0 = 0 →
    (∀ m ∈ s.members g, (s.array m).unparkUntil ≤ s.pbeat ∧ m / 2048 = g.val / 2048) →
    ((SMap.get [] s.unparks (g.val / 2048)).filter fun b => decide (s.sched < b + 2000)).length + (s.members g).length ≤ 512 →
    Answers (.unpark g) s fun t =>
      (∀ m ∈ s.members g, t.array m =
        { (s.array m).issued s.pbeat with
          acc := [], power := 3, parkAt := none, gatedSince := none
          fwAcc := (s.array m).fwAcc + BitVec.ofNat 32 ((s.setArray m ((s.array m).issued s.pbeat)).gatedBeats m)
          unparkAt := some s.pbeat, ramp := false, unparkUntil := s.pbeat + 2000 }) ∧
      (∀ m, m ∉ s.members g → t.array m = s.array m) ∧
      SMap.get [] t.unparks (g.val / 2048) = List.replicate (s.members g).length s.sched ++
        (SMap.get [] s.unparks (g.val / 2048)).filter (fun b => decide (s.sched < b + 2000)) ∧
      (∀ d, d ≠ g.val / 2048 → SMap.get [] t.unparks d = SMap.get [] s.unparks d) ∧
      ArraysMove s { t with unparks := s.unparks })

/-- The events of an array's power and clock come about in their beats, and change nothing but the array: `END` gates from beat
e+16, a `FREEWHEEL` wakes after its last gated beat unless another follows, `PARK` power-gates from beat f+32, and an
`UNPARK` is complete after 2,000 beats (R95, R96, R124, R125). -/
def Obligations.ArrayPowerEventsComeInTheirBeats : Prop :=
  (∀ (g : ArrayId) (s : State) (e : Nat), s.runs = true → (s.array g).endAt = some e → e + 16 ≤ s.pbeat →
    (s.array g).gatedSince = none →
    Answers (.endClockGate g) s fun t => ArrayBecomes s t g { s.array g with gatedSince := some s.sched, power := 1 }) ∧
  (∀ (g : ArrayId) (s : State) (x y : Nat), s.runs = true → (s.array g).gate = some (x, y) → y < s.pbeat →
    s.staysGated g = false →
    (∀ b, (s.array g).gatedSince = some b → s.prog.clearedAt ≤ b → (s.array g).voidGate = none →
      s.prog.beat0.toNat + y + 1 ≤ s.sched → s.gatedBeats g = s.prog.beat0.toNat + y + 1 - b) ∧
    Answers (.freewheelWake g) s fun t => ArrayBecomes s t g
      { s.array g with gate := none, gatedSince := none, power := 3
                       fwAcc := (s.array g).fwAcc + BitVec.ofNat 32 (s.gatedBeats g) }) ∧
  (∀ (g : ArrayId) (s : State) (f : Nat), s.runs = true → (s.array g).parkAt = some f → f + 32 ≤ s.pbeat →
    Answers (.parkPowerGate g) s fun t => ArrayBecomes s t g { s.array g with power := 2 }) ∧
  (∀ (g : ArrayId) (s : State) (b : Nat), s.runs = true → (s.array g).unparkAt = some b → b + 2000 ≤ s.pbeat →
    Answers (.unparkComplete g) s fun t => ArrayBecomes s t g { s.array g with unparkAt := none, ramp := false, power := 0 })

/-- The park controller starts the ramp of an array of the die that has waited longest, at most 64 in a beat; a void window
that is armed begins and ends; and in held beats the driven level falls by one row after 32 beats and rises by one row in a
release notice. Nothing else changes (R97, R98, R163). -/
def Obligations.RampsVoidWindowsAndShapingInHolds : Prop :=
  (∀ (d : DieId) (s : State), s.runs = true →
    (∃ e ∈ s.arrays, e.1 / 2048 = d.val ∧ e.2.unparkAt ≠ none ∧ e.2.ramp = false) →
    ((SMap.get (0, 0) s.ramps d).1 = s.sched → (SMap.get (0, 0) s.ramps d).2 < 64) →
    Answers (.unparkRampStart d) s fun t => ∃ e ∈ s.arrays, e.1 / 2048 = d.val ∧ e.2.ramp = false ∧ e.2.unparkAt ≠ none ∧
      (∀ f ∈ s.arrays, f.1 / 2048 = d.val → f.2.unparkAt ≠ none → f.2.ramp = false →
        e.2.unparkAt.getD 0 ≤ f.2.unparkAt.getD 0) ∧
      t.array e.1 = { e.2 with ramp := true } ∧ (∀ m, m ≠ e.1 → t.array m = s.array m) ∧
      (SMap.get (0, 0) t.ramps d).1 = s.sched ∧ (∀ q, q ≠ d.val → SMap.get (0, 0) t.ramps q = SMap.get (0, 0) s.ramps q) ∧
      { t with arrays := s.arrays, ramps := s.ramps } = s) ∧
  (∀ (g : ArrayId) (s : State) (w : VoidWindow), s.runs = true → ((s.array g).inVoid = false ∨ (s.array g).voidFirst ≠ w.first) →
    (s.array g).windows.find? (fun w => w.armed && decide (w.first ≤ s.pbeat) && decide (s.pbeat < w.first + w.len)) = some w →
    Answers (.voidWindowStart g) s fun t => ArrayBecomes s t g
      { s.array g with
        inVoid := true, voidFirst := w.first, fwAcc := (s.array g).fwAcc + BitVec.ofNat 32 (s.voidBeats g)
        voidGate := if 33 ≤ w.len then some (w.first + 16, w.first + w.len - 5) else none }) ∧
  (∀ (g : ArrayId) (s : State), s.runs = true → (s.array g).inVoid = true →
    (∀ w ∈ (s.array g).windows, w.armed = true → w.first ≤ s.pbeat → w.first + w.len ≤ s.pbeat) →
    Answers (.voidWindowEnd g) s fun t => ArrayBecomes s t g
      { s.array g with
        inVoid := false, voidGate := none, fwAcc := (s.array g).fwAcc + BitVec.ofNat 32 (s.voidBeats g)
        windows := (s.array g).windows.filter fun w => decide (s.pbeat < w.first + w.len) }) ∧
  (∀ (g : ArrayId) (s : State), s.beat.held = true → s.inReleaseNotice = false → 32 ≤ (s.array g).decay → 0 < (s.array g).driven →
    Answers (.holdShaperDecay g) s fun t => ArrayBecomes s t g
      { s.array g with driven := (s.array g).driven - 1, dummy := (s.array g).driven - 1, decay := (s.array g).decay - 32 }) ∧
  (∀ (g : ArrayId) (s : State), s.inReleaseNotice = true → (s.array g).power ≠ 3 → (s.array g).rampAt ≠ some s.wall →
    (s.array g).driven < (s.array g).level (s.pbeat - 8) (s.array g).lastD →
    Answers (.releaseNoticeRamp g) s fun t => ArrayBecomes s t g
      { s.array g with driven := (s.array g).driven + 1, dummy := (s.array g).driven + 1, decay := 0, rampAt := some s.wall })

/-- `PASS`, `LOADACC` and `DRAIN` issue for every member of the gang: a `PASS` takes the pass port with its effective addresses
and issues its first beat, `LOADACC` reads the values it will write, `DRAIN` converts the accumulator of the start of the beat
for the end of beat d+7. No byte of memory changes; reads count only marked words, and where no word of memory is marked nothing but the arrays
changes (R79, R80, R106, R111, R114, R115, R131). -/
def Obligations.PassLoadaccAndDrainIssue : Prop :=
  (∀ (g : ArrayId) (s : State) (w : BitVec 128), s.offers g 1 w → (∀ m ∈ s.members g, passCheck s m w = none) →
    Answers (.pass g) s fun t =>
      (∀ m ∈ s.members g,
        let p := passFields w
        let sel := (loopSel (s.array m).loops p.aEn p.aLvl).join
        (t.array m).pass = some
          { word := w, idx := (s.array m).pc, total := p.beats, issued := 1, start := s.pbeat
            aEff := (effAddr (s.array m).abase.toNat p.aAddr sel (·.aStep)).toNat
            asEff := (effAddr (s.array m).abase.toNat p.asAddr sel (·.sStep)).toNat
            acc := effAcc p.acc (loopSel (s.array m).loops p.accEn p.accLvl).join } ∧
        (p.k = 0 → (t.array m).path = (s.array m).path) ∧
        (p.k ≠ 0 → ∃ it, (t.array m).path = (s.array m).path ++ [it] ∧ it.kind = .pass ∧ it.issue = s.pbeat ∧ it.word = w ∧
          it.idx = (s.array m).pc ∧ it.beat = 0 ∧ it.isVoid = (s.array m).inVoid) ∧
        { t.array m with pass := none, path := [], rows := [] } =
          { (s.array m).issued s.pbeat with pass := none, path := [], rows := [] }) ∧
      (∀ m, m ∉ s.members g → t.array m = s.array m) ∧ OnlyArraysAndChecks s t ∧ (s.unmarked → OnlyArrays s t)) ∧
  (∀ (g : ArrayId) (s : State) (w : BitVec 128), s.offers g 4 w → (∀ m ∈ s.members g, loadCheck s m w = none) →
    Answers (.loadacc g) s fun t =>
      (∀ m ∈ s.members g,
        let p := loadFields w
        let src := (effAddr (s.array m).abase.toNat p.addr (loopSel (s.array m).loops p.aEn p.aLvl).join (·.aStep)).toNat
        ∃ it, t.array m = { (s.array m).issued s.pbeat with path := (s.array m).path ++ [it] } ∧
          it.kind = .load ∧ it.issue = s.pbeat ∧
          it.acc = effAcc p.acc (loopSel (s.array m).loops p.accEn p.accLvl).join ∧ it.load.length = 64 ∧
          (∀ i < p.m, ∀ j < p.n, it.load[8 * i + j]? = some
            (if p.fmt = 7 then BitVec.ofNat 32 (65536 * leNat (s.atStart.bytes (storeBase m + src + i * p.stride + 2 * j) 2))
             else BitVec.ofNat 32 (leNat (s.atStart.bytes (storeBase m + src + i * p.stride + 4 * j) 4)))) ∧
          (∀ i < 8, ∀ j < 8, p.m ≤ i ∨ p.n ≤ j → it.load[8 * i + j]? = some 0)) ∧
      (∀ m, m ∉ s.members g → t.array m = s.array m) ∧ OnlyArraysAndReports s t ∧ (s.unmarked → OnlyArrays s t)) ∧
  (∀ (g : ArrayId) (s : State) (w : BitVec 128), s.offers g 5 w → (∀ m ∈ s.members g, drainCheck s m w = none) →
    Answers (.drain g) s fun t =>
      (∀ m ∈ s.members g,
        let p := drainFields w
        let dst := (effAddr (s.array m).abase.toNat p.dst (loopSel (s.array m).loops p.dEn p.dLvl).join (·.dStep)).toNat
        let k := effAcc p.acc (loopSel (s.array m).loops p.accEn p.accLvl).join
        ∃ fl ws, t.array m = { ((s.array m).issued s.pbeat).raiseFlags s.sched fl with
            drains := (s.array m).drains ++ [{ due := s.pbeat + 7, writes := ws }] } ∧
          (p.fmt = 9 → fl = 0 ∧ ∀ i < p.m, ∀ j < p.n, ∀ q < 4,
            (storeBase m + dst + i * p.stride + 4 * j + q,
              BitVec.ofNat 8 ((((s.array m).atStart s.sched).accum k (8 * i + j)).toNat / 256 ^ q)) ∈ ws)) ∧
      (∀ m, m ∉ s.members g → t.array m = s.array m) ∧
      OnlyArraysAndReports s { t with freeCtr := s.freeCtr } ∧ ((drainFields w).entropy = 0 → t.freeCtr = s.freeCtr) ∧
      (s.unmarked → OnlyArrays s { t with freeCtr := s.freeCtr }))

/-- The later beats of a pass issue one by one; a pass beat takes its B record from its stream in beat t+8, and a record that
has not arrived raises `STREAM_UNDERRUN` at its `PASS` word; a stream fetches one line in an owned beat, and the line arrives. No byte of
memory changes (R79, R80, R126, R127, R129, R206). -/
def Obligations.PassBeatsAndStreamLinesAdvance : Prop :=
  (∀ (g : ArrayId) (s : State) (r : PassRun), s.runs = true → (s.array g).pass = some r →
    (s.array g).leader.toNat = g.val % 2048 → r.issued < r.total → r.start + r.issued ≤ s.pbeat →
    Answers (.passBeatIssue g) s fun t =>
      (∀ m ∈ s.members g, (t.array m).pass = (s.array m).pass.map (fun x => { x with issued := x.issued + 1 }) ∧
        (∀ x, (s.array m).pass = some x → (passFields x.word).k ≠ 0 →
          ∃ it, (t.array m).path = (s.array m).path ++ [it] ∧ it.kind = .pass ∧ it.issue = s.pbeat ∧ it.word = x.word ∧
            it.beat = x.issued ∧ it.acc = x.acc) ∧
        { t.array m with pass := none, path := [], rows := [] } = { s.array m with pass := none, path := [], rows := [] }) ∧
      (∀ m, m ∉ s.members g → t.array m = s.array m) ∧ OnlyArraysAndChecks s t ∧ (s.unmarked → OnlyArrays s t)) ∧
  (∀ (g : ArrayId) (s : State) (it : PathItem), s.runs = true →
    (s.array g).path.find? (fun it => it.kind == .pass && it.bRec.isNone && decide (it.issue + 8 ≤ s.pbeat)) = some it →
    let p := passFields it.word
    let st := SMap.get {} (s.array g).streams p.stream
    let need := recordBytes p (blockStarts (scaleBlock p.scale) (it.beat * dotLength p.fmtB) (dotLength p.fmtB)).length
    ((streamBytes g st s.pbeat).length < need → exec (.passBroadcast g) s = .next (s.faultWord 0x0B g it.idx)) ∧
    (need ≤ (streamBytes g st s.pbeat).length → Answers (.passBroadcast g) s fun t =>
      SMap.get {} (t.array g).streams p.stream = st.consume need s.pbeat ∧
      (it.isVoid = true → (t.array g).path = (s.array g).path.erase it ∧ OnlyArrays s t) ∧
      (it.isVoid = false →
        (∃ cols, cols.length = p.n ∧
          (t.array g).path = (s.array g).path.map fun x => if x = it then { it with bRec := some cols } else x) ∧
        (t.array g).gatedRowBeats = (s.array g).gatedRowBeats + BitVec.ofNat 32 (8 - (s.array g).driven)) ∧
      (∀ q, q ≠ p.stream → SMap.get {} (t.array g).streams q = SMap.get {} (s.array g).streams q) ∧
      { t.array g with streams := [], path := [], bScale := [], gatedRowBeats := 0 } =
        { s.array g with streams := [], path := [], bScale := [], gatedRowBeats := 0 } ∧
      (∀ m, m ≠ g → t.array m = s.array m) ∧ OnlyArraysAndReports s t)) ∧
  (∀ (g : ArrayId) (i : StreamId) (s : State) (d : StreamDesc) (fromNext : Bool),
    let st : StreamState := SMap.get {} (s.array g).streams i
    let line := ((s.array g).vbase.toNat + d.startLine.toNat + d.fetched * d.stride.toNat) % 131072
    s.runs = true → (s.array g).active = true → fetchDesc st = some (d, fromNext) → bitOf d.phaseMask (s.pbeat % 16) = true →
    d.issuedAt < s.pbeat → st.fetchedAt ≠ some s.pbeat → st.buf.length + (if st.freedAt = s.pbeat then st.freed else 0) < 32 →
    Answers (.streamFetch g i) s fun t =>
      (∃ l, SMap.get {} (t.array g).streams i =
          { st with cur := some { d with fetched := d.fetched + 1 }, next := if fromNext then none else st.next
                    buf := st.buf ++ [l], fetchedAt := some s.pbeat } ∧
        l.line = line ∧
        ((s.array g).inVoid = false → l.data = s.bytes (vaultBase g + 96 * line) 96 ∧ l.arriveAt = s.pbeat + 23 ∧ l.arrived = false) ∧
        ((s.array g).inVoid = true → l.data = List.replicate 96 0 ∧ l.arrived = true)) ∧
      (∀ q, q ≠ i.val → SMap.get {} (t.array g).streams q = SMap.get {} (s.array g).streams q) ∧
      { t.array g with streams := [] } = { s.array g with streams := [] } ∧
      (∀ m, m ≠ g → t.array m = s.array m) ∧ OnlyArraysAndChecks s t ∧ (s.unmarked → OnlyArrays s t)) ∧
  (∀ (g : ArrayId) (i : StreamId) (s : State) (before after : List StreamLine) (l : StreamLine), s.runs = true →
    (SMap.get {} (s.array g).streams i).buf = before ++ l :: after →
    (∀ x ∈ before, x.arrived = true ∨ s.pbeat < x.arriveAt) → l.arrived = false → l.arriveAt ≤ s.pbeat →
    Answers (.streamLineArrival g i) s fun t =>
      SMap.get {} (t.array g).streams i =
        { SMap.get {} (s.array g).streams i with buf := before ++ { l with arrived := true } :: after } ∧
      (∀ q, q ≠ i.val → SMap.get {} (t.array g).streams q = SMap.get {} (s.array g).streams q) ∧
      { t.array g with streams := [] } = { s.array g with streams := [] } ∧
      (∀ m, m ≠ g → t.array m = s.array m) ∧ OnlyArrays s t)

/-- The first item of the accumulator path that has come to the end of beat t+15 is written: +0 or the loaded values in every
element, or each cell below M and N of a pass beat; no other accumulator element changes, and the accumulators of the start of the
beat are kept for its drains. A drain that is due leaves its bytes in memory and changes no other byte, nor what memory held at
the start of the beat (R63-R67, R76, R80, R108, R109, R131). -/
def Obligations.PathItemsAndDrainsAreWritten : Prop :=
  (∀ (g : ArrayId) (s : State), s.runs = true →
    (∃ it ∈ (s.array g).path, it.issue + 15 ≤ s.pbeat ∧ (it.kind = .pass → it.bRec ≠ none)) →
    Answers (.accumulatorWrite g) s fun t => ∃ it ∈ (s.array g).path, it.issue + 15 ≤ s.pbeat ∧
      (∀ x ∈ (s.array g).path, x.issue + 15 ≤ s.pbeat → (x.kind = .pass → x.bRec ≠ none) → pathBefore x it = false) ∧
      (t.array g).path = (s.array g).path.erase it ∧
      (∀ k e, k ≠ it.acc → e < 64 → (t.array g).accum k e = (s.array g).accum k e) ∧
      (it.kind = .zero → ∀ e < 64, (t.array g).accum it.acc e = 0) ∧
      (it.kind = .load → ∀ e < 64, (t.array g).accum it.acc e = it.load[e]?.getD 0) ∧
      (it.kind = .pass → ∀ i < 8, ∀ j < 8, (t.array g).accum it.acc (8 * i + j) =
        if i < (passFields it.word).m ∧ j < (passFields it.word).n then
          (cellOf (passFields it.word) it (it.bRec.getD []) ((s.array g).accum it.acc (8 * i + j)) i j).1
        else (s.array g).accum it.acc (8 * i + j)) ∧
      (∀ k e, ((t.array g).atStart s.sched).accum k e = ((s.array g).atStart s.sched).accum k e) ∧
      (∃ fl, (it.kind ≠ .pass → fl = 0) ∧
        { t.array g with acc := [], path := [], accStart := none } =
          { (s.array g).raiseFlags s.sched fl with acc := [], path := [], accStart := none }) ∧
      (∀ m, m ≠ g → t.array m = s.array m) ∧ OnlyArrays s t) ∧
  (∀ (g : ArrayId) (s : State) (d : DrainItem) (ds : List DrainItem), s.runs = true → (s.array g).drains = d :: ds →
    d.due ≤ s.pbeat → (∀ w ∈ d.writes, SMap.get 0 s.t0Writes w.1 ≤ 3) →
    Answers (.drainOutputWrite g) s fun t =>
      t.array g = { s.array g with drains := ds } ∧ (∀ m, m ≠ g → t.array m = s.array m) ∧
      (∀ a b, (a, b) ∈ d.writes → (∀ c, (a, c) ∈ d.writes → c = b) → t.byte a = b) ∧
      (∀ a, (∀ b, (a, b) ∉ d.writes) → t.byte a = s.byte a) ∧ (∀ a, t.atStart.byte a = s.atStart.byte a) ∧
      { t with arrays := s.arrays, mem := s.mem, ecc := s.ecc, t0Writes := s.t0Writes, beatMem := s.beatMem, dieMem := s.dieMem,
               memStacks := s.memStacks } = s)

/-- Every wall beat counts itself, the schedule when it is live and each of its causes, and the next beat is held exactly for a
demand of 16 wall beats earlier, as the hold words bring it, or by the brake pattern (R35, R36, R38, R50); with no wrong hold word that is
the demand as it stood. Where hold controllers would disagree the beat is held (the model's choice, log entry 89). A wait counts down the held beats since its own
demand can hold (R44). Steps of signal counters take effect (R120), and arrays drive the level of R93 in a live beat and keep theirs,
raised by one row at most, in a held one (R98; a hold too short for its first bullet: log entry 102). No byte of memory and no engine
changes; records and a fault hold come only from what loads and combines read (R217). -/
def Obligations.EveryBeatCountsItselfAndItsCauses : Prop :=
  (∀ s : State, s.beat.aligned = false →
    let next (z : Option Nat) : State := { s with beat := { s.beat with provBeats := s.beat.provBeats + 1, zeroMark := z } }
    (s.power.stage ≠ 2 ∨ s.power.clocks = false → exec .holdDemandArrival s = .next s) ∧
    (s.power.stage = 2 → s.power.clocks = true →
      (∀ m, s.beat.zeroMark = some m → s.beat.provBeats < m + 16 → exec .holdDemandArrival s = .next (next (some m))) ∧
      (∀ m, s.beat.zeroMark = some m → m + 16 ≤ s.beat.provBeats → exec .holdDemandArrival s = .next s) ∧
      (s.beat.zeroMark = none →
        ((∀ l < 10, (s.linkEnd (2 * l)).state = 4) → (s.provWall 0 + 17) % 1024 = 0 →
          exec .holdDemandArrival s = .next (next (some (s.beat.provBeats + 1)))) ∧
        ((∃ l < 10, (s.linkEnd (2 * l)).state ≠ 4) ∨ (s.provWall 0 + 17) % 1024 ≠ 0 → exec .holdDemandArrival s = .next (next none))))) ∧
  ∀ s : State, s.beat.aligned = true → Answers .holdDemandArrival s fun t =>
    let next := s.wall + 1
    let d := s.seenDemands (next - 16)
    ((∀ e ∈ s.ends, e.2.holdErrs = []) → d = s.demandsAt (next - 16)) ∧
    t.beat.wallBeat = s.beat.wallBeat + 1 ∧
    t.beat.schedBeat = (if s.beat.held then s.beat.schedBeat else s.beat.schedBeat + 1) ∧
    t.beat.heldWait = (if s.beat.causeWait then s.beat.heldWait + 1 else s.beat.heldWait) ∧
    t.beat.heldBrake = (if s.beat.causeBrake then s.beat.heldBrake + 1 else s.beat.heldBrake) ∧
    t.beat.heldShift = (if s.beat.causeShift then s.beat.heldShift + 1 else s.beat.heldShift) ∧
    t.beat.heldHub = (if s.beat.causeHub then s.beat.heldHub + 1 else s.beat.heldHub) ∧
    t.beat.causeWait = (decide (16 ≤ next) && d.wait) ∧ t.beat.causeShift = (decide (16 ≤ next) && d.shift) ∧
    t.beat.causeHub = (decide (16 ≤ next) && d.hub) ∧ t.beat.causeBrake = brakeHolds (s.brakeAt next) next ∧
    t.beat.held = (t.beat.causeWait || t.beat.causeBrake || t.beat.causeShift || t.beat.causeHub) ∧
    t.beat.history = s.demandsNow :: s.beat.history.take 15 ∧
    t.beat.waits = s.beat.waits.map (fun w =>
      if s.beat.held = true ∧ w.sampleWall + 16 ≤ s.wall then { w with heldLeft := w.heldLeft - 1 } else w) ∧
    t.beat.brakeN = s.beat.brakeN ∧ t.beat.gear = s.beat.gear ∧ t.beat.hubDemand = s.beat.hubDemand ∧
    t.beat.shiftDemand = s.beat.shiftDemand ∧ t.beatMem = none ∧
    t.beat.routed = (if s.beat.held = false ∨ s.prog.running = false then s.beat.routed + 1 else s.beat.routed) ∧
    (SMap.wf {} s.counters = true → (∀ d, SMap.wf 0 (s.dieCounters d).steps = true) → ∀ d,
      (∀ id, SMap.get 0 (t.dieCounters d).signal id = SMap.get 0 (s.dieCounters d).signal id + SMap.get 0 (s.dieCounters d).steps id) ∧
      { t.dieCounters d with signal := [] } = { s.dieCounters d with signal := [], steps := [] }) ∧
    (SMap.wf {} s.arrays = true → ∀ g,
      (t.beat.held = false → 8 ≤ t.pbeat →
        (t.array g).driven = (s.array g).level (t.pbeat - 8) (s.array g).lastD ∧
        (t.array g).dummy = (t.array g).driven - (s.array g).rowsAt (t.pbeat - 8)) ∧
      (t.beat.held = true → (s.array g).power = 3 → (t.array g).driven = 0) ∧
      (t.beat.held = true → (s.array g).power ≠ 3 →
        (s.array g).driven ≤ (t.array g).driven ∧ (t.array g).driven ≤ (s.array g).driven + 1) ∧
      (t.array g).acc = (s.array g).acc) ∧
    ((∀ e ∈ s.spokes, e.2.loads = []) → (∀ d < 8, (s.derailleur d).sumsPoison t.pbeat = false) → t.spokes = s.spokes ∧ t.beat.faultHold = s.beat.faultHold ∧ t.hubLog = s.hubLog ∧
      t.dieMem = s.dieMem) ∧
    { OnlyReportsOf s t with arrays := s.arrays, spokes := s.spokes, counters := s.counters, t0Writes := s.t0Writes
                             beatMem := s.beatMem, freeCtr := s.freeCtr } = s

/-- A unit's wait is released when the counter copy is at or above its target; it faults with `WAIT_TIMEOUT` when its held
beats have run out with the counter short, and with `WAIT_ABORTED` when the chunk counter's abort flag is set. In each case
its demand drops; a fault puts the package into a fault hold with its record (R40, R41, R44-R46). -/
def Obligations.WaitsEndByReleaseTimeoutOrAbort : Prop :=
  (∀ (u : WaitUnit) (s : State) (w : WaitState), s.waitOf u = some w →
    atOrAbove (s.counterValue w.die.val w.counter) w.target = true → s.waitAborts w = false →
    exec (.waitRelease u) s = .next { s with beat := { s.beat with waits := s.beat.waits.filter fun x => x.unit != u } }) ∧
  (∀ (u : WaitUnit) (s : State) (w : WaitState), s.waitOf u = some w → w.heldLeft = 0 →
    atOrAbove (s.counterValue w.die.val w.counter) w.target = false →
    Answers (.waitTimeout u) s fun t => t.beat.waits = s.beat.waits.filter (fun x => x.unit != u) ∧ WaitFaulted s t 0x02 u) ∧
  (∀ (u : WaitUnit) (s : State) (w : WaitState), s.waitOf u = some w → s.waitAborts w = true →
    Answers (.waitAborted u) s fun t => t.beat.waits = s.beat.waits.filter (fun x => x.unit != u) ∧ WaitFaulted s t 0x03 u)

/-- A servant counter's value, and a chunk counter's abort flag, appear in the beat-domain copy of one die, those of a chunk counter in all
eight at once, and nothing else changes; of the brake values that wait, each until the first frame that starts 16 wall beats after it was set, the last one due takes
effect; and the clearing of a fault hold whose stop has completed drops the demands of the dies alone (R42, R45, R46, R50, R384). In a
fault hold that is in force the program is stopped; that the stop drops passes, drains, loads and stores in flight, and leaves arrays
parked and spokes halted with nothing of the program in them, is the model's choice (log entry 16). -/
def Obligations.CopiesBrakeAndFaultHolds : Prop :=
  (∀ (d : DieId) (i : ServantCounterId) (s : State), Answers (.servantCounterCrossing d i) s fun t =>
    let reached (q : Nat) : Prop := q = d.val ∨ (0x20 ≤ i.val ∧ i.val < 0x60 ∧ q < 8)
    (∀ q, reached q → (∀ id, t.counterCopy q id = if id = 0x100 + i.val then s.servantValue d i else s.counterCopy q id) ∧
      ∀ n < 64, t.abortCopyBit q n = if i.val = 0x20 + n then bitOf s.abort n else s.abortCopyBit q n) ∧
    (∀ q, ¬reached q → t.dieCounters q = s.dieCounters q) ∧ { t with counters := s.counters } = s) ∧
  (∀ (s : State) (due rest : List (BitVec 4 × Nat)) (n : BitVec 4) (w : Nat), s.beat.brakePending = due ++ (n, w) :: rest →
    (∀ x ∈ due ++ [(n, w)], x.2 + 16 ≤ s.wall / 16 * 16) → (∀ x ∈ rest, s.wall / 16 * 16 < x.2 + 16) →
    exec .brakeApply s = .next { s with beat := { s.beat with brakeN := n, brakePending := rest } }) ∧
  (∀ s : State, s.beat.faultHold = true → s.beat.stopped = true →
    exec .faultHoldClear s = .next { s with beat :=
      { s.beat with faultHold := false, faultDemands := 0, faultAt := none, machineCheck := false, stopped := false } }) ∧
  (∀ s : State, s.beat.faultHold = true → s.beat.stopped = false → s.prog.running = true → s.stopReady = true →
    Answers .programFault s fun t =>
      t.prog.running = false ∧ t.beat.faultHold = true ∧ t.beat.stopped = true ∧ t.beat.waits = [] ∧ t.beat.hubDemand = false ∧
      t.beat.faultDemands = s.beat.faultDemands ∧
      (∀ e ∈ t.arrays, e.2.power = 2 ∧ e.2.driven = 0 ∧ e.2.path = [] ∧ e.2.drains = [] ∧ e.2.pass = none) ∧
      (∀ e ∈ t.spokes, e.2.mode = 0 ∧ e.2.stores = [] ∧ e.2.loads = []) ∧
      (∀ k < 4, (t.engine k).open_ = []) ∧
      MemSameButAborts s t ∧ t.pending = s.pending ∧ { t.hub with openCmds := s.hub.openCmds, relayOut := s.hub.relayOut } = s.hub ∧
      t.settings = s.settings ∧ t.counters = s.counters ∧ t.mach = s.mach)

/-- In truing step 4 the counters of all eight dies start from zero in one live beat, 16 beats after zero_mark, once the ten links are
aligned; and program beat 0 is the first live beat at or after the start time whose `SCHED_BEAT` is a multiple of 256, from which waits on servant counters
count relative to their copies. A start whose cadence counter was not locked at its time, and one that would be refused by then (the
model's choice, log entry 98), starts nothing. Memory keeps its contents (R48, R101, R122, R410). -/
def Obligations.BeatZeroAndProgramBeatZero : Prop :=
  (∀ (s : State) (m : Nat), s.power.stage = 2 → s.power.truingFault = false → s.power.clocks = true → s.beat.aligned = false → (∀ l < 10, (s.linkEnd (2 * l)).state = 4) →
    s.beat.zeroMark = some m → s.beat.provBeats = m + 16 →
    exec .beatZero s = .next { s with
      power := { s.power with trainedAt := s.nowNs }
      beat := { s.beat with aligned := true, schedBeat := 0, wallBeat := 0, heldWait := 0, heldBrake := 0, heldShift := 0
                            heldHub := 0, held := false, causeWait := false, causeBrake := false, causeShift := false
                            causeHub := false, history := [] } }) ∧
  (∀ (s : State) (at_ : Word64), s.prog.startAt = some at_ → (at_ ≠ 0 → at_.toNat ≤ s.cadNs) →
    let locked : Prop := at_ ≠ 0 → s.prog.startLocked.getD s.mach.locked = true
    (¬locked ∨ s.startRefused = true → Answers .programBeatZero s fun t =>
      t.prog = { s.prog with startAt := none } ∧ t.mem = s.mem ∧ t.beat = s.beat ∧ t.arrays = s.arrays ∧ t.spokes = s.spokes) ∧
    (locked → s.startRefused = false → s.live = true → s.sched % 256 = 0 → s.beat.faultHold = false →
    Answers .programBeatZero s fun t =>
      t.prog = { s.prog with running := true, startAt := none, beat0 := s.beat.schedBeat } ∧ t.pbeat = 0 ∧
      (∀ e ∈ t.counters, e.2.base = e.2.copies) ∧ t.mem = s.mem ∧ t.arrays = s.arrays ∧ t.spokes = s.spokes ∧
      t.routers = SMap.update {} s.routers (fun _ r => { r with slotAt := none }) ∧ t.pending = s.pending ∧ t.beat = s.beat ∧ t.settings = s.settings))

/-- In a live beat a router executes its entry, once: every output to a neighbour or a far lane that names a source holding a
flit sends that flit, the flits at its inputs are gone, and no slot table changes; memory changes only where the entry writes or
grants servant traffic, and a router away from the lightplane dies changes nothing but routers, the derailleur, the queues of the
spoke, tier 0 and what servant traffic answers (R133-R136, R260). A source that holds no flit moves nothing: that is the model's reading
also where the entry writes through a transfer register (log entries 87, 103). -/
def Obligations.AnEntryMovesItsSourcesOnce : Prop :=
  ∀ (r : RouterId) (s : State), s.runs = true → (s.router r).slotAt ≠ some s.beat.routed →
    Answers (.chainlineSlot r) s fun t =>
      let e := s.slotEntry r
      (t.router r).slotAt = some s.beat.routed ∧ (∀ x ∈ (t.router r).inputs, s.sched < x.2.1) ∧
      (bitOf e 9 = false → ∀ (i : Nat) (q src q2 : PortName) (f : Flit) (r2 : Nat), slotOutputs[i]? = some q →
        entrySource e i = some src → s.programSource r src = some f →
        (meshNext r q = some (r2, q2) → (q2, s.sched + 1, f) ∈ (t.router r2).inputs) ∧
        (meshNext r q = none → farPort r q = some (r2, q2) → (q2, s.sched + 14, s.wall, f) ∈ (t.router r2).window)) ∧
      (bitOf e 9 = false → bitOf e 14 = false → t.mem = s.mem) ∧
      (∀ n, (t.router n).slots = (s.router n).slots ∧ (t.router n).period = (s.router n).period) ∧
      (∀ n, n ≠ r.val → (∀ q q2, meshNext r q ≠ some (n, q2) ∧ farPort r q ≠ some (n, q2)) → t.router n = s.router n) ∧
      ((∀ p ∈ edgePorts, onLightplane r p = false) →
        { OnlyReportsOf s t with routers := s.routers, derailleurs := s.derailleurs, spokes := s.spokes, mem := s.mem,
                                 ecc := s.ecc, t0Writes := s.t0Writes, beatMem := s.beatMem, ends := s.ends, fabs := s.fabs,
                                 channels := s.channels, localReqs := s.localReqs, hub := s.hub, engines := s.engines } = s)

/-- A flit of a compute-compute lane is the source at its lane in its 14th live beat; a servant flit of a lightplane die
enters the crossing FIFO of its lane, which holds 64, while the lane is free in the beat (R136, R137, R142, R255, R260, R274). -/
def Obligations.LaneFlitsReachTheirRouter : Prop :=
  (∀ (r : RouterId) (q : PortName) (s : State) (x : PortName × Nat × Nat × Flit), s.live = true →
    (s.router r).window.find? (fun x => x.1 == q && decide (x.2.1 ≤ s.sched)) = some x →
    Answers (.chaxelFlitPresent r q) s fun t =>
      t.router r = { s.router r with window := (s.router r).window.erase x
                                     inputs := (s.router r).inputs ++ [(q, s.sched, x.2.2.2)] } ∧
      (∀ n, n ≠ r.val → t.router n = s.router n) ∧ { t with routers := s.routers } = s) ∧
  (∀ (r : RouterId) (q : PortName) (f : Flit) (s : State), onLightplane r q = true →
    ((s.router r).fifoIn.filter fun x => x.port == q).length < 64 → s.crossingShut (.fab (Fin.ofNat 4 (r.val / 512))) = false →
    s.inwardFree r q = true →
    Answers (.lightplaneFifoInbound r q f) s fun t =>
      t.router r = { s.router r with
        fifoIn := (s.router r).fifoIn ++ [{ port := q, ready := 0, kind := if bitOf f.tag 8 then .write else .read, flit := f
                                            home := (r, q), sent := some s.wall }] } ∧
      (∀ n, n ≠ r.val → t.router n = s.router n) ∧ { t with routers := s.routers } = s)

/-- In its transit phases, in held beats and with no program every flit of a crossing advances one hop, and leaves after its last; a
waiting flit enters a track when the credit of its next place is held, the oldest of its dies first, at most eight in a beat, and a
fabric unit whose path begins here sends its oldest flit while it holds a credit (R142-R144, R260, R323). A flit that has been 14 wall
beats on its link reaches the transit buffer, from the lightplane die that sent it or from the crossing before; at the end of a path the
fabric unit takes the flits of its dies in order; and a place that is free again returns one credit on the reverse direction, in a beat
in which the crossing moves (R143, R144, R260, R274, R323). The model's own choices: which track a waiting flit takes and that a pair of
dies keeps its order (log entry 78), and that a crossing waits a beat where a lane it shares is taken (log entry 97). -/
def Obligations.TransitFlitsMoveUnderCredits : Prop :=
  (∀ (x : CrossingId) (dir : Bool) (s : State), (s.exitFree (x.val, dir) = false ∨
      (s.crossing (wayNo (x.val, dir))).movedAt = some s.wall ∨ (s.prog.running = true ∧ s.beat.held = false ∧
        ¬((crossingOf x).first ≤ s.sched % 16 ∧ s.sched % 16 ≤ (crossingOf x).last))) → exec (.transitMove x dir) s = .next s) ∧
  (∀ (x : CrossingId) (dir : Bool) (s : State),
    (s.prog.running = false ∨ s.beat.held = true ∨
      ((crossingOf x).first ≤ s.sched % 16 ∧ s.sched % 16 ≤ (crossingOf x).last)) →
    (s.crossing (wayNo (x.val, dir))).movedAt ≠ some s.wall → s.exitFree (x.val, dir) = true →
    Answers (.transitMove x dir) s fun t =>
      let me := (x.val, dir)
      let n := wayNo me
      let c := crossingOf x
      let old := s.crossing n
      let new := t.crossing n
      new.movedAt = some s.wall ∧
      (∀ y ∈ old.onTrack, if c.hops y.track ≤ y.at_ + 1 then { y with at_ := s.wall + 14 } ∈ new.leaving else { y with at_ := y.at_ + 1 } ∈ new.onTrack) ∧
      (∀ y ∈ old.leaving, y ∈ new.leaving) ∧
      (∃ j ≤ 8, new.buffer.length + j = old.buffer.length ∧ new.freed = old.freed + j ∧ new.buffer.Sublist old.buffer) ∧
      (∀ y, s.exitLive c dir = true → s.nextFlit me = some y → s.holdsCredit me y.way = true →
        (if c.hops 0 ≤ 1 then { y with track := 0, at_ := s.wall + 14 } ∈ new.leaving else { y with track := 0, at_ := 1 } ∈ new.onTrack) ∧
        new.buffer.length < old.buffer.length ∧
        (∀ m, nextWay me y.way = some m → (s.crossing m).used < (t.crossing m).used) ∧
        (nextWay me y.way = none → old.exitUsed < new.exitUsed)) ∧
      (∀ y, s.nextFlit me = some y → y ∈ old.buffer ∧ ∀ z ∈ old.buffer, z.way = y.way → y.no ≤ z.no) ∧
      (s.exitLive c dir = false ∨ s.nextFlit me = none ∨ (∃ y, s.nextFlit me = some y ∧ s.holdsCredit me y.way = false) →
        new.buffer = old.buffer) ∧
      (∀ d q f, s.entryLive c dir = true → s.entryFree me = true → old.used < 32 →
        (firstSenders me).find? (fun p => !(SMap.get [] (s.fab p.1).transitOut p.2).isEmpty && !s.crossingShut (.fab (Fin.ofNat 4 p.1))) = some (d, q) →
        (SMap.get [] (s.fab d).transitOut q).head? = some f →
        { way := 4 * d + q, no := (s.fab d).transitNo, track := 0, at_ := s.wall + 14, flit := f } ∈ new.coming ∧ old.used < new.used) ∧
      (s.entryLive c dir = false ∨ s.entryFree me = false → new.coming = old.coming ∧ t.fabs = s.fabs) ∧
      (∀ y, y ≠ n → { t.crossing y with used := 0 } = { s.crossing y with used := 0 }) ∧
      (∀ k, { t.fab k with transitOut := [], transitNo := 0 } = { s.fab k with transitOut := [], transitNo := 0 }) ∧
      { t with crossings := s.crossings, fabs := s.fabs } = s) ∧
  (∀ (x : CrossingId) (dir : Bool) (f : Flit) (s : State) (y : TransitFlit),
    (s.crossing (wayNo (x.val, dir))).coming.find? (fun y => y.flit == f && decide (y.at_ ≤ s.wall)) = some y →
    Answers (.transitFlitArrival x dir f) s fun t =>
      let n := wayNo (x.val, dir)
      t.crossing n = { s.crossing n with coming := (s.crossing n).coming.erase y, buffer := (s.crossing n).buffer ++ [y] } ∧
      (∀ k, k ≠ n → t.crossing k = s.crossing k) ∧ { t with crossings := s.crossings } = s) ∧
  (∀ (x : CrossingId) (dir : Bool) (f : Flit) (s : State),
    let n := wayNo (x.val, dir)
    let from_ (m : Nat) (y : TransitFlit) : Prop := y ∈ (s.crossing m).leaving ∧ y.flit = f ∧ y.at_ ≤ s.wall ∧
      beforeIn (x.val, dir) (transitPath (y.way / 4) (y.way % 4)) = some (m / 2, m % 2 == 1)
    (∀ y ∈ (s.crossing n).coming, y.flit = f → s.wall < y.at_) → (∃ m < 24, ∃ y, from_ m y) →
    Answers (.transitFlitArrival x dir f) s fun t => ∃ m < 24, ∃ y, from_ m y ∧
      t.crossing m = { s.crossing m with leaving := (s.crossing m).leaving.erase y } ∧
      t.crossing n = { s.crossing n with buffer := (s.crossing n).buffer ++ [y] } ∧
      (∀ k, k ≠ m → k ≠ n → t.crossing k = s.crossing k) ∧ { t with crossings := s.crossings } = s) ∧
  (∀ (x : CrossingId) (dir : Bool) (s : State),
    let n := wayNo (x.val, dir)
    let c := crossingOf x
    let returns : Prop := 0 < (s.crossing n).freed ∧ s.crossingMoves c = true ∧ s.entryLive c dir = true
    Answers (.transitCreditReturn x dir) s fun t =>
      (∀ y, s.arrivedFlit n = some y →
        (y ∈ (s.crossing n).leaving ∧ y.at_ ≤ s.wall ∧ nextWay (x.val, dir) y.way = none ∧ s.crossingShut (.fab (Fin.ofNat 4 (y.way % 4))) = false ∧
          ∀ z ∈ (s.crossing n).leaving ++ (s.crossing n).onTrack, z.way = y.way → y.no ≤ z.no) ∧
        (t.crossing n).leaving = (s.crossing n).leaving.erase y ∧ (∀ k, k ≠ y.way % 4 → t.fab k = s.fab k) ∧
        ∀ e, edgeEnd c.site (c.exit dir) = some e → ∃ l ∈ trackLanes, ∃ b, (l, b, some (24 + n)) ∈ (t.linkEnd e).credits) ∧
      (s.arrivedFlit n = none → t.fabs = s.fabs ∧ (t.crossing n).leaving = (s.crossing n).leaving) ∧
      (returns → (t.crossing n).freed = (s.crossing n).freed - 1 ∧
        ∀ e, edgeEnd c.site (c.entry dir) = some e → ∃ l ∈ trackLanes, ∃ b, (l, b, some n) ∈ (t.linkEnd (e ^^^ 1)).credits) ∧
      (¬returns → (t.crossing n).freed = (s.crossing n).freed) ∧
      { t.crossing n with leaving := [], freed := 0 } = { s.crossing n with leaving := [], freed := 0 } ∧
      (∀ k, k ≠ n → t.crossing k = s.crossing k) ∧
      { t with crossings := s.crossings, fabs := s.fabs, ends := s.ends } = s)


/-- A servant flit alone at a router moves through its output: to the neighbour for the next beat, over a Chaxel link in 14 beats; a
write that reaches L of its place leaves its bytes there under the chainline's rank and is answered, a read request waits there, and
an access that the map, a running program or a run forbids is answered with an error. The line of a waiting read leaves as data in the
next granted beat, and data that reach their requester answer it. Nothing else of memory changes (R22, R25, R109, R136, R139, R142, R177,
R178, R260). Which output a flit takes, along its row and then its column while no program runs, and that a lane is 14 beats long also in
asynchronous mode, is the model's choice (log entry 10). -/
def Obligations.ServantFlitsMoveAndAreServed : Prop :=
  (∀ (r : RouterId) (s : State) (x : ServFlit) (q : PortName) (c : Instr), (s.laneBeats r).oneFlit r x q →
    (c = .servantChainlineRequest r ∨ c = .chainlineSlot r) →
    let s1 := s.laneBeats r
    Answers c s fun t =>
      (t.router r).slotAt = some s.beat.routed ∧ (t.router r).servant = [] ∧
      (∀ r2 q2, meshNext r q = some (r2, q2) ∨ meshNext r q = none ∧ farPort r q = some (r2, q2) → t.mem = s1.mem ∧
        (t.router r2).servant = (s1.router r2).servant ++
          [{ x with port := q2, ready := s.beat.routed + (if (meshNext r q).isSome then 1 else 14)
                    sent := if (meshNext r q).isSome then none else some s.wall }]) ∧
      (q = .l → x.kind ≠ .data → ∀ a, tagPlace r x.flit.tag = some a →
        (s1.servantError (x.kind == .write) (x.place a).1 (x.place a).2 = true → t.mem = s1.mem ∧ (t.router r).request = none ∧
          ∀ y, x.req = some y → Answered s1 t y 0x10 []) ∧
        (s1.servantError (x.kind == .write) (x.place a).1 (x.place a).2 = false →
          (x.kind = .read → t.mem = s1.mem ∧ (t.router r).request = some { x with port := .l, ready := s.beat.routed + 1 }) ∧
          (x.kind = .write → (t.router r).request = none ∧ (∀ y, x.req = some y → Answered s1 t y 0 []) ∧
            (∀ i, i < (x.place a).2 → SMap.get 0 s1.t0Writes ((x.place a).1 + i) ≤ 2 → x.span.1 + i < 64 →
              t.byte ((x.place a).1 + i) = ((flitBytes x.flit)[x.span.1 + i]?.map (·.1)).getD 0) ∧
            ∀ b, b < (x.place a).1 ∨ (x.place a).1 + (x.place a).2 ≤ b → t.byte b = s1.byte b))) ∧
      (q = .v → t.mem = s1.mem ∧ ∀ y, x.kind = .data → x.req = some y → servesOwner r q y.owner = true → Answered s1 t y 0 x.data)) ∧
  (∀ (r : RouterId) (s : State) (x : ServFlit) (a : Nat), s.prog.running = false → s.beat.aligned = true →
    (s.router r).slotAt ≠ some s.beat.routed → (∀ p ∈ edgePorts, onLightplane r p = false) →
    (s.router r).servant = [] → (s.router r).fifoIn = [] → (∀ k, SMap.get [] s.localReqs k = []) →
    (s.router r).request = some x → x.ready ≤ s.beat.routed → tagPlace r x.flit.tag = some a →
    let y : ServFlit := { x with kind := .data, flit := mkFlit (s.readStart a 64).1 x.flit.tag }
    s.reservedNow r (y.wants r) = false → ∀ r2 q2, meshNext r (y.wants r) = some (r2, q2) → Answers (.servantChainlineRequest r) s fun t =>
      (t.router r).request = none ∧ t.mem = s.mem ∧
      (t.router r2).servant = (s.router r2).servant ++ [{ y with port := q2, ready := s.beat.routed + 1, sent := none }]) ∧
  (∀ (r : RouterId) (s : State), s.runs = true → bitOf (s.slotEntry r) 9 = false → (s.router r).slotAt ≠ some s.beat.routed →
    exec (.servantChainlineRequest r) s = .next (s.laneBeats r)) ∧
  (∀ (r : RouterId) (s : State), (∀ p ∈ edgePorts, onLightplane r p = false) → s.laneBeats r = s)
/-- A vault pays up to g owed refresh operations in a refresh beat, or in a servant slot that refresh takes first, and uses its slot of
the beat; no byte of memory changes (R208-R210, R213). Every 64 us a vault's scrubber reads its next line in a servant slot, and a line
with a single-bit error goes back corrected in the next one; the bytes of memory stay as they are (R215). -/
def Obligations.RefreshAndScrubbingUseServantSlots : Prop :=
  (∀ (g : ArrayId) (s : State),
    (s.vaultSlot g = .refresh ∨ (s.vaultSlot g = .servant ∧ s.refreshFirst g = true)) →
    Answers (.refreshOp g) s fun t =>
      t.vault g = { s.vault g with paid := (s.vault g).paid + min (2 ^ s.beat.gear.toNat) (s.vaultDebt g), slotAt := some s.wall } ∧
      (∀ m, m ≠ g.val → t.vault m = s.vault m) ∧ { t with vaults := s.vaults } = s) ∧
  (∀ (g : ArrayId) (s : State), s.scrubSlot g = true → s.scrubDue g = true → (s.vault g).writeback = none →
    Answers (.scrubRead g) s fun t =>
      t.vault g = { s.vault g with
        scrubLine := (s.vault g).scrubLine + 1, slotAt := some s.wall
        scrubAt := some ((s.vault g).scrubAt.getD ((s.dmem (g.val / 2048)).servingFrom + 64000) + 64000)
        writeback := if (s.singles g (s.vault g).scrubLine.toNat) = [] then none else some (s.vault g).scrubLine.toNat } ∧
      (∀ m, m ≠ g.val → t.vault m = s.vault m) ∧
      { t with vaults := s.vaults, dieMem := s.dieMem, memStacks := s.memStacks } = s) ∧
  (∀ (g : ArrayId) (s : State) (line : Nat), s.scrubSlot g = true → (s.vault g).writeback = some line →
    Answers (.scrubWriteback g) s fun t =>
      t.vault g = { s.vault g with writeback := none, slotAt := some s.wall } ∧ (∀ m, m ≠ g.val → t.vault m = s.vault m) ∧
      (∀ i < 12, s.mark (vaultBase g + 96 * line + 8 * i) = some .single → t.mark (vaultBase g + 96 * line + 8 * i) = none) ∧
      (∀ a, s.mark a ≠ some .single → t.mark a = s.mark a) ∧
      { t with vaults := s.vaults, ecc := s.ecc } = s)

/-- A servant slot serves one line of the oldest request of a vault: whole words at once, part of a word or an atomic operation in two
slots, a read and then the merged write; the last line answers its owner. Only the bytes that the line stores change (R205, R211,
R344). -/
def Obligations.VaultSlotsServeTheOldestRequest : Prop :=
  ∀ (g : ArrayId) (s : State) (q : ServantReq) (rest : List ServantReq),
    (s.vault g).queue = q :: rest → s.vaultSlot g = .servant → s.refreshFirst g = false →
    ((s.vault g).merging = true ∨ ((s.vault g).writeback = none ∧ s.scrubDue g = false)) →
    (q.write = true → q.data.length = q.len ∧ q.poison.length = q.len) →
    Answers (.vaultServantAccess g) s fun t =>
      let k := linePart g q
      let read := (s.readMem q.addr k).1
      (t.vault g).slotAt = some s.wall ∧ (∀ m, m ≠ g.val → t.vault m = s.vault m) ∧ read.map (·.1) = s.bytes q.addr k ∧
      { t with vaults := s.vaults, mem := s.mem, ecc := s.ecc, channels := s.channels, fabs := s.fabs, dieMem := s.dieMem
               memStacks := s.memStacks, hub := s.hub, engines := s.engines } = s ∧
      (if mergesAt g q = true ∧ (s.vault g).merging = false then
        t.vault g = { s.vault g with merging := true, slotAt := some s.wall } ∧ t.mem = s.mem ∧ NoAnswer s t
       else
        (∀ a, q.atomic = some a → (t.vault g).queue = rest ∧ (t.vault g).merging = false ∧ AtomicServed s t q a (s.readMem q.addr q.len).1) ∧
        (q.atomic = none →
          (q.write = true → Wrote s t q.addr (q.data.take k) ∧ (t.vault g).merging = false) ∧
          (q.write = false → t.mem = s.mem) ∧
          (q.len ≤ k → (t.vault g).queue = rest ∧
            (q.write = true → Answered s t q 0 []) ∧ (q.write = false → Answered s t q 0 (q.got ++ read))) ∧
          (k < q.len → NoAnswer s t ∧ ∃ q', (t.vault g).queue = q' :: rest ∧ RestOf q q' k ∧
            q'.got = if q.write then q.got else q.got ++ read)))

/-- A ready HBM4 stack reads or writes one 64-byte block of its oldest request; after an interface error it tries again three
times. A block read whose report is uncorrectable, or that holds poison, counts in `STK_UE` and delivers poison, a corrected one counts
in `STK_CE`; a write leaves its block poisoned or good whole. Only the bytes of the request in that block change. A stack that is not
ready answers with an error (R225, R228, R233, R344, Table 7.8). That a stack takes its oldest request first (log entry 14), and that a
write of part of a block that holds poison leaves the block poisoned (log entry 51), are the model's choices. -/
def Obligations.StackAccessesMoveOneBlock : Prop :=
  ∀ (t : Fin 16) (rep : AccessReport) (s : State) (q : ServantReq) (rest : List ServantReq),
    (s.stk t).queue = q :: rest → s.inDomainReset (.stk t) = false →
    (q.write = true → q.data.length = q.len ∧ q.poison.length = q.len) →
    Answers (.stackAccess t rep) s fun u =>
      let k := s.stk t
      let n := min q.len (64 - q.addr % 64)
      let block := q.addr / 64 * 64
      let retry : Prop := rep = .interfaceError ∧ q.tries < 3
      let failed : Bool := rep == .interfaceError
      let reads : Bool := !q.write || decide (n < 64)
      let bad : Bool := reads && (s.blockBad block || rep == .uncorrectable)
      let read := (s.bytes q.addr n).map fun b => (b, bad || failed)
      (∀ m, m ≠ t.val → u.stk m = s.stk m) ∧
      { u with memStacks := s.memStacks, mem := s.mem, ecc := s.ecc, channels := s.channels, fabs := s.fabs, hub := s.hub
               engines := s.engines } = s ∧
      (k.state ≠ 2 → u.stk t = { k with queue := rest } ∧ u.mem = s.mem ∧ u.ecc = s.ecc ∧ Answered s u q 0x10 []) ∧
      (k.state = 2 → retry → u.stk t = { k with queue := { q with tries := q.tries + 1 } :: rest, retry := k.retry + 1 } ∧
        u.mem = s.mem ∧ u.ecc = s.ecc ∧ NoAnswer s u) ∧
      (k.state = 2 → ¬retry →
        (u.stk t).ue = (if bad && !failed then k.ue + 1 else k.ue) ∧
        (u.stk t).ce = (if reads = true ∧ rep = .corrected ∧ bad = false then k.ce + 1 else k.ce) ∧
        (u.stk t).rowHit + (u.stk t).rowMiss = k.rowHit + k.rowMiss + 1 ∧
        (∀ a, q.atomic = some a → AtomicServed s u q a read) ∧
        (q.atomic = none → q.write = true → Wrote s u q.addr (q.data.take n) ∧
          ∀ i < 8, u.mark (block + 8 * i) = if failed || bad || (q.poison.take n).any id then some .poison else none) ∧
        (q.atomic = none → q.write = false → u.mem = s.mem ∧ u.ecc = s.ecc) ∧
        (q.len ≤ n → (u.stk t).queue = rest ∧ (q.atomic = none → q.write = true → Answered s u q 0 []) ∧
          (q.atomic = none → q.write = false → Answered s u q 0 (q.got ++ read))) ∧
        (q.atomic = none → n < q.len → NoAnswer s u ∧ ∃ q', (u.stk t).queue = q' :: rest ∧ RestOf q q' n ∧ q'.tries = 0 ∧
          (q.write = false → q'.got = q.got ++ read)))

/-- A capacity port turns at boundaries of 128 ns toward the requests that wait, and after 8 ns moves one 32-byte flit of the
oldest request of its direction with a CRC-16; a flit whose CRC fails is sent again up to four times, and then its data, or the
granule that it writes, is poisoned. An undisturbed flit arrives as it was sent. Only the bytes of the flit change (R229, R230). That
a port takes the oldest request of its direction, and the order and initial value of the CRC-16, are the model's choices (log entry
14). -/
def Obligations.CapacityPortsTurnAndMoveFlits : Prop :=
  (∀ (t : Fin 16) (s : State), (s.stk (16 + t.val)).state = 2 → (s.stk (16 + t.val)).turnAt + 128 ≤ s.nowNs →
    s.inDomainReset (.cap t) = false →
    Answers (.capTurn t) s fun u =>
      let k := s.stk (16 + t.val)
      ((∀ q ∈ k.queue, q.write = true) → k.queue ≠ [] → (u.stk (16 + t.val)).dirWrite = true) ∧
      ((∀ q ∈ k.queue, q.write = false) → k.queue ≠ [] → (u.stk (16 + t.val)).dirWrite = false) ∧
      (k.queue = [] → (u.stk (16 + t.val)).dirWrite = k.dirWrite) ∧
      ((∃ q ∈ k.queue, q.write = true) → (∃ q ∈ k.queue, q.write = false) → (u.stk (16 + t.val)).dirWrite = !k.dirWrite) ∧
      (u.stk (16 + t.val)).turned = ((u.stk (16 + t.val)).dirWrite != k.dirWrite) ∧
      (u.stk (16 + t.val)).turnAt ≤ s.nowNs ∧ s.nowNs < (u.stk (16 + t.val)).turnAt + 128 ∧
      (u.stk (16 + t.val)).queue = k.queue ∧ (∀ m, m ≠ 16 + t.val → u.stk m = s.stk m) ∧ { u with memStacks := s.memStacks } = s) ∧
  (∀ (t : Fin 16) (err : BitVec 272) (s : State) (q : ServantReq),
    let k := s.stk (16 + t.val)
    k.queue.find? (fun q => q.write == k.dirWrite) = some q → k.state = 2 → s.inDomainReset (.cap t) = false →
    (k.turned = true → k.turnAt + 8 ≤ s.nowNs) →
    (q.write = true → q.data.length = q.len ∧ q.poison.length = q.len) →
    Answers (.capFlitReceive t err) s fun u =>
      let n := min q.len (32 - q.addr % 32)
      let out := if q.write then q.data.take n else s.bytes q.addr n
      let rx := receivedFlit (List.replicate (q.addr % 32) 0 ++ out) err
      let got := (rx.1.drop (q.addr % 32)).take n
      let read := got.zip ((s.readMem q.addr n).1.map fun b => b.2 || !rx.2)
      (err = 0 → rx.2 = true ∧ got = out) ∧
      (rx.2 = false → q.tries < 4 →
        u.stk (16 + t.val) = { k with queue := { q with tries := q.tries + 1 } :: k.queue.erase q, retry := k.retry + 1 } ∧
        u.mem = s.mem ∧ u.ecc = s.ecc ∧ NoAnswer s u) ∧
      (rx.2 = true ∨ 4 ≤ q.tries →
        (∀ a, q.atomic = some a → (u.stk (16 + t.val)).queue = k.queue.erase q ∧
          (rx.2 = true → AtomicServed s u q a (s.readMem q.addr q.len).1) ∧ (rx.2 = false → u.mem = s.mem ∧ Answered s u q 0x11 [])) ∧
        (q.atomic = none → q.write = true → Wrote s u q.addr got ∧
          (q.spoilt = true ∨ rx.2 = false → ∀ i < 16, u.mark (q.addr / 128 * 128 + 8 * i) = some .poison)) ∧
        (q.atomic = none → q.write = false → u.mem = s.mem ∧ u.ecc = s.ecc) ∧
        (q.atomic = none → q.len ≤ n → (u.stk (16 + t.val)).queue = k.queue.erase q ∧
          (q.write = true → Answered s u q 0 []) ∧ (q.write = false → Answered s u q 0 (q.got ++ read))) ∧
        (q.atomic = none → n < q.len → NoAnswer s u ∧
          ∃ q', (u.stk (16 + t.val)).queue = q' :: k.queue.erase q ∧ RestOf q q' n ∧ q'.tries = 0)) ∧
      { u with memStacks := s.memStacks, mem := s.mem, ecc := s.ecc, dieMem := s.dieMem, channels := s.channels, fabs := s.fabs
               hub := s.hub, engines := s.engines } = s ∧
      ((∀ a, q.addr ≤ a → a < q.addr + q.len → ∃ o, regionOf a = some (.cap t.val, o)) →
        u.dieMem = s.dieMem ∧ ∀ m, m ≠ 16 + t.val → u.stk m = s.stk m)) ∧
  (∀ (t : Fin 16) (err : BitVec 272) (s : State) (q : ServantReq) (rest : List ServantReq), (s.stk (16 + t.val)).queue = q :: rest →
    (s.stk (16 + t.val)).state ≠ 2 → s.inDomainReset (.cap t) = false →
    Answers (.capFlitReceive t err) s fun u =>
      u.stk (16 + t.val) = { s.stk (16 + t.val) with queue := rest } ∧ u.mem = s.mem ∧ Answered s u q 0x10 [] ∧
      (∀ m, m ≠ 16 + t.val → u.stk m = s.stk m))

/-- A channel takes the response of an access: read data joins its holding register in order, an acknowledged write counts its bytes,
and a failed access stops further issue; an access without response within its limit fails as timed out, one that goes to another
package at the deadline of its request, or 100 us after its issue where a reset has lost the request (R242, R244, R342). A descriptor
that has ended writes its status byte through its memory's port; once that is answered the channel shows the status and steps its
counter unless it is silent or bad, and goes on to the next descriptor; a write that fails or takes 50 us halts the channel. A stop
request takes effect at a descriptor boundary (R246-R250). -/
def Obligations.CopyChannelsTakeResponsesAndComplete : Prop :=
  (∀ (c : ChanId) (n : Nat) (s : State) (d : DescRun) (x : Access) (failed : Bool) (data : List Byte) (flags : List Bool),
    (s.channel c).cur = some d → d.out.find? (fun x => x.n == n && x.resp.isSome) = some x →
    x.resp = some (failed, data, flags) →
    Answers (.copyAccessResponse c n) s fun t =>
      (failed = true → t.channel c = { s.channel c with cur := some { d with out := d.out.erase x, failed := true } } ∧
        (∀ m, m ≠ c.val → t.channel m = s.channel m) ∧ { t with channels := s.channels } = s) ∧
      (failed = false → x.write = true → (t.channel c).bytes = (s.channel c).bytes + BitVec.ofNat 64 x.len ∧
        ∃ d', (t.channel c).cur = some d' ∧ d'.writeDone = d.writeDone + x.len) ∧
      (failed = false → x.write = false → (t.channel c).bytes = (s.channel c).bytes ∧
        ∃ d', (t.channel c).cur = some d' ∧ d'.writeDone = d.writeDone ∧ d.readDone ≤ d'.readDone) ∧
      (∀ m, m / 8 ≠ c.val / 8 → t.channel m = s.channel m) ∧
      t.mem = s.mem ∧ t.ecc = s.ecc ∧ t.pending = s.pending ∧ t.arrays = s.arrays ∧ t.spokes = s.spokes ∧ t.hub = s.hub) ∧
  (∀ (c : ChanId) (n : Nat) (s : State) (d : DescRun) (x : Access), (s.channel c).cur = some d →
    d.out.find? (fun x => x.n == n && x.resp.isNone) = some x → x.reqId = none → x.issued + 50000 ≤ s.nowNs →
    Answers (.copyAccessTimeout c n) s fun t =>
      t.channel c = { s.channel c with cur := some { d with out := d.out.erase x, failed := true, timedOut := true } } ∧
      (∀ m, m ≠ c.val → t.channel m = s.channel m) ∧
      { t with channels := s.channels, vaults := s.vaults, memStacks := s.memStacks, localReqs := s.localReqs } = s) ∧
  (∀ (c : ChanId) (n : Nat) (s : State) (d : DescRun) (x : Access) (id : Word32) (o : Outstanding), (s.channel c).cur = some d →
    d.out.find? (fun x => x.n == n && x.resp.isNone) = some x → x.reqId = some id →
    (s.fab (c.val / 64)).out.find? (fun o => o.reqId == id) = some o → o.deadline ≤ s.nowNs →
    Answers (.copyAccessTimeout c n) s fun t =>
      t.channel c = { s.channel c with cur := some { d with out := d.out.erase x, failed := true, timedOut := true } } ∧
      t.fab (c.val / 64) = { s.fab (c.val / 64) with timeout := (s.fab (c.val / 64)).timeout + 1
                                                     out := (s.fab (c.val / 64)).out.filter fun o => some o.reqId != some id } ∧
      (∀ m, m ≠ c.val → t.channel m = s.channel m) ∧ (∀ k, k ≠ c.val / 64 → t.fab k = s.fab k) ∧
      { t with channels := s.channels, fabs := s.fabs, vaults := s.vaults, memStacks := s.memStacks, localReqs := s.localReqs } = s) ∧
  (∀ (c : ChanId) (n : Nat) (s : State) (d : DescRun) (x : Access) (id : Word32), (s.channel c).cur = some d →
    d.out.find? (fun x => x.n == n && x.resp.isNone) = some x → x.reqId = some id →
    (∀ o ∈ (s.fab (c.val / 64)).out, o.reqId ≠ id) → (s.fab (c.val / 64)).injecting id = false → x.issued + 100000 ≤ s.nowNs →
    Answers (.copyAccessTimeout c n) s fun t =>
      t.channel c = { s.channel c with cur := some { d with out := d.out.erase x, failed := true, timedOut := true } } ∧ t.mem = s.mem) ∧
  (∀ (c : ChanId) (s : State) (d : DescRun) (st : Byte), (s.channel c).cur = some d → d.status = some st →
    (s.channel c).ctl = none →
    Answers (.descriptorComplete c) s fun t =>
      let a := gaOffset (s.channel c).desc.toNat + 23
      (∃ r, (t.channel c).ctl = some { fetch := false, n := (s.channel c).accessNo, addr := a, issued := s.nowNs, resp := r }) ∧
      { t.channel c with ctl := none, accessNo := 0 } = { s.channel c with ctl := none, accessNo := 0 } ∧
      (∀ g o, regionOf a = some (.vault g, o) → s.regionServes (.vault g) = true →
        (t.vault g).queue = (s.vault g).queue ++
          [{ owner := .control c (s.channel c).accessNo, write := true, addr := a, data := [st], poison := [false], len := 1, whole := 1 }]) ∧
      (∀ m, m ≠ c.val → t.channel m = s.channel m) ∧
      { t with channels := s.channels, vaults := s.vaults, memStacks := s.memStacks, localReqs := s.localReqs } = s) ∧
  (∀ (c : ChanId) (s : State) (d : DescRun) (st : Byte) (x : ControlAccess) (failed : Bool) (data : List Byte) (flags : List Bool),
    (s.channel c).cur = some d → d.status = some st → (s.channel c).ctl = some x → x.resp = some (failed, data, flags) →
    (failed = true → Answers (.descriptorComplete c) s fun t => ChannelHalted s t c (s.channel c).owner 1) ∧
    (failed = false → Answers (.descriptorComplete c) s fun t =>
      (t.channel c).cur = none ∧ (t.channel c).ctl = none ∧ (t.channel c).lastStatus = st ∧
      (t.channel c).done = (s.channel c).done + 1 ∧
      (t.channel c).count = (if 0x10 ≤ st.toNat ∨ d.silent = true then (s.channel c).count else (s.channel c).count + 1) ∧
      (t.channel c).bad = (if 0x10 ≤ st.toNat then (s.channel c).bad + 1 else (s.channel c).bad) ∧
      (t.channel c).next = (if d.last then none else some d.next) ∧
      (d.last = true → (s.channel c).stopReq = false → (t.channel c).state = 0 ∧ (t.channel c).owner = none) ∧
      (∀ m, m ≠ c.val → t.channel m = s.channel m) ∧ t.mem = s.mem ∧ t.pending = s.pending ∧ t.arrays = s.arrays ∧ t.spokes = s.spokes)) ∧
  (∀ (c : ChanId) (s : State) (d : DescRun) (st : Byte) (x : ControlAccess), (s.channel c).cur = some d → d.status = some st →
    (s.channel c).ctl = some x → x.resp = none → x.issued + 50000 ≤ s.nowNs →
    Answers (.descriptorComplete c) s fun t => ChannelHalted s t c (s.channel c).owner 1) ∧
  (∀ (c : ChanId) (s : State), (s.channel c).stopReq = true → (s.channel c).cur = none →
    Answers (.channelStop c) s fun t =>
      t.channel c = { s.channel c with stopReq := false, next := none, ctl := none, owner := none, queue := []
                                       state := if (s.channel c).state = 2 then 2 else 0 } ∧
      (∀ m, m ≠ c.val → t.channel m = s.channel m) ∧
      { t with channels := s.channels, hub := s.hub, mbs := s.mbs, hubCount := s.hubCount } = s)


/-- A channel that is free begins to fetch the next descriptor of its chain; a spent budget or an address that
R239 forbids halts it. What the fetch brings is the descriptor in progress, which the channel then shows, with its status where the checks of R240 decide one; a
fetch that fails, is poisoned or takes 50 us halts the channel. No byte of memory changes (R239, R240, R249). -/
def Obligations.AFreeChannelFetchesItsNextDescriptor : Prop :=
  (∀ (c : ChanId) (s : State) (c1 : ChannelState) (a : Nat), (s.channel c).cur = none → (s.channel c).stopReq = false →
    (s.channel c).state ≠ 2 → s.inDomainReset (.vault (Fin.ofNat 8 (c.val / 32))) = false → (s.channel c).ctl = none →
    (s.channel c).startChain = some (c1, a) →
    (c1.budget.toNat ≤ c1.chain.toNat → Answers (.descriptorFetch c) s fun t => ChannelHalted s t c c1.owner 2) ∧
    (c1.chain.toNat < c1.budget.toNat → gaSpace a ≠ 0 ∨ s.ownAddress a = false ∨ a % 32 ≠ 0 →
      Answers (.descriptorFetch c) s fun t => ChannelHalted s t c c1.owner 1) ∧
    (c1.chain.toNat < c1.budget.toNat → a < 2 ^ 64 → gaSpace a = 0 → s.ownAddress a = true → a % 32 = 0 →
      Answers (.descriptorFetch c) s fun t =>
        (∃ r, (t.channel c).ctl = some { fetch := true, n := c1.accessNo, addr := gaOffset a, issued := s.nowNs, resp := r }) ∧
        { t.channel c with ctl := none } =
          { c1 with ctl := none, state := 1, next := some (BitVec.ofNat 64 a), accessNo := c1.accessNo + 1 } ∧
        (∀ g o, regionOf (gaOffset a) = some (.vault g, o) → s.regionServes (.vault g) = true →
          (t.vault g).queue = (s.vault g).queue ++
            [{ owner := .control c c1.accessNo, write := false, addr := gaOffset a, len := 32, whole := 32 }]) ∧
        (∀ m, m ≠ c.val → t.channel m = s.channel m) ∧
        { t with channels := s.channels, vaults := s.vaults, memStacks := s.memStacks, localReqs := s.localReqs } = s)) ∧
  (∀ (c : ChanId) (s : State) (x : ControlAccess) (failed : Bool) (data : List Byte) (flags : List Bool), (s.channel c).cur = none →
    (s.channel c).stopReq = false → (s.channel c).state ≠ 2 → s.inDomainReset (.vault (Fin.ofNat 8 (c.val / 32))) = false →
    (s.channel c).ctl = some x → x.resp = some (failed, data, flags) →
    (failed = true ∨ true ∈ flags → Answers (.descriptorFetch c) s fun t =>
      ChannelHalted s t c (s.channel c).owner 1 ∧ (t.channel c).desc = (s.channel c).desc) ∧
    (failed = false → true ∉ flags → Answers (.descriptorFetch c) s fun t =>
      let fieldN (o n : Nat) : Nat := leNat ((data.drop o).take n)
      (t.channel c).chain = (s.channel c).chain + 1 ∧ (t.channel c).ctl = none ∧ (t.channel c).next = none ∧
      (t.channel c).desc = (s.channel c).next.getD 0 ∧ t.mem = s.mem ∧ t.ecc = s.ecc ∧ t.pending = s.pending ∧
      (∀ m, m / 8 ≠ c.val / 8 → t.channel m = s.channel m) ∧
      ∃ d, (t.channel c).cur = some d ∧ d.src = BitVec.ofNat 64 (fieldN 0 8) ∧ d.dst = BitVec.ofNat 64 (fieldN 8 8) ∧
        d.length = fieldN 16 4 ∧ d.next = BitVec.ofNat 64 (fieldN 24 8) ∧
        d.last = (fieldN 22 1).testBit 0 ∧ d.silent = (fieldN 22 1).testBit 1 ∧
        d.decided = s.checkDescriptor (fieldN 0 8) (fieldN 8 8) (fieldN 16 4) (fieldN 20 1) (fieldN 21 1) (fieldN 22 1))) ∧
  (∀ (c : ChanId) (s : State) (x : ControlAccess), (s.channel c).cur = none → (s.channel c).stopReq = false →
    (s.channel c).state ≠ 2 → s.inDomainReset (.vault (Fin.ofNat 8 (c.val / 32))) = false → (s.channel c).ctl = some x →
    x.resp = none → x.issued + 50000 ≤ s.nowNs →
    Answers (.descriptorFetch c) s fun t => ChannelHalted s t c (s.channel c).owner 1)

/-- A group whose CRC is right is delivered; one that fails is asked for again when no group of its group time has been, and
otherwise the higher of the two is uncorrectable: a machine check with its count, and the lower stays asked for, as do the groups of
other group times. Memory, other ends and
the schedule stay as they are (R258, R259, R261, R264). -/
def Obligations.GroupsAreDeliveredAskedForOrUncorrectable : Prop :=
  ∀ (e : EndId) (grp : GroupId) (err : BitVec 256) (crcErr : Byte) (s : State), (s.linkEnd e).state = 4 → grp.val < 288 →
    groupCheckBeat s.wall = true → Answers (.chaxelGroupReceive e grp err crcErr) s fun t =>
      let G := groupStart s.wall
      let sent := s.launchedGroup e grp G
      let good : Prop := groupCrc (withErrors sent err) = groupCrc sent ^^^ crcErr.toNat
      (err = 0 → crcErr = 0 → good) ∧
      (∀ m, m ≠ e.val → t.linkEnd m = s.linkEnd m) ∧ t.mem = s.mem ∧ t.arrays = s.arrays ∧ t.spokes = s.spokes ∧
      t.pending = s.pending ∧ t.counters = s.counters ∧ t.channels = s.channels ∧
      (good → { t.linkEnd e with credits := [] } = { s.linkEnd e with credits := [] } ∧ t.beat = s.beat ∧ t.hubLog = s.hubLog) ∧
      (¬good → (t.linkEnd e).crcFail = (s.linkEnd e).crcFail + 1 ∧
        ((∀ x ∈ (s.linkEnd e).asked, groupStart x.2.1 ≠ G) →
          t = s.setLinkEnd e { s.linkEnd e with crcFail := (s.linkEnd e).crcFail + 1
                                                asked := (s.linkEnd e).asked ++ [(grp.val, s.wall, 0)] }) ∧
        (∀ y ∈ (s.linkEnd e).asked, groupStart y.2.1 ≠ G → y ∈ (t.linkEnd e).asked) ∧
        (∀ x, (s.linkEnd e).asked.find? (fun x => groupStart x.2.1 == G) = some x →
          (t.linkEnd e).ue = (s.linkEnd e).ue + 1 ∧ t.beat.faultHold = true ∧ t.beat.machineCheck = true ∧
          (grp.val < x.1 → (grp.val, s.wall, 0) ∈ (t.linkEnd e).asked ∧
            ∀ y ∈ (t.linkEnd e).asked, ¬(y.1 = x.1 ∧ groupStart y.2.1 = G)) ∧
          (x.1 < grp.val → x ∈ (t.linkEnd e).asked ∧
            ∀ y ∈ (t.linkEnd e).asked, ¬(y.1 = grp.val ∧ groupStart y.2.1 = G))))

/-- A transmitter takes the request word of the far end in every beat: one of odd parity is counted and ignored, and in the beat after the
group check one of even parity and valid starts the replay of its group beside those in progress. The receiver checks beat k of the replay in G + 9 + k: one whose CRC is
right takes the place of the failed one, the fourth ends the replay, and one that fails makes the group uncorrectable (R261-R264). -/
def Obligations.ReplaysFollowTheirRequests : Prop :=
  (∀ (e : EndId) (err : BitVec 12) (s : State), (s.linkEnd e).state = 4 →
    let w := s.requestSent (e.val ^^^ 1) (s.wall - 1) ^^^ err
    let odd : Prop := ((List.range 12).filter fun i => bitOf w i).length % 2 = 1
    let asks : Prop := groupCheckBeat (s.wall - 1) = true ∧ bitOf w 11 = true ∧ fld w 10 2 < 288
    (odd → exec (.replayRequest e err) s = .next (s.setLinkEnd e { s.linkEnd e with reqErr := (s.linkEnd e).reqErr + 1 })) ∧
    (¬odd → asks → Answers (.replayRequest e err) s fun t =>
      (t.linkEnd e).replaying.head? = some (fld w 10 2, groupStart (s.wall - 1)) ∧
      (∀ x ∈ (s.linkEnd e).replaying, s.wall ≤ x.2 + 12 → x ∈ (t.linkEnd e).replaying) ∧
      { t.linkEnd e with replaying := [] } = { s.linkEnd e with replaying := [] } ∧
      (∀ m, m ≠ e.val → t.linkEnd m = s.linkEnd m) ∧ { t with ends := s.ends } = s) ∧
    (¬odd → ¬asks → exec (.replayRequest e err) s = .next s) ∧
    (∀ grp n, err = 0 → grp < 288 → groupCheckBeat (s.wall - 1) = true →
      (s.linkEnd (e.val ^^^ 1)).asked.find? (fun x => x.2.1 == s.wall - 1) = some (grp, s.wall - 1, n) →
      Answers (.replayRequest e err) s fun t => (t.linkEnd e).replaying.head? = some (grp, groupStart (s.wall - 1)))) ∧
  (∀ (e : EndId) (err : Word64) (crcErr : Byte) (s : State) (x : Nat × Nat × Nat), (s.linkEnd e).state = 4 →
    (s.linkEnd e).asked.find? (fun x => groupStart x.2.1 + 9 + x.2.2 == s.wall) = some x →
    Answers (.replayCheck e err crcErr) s fun t =>
      let sent := s.replaySent e (s.wall - 2)
      let good : Prop := replayCrc x.1 x.2.2 (sent.1 ^^^ err) = sent.2 ^^^ crcErr.toNat
      (∀ m, m ≠ e.val → t.linkEnd m = s.linkEnd m) ∧ t.mem = s.mem ∧ t.arrays = s.arrays ∧ t.spokes = s.spokes ∧
      t.pending = s.pending ∧ t.counters = s.counters ∧
      (good → t.beat = s.beat ∧ t.hubLog = s.hubLog ∧
        { t.linkEnd e with credits := [] } =
          (if x.2.2 = 3 then
            { s.linkEnd e with credits := [], asked := (s.linkEnd e).asked.erase x, replay := (s.linkEnd e).replay + 1 }
           else { s.linkEnd e with credits := [], asked := (s.linkEnd e).asked.erase x ++ [(x.1, x.2.1, x.2.2 + 1)] })) ∧
      (¬good → (t.linkEnd e).ue = (s.linkEnd e).ue + 1 ∧
        (∀ y ∈ (t.linkEnd e).asked, ¬(y.1 = x.1 ∧ groupStart y.2.1 = groupStart x.2.1)) ∧ t.beat.faultHold = true ∧
        t.beat.machineCheck = true))

/-- A drift of more than 150 ps fails both ends of the link with a machine check; a hold word carries the wait demand of the die that
sends it, of the beat before, and nothing on a compute-lightplane link but L00 at site 0; and what is received is the bitwise majority
of three copies, every bit on which they disagree counted. Bits that are wrong after the vote are kept, and the word is forwarded so;
those of the hub word reach site 0 alone (R256, R265, R266, R275, R278; log entry 89). -/
def Obligations.ClockDriftFailsAndHoldWordsVote : Prop :=
  (∀ (e : EndId) (drift : Int) (s : State), (s.linkEnd e).state = 4 → 150 < drift.natAbs →
    Answers (.chxPhase e drift) s fun t =>
      t.linkEnd e = { s.linkEnd e with state := 5, cause := 6 } ∧
      t.linkEnd (e.val ^^^ 1) = { s.linkEnd (e.val ^^^ 1) with state := 5, cause := 6 } ∧
      (∀ m, m ≠ e.val → m ≠ e.val ^^^ 1 → t.linkEnd m = s.linkEnd m) ∧
      t.beat.faultHold = true ∧ t.beat.machineCheck = true ∧ { OnlyReportsOf s t with ends := s.ends } = s) ∧
  (∀ (e : EndId) (x0 x1 x2 : BitVec 24) (s : State), (s.linkEnd e).state = 4 → s.beatNow ≠ 0 →
    Answers (.holdWordReceive e x0 x1 x2) s fun t =>
      let w := s.holdSent e (s.beatNow - 1)
      let c0 := w ^^^ x0
      let c1 := w ^^^ x1
      let c2 := w ^^^ x2
      (∀ i < 24, (t.linkEnd e).holdWord.getLsbD i = (if c0.getLsbD i = c1.getLsbD i then c0.getLsbD i else c2.getLsbD i)) ∧
      (t.linkEnd e).holdFix = (s.linkEnd e).holdFix +
        BitVec.ofNat 32 ((List.range 24).filter fun i => !(c0.getLsbD i == c1.getLsbD i && c1.getLsbD i == c2.getLsbD i)).length ∧
      (((t.linkEnd e).holdWord = w ∨ s.beat.aligned = false) → ∀ x ∈ (t.linkEnd e).holdErrs, x.1 ≠ s.beatNow - 1) ∧
      ((t.linkEnd e).holdWord ≠ w → s.beat.aligned = true →
        (t.linkEnd e).holdErrs.find? (fun x => x.1 == s.beatNow - 1) = some (s.beatNow - 1, (t.linkEnd e).holdWord ^^^ w)) ∧
      { t.linkEnd e with holdWord := 0, holdFix := 0, holdErrs := [] } = { s.linkEnd e with holdWord := 0, holdFix := 0, holdErrs := [] } ∧
      (∀ m, m ≠ e.val → t.linkEnd m = s.linkEnd m) ∧ { t with ends := s.ends, beat := s.beat } = s ∧
      { t.beat with brakePending := [] } = { s.beat with brakePending := [] } ∧
      (e.val ≠ 20 ∨ s.beat.aligned = false ∨ (t.linkEnd e).holdWord = w → t.beat = s.beat)) ∧
  (∀ (e : EndId) (s : State) (v : Nat), s.beat.aligned = true → 1 ≤ v →
    (beatLink (e.val / 2) = true → (s.holdSent e v).getLsbD (8 + 2 * endDie (e.val ^^^ 1)) = bitOf (s.demandsAt (v - 1)).waits (endDie (e.val ^^^ 1))) ∧
    (beatLink (e.val / 2) = false → e.val ≠ 20 → s.holdSent e v = 0))

/-- In the truing stage, once its clocks run and while nothing has failed, a link begins to train, then exchanges words and trims, then
tests its lanes: positions that the fuses name, whose window is under 24 steps or which carry a wrong bit of the pattern, but for the
forwarded clocks, have failed; each failure of the link leaves both ends failed with its cause, else a beat-locked link goes on to alignment and any other is live, at the lower of the two rates, with the repair map of
each direction at both ends (R267-R271, R276). A link that aligns sends 16 marks. Where a depth of 1 to 3 half-beats captures each at
the end of a beat whose provisional count is 1 more than a multiple of 1,024, on a tree link after the child's count has been set, the
link is live with that depth; else it has failed with cause 5 (R272). Words that never arrive count as a capability mismatch, and the
order in which the pattern's register is read is the model's (log entries 90, 100). -/
def Obligations.LinksTrainAndAlign : Prop :=
  (∀ (e : Nat) (c : TrainingWords) (rest : List TrainingWords), capCrcOk (wordsOf e c).cap = true →
    acceptCopies e (c :: c :: c :: rest) = some (wordsOf e c)) ∧
  (∀ (l : LinkId) (rep : TrainingReport) (s : State), ¬(s.power.stage = 2 ∧ s.power.truingFault = false ∧ s.power.clocks = true) →
    exec (.linkTraining l rep) s = .next s) ∧
  (∀ (l : LinkId) (rep : TrainingReport) (s : State), s.power.stage = 2 → s.power.truingFault = false → s.power.clocks = true →
    Answers (.linkTraining l rep) s fun t =>
    let low := acceptCopies (2 * l.val) rep.highCopies
    let high := acceptCopies (2 * l.val + 1) rep.lowCopies
    let st := (s.linkEnd (2 * l.val)).state
    (∀ m, m ≠ 2 * l.val → m ≠ 2 * l.val + 1 → t.linkEnd m = s.linkEnd m) ∧
    { t with ends := s.ends, routers := s.routers } = s ∧
    (3 ≤ st.toNat → t = s) ∧
    ∀ e, e = 2 * l.val ∨ e = 2 * l.val + 1 →
      (st = 0 → t.linkEnd e = { s.linkEnd e with state := 1, cause := 0, link := BitVec.ofNat 5 l.val }) ∧
      (st = 1 →
        (t.linkEnd e).capOwn = capWord (endDie e) ∧
        (t.linkEnd e).capPeer = (((if e % 2 = 0 then high else low).map (·.cap)).getD 0) ∧
        (t.linkEnd e).fusedPeer = (((if e % 2 = 0 then high else low).map (·.fused)).getD []) ∧
        (∀ x ∈ rep.sweeps, x.atEnd.val = e % 2 → x.width < 24 → (x.group.val, x.position.val) ∈ (t.linkEnd e).trimFailed) ∧
        (∀ c, exchangeCause l low high = some c → (t.linkEnd e).state = 5 ∧ (t.linkEnd e).cause = BitVec.ofNat 4 c) ∧
        (∀ a b, exchangeCause l low high = none → low = some a → high = some b →
          (t.linkEnd e).state = 2 ∧ (t.linkEnd e).rate = BitVec.ofNat 4 (max (fld a.cap 55 52) (fld b.cap 55 52)) ∧
          (t.linkEnd e).mode = if beatLink l = true ∧ capLocked a.cap = true ∧ capLocked b.cap = true then 0 else 1)) ∧
      (st = 2 →
        (∀ x, x ∈ (s.linkEnd e).fusedAt e ∨ x ∈ (s.linkEnd e).trimFailed → x ∈ s.failedAt e rep) ∧
        (∀ x ∈ rep.samples, x.atEnd.val = e % 2 → x.index < 2 ^ 21 → x.position.val < positionsOf x.group →
          x.position.val ≠ clockOf x.group → x.value ≠ prbsBit x.group x.position x.index → (x.group.val, x.position.val) ∈ s.failedAt e rep) ∧
        (∀ c, s.lanesCause l rep = some c → (t.linkEnd e).state = 5 ∧ (t.linkEnd e).cause = BitVec.ofNat 4 c) ∧
        (s.lanesCause l rep = none → (t.linkEnd e).cause = 0 ∧ (t.linkEnd e).mode = (s.linkEnd e).mode ∧
          (t.linkEnd e).state = (if (s.linkEnd (2 * l.val)).mode = 0 then 3 else 4) ∧
          (t.linkEnd e).repairs = repairMap (s.failedAt e rep) ∧ (t.linkEnd e).sendRepairs = repairMap (s.failedAt (e ^^^ 1) rep) ∧
          1 ≤ (t.linkEnd e).depth.toNat ∧ (t.linkEnd e).depth.toNat ≤ 3))) ∧
  (∀ (l : LinkId) (delays : List Nat) (s : State), s.power.stage = 2 → s.power.truingFault = false → s.power.clocks = true →
    (s.linkEnd (2 * l.val)).state = 3 → delays.length = 16 →
    (∀ x ∈ alignsAfter l, (s.linkEnd (2 * x)).state = 4) →
    Answers (.alignmentMark l delays) s fun t =>
      let marks := delays.map (s.markArrives l)
      let live : Prop := (t.linkEnd (2 * l.val)).state = 4 ∧ (t.linkEnd (2 * l.val + 1)).state = 4 ∧
        1 ≤ (t.linkEnd (2 * l.val + 1)).depth.toNat ∧ (t.linkEnd (2 * l.val + 1)).depth.toNat ≤ 3 ∧
        ∀ x ∈ delays, (t.markArrives l x + (t.linkEnd (2 * l.val + 1)).depth.toNat) % 2048 = 4
      let fails : Prop := (t.linkEnd (2 * l.val)).state = 5 ∧ (t.linkEnd (2 * l.val)).cause = 5 ∧
        (t.linkEnd (2 * l.val + 1)).state = 5 ∧ (t.linkEnd (2 * l.val + 1)).cause = 5 ∧ t.beat = s.beat
      (l.val ∉ treeLinks → (∃ d, 1 ≤ d ∧ d ≤ 3 ∧ ∀ m ∈ marks, (m + d) % 2048 = 4) → live ∧ ∀ d, t.provWall d = s.provWall d) ∧
      (l.val ∉ treeLinks → (∀ d, 1 ≤ d → d ≤ 3 → ∃ m ∈ marks, (m + d) % 2048 ≠ 4) → fails) ∧
      (l.val ∈ treeLinks → (∀ m ∈ marks, m = marks.headD 0) → live) ∧
      (l.val ∈ treeLinks → (∃ m ∈ marks, m ≠ marks.headD 0) → fails) ∧
      (∀ d, d ≠ endDie (2 * l.val + 1) → t.provWall d = s.provWall d) ∧
      (∀ m, m ≠ 2 * l.val → m ≠ 2 * l.val + 1 → t.linkEnd m = s.linkEnd m) ∧
      { t with ends := s.ends, beat := s.beat } = s)


/-- A receiver hunts for four candidates in a row whose sequences follow; in lock a wrong marker or sequence counts, and four
wrong frames in a row return it to hunt; the payload of a frame in lock, descrambled from all ones at sequence 0, joins the bits of
the codewords. In step 5 of bring-up it counts identification frames of its own wavelength, and moves its ring to the next channel on
those of a neighbour. The compute dies and memory stay as they are (R283, R284, R286, R307). That an input without light reads as a
frame of zeros, which leaves the receiver dark (R311), is the model's choice (log entry 116). -/
def Obligations.FramesHuntAndLock : Prop :=
  ∀ (f : FibreId) (w : WaveId) (marker : BitVec 16) (seq : Byte) (payload : BitVec 1000) (s : State),
    let bringing : Prop := (s.port f).state = 1 ∧ (s.port f).step = 5
    let nothing : Prop := marker = 0 ∧ seq = 0 ∧ payload = 0
    let x := s.wave f w
    (¬bringing → nothing → (s.port f).state ≠ 0 → s.terminated f w = true → s.steered f w = false →
      Answers (.frameReceive f w marker seq payload) s fun t =>
        let y := t.wave f w
        y.align = 0 ∧ y.rxPower = 0x8000 ∧ y.payloadBits = 0 ∧ y.badSince = some (x.badSince.getD s.nowNs) ∧ y.frameErr = x.frameErr ∧
        y.cwCorr = x.cwCorr ∧ y.cwUncorr = x.cwUncorr ∧ { t with ports := s.ports, fabs := s.fabs } = s) ∧
    (¬bringing → ¬nothing → (s.port f).state ≠ 0 → s.terminated f w = true → s.steered f w = false →
      Answers (.frameReceive f w marker seq payload) s fun t =>
        let y := t.wave f w
        let cand : Prop := marker = 0xE8B3 ∧ seq.toNat ≤ 135
        let follows : Prop := x.candidates ≠ 0 ∧ seq.toNat = (x.lastSeq + 1) % 136
        let right : Prop := marker = 0xE8B3 ∧ seq.toNat = (x.lastSeq + 1) % 136
        let bits := descramble 1000 payload.toNat (if seq = 0 then 2 ^ 31 - 1 else x.scramble.toNat) 0
        (x.align ≠ 2 → ¬cand → y.align = 1 ∧ y.candidates = 0) ∧
        (x.align ≠ 2 → cand → ¬follows → y.align = 1 ∧ y.candidates = 1 ∧ y.lastSeq = seq.toNat) ∧
        (x.align ≠ 2 → cand → follows → x.candidates < 3 → y.align = 1 ∧ y.candidates = x.candidates + 1 ∧ y.lastSeq = seq.toNat) ∧
        (x.align ≠ 2 → cand → follows → 3 ≤ x.candidates → y.align = 2 ∧ y.lastSeq = seq.toNat ∧ y.badRun = 0 ∧ t.freeCtr = s.freeCtr + 1) ∧
        (x.align = 2 → right → y.align = 2 ∧ y.lastSeq = (x.lastSeq + 1) % 136 ∧ y.badRun = 0 ∧ y.frameErr = x.frameErr ∧
          (seq = 0 ∨ x.synced = true → y.synced = true ∧ y.rxBits = x.rxBits * 2 ^ 1000 + bits.1 ∧
            y.scramble.toNat = bits.2 % 2 ^ 31 ∧ y.payloadBits = x.payloadBits + 1000) ∧
          (seq ≠ 0 → x.synced = false → y.payloadBits = x.payloadBits)) ∧
        (x.align = 2 → ¬right → y.frameErr = x.frameErr + 1 ∧
          (x.badRun < 3 → y.align = 2 ∧ y.badRun = x.badRun + 1 ∧ y.lastSeq = (x.lastSeq + 1) % 136) ∧
          (3 ≤ x.badRun → y.align = 1 ∧ y.payloadBits = 0 ∧ y.synced = false)) ∧
        (¬(x.align ≠ 2 ∧ cand ∧ follows ∧ 3 ≤ x.candidates) → t.freeCtr = s.freeCtr) ∧
        y.cwCorr = x.cwCorr ∧ y.cwUncorr = x.cwUncorr ∧ y.bursts = x.bursts ∧
        (x.partial_ = none → (∀ v, v ≠ w.val → t.wave f v = s.wave f v) ∧ (∀ g, g ≠ f.val → t.port g = s.port g) ∧ t.fabs = s.fabs) ∧
        { t with ports := s.ports, fabs := s.fabs, freeCtr := s.freeCtr } = s) ∧
    (bringing → Answers (.frameReceive f w marker seq payload) s fun t =>
      let mine : Prop := marker = 0xE8B3 ∧ seq.toNat = 240 + w.val
      let beside : Prop := marker = 0xE8B3 ∧ 240 ≤ seq.toNat ∧ (seq.toNat = 241 + w.val ∨ seq.toNat + 1 = 240 + w.val)
      let r := 32 * (f.val % 8) + w.val
      (mine → t.wave f w = { x with ident := min 4 (x.ident + 1) }) ∧ (¬mine → t.wave f w = { x with ident := 0 }) ∧
      (beside → (t.ring (f.val / 8) r).state = 1 ∧ (t.ring (f.val / 8) r).swept = 0 ∧
        (t.ring (f.val / 8) r).bias = (Config.freeValue s.freeCtr).setWidth 12) ∧
      (¬beside → t.rings = s.rings ∧ t.freeCtr = s.freeCtr) ∧
      (∀ k q, 844 * k + q ≠ 844 * (f.val / 8) + r → t.ring k q = s.ring k q) ∧
      (∀ v, v ≠ w.val → t.wave f v = s.wave f v) ∧ (∀ g, g ≠ f.val → t.port g = s.port g) ∧
      { t with ports := s.ports, rings := s.rings, freeCtr := s.freeCtr } = s)

/-- The next codeword of a locked receiver is decoded and counted: right, corrected with its symbols, or uncorrectable; and a slot of a
steered, terminated input is searched for its delimiter: the burst is counted with the extremes of its arrival offset and its wrong
frames and codewords, or is lost (R285, R287, R297). -/
def Obligations.CodewordsAndBurstsAreCounted : Prop :=
  (∀ (f : FibreId) (w : WaveId) (s : State), (s.wave f w).align = 2 → (s.wave f w).synced = true →
    5440 ≤ (s.wave f w).payloadBits →
    Answers (.codewordDecode f w) s fun t =>
      let x := s.wave f w
      let y := t.wave f w
      let left := x.payloadBits - 5440
      let r := rsDecode (symbolsOf 544 (x.rxBits >>> left % 2 ^ 5440))
      y.payloadBits = left ∧ y.rxBits = x.rxBits % 2 ^ left ∧ y.align = 2 ∧ y.frameErr = x.frameErr ∧ y.bursts = x.bursts ∧
      y.lastSeq = x.lastSeq ∧
      (∀ ds, r = some (0, ds) → y.cwCorr = x.cwCorr ∧ y.cwUncorr = x.cwUncorr ∧ y.symCorr = x.symCorr) ∧
      (∀ n ds, r = some (n + 1, ds) →
        y.cwCorr = x.cwCorr + 1 ∧ y.cwUncorr = x.cwUncorr ∧ y.symCorr = x.symCorr + BitVec.ofNat 32 (n + 1)) ∧
      (r = none → y.cwCorr = x.cwCorr ∧ y.cwUncorr = x.cwUncorr + 1 ∧ y.symCorr = x.symCorr) ∧ ComputeSame s t) ∧
  (∀ (f : FibreId) (w : WaveId) (rep : BurstReport) (s : State),
    let g := s.steerG (f.val / 8) w
    circuitWave f w = true → g.lenNs ≠ 0 → bitOf g.term (f.val % 8) = true →
    Answers (.burstReceive f w rep) s fun t =>
      let x := s.wave f w
      let y := t.wave f w
      ComputeSame s t ∧ (s.steered f w = true → y.align = 3) ∧
      (delimiterEnd rep.count rep.bits = none →
        y.burstLost = x.burstLost + 1 ∧ y.bursts = x.bursts ∧ y.arrMax = x.arrMax ∧ y.arrMin = x.arrMin ∧ y.frameErr = x.frameErr) ∧
      (∀ p, delimiterEnd rep.count rep.bits = some p →
        let field := frameField g.lenNs rep.count rep.bits p
        let words := burstDecode g.lenNs (burstPayloadOf g.lenNs field)
        let offset := (BitVec.ofInt 16 (rep.start + p - 2048)).toInt
        y.bursts = x.bursts + 1 ∧ y.frameErr = x.frameErr + BitVec.ofNat 32 (badFrames g.lenNs field) ∧
        y.arrMax.toInt = max x.arrMax.toInt offset ∧ y.arrMin.toInt = min x.arrMin.toInt offset ∧
        y.burstLost = (if none ∈ words then x.burstLost + 1 else x.burstLost) ∧
        y.cwUncorr = x.cwUncorr + BitVec.ofNat 32 (words.count none)))

/-- A slot of a schedule puts its state in force: an output or input of a port that is up follows the slot, one of a port that
is down, and an output that uses a bad ring, stays dark and unterminated; the slot before it ends with the bursts that it launched.
Without cadence lock a steered group is dark (R290, R292, R293, R295, R303, R308). -/
def Obligations.SlotsPutTheirStateInForce : Prop :=
  ∀ (k : LpId) (c : CircuitWave) (slot : Nat) (s : State),
    let w := c.val + 2
    let g0 := s.steerG k w
    ¬(g0.dark = true ∧ s.cadNs < g0.endAt) →
    (if s.slotCount k w < 2 then slot = 0 else s.mach.locked = true → s.slotBegins k w slot = true) →
    Answers (.steeringSlotStart k c slot) s fun t =>
      let g := t.steerG k w
      let steered : Prop := 2 ≤ s.slotCount k w
      let ended (j : Nat) : Prop := g0.lenNs ≠ 0 ∧ bitOf g0.launched j = true
      (steered → s.mach.locked = false → g.dark = true ∧ g.out = 0x3FFFF ∧ g.term = 0 ∧ g.launched = 0 ∧ { t with steer := s.steer } = s) ∧
      (¬steered ∨ s.mach.locked = true →
        g.dark = false ∧ g.slot = slot ∧ g.lenNs = (if steered then s.slotLen k w slot else 0) ∧
        (∀ j < 6, slotOut g.out.toNat j =
          if (s.port (8 * k.val + j)).state = 2 ∧ s.outputBad k w j (slotOut (s.slotWord k w slot) j) = false
          then slotOut (s.slotWord k w slot) j else 7) ∧
        (∀ j < 6, g.term.getLsbD j =
          (decide ((s.port (8 * k.val + j)).state = 2) && (s.slotWord k w slot).testBit (24 + j))) ∧
        (∀ j < 6, bitOf g.launched j = (decide steered && slotOut g.out.toNat j == 6)) ∧
        (∀ j < 6, ended j → (t.wave (8 * k.val + j) w).txBlocks = (s.wave (8 * k.val + j) w).txBlocks.drop (burstBlocks g0.lenNs) ∧
          (burstBlocks g0.lenNs ≤ (s.wave (8 * k.val + j) w).txBlocks.length →
            (t.wave (8 * k.val + j) w).burst =
              burstOf g0.lenNs ((s.wave (8 * k.val + j) w).txBlocks.take (burstBlocks g0.lenNs)))) ∧
        ((∀ j < 6, ¬ended j) → t.ports = s.ports ∧ t.fabs = s.fabs)) ∧
      (∀ j v, 16 * j + v ≠ 16 * k.val + w → t.steerG j v = s.steerG j v) ∧ { t with steer := s.steer, ports := s.ports, fabs := s.fabs } = s

/-- A truing window counts; an output that is not valid changes neither heater nor state, a valid one gives the lock error in
its ten bits; an acquiring ring sweeps about its bias, ten good windows lock it, and three far ones, or a heater at its end, make it
acquire again. A ring that does not lock in 500 ms, in which it did not coast, has faulted, with its wavelength (R298, R300-R303). The
direction of the sweep and the codes after it (log entries 3, 91), that an invalid window leaves the runs of good and far ones (log entry
28), and the samples at the ends of a window (log entry 115), are the model's choices. -/
def Obligations.TruingWindowsActOnlyWhenValid : Prop :=
  (∀ (k : LpId) (r : RingId) (lit : Nat) (sum cnt : Int) (s : State), s.inDomainReset (.fab k) = false →
    (s.ring k r).state = 1 ∨ (s.ring k r).state = 2 →
    Answers (.truingWindow k r lit sum cnt) s fun t =>
      let x := s.ring k r
      let y := t.ring k r
      let n := s.litSamples k r lit
      let valid : Prop := 1024 ≤ n ∧ 2 ≤ x.windows
      let e := lockError (844 * k.val + r.val) sum cnt
      let good : Prop := -3 ≤ e ∧ e ≤ 3
      let far : Prop := e < -12 ∨ 12 < e
      let relocks : Prop := far ∧ 2 ≤ x.far ∨ y.heater = 0 ∨ y.heater = 0xFFF
      (¬valid → t = s.setRing k r { x with windows := x.windows + 1, invalid := true, coast := decide (n < 1024),
                                            acqStart := if n < 1024 then x.acqStart + 1000000 else x.acqStart }) ∧
      (valid → y.windows = x.windows + 1 ∧ y.coast = false ∧ y.invalid = false ∧ y.error = errorField e ∧ t.freeCtr = s.freeCtr + 1 ∧
        (x.state = 1 → x.swept ≤ 320 → y.heater = sweepCode x.bias.toNat x.swept ∧ y.swept = x.swept + 1) ∧
        (x.state = 1 → 320 < x.swept → y.heater = (Config.freeValue s.freeCtr).setWidth 12) ∧
        (x.state = 1 → good → 9 ≤ x.good → y.state = 2) ∧ (x.state = 1 → ¬(good ∧ 9 ≤ x.good) → y.state = 1) ∧
        (x.state = 2 → ¬relocks → y.state = 2 ∧ y.heater = (Config.freeValue s.freeCtr).setWidth 12) ∧
        (x.state = 2 → relocks → y.state = 1 ∧ y.swept = 0 ∧ y.acqStart = s.nowNs ∧
          (10 < y.relocks.length → y.bad = true ∧ (t.wave (ringServes k r).1 (ringServes k r).2).faulty = true))) ∧
      (∀ j q, 844 * j + q ≠ 844 * k.val + r.val → t.ring j q = s.ring j q) ∧ ComputeSameButAborts s t ∧
      (¬(x.state = 2 ∧ relocks ∧ 10 < y.relocks.length) → { t with rings := s.rings, freeCtr := s.freeCtr } = s)) ∧
  (∀ (k : LpId) (r : RingId) (s : State), s.inDomainReset (.fab k) = false → (s.ring k r).state = 1 → (s.ring k r).coast = false →
    (s.ring k r).acqStart + 500000000 ≤ s.nowNs →
    Answers (.ringFault k r) s fun t =>
      (t.ring k r).state = 3 ∧ (t.ring k r).bad = true ∧ (t.wave (ringServes k r).1 (ringServes k r).2).faulty = true ∧
      (∀ j q, 844 * j + q ≠ 844 * k.val + r.val → t.ring j q = s.ring j q) ∧ ComputeSameButAborts s t)

/-- A laser request follows its conditions; light that comes sends the ports it feeds back to step 3 after a fall, and light that comes too
late is a fault; light that falls starts its second; and a request without light in time is a fault. The interlock drops every request,
and once high again, with VIO on, lets them rise (R304-R306, R480). -/
def Obligations.LasersFollowRequestsAndTheInterlock : Prop :=
  (∀ (n : LaserId) (s : State), Answers (.laserRequest n) s fun t =>
    (t.laser n).req = s.laserMay n ∧ (t.laser n).ok = (s.laser n).ok ∧ (t.laser n).fault = (s.laser n).fault ∧
    (s.laserMay n = true → (s.laser n).req = false → (t.laser n).reqAt = s.nowNs) ∧
    (∀ m, m ≠ n.val → t.laser m = s.laser m) ∧ { t with lasers := s.lasers } = s) ∧
  (∀ (n : LaserId) (s : State), Answers (.laserOkRise n) s fun t =>
    let x := s.laser n
    let late : Prop := x.req = true ∧ x.ok = false ∧ s.laserLate n = true
    (late → t.laser n = { x with ok := true, req := false, fault := true, fellAt := none } ∧ Logged s t 3 0x80 ∧ ComputeSame s t) ∧
    (¬late → t.laser n = { x with ok := true, fellAt := none }) ∧ (∀ m, m ≠ n.val → t.laser m = s.laser m) ∧
    (¬late → x.req = true → x.fellAt ≠ none → ComputeSameButAborts s t ∧
      ∀ f ∈ laserPorts n, (s.port f).state ≠ 0 → s.portEnabled f = true →
        (t.port f).state = 1 ∧ (t.port f).step.toNat = min 2 (s.port f).step.toNat ∧ (t.port f).retryAt = 0) ∧
    (¬late → x.req = false ∨ x.fellAt = none → { t with lasers := s.lasers } = s)) ∧
  (∀ (n : LaserId) (s : State), Answers (.laserOkFall n) s fun t =>
    (t.laser n).ok = false ∧ (t.laser n).req = (s.laser n).req ∧
    ((s.laser n).req = true → (s.laser n).ok = true → (t.laser n).fellAt = some s.nowNs) ∧
    (∀ m, m ≠ n.val → t.laser m = s.laser m) ∧ { t with lasers := s.lasers } = s) ∧
  (∀ (n : LaserId) (s : State), (s.laser n).req = true → (s.laser n).ok = false →
    ((s.laser n).fellAt = none → (s.laser n).reqAt + 2000000000 ≤ s.nowNs) →
    (∀ x, (s.laser n).fellAt = some x → x + 1000000000 ≤ s.nowNs) →
    Answers (.laserFault n) s fun t =>
      t.laser n = { s.laser n with req := false, fault := true, fellAt := none } ∧ Logged s t 3 0x80 ∧
      (∀ m, m ≠ n.val → t.laser m = s.laser m) ∧ ComputeSame s t) ∧
  (∀ s : State, Answers .interlockLow s fun t =>
    (∀ n, (t.laser n).req = false) ∧ t.power.interlockLow = true ∧ Logged s t 3 0x81 ∧ ComputeSame s t) ∧
  (∀ s : State, s.power.interlockLow = true → s.vioOn = false → exec .interlockHigh s = .next s) ∧
  (∀ s : State, s.power.interlockLow = true → s.vioOn = true → Answers .interlockHigh s fun t =>
    t.power = { s.power with interlockLow := false } ∧ t.lasers = s.lasers ∧ ComputeSameButAborts s t ∧
    (∀ f < 32, (s.port f).state ≠ 0 → s.portEnabled f = true →
      (t.port f).state = 1 ∧ (t.port f).step.toNat = min 1 (s.port f).step.toNat))

/-- Bring-up of an enabled port takes the next step of R307 once the step reached has succeeded: it loads the stored biases, tones and
trims, starts the port's transmit rings when its laser is good, its receive rings and identification frames when those have locked, and
its alignment when every wavelength has seen its own identification; it goes back to step 4 a second after a failure, and at once after
a port has gone down, and then tries again what was faulty. It begins while the ring region of the die is held, and no port comes up while
that is stopped (R298, R299, R303, R307, R309, R459). One step to a command, with its success an operand (log entry 29), the steering
rings that start with a step (log entry 91), and the tones of reassigned rings (log entry 92), are the model's choices.
A port whose wavelengths have been clean for 10 ms is up; a cube port whose wavelength 0
or 1 has been bad for 100 us goes down: its neighbour is gone, its FIFOs are flushed, and the collectives that it carries abort
(R307-R309, R336, R392). -/
def Obligations.PortsComeUpAndGoDown : Prop :=
  (∀ (f : FibreId) (okay : Bool) (s : State), s.started = true →
    s.inDomainReset (.fab (Fin.ofNat 4 (f.val / 8))) = false → s.inDomainReset (.ptx f) = false → s.inDomainReset (.prx f) = false →
    s.portEnabled f = true → (s.port f).state ≠ 2 → (s.port f).retryAt ≤ s.nowNs →
    fld s.therm.ring (2 * (f.val / 8) + 1) (2 * (f.val / 8)) ≠ 3 →
    Answers (.portBringUp f okay) s fun t =>
      let x := (s.port f).step.toNat
      let k := f.val / 8
      let j := f.val % 8
      let held : Prop := fld s.therm.ring (2 * k + 1) (2 * k) = 1
      let goes : Prop := okay = true ∧ (s.port f).state ≠ 3 ∧ (s.port f).retrying = false
      let started (r : Nat) : Prop := (s.ring k r).state = 2 ∧ { t.ring k r with bad := (s.ring k r).bad } = s.ring k r ∨
        (t.ring k r).state = 1 ∧ (t.ring k r).swept = 0 ∧ (t.ring k r).acqStart = s.nowNs
      let again : Prop := (t.port f).state = 1 ∧ (t.port f).step = 4 ∧ (t.port f).retrying = false ∧ (∀ w < 16, (t.wave f w).faulty = false) ∧
        ∀ r ∈ portAll j, (t.ring k r).bad = false
      ((s.port f).state = 3 → held → again) ∧ ((s.port f).state = 3 → ¬held → t = s) ∧
      (okay = false → (s.port f).state ≠ 3 → (t.port f).state = 1 ∧ (t.port f).step = 3 ∧ (t.port f).retryAt = s.nowNs + 1000000000 ∧
        (t.port f).retrying = true ∧ t.rings = s.rings) ∧
      (okay = true → (s.port f).state ≠ 3 → (s.port f).retrying = true → again ∧ ∀ r ∈ portRings j 1 ++ sendSteering j, started r) ∧
      (goes → x = 0 → held → (t.port f).step = 1 ∧
        (∀ c, s.cal = some c → (t.port f).trims = c.trims) ∧ (∀ w < 16, (t.wave f w).faulty = false) ∧
        ∀ r ∈ portAll j, (t.ring k r).bad = false ∧ ((s.ring k r).state ≠ 2 →
          (t.ring k r).tone = SMap.get 0 (s.tonePlan k) r ∧
          (t.ring k r).bias = (match s.cal with | some c => SMap.get 0 c.biases (844 * k + r) | none => 0x800))) ∧
      (goes → x = 0 → ¬held → t = s) ∧
      (goes → x = 1 → (t.port f).step = 2) ∧
      (goes → x = 2 → (s.laser (k * 2 + f.val % 2)).ok = true → (t.port f).step = 3 ∧
        ∀ r ∈ portRings j 1 ++ sendSteering j, started r) ∧
      (goes → x = 2 → (s.laser (k * 2 + f.val % 2)).ok = false → t = s) ∧
      (goes → x = 3 → (∀ r ∈ portRings j 1, (s.ring k r).state = 2) → (t.port f).step = 4 ∧
        ∀ w < 16, t.identSent f w = some (identFrame w)) ∧
      (goes → x = 4 → (t.port f).step = 5 ∧ (∀ w < 16, (t.wave f w).ident = 0) ∧ ∀ r ∈ portRings j 0 ++ termSteering j, started r) ∧
      (goes → x = 5 → (∀ r ∈ portRings j 0, (s.ring k r).state = 2) → (∀ w < 16, (s.wave f w).ident = 4) → (t.port f).step = 6 ∧
        ∀ w < 16, (t.wave f w).align = if s.steered f w = true then 3 else 1) ∧
      (goes → x = 3 → (∃ r ∈ portRings j 1, (s.ring k r).state ≠ 2) → t = s) ∧
      (goes → x = 5 → (∃ r ∈ portRings j 0, (s.ring k r).state ≠ 2) ∨ (∃ w < 16, (s.wave f w).ident ≠ 4) → t = s) ∧
      (∀ g, g ≠ f.val → t.port g = s.port g) ∧ { t with ports := s.ports, rings := s.rings } = s) ∧
  (∀ (f : FibreId) (okay : Bool) (s : State), fld s.therm.ring (2 * (f.val / 8) + 1) (2 * (f.val / 8)) = 3 →
    exec (.portBringUp f okay) s = .next s ∧ exec (.portUp f) s = .next s) ∧
  (∀ (f : FibreId) (s : State), (s.port f).state = 1 → (s.port f).step = 6 →
    fld s.therm.ring (2 * (f.val / 8) + 1) (2 * (f.val / 8)) ≠ 3 →
    (∀ w < if (fibreCube f.val).isSome then 2 else 16, s.clean f w = true) →
    Answers (.portUp f) s fun t =>
      (t.port f).state = 2 ∧ (t.port f).step = 7 ∧ (t.port f).downs = (s.port f).downs ∧
      (∀ q, fibreCube f.val = some q → (s.nbr q).state = 3 → (s.nbr q).recycled = 0 → (t.nbr q).recycled = 1) ∧
      (∀ g, g / 8 ≠ f.val / 8 → t.port g = s.port g) ∧ ComputeSame s t ∧
      { t with ports := s.ports, mach := s.mach, steer := s.steer, fabs := s.fabs } = s) ∧
  (∀ (f : FibreId) (s : State) (w b : Nat), (s.port f).state = 2 → (fibreCube f.val).isSome = true → w < 2 →
    (s.wave f w).badSince = some b → b + 100000 ≤ s.nowNs →
    Answers (.portDown f) s fun t =>
      (t.port f).state = 3 ∧ (t.port f).downs = (s.port f).downs + 1 ∧
      (∀ q, fibreCube f.val = some q → (t.nbr q).rxTime = none ∧ (t.nbr q).candRun = 0) ∧
      (∀ w < 16, (t.fifo f w).flush = true) ∧ ComputeSameButAborts s t ∧
      (∀ k < 4, (t.engine k).open_.length ≤ (s.engine k).open_.length))


/-- A control block returns its credits, at most 1,024 held; `CUT`, an underrun and a flush lose the packet that is arriving,
whose blocks are owed as credits again; one that its consumer has started goes on as `CUT`; a flush empties its FIFO; a quarantined port
takes no packet. Memory and the compute dies stay as they are (R312, R313, R315, R334-R336, R359). That the blocks of a packet lost by `CUT`
give their credits back is the model's choice (log entry 27). -/
def Obligations.FifosReturnCreditsAndLosePackets : Prop :=
  (∀ (f : FibreId) (w : WaveId) (b : BitVec 257) (s : State), s.terminated f w = true → bitOf b 256 = true → 0xF0 ≤ fld b 7 0 →
    Answers (.creditReturn f w b) s fun t =>
      t.fifo f w = { s.fifo f w with credit0 := min 1024 ((s.fifo f w).credit0 + fld b 31 16)
                                     credit1 := min 1024 ((s.fifo f w).credit1 + fld b 47 32) } ∧
      (∀ v < 16, v ≠ w.val → t.fifo f v = s.fifo f v) ∧ (∀ k, k ≠ f.val / 8 → t.fab k = s.fab k) ∧ { t with fabs := s.fabs } = s) ∧
  (∀ (f : FibreId) (w : WaveId) (b : BitVec 257) (s : State) (p : Packet), s.terminated f w = true → bitOf b 256 = false →
    (s.wave f w).partial_ = some p →
    Answers (.blockReceive f w b) s fun t =>
      let p1 : Packet := { p with payload := p.payload ++ leBytes 32 b.toNat }
      (p1.whole = false → (t.wave f w).partial_ = some p1 ∧ (t.fifo f w).packets = (s.fifo f w).packets) ∧
      (p1.whole = true → (t.wave f w).partial_ = none ∧ (t.fifo f w).packets = (s.fifo f w).packets ++ [p1.trim]) ∧
      { t with ports := s.ports, fabs := s.fabs } = s) ∧
  (∀ (f : FibreId) (w : WaveId) (b : BitVec 257) (s : State), s.terminated f w = true → bitOf b 256 = true → fld b 7 0 < 0xF0 →
    (s.wave f w).partial_ = none →
    Answers (.blockReceive f w b) s fun t =>
      let p := headerOf b
      let taken : Prop := s.discards f w p = false ∧ s.quarantined f = false
      (t.fifo f w).code = s.cutCode f w ∧
      (taken → p.whole = true → (t.fifo f w).packets = (s.fifo f w).packets ++ [p.trim] ∧ (t.wave f w).partial_ = none) ∧
      (s.discards f w p = false → s.quarantined f = true → (t.fab (f.val / 8)).pktBad = (s.fab (f.val / 8)).pktBad ∧
        (t.wave f w).partial_ = none ∧ (t.fifo f w).packets = (s.fifo f w).packets ∧
        (t.fifo f w).owed0 + (t.fifo f w).owed1 = (s.fifo f w).owed0 + (s.fifo f w).owed1 + 1) ∧
      (taken → p.whole = false → (t.wave f w).partial_ = some p ∧ (t.fifo f w).packets = (s.fifo f w).packets) ∧
      (s.discards f w p = true → (t.fab (f.val / 8)).pktBad = (s.fab (f.val / 8)).pktBad + 1 ∧
        (t.wave f w).partial_ = none ∧ (t.fifo f w).packets = (s.fifo f w).packets ∧
        (t.fifo f w).owed0 + (t.fifo f w).owed1 = (s.fifo f w).owed0 + (s.fifo f w).owed1 + 1) ∧
      { t with ports := s.ports, fabs := s.fabs } = s) ∧
  (∀ (f : FibreId) (w : WaveId) (s : State) (p : Packet), s.terminated f w = true → (s.wave f w).partial_ = some p →
    Answers (.cut f w) s fun t => PartialLost s t f w ∧ (t.fifo f w).underrun = (s.fifo f w).underrun) ∧
  (∀ (f : FibreId) (w : WaveId) (s : State), s.startedArriving f w = true →
    s.fifoLevel f w ≤ (if 128 ≤ (s.fifo f w).out ∧ (s.fifo f w).out < 132 then 1 else 0) →
    Answers (.fifoUnderrun f w) s fun t => PartialLost s t f w ∧ (t.fifo f w).underrun = true) ∧
  (∀ (f : FibreId) (w : WaveId) (s : State), (s.fifo f w).flush = true → (s.fifo f w).started = false →
    Answers (.fifoFlush f w) s fun t => (t.fifo f w).packets = [] ∧ (t.fifo f w).flush = false ∧ (t.fifo f w).underrun = false ∧
      (t.wave f w).partial_ = none ∧
      (t.fab (f.val / 8)).flushed = (s.fab (f.val / 8)).flushed +
        BitVec.ofNat 32 ((s.fifo f w).packets.length + if (s.wave f w).partial_ = none then 0 else 1) ∧
      { t with ports := s.ports, fabs := s.fabs } = s)


/-- The router makes the next move of the packet that its output serves next, the oldest in the package and round-robin among equals, under
the credits of its class: on a lane the packet takes one credit for every block, after a control block with the credits that the lane
owes; to another die it goes as transit flits; in this package it waits for its unit, but for a request that breaks Table 11.1, which is
answered `BAD_PKT`, and an unknown type, which is counted; a copy with no lane up is counted, and so is a packet with no way to go.
With its last move the packet leaves its input, a FIFO owing the credits of its blocks. The moves of a packet are told apart, one for a
unicast packet by its route and, in hypercube mode, one for each dimension of a fan mask that its die holds, one crossing to every other
lightplane die of the mask, and one delivery of what was received (R315, R317, R320, R322, R323, R327, R333). The model's own
choices here: the queue of a die's own packets is one input of the round robin (log entry 26), a copy names its receiver and a mask
crosses to another die as one packet (log entry 35), and a `BAD_PKT` reply to a collective request has the type 0x80 above it (log entry
93). -/
def Obligations.TheRouterForwardsPackets : Prop :=
  (∀ (k : LpId) (inp : FabricInput) (s : State) (i : Nat) (p : Packet) (m : Move), s.inDomainReset (.fab k) = false → ownInput k inp →
    NextMove s k (inputKey inp) i p m → s.unfinished k i = false →
    Answers (.packetForward k inp) s fun t => ∃ u, LeavesInput s u k i p m (∀ x ∈ s.movesLeft k i p, x.key = m.key) ∧ MoveMade u t k i m) ∧
  (∀ (s : State) (k : LpId) (i : Nat) (p : Packet), fld p.fan 11 0 = 0 →
    (s.routeFrom k i p = .here → s.movesOf k i p = [.here p]) ∧
    (∀ f w d x, s.routeFrom k i p = .lane f w d x → s.movesOf k i p = [.lane f w (s.hopFlags p f d x)]) ∧
    (∀ k2, s.routeFrom k i p = .die k2 → s.movesOf k i p = [.cross k2 true p]) ∧
    (s.routeFrom k i p = .wait → ∀ m ∈ s.movesOf k i p, s.eligible k i m = false) ∧
    (s.routeFrom k i p = .unreachable → ∃ n r, s.movesOf k i p = [.nowhere n r] ∧
      (p.network = 0 → routePresent (s.routeEntry p.dstPkg) = false → ∃ q : Packet, r = some q ∧ ReplyTo p q 0x21 []) ∧
      (p.network ≠ 0 ∨ routePresent (s.routeEntry p.dstPkg) = true → r = none))) ∧
  (∀ (s : State) (k : LpId) (i : Nat) (p : Packet), fld p.fan 11 0 ≠ 0 → s.torus = false →
    let m := fld p.fan 11 0
    let ms := s.movesOf k i p
    (ms.map Move.key).Nodup ∧
    (∀ d < 12, nbit m d = true → d / 3 = k.val →
      (∀ f w, s.fanLane p d = some (f, w) → f / 8 = k.val ∧ ∃ q : Packet, Move.lane f w q ∈ ms ∧
        q.fan.toNat = m / 2 ^ (d + 1) * 2 ^ (d + 1) ∧ q.dst.toNat = cubeNeighbour s.ownPackage d ∧ { q with fan := p.fan, dst := p.dst } = p) ∧
      (s.fanLane p d = none → Move.lost d ∈ ms)) ∧
    (∀ k2 < 4, k2 ≠ k.val → (i < 128 ∨ 132 ≤ i) → (∃ d < 12, nbit m d = true ∧ d / 3 = k2) →
      (s.transitOpen k k2 = true → Move.cross k2 false p ∈ ms) ∧ (s.transitOpen k k2 = false → Move.nowhere k2 none ∈ ms)) ∧
    (i < 128 → homeDie k (s.fanHere p) = k.val → Move.here (s.fanHere p) ∈ ms) ∧
    (∀ q, Move.here q ∈ ms → i < 128))

/-- A packet still arriving at an otherwise empty FIFO is started once the threshold is met: its consumer holds the output and takes the
blocks that have come, and every later command takes those that have come since, until the packet is whole. A lane with nothing to send
ends its multiframe with `IDLE`, the first with the credits that it owes; a steered wavelength, and a circuit output that no slot adds
to, sends none (R285, R315, R318, R333-R335). How many blocks one command moves, and that `IDLE` fills a frame at once, are the model's
choice (log entry 26). -/
def Obligations.MulticastCutThroughAndIdle : Prop :=
  (∀ (f : FibreId) (w : WaveId) (k : LpId) (s : State) (p : Packet) (m : Move) (q : Packet), s.inDomainReset (.fab k) = false →
    f.val / 8 = k.val → (s.fifo f w).packets = [] →
    let i := 16 * (f.val % 8) + w.val
    let n := s.arriving f w
    NextMove s k [i] i p m → (m = .here q ∨ (∃ f2 w2, m = .lane f2 w2 q) ∨ ∃ k2 h, m = .cross k2 h q) →
    let taken := match m with | .cross _ _ _ => n / 2 * 2 | _ => n
    let out : Packet := { p with flags := q.flags }
    let bs := out.blocks.take taken
    Answers (.packetForward k (.fifo f w)) s fun t =>
      (t.fifo f w).started = true ∧ (t.fifo f w).out = m.out ∧ (t.fifo f w).gone = taken ∧ (t.fifo f w).outFlags = q.flags ∧
      (t.fifo f w).packets = [] ∧ FollowsOut (s.setFifo f w ((s.fifo f w).owe p.fcClass bs.length)) t k m.out out bs) ∧
  (∀ (f : FibreId) (w : WaveId) (k : LpId) (s : State) (p : Packet), s.inDomainReset (.fab k) = false → f.val / 8 = k.val →
    s.startedPacket f w = some p →
    let x := s.fifo f w
    let whole := !x.packets.isEmpty
    let q : Packet := { p with flags := x.outFlags }
    let there := if whole then q.blockCount else s.arriving f w
    let taken := if (128 ≤ x.out ∧ x.out < 132) ∧ whole = false then there / 2 * 2 else there
    let bs := (q.blocks.take taken).drop x.gone
    Answers (.packetForward k (.fifo f w)) s fun t =>
      (whole = false → (t.fifo f w).started = true ∧ (t.fifo f w).gone = taken ∧ (t.fifo f w).packets = []) ∧
      (whole = true → (t.fifo f w).started = false ∧ (t.fifo f w).gone = 0 ∧
        (x.out < 128 → SMap.get {} (t.fab k).sent x.out = q)) ∧
      (x.out < 132 → FollowsOut (s.setFifo f w (x.owe p.fcClass bs.length)) t k x.out q bs) ∧
      (132 ≤ x.out → whole = true → ∃ u, (u.fifo f w).packets = x.packets.drop 1 ∧ OnlyLaneOf s u k ∧ Delivered u t k (16 * (f.val % 8) + w.val) q.trim)) ∧
  (∀ (f : FibreId) (w : WaveId) (k : LpId) (s : State), s.inDomainReset (.fab k) = false → f.val / 8 = k.val →
    s.startedPacket f w = none → (∀ p m, ¬NextMove s k [16 * (f.val % 8) + w.val] (16 * (f.val % 8) + w.val) p m) →
    let x := s.fifo f w
    let idles : Prop := s.portOpen f = true ∧ s.steered f w = false ∧ (circuitWave f w = true → s.addsNow f w = true)
    (idles → Answers (.packetForward k (.fifo f w)) s fun t =>
      let y := (s.wave f w).sends false [x.creditBlock 0xF0]
      t.wave f w = y.sends false (List.replicate (500 - y.txBlocks.length) (controlBlockOf 0xF0 0 0 0)) ∧
      t.fifo f w = { x with owed0 := x.owed0 - min 1024 x.owed0, owed1 := x.owed1 - min 1024 x.owed1 } ∧
      SMap.get 0 (t.fab k).sentCtl (16 * (f.val % 8) + w.val) = x.creditBlock 0xF0 ∧
      { t.fab k with fifos := [], sentCtl := [] } = { s.fab k with fifos := [], sentCtl := [] } ∧ OnlyLaneOf s t k) ∧
    (¬idles → exec (.packetForward k (.fifo f w)) s = .next s))

/-- A queued request enters the router when its class has tokens and the fabric is not draining: its bytes are spent and a memory
request is then outstanding for 100 us; a stopped fabric injects none, and one whose route has gone completes as `UNREACHABLE` without a
packet. The oldest relay of a die goes first in class 3, when its output would serve it. A drain completes when nothing is outstanding
or held. A congestion sample counts every port and network of the die once, in the bin of its occupancy (R325, R331-R333, R339, R342,
R349, R401). -/
def Obligations.InjectionDrainingAndSamples : Prop :=
  (∀ (k : LpId) (cls : Fin 4) (s : State) (p : Packet) (rest : List Packet), s.inDomainReset (.fab k) = false →
    (cls.val = 3 → s.sendRelay k = none) → SMap.get [] (s.fab k).inject cls = p :: rest →
    let gone : Prop := fld p.fan 11 0 = 0 ∧ routePresent (s.routeEntry p.dstPkg) = false
    (s.hub.stopped = true ∨ ¬gone ∧ s.tokensAllow k cls = false → exec (.packetInject k cls) s = .next s) ∧
    (s.hub.stopped = false → gone → Answers (.packetInject k cls) s fun t =>
      SMap.get [] (t.fab k).inject cls = rest ∧ (∀ c, c ≠ cls.val → SMap.get [] (t.fab k).inject c = SMap.get [] (s.fab k).inject c) ∧
      { t.fab k with inject := [], issuers := [] } = { s.fab k with inject := [], issuers := [] } ∧
      (p.collective = false → fld p.reqId 28 23 = 32 →
        (t.issuer k (fld p.reqId 31 29 % 2)).out = (s.issuer k (fld p.reqId 31 29 % 2)).out.map fun y =>
          if y.reqId = some p.reqId ∧ y.reply = none then { y with reply := some (0x21, [], 0) } else y) ∧
      (∀ c d, c = 32 * fld p.reqId 31 29 + fld p.reqId 28 23 → p.collective = false → fld p.reqId 28 23 < 32 → (s.channel c).cur = some d →
        let out := d.out.map fun y => if y.reqId = some p.reqId ∧ y.resp = none then { y with resp := some (true, [], []) } else y
        t.channel c = { s.channel c with cur := some { d with out := out } }) ∧
      (∀ j, j ≠ k.val → t.fab j = s.fab j) ∧ { t with fabs := s.fabs, channels := s.channels } = s) ∧
    (s.hub.stopped = false → ¬gone → s.tokensAllow k cls = true → Answers (.packetInject k cls) s fun t =>
      SMap.get [] (t.fab k).inject cls = rest ∧
      (∀ c, c ≠ cls.val → SMap.get [] (t.fab k).inject c = SMap.get [] (s.fab k).inject c) ∧
      (t.fab k).outq = (s.fab k).outq ++ [{ p with injectUs := BitVec.ofNat 32 s.cadUs }] ∧
      (t.fab k).out = (s.fab k).out ++ (if p.collective then [] else [{ reqId := p.reqId, deadline := s.nowNs + 100000 }]) ∧
      (s.keyN 0x0301 (16 * cls.val) 4 ≠ 0xFFFFFFFF →
        (t.fab k).tokens[cls.val]? = some ((s.accrued k cls).1 - Int.ofNat (32 * p.blockCount)) ∧
        ∀ c : Fin 4, c ≠ cls → (t.fab k).tokens[c.val]? = some (s.accrued k c).1) ∧
      { t.fab k with inject := [], outq := [], out := [], tokens := [], tokenFrac := [], tokensAt := 0 } =
        { s.fab k with inject := [], outq := [], out := [], tokens := [], tokenFrac := [], tokensAt := 0 } ∧
      (∀ j, j ≠ k.val → t.fab j = s.fab j) ∧ { t with fabs := s.fabs, engines := s.engines } = s ∧
      (p.ty ≠ 0x10 → t.engines = s.engines))) ∧
  (∀ (k : LpId) (s : State) (r : CubePort × Bool × BitVec 512), s.inDomainReset (.fab k) = false →
    s.hub.relayOut.find? (fun r => cubeFibre r.1.val / 8 == k.val) = some r →
    (s.portOpen (cubeFibre r.1.val) = false → exec (.packetInject k 3) s = .next { s with hub := { s.hub with relayOut := s.hub.relayOut.erase r } }) ∧
    (s.portOpen (cubeFibre r.1.val) = true → 3 ≤ (s.fifo (cubeFibre r.1.val) 0).credit0 →
      s.outputFree k (16 * (cubeFibre r.1.val % 8)) = true → Answers (.packetInject k 3) s fun t =>
      t.hub = { s.hub with relayOut := s.hub.relayOut.erase r } ∧
      (SMap.get {} (t.fab k).sent (16 * (cubeFibre r.1.val % 8))).relay = true ∧
      (SMap.get {} (t.fab k).sent (16 * (cubeFibre r.1.val % 8))).payload = leBytes 64 r.2.2.toNat ∧
      (t.fifo (cubeFibre r.1.val) 0).credit0 = (s.fifo (cubeFibre r.1.val) 0).credit0 - 3 ∧
      (∀ j, j ≠ k.val → t.fab j = s.fab j) ∧ { t with fabs := s.fabs, hub := s.hub, ports := s.ports } = s)) ∧
  (∀ s : State, (s.drained = false → exec .fabricDrained s = .next s) ∧
    (s.drained = true → (∀ o ∈ s.hub.openCmds, o.opcode ≠ 0x33) → exec .fabricDrained s = .next s) ∧
    (s.drained = true → ∀ o, s.hub.openCmds.find? (fun o => o.opcode == 0x33) = some o →
      Answers .fabricDrained s fun t => t.hub.openCmds = s.hub.openCmds.erase o ∧ t.hub.stopped = true ∧
        HubReplied s t o.mb (respSlot 0x33 0x00 o.tag.toNat 0 1 0) ∧ HubOnly s t)) ∧
  (∀ (k : LpId) (s : State), s.inDomainReset (.fab k) = false →
    Answers (.congestionSample k) s fun t =>
      (∀ f n, (f, n) ∈ congestionPlaces → f / 8 = k.val →
        let level := ((List.range 16).filter fun w => s.congestionNet f w == n).foldl (fun b w => b + 32 * s.fifoLevel f w) 0
        t.congestionOf f n =
          { s.congestionOf f n with
            samples := (s.congestionOf f n).samples + 1
            bins := (List.range 8).map fun b =>
              if b = congestionBin level then ((s.congestionOf f n).bins[b]?).getD 0 + 1 else ((s.congestionOf f n).bins[b]?).getD 0
            stall := if s.stalled k f n then (s.congestionOf f n).stall + 1 else (s.congestionOf f n).stall }) ∧
      { t.fab k with congestion := [] } = { s.fab k with congestion := [] } ∧
      (∀ j, j ≠ k.val → t.fab j = s.fab j) ∧ OnlyFabs s t)

/-- Every flit on the record lane is a record, and joins the issuer's queue of 64. The record at its head starts when fewer than 64 are outstanding and no
`FENCE` is: a record that breaks its form is complete with 0x23, a `FENCE` with 0; in the package its access waits at the servant side
of its memory; beyond it a send window must cover it, and the request is queued in class 1 (R20, R337-R340). A successful record that
reads has its result written by a servant access of its own die, and completes when that is answered; one with no result, or with a
status of 0x10 or more, completes at once, a `FENCE` after every earlier record. A completion below 0x10 steps its chunk counter by
one; another is a program fault 0x1E while a program runs (R338, R346). The model's choices here: a record is checked when it starts, one
for the own package is served inside it, and a result that cannot be written steps no counter (log entry 54). -/
def Obligations.OperationRecordsStartAndComplete : Prop :=
  (∀ (k : LpId) (i : Fin 2) (s : State) (e : ServFlit), s.inDomainReset (.fab k) = false →
    let r := recordRouter (issuerDie k i)
    (s.router r).fifoOut.find? (fun e => e.port == .p3 && s.crossed e) = some e →
    ((s.issuer k i).queue.length < 64 → Answers (.operationRecord k i) s fun t =>
      t.issuer k i = { s.issuer k i with queue := (s.issuer k i).queue ++ [e.flit] } ∧
      t.router r = { s.router r with fifoOut := (s.router r).fifoOut.erase e } ∧
      (∀ n, laneEnd r .p3 = some n → ∃ b, (t.linkEnd n).credits = (s.linkEnd n).credits ++ [(laneOf r .p3, b, none)]) ∧
      (∀ j, j ≠ r → t.router j = s.router j) ∧ { t with routers := s.routers, fabs := s.fabs, ends := s.ends } = s) ∧
    (64 ≤ (s.issuer k i).queue.length → exec (.operationRecord k i) s = .next s)) ∧
  StartsRecords .opLoad 1 ∧ StartsRecords .opStore 2 ∧ StartsRecords .opAtomic 3 ∧ StartsRecords .opFence 4 ∧
  (∀ (k : LpId) (i : Fin 2) (n : Nat) (s : State) (o0 : OpRun), s.inDomainReset (.fab k) = false →
    (s.issuer k i).out.find? (fun o => o.n == n) = some o0 →
    let o := o0.settled
    let ends (st : Nat) (t : State) : Prop :=
      t.issuer k i = { s.issuer k i with out := (s.issuer k i).out.erase o0 } ∧ t.mem = s.mem ∧
      (st < 0x10 → (∀ c, SMap.get 0 t.chunk c = if c = opCtr o.record then SMap.get 0 s.chunk c + 1 else SMap.get 0 s.chunk c) ∧
        { t with fabs := s.fabs, chunk := s.chunk } = s) ∧
      (0x10 ≤ st → s.prog.running = true → FaultRecorded s t 0x1E 5 (issuerDie k i) i.val ∧ t.chunk = s.chunk) ∧
      (0x10 ≤ st → s.prog.running = false → OnlyFabs s t)
    (∀ j, o0.reply = none → o0.job = some j → j.done = true →
      let r := j.result (opCode o0.record == 1)
      o = { o0 with job := none, reply := some (BitVec.ofNat 8 r.1, r.2.map (·.1), poisonMask j.off (r.2.map (·.2))) }) ∧
    (∀ st data mask, o.reply = some (st, data, mask) →
      let fence : Prop := opCode o.record = 4 ∧ ∃ y ∈ (s.issuer k i).out, y.n < n
      let result : Prop := st.toNat < 0x10 ∧ (opCode o.record = 1 ∨ opCode o.record = 3) ∧ data ≠ []
      (o.job = none → fence → exec (.opRecordComplete k i n) s = .next s) ∧
      (o.job = none → ¬fence → ¬result → Answers (.opRecordComplete k i n) s (ends st.toNat)) ∧
      (o.job = none → ¬fence → result → Answers (.opRecordComplete k i n) s fun t => ∃ m : State, OnlyFabs s m ∧
        (∀ j, j ≠ k.val → m.fab j = s.fab j) ∧
        m.issuer k i = { s.issuer k i with out := (s.issuer k i).out.map fun y =>
          if y.n = n then { o with job := some { off := opResult o.record, len := data.length } } else y } ∧
        ((∃ off, (∃ g, regionOf (opResult o.record) = some (.store g, off)) ∨ ∃ p, regionOf (opResult o.record) = some (.scratch p, off)) → Queued m t
          { owner := .record k i n, write := true, addr := opResult o.record, data := data, len := data.length, whole := data.length
            poison := (List.range data.length).map fun j => bitOf mask ((gaOffset (opAddr o.record) % 256 + j) / 8) })) ∧
      (∀ j, o.job = some j → j.done = false → exec (.opRecordComplete k i n) s = .next s) ∧
      (∀ j, o.job = some j → j.done = true →
        Answers (.opRecordComplete k i n) s (ends (if j.status = 0 then st.toNat else 0x10)))) ∧
    (o.reply = none → exec (.opRecordComplete k i n) s = .next s))


/-- Remote requests are taken in the order of their delivery, but for one that an overlapping request of its source holds up. A `LOAD` or
`STORE` of memory waits at the servant side of the memory that holds its range, one of control space acts on the mailboxes its
sender may reach, and a range that may not be accessed is answered 0x10 with nothing changed; a performed request is answered with what
it read. An `ATOMIC` on a naturally aligned word of the vaults, HBM4 or capacity memory is one read-modify-write that answers the old
value. A reply goes to the source that its request identifier names, which is then no longer outstanding (R242, R316, R338, R343, R344, Table
11.6). -/
def Obligations.RemoteMemoryIsServedWhereItLies : Prop :=
  AnswersPerformed .remoteLoad (fun p => p.ty == 0x01) ∧ AnswersPerformed .remoteStore (fun p => p.ty == 0x02) ∧
  (∀ (k : LpId) (s : State) (f : Option (FibreId × WaveId)) (p : Packet), s.serves k (fun p => p.ty == 0x01) f p →
    let n := fld p.len 8 0
    let off := p.offset.toNat
    (fld p.space 3 0 = 0 → s.refusesAccess off n = false → Answers (.remoteLoad k) s fun t => RemoteIssued s t k f p n none) ∧
    (fld p.space 3 0 = 0 → s.refusesAccess off n = true → Answers (.remoteLoad k) s fun t => RemoteAnswered s t k f p 0x10 [] ∧ OnlyFabs s t) ∧
    (∀ m o, fld p.space 3 0 = 1 → controlPlace (f.map (·.1)) off n = some (m, o) →
      Answers (.remoteLoad k) s fun t => RemoteAnswered s t k f p 0x00
        ((List.range (n / 4)).flatMap fun i => leBytes 4 (s.mbWord m (o + 4 * i)).toNat) ∧ OnlyFabs s t) ∧
    (fld p.space 3 0 ≠ 0 → (fld p.space 3 0 = 1 → controlPlace (f.map (·.1)) off n = none) →
      Answers (.remoteLoad k) s fun t => RemoteAnswered s t k f p 0x10 [] ∧ OnlyFabs s t)) ∧
  (∀ (k : LpId) (s : State) (f : Option (FibreId × WaveId)) (p : Packet), s.serves k (fun p => p.ty == 0x02) f p →
    let n := p.payload.length
    let off := p.offset.toNat
    (fld p.space 3 0 = 0 → s.refusesAccess off n = false → Answers (.remoteStore k) s fun t => RemoteIssued s t k f p n none) ∧
    (fld p.space 3 0 = 0 → s.refusesAccess off n = true → Answers (.remoteStore k) s fun t => RemoteAnswered s t k f p 0x10 [] ∧ OnlyFabs s t) ∧
    (∀ m o, fld p.space 3 0 = 1 → controlPlace (f.map (·.1)) off n = some (m, o) → n = 4 →
      Answers (.remoteStore k) s fun t => ∃ q : Packet, ReplyTo p q 0x00 [] ∧ (t.fab k).outq.getLast? = some q ∧
        (t.fab k).local_ = (s.fab k).local_.erase (f, p) ∧ t.mem = s.mem ∧
        t.mb m = (s.writeMb m o (BitVec.ofNat 32 (leNat p.payload))).mb m) ∧
    (fld p.space 3 0 ≠ 0 → (fld p.space 3 0 = 1 → controlPlace (f.map (·.1)) off n = none) →
      Answers (.remoteStore k) s fun t => RemoteAnswered s t k f p 0x10 [] ∧ OnlyFabs s t)) ∧
  PerformsAtomic .atomicAdd 0 (fun n old op0 _ => (old + op0) % 2 ^ n) ∧
  PerformsAtomic .atomicSwap 1 (fun _ _ op0 _ => op0) ∧
  PerformsAtomic .atomicCas 2 (fun _ old op0 op1 => if old = op0 then op1 else old) ∧
  PerformsAtomic .atomicMin 3 (fun n old op0 _ => if (BitVec.ofNat n old).toInt ≤ (BitVec.ofNat n op0).toInt then old else op0) ∧
  PerformsAtomic .atomicMax 4 (fun n old op0 _ => if (BitVec.ofNat n op0).toInt ≤ (BitVec.ofNat n old).toInt then old else op0) ∧
  PerformsAtomic .atomicMinu 5 (fun _ old op0 _ => if old ≤ op0 then old else op0) ∧
  PerformsAtomic .atomicMaxu 6 (fun _ old op0 _ => if op0 ≤ old then old else op0) ∧
  PerformsAtomic .atomicFadd 7 (fun n old op0 _ => (fp32.addOp old op0).1 % 2 ^ n) ∧
  (∀ (k : LpId) (s : State) (x : Option (FibreId × WaveId) × Packet) (o : Outstanding), s.inDomainReset (.fab k) = false →
    (s.fab k).local_.find? (fun x => x.2.network == 1 && !x.2.collective) = some x →
    (s.fab k).out.find? (fun o => o.reqId == x.2.reqId) = some o →
      Answers (.replyReceive k) s fun t =>
        (t.fab k).local_ = (s.fab k).local_.erase x ∧ (t.fab k).out = (s.fab k).out.erase o ∧
        (t.fab k).errReply = (if 0x10 ≤ x.2.code.toNat then (s.fab k).errReply + 1 else (s.fab k).errReply) ∧
        (∀ d, fld x.2.reqId 28 23 < 32 →
          (s.channel (32 * fld x.2.reqId 31 29 + fld x.2.reqId 28 23)).cur = some d →
          let bad := x.2.payload.zipIdx.map fun b => bitOf x.2.poison ((x.2.offset.toNat % 256 + b.2) / 8)
          let out := d.out.map fun y =>
            if y.reqId = some x.2.reqId ∧ y.resp = none then { y with resp := some (decide (0x10 ≤ x.2.code.toNat), x.2.payload, bad) } else y
          t.channel (32 * fld x.2.reqId 31 29 + fld x.2.reqId 28 23) =
            { s.channel (32 * fld x.2.reqId 31 29 + fld x.2.reqId 28 23) with cur := some { d with out := out } }) ∧
        (fld x.2.reqId 28 23 = 32 →
          (t.issuer k (fld x.2.reqId 31 29 % 2)).out = (s.issuer k (fld x.2.reqId 31 29 % 2)).out.map fun y =>
            if y.reqId = some x.2.reqId ∧ y.reply = none then { y with reply := some (BitVec.ofNat 8 x.2.code.toNat, x.2.payload, x.2.poison) } else y) ∧
        (∀ j, j ≠ k.val → t.fab j = s.fab j) ∧ { t with fabs := s.fabs, channels := s.channels } = s)

/-- A request is outstanding for 100 us from its injection; without a reply by then it ends as timed out at its source, a record or a copy
access. A reply that comes later, or matches no request, is discarded and counted (R342). -/
def Obligations.RepliesFindTheirRequests : Prop :=
  (∀ (k : LpId) (cls : Fin 4) (s : State) (p : Packet) (rest : List Packet), s.inDomainReset (.fab k) = false →
    (cls.val = 3 → s.sendRelay k = none) → SMap.get [] (s.fab k).inject cls = p :: rest → p.collective = false →
    s.hub.stopped = false → routePresent (s.routeEntry p.dstPkg) = true → s.tokensAllow k cls = true →
    Answers (.packetInject k cls) s fun t =>
      (t.fab k).out = (s.fab k).out ++ [{ reqId := p.reqId, deadline := s.nowNs + 100000 }] ∧ { t with fabs := s.fabs } = s) ∧
  (∀ (k : LpId) (s : State) (x : Option (FibreId × WaveId) × Packet), s.inDomainReset (.fab k) = false →
    (s.fab k).local_.find? (fun x => x.2.network == 1 && !x.2.collective) = some x →
    ((∀ o ∈ (s.fab k).out, o.reqId ≠ x.2.reqId) → Answers (.replyReceive k) s fun t =>
      t.fab k = { s.fab k with local_ := (s.fab k).local_.erase x, replyLate := (s.fab k).replyLate + 1 } ∧
      (∀ j, j ≠ k.val → t.fab j = s.fab j) ∧ OnlyFabs s t)) ∧
  (∀ (k : LpId) (r : Word32) (s : State) (o : Outstanding), s.inDomainReset (.fab k) = false → 32 ≤ fld r 28 23 →
    (s.fab k).out.find? (fun o => o.reqId == r && decide (o.deadline ≤ s.nowNs)) = some o →
    Answers (.requestTimeout k r) s fun t =>
      (t.fab k).out = (s.fab k).out.erase o ∧ (t.fab k).timeout = (s.fab k).timeout + 1 ∧
      (fld r 28 23 = 32 → (t.issuer k (fld r 31 29 % 2)).out = (s.issuer k (fld r 31 29 % 2)).out.map (fun y =>
        if y.reqId = some r ∧ y.reply = none then { y with reply := some (0x22, [], 0) } else y)) ∧
      (32 < fld r 28 23 → (t.fab k).issuers = (s.fab k).issuers) ∧
      (∀ j, j ≠ k.val → t.fab j = s.fab j) ∧ OnlyFabs s t) ∧
  (∀ (k : LpId) (r : Word32) (s : State) (o : Outstanding) (d : DescRun) (x : Access), s.inDomainReset (.fab k) = false →
    fld r 28 23 < 32 → (s.fab k).out.find? (fun o => o.reqId == r && decide (o.deadline ≤ s.nowNs)) = some o →
    let c := 32 * fld r 31 29 + fld r 28 23
    (s.channel c).cur = some d → d.out.find? (fun x => x.reqId == some r) = some x →
    Answers (.requestTimeout k r) s fun t =>
      (t.fab k).out = (s.fab k).out.erase o ∧ (t.fab k).timeout = (s.fab k).timeout + 1 ∧
      (∃ e, (t.channel c).cur = some e ∧ e.out = d.out.erase x ∧ e.failed = true ∧ e.timedOut = true) ∧
      t.mem = s.mem ∧ t.pending = s.pending ∧ (∀ j, j ≠ k.val → t.fab j = s.fab j) ∧ (∀ j, j ≠ c → t.channel j = s.channel j))

/-- A `DTRIG` that keeps the order of phases waits four beats for its phase; one that does not is a fault of its spoke. The phase
of the oldest trigger then begins: `OPEN` empties the route table for its descriptor, `DISPATCH` and `COMBINE` run for their
duration, and `VOID` also puts its windows, unarmed, into the arrays. A route record that keeps its rules lands in the table of
the open descriptor (R147-R152, R161, R162, R172, R194). Which of several faults of a record is raised (log entry 81), and that the record of a
trigger's fault names the spoke (log entry 83), are the model's choices. -/
def Obligations.TriggersStartTheirPhases : Prop :=
  Triggers .dtrigOpen 0 ∧ Triggers .dtrigDispatch 1 ∧ Triggers .dtrigVoid 2 ∧ Triggers .dtrigCombine 3 ∧
  (∀ (die : DieId) (s : State) (desc code f : Nat) (rest : List (Nat × Nat × Nat)),
    (s.derailleur die).triggers = (desc, code, f) :: rest → s.runs = true → f ≤ s.pbeat →
    let d := { (s.derailleur die).settle s.pbeat with triggers := rest }
    let y := layerDesc (SMap.get 0 d.desc desc)
    let beats := max ((y.tok + 31) / 32) ((y.slots + 31) / 32)
    let home := if y.initHome then y.tok else 0
    let running (phase : BitVec 3) (duration : Nat) : DerailleurState :=
      { d with phase := phase, phaseDesc := desc, phaseStart := f, phaseEnd := f + duration, sweeps := [] }
    Answers (.derailleurPhaseStart die) s fun t =>
      (code = 0 → t.derailleur die = { d with route := [], collect := some desc } ∧ t.arrays = s.arrays) ∧
      (code = 1 → t.derailleur die =
        { running 1 (y.tok + 16 + (y.inLines + 1) * beats + ((d.bound y).length + 31) / 32) with
          collect := none, lastDispatch := some desc } ∧ t.arrays = s.arrays) ∧
      (code = 2 → t.derailleur die =
          { running 3 ((y.fills + 31) / 32 + 2) with
            fillSum := [], sweeps := [{ kind := .voidIn, line := 0, start := f, count := y.fills }] } ∧
        ∀ g, t.array g = { s.array g with windows := (s.array g).windows ++
          ((voidEntries y).filter fun e => 2048 * die.val + fld (SMap.get 0 d.voidTab e) 50 40 == g).map fun e =>
            { entry := e, first := f + fld (SMap.get 0 d.voidTab e) 39 20, len := fld (SMap.get 0 d.voidTab e) 19 0, armed := false } }) ∧
      (code = 3 → t.derailleur die = running 4 ((y.outLines + 1) * max ((y.slots + home + 31) / 32) ((y.tok + 31) / 32)) ∧
        t.arrays = s.arrays) ∧
      (∀ q, q ≠ die.val → t.derailleur q = s.derailleur q) ∧ { t with derailleurs := s.derailleurs, arrays := s.arrays } = s) ∧
  (∀ (p : SpokeId) (s : State) (due : Nat) (r : BitVec 512), (s.spoke p).record = some (due, r) → s.runs = true → due ≤ s.pbeat →
    let die := p.val / 256
    let d := s.derailleur die
    (d.collect = none → Answers (.routeLanding p) s fun t => FaultRecorded s t 0x12 2 die 0 ∧ t.derailleurs = s.derailleurs) ∧
    (∀ desc, d.collect = some desc →
      let y := layerDesc (SMap.get 0 d.desc desc)
      (slotN r 0 2 < y.tokBase ∨ y.tokBase + y.tok ≤ slotN r 0 2 ∨ SMap.get? d.route (slotN r 0 2 - y.tokBase) ≠ none →
        Answers (.routeLanding p) s fun t => FaultRecorded s t 0x13 2 die 0 ∧ t.derailleurs = s.derailleurs) ∧
      (d.recordFault r = none → Answers (.routeLanding p) s fun t =>
        (∀ i, SMap.get? (t.derailleur die).route i = if i = slotN r 0 2 - y.tokBase then some r else SMap.get? d.route i) ∧
        { t.derailleur die with route := [] } = { d with route := [] } ∧
        t.spoke p = { s.spoke p with record := none, landed := some due } ∧
        (∀ q, q ≠ die → t.derailleur q = s.derailleur q) ∧ (∀ q, q ≠ p.val → t.spoke q = s.spoke q) ∧
        { t with derailleurs := s.derailleurs, spokes := s.spokes } = s)))

/-- After T + 16 beats of `DISPATCH` every choice is placed or dropped, and no expert has more tokens than its quota of slots.
Each sweep starts in its beat; a result of a combine that leaves in that beat and sums a poisoned line is a machine check. At the end of
`VOID`, of the windows in the descriptor's range exactly those of this die's experts that received no token are armed; entries outside that
range stay as they were, which is the model's choice (log entry 82) (R153-R161, R163, R166, R167, R173, R217). -/
def Obligations.AssignmentSweepsAndVoidArming : Prop :=
  (∀ (die : DieId) (s : State), s.runs = true → (s.derailleur die).phase = 1 →
    (s.derailleur die).phaseStart + (s.derailleur die).layer.tok + 15 ≤ s.pbeat →
    let d := s.derailleur die
    Answers (.assignment die) s fun t =>
      let e := t.derailleur die
      let grown (i : Nat) : Word32 := SMap.get 0 e.counters (16 * d.phaseDesc + i) - SMap.get 0 d.counters (16 * d.phaseDesc + i)
      e.phase = 2 ∧ (∀ x, SMap.get 0 e.filled x ≤ d.quotaOf die x) ∧
      grown 1 + grown 2 = BitVec.ofNat 32 d.layer.tok ∧ grown 4 = grown 5 + grown 6 + grown 7 + grown 8 ∧
      grown 9 = grown 5 + grown 6 + grown 7 ∧
      (∀ n, n / 16 ≠ d.phaseDesc → SMap.get 0 e.counters n = SMap.get 0 d.counters n) ∧
      { e with phase := 0, exits := [], skips := [], ledger := [], filled := [], counters := [] } =
        { d with phase := 0, exits := [], skips := [], ledger := [], filled := [], counters := [] } ∧
      (∀ q, q ≠ die.val → t.derailleur q = s.derailleur q) ∧ { t with derailleurs := s.derailleurs } = s) ∧
  (∀ (die : DieId) (out : Bool) (line : Nat) (s : State),
    let d := s.derailleur die
    let y := d.layer
    let beats := max ((y.tok + 31) / 32) ((y.slots + 31) / 32)
    d.phase = 2 → line < y.inLines →
    SweepStarts (.dispatchSweep die out line) die s
      { kind := if out then .dispatchOut else .dispatchIn, line := line
        start := d.phaseStart + y.tok + 16 + (line + if out then 1 else 0) * beats, count := if out then y.slots else y.tok }) ∧
  (∀ (die : DieId) (s : State),
    let d := s.derailleur die
    let y := d.layer
    let beats := max ((y.tok + 31) / 32) ((y.slots + 31) / 32)
    d.phase = 2 →
    SweepStarts (.fillSweep die) die s
      { kind := .fillOut, line := 0, start := d.phaseStart + y.tok + 16 + (y.inLines + 1) * beats, count := (d.bound y).length }) ∧
  (∀ (die : DieId) (out : Bool) (line : Nat) (s : State),
    let d := s.derailleur die
    let y := d.layer
    let home := if y.initHome then y.tok else 0
    let beats := max ((y.slots + home + 31) / 32) ((y.tok + 31) / 32)
    let w : Sweep := { kind := if out then .combineOut else .combineIn, line := line
                       start := d.phaseStart + (line + if out then 1 else 0) * beats, count := if out then y.tok else y.slots + home }
    d.phase = 4 → line < y.outLines →
    let sums (i : Nat) : Prop := i < w.count ∧ w.start + i / 32 = s.pbeat
    let bad (i : Nat) : Prop := ∃ x ∈ d.summed y i, SMap.get 0 d.linePoison (16384 * (line % 2) + x) ≠ 0
    (∀ x ∈ d.sweeps, s.pbeat < x.start + (x.count + 31) / 32 → x.kind = .combineIn) →
    ((out = true → ∀ i, sums i → ¬bad i) → SweepStarts (.combineSweep die out line) die s w) ∧
    (out = true → (∃ i, sums i ∧ bad i) → s.runs = true → w ∉ d.sweeps → Answers (.combineSweep die out line) s fun t =>
        w ∈ (t.derailleur die).sweeps ∧ t.beat.faultHold = true ∧ t.beat.machineCheck = true ∧
        ∃ r, t.hubLog.getLast? = some r ∧ r.cls = 2 ∧ r.code = 0x40 ∧ r.unitKind = 2 ∧ r.die = BitVec.ofNat 8 die.val)) ∧
  (∀ (die : DieId) (s : State), s.runs = true → (s.derailleur die).phase = 3 → (s.derailleur die).phaseEnd ≤ s.pbeat + 1 →
    let d := s.derailleur die
    let y := d.layer
    let entry (e : Nat) : Word64 := SMap.get 0 d.voidTab e
    let arms (e : Nat) : Prop :=
      let x := fld (entry e) 63 51
      x ∈ d.bound y ∧ d.kind x = 1 ∧ slotN (SMap.get 0 d.binding x) 3 1 % 8 = die.val ∧
        nbit (slotN (SMap.get 0 d.binding x) 3 1) 3 = true ∧ SMap.get 0 d.fillSum x = 0
    Answers (.voidArming die) s fun t =>
      (t.derailleur die).phase = 0 ∧ (t.derailleur die).sweeps = [] ∧
      (∀ e ∈ voidEntries y, e ∈ (t.derailleur die).armed ↔ arms e) ∧
      (∀ e, e ∉ voidEntries y → (e ∈ (t.derailleur die).armed ↔ e ∈ d.armed)) ∧
      (∀ e ∈ voidEntries y, ∀ w ∈ (t.array (2048 * die.val + fld (entry e) 50 40)).windows, w.entry = e →
        (w.armed = true ↔ arms e) ∧ w.first = d.phaseStart + fld (entry e) 39 20) ∧
      { t.derailleur die with phase := 0, sweeps := [], armed := [], counters := [] } =
        { d with phase := 0, sweeps := [], armed := [], counters := [] } ∧
      (∀ g, { t.array g with windows := [] } = { s.array g with windows := [] }) ∧
      (∀ q, q ≠ die.val → t.derailleur q = s.derailleur q) ∧ { t with derailleurs := s.derailleurs, arrays := s.arrays } = s)

/-- Every scalar operation of Table 6.4 writes rd with its result, ready after its latency, moves `PC` past it and changes
nothing else: register forms, then immediate forms. A division by 0, and -2^31 by -1, have the results the spec gives. A `PC`
outside the code region, or a reserved encoding, faults the spoke (R176, R179-R181). -/
def Obligations.ScalarOperationsWriteTheirRegister : Prop :=
  ScalarRR .add 0x00 1 (fun a b => a + b) ∧
  ScalarRR .sub 0x01 1 (fun a b => a - b) ∧
  ScalarRR .and 0x02 1 (fun a b => a &&& b) ∧
  ScalarRR .or 0x03 1 (fun a b => a ||| b) ∧
  ScalarRR .xor 0x04 1 (fun a b => a ^^^ b) ∧
  ScalarRR .sll 0x05 1 (fun a b => a <<< (b.toNat % 32)) ∧
  ScalarRR .srl 0x06 1 (fun a b => a >>> (b.toNat % 32)) ∧
  ScalarRR .sra 0x07 1 (fun a b => a.sshiftRight (b.toNat % 32)) ∧
  ScalarRR .slt 0x08 1 (fun a b => if a.toInt < b.toInt then 1 else 0) ∧
  ScalarRR .sltu 0x09 1 (fun a b => if a.toNat < b.toNat then 1 else 0) ∧
  ScalarRR .min 0x0A 1 (fun a b => BitVec.ofInt 32 (min a.toInt b.toInt)) ∧
  ScalarRR .max 0x0B 1 (fun a b => BitVec.ofInt 32 (max a.toInt b.toInt)) ∧
  ScalarRR .mul 0x10 3 (fun a b => BitVec.ofInt 32 (a.toInt * b.toInt)) ∧
  ScalarRR .mulh 0x11 3 (fun a b => BitVec.ofInt 32 (a.toInt * b.toInt / 2 ^ 32)) ∧
  ScalarRR .div 0x18 18 (fun a b => if b = 0 then 0xFFFFFFFF else if a = 0x80000000 ∧ b = 0xFFFFFFFF then 0x80000000
    else BitVec.ofInt 32 (a.toInt.tdiv b.toInt)) ∧
  ScalarRR .divu 0x19 18 (fun a b => if b = 0 then 0xFFFFFFFF else a / b) ∧
  ScalarRR .rem 0x1A 18 (fun a b => if b = 0 then a else if a = 0x80000000 ∧ b = 0xFFFFFFFF then 0
    else BitVec.ofInt 32 (a.toInt.tmod b.toInt)) ∧
  ScalarRR .remu 0x1B 18 (fun a b => if b = 0 then a else a % b) ∧
  ScalarRI .addi 0x02 0 (fun a i => a + i) ∧
  ScalarRI .andi 0x03 0 (fun a i => a &&& i) ∧
  ScalarRI .ori 0x04 0 (fun a i => a ||| i) ∧
  ScalarRI .xori 0x05 0 (fun a i => a ^^^ i) ∧
  ScalarRI .slti 0x06 0 (fun a i => if a.toInt < i.toInt then 1 else 0) ∧
  ScalarRI .lui 0x07 0x001F0000 (fun _ i => i <<< 16) ∧
  ScalarRI .shi 0x08 0x0000FF80 (fun a i =>
    if fld i 6 5 = 0 then a <<< fld i 4 0 else if fld i 6 5 = 1 then a >>> fld i 4 0 else a.sshiftRight (fld i 4 0)) ∧
  (∀ mk ∈ [Instr.add, .addi, .lw, .sw, .beq, .vfadd, .vld, .spokeNop, .csrr], ∀ (p : SpokeId) (s : State), s.spokeFree p = true →
    ((s.spoke p).pc.toNat % 4 ≠ 0 ∨ (s.spoke p).pc.toNat < codeFirst (s.spoke p).layout ∨
      codeEnd (s.spoke p).layout ≤ (s.spoke p).pc.toNat → Answers (mk p) s fun t => SpokeFaulted s t p 0x18) ∧
    ((s.spoke p).pc.toNat % 4 = 0 → codeFirst (s.spoke p).layout ≤ (s.spoke p).pc.toNat →
      (s.spoke p).pc.toNat < codeEnd (s.spoke p).layout → spokeOp (s.spokeWord p) = none →
      Answers (mk p) s fun t => SpokeFaulted s t p 0x17))

/-- Loads and stores take their places in flight with their beats, and an access outside the spoke's map, misaligned, or storing
into the code region is a fault; a store's bytes are in memory when its beat ends, but where a port of higher rank wrote. Branches
and jumps move `PC` and hold issue for 3 beats when taken (R109, R176, R177, R181). A later write of a lane that is in flight
cancels the earlier one there, and a `VST` into the code region faults whatever its predicate selects: the model's choices (log entry 49). -/
def Obligations.LoadsStoresAndBranches : Prop :=
  ScalarLoad .lw 0x10 4 false ∧ ScalarLoad .lh 0x11 2 true ∧ ScalarLoad .lhu 0x12 2 false ∧ ScalarLoad .lb 0x13 1 true ∧
  ScalarLoad .lbu 0x14 1 false ∧ ScalarStore .sw 0x15 4 ∧ ScalarStore .sh 0x16 2 ∧ ScalarStore .sb 0x17 1 ∧
  (∀ (p : SpokeId) (s : State) (w : Word32), s.spokeAt p 0x18 0 0 [fld w 21 17, 48 + fld w 16 14] w →
    let a := addrM (s.spoke p) w
    let vd := fld w 25 22
    let ls := (s.spoke p).pr (fld w 16 14)
    (spokeAddrBad (s.spoke p).layout p a 64 4 false = true → Answers (.vld p) s fun t => SpokeFaulted s t p 0x18) ∧
    (∀ off far, spokeAddr p a 64 = some (off, far) → a % 4 = 0 → Answers (.vld p) s fun t => SpokeStepped s t p ∧
      (∀ n, ∀ i < 16, (t.spoke p).laneReady n i =
        if n = vd ∧ bitOf ls i then s.pbeat + (if far then 5 else 3) else (s.spoke p).laneReady n i) ∧
      (t.spoke p).loads =
        (s.spoke p).loads.map (fun l => if l.vec = true ∧ l.reg = vd then { l with lanes := l.lanes &&& ~~~ls } else l) ++
        [{ readAt := s.pbeat + (if far then 2 else 1), addr := off, size := 64, signed := false, vec := true, reg := vd, sel := ls
           lanes := ls }] ∧
      { t.spoke p with vready := [], loads := [], pc := 0, nextIssue := 0 } =
        { s.spoke p with vready := [], loads := [], pc := 0, nextIssue := 0 })) ∧
  (∀ (p : SpokeId) (s : State) (w : Word32), s.spokeAt p 0x19 0 0 [fld w 21 17, 32 + fld w 25 22, 48 + fld w 16 14] w →
    let a := addrM (s.spoke p) w
    let pg := (s.spoke p).pr (fld w 16 14)
    (spokeAddrBad (s.spoke p).layout p a 64 4 true = true → Answers (.vst p) s fun t => SpokeFaulted s t p 0x18) ∧
    (∀ off far, spokeAddrBad (s.spoke p).layout p a 64 4 true = false → spokeAddr p a 64 = some (off, far) →
      Answers (.vst p) s fun t => SpokeStepped s t p ∧
      (∃ bs, (t.spoke p).stores = (s.spoke p).stores ++ [{ due := s.pbeat + (if far then 2 else 1), addr := off, bytes := bs }] ∧
        (∀ i < 64, bitOf pg (i / 4) = true → (off + i, BitVec.ofNat 8 (((s.spoke p).vr (fld w 25 22)).toNat / 256 ^ i)) ∈ bs) ∧
        ∀ b ∈ bs, ∃ i < 64, bitOf pg (i / 4) = true ∧ b.1 = off + i) ∧
      { t.spoke p with stores := [], pc := 0, nextIssue := 0 } = { s.spoke p with stores := [], pc := 0, nextIssue := 0 })) ∧
  (∀ (p : SpokeId) (s : State) (x : StoreItem), s.runs = true →
    (s.spoke p).stores.filter (fun x => decide (x.due ≤ s.pbeat)) = [x] → (x.bytes.map (·.1)).Nodup →
    Answers (.spokeStoreWrite p) s fun t =>
      (∀ a b, (a, b) ∈ x.bytes → t.byte a = if SMap.get 0 s.t0Writes a ≤ 1 then b else s.byte a) ∧
      (∀ a, (∀ b, (a, b) ∉ x.bytes) → t.byte a = s.byte a) ∧
      t.spoke p = { s.spoke p with stores := (s.spoke p).stores.filter fun x => decide (s.pbeat < x.due) } ∧
      (∀ q, q ≠ p.val → t.spoke q = s.spoke q) ∧
      (s.beat.aligned = true → t.atStart.mem = s.atStart.mem ∧ t.atStart.ecc = s.atStart.ecc) ∧
      { t.countsOf s with spokes := s.spokes, mem := s.mem, ecc := s.ecc, t0Writes := s.t0Writes, beatMem := s.beatMem } = s) ∧
  Branch .beq 0x20 (fun a b => a = b) ∧ Branch .bne 0x21 (fun a b => a ≠ b) ∧
  Branch .blt 0x22 (fun a b => a.toInt < b.toInt) ∧ Branch .bge 0x23 (fun a b => b.toInt ≤ a.toInt) ∧
  Branch .bltu 0x24 (fun a b => a.toNat < b.toNat) ∧ Branch .bgeu 0x25 (fun a b => b.toNat ≤ a.toNat) ∧
  (∀ (p : SpokeId) (s : State) (w : Word32), s.spokeAt p 0x26 0 0 [] w →
    Answers (.jal p) s fun t =>
      SpokeMoved s t p ((s.spoke p).pc + BitVec.ofInt 32 (4 * sext 26 (fld w 25 0))) (s.pbeat + 3) ∧
      SpokeX s t p 31 ((s.spoke p).pc + 4) (s.pbeat + 1)) ∧
  (∀ (p : SpokeId) (s : State) (w : Word32), s.spokeAt p 0x27 0 0 [fld w 20 16] w →
    Answers (.jalr p) s fun t =>
      SpokeMoved s t p ((s.spoke p).xr (fld w 20 16) + BitVec.ofInt 32 (sext 16 (fld w 15 0))) (s.pbeat + 3) ∧
      SpokeX s t p (fld w 25 21) ((s.spoke p).pc + 4) (s.pbeat + 1))

/-- Every lane operation of Table 6.4 computes the lanes that its predicate selects, keeps the others and raises the flags of the
selected lanes: FP32 and BF16 arithmetic, integers, comparisons and the special functions. Nothing else changes (R181, R182,
R185). That `VFABS` and `VFNEG` give the one NaN too (log entry 46), the lanes that a predicate selects in a
result of halves (log entry 47), and the flags of infinite operands (log entry 86), are the model's choices. -/
def Obligations.VectorOperationsComputeSelectedLanes : Prop :=
  VectorTwo .vfadd 0x30 0 4 (fun a b => word32 (fp32.addOp a.toNat b.toNat)) ∧
  VectorTwo .vfsub 0x30 1 4 (fun a b => word32 (fp32.subOp a.toNat b.toNat)) ∧
  VectorTwo .vfmul 0x30 2 4 (fun a b => word32 (fp32.mulOp a.toNat b.toNat)) ∧
  VectorThree .vfma 3 (fun a b c => word32 (fp32.fmaOp false a.toNat b.toNat c.toNat)) ∧
  VectorThree .vfnma 4 (fun a b c => word32 (fp32.fmaOp true a.toNat b.toNat c.toNat)) ∧
  VectorTwo .vfmin 0x30 5 1 (f32MinMax false) ∧ VectorTwo .vfmax 0x30 6 1 (f32MinMax true) ∧
  VectorOne .vfabs 0x30 7 1 (fun a => (if f32 a = .nan then 0x7FC00000 else a &&& 0x7FFFFFFF, 0)) ∧
  VectorOne .vfneg 0x30 8 1 (fun a => (if f32 a = .nan then 0x7FC00000 else a ^^^ 0x80000000, 0)) ∧
  VectorTwo .vfscale 0x30 9 2 f32Scale ∧ VectorOne .vfexp 0x30 0xA 1 f32Exp ∧
  VectorHalves .vbfadd 0 0x3C00 false (fun a b _ => bf16.addOp a b) ∧
  VectorHalves .vbfmul 1 0x3C00 false (fun a b _ => bf16.mulOp a b) ∧
  VectorHalves .vbfma 2 0 true (bf16.fmaOp false) ∧
  IntegerTwo .vadd 0x0 1 (fun a b => a + b) ∧ IntegerTwo .vsub 0x1 1 (fun a b => a - b) ∧
  IntegerTwo .vand 0x2 1 (fun a b => a &&& b) ∧ IntegerTwo .vor 0x3 1 (fun a b => a ||| b) ∧
  IntegerTwo .vxor 0x4 1 (fun a b => a ^^^ b) ∧ IntegerTwo .vshl 0x5 1 (fun a b => a <<< fld b 4 0) ∧
  IntegerTwo .vshr 0x6 1 (fun a b => a >>> fld b 4 0) ∧ IntegerTwo .vsra 0x7 1 (fun a b => a.sshiftRight (fld b 4 0)) ∧
  IntegerTwo .vmull 0x8 3 (fun a b => a * b) ∧
  IntegerTwo .vmin 0x9 1 (fun a b => BitVec.ofInt 32 (min a.toInt b.toInt)) ∧
  IntegerTwo .vmax 0xA 1 (fun a b => BitVec.ofInt 32 (max a.toInt b.toInt)) ∧
  (∀ (p : SpokeId) (s : State) (w : Word32), s.spokeAt p 0x32 0xB 0x3C00 (srcsV true true false w) w →
    Answers (.vsel p) s fun t => SpokeStepped s t p ∧ SpokeV s t p (fld w 25 22)
      (fun i => lane ((s.spoke p).vr (if bitOf ((s.spoke p).pr (fld w 9 7)) i then fld w 21 18 else fld w 17 14)) i)
      0xFFFF (s.pbeat + 1) 0) ∧
  VectorLanes .vslide 0x32 0xC 0x3C000 1 (srcsV true false false) noBad (fun a w i =>
    (if fld w 13 10 ≤ i then lane (a.vr (fld w 21 18)) (i - fld w 13 10) else 0, 0)) ∧
  VectorCompare .vfeq 0 (f32Cmp false FVal.eq) ∧ VectorCompare .vflt 1 (f32Cmp true FVal.lt) ∧
  VectorCompare .vfle 2 (f32Cmp true fun a b => !FVal.lt b a) ∧
  VectorCompare .vieq 3 (fun a b => (a == b, 0)) ∧ VectorCompare .vilt 4 (fun a b => (decide (a.toInt < b.toInt), 0)) ∧
  VectorCompare .viltu 5 (fun a b => (decide (a.toNat < b.toNat), 0)) ∧
  VectorOne .vexp2 0x34 0 8 vexp2Of ∧ VectorOne .vlog2 0x34 1 8 vlog2Of ∧ VectorOne .vrsqrt 0x34 2 8 vrsqrtOf ∧
  VectorOne .vrcp 0x34 3 8 vrcpOf ∧ VectorOne .vtanh 0x34 4 8 vtanhOf

/-- Reductions combine the selected lanes in the fixed tree and write every lane; `VSORT` writes the pair in key order, `VMRG` the
first 16 of a merge; conversions change the format of the selected lanes; moves and predicate operations write one register.
Nothing else changes (R181-R184). That a reduction writes every lane and `VINS` and `VMOVX` ignore the predicate, and the lanes that it
selects in bytes and pairs (log entry 47), the flags of infinities (log entry 86), and the fields of `PGET` (log entry 12), are the
model's choices. -/
def Obligations.ReductionsSortsConversionsAndMoves : Prop :=
  Reduces .vfrsum 0 6 0 (fun a b => (word32 (fp32.addOp a.toNat b.toNat)).1) ∧
  Reduces .vfrmax 1 4 0xFF800000 (fun a b => (f32MinMax true a b).1) ∧
  Reduces .vfrmin 2 4 0x7F800000 (fun a b => (f32MinMax false a b).1) ∧
  Reduces .virsum 3 3 0 (fun a b => a + b) ∧
  (∀ (p : SpokeId) (s : State) (w : Word32),
    s.spokeAt p 0x36 0 0x0047FC00 (srcsV true false false w ++ [33 + fld w 21 18]) w →
    Answers (.vsort p) s fun t => SpokeStepped s t p ∧ ∃ r : List (Word32 × Word32),
      r.Perm (pairOf (s.spoke p) (fld w 21 18)) ∧ r.Pairwise (fun x y => keyBefore x y = true) ∧
      SpokePair s t p (fld w 25 22) ((s.spoke p).pr (fld w 9 7)) (fun i => (r[i]?.getD 0).1) (fun i => (r[i]?.getD 0).2) (s.pbeat + 10) ∧
      (t.spoke p).fflags = (s.spoke p).fflags) ∧
  (∀ (p : SpokeId) (s : State) (w : Word32),
    s.spokeAt p 0x36 1 0x00447C00 (srcsV true true false w ++ [33 + fld w 21 18, 33 + fld w 17 14]) w →
    let r := keyMerge 16 (pairOf (s.spoke p) (fld w 21 18)) (pairOf (s.spoke p) (fld w 17 14))
    Answers (.vmrg p) s fun t => SpokeStepped s t p ∧
      SpokePair s t p (fld w 25 22) ((s.spoke p).pr (fld w 9 7)) (fun i => (r[i]?.getD 0).1) (fun i => (r[i]?.getD 0).2) (s.pbeat + 10) ∧
      (t.spoke p).fflags = (s.spoke p).fflags) ∧
  VectorOne .vfkey 0x36 2 1 (fun a => (if bitOf a 31 then a ^^^ 0x7FFFFFFF else a, 0)) ∧
  VectorLanes .viota 0x36 3 0x3FFC00 1 (srcsV false false false) noBad (fun _ _ i => (BitVec.ofNat 32 i, 0)) ∧
  (∀ fn, fn = 0 ∨ fn = 1 →
    VectorLanes .vcvtf8 0x37 fn 0x0007C000 4 srcsPair (fun w => decide (2 < fld w 13 10)) (fun a w i =>
      if i < 8 then
        let r (j : Nat) := f32Narrow (if fn = 0 then e4m3 else e5m2) (cvtMode (fld w 13 10)) (pairLane a (fld w 21 18) (4 * i + j))
        (BitVec.ofNat 32 (packBits 8 [(r 0).1, (r 1).1, (r 2).1, (r 3).1]), (r 0).2 ||| (r 1).2 ||| (r 2).2 ||| (r 3).2)
      else (0, 0))) ∧
  VectorLanes .vcvtbf 0x37 2 0x0007C000 4 srcsPair (fun w => decide (2 < fld w 13 10)) (fun a w i =>
    let r (j : Nat) := f32Narrow bf16 (cvtMode (fld w 13 10)) (pairLane a (fld w 21 18) j)
    (BitVec.ofNat 32 ((r (2 * i)).1 + 65536 * (r (2 * i + 1)).1), (r (2 * i)).2 ||| (r (2 * i + 1)).2)) ∧
  VectorOne .vcvtbl 0x37 3 2 (fun x => word32 (f32Narrow bf16 .rne x)) ∧
  (∀ (p : SpokeId) (s : State) (w : Word32) (fn : Nat), fn = 4 ∨ fn = 5 →
    s.spokeAt p 0x37 fn 0x0043FC00 (srcsV true false false w) w →
    Answers (.vwid8 p) s fun t => SpokeStepped s t p ∧
      SpokePair s t p (fld w 25 22) ((s.spoke p).pr (fld w 9 7))
        (fun i => (widen (if fn = 4 then e4m3 else e5m2) (slotN ((s.spoke p).vr (fld w 21 18)) i 1)).1)
        (fun i => (widen (if fn = 4 then e4m3 else e5m2) (slotN ((s.spoke p).vr (fld w 21 18)) (16 + i) 1)).1) (s.pbeat + 2)) ∧
  (∀ (p : SpokeId) (s : State) (w : Word32), s.spokeAt p 0x37 6 0x0043FC00 (srcsV true false false w) w →
    Answers (.vwidb p) s fun t => SpokeStepped s t p ∧
      SpokePair s t p (fld w 25 22) ((s.spoke p).pr (fld w 9 7))
        (fun i => (widen bf16 (half ((s.spoke p).vr (fld w 21 18)) i)).1)
        (fun i => (widen bf16 (half ((s.spoke p).vr (fld w 21 18)) (16 + i))).1) (s.pbeat + 2)) ∧
  VectorOne .vf2i 0x37 7 2 f32ToI ∧ VectorOne .vi2f 0x37 8 2 iToF32 ∧
  (∀ (p : SpokeId) (s : State) (w : Word32), s.spokeAt p 0x38 0 0x0001FF80 [fld w 21 17] w →
    Answers (.vsplat p) s fun t => SpokeStepped s t p ∧
      SpokeV s t p (fld w 25 22) (fun _ => (s.spoke p).xr (fld w 21 17)) 0xFFFF (s.pbeat + 1) 0) ∧
  (∀ (p : SpokeId) (s : State) (w : Word32), s.spokeAt p 0x38 1 0x00001F80 [fld w 21 17] w →
    Answers (.vins p) s fun t => SpokeStepped s t p ∧
      SpokeV s t p (fld w 25 22)
        (fun i => if i = fld w 16 13 then (s.spoke p).xr (fld w 21 17) else lane ((s.spoke p).vr (fld w 25 22)) i)
        (1 <<< fld w 16 13) (s.pbeat + 1) 0) ∧
  (∀ (p : SpokeId) (s : State) (w : Word32), s.spokeAt p 0x38 2 0x00001F80 [32 + fld w 25 22] w →
    Answers (.vmovx p) s fun t => SpokeStepped s t p ∧
      SpokeX s t p (fld w 21 17) (lane ((s.spoke p).vr (fld w 25 22)) (fld w 16 13)) (s.pbeat + 2)) ∧
  PredicateOp .pand 0 0x02223F80 (fun a b => a &&& b) ∧ PredicateOp .por 1 0x02223F80 (fun a b => a ||| b) ∧
  PredicateOp .pnot 2 0x0223FF80 (fun a _ => ~~~a) ∧
  (∀ (p : SpokeId) (s : State) (w : Word32), s.spokeAt p 0x39 3 0x0201FF80 [fld w 21 17] w →
    Answers (.pset p) s fun t => SpokeStepped s t p ∧
      SpokeP s t p (fld w 24 22) (((s.spoke p).xr (fld w 21 17)).setWidth 16) (s.pbeat + 1) 0) ∧
  (∀ (p : SpokeId) (s : State) (w : Word32), s.spokeAt p 0x39 4 0x03C1FF80 [48 + fld w 20 18] w →
    Answers (.pget p) s fun t => SpokeStepped s t p ∧
      SpokeX s t p (fld w 21 17) (((s.spoke p).pr (fld w 20 18)).setWidth 32) (s.pbeat + 1))

/-- A run starts in its beat S with its index and task in x1 and x2, issues from then on, completes after `TEND` when its effects
are in place, and is a fault if it is not complete in its budget. `UNTIL` holds issue until its beat; control registers are read
and written; `WAIT`, `SIGNAL` and `RDCNT` act on the counters, `RWR` and the queues on the chainline, and posts join the queues
of their engines. What the spec forbids faults the spoke (R186-R201). That a run may complete in the beat of its `TEND` (log entry 49), the fifth bit of
queue registers, and the check of a `CLPOST` index at the engine (log entry 48), and the low half that a write of `XF_n_HI` takes when none
is new (log entry 108), are the model's choices. -/
def Obligations.RunsAndControlInstructions : Prop :=
  (∀ (p : SpokeId) (s : State) (i k : Nat), (s.spoke p).nextRun = some (i, k) → s.runs = true → (s.spoke p).active = true →
    (s.spoke p).mode = 0 ∨ (s.spoke p).mode = 2 → (s.taskEntry p i).start + k * (s.taskEntry p i).period ≤ s.pbeat →
    Answers (.taskRunStart p) s fun t =>
      (t.spoke p).xr 1 = BitVec.ofNat 32 k ∧ (t.spoke p).xr 2 = BitVec.ofNat 32 i ∧
      (∀ n, n ≠ 1 → n ≠ 2 → (t.spoke p).xr n = (s.spoke p).xr n) ∧
      (t.spoke p).pc = BitVec.ofNat 32 (s.taskEntry p i).entry ∧ (t.spoke p).mode = 1 ∧ (t.spoke p).run = k ∧
      (t.spoke p).task = i ∧ (t.spoke p).runS = (s.taskEntry p i).start + k * (s.taskEntry p i).period ∧
      (t.spoke p).runE = (t.spoke p).runS + (s.taskEntry p i).budget ∧ (t.spoke p).nextIssue = (t.spoke p).runS ∧
      (t.spoke p).tend = false ∧ (t.spoke p).until_ = none ∧
      (t.spoke p).nextRun = (if k + 1 < (s.taskEntry p i).rep then some (i, k + 1)
        else if i < fld (s.spoke p).layout 7 0 then some (i + 1, 0) else none) ∧
      (t.spoke p).v = (s.spoke p).v ∧ (t.spoke p).p = (s.spoke p).p ∧ (t.spoke p).stores = (s.spoke p).stores ∧
      (t.spoke p).fflags = (s.spoke p).fflags ∧
      OnlySpoke s t p ∧ { t.countsOf s with spokes := s.spokes } = s) ∧
  (∀ (p : SpokeId) (s : State), s.runs = true → (s.spoke p).mode = 1 → (s.spoke p).tend = true →
    (s.spoke p).settled s.pbeat = true → s.pbeat < (s.spoke p).runE →
    Answers (.runComplete p) s fun t =>
      t.spoke p = { s.spoke p with
        mode := if (s.spoke p).nextRun = none then 0 else 2, tend := false, ready := [], vready := []
        runBeats := (s.spoke p).runBeats + BitVec.ofNat 32 (s.pbeat + (if s.live then 1 else 0) - (s.spoke p).runS)
        idleBeats := (s.spoke p).idleBeats + BitVec.ofNat 32 ((s.spoke p).runE - 1 - s.pbeat) } ∧
      (∀ q, q ≠ p.val → t.spoke q = s.spoke q) ∧ { t with spokes := s.spokes } = s) ∧
  (∀ (p : SpokeId) (s : State), s.runs = true → (s.spoke p).mode = 1 → (s.spoke p).runE ≤ s.pbeat →
    Answers (.budgetOverrun p) s fun t => SpokeFaulted s t p 0x04) ∧
  (∀ (p : SpokeId) (s : State) (b : Nat), (s.spoke p).until_ = some b → s.runs = true → b ≤ s.pbeat →
    Answers (.untilRelease p) s fun t => t.spoke p = { s.spoke p with until_ := none, nextIssue := s.pbeat } ∧
      (∀ q, q ≠ p.val → t.spoke q = s.spoke q) ∧ { t with spokes := s.spokes } = s) ∧
  (∀ (p : SpokeId) (s : State) (w : Word32), s.spokeAt p 0x3F 0x00 0x03FFFFC0 [] w →
    Answers (.spokeNop p) s fun t => SpokeStepped s t p ∧
      t.spoke p = { s.spoke p with pc := (s.spoke p).pc + 4, nextIssue := s.pbeat + 1 }) ∧
  (∀ (p : SpokeId) (s : State) (w : Word32), s.spokeAt p 0x3F 0x01 0x03FFFFC0 [] w →
    Answers (.tend p) s fun t => SpokeStepped s t p ∧
      t.spoke p = { s.spoke p with pc := (s.spoke p).pc + 4, nextIssue := s.pbeat + 1, tend := true }) ∧
  (∀ (p : SpokeId) (s : State) (w : Word32), s.spokeAt p 0x3F 0x02 0x03E0FFC0 [fld w 20 16] w →
    let b := (s.spoke p).runS + ((s.spoke p).xr (fld w 20 16)).toNat
    (s.pbeat < b → Answers (.untilTask p) s fun t => SpokeStepped s t p ∧
      t.spoke p = { s.spoke p with pc := (s.spoke p).pc + 4, nextIssue := s.pbeat + 1, until_ := some b }) ∧
    (b ≤ s.pbeat → Answers (.untilTask p) s fun t => SpokeFaulted s t p 0x05)) ∧
  (∀ (p : SpokeId) (s : State) (w : Word32), s.spokeAt p 0x3F 0x03 0x001F0000 [] w →
    let i := fld w 15 6
    (csrKnown i = true → Answers (.csrr p) s fun t => SpokeStepped s t p ∧
      (∀ n, (t.spoke p).xr n = if n = fld w 25 21 ∧ n ≠ 0 then s.csrValue p i else (s.spoke p).xr n) ∧
      (t.spoke p).pbeatHi = (if i = 2 then BitVec.ofNat 32 (s.pbeat / 2 ^ 32) else (s.spoke p).pbeatHi) ∧
      (∀ n, SMap.get 0 (t.spoke p).xfHiLatch n =
        if i = 0x40 + 2 * n then hi32 ((s.router p).xferNow n s.sched) else SMap.get 0 (s.spoke p).xfHiLatch n) ∧
      (t.spoke p).v = (s.spoke p).v ∧ (t.spoke p).p = (s.spoke p).p ∧ (t.spoke p).fflags = (s.spoke p).fflags) ∧
    (csrKnown i = false → Answers (.csrr p) s fun t => SpokeFaulted s t p 0x17)) ∧
  (∀ (p : SpokeId) (s : State) (w : Word32), s.spokeAt p 0x3F 0x04 0x03E00000 [fld w 20 16] w →
    let i := fld w 15 6
    let v := (s.spoke p).xr (fld w 20 16)
    let moved : SpokeState := { s.spoke p with pc := (s.spoke p).pc + 4, nextIssue := s.pbeat + 1 }
    let g := 2048 * (p.val / 256) + 8 * (p.val % 256) + i % 8
    (csrWritable i = false → Answers (.csrw p) s fun t => SpokeFaulted s t p 0x17) ∧
    (i = 7 → Answers (.csrw p) s fun t => SpokeStepped s t p ∧
      t.spoke p = { moved with fflags := (s.spoke p).fflags &&& ~~~(v.setWidth 5) }) ∧
    (0x18 ≤ i → i ≤ 0x1F → Answers (.csrw p) s fun t => t.spoke p = moved ∧
      (∀ j < 6, bitOf (t.array g).flags j = (bitOf (s.array g).flags j &&
        !(bitOf v j && !((s.array g).flagsAt == s.sched && bitOf (s.array g).flagsNew j)))) ∧
      { t.array g with flags := 0 } = { s.array g with flags := 0 } ∧
      (∀ m, m ≠ g → t.array m = s.array m) ∧ OnlySpoke s t p ∧
      { t.countsOf s with spokes := s.spokes, arrays := s.arrays } = s) ∧
    (∀ n, i = 0x40 + 2 * n → n < 16 → fld v 13 0 = 0 → Answers (.csrw p) s fun t => SpokeStepped s t p ∧
      t.csrValue p i = v ∧ (∀ j, j ≠ n → SMap.get 0 (t.spoke p).xfLo j = SMap.get 0 (s.spoke p).xfLo j) ∧
      { t.spoke p with xfLo := [], xfWaits := [] } = { moved with xfLo := [], xfWaits := [] } ∧ t.routers = s.routers) ∧
    (∀ n, i = 0x41 + 2 * n → n < 16 → fld v 31 30 = 0 → Answers (.csrw p) s fun t =>
      { t.spoke p with xfWaits := [], xfHiLatch := [] } = { moved with xfWaits := [], xfHiLatch := [] } ∧ t.csrValue p i = v ∧
      (t.router p).staged.head? = some (n, s.sched, BitVec.ofNat 64 ((SMap.get 0 (s.spoke p).xfLo n).toNat + 2 ^ 32 * v.toNat)) ∧
      (∀ b, s.sched < b → (t.router p).xferNow n b =
        BitVec.ofNat 64 ((SMap.get 0 (s.spoke p).xfLo n).toNat + 2 ^ 32 * v.toNat)) ∧
      { t.router p with staged := [] } = { s.router p with staged := [] } ∧
      (∀ q, q ≠ p.val → t.router q = s.router q) ∧ OnlySpoke s t p ∧
      { t.countsOf s with spokes := s.spokes, routers := s.routers } = s)) ∧
  (∀ (p : SpokeId) (s : State) (w : Word32), s.spokeAt p 0x3F 0x08 0 [fld w 25 21, fld w 20 16] w →
    let id := fld w 15 6
    let target := (s.spoke p).xr (fld w 25 21)
    let limit := ((s.spoke p).xr (fld w 20 16)).toNat
    let reached := atOrAbove (s.counterValue (p.val / 256) id) target
    (0x180 ≤ id ∨ limit = 0 → Answers (.spokeWait p) s fun t => SpokeFaulted s t p 0x17) ∧
    (id < 0x100 → limit ≠ 0 → reached = false → Answers (.spokeWait p) s fun t => SpokeFaulted s t p 0x01) ∧
    (id < 0x180 → limit ≠ 0 → (id < 0x100 → reached = true) →
      (0x120 ≤ id → id < 0x160 → s.abortCopyBit (p.val / 256) (id - 0x120) = false) →
      Answers (.spokeWait p) s fun t =>
        t.spoke p = { s.spoke p with pc := (s.spoke p).pc + 4, nextIssue := s.pbeat + 16 } ∧
        (reached = true → t.beat = s.beat) ∧
        (reached = false → ∃ x : WaitState, t.beat = { s.beat with waits := s.beat.waits ++ [x] } ∧ x.unit = .spoke p ∧
          x.die.val = p.val / 256 ∧ x.counter = id ∧ x.target = target ∧ x.heldLeft = limit ∧ x.sampleWall = s.wall) ∧
        OnlySpoke s t p ∧ { t.countsOf s with spokes := s.spokes, beat := s.beat } = s)) ∧
  (∀ (p : SpokeId) (s : State) (w : Word32), s.spokeAt p 0x3F 0x09 0x001F0000 [fld w 25 21] w →
    let v := (s.spoke p).xr (fld w 25 21)
    (fld w 15 6 < 0x100 → v ≠ 0 → v.toNat ≤ 65535 → Answers (.spokeSignal p) s fun t =>
      t.spoke p = { s.spoke p with pc := (s.spoke p).pc + 4, nextIssue := s.pbeat + 1 } ∧
      (∀ d id, t.counterCopy d id = s.counterCopy d id) ∧
      (∀ d id, SMap.get 0 (t.dieCounters d).steps id = if d = p.val / 256 ∧ id = fld w 15 6
        then SMap.get 0 (s.dieCounters d).steps id + v else SMap.get 0 (s.dieCounters d).steps id) ∧
      OnlySpoke s t p ∧ { t.countsOf s with spokes := s.spokes, counters := s.counters } = s) ∧
    (0x100 ≤ fld w 15 6 ∨ v = 0 ∨ 65535 < v.toNat → Answers (.spokeSignal p) s fun t => SpokeFaulted s t p 0x17)) ∧
  (∀ (p : SpokeId) (s : State) (w : Word32), s.spokeAt p 0x3F 0x0A 0x001F0000 [] w →
    (fld w 15 6 < 0x100 → Answers (.rdcnt p) s fun t => SpokeStepped s t p ∧
      SpokeX s t p (fld w 25 21) (s.counterCopy (p.val / 256) (fld w 15 6)) (s.pbeat + 2)) ∧
    (0x100 ≤ fld w 15 6 → Answers (.rdcnt p) s fun t => SpokeFaulted s t p 0x17)) ∧
  (∀ (p : SpokeId) (s : State) (w : Word32), s.spokeAt p 0x3F 0x10 0x021FFFC0 [32 + fld w 24 21] w →
    ((s.spoke p).record = none → (∀ b, (s.spoke p).landed = some b → b < s.pbeat) → Answers (.rwr p) s fun t =>
      SpokeStepped s t p ∧ ∃ b, s.pbeat < b ∧ b ≤ s.pbeat + 8 ∧ b % 8 = p.val % 8 ∧
        t.spoke p = { s.spoke p with pc := (s.spoke p).pc + 4, nextIssue := s.pbeat + 1
                                     record := some (b, (s.spoke p).vr (fld w 24 21)) }) ∧
    ((s.spoke p).record ≠ none → exec (.rwr p) s = .next s)) ∧
  (∀ (p : SpokeId) (s : State) (w : Word32), s.spokeAt p 0x3F 0x12 0x021FFFC0 [32 + fld w 24 21] w →
    ((s.spoke p).outQ.length < 16 → Answers (.qpush p) s fun t => SpokeStepped s t p ∧
      t.spoke p = { s.spoke p with pc := (s.spoke p).pc + 4, nextIssue := s.pbeat + 1
                                   outQ := (s.spoke p).outQ ++ [({ data := (s.spoke p).vr (fld w 24 21), tag := 0, poison := 0 }, s.pbeat + 1)] }) ∧
    (16 ≤ (s.spoke p).outQ.length → Answers (.qpush p) s fun t => SpokeFaulted s t p 0x1A)) ∧
  (∀ (p : SpokeId) (s : State) (w : Word32), s.spokeAt p 0x3F 0x13 0x021FFFC0 [] w →
    (∀ f b rest, (s.spoke p).inQ = (f, b) :: rest → b ≤ s.pbeat → Answers (.qpop p) s fun t =>
      (t.spoke p).vr (fld w 24 21) = f.data ∧ (∀ n, n ≠ fld w 24 21 → (t.spoke p).vr n = (s.spoke p).vr n) ∧
      (t.spoke p).inQ = rest ∧ (t.spoke p).outQ = (s.spoke p).outQ ∧ (t.spoke p).pc = (s.spoke p).pc + 4 ∧
      (f.poison = 0 → SpokeStepped s t p) ∧ (f.poison ≠ 0 → t.beat.faultHold = true ∧ t.beat.machineCheck = true) ∧
      (∀ q, q ≠ p.val → t.spoke q = s.spoke q) ∧ t.mem = s.mem) ∧
    ((s.spoke p).inQ = [] → Answers (.qpop p) s fun t => SpokeFaulted s t p 0x19)) ∧
  (∀ (p : SpokeId) (s : State) (w : Word32), s.spokeAt p 0x3F 0x18 0x0000FFC0 [fld w 25 21, fld w 25 21 + 1, fld w 20 16] w →
    let odd : Prop := fld w 21 21 = 1
    let n := ((s.spoke p).xr (fld w 20 16)).toNat
    let c := 32 * (p.val / 256) + n
    let low := p.val % 256
    let q := (s.channel c).queue
    let x : Chain :=
      { first := BitVec.ofNat 64 (((s.spoke p).xr (fld w 25 21)).toNat + 2 ^ 32 * ((s.spoke p).xr (fld w 25 21 + 1)).toNat)
        budget := (s.channel c).claimBudget.toNat, owner := none, post := some (s.sched, low) }
    (odd ∨ 32 ≤ n ∨ (s.channel c).claimed = false → Answers (.cepost p) s fun t => SpokeFaulted s t p 0x17) ∧
    (¬odd → n < 32 → (s.channel c).claimed = true →
      (8 ≤ q.length → (∀ y, q.getLast? = some y → ∀ r, y.post = some (s.sched, r) → r ≤ low) →
        Answers (.cepost p) s fun t => SpokeFaulted s t p 0x1B) ∧
      (8 ≤ q.length → (s.channel c).state ≠ 2 → ∀ y r, q.getLast? = some y → y.post = some (s.sched, r) → low < r → r < 256 →
        Answers (.cepost p) s fun t => (t.spoke (256 * (p.val / 256) + r)).mode = 3 ∧
          FaultRecorded s t 0x1B 1 (p.val / 256) r ∧ (t.channel c).queue.Perm (x :: q.dropLast)) ∧
      (q.length < 8 → Answers (.cepost p) s fun t =>
        ((s.channel c).state = 2 → t.channels = s.channels) ∧
        ((s.channel c).state ≠ 2 → ∃ before after, q = before ++ after ∧ (t.channel c).queue = before ++ x :: after ∧
          (∀ y ∈ before, ∀ r, y.post = some (s.sched, r) → r ≤ low) ∧
          (∀ y, after.head? = some y → ∃ r, y.post = some (s.sched, r) ∧ low < r) ∧
          { t.channel c with queue := q } = s.channel c) ∧
        (∀ j, j ≠ c → t.channel j = s.channel j) ∧
        t.spoke p = { s.spoke p with pc := (s.spoke p).pc + 4, nextIssue := s.pbeat + 1 } ∧ OnlySpoke s t p ∧
        { t.countsOf s with spokes := s.spokes, channels := s.channels } = s))) ∧
  (∀ (p : SpokeId) (s : State) (w : Word32), s.spokeAt p 0x3F 0x19 0x001FFFC0 [fld w 25 21] w →
    let i := ((s.spoke p).xr (fld w 25 21)).toNat
    let d := p.val / 256
    let low := p.val % 256
    let q := SMap.get [] s.collPosts d
    (4096 ≤ i → Answers (.clpost p) s fun t => SpokeFaulted s t p 0x17) ∧
    (i < 4096 → s.collPostCount d < 16 → Answers (.clpost p) s fun t =>
      (∃ before after, q = before ++ after ∧ SMap.get [] t.collPosts d = before ++ (i, s.sched, low) :: after ∧
        (∀ y ∈ before, y.2.1 = s.sched → y.2.2 ≤ low) ∧ (∀ y, after.head? = some y → y.2.1 = s.sched ∧ low < y.2.2)) ∧
      (∀ e, e ≠ d → SMap.get [] t.collPosts e = SMap.get [] s.collPosts e) ∧
      t.spoke p = { s.spoke p with pc := (s.spoke p).pc + 4, nextIssue := s.pbeat + 1 } ∧ OnlySpoke s t p ∧
      { t.countsOf s with spokes := s.spokes, collPosts := s.collPosts } = s) ∧
    (i < 4096 → 16 ≤ s.collPostCount d → (∀ y, q.getLast? = some y → y.2.1 = s.sched → y.2.2 ≤ low) →
      Answers (.clpost p) s fun t => SpokeFaulted s t p 0x1B) ∧
    (i < 4096 → 16 ≤ s.collPostCount d → ∀ y, q.getLast? = some y → y.2.1 = s.sched → low < y.2.2 → y.2.2 < 256 →
      Answers (.clpost p) s fun t => (t.spoke (256 * d + y.2.2)).mode = 3 ∧ FaultRecorded s t 0x1B 1 d y.2.2 ∧
        (SMap.get [] t.collPosts d).Perm ((i, s.sched, low) :: q.dropLast)))

/-- An up cube port sends its `DISCOVERY` block, and three identical blocks in a row make its neighbour; the end of a window
quarantines the ports for which a rule of R358 fails and releases those that were recycled. An open port sends its `BEACON`;
an unlocked package steps its counter to its first parent's time, follows it within 200 ppm, and locks on 500 beacons in a row
within 1 ns. A lost parent leads to another, to holdover, and after 1 ms to no lock, with the steered rings dark;
`CADENCE_OUT` is high in the first half of a millisecond while locked (R357-R359, R364-R368, R371). That a beacon of stratum 31 or more is
not followed, and what a root that becomes a follower does (log entry 38), are the model's choices. -/
def Obligations.DiscoveryBeaconsAndCadence : Prop :=
  (∀ (q : CubePort) (s : State), (s.port (cubeFibre q)).state = 2 → Answers (.discoverySend q) s fun t =>
    let c := (t.nbr q).sentDiscovery
    fld c 63 0 = Config.serial.toNat ∧ fld c 71 64 = q.val ∧ (bitOf c 72 = true ↔ s.packageNo ≠ none) ∧
    (bitOf c 73 = true ↔ (s.nbr q).state = 3) ∧ (∀ n, s.packageNo = some n → fld c 91 80 = n) ∧
    { t.nbr q with sentDiscovery := 0 } = { s.nbr q with sentDiscovery := 0 } ∧ (∀ p, p ≠ q.val → t.nbr p = s.nbr p) ∧
    SentControl s t q 0xF3 c ∧ { t with mach := s.mach, fabs := s.fabs } = s) ∧
  (∀ (q : CubePort) (c : BitVec 208) (s : State), (s.port (cubeFibre q)).state = 2 →
    ((s.nbr q).cand = c → 2 ≤ (s.nbr q).candRun → Answers (.discoveryReceive q c) s fun t =>
      (t.nbr q).serial = BitVec.ofNat 64 (fld c 63 0) ∧ (t.nbr q).port = BitVec.ofNat 5 (fld c 71 64) ∧
      (t.nbr q).numbered = bitOf c 72 ∧ (t.nbr q).package = BitVec.ofNat 12 (fld c 91 80) ∧
      (t.nbr q).state = (if (s.nbr q).state = 3 then 3 else 2) ∧ (BitVec.ofNat 64 (fld c 63 0), fld c 71 64) ∈ (t.nbr q).seen ∧
      (∀ p, p ≠ q.val → t.nbr p = s.nbr p) ∧ { t with mach := s.mach } = s) ∧
    ((s.nbr q).cand ≠ c → Answers (.discoveryReceive q c) s fun t =>
      t.nbr q = { s.nbr q with cand := c, candRun := 1, state := if (s.nbr q).state = 0 then 1 else (s.nbr q).state } ∧
      (∀ p, p ≠ q.val → t.nbr p = s.nbr p) ∧ { t with mach := s.mach } = s)) ∧
  (∀ s : State, Answers .discoveryWindowEnd s fun t =>
    (∀ q < 24,
      (∀ c ps, s.quarCause q = some (c, ps) → (t.nbr q).state = 3 ∧
        ((s.nbr q).state ≠ 3 → (t.nbr q).cause = BitVec.ofNat 3 c ∧ (t.nbr q).partners = ps ∧ (t.nbr q).recycled = 0)) ∧
      (s.quarCause q = none → (s.nbr q).state = 3 → (s.nbr q).recycled = 2 →
        (t.nbr q).state ≠ 3 ∧ (t.nbr q).cause = 0 ∧ (t.nbr q).partners = []) ∧
      (s.quarCause q = none → (s.nbr q).state ≠ 3 ∨ (s.nbr q).recycled ≠ 2 → (t.nbr q).state = (s.nbr q).state) ∧
      (t.nbr q).serial = (s.nbr q).serial ∧ (t.nbr q).package = (s.nbr q).package) ∧
    { t.mach with nbrs := [], quar := 0 } = { s.mach with nbrs := [], quar := 0 } ∧
    { t with mach := s.mach, hubLog := s.hubLog, aoLog := s.aoLog, hubSeq := s.hubSeq, aoSeq := s.aoSeq, mbs := s.mbs } = s) ∧
  (∀ (q : CubePort) (s : State), s.portOpen (cubeFibre q) = true → Answers (.beaconSend q) s fun t =>
    let c := (t.nbr q).sentBeacon
    fld c 63 0 = s.cad128 / 128 % 2 ^ 64 ∧ fld c 70 64 = s.cad128 % 128 ∧ fld c 103 72 = (s.nbr q).rxStamp.toNat ∧
    fld c 143 136 = s.stratumSent.toNat ∧ (bitOf c 144 = s.mach.locked) ∧ (bitOf c 145 = s.mach.holdover) ∧
    (bitOf c 146 = s.mach.root) ∧ (t.nbr q).txTimes = s.cad128 :: (s.nbr q).txTimes.take 63 ∧
    { t.nbr q with sentBeacon := 0, txTimes := [] } = { s.nbr q with sentBeacon := 0, txTimes := [] } ∧
    (∀ p, p ≠ q.val → t.nbr p = s.nbr p) ∧ SentControl s t q 0xF2 c ∧
    { t with mach := s.mach, fabs := s.fabs } = s) ∧
  (∀ (q : CubePort) (c : BitVec 208) (s : State) (t1 : Nat), s.portOpen (cubeFibre q) = true → s.inDomainReset .cad = false →
    (s.nbr q).txTimes.find? (fun t => t % 2 ^ 32 == fld c 103 72) = some t1 →
    let t3 := fld c 63 0 * 128 + fld c 70 64
    let delay := (BitVec.ofNat 32 s.cad128 - BitVec.ofNat 32 t1 - BitVec.ofNat 32 (fld c 135 104)).toNat / 2
    let offset := (BitVec.ofNat 32 t3 + BitVec.ofNat 32 delay - BitVec.ofNat 32 s.cad128).toInt
    Answers (.beaconReceive q c) s fun t =>
      (t.nbr q).delay = BitVec.ofNat 32 delay ∧ (t.nbr q).rxStratum = BitVec.ofNat 8 (fld c 143 136) ∧
      (t.nbr q).rxFlags = BitVec.ofNat 8 (fld c 151 144) ∧ (t.nbr q).rxTime = some s.cad128 ∧
      (∀ p, p ≠ q.val → t.nbr p = s.nbr p) ∧ { t with mach := s.mach, freeCtr := s.freeCtr, prog := s.prog, hub := s.hub } = s ∧
      { t.prog with startLocked := none } = { s.prog with startLocked := none } ∧ { t.hub with shifts := [] } = { s.hub with shifts := [] } ∧
      (t.hub.shifts.map fun j => { j with locked := none }) = (s.hub.shifts.map fun j => { j with locked := none }) ∧
      (s.mach.locked = true → t.prog = s.prog ∧ t.hub = s.hub) ∧
      (s.mach.root = true → { t.mach with nbrs := [] } = { s.mach with nbrs := [] }) ∧
      (s.mach.root = false → bitOf c 144 = true → bitOf c 145 = false → fld c 143 136 < 31 →
        (∀ p < 24, p ≠ q.val → s.usable p = false) →
        (s.mach.parent = 0x1F → s.mach.locked = false →
          t.mach.parent = BitVec.ofNat 5 q.val ∧ t.mach.count = (t3 + delay) * 1000000 ∧ t.mach.steps = s.mach.steps + 1) ∧
        (s.mach.parent.toNat = q.val →
          t.mach.offset = BitVec.ofInt 32 offset ∧ -200 ≤ t.mach.ppm ∧ t.mach.ppm ≤ 200 ∧ (0 < offset → 0 ≤ t.mach.ppm) ∧
          (offset < 0 → t.mach.ppm ≤ 0) ∧ t.mach.count = s.mach.count ∧ t.mach.steps = s.mach.steps ∧
          t.mach.goodRun = (if -128 ≤ offset ∧ offset ≤ 128 then min 500 (s.mach.goodRun + 1) else 0) ∧
          (t.mach.locked = true ↔ s.mach.locked = true ∨ t.mach.goodRun = 500) ∧
          (t.mach.locked = true → t.mach.stratum = (t.nbr q).rxStratum + 1)))) ∧
  (∀ s : State, s.parentIsLost = true → Answers .parentLost s fun t =>
    t.mach.goodRun = 0 ∧ t.mach.count = s.mach.count ∧ t.mach.steps = s.mach.steps ∧ t.mach.locked = s.mach.locked ∧
    t.mach.nbrs = s.mach.nbrs ∧ { t with mach := s.mach } = s ∧
    (s.mach.locked = false → t.mach.parent = 0x1F ∧ t.mach.holdover = s.mach.holdover) ∧
    (s.mach.locked = true → s.bestParent = none →
      t.mach.parent = 0x1F ∧ t.mach.holdover = true ∧ t.mach.holdSince = s.nowNs ∧ t.mach.ppm = s.mach.ppm) ∧
    (∀ b, s.mach.locked = true → s.bestParent = some b →
      t.mach.parent = BitVec.ofNat 5 b ∧ t.mach.stratum = (s.nbr b).rxStratum + 1 ∧ t.mach.holdover = s.mach.holdover)) ∧
  (∀ s : State, s.mach.holdover = true → s.mach.holdSince + 1000000 ≤ s.nowNs → Answers .holdoverExpire s fun t =>
    t.mach = { s.mach with locked := false, holdover := false, stratum := 0xFF, goodRun := 0, cadenceOut := false } ∧
    (∀ k < 4, ∀ w, 2 ≤ w → w < 16 → 2 ≤ s.slotCount k w → (t.steerG k w).out = 0x3FFFF ∧ (t.steerG k w).term = 0) ∧
    (∀ k < 4, ∀ w, 2 ≤ w → w < 16 → s.slotCount k w < 2 → t.steerG k w = s.steerG k w) ∧
    { t with mach := s.mach, steer := s.steer } = s) ∧
  (∀ s : State, exec .cadenceOutEdge s = .next { s with mach :=
    { s.mach with cadenceOut := s.mach.locked && decide (s.cadNs % 1000000 < 500000) } })

/-- An engine takes the oldest post of its two dies and checks it; the first checked post starts when R381 holds, with a new
generation and its counter's abort flag clear, and then applies what it has held for that use of the slot. Every packet that arrives is
tested; one that passes advances its collective: data in order, arrivals and releases of a barrier, credits and acknowledgements; a loss
or a wrong sender aborts it (R380-R382, R385-R387, R390, R392). Buffers counted in units of 64 KiB (log entry 57), and the words counted
as poisoned (log entry 94), are the model's choices. -/
def Obligations.CollectivesStartAndTakeTheirPackets : Prop :=
  (∀ (k : LpId) (s : State) (d i at_ low : Nat) (rest : List (Nat × Nat × Nat)), s.inDomainReset (.fab k) = false →
    (d = 2 * k.val ∧ SMap.get [] s.collPosts d = (i, at_, low) :: rest ∧
        (∀ x, (SMap.get [] s.collPosts (2 * k.val + 1)).head? = some x → at_ ≤ x.2.1) ∨
      d = 2 * k.val + 1 ∧ SMap.get [] s.collPosts d = (i, at_, low) :: rest ∧
        (∀ x, (SMap.get [] s.collPosts (2 * k.val)).head? = some x → at_ < x.2.1)) →
    (∀ m e, s.image = some m → SMap.get? m.coll i = some e → s.clFormBad k e = none → Answers (.collectiveTakePost k) s fun t =>
      SMap.get [] t.collPosts d = rest ∧ (∀ q, q ≠ d → SMap.get [] t.collPosts q = SMap.get [] s.collPosts q) ∧
      t.engine k = { s.engine k with checked := (s.engine k).checked ++ [(d, e)] } ∧ (∀ j, j ≠ k.val → t.engine j = s.engine j) ∧
      { t with engines := s.engines, collPosts := s.collPosts } = s) ∧
    (∀ m, s.image = some m → (SMap.get? m.coll i = none ∨ ∃ e, SMap.get? m.coll i = some e ∧ s.clFormBad k e ≠ none) →
      Answers (.collectiveTakePost k) s fun t => SMap.get [] t.collPosts d = rest ∧ FaultRecorded s t 0x1F 6 d k ∧
        t.engines = s.engines)) ∧
  (∀ (k : LpId) (s : State) (entry : BitVec 512) (d : Nat) (rest : List (Nat × BitVec 512)), s.inDomainReset (.fab k) = false →
    (s.engine k).checked = (d, entry) :: rest →
    let e := s.engine k
    let slot := ceSlot entry
    let need := if ceOp entry = 6 then 0 else 2
    let gen := SMap.get 0 e.gens slot + 1
    let ready : Prop := e.open_.length < 16 ∧ s.coll k slot = none ∧ need * (ceChunk entry / 65536) ≤ e.store ∧
      (∀ q < 4, ∀ c ∈ (s.engine q).open_, ceCounter c.entry ≠ ceCounter entry) ∧
      ∀ at_, SMap.get? e.lastEnd slot = some at_ → at_ + 100000 ≤ s.nowNs
    let mine := e.early.filter fun p => clSlot p == slot && clGen p == gen.toNat
    (ready → ∀ p, mine.find? (fun p => p.ty == 0x1F) = some p → Answers (.collectiveStart k) s fun t => t.coll k slot = none ∧
      (t.engine k).started = e.started + 1 ∧ (t.engine k).aborted = e.aborted + 1 ∧ (t.engine k).checked = rest ∧
      bitOf t.abort (ceCounter entry) = true ∧ fld (t.engine k).lastAbort 19 16 = leNat ((p.payload.drop 2).take 1) % 16) ∧
    (ready → (∀ p ∈ mine, p.ty ≠ 0x1F) → Answers (.collectiveStart k) s fun t =>
      (t.engine k).early = e.early.filter (fun p => !(clSlot p == slot && clGen p == gen.toNat)) ∧ (t.engine k).applied = e.applied ++ mine ∧
      (∃ c, t.coll k slot = some c ∧ c.entry = entry ∧ c.gen = gen ∧ c.epoch = BitVec.ofNat 16 s.epoch ∧
        c.size = s.groupSize (ceSpan entry) ∧ c.started = s.cadNs ∧ c.stepsMade = 0 ∧ c.chunks = []) ∧
      (t.engine k).started = e.started + 1 ∧ (t.engine k).checked = rest ∧ SMap.get 0 (t.engine k).gens slot = gen ∧
      (t.engine k).store = e.store - need * (ceChunk entry / 65536) ∧
      (∀ n < 64, bitOf t.abort n = if n = ceCounter entry then false else bitOf s.abort n) ∧
      (∀ j, j ≠ k.val → t.engine j = s.engine j) ∧ { t with engines := s.engines, fabs := s.fabs, abort := s.abort } = s) ∧
    (¬ready → exec (.collectiveStart k) s = .next s)) ∧
  CollTested .clData 0x10 ∧ CollTested .clArrive 0x11 ∧ CollTested .clRelease 0x12 ∧ CollTested .clAbort 0x1F ∧
  (∀ (k : LpId) (s : State) (held : Bool) (f : Option (FibreId × WaveId)) (p : Packet) (c : CollState) (y : Nat),
    let u := s.landAccesses k
    u.collPacket k 0x10 held f p → u.collAccepts k held p c y →
    let j := clChunk p
    let got := SMap.get [] (c.chunk j).rx y
    let piece := p.payload.zipIdx.map fun b => (b.1, bitOf p.poison (b.2 / 8))
    let data := got ++ piece
    let now : Prop := u.ordered = false ∧ c.up = true ∧ y ∈ u.childrenOf c j
    let ro := ceRedop c.entry
    let n := 256 * clIndex p
    (u.dataFrom c j y = false ∨ p.payload.length ≠ 256 → Answers (.clData k) s fun t => CollAborted u t k c 7 u.ownPackage) ∧
    (u.dataFrom c j y = true → p.payload.length = 256 →
      (got.length ≠ n → Answers (.clData k) s fun t => CollAborted u t k c 2 u.ownPackage) ∧
      (got.length = n → data.length < ceChunk c.entry → Answers (.clData k) s fun t =>
        (∃ acc, t.coll k (clSlot p) =
            some (c.setChunk j { c.chunk j with acc := acc, rx := SMap.insert (c.chunk j).rx y data, lastPkt := some s.nowNs }) ∧
          (¬now → acc = (c.chunk j).acc ∧ (t.engine k).poison = (u.engine k).poison) ∧
          (now → (t.engine k).poison = (u.engine k).poison + BitVec.ofNat 32 (poisonedWords piece) ∧
            ∀ a, (c.chunk j).acc = some a → acc =
              some (a.take n ++ combineChunk (ro / 16) (ro % 16) ((a.drop n).take 256) piece ++ a.drop (n + 256)))) ∧
        t.mem = u.mem ∧ (∀ i, i ≠ k.val → t.engine i = u.engine i) ∧ { t with engines := u.engines, fabs := u.fabs } = u) ∧
      (got.length = n → ceChunk c.entry ≤ data.length → Answers (.clData k) s fun t =>
        (∃ q ∈ (t.fab k).outq, q.ty = 0x91 ∧ q.dst = BitVec.ofNat 16 (u.memberOf c y)) ∧
        (c.isA2A = true → ChunkBegun u t k c .dest j (ceChunkAt c.entry true j) data) ∧ t.mem = u.mem ∧ t.chunk = u.chunk ∧ t.abort = u.abort))) ∧
  (∀ (k : LpId) (s : State) (held : Bool) (f : Option (FibreId × WaveId)) (p : Packet) (c : CollState) (y : Nat),
    let u := s.landAccesses k
    u.collPacket k 0x11 held f p → u.collAccepts k held p c y →
    (ceOp c.entry = 6 → y ∈ u.childrenOf c 0 → Answers (.clArrive k) s fun t => ∃ d, t.coll k (clSlot p) = some d ∧
      d = { c with arrived := d.arrived, arriveSent := d.arriveSent, released := d.released } ∧ y ∈ d.arrived ∧
      (∀ x ∈ c.arrived, x ∈ d.arrived) ∧
      ((∀ x ∈ u.childrenOf c 0, x ∈ d.arrived) →
        (u.parentOf c 0 = none → d.released = true) ∧ (u.parentOf c 0 ≠ none → d.arriveSent = true)) ∧
      { t with engines := u.engines, fabs := u.fabs } = u) ∧
    (ceOp c.entry ≠ 6 ∨ y ∉ u.childrenOf c 0 → Answers (.clArrive k) s fun t => CollAborted u t k c 7 u.ownPackage)) ∧
  (∀ (k : LpId) (s : State) (held : Bool) (f : Option (FibreId × WaveId)) (p : Packet) (c : CollState) (y : Nat),
    let u := s.landAccesses k
    u.collPacket k 0x12 held f p → u.collAccepts k held p c y →
    let from_ := if u.torus then u.parentOf c 0 else some 0
    (ceOp c.entry = 6 → from_ = some y → y ≠ c.rank → Answers (.clRelease k) s fun t =>
      t.coll k (clSlot p) = some { c with released := true } ∧
      (u.torus = true → c.released = false → ∀ x ∈ u.childrenOf c 0, ∃ cls, ∃ q ∈ SMap.get [] (t.fab k).inject cls, q.ty = 0x12 ∧
        q.dst = BitVec.ofNat 16 (u.memberOf c x)) ∧
      { t with engines := u.engines, fabs := u.fabs } = u) ∧
    (ceOp c.entry ≠ 6 ∨ from_ ≠ some y ∨ y = c.rank → Answers (.clRelease k) s fun t => CollAborted u t k c 7 u.ownPackage)) ∧
  (∀ (k : LpId) (s : State) (held : Bool) (f : Option (FibreId × WaveId)) (p : Packet) (c : CollState),
    let u := s.landAccesses k
    u.collPacket k 0x1F held f p → u.collNames k held p c → p.payload.length = 32 →
    Answers (.clAbort k) s fun t => CollAborted u t k c (leNat ((p.payload.drop 2).take 1)) (leNat (p.payload.take 2) % 4096)) ∧
  CollTested .clCredit 0x90 ∧
  (∀ (k : LpId) (s : State) (held : Bool) (f : Option (FibreId × WaveId)) (p : Packet) (c : CollState) (y : Nat),
    let u := s.landAccesses k
    u.collPacket k 0x90 held f p → u.collAccepts k held p c y →
    let j := clChunk p
    let i := c.ofBlock y (c.inBlock j)
    let key := c.size * ceChunks c.entry + i
    (c.isA2A = false → (c.up = true ∧ u.parentOf c j = some y ∨ c.down = true ∧ y ∈ u.childrenOf c j) →
      Answers (.clCredit k) s fun t => (∃ d, t.coll k (clSlot p) = some d ∧ y ∈ (d.chunk j).credits) ∧
        t.mem = u.mem ∧ t.chunk = u.chunk ∧ t.abort = u.abort) ∧
    (c.isA2A = false → ¬(c.up = true ∧ u.parentOf c j = some y ∨ c.down = true ∧ y ∈ u.childrenOf c j) →
      Answers (.clCredit k) s fun t => CollAborted u t k c 7 u.ownPackage) ∧
    (c.isA2A = true → y = c.rank ∨ c.blockOf j ≠ c.rank → Answers (.clCredit k) s fun t => CollAborted u t k c 7 u.ownPackage) ∧
    (c.isA2A = true → y ≠ c.rank → c.blockOf j = c.rank → Answers (.clCredit k) s fun t =>
      t.coll k (clSlot p) = some (c.setChunk key { c.chunk key with credits := [y] }) ∧
      ((c.chunk key).full = true → c.blockOf i = y → (c.chunk key).sentTo = [] → u.accessing k c.slot .source i = false →
        ChunkBegun u t k c .source i (ceChunkAt c.entry false i) []) ∧
      t.mem = u.mem ∧ t.chunk = u.chunk ∧ t.abort = u.abort)) ∧
  CollTested .clAck 0x91 ∧
  (∀ (k : LpId) (s : State) (held : Bool) (f : Option (FibreId × WaveId)) (p : Packet) (c : CollState) (y : Nat),
    let u := s.landAccesses k
    u.collPacket k 0x91 held f p → u.collAccepts k held p c y →
    let j := if c.isA2A then c.size * ceChunks c.entry + c.ofBlock y (c.inBlock (clChunk p)) else clChunk p
    (y ∈ (c.chunk j).sentTo → Answers (.clAck k) s fun t =>
      (∃ d, t.coll k (clSlot p) = some (c.setChunk j { c.chunk j with acked := d }) ∧ y ∈ d ∧ ∀ x ∈ (c.chunk j).acked, x ∈ d) ∧
      { t with engines := u.engines, fabs := u.fabs } = u) ∧
    (y ∉ (c.chunk j).sentTo → Answers (.clAck k) s fun t => CollAborted u t k c 7 u.ownPackage))

/-- A gate whose target is met lets its chunk be read, credited or written; the engine's reads and writes of chunks are servant requests,
whose answers it takes before it acts; a result chunk that is written steps its counter by one, in order; and a collective closes, with a last step, when every result is stepped and every chunk sent is acknowledged. A
stall, a deadline, a machine-check hold or an aborted gate counter aborts it, and the abort is sent again after 250 us (R375,
R378, R379, R382, R384, R385, R392, R393). That a chunk access which fails names no cause (log entry 99), and that the bytes of chunks that
an aborted collective has not counted are free (log entry 94), are the model's choices. -/
def Obligations.CollectivesStepCloseAndAbort : Prop :=
  (∀ (k : LpId) (s : State), ((∀ a ∈ (s.engine k).accesses, a.job.done = false) →
      (∀ j, (s.landAccesses k).engine j = s.engine j) ∧ { s.landAccesses k with engines := s.engines } = s) ∧
    ∀ a c, (s.engine k).accesses.filter (fun a => a.job.done) = [a] → s.coll k a.slot = some c → ChunkLands s k c a) ∧
  (∀ (k : LpId) (slot : SlotId) (chunk : Nat) (s : State) (c : CollState) (dst : Bool), s.inDomainReset (.fab k) = false →
    let u := s.landAccesses k
    u.coll k slot = some c →
    let o := if dst then 52 else 40
    let ctr := slotN c.entry (o + 2) 2
    let gone : Prop := slotN c.entry o 1 = 1 ∧ 0x120 ≤ ctr ∧ ctr < 0x160 ∧
      u.abortCopyBit (slotN c.entry (o + 1) 1) (ctr - 0x120) = true
    (gone → Answers (.gateOpen k slot dst chunk) s fun t => CollAborted u t k c 9 u.ownPackage) ∧
    (¬gone → u.gateMet c.entry o chunk = false → exec (.gateOpen k slot dst chunk) s = .next u) ∧
    (¬gone → u.gateMet c.entry o chunk = true → chunk < chunkCount c.entry c.size c.rank dst →
      let key (i : Nat) : Nat := c.size * ceChunks c.entry + i
      (dst = false → c.isA2A = true → Answers (.gateOpen k slot dst chunk) s fun t =>
        (∃ d, t.coll k slot = some d ∧ (d.chunk (key chunk)).full = true) ∧
        (c.blockOf chunk ∈ (c.chunk (key chunk)).credits → c.blockOf chunk ∉ (c.chunk (key chunk)).sentTo →
          u.accessing k c.slot .source chunk = false → ChunkBegun u t k c .source chunk (ceChunkAt c.entry false chunk) [])) ∧
      (dst = false → c.isA2A = false → c.busy < c.buffers →
        let x := c.chunk (c.chunkOfSource chunk)
        x.acc = none → x.full = false → x.sentTo = [] → u.accessing k c.slot .source chunk = false →
        Answers (.gateOpen k slot dst chunk) s fun t => ChunkBegun u t k c .source chunk (ceChunkAt c.entry false chunk) []) ∧
      (dst = true → c.busy < c.buffers →
        let x := c.chunk (c.chunkOfDest chunk)
        let own : Prop := c.isA2A = true ∧ c.blockOf chunk = c.rank
        x.gateDst = false →
        (own → (c.chunk (key (c.ofBlock c.rank (c.inBlock chunk)))).full = true → Answers (.gateOpen k slot dst chunk) s fun t =>
          ChunkBegun u t k c .own chunk (ceChunkAt c.entry false (c.ofBlock c.rank (c.inBlock chunk))) []) ∧
        (own → (c.chunk (key (c.ofBlock c.rank (c.inBlock chunk)))).full = false → exec (.gateOpen k slot dst chunk) s = .next u) ∧
        (¬own → Answers (.gateOpen k slot dst chunk) s fun t =>
          (∃ d, t.coll k slot = some d ∧ (d.chunk (c.chunkOfDest chunk)).gateDst = true) ∧
          (∀ y, (if c.isA2A then some (c.blockOf chunk) else if c.down then u.parentOf c (c.chunkOfDest chunk) else none) = some y →
            y ∉ x.granted → ∃ q ∈ (t.fab k).outq, q.ty = 0x90 ∧ q.dst = BitVec.ofNat 16 (u.memberOf c y)))))) ∧
  (∀ (k : LpId) (slot : SlotId) (s : State) (c : CollState), s.inDomainReset (.fab k) = false →
    let u := s.landAccesses k
    u.coll k slot = some c →
    (c.stepsMade < resultChunks c.entry c.size → (c.chunk (c.chunkOfDest c.stepsMade)).written = true →
      Answers (.chunkResultStep k slot) s fun t =>
        t.coll k slot = some { c with stepsMade := c.stepsMade + 1 } ∧
        (∀ n, SMap.get 0 t.chunk n = if n = ceCounter c.entry then SMap.get 0 u.chunk n + 1 else SMap.get 0 u.chunk n) ∧
        (∀ j, j ≠ k.val → t.engine j = u.engine j) ∧ { t with engines := u.engines, chunk := u.chunk } = u) ∧
    (c.stepsMade = resultChunks c.entry c.size → u.allAcked c = true → Answers (.collectiveClose k slot) s fun t =>
      t.engine k = { u.engine k with
        open_ := (u.engine k).open_.filter fun x => x.slot != c.slot
        closed := (u.engine k).closed + 1
        store := (u.engine k).store + c.buffers * c.units
        lastEnd := SMap.insert (u.engine k).lastEnd c.slot u.nowNs } ∧
      (∀ n, SMap.get 0 t.chunk n = if n = ceCounter c.entry then SMap.get 0 u.chunk n + 1 else SMap.get 0 u.chunk n) ∧
      (∀ j, j ≠ k.val → t.engine j = u.engine j) ∧ { t with engines := u.engines, chunk := u.chunk } = u) ∧
    ((∃ e ∈ c.chunks, e.2.rx ≠ [] ∧ ∃ at_, e.2.lastPkt = some at_ ∧ at_ + 1000 * ceStallUs c.entry ≤ u.nowNs) ∨
        (∃ x ∈ c.sending, x.2.2 + 1000 * ceStallUs c.entry ≤ u.nowNs) →
      Answers (.collectiveStall k slot) s fun t => CollAborted u t k c 3 u.ownPackage) ∧
    (ceDeadline c.entry ≠ 0 → c.started + ceDeadline c.entry ≤ u.cadNs →
      Answers (.collectiveDeadline k slot) s fun t => CollAborted u t k c 4 u.ownPackage) ∧
    (u.beat.faultHold = true → u.beat.machineCheck = true →
      Answers (.collectiveAbort k slot) s fun t => CollAborted u t k c 2 u.ownPackage)) ∧
  (∀ (k : LpId) (s : State) (x : Nat × Nat × Packet), s.inDomainReset (.fab k) = false →
    (s.engine k).resend.find? (fun x => decide (x.2.1 ≤ s.nowNs)) = some x → x.2.2.network = 0 →
    Answers (.abortResend k) s fun t =>
      t.engine k = { s.engine k with resend := (s.engine k).resend.erase x } ∧
      SMap.get [] (t.fab k).inject x.2.2.svcClass = SMap.get [] (s.fab k).inject x.2.2.svcClass ++ [x.2.2] ∧
      (∀ j, j ≠ k.val → t.engine j = s.engine j) ∧ { t with engines := s.engines, fabs := s.fabs } = s)

/-- The doorbell is taken in its range and is a ring error beyond it; one command that waits is rejected with the lowest byte that
fails, relayed, or judged and accepted, a long one with `ACCEPTED`, after what it is judged by has been read from its buffer. The blocks
of MB24-MB30 do nothing. Response heads, command windows, events, flags and latches follow their registers' rules, and a sideband transfer
changes a register with its fourth byte. Selection takes a shift at the next boundary first. Relays and open commands that time out
complete `TIMED_OUT`, and an enabled event stores `RSP_COUNT` at its address (R7, R49, R397, R399-R405, R420, R482). The model's choices
here: a relay that times out is answered with kind 0 (log entry 33); a command is judged when it is taken, with its buffer read then as
servant requests (log entries 59, 79); what a sideband transfer with a bad offset or too many bytes does (log entry 114). -/
def Obligations.MailboxesTakeSelectAndAnswer : Prop :=
  (∀ (m : MbId) (i : Fin 16) (v : Word32) (s : State), 24 ≤ m.val → m.val ≤ 30 →
    ∀ c ∈ [Instr.cmdTailWrite m v, .rspHeadWrite m v, .cmdWinWrite m i v, .mbEventClear m v, .mailboxNotify m], exec c s = .next s) ∧
  (∀ (m : MbId) (v : Word32) (s : State), ¬(24 ≤ m.val ∧ m.val ≤ 30) →
    let x := s.mb m
    let tail : BitVec 7 := v.setWidth 7
    let who : SenderId := Fin.ofNat 56 m.val
    (64 < x.waitingCmds + (tail - x.cmdTail).toNat → x.waitingCmds ≤ 64 →
      Answers (.cmdTailWrite m v) s fun t => MailboxBecomes s t m { x with event := x.event ||| 8 }) ∧
    (x.waitingCmds + (tail - x.cmdTail).toNat ≤ 64 → s.serving m = false → s.hub.taking = none → (∀ b ∈ s.hub.bells, s.servesBell b = false) →
      Answers (.cmdTailWrite m v) s fun t => MailboxBecomes s { t with hub := s.hub } m { x with cmdTail := tail } ∧
        t.hub = { s.hub with bells := s.hub.bells ++ List.replicate (tail - x.cmdTail).toNat { who := who, rung := s.nowNs } }) ∧
    (x.cmdHead = x.cmdTail → tail = x.cmdTail + 1 → s.serving m = true → s.hub.taking = none → s.hub.bells = [] →
      let c : BitVec 512 := SMap.get 0 x.cmdSlots (x.cmdHead.toNat % 64)
      Answers (.cmdTailWrite m v) s fun t => (t.mb m).cmdHead = tail ∧ (t.mb m).cmdTail = tail ∧
        (∀ f, s.fieldFailure who c (slotN c 4 1 == 0xFF) = some f →
          HubReplied s t who (respSlot (slotOp c) f.1 (slotTag c) f.2 0 0) ∧ HubOnly s t ∧ t.hub = s.hub) ∧
        (cmdClasses (slotOp c) = none → HubReplied s t who (respSlot (slotOp c) 0x10 (slotTag c) 0 0 0)) ∧
        (s.fieldFailure who c true = none → slotN c 4 1 = 0xFF → s.tooEarly (slotOp c) = true ∨ bufferNeed c [] = none →
          Judged s t who s.nowNs c (some [])) ∧
        (s.fieldFailure who c true = none → slotN c 4 1 = 0xFF → s.tooEarly (slotOp c) = false → ∀ need, bufferNeed c [] = some need →
          (∃ r o, regionOf need.1 = some (r, o) ∧ s.regionServes r = true) →
          BeginsTaking (s.setMb m { x with cmdHead := tail, cmdTail := tail }) t { who := who, rung := s.nowNs, slot := some c } need) ∧
        (s.fieldFailure who c false = none → slotN c 4 1 ≠ 0xFF →
          (s.tooEarly (slotOp c) = true → HubReplied s t who (respSlot (slotOp c) 0x11 (slotTag c) 0 0 0) ∧ HubOnly s t ∧ t.hub = s.hub) ∧
          (s.tooEarly (slotOp c) = false → s.portOpen (cubeFibre (slotN c 4 1)) = false →
            HubReplied s t who (respSlot (slotOp c) 0x20 (slotTag c) 0 0 0) ∧ HubOnly s t ∧ t.hub = s.hub) ∧
          (s.tooEarly (slotOp c) = false → s.portOpen (cubeFibre (slotN c 4 1)) = true →
            HubOnly s t ∧ ∃ r : RelayWait, t.hub.relays = s.hub.relays ++ [r] ∧ r.mb = m ∧ r.port.val = slotN c 4 1 ∧
              r.deadline = s.nowNs + 10000000 ∧ t.hub.relayOut = s.hub.relayOut ++ [(r.port, false, setFld c 39 32 0xFF)])))) ∧
  (∀ (m : MbId) (v : Word32) (s : State), ¬(24 ≤ m.val ∧ m.val ≤ 30) →
    let x := s.mb m
    let head : BitVec 7 := v.setWidth 7
    (x.held < (head - x.rspHead).toNat →
      Answers (.rspHeadWrite m v) s fun t => MailboxBecomes s t m { x with event := x.event ||| 8 }) ∧
    ((head - x.rspHead).toNat ≤ x.held → x.waiting = [] →
      Answers (.rspHeadWrite m v) s fun t => MailboxBecomes s t m { x with rspHead := head })) ∧
  (∀ (m : MbId) (i : Fin 16) (v : Word32) (s : State), ¬(24 ≤ m.val ∧ m.val ≤ 30) →
    let x := s.mb m
    let slot := x.cmdSel.toNat
    ((∃ j < x.waitingCmds, (x.cmdHead.toNat + j) % 64 = slot) →
      Answers (.cmdWinWrite m i v) s fun t => MailboxBecomes s t m { x with event := x.event ||| 8 }) ∧
    ((∀ j < x.waitingCmds, (x.cmdHead.toNat + j) % 64 ≠ slot) → Answers (.cmdWinWrite m i v) s fun t =>
      (∀ j < 16, fld (SMap.get 0 (t.mb m).cmdSlots slot) (32 * j + 31) (32 * j) =
        if j = i.val then v.toNat else fld (SMap.get 0 x.cmdSlots slot) (32 * j + 31) (32 * j)) ∧
      (∀ n, n ≠ slot → SMap.get 0 (t.mb m).cmdSlots n = SMap.get 0 x.cmdSlots n) ∧
      { t.mb m with cmdSlots := [] } = { x with cmdSlots := [] } ∧ (∀ j, j ≠ m.val → t.mb j = s.mb j) ∧ { t with mbs := s.mbs } = s)) ∧
  (∀ (m : MbId) (v : Word32) (s : State), ¬(24 ≤ m.val ∧ m.val ≤ 30) → Answers (.mbEventClear m v) s fun t =>
    MailboxBecomes s t m { s.mb m with event := (s.mb m).event &&& ~~~(v.setWidth 4) }) ∧
  (∀ (inst : Nat) (v : Word32) (s : State), inst < 16384 → Answers (.registerWrite (.block 2 inst 4) v) s fun t =>
    let a := s.array inst
    ArrayBecomes s t inst
      { a with flags := (a.flags &&& ~~~(v.setWidth 6)) ||| (if a.flagsAt = s.sched then a.flagsNew &&& a.flags else 0) }) ∧
  (∀ (cls inst off : Nat) (v : Word32) (s : State), cls ≠ 2 ∨ off ≠ 4 →
    exec (.registerWrite (.block cls inst off) v) s = .next s) ∧
  (∀ (m : MbId) (v : Word32) (s : State),
    (∀ off, off % 4 ≠ 0 ∨ 24 ≤ m.val ∧ m.val ≤ 30 → exec (.registerWrite (.mailbox m off) v) s = .next s) ∧
    exec (.registerWrite (.mailbox m 0x0C) v) s = exec (.cmdTailWrite m v) s ∧
    exec (.registerWrite (.mailbox m 0x10) v) s = exec (.rspHeadWrite m v) s ∧
    exec (.registerWrite (.mailbox m 0x20) v) s = exec (.mbEventClear m v) s ∧
    (∀ i : Fin 16, exec (.registerWrite (.mailbox m (0x400 + 4 * i)) v) s = exec (.cmdWinWrite m i v) s) ∧
    (¬(24 ≤ m.val ∧ m.val ≤ 30) → Answers (.registerWrite (.mailbox m 0x24) v) s fun t =>
      MailboxBecomes s t m { s.mb m with eventEn := v.setWidth 4 })) ∧
  (∀ (v : Word32) (s : State),
    (s.sidebandOn = false → ∀ p, exec (.registerWrite (.sideband p) v) s = .next s) ∧
    (s.sidebandOn = true →
      exec (.registerWrite (.sideband .start) v) s = .next { s with tap := { s.tap with transfer := some ([], 0) } } ∧
      exec (.registerWrite (.sideband .stop) v) s = .next { s with tap := { s.tap with transfer := none } } ∧
      ∀ l n, s.tap.transfer = some (l, n) →
        let u : State := { s with tap := { s.tap with transfer := some (l ++ [v.setWidth 8], n) } }
        let off := transferOffset l + (l.length - 2)
        (5 ≤ l.length → l.length < 66 → transferOffset l < 0x1000 → off < 0x1000 → off % 4 = 3 →
          exec (.registerWrite (.sideband .byte) v) s =
            exec (.registerWrite (.mailbox 31 (off - 3)) (BitVec.ofNat 32 (leNat ((l ++ [v.setWidth 8]).drop (l.length - 3))))) u) ∧
        (l.length < 5 ∨ 66 ≤ l.length ∨ 0x1000 ≤ transferOffset l ∨ off % 4 ≠ 3 → exec (.registerWrite (.sideband .byte) v) s = .next u))) ∧
  (∀ (cls inst off n : Nat) (r : Nat) (s : State), classInfo cls = some (n, r) → inst < n → off ∈ loOffsets cls →
    Answers (.loRegisterRead (.block cls inst off)) s fun t =>
      { t with latches := s.latches } = s ∧ (t.readReg cls inst (off + 4)).1 = s.blockWord cls inst (off + 4)) ∧
  (∀ (cls inst off : Nat) (s : State), off ∈ loOffsets cls →
    (s.readReg cls inst off).1 = s.blockWord cls inst off ∧ (s.readReg cls inst (off + 4)).1 = SMap.get 0 s.latches (latchKey cls inst off)) ∧
  (∀ s : State, s.hub.shutdown = false →
    let u := s.takeAll
    (u.hub.current ≠ none ∨ u.hub.accepted = [] → exec .commandSelect s = .next u) ∧
    (u.hub.current = none → ∀ a, u.nextCommand = some a → Answers .commandSelect s fun t =>
      t.hub.current = some a ∧ t.hub.accepted = u.hub.accepted.erase a ∧ a ∈ u.hub.accepted ∧ HubOnly u t ∧ t.mbs = u.mbs ∧
      (∀ b, u.hub.accepted.find? (fun a => slotOp a.slot == 0x12 && slotN a.slot 8 8 == 0) = some b → a = b)) ∧
    (s.hub.bells = [] → s.hub.taking = none → u = s) ∧
    ∀ b j c, s.hub.taking = some (b, j) → s.hub.bells = [] → b.slot = some c →
      (j.job.done = false → u = s) ∧
      (j.job.done = true → s.fieldFailure b.who c true = none → slotN c 4 1 = 0xFF →
        let v := s.setHub { s.hub with taking := none }
        let have_ := j.before ++ j.job.data
        (j.job.status ≠ 0 ∨ have_.any (·.2) = true → Judged v u b.who b.rung c none) ∧
        (j.job.status = 0 → have_.any (·.2) = false →
          (bufferNeed c (have_.map (·.1)) = none → Judged v u b.who b.rung c (some (have_.map (·.1)))) ∧
          ∀ need, bufferNeed c (have_.map (·.1)) = some need → (∃ r o, regionOf need.1 = some (r, o) ∧ s.regionServes r = true) →
            ∃ w : State, HubOnly v w ∧ (∃ k, w.hub = { v.hub with taking := some (b, k), jobNo := v.hub.jobNo + 1 } ∧ k.before = have_ ∧
                k.job = { off := need.1, len := need.2 }) ∧
              Queued w u { owner := .hub s.hub.jobNo, write := false, addr := need.1, data := [], poison := [], len := need.2, whole := need.2 }))) ∧
  (∀ (q : CubePort) (slot : BitVec 512) (s : State) (r : RelayWait),
    s.hub.relays.find? (fun r => r.port == q && r.tag.toNat == slotTag slot && r.opcode.toNat == slotOp slot) = some r →
    Answers (.relayReceive q true slot) s fun t => HubReplied s t (Fin.ofNat 56 r.mb.val) slot ∧ HubOnly s t ∧
      (slotN slot 1 1 ≠ 0x01 → t.hub.relays = s.hub.relays.erase r)) ∧
  (∀ (q : CubePort) (slot : BitVec 512) (s : State),
    let who : SenderId := Fin.ofNat 56 (32 + q.val)
    (s.power.vaoGood = false ∨ s.power.inReset = true ∨ s.hub.shutdown = true → exec (.relayReceive q false slot) s = .next s) ∧
    (s.power.vaoGood = true → s.power.inReset = false → s.hub.shutdown = false → s.hub.taking = none → s.hub.bells = [] →
      (∀ f, s.fieldFailure who slot (slotN slot 4 1 == 0xFF) = some f → Answers (.relayReceive q false slot) s fun t =>
        HubReplied s t who (respSlot (slotOp slot) f.1 (slotTag slot) f.2 0 0) ∧ HubOnly s t) ∧
      (s.fieldFailure who slot true = none → slotN slot 4 1 = 0xFF → s.tooEarly (slotOp slot) = true ∨ bufferNeed slot [] = none →
        Answers (.relayReceive q false slot) s fun t => Judged s t who s.nowNs slot (some [])))) ∧
  (∀ (m : MbId) (tag : BitVec 16) (s : State) (r : RelayWait),
    s.hub.relays.find? (fun r => r.mb == m && r.tag == tag && r.deadline != 0 && decide (r.deadline ≤ s.nowNs)) = some r →
    Answers (.relayTimeout m tag) s fun t => t.hub.relays = s.hub.relays.erase r ∧ HubOnly s t ∧
      HubReplied s t (Fin.ofNat 56 m.val) (respSlot r.opcode.toNat 0x21 tag.toNat 0 0 0)) ∧
  (∀ (m : MbId) (s : State),
    let x := s.mb m
    let a := x.notifyLo.toNat + 2 ^ 32 * x.notifyHi.toNat
    (x.event &&& x.eventEn = 0 ∨ mbClass m ≠ 1 ∨ a = 0 → exec (.mailboxNotify m) s = .next s) ∧
    (x.event &&& x.eventEn ≠ 0 → mbClass m = 1 → a ≠ 0 → (∀ b, x.notifiedAt = some b → b + 10000 ≤ s.nowNs) →
      let noted (u : State) : Prop := u.mb m = { x with notifiedAt := some s.nowNs } ∧ ∀ j, j ≠ m.val → u.mb j = s.mb j
      (s.ownAddress a = true → gaSpace a = 0 → Answers (.mailboxNotify m) s fun t => ∃ u : State, noted u ∧ HubOnly s u ∧
        u.hub = { s.hub with jobNo := s.hub.jobNo + 1 } ∧
        ∀ r o, regionOf (gaOffset a) = some (r, o) → s.regionServes r = true →
          Queued u t { owner := .hub s.hub.jobNo, write := true, addr := gaOffset a, data := leBytes 4 x.rspCount.toNat
                       poison := (leBytes 4 x.rspCount.toNat).map fun _ => false, len := 4, whole := 4 }) ∧
      (s.ownAddress a = false → Answers (.mailboxNotify m) s fun t => noted t ∧ t.mem = s.mem ∧ t.hub = s.hub))) ∧
  (∀ (m : SenderId) (tag : BitVec 16) (s : State) (o p : OpenCmd),
    s.hub.openCmds.find? (fun o => o.mb == m && o.tag == tag && decide (o.deadline ≤ s.nowNs)) = some o →
    s.openCmd m tag.toNat o.opcode.toNat = some p →
    Answers (.commandTimeout m tag) s fun t =>
      (o.opcode ≠ 0x23 → t.hub.openCmds = s.hub.openCmds.erase p ∧ HubReplied s t m (respSlot o.opcode.toNat 0x21 tag.toNat 0 1 0)) ∧
      (o.opcode = 0x23 → (s.channel (copyChannel o.slot)).owner = some (m, tag) → let x := t.channel (copyChannel o.slot)
        ((s.channel (copyChannel o.slot)).cur ≠ none → x.stopReq = true) ∧
        ((s.channel (copyChannel o.slot)).cur = none → x.queue = [] ∧ x.owner = none ∧ x.next = none ∧ x.state ≠ 1 ∧ x.state ≠ 3)) ∧
      (o.opcode = 0x21 → t.prog.startAt = none) ∧ (o.opcode = 0x40 → t.power.calStep = 0) ∧
      (o.opcode = 0x22 ∨ o.opcode = 0x02 → t.beat.hubDemand = false) ∧
      (∀ c, s.hub.current = some c → c.slot = o.slot → c.mb = o.mb → t.hub.current = none ∧ t.hub.job = none) ∧ t.mem = s.mem ∧ t.settings = s.settings ∧ t.prog.running = s.prog.running)

/-- Identity, snapshots, telemetry, logs and the congestion map answer from the state and change only what R349, R417 and R418
say, a buffer being written by servant requests before the command completes; `COPY` posts a chain or a stop request; a drain begins and
ends; `CAL_SAVE` goes through its steps and never touches the bank in use; and repairs act on the rows and columns of their offset alone,
in the service state (R234-R236, R250, R325, R349, R402-R406, R417, R418, R438). The model's choices here: a `COPY` with abort set is short
(log entry 15); a map buffer that is too short ends `FAILED` (31); `RESUME_FABRIC` ends open drains `ABORTED` (32); the comparisons of
`CAL_SAVE` are free values (36); what a repair of HBM4 and a second repair of one row take (67); how hub buffers are accessed (79); a command
whose state no longer fits when it acts ends `FAILED` (59). -/
def Obligations.HubCommandsAnswerFromTheState : Prop :=
  (∀ (s : State) (c : Accepted), s.cur 0x01 = some c → Answers .identify s fun t => HubOnly s t ∧ ∃ res,
    HubFinished s t c 0x00 0 res ∧ nfld res 63 0 = Config.serial.toNat ∧ nfld res 223 216 = s.power.stage.toNat ∧
    nfld res 207 192 = (match s.packageNo with | some n => n + 2 ^ 15 | none => 0)) ∧
  (∀ (s : State) (c : Accepted) (mk : Instr) (op : Nat), mk = .getState ∧ op = 0x02 ∨ mk = .readTelemetry ∧ op = 0x03 →
    s.cur op = some c →
    ((∀ j ∈ s.hub.snaps, j.slot ≠ c.slot ∨ j.mb ≠ c.mb) → Answers mk s fun t => HubOnly s t ∧ t.mbs = s.mbs ∧
      t.hub.snaps = s.hub.snaps ++ [{ mb := c.mb, slot := c.slot, isSnap := op == 0x02
                                      wallAt := if s.beat.aligned then s.wall + 4096 else s.wall }] ∧
      t.hub.current = (if slotN c.slot 8 8 = 0 then some c else none)) ∧
    ((∃ j ∈ s.hub.snaps, j.slot = c.slot ∧ j.mb = c.mb) → exec mk s = .next s)) ∧
  (∀ (s : State) (j : SnapJob) (w : HubJob), s.hub.snaps.find? (fun j => j.job.any fun w => w.job.done) = some j → j.job = some w →
    Answers .snapshotLatch s fun t => HubOnly s t ∧ t.hub.snaps = s.hub.snaps.erase j ∧
      ∀ o, s.openCmd j.mb (slotTag j.slot) (slotOp j.slot) = some o → t.hub.openCmds = s.hub.openCmds.erase o ∧
        HubReplied s t j.mb (respSlot (slotOp j.slot) (if w.job.status = 0 ∧ w.whole = true then 0x00 else 0x20) (slotTag j.slot) 0 1
          (if w.job.status = 0 then w.job.len % 2 ^ 32 else 0))) ∧
  (∀ (s : State) (j : SnapJob), s.hub.snaps.find? (fun j => j.job.any fun w => w.job.done) = none →
    s.hub.snaps.find? (fun j => j.job.isNone) = some j →
    let due : Prop := s.beat.aligned = false ∨ j.wallAt ≤ s.wall
    (s.beat.aligned = true → s.wall < j.wallAt →
      (s.snapHolds j = true → j.wallAt ≤ s.wall + 16 →
        exec .snapshotLatch s = .next { s with beat := { s.beat with hubDemand := true } }) ∧
      (s.snapHolds j = false ∨ s.wall + 16 < j.wallAt → exec .snapshotLatch s = .next s)) ∧
    (due → s.shiftHere = true → exec .snapshotLatch s = .next s) ∧
    (due → s.shiftHere = false → Answers .snapshotLatch s fun t =>
      (s.snapHolds j = true → s.cur 0x22 = none → t.beat.hubDemand = false) ∧
      t.mem = s.mem ∧ t.arrays = s.arrays ∧ t.spokes = s.spokes ∧ t.settings = s.settings ∧
      (slotN j.slot 8 8 = 0 → t.hub.snaps = s.hub.snaps.erase j ∧
        ∀ a b rest, s.hub.current = some a → a.slot = j.slot → a.mb = j.mb → selectedBlocks j.slot = b :: rest →
          HubFinished s t a 0x00 0 (leNat (((s.blockBytes b.1 b.2).drop (slotN j.slot 20 4)).take 48))) ∧
      (slotN j.slot 8 8 ≠ 0 → 64 ≤ slotN j.slot 16 4 →
        let all := (selectedBlocks j.slot).map s.snapRecord
        let recs := takeRecords all (slotN j.slot 16 4 - 64)
        let out := s.snapHeader (if j.isSnap then 1 else 2) recs.length (64 + (recs.map List.length).sum) ++ recs.flatten
        ∃ (u : State) (w : HubJob), HubOnly s u ∧
          u.hub = { s.hub with snaps := s.hub.snaps.map (fun x => if x = j then { j with job := some w } else x), jobNo := s.hub.jobNo + 1 } ∧
          w.n = s.hub.jobNo ∧ w.job = { off := slotN j.slot 8 8, len := out.length } ∧ w.whole = (recs.length == all.length) ∧
          ∀ r o, regionOf (slotN j.slot 8 8) = some (r, o) → s.regionServes r = true →
            Queued u { t with beat := s.beat } { owner := .hub s.hub.jobNo, write := true, addr := slotN j.slot 8 8, data := out
                                                 poison := out.map fun _ => false, len := out.length, whole := out.length }))) ∧
  (∀ (s : State) (c : Accepted), s.cur 0x04 = some c →
    let buf := slotN c.slot 8 8
    let all := congestionPlaces.map fun p => congestionRecord p.1 p.2 (s.congestionOf p.1 p.2)
    let recs := takeRecords all (slotN c.slot 16 4)
    (s.hub.job = none → 64 ≤ slotN c.slot 16 4 → Answers .getCongestionMap s fun t => ∃ u : State, OnlyFabs s u ∧
      (∀ k < 4, u.fab k = { s.fab k with congestion := [] }) ∧
      BeginsBuffer u t buf recs.flatten.length true recs.flatten fun w => w.whole = (recs.length == all.length) ∧ w.res = recs.length) ∧
    (s.hub.job = none → slotN c.slot 16 4 < 64 → Answers .getCongestionMap s fun t => HubFinished s t c 0x20 0 0 ∧
      ∀ k < 4, (t.fab k).congestion = []) ∧
    WaitsForBuffer .getCongestionMap s ∧
    (∀ w, s.hub.job = some w → w.job.done = true → Answers .getCongestionMap s fun t => HubOnly s t ∧
      HubFinished s t c (if w.job.status = 0 ∧ w.whole = true then 0x00 else 0x20) 0 (if w.job.status = 0 then w.res % 2 ^ 32 else 0))) ∧
  (∀ (s : State) (c : Accepted), s.cur 0x05 = some c →
    let log := if slotN c.slot 8 1 = 1 then s.aoLog else s.hubLog
    let found := log.filter fun r => atOrAbove r.seq (BitVec.ofNat 32 (slotN c.slot 12 4))
    let recs := found.take (slotN c.slot 16 2)
    (slotN c.slot 24 8 = 0 → Answers .readLog s fun t => HubOnly s t ∧
      HubFinished s t c 0x00 0 (match found with | r :: _ => leNat r.bytes | [] => 0)) ∧
    (slotN c.slot 24 8 ≠ 0 → s.hub.job = none → recs ≠ [] → Answers .readLog s fun t =>
      BeginsBuffer s t (slotN c.slot 24 8) (recs.flatMap LogRec.bytes).length true (recs.flatMap LogRec.bytes) fun w =>
        nfld w.res 15 0 = recs.length % 65536 ∧ ∀ r, recs.getLast? = some r → nfld w.res 63 32 = (r.seq + 1).toNat) ∧
    (slotN c.slot 24 8 ≠ 0 → s.hub.job = none → recs = [] → Answers .readLog s fun t => HubOnly s t ∧ ∃ res, HubFinished s t c 0x00 0 res ∧
      nfld res 15 0 = 0) ∧
    (slotN c.slot 24 8 ≠ 0 → WaitsForBuffer .readLog s) ∧
    (slotN c.slot 24 8 ≠ 0 → ∀ w, s.hub.job = some w → w.job.done = true → Answers .readLog s fun t => HubOnly s t ∧
      HubFinished s t c (if w.job.status = 0 then 0x00 else 0x20) 0 (if w.job.status = 0 then w.res else 0))) ∧
  (∀ (s : State) (c : Accepted), s.cur 0x06 = some c →
    let past (r : LogRec) : Bool := atOrAbove (BitVec.ofNat 32 (slotN c.slot 12 4)) r.seq
    (slotN c.slot 8 1 = 1 → Answers .clearLog s fun t => t.aoLog = s.aoLog.filter (fun r => !past r) ∧ t.hubLog = s.hubLog ∧
      HubOnly s { t with aoLog := s.aoLog } ∧ HubFinished s t c 0x00 0 ((s.aoLog.filter past).length % 65536)) ∧
    (slotN c.slot 8 1 ≠ 1 → Answers .clearLog s fun t => t.hubLog = s.hubLog.filter (fun r => !past r) ∧ t.aoLog = s.aoLog ∧
      HubOnly s { t with hubLog := s.hubLog } ∧ HubFinished s t c 0x00 0 ((s.hubLog.filter past).length % 65536))) ∧
  (∀ (s : State) (c : Accepted), s.cur 0x23 = some c →
    let n := copyChannel c.slot
    (slotN c.slot 10 1 % 2 = 0 → s.claimedNow n = false → (s.channel n).queue.length < 8 → Answers .copy s fun t =>
      t.channel n = { s.channel n with queue := (s.channel n).queue ++
        [{ first := BitVec.ofNat 64 (slotN c.slot 16 8), budget := slotN c.slot 12 2, owner := some (c.mb, BitVec.ofNat 16 (slotTag c.slot)) }] } ∧
      (∀ i, i ≠ n → t.channel i = s.channel i) ∧ t.hub = { s.hub with current := none, job := none } ∧
      { t with hub := s.hub, channels := s.channels } = s) ∧
    (slotN c.slot 10 1 % 2 = 0 → s.claimedNow n = true ∨ 8 ≤ (s.channel n).queue.length →
      Answers .copy s fun t => HubFinished s t c 0x20 0 0 ∧ HubOnly s t) ∧
    (slotN c.slot 10 1 % 2 = 1 → s.claimedNow n = false → Answers .copyAbort s fun t => t.hub.current = none ∧
      (∀ i, i ≠ n → t.channel i = s.channel i) ∧ HubOnly s { t with channels := s.channels } ∧
      ((s.channel n).cur ≠ none → HubFinished s t c 0x00 0 0 ∧
        t.channel n = { s.channel n with stopReq := true, state := if (s.channel n).state = 1 then 3 else (s.channel n).state }) ∧
      ((s.channel n).cur = none → (t.channel n).queue = [] ∧ (t.channel n).owner = none ∧ (t.channel n).next = none ∧
        (t.channel n).ctl = none ∧ (t.channel n).stopReq = false ∧
        ((s.channel n).owner = none → (s.channel n).queue = [] → HubFinished s t c 0x00 0 0))) ∧
    (slotN c.slot 10 1 % 2 = 1 → s.claimedNow n = true → Answers .copyAbort s fun t => HubFinished s t c 0x11 0 0 ∧ HubOnly s t)) ∧
  (∀ (s : State) (c : Accepted), s.cur 0x33 = some c → exec .drainFabric s =
    .next { s with hub := { s.hub with stopped := true, current := none, job := none } }) ∧
  (∀ (s : State) (c : Accepted), s.cur 0x34 = some c → Answers .resumeFabric s fun t => t.hub.stopped = false ∧
    t.hub.current = none ∧ t.mem = s.mem ∧ t.settings = s.settings ∧ t.prog = s.prog ∧ t.arrays = s.arrays ∧ t.spokes = s.spokes ∧
    (∀ o ∈ t.hub.openCmds, o.opcode ≠ 0x33) ∧
    ((∀ o ∈ s.hub.openCmds, o.opcode ≠ 0x33) → HubFinished s t c 0x00 0 0)) ∧
  (∀ (s : State) (c : Accepted), s.cur 0x40 = some c → Answers .calSave s fun t =>
    (s.power.loadedCal = some false → t.power.calA = s.power.calA) ∧ (s.power.loadedCal = some true → t.power.calB = s.power.calB) ∧
    let bank (u : State) : Option CalBank := if s.calTarget then u.power.calB else u.power.calA
    let goes (n : Nat) : Prop := t.power.calStep = n ∧ t.hub = s.hub ∧ t.mbs = s.mbs ∧ t.power.loadedCal = s.power.loadedCal
    let fails : Prop := HubFinished s t c 0x20 0 0 ∧ t.power.calStep = 0 ∧ t.power.loadedCal = s.power.loadedCal
    (s.power.calStep = 0 → goes 1 ∧ bank t = none) ∧ (s.power.calStep = 1 → goes 2 ∧ bank t = some s.newBank) ∧
    (s.power.calStep = 2 → (goes 3 ∨ fails) ∧ bank t = bank s) ∧
    (s.power.calStep = 3 → goes 4 ∧ bank t = (bank s).map fun b => { b with commit := some b.commitRec }) ∧
    (4 ≤ s.power.calStep → fails ∨ (∃ res, HubFinished s t c 0x00 0 res) ∧ t.power.calStep = 0 ∧ bank t = bank s ∧
      t.power.loadedCal = some s.calTarget) ∧
    HubOnly s { t with power := s.power, freeCtr := s.freeCtr }) ∧
  (∀ (s : State) (c : Accepted) (mk : Instr) (op : Nat), s.cur 0x41 = some c → s.service = false → slotN c.slot 8 1 = op →
    (mk, op) ∈ [(Instr.repairMap, 1), (.repairTest [], 2), (.repairSoft, 3), (.repairHard, 4), (.repairStatus, 5)] →
    Answers mk s fun t => HubFinished s t c 0x20 0 0 ∧ HubOnly s t) ∧
  (∀ (s : State) (c : Accepted) (g o : Nat), s.cur 0x41 = some c → s.service = true → slotN c.slot 8 1 = 1 →
    regionOf (slotN c.slot 16 8) = some (.vault g, o) → Answers .repairMap s fun t => HubOnly s t ∧ ∃ res,
      HubFinished s t c 0x00 0 res ∧ nfld res 7 0 = 1 ∧ nfld res 15 8 = g / 2048 ∧ nfld res 31 16 = g % 2048 ∧
      nfld res 39 32 = o / 96 % 64 ∧ nfld res 95 64 = o / 96 / 256 ∧ nfld res 111 96 = o / 96 / 64 % 4) ∧
  (∀ (failing : List Nat) (s : State) (c : Accepted), s.cur 0x41 = some c → s.service = true → slotN c.slot 8 1 = 2 →
    Answers (.repairTest failing) s fun t =>
      (∀ x, (∀ a ∈ rowWords (slotN c.slot 16 8), x < a ∨ a + 8 ≤ x) → t.byte x = s.byte x) ∧ t.repairs = s.repairs ∧
      ∃ res, HubFinished s t c 0x00 0 res ∧
        nfld res 31 0 = ((rowWords (slotN c.slot 16 8)).filter fun a => failing.contains a).length) ∧
  (∀ (s : State) (c : Accepted) (mk : Instr) (hard : Bool), s.cur 0x41 = some c → s.service = true →
    mk = .repairSoft ∧ hard = false ∧ slotN c.slot 8 1 = 3 ∨ mk = .repairHard ∧ hard = true ∧ slotN c.slot 8 1 = 4 →
    ∀ r, repairAt (slotN c.slot 16 8) (slotN c.slot 9 1 == 1) (slotN c.slot 10 1) hard = some r →
      (s.sparesUsed r < spareCount r → (hard = true → s.vvltNominal r = true) → Answers mk s fun t =>
        HubFinished s t c 0x00 0 0 ∧ t.repairs = s.repairs ++ [{ r with fresh := true }] ∧
        (∀ a ∈ r.words, ∀ i < 8, t.byte (a + i) = 0) ∧ (∀ x, (∀ a ∈ r.words, x < a ∨ a + 8 ≤ x) → t.byte x = s.byte x)) ∧
      (spareCount r ≤ s.sparesUsed r → Answers mk s fun t => HubFinished s t c 0x20 0 0 ∧ HubOnly s t)) ∧
  (∀ (s : State) (c : Accepted), s.cur 0x41 = some c → s.service = true → slotN c.slot 8 1 = 5 →
    Answers .repairStatus s fun t => HubOnly s t ∧ ∃ res, HubFinished s t c 0x00 0 res)

/-- The cassette takes entries without putting them in force, `CHECK` finds the first rule that fails, and a shift puts every entry
in force at one instant and empties the package cassette; private cassettes shift the same way. An image that passes every test
becomes the loaded image; `START_PROGRAM` loads the program with its counters clear, and `STOP_PROGRAM` ends it once the beat is
held, every array parked and every spoke halted; with no program it aborts the open collectives. Memory keeps its contents but for an
image's own sections and what aborted collectives leave open (R405-R416). The model's choices here: what a stop drops, and the result of
one with no program (log entry 16); `CHECK` of a private cassette against the staged entries (43); what `START_PROGRAM` clears (75); start
conditions tested when the command acts (98, 59); windows and images are read as servant requests, an image is installed at once (79). -/
def Obligations.TheCassetteAndThePrograms : Prop :=
  (∀ (s : State) (c : Accepted), s.cur 0x10 = some c → s.armed = false → s.notOwner c.mb = false →
    let inline := slotN c.slot 8 8 = 0
    (c.data = none → ¬inline → Answers .stage s fun t => t.hub.cassette = s.hub.cassette ∧ HubFinished s t c 0x20 0 0 ∧ HubOnly s t) ∧
    (∀ bs, c.data = some bs →
      (∀ es len, stageEntries c.mb c.slot bs = .entries es len → (es.foldl putEntry s.hub.cassette).length ≤ 1024 → Answers .stage s fun t =>
        t.hub.cassette = es.foldl putEntry s.hub.cassette ∧ t.hub.checked = false ∧
        t.hub.owner = (if s.hub.cassette = [] then some c.mb else s.hub.owner) ∧
        HubFinished s t c 0x00 0 (es.foldl putEntry s.hub.cassette).length ∧ HubOnly s t) ∧
      (∀ st off, stageEntries c.mb c.slot bs = .refused st off → Answers .stage s fun t => t.hub.cassette = s.hub.cassette ∧
        (inline → HubFinished s t c st off 0) ∧ (¬inline → HubFinished s t c 0x20 0 0) ∧ HubOnly s t))) ∧
  (∀ (s : State) (c : Accepted), s.cur 0x11 = some c → s.armed = false → s.notOwner c.mb = false →
    (checkRules s s s.hub.cassette = none → Answers .check s fun t => t.hub.checked = true ∧ t.hub.cassette = s.hub.cassette ∧
      HubFinished s t c 0x00 0 0 ∧ HubOnly s t) ∧
    (∀ r, checkRules s s s.hub.cassette = some r → Answers .check s fun t => t.hub.checked = s.hub.checked ∧
      HubFinished s t c r.status (entryPos s.hub.cassette r.idx) r.res ∧ HubOnly s t)) ∧
  (∀ (s : State) (c : Accepted), s.cur 0x12 = some c → s.shiftTaken c = false →
    let at_ := slotN c.slot 8 8
    (s.hub.checked = false ∨ s.notOwner c.mb = true ∨ (∃ j ∈ s.hub.shifts, j.package = true) →
      Answers .shift s fun t => HubFinished s t c 0x20 0 0 ∧ HubOnly s t ∧ t.hub.shifts = s.hub.shifts) ∧
    (s.hub.checked = true → s.notOwner c.mb = false → (∀ j ∈ s.hub.shifts, j.package = false) →
      Answers .shift s fun t => (∃ j : ShiftJob, t.hub.shifts = s.hub.shifts ++ [j] ∧ j.entries = s.hub.cassette ∧
        j.at_ = BitVec.ofNat 64 at_ ∧ j.package = true) ∧ t.settings = s.settings ∧ t.mem = s.mem ∧
        t.hub.current = (if at_ = 0 then some c else none))) ∧
  (∀ (s : State) (j : ShiftJob), j ∈ s.hub.shifts → s.needsHold j.entries = true → j.demand = false →
    j.at_.toNat ≤ s.cadNs + 100000 → Answers .shiftDemand s fun t => t.beat.shiftDemand = true ∧
      { t with hub := s.hub, beat := s.beat } = s ∧ { t.beat with shiftDemand := false } = { s.beat with shiftDemand := false } ∧
      { t.hub with shifts := [] } = { s.hub with shifts := [] }) ∧
  (∀ (s : State) (j : ShiftJob), s.dueShift = some j →
    (j.at_ ≠ 0 → j.locked.getD s.mach.locked = false → Answers .shiftInstant s fun t => t.settings = s.settings ∧ t.mem = s.mem ∧
      t.hub.shifts = s.hub.shifts.erase j ∧ t.hub.cassette = s.hub.cassette) ∧
    ((j.at_ ≠ 0 → j.locked.getD s.mach.locked = true) → (s.needsHold j.entries = true → j.demand = true) → s.boundaryFor j = true →
    (∀ r, stateRules s j.entries = some r → Answers .shiftInstant s fun t => t.settings = s.settings ∧ t.mem = s.mem ∧
      t.hub.shifts = s.hub.shifts.erase j ∧ t.hub.cassette = s.hub.cassette) ∧
    (stateRules s j.entries = none → (j.entries.map (·.key)).Nodup → Answers .shiftInstant s fun t =>
      (∀ e ∈ j.entries, t.setting e.key = if e.key = 0x0602 then e.value % 65536 else e.value) ∧
      (∀ key, (∀ e ∈ j.entries, e.key ≠ key) → t.setting key = s.setting key) ∧
      t.hub.shifts = s.hub.shifts.erase j ∧ t.pending = s.pending ∧ t.prog = s.prog ∧
      MemSameButAborts s t ∧
      (j.package = true → t.hub.cassette = [] ∧ t.hub.owner = none)))) ∧
  (∀ (s : State) (c : Accepted), s.cur 0x13 = some c →
    (s.discardRefused c.mb = true → Answers .discard s fun t => HubFinished s t c 0x11 0 0 ∧ HubOnly s t ∧ t.hub.cassette = s.hub.cassette ∧
      t.hub.shifts = s.hub.shifts) ∧
    (s.discardRefused c.mb = false → Answers .discard s fun t => t.hub.cassette = [] ∧ t.hub.owner = none ∧ t.hub.checked = false ∧
      t.hub.current = none ∧ t.settings = s.settings ∧ t.mem = s.mem ∧
      (s.armedAt = none → HubFinished s t c 0x00 0 (s.hub.cassette.length % 65536) ∧ HubOnly s t) ∧
      (∀ j, s.hub.shifts.find? (fun j => j.package && j.at_ != 0) = some j → t.hub.shifts = s.hub.shifts.erase j))) ∧
  (∀ (s : State) (who : SenderId),
    (s.notOwner who = true → who.val ≠ 31 → s.discardRefused who = true) ∧
    (∀ at_, s.armedAt = some at_ → at_ ≤ s.cadNs + 100000 → s.discardRefused who = true) ∧
    (s.notOwner who = false ∨ who.val = 31 → (∀ at_, s.armedAt = some at_ → s.cadNs + 100000 < at_) → s.discardRefused who = false) ∧
    (∀ j ∈ s.hub.shifts, j.package = true → j.at_ ≠ 0 → s.armed = true) ∧
    (∀ c, s.cur 0x12 = some c ∨ c ∈ s.hub.accepted ∧ slotOp c.slot = 0x12 → slotN c.slot 8 8 ≠ 0 → s.armed = true)) ∧
  (∀ (s : State) (c : Accepted), s.cur 0x20 = some c →
    let buf := slotN c.slot 8 8
    let len := slotN c.slot 16 8
    (s.hub.job = none → len ≠ 0 → Answers .loadImage s fun t => BeginsBuffer s t buf len false [] fun _ => True) ∧
    (s.hub.job = none → len = 0 → Answers .loadImage s fun t => HubFinished s t c 0x20 0 1 ∧ HubOnly s t) ∧
    WaitsForBuffer .loadImage s ∧
    (s.bufferFailed → Answers .loadImage s fun t => HubFinished s t c 0x20 0 7 ∧ HubOnly s t) ∧
    (∀ bs, s.bufferRead bs →
      let g : Nat → Byte := byteAt bs
      (imgN g 4 2 = 0x0100 → s.running = true ∨ s.service = true → Answers .loadImage s fun t => HubFinished s t c 0x20 0 0 ∧ HubOnly s t) ∧
      (∀ f, s.imageFail g len = some f → ¬(imgN g 4 2 = 0x0100 ∧ (s.running = true ∨ s.service = true)) →
        Answers .loadImage s fun t => HubFinished s t c 0x20 0 (resAt 8 1 f.reason + resAt 10 2 f.sec + resAt 12 4 f.byte) ∧ HubOnly s t) ∧
      (s.imageFail g len = none → imgN g 4 2 = 0x0100 → s.running = false → s.service = false →
        Answers .loadImage s fun t => HubFinished s t c 0x00 0 0 ∧
          (∃ i : ImageState, t.image = some i ∧ i.seed = BitVec.ofNat 64 (imgN g 16 8) ∧ i.plan = BitVec.ofNat 2 (imgN g 24 1)) ∧
          t.prog = s.prog ∧ t.settings = s.settings ∧ t.spokes = s.spokes ∧ t.arrays = s.arrays) ∧
      (s.imageFail g len = none → imgN g 4 2 = 0x0200 → Answers .loadImage s fun t => HubFinished s t c 0x00 0 0 ∧
        t.image = s.image ∧ t.power.fwBank = s.power.fwBank ∧ t.mem = s.mem ∧
        ∃ b : FwBank, b.version = BitVec.ofNat 32 (imgN g 16 4) ∧ b.rollback = BitVec.ofNat 16 (imgN g 20 2) ∧
          b.image = some ((List.range (imgN g 8 8)).map g) ∧
          (s.power.fwBank = true → t.power.fwB = s.power.fwB ∧ t.power.fwA = b) ∧
          (s.power.fwBank = false → t.power.fwA = s.power.fwA ∧ t.power.fwB = b)))) ∧
  (∀ (s : State) (c : Accepted) (i : ImageState), s.cur 0x21 = some c → s.image = some i →
    (s.startRefused = true →
      Answers .startProgram s fun t => HubFinished s t c 0x20 0 0 ∧ HubOnly s t) ∧
    (s.startRefused = false → Answers .startProgram s fun t =>
      t.prog.startAt = some (BitVec.ofNat 64 (slotN c.slot 8 8)) ∧ t.prog.plan = i.plan ∧
      t.prog.seed = (if slotN c.slot 16 8 = 0 then i.seed else BitVec.ofNat 64 (slotN c.slot 16 8)) ∧ t.prog.running = false ∧
      (∀ d id, id < 0x100 → t.counterCopy d id = 0) ∧ t.abort = 0 ∧
      (∀ c < 256, (t.channel c).claimed = i.claimed.toNat.testBit c ∧ ((t.channel c).claimed = true →
        (t.channel c).claimBudget = SMap.get 0 i.budgets c ∧
        ((s.channel c).cur = none → (s.channel c).next = none → (s.channel c).owner = none → (t.channel c).budget = SMap.get 0 i.budgets c) ∧
        ((s.channel c).cur ≠ none ∨ (s.channel c).next ≠ none ∨ (s.channel c).owner ≠ none → (t.channel c).budget = (s.channel c).budget))) ∧
      (∀ p < 2048, (t.spoke p).active = (SMap.get none i.spokes p).isSome ∧ (t.spoke p).mode = 0) ∧
      t.prog.startLocked = none ∧ t.mem = s.mem ∧ t.pending = s.pending ∧ t.hub = { s.hub with current := none, job := none })) ∧
  (∀ (s : State) (c : Accepted), s.cur 0x22 = some c →
    (s.stopReady = (!s.beat.aligned || (s.beat.held && s.beat.causeHub))) ∧
    (s.stopReady = false → Answers .stopProgram s fun t => t.beat = { s.beat with hubDemand := true } ∧ t.hub.current = some c ∧
      t.prog = { s.prog with startAt := none } ∧ t.mem = s.mem ∧ t.arrays = s.arrays ∧
      (∀ o ∈ t.hub.openCmds, o.opcode = 0x20 ∨ o.opcode = 0x21 → ∃ a ∈ t.hub.accepted, a.mb = o.mb ∧ slotTag a.slot = o.tag.toNat)) ∧
    (s.stopReady = true → s.prog.running = true → Answers .stopProgram s fun t =>
      t.prog.running = false ∧ t.prog.startAt = none ∧ t.beat.waits = [] ∧ t.beat.hubDemand = false ∧ t.hub.current = none ∧
      (∀ e ∈ t.arrays, e.2.power = 2 ∧ e.2.driven = 0 ∧ e.2.path = []) ∧ (∀ e ∈ t.spokes, e.2.mode = 0 ∧ e.2.stores = []) ∧
      (∀ k < 4, (t.engine k).open_ = []) ∧ t.settings = s.settings ∧
      MemSameButAborts s t) ∧
    (s.stopReady = true → s.prog.running = false → Answers .stopProgram s fun t =>
      t.prog = { s.prog with startAt := none } ∧ t.beat.hubDemand = false ∧ t.hub.current = none ∧ (∀ k < 4, (t.engine k).open_ = []) ∧
      t.arrays = s.arrays ∧ t.spokes = s.spokes ∧ t.settings = s.settings ∧ MemSameButAborts s t)) ∧
  (∀ (s : State) (c : Accepted) (mk : Instr) (op buf first count at_ : Nat) (before : List CassEntry),
    mk = .bindPeloton ∧ op = 0x30 ∧ buf = slotN c.slot 32 8 ∧ first = slotN c.slot 40 2 ∧ count = slotN c.slot 42 2 ∧ at_ = slotN c.slot 24 8 ∧
        before = [{ key := 0x0600, value := slotN c.slot 8 16, size := 16 }] ∨
      mk = .setWindows ∧ op = 0x32 ∧ buf = slotN c.slot 16 8 ∧ first = slotN c.slot 24 2 ∧ count = slotN c.slot 26 2 ∧ at_ = slotN c.slot 8 8 ∧
        before = [] →
    s.cur op = some c → s.shiftTaken c = false →
    (s.hub.job = none → count = 0 → PrivateShift mk c s s before at_) ∧
    (s.hub.job = none → count ≠ 0 → Answers mk s fun t => BeginsBuffer s t buf (32 * count) false [] fun _ => True) ∧
    WaitsForBuffer mk s ∧
    (s.bufferFailed → Answers mk s fun t => HubFinished s t c 0x20 0 0 ∧ HubOnly s t) ∧
    ∀ bs, s.bufferRead bs →
      PrivateShift mk c (s.setHub { s.hub with job := none }) s (before ++ s.windowEntries first count bs) at_) ∧
  (∀ (s : State) (c : Accepted), s.cur 0x31 = some c → s.shiftTaken c = false →
    (s.running = true → Answers .releasePeloton s fun t => HubFinished s t c 0x20 0 0 ∧ HubOnly s t) ∧
    (s.running = false → ∃ es, PrivateShift .releasePeloton c s s es (slotN c.slot 8 8) ∧
      (∀ e ∈ es, e.key = 0x0600 → pelBound e.value = false) ∧ ∀ p < 16, ∃ e ∈ es, e.key = 0x0320 + p)) ∧
  (∀ (s : State) (c : Accepted), s.cur 0x42 = some c → s.shiftTaken c = false →
    PrivateShift .setPowerLimit c s s [{ key := 0x0200, value := slotN c.slot 8 2, size := 4 }] (slotN c.slot 16 8)) ∧
  (∀ (s : State) (c : Accepted) (mk : Instr) (op : Nat), (mk, op) ∈ [(Instr.shift, 0x12), (.bindPeloton, 0x30), (.releasePeloton, 0x31),
      (.setWindows, 0x32), (.setPowerLimit, 0x42)] → s.cur op = some c → s.shiftTaken c = true → exec mk s = .next s)

/-- A cold reset returns every domain to its reset state, but for what outlives it: the flash banks, the hard repairs, and, while
VAO stays up, the AO log. A warm reset resets all but AO, and is ignored during a cold reset. `PWROK_AO` and the end of `RESET_N`
lead into kickstand with the straps sampled, where only `STRAP0` is followed. A domain reset takes effect at once, its crossings
re-synchronise in four steps, and the domain serves again after that, or stays in reset after the 2 s of its command. `SHUTDOWN`
answers and then powers down or restarts. The TAP has what is always available and never drives an enable or a laser request, the
sideband its address and its timeout (R236, R407, R408, R429, R430, R442-R445, R468, R480, R482, R483). The model's choices here: VIO is
good when the straps are sampled (log entry 109); straps are operands, and pins move at once (63); `IDCODE` after reset and the code of
`SAMPLE/PRELOAD` (5), the order of the boundary register and the code of `EXTEST` (113); what the forced stop drops (16); a stack that is
trained again finds a free rate (3). -/
def Obligations.ResetsAndShutdown : Prop :=
  (∀ (vaoUp : Bool) (s : State), Answers (.coldReset vaoUp) s fun t =>
    t.arrays = [] ∧ t.spokes = [] ∧ t.routers = [] ∧ t.channels = [] ∧ t.fabs = [] ∧ t.engines = [] ∧ t.mem = [] ∧ t.ecc = [] ∧
    t.settings = [] ∧ t.image = none ∧ t.hub = {} ∧ t.mbs = [] ∧ t.hubLog = [] ∧ t.beat = {} ∧ t.prog = {} ∧ t.mach = {} ∧
    (∀ n, t.rail n = {}) ∧ t.power.stage = 1 ∧ t.power.vaoGood = false ∧ t.therm.energyUj = 0 ∧
    (∀ r, r ∈ t.repairs ↔ ∃ x ∈ s.repairs, x.hard = true ∧ r = { x with fresh := false }) ∧ (∀ d < 8, (t.dmem d).vltUe = 0 ∧ (t.dmem d).vltCe = 0) ∧
    t.power.calA = s.power.calA ∧ t.power.calB = s.power.calB ∧ t.power.fwA = s.power.fwA ∧ t.power.fwB = s.power.fwB ∧
    (vaoUp = true → t.aoLog = []) ∧ (vaoUp = false → t.aoLog = s.aoLog ∧ t.aoSeq = s.aoSeq) ∧ t.pending = s.pending) ∧
  (∀ s : State,
    (s.power.vaoGood = false ∨ s.power.inReset = true → exec .warmReset s = .next s) ∧
    (s.power.vaoGood = true → s.power.inReset = false →
      Answers .warmReset s fun t => WarmReset s t 0 ∧ t.power.inReset = true ∧ t.power.stage = 1)) ∧
  (∀ (straps : BitVec 4) (s : State),
    (s.power.vaoGood = true → exec (.pwrokAoRise straps) s = .next s) ∧
    (s.power.vaoGood = false → Answers (.pwrokAoRise straps) s fun t =>
      EntersKickstand { s with power := { s.power with vaoGood := true } } t straps) ∧
    (s.power.inReset = false → exec (.resetNRelease straps) s = .next s) ∧
    (s.power.inReset = true → s.power.vaoGood = true → Answers (.resetNRelease straps) s fun t =>
      EntersKickstand { s with power := { s.power with inReset := false } } t straps) ∧
    (s.power.inReset = true → s.power.vaoGood = false →
      exec (.resetNRelease straps) s = .next { s with power := { s.power with inReset := false } })) ∧
  (∀ s : State,
    (s.kickstand = true → Answers .strap0Fall s fun t => bitOf t.power.strap 0 = false ∧
      (∀ i, i ≠ 0 → bitOf t.power.strap i = bitOf s.power.strap i) ∧ { t with power := { t.power with strap := s.power.strap } } = s) ∧
    (s.kickstand = false → exec .strap0Fall s = .next s)) ∧
  DomainReset .resetDomainVault 1 (fun s t d =>
    (∀ g, g / 2048 = d → (t.vault g).queue = [] ∧ (t.vault g).merging = false ∧ (t.vault g).scrubAt = none ∧ (t.vault g).writeback = none ∧
      (SMap.wf {} s.vaults = true → (t.vault g).paid = (s.vault g).paid ∧ (t.vault g).scrubLine = (s.vault g).scrubLine)) ∧
    (∀ g, g / 2048 ≠ d → t.vault g = s.vault g) ∧
    (∀ c < 32, (t.channel (32 * d + c)).cur = none ∧ (t.channel (32 * d + c)).ctl = none ∧ (t.channel (32 * d + c)).queue = [] ∧ (t.channel (32 * d + c)).state = 0)) ∧
  DomainReset .resetDomainStk 2 (fun s t i =>
    t.stk i = { s.stk i with state := 1, queue := [], openRows := [], dirWrite := false, turned := false } ∧
    ∀ n, n ≠ i → t.stk n = s.stk n) ∧
  DomainReset .resetDomainCap 3 (fun s t i =>
    t.stk (16 + i) = { s.stk (16 + i) with state := 1, queue := [], openRows := [], dirWrite := false, turned := false } ∧
    ∀ n, n ≠ 16 + i → t.stk n = s.stk n) ∧
  DomainReset .resetDomainFab 4 (fun s t k =>
    (t.engine k).open_ = [] ∧ (t.engine k).aborted.toNat = ((s.engine k).aborted.toNat + (s.engine k).open_.length) % 2 ^ 32 ∧
    (∀ j, (t.issuer k j).queue = [] ∧ (t.issuer k j).out = []) ∧ (∀ m < 2, (t.laser (2 * k + m)).fault = false) ∧
    (∀ e ∈ t.rings, e.1 / 844 = k → e.2 = { tone := e.2.tone, heater := e.2.heater, bias := e.2.bias, bad := e.2.bad }) ∧
    ∀ j < 8, PortRepeats s t (8 * k + j) 1) ∧
  DomainReset .resetDomainPtx 5 (fun s t f => PortRepeats s t f 3 ∧ ∀ g, g ≠ f → t.port g = s.port g) ∧
  DomainReset .resetDomainPrx 6 (fun s t f => PortRepeats s t f 5 ∧ (∀ w < 16, (t.wave f w).align = 0) ∧ ∀ g, g ≠ f → t.port g = s.port g) ∧
  DomainReset .resetDomainCad 7 (fun s t _ =>
    t.mach = { s.mach with locked := false, holdover := false, stratum := 0xFF, parent := 0x1F, offset := 0, ppm := 0, goodRun := 0
                           cadenceOut := false }) ∧
  DomainReset .resetDomainSense 8 (fun s t _ => (∀ e ∈ t.therm.sensors, e.2.samples = []) ∧ t.therm.nPower = s.therm.nPower ∧
    t.therm.nThermal = s.therm.nThermal) ∧
  (∀ (dom : ResetDomain) (s : State) (o : OpenCmd), s.inDomainReset dom = true → (∀ r ∈ s.power.resync, r.1 ≠ dom) →
    s.hub.openCmds.find? (fun o => o.opcode == 0x43 && domainOf o.slot == some dom) = some o →
    let stack (k : Nat) : Prop := ∃ i : Fin 16, (dom = .stk i ∧ k = i.val) ∨ (dom = .cap i ∧ k = 16 + i.val)
    (s.nowNs < o.deadline → Answers (.domainReady dom) s fun t =>
      (∀ d, d ≠ dom → t.inDomainReset d = s.inDomainReset d) ∧ t.mem = s.mem ∧ t.pending = s.pending ∧
      (∀ k, stack k → ((t.stk k).state = 2 ∨ (t.stk k).state = 3) ∧ ((t.stk k).state = 3 ↔ (t.stk k).rate = 0)) ∧
      ((∀ k, ¬stack k) ∨ (∃ k, stack k ∧ (t.stk k).state = 2) → t.inDomainReset dom = false ∧
        HubReplied s t o.mb (respSlot 0x43 0x00 o.tag.toNat 0 1 0) ∧ t.hub.openCmds.length + 1 = s.hub.openCmds.length) ∧
      ((∃ k, stack k ∧ (t.stk k).state = 3) → t.inDomainReset dom = true ∧ t.hub = s.hub ∧ t.mbs = s.mbs)) ∧
    (o.deadline ≤ s.nowNs → Answers (.domainReady dom) s fun t => t.power = s.power ∧
      HubReplied s t o.mb (respSlot 0x43 0x21 o.tag.toNat 0 1 0) ∧ HubOnly s t)) ∧
  (∀ (dom : ResetDomain) (s : State) (n : Nat), s.power.resync.find? (fun r => r.1 == dom) = some (dom, n) →
    Answers (.fifoResync dom) s fun t =>
      t.power.resync = (if n < 4 then [(dom, n + 1)] else []) ++ s.power.resync.filter (fun r => r.1 != dom) ∧
      { t with power := s.power, routers := s.routers, ends := s.ends, crossings := s.crossings } = s ∧
      (n ≠ 1 → t.routers = s.routers ∧ t.ends = s.ends ∧ t.crossings = s.crossings) ∧
      (∀ k : LpId, n = 1 → dom = .fab k → (∀ e ∈ t.routers, e.1 / 512 = k.val → e.2.fifoIn = [] ∧ e.2.fifoOut = []) ∧
        (∀ e ∈ t.ends, 20 ≤ e.1 → (e.1 - 20) / 4 = k.val → ∀ c ∈ e.2.credits, ∃ m, c.2.2 = some m ∧ m < 24) ∧
        ∀ e ∈ t.crossings, endsAt e.1 k = true → let last (y : TransitFlit) : Bool := (nextWay (e.1 / 2, e.1 % 2 == 1) y.way).isNone
          (∀ y ∈ e.2.leaving, last y = false) ∧ e.2.exitUsed = (e.2.onTrack.filter last).length)) ∧
  (∀ (s : State) (c : Accepted), s.cur 0x44 = some c → slotN c.slot 8 1 = 0 → Answers .shutdownPowerDown s fun t =>
    HubFinished s t c 0x00 0 0 ∧ t.hub.shutdown = true ∧ t.power.stage = 4 ∧ PowersDown s t ∧ t.mem = s.mem ∧ t.settings = s.settings) ∧
  (∀ (straps : BitVec 4) (s : State),
    (∀ c, s.power.restart = false → s.cur 0x44 = some c → slotN c.slot 8 1 = 1 → Answers (.shutdownWarmRestart straps) s fun t =>
      HubFinished s t c 0x00 0 0 ∧ t.hub.shutdown = true ∧ t.power = { s.power with restart := true } ∧ t.mem = s.mem) ∧
    (s.power.restart = true → Answers (.shutdownWarmRestart straps) s fun t =>
      ∃ r, WarmReset s r 1 ∧ EntersKickstand r t straps)) ∧
  (∀ s : State,
    (s.vioOn = false → ∀ e, exec (.tapInstruction e) s = .next s) ∧
    (s.vioOn = true →
      exec (.tapInstruction (.trst true)) s = .next { s with tap := { s.tap with trstLow := true, ir := 0x01, dr := [], tdo := none } } ∧
      exec (.tapInstruction (.trst false)) s = .next { s with tap := { s.tap with trstLow := false } } ∧
      (s.tap.trstLow = true → ∀ e, (∀ b, e ≠ .trst b) → exec (.tapInstruction e) s = .next s) ∧
      (s.tap.trstLow = false →
        (∀ ir, exec (.tapInstruction (.instruction ir)) s = .next { s with tap := { s.tap with ir := ir, dr := [], tdo := none } }) ∧
        (∀ pins, Answers (.tapInstruction (.capture pins)) s fun t => { t with tap := s.tap } = s ∧ t.tap.tdo = none ∧
          (s.tapInForce = 0x1F → t.tap.dr = [false]) ∧
          (s.tapInForce = 0x01 → t.tap.dr.length = 32 ∧ ∀ i < 32, t.tap.dr[i]? = some (bitOf tapIdcode i)) ∧
          (s.boundarySelected = true → t.tap.dr.length = 85 ∧ ∀ i < 85, ∀ p, boundaryPins[i]? = some p →
            t.tap.dr[i]? = some ((s.pinOut p).getD ((pins[i]?).getD false)))) ∧
        (∀ b, Answers (.tapInstruction (.shift b)) s fun t => { t with tap := s.tap } = s ∧ t.tap.dr = s.tap.dr.drop 1 ++ [b] ∧
          t.tap.tdo = some (s.tap.dr.headD false)) ∧
        Answers (.tapInstruction .update) s fun t => { t with tap := s.tap } = s ∧ t.tap.tdo = none ∧ t.tap.dr = s.tap.dr ∧
          (s.boundarySelected = true → t.tap.latch = s.tap.dr.take 85) ∧ (s.boundarySelected = false → t.tap.latch = s.tap.latch))) ∧
    (tapAlways s.tap.ir = true ∨ s.kickstand = true ∧ bitOf s.power.strap 0 = true → s.tapInForce = s.tap.ir) ∧
    (tapAlways s.tap.ir = false → s.kickstand = false ∨ bitOf s.power.strap 0 = false → s.tapInForce = 0x1F) ∧
    (∀ n, s.pinOut (.en n) = s.pinLevel (.en n) ∧ s.pinOut (.laserReq n) = s.pinLevel (.laserReq n))) ∧
  (∀ (addr : BitVec 7) (s : State), s.power.vaoGood = true →
    (bitOf s.power.strap 2 = true → Answers (.dynamicAddressAssign addr) s fun t => t.sidebandAddress = addr ∧ { t with tap := s.tap } = s) ∧
    (bitOf s.power.strap 2 = false → exec (.dynamicAddressAssign addr) s = .next s)) ∧
  (∀ s : State, s.power.vaoGood = true →
    (bitOf s.power.strap 2 = false → exec .smbusClockLowTimeout s = .next { s with tap := { s.tap with transfer := none } }) ∧
    (bitOf s.power.strap 2 = true → exec .smbusClockLowTimeout s = .next s))

/-- In kickstand truing waits for `STRAP0`, which it follows, and REFCLK, then starts the firmware bank of R439 and loads the newer valid
calibration with its port enables. Groups rise in order, each checked against its set voltages within 10 ms, and fall in reverse order,
each after its power-good inputs; what fails on the way up is a truing fault after a power-down, and on the way down drops every
enable. Once the rails are good the clocks run. The end of truing zeroes memory and marks the stacks; a failed step leaves stage 0x2 with
its record and every output dark. A lost rail or reference is a machine check that powers the package down. Firmware that hangs gives way
to the other bank (R422, R424-R430, R432, R433, R437, R439, R440, R465, R480, R481). The model's choices here: record 0x94 with no bank (log
entry 37), memory before truing (20), the order of a warm reset's step 2 and of losses (63), fuse faults as step 3 (17), and the instants at
which the clocks start and stop (112). -/
def Obligations.RailsTruingAndPowerLoss : Prop :=
  (∀ (rep : TruingReport) (s : State), s.kickstand = true →
    (rep.strap0High = true → Answers (.truing rep) s fun t => bitOf t.power.strap 0 = true ∧
      (∀ i, i ≠ 0 → bitOf t.power.strap i = bitOf s.power.strap i) ∧ { t with power := { t.power with strap := s.power.strap } } = s) ∧
    (rep.strap0High = false → bitOf s.power.strap 0 = true ∨ rep.refclkKHz < 97000 ∨ 103000 < rep.refclkKHz →
      exec (.truing rep) s = .next s) ∧
    (rep.strap0High = false → bitOf s.power.strap 0 = false → 97000 ≤ rep.refclkKHz → rep.refclkKHz ≤ 103000 →
      (s.bankPasses false = false → s.bankPasses true = false →
        (s.power.noBank = true → exec (.truing rep) s = .next s) ∧
        (s.power.noBank = false → Answers (.truing rep) s fun t =>
          t.power = { s.power with noBank := true } ∧ AoLogged s t 3 0x94 0x1FF ∧ t.mem = s.mem)) ∧
      (∀ b : Bool, s.bankPasses b = true →
        (s.bankPasses (!b) = false ∨ (b = s.power.newer ↔ bitOf s.power.strap 1 = false)) →
        Answers (.truing rep) s fun t => t.power.stage = 2 ∧ t.power.truingBegun = true ∧ t.power.fwBank = b ∧ t.power.groupsUp = 0 ∧
          (∀ e ∈ t.lasers, e.2.fault = false) ∧ t.mem = s.mem ∧ t.power.rails = s.power.rails ∧
          (∀ x y, s.power.calA = some x → s.power.calB = some y → bankResult s.power.calA = 0 → bankResult s.power.calB = 0 →
            t.power.loadedCal = some (decide (x.generation.toNat < y.generation.toNat))) ∧
          (bankResult s.power.calA = 0 → bankResult s.power.calB ≠ 0 → t.power.loadedCal = some false) ∧
          (bankResult s.power.calA ≠ 0 → bankResult s.power.calB = 0 → t.power.loadedCal = some true) ∧
          (bankResult s.power.calA ≠ 0 → bankResult s.power.calB ≠ 0 → t.power.loadedCal = none ∧ t.settings = s.settings) ∧
          (∀ c, t.cal = some c → ∀ k < 4, t.setting (0x0440 + k) = fld c.portRec (8 * k + 7) (8 * k))))) ∧
  (∀ f : FwBank, f.verifies = true ↔ ∀ l, f.image = some l → let g : Nat → Byte := fun i => (l[i]?).getD 0
    imgN g 4 2 = 0x0200 ∧ headerFail g l.length = none ∧ signatureFail g = none) ∧
  (∀ (rep : TruingReport) (s : State), s.power.stage = 2 → s.power.truingFault = false → s.power.inReset = false → s.power.downGroup = none →
    let fuses := ∀ d < 12, fuseGood (Fin.ofNat 12 d) = true
    let p : PowerState := { s.power with clocks := true }
    let early := ∀ n x, rep.failStep = some (n, x) → n ≠ 3 ∧ n ≠ 4
    (s.railsGood = false → s.power.railsHeld = true → Answers (.truing rep) s fun t => TruingFailed s t s.power 2 0) ∧
    (s.railsGood = false → s.power.railsHeld = false → exec (.truing rep) s = .next s) ∧
    (s.railsGood = true → ¬fuses → Answers (.truing rep) s fun t => TruingFailed s t p 3 7 ∧
      (s.collOpen = false → ∃ d < 12, fuseGood (Fin.ofNat 12 d) = false ∧ LastNames t (d % 8) (d / 8))) ∧
    (∀ n c, s.railsGood = true → fuses → rep.failStep = some (n, c) → n = 3 ∨ n = 4 → Answers (.truing rep) s fun t => TruingFailed s t p n c.toNat) ∧
    (s.railsGood = true → fuses → early → (∃ e ∈ s.ends, e.2.state = 5) → Answers (.truing rep) s fun t =>
      ∃ e ∈ s.ends, e.2.state = 5 ∧ TruingFailed s t p 4 e.2.cause.toNat ∧ (s.collOpen = false → LastNames t (endDie (2 * (e.1 / 2))) (e.1 / 2))) ∧
    (s.railsGood = true → fuses → early → (∀ e ∈ s.ends, e.2.state ≠ 5) →
      s.beat.aligned = false ∨ (∃ l < 18, (s.linkEnd (2 * l)).state ≠ 4) ∨ s.portsDone = false → exec (.truing rep) s = .next { s with power := p }) ∧
    (s.railsGood = true → fuses → early → (∀ e ∈ s.ends, e.2.state ≠ 5) → s.beat.aligned = true →
      (∀ l < 18, (s.linkEnd (2 * l)).state = 4) → s.portsDone = true → Answers (.truing rep) s fun t =>
        (∀ d < 8, (t.dmem d).lost = false ∧ (t.dmem d).servingFrom = s.nowNs) ∧
        (∀ i < 32, (t.stk i).rate = BitVec.ofNat 16 ((rep.stackRate[i]?).getD 0) ∧
          (t.stk i).state = if (rep.stackRate[i]?).getD 0 = 0 then 3 else 2) ∧
        ((∀ x, rep.failStep ≠ some (8, x)) → t.power = { p with stage := 3 } ∧ t.mem = [] ∧ t.ecc = [] ∧ t.settings = s.settings ∧ t.mbs = s.mbs) ∧
        (∀ x, rep.failStep = some (8, x) → t.power = { p with truingFault := true } ∧
          (s.collOpen = false → t.mem = [] ∧ t.ecc = [] ∧ AoLogged s t 3 0x93 (8 + 256 * x.toNat))))) ∧
  (∀ (grp : RailGroup) (vout : List Nat) (s : State), s.powering = true → vout.length = (railsOf grp.val).length →
    (s.power.upGroup = none → s.nextGroup = some grp.val → Answers (.railGroupPowerUp grp vout) s fun t =>
      (∀ n ∈ railsOf grp.val, t.rail n = { s.rail n with setMv := s.setVoltage n, en := true, state := 1, busErr := false }) ∧
      (∀ n, n ∉ railsOf grp.val → t.rail n = s.rail n) ∧ t.power.upGroup = some (grp.val, s.nowNs) ∧ { t with power := s.power } = s) ∧
    (∀ at_, s.power.upGroup = some (grp.val, at_) → s.nowNs ≤ at_ + 10000000 →
      let reads := (railsOf grp.val).zip vout
      ((∀ x ∈ reads, 97 * (s.rail x.1).setMv.toNat ≤ 100 * x.2 ∧ 100 * x.2 ≤ 103 * (s.rail x.1).setMv.toNat) →
        Answers (.railGroupPowerUp grp vout) s fun t =>
          (∀ x ∈ reads, t.rail x.1 = { s.rail x.1 with pg := true, vout := BitVec.ofNat 16 x.2, state := 2, busErr := false }) ∧
          (∀ n, n ∉ railsOf grp.val → t.rail n = s.rail n) ∧ t.power.upGroup = none ∧ t.power.groupsUp = grp.val + 1 ∧ { t with power := s.power } = s) ∧
      ((∃ x ∈ reads, 100 * x.2 < 97 * (s.rail x.1).setMv.toNat ∨ 103 * (s.rail x.1).setMv.toNat < 100 * x.2) →
        Answers (.railGroupPowerUp grp vout) s fun t => PowersDown s t ∧ t.power.truingFault = true ∧
          (∃ n ∈ railsOf grp.val, (t.rail n).state = 3) ∧ MemSameButAborts s t)) ∧
    (∀ at_, s.power.upGroup = some (grp.val, at_) → at_ + 10000000 < s.nowNs → Answers (.railGroupPowerUp grp vout) s fun t =>
      PowersDown s t ∧ t.power.truingFault = true ∧ MemSameButAborts s t)) ∧
  (∀ (n : RailId) (cause : Fin 3) (s : State) (g at_ : Nat), s.power.upGroup = some (g, at_) →
    (s.powering = true → n.val ≠ 0 → groupOf n.val = g → cause.val ≠ 0 ∨ at_ + 10000000 ≤ s.nowNs →
      Answers (.railGroupTimeout n cause) s fun t => PowersDown s t ∧ t.power.truingFault = true ∧ (t.rail n).state = 3 ∧
        (t.rail n).faults = (s.rail n).faults + 1 ∧ (∀ m, m ≠ n.val → t.rail m = s.rail m) ∧ MemSameButAborts s t) ∧
    (s.powering = false ∨ groupOf n.val ≠ g ∨ (cause.val = 0 ∧ s.nowNs < at_ + 10000000) → exec (.railGroupTimeout n cause) s = .next s)) ∧
  (∀ (grp : RailGroup) (pgLow : Bool) (s : State) (at_ : Nat), s.power.downGroup = some (grp.val, at_) →
    ((∃ n ∈ railsOf grp.val, (s.rail n).en = true) → grp.val = 10 → s.downReady = false →
      exec (.railGroupPowerDown grp pgLow) s = .next { s with beat := { s.beat with hubDemand := true } }) ∧
    ((∃ n ∈ railsOf grp.val, (s.rail n).en = true) → (grp.val = 10 → s.downReady = true) →
      Answers (.railGroupPowerDown grp pgLow) s fun t =>
        (∀ n ∈ railsOf grp.val, (t.rail n).en = false ∧ (t.rail n).pg = (s.rail n).pg) ∧
        (∀ n, n ∉ railsOf grp.val → t.rail n = s.rail n) ∧ t.power.downGroup = some (grp.val, s.nowNs) ∧ MemSameButAborts s t ∧ (grp.val ≠ 10 → t.mem = s.mem) ∧
        (grp.val = 10 → t.prog.running = false ∧ t.steer = [] ∧ t.rings = [] ∧ t.power.clocks = false) ∧
        (grp.val = 1 → t.arrays = [] ∧ t.spokes = []) ∧
        (grp.val ≠ 10 → grp.val ≠ 1 → { t with power := s.power } = s)) ∧
    ((∀ n ∈ railsOf grp.val, (s.rail n).en = false) → pgLow = true → Answers (.railGroupPowerDown grp pgLow) s fun t =>
      (∀ n ∈ railsOf grp.val, (t.rail n).pg = false ∧ (t.rail n).en = false ∧ (t.rail n).vout = (s.rail n).vout ∧ (t.rail n).iout = (s.rail n).iout ∧
        ((s.rail n).state ≠ 3 → (t.rail n).state = 0)) ∧
      (∀ n, n ∉ railsOf grp.val → t.rail n = s.rail n) ∧
      t.power.downGroup = (if grp.val = 0 then none else some (grp.val - 1, s.nowNs)) ∧ { t with power := s.power } = s) ∧
    ((∀ n ∈ railsOf grp.val, (s.rail n).en = false) → pgLow = false → exec (.railGroupPowerDown grp pgLow) s = .next s)) ∧
  (∀ (n : RailId) (cause : Fin 2) (s : State) (g at_ : Nat), s.power.downGroup = some (g, at_) → n.val ≠ 0 →
    (cause.val = 0 → groupOf n.val = g ∧ (s.rail n).en = false ∧ (s.rail n).fell = true ∧ at_ + 10000000 ≤ s.nowNs) →
    (cause.val = 1 → (s.rail n).en = true) →
    Answers (.railFaultPowerDown n cause) s fun t => (∀ m, (t.rail m).en = false) ∧ (t.rail n).state = 3 ∧ t.power.downGroup = none ∧
      AoLogged s t 2 0x92 (n.val + 256 * cause.val) ∧ t.mem = s.mem ∧ t.arrays = []) ∧
  (∀ (n : RailId) (s : State),
    (n.val ≠ 0 → (s.rail n).en = true → (s.rail n).pg = true → s.power.downGroup = none → Answers (.railLoss n) s fun t =>
      HubChecked t ∧ PowersDown s t ∧ t.power.stage = 4 ∧ AoLogged s t 2 0x91 n.val ∧
      t.rail n = { s.rail n with pg := false, state := 3, faults := (s.rail n).faults + 1 } ∧
      (∀ m, m ≠ n.val → t.rail m = s.rail m) ∧ t.mem = s.mem ∧ t.settings = s.settings) ∧
    ((s.rail n).en = false ∨ (s.rail n).pg = false ∨ s.power.downGroup ≠ none → exec (.railLoss n) s = .next s)) ∧
  (∀ s : State,
    (s.power.truingBegun = true → s.power.refLost = false → s.power.inReset = false → Answers .refclkLoss s fun t =>
      HubChecked t ∧ t.power.stage = 4 ∧ t.power.refLost = true ∧ t.power.clocks = false ∧ AoLogged s t 2 0x45 0 ∧
      (s.power.downGroup = none → s.power.stage ≠ 4 → PowersDown s t) ∧
      (s.power.downGroup ≠ none ∨ s.power.stage = 4 → t.power.downGroup = s.power.downGroup ∧ t.lasers = s.lasers) ∧
      t.power.rails = s.power.rails ∧ t.mem = s.mem ∧ t.settings = s.settings) ∧
    (s.power.truingBegun = false ∨ s.power.refLost = true ∨ s.power.inReset = true → exec .refclkLoss s = .next s)) ∧
  (∀ s : State,
    (s.power.stage = 2 → s.stepTwoReached = false → s.power.fwStartAt + 2000000000 ≤ s.nowNs →
      (s.bankPasses (!s.power.fwBank) = true → Answers .firmwareWatchdog s fun t => t.power.fwBank = (!s.power.fwBank) ∧
        t.power.stage = 2 ∧ t.power.fwStartAt = s.nowNs ∧ t.hub = {} ∧ t.power.rails = s.power.rails ∧ t.mem = s.mem) ∧
      (s.bankPasses (!s.power.fwBank) = false → Answers .firmwareWatchdog s fun t => t.power.stage = 1 ∧ t.power.truingBegun = false ∧
        AoLogged s t 3 0x94 0x2FF ∧ t.hub = {} ∧ t.mem = s.mem)) ∧
    (s.power.stage ≠ 2 ∨ s.stepTwoReached = true ∨ s.nowNs < s.power.fwStartAt + 2000000000 → exec .firmwareWatchdog s = .next s))

/-- Every powered site's sample enters its filter and its reading is the mean, that of a thermistor from its resistance; a full reading out
of range makes it suspect. A vault, die, stack or thermistor follows its states; logic at 125 °C shuts the package down and a stop is
orderly. A sweep of the rails gives the average and n_power, and a regulator that fails is a rail fault; every 100 ms n_thermal follows
the throttle states, the brake value is the larger and reaches the beat at the next frame, and the gear changes in its hold at a frame
boundary; all of them hold while no reading is valid. A ring region out of its band or too hot changes state, and its ports carry no light
(R50, R51, R220-R223, R422, R448-R464, R470). The model's choices here: resistances and temperatures are operands (log entries 22, 117); the
order of the tests (64); the stop waits for its hold at a sample (65); the average and the gear's mapping (66); what is dropped at a stop
(16); a failed regulator outside power-up (110); the records of a source's power (111). -/
def Obligations.TemperaturePowerBrakeAndGear : Prop :=
  (∀ (samples : List Int) (s : State), samples.length = 232 →
    (s.power.vaoGood = false ∨ s.power.inReset = true ∨ s.inDomainReset .sense = true → exec (.sensorSample samples) s = .next s) ∧
    (s.power.vaoGood = true → s.power.inReset = false → s.inDomainReset .sense = false → Answers (.sensorSample samples) s fun t =>
      (∀ i < 232, ∀ v, samples[i]? = some v →
        let x : SensorState := SMap.get {} s.therm.sensors i
        let y : SensorState := SMap.get {} t.therm.sensors i
        let l := (if 224 ≤ i then thermistorReading v.toNat else v) :: x.samples.take 7
        (s.sitePowered i = true → y.samples = l ∧ y.filtered = BitVec.ofInt 16 (meanOf l.sum l.length)) ∧
        (s.sitePowered i = false → y.samples = [] ∧ y.suspect = false) ∧
        (y.full = true → y.read < -320 ∨ 2400 < y.read → y.suspect = true ∧ (x.suspect = false → y.cause = 1)) ∧
        (y.suspect = false → y.effective = y.filtered)) ∧
      (∀ d < 8, ∀ v, t.hottestOf (128 + 4 * d) 4 = some v → (t.dmem d).temp = BitVec.ofInt 16 v ∧
        (t.dmem d).tstate = BitVec.ofNat 3 (vaultNext (s.dmem d).tstate.toNat v s.vaultEntry (t.allBelow 128 4 1440))) ∧
      (∀ d < 8, ∀ v, t.hottestOf (16 * d) 16 = some v → 2000 ≤ v →
        fld t.therm.logic (2 * d + 1) (2 * d) = 3 ∧ (fld s.therm.logic (2 * d + 1) (2 * d) ≠ 3 →
          t.power.stage = 4 ∧ t.power.downGroup = some (10, s.nowNs) ∧ ∀ e ∈ t.lasers, e.2.req = false)) ∧
      (∀ d < 8, ∀ v, t.hottestOf (128 + 4 * d) 4 = some v → 1680 ≤ v → (s.dmem d).tstate.toNat < 3 →
        t.therm.stopVault = true ∧ (s.stopReady = false → t.beat.hubDemand = true ∧ t.therm.stopping = true) ∧
        (s.stopReady = true → t.prog.running = false)) ∧
      MemSameButAborts s t ∧ t.settings = s.settings ∧ t.therm.nPower = s.therm.nPower ∧ t.therm.nThermal = s.therm.nThermal ∧
      t.pending = s.pending)) ∧
  (thermistorReading 10000000 = 400 ∧ thermistorReading 0 = 32767) ∧
  (∀ (readings : List Reading) (s : State), s.power.vaoGood = false ∨ s.power.inReset = true ∨ s.power.stage = 1 →
    exec (.powerSample readings) s = .next s) ∧
  (∀ (readings : List Reading) (s : State), readings.length = 25 → (∀ r ∈ readings, r.failed = false) → s.power.vaoGood = true →
    s.power.inReset = false → s.power.stage ≠ 1 →
    let sample := readings.foldl (fun n r => n + r.mv.toNat * r.da.toNat) 100000
    let l := sample :: s.therm.power.take 9
    let limit := s.setting 0x0200 % 65536 * 10000 * l.length
    Answers (.powerSample readings) s fun t =>
      t.therm.power = l ∧ t.therm.energyUj = s.therm.energyUj + sample ∧ (t.therm.overLimit = true ↔ limit < l.sum) ∧
      (∀ i r, readings[i]? = some r → t.rail (i + 1) = { s.rail (i + 1) with vout := r.mv, iout := r.da, busErr := false }) ∧
      (s.sensed = false → t.therm.nPower = s.therm.nPower) ∧
      (t.therm.overLimit ≠ s.therm.overLimit → AoLogged s t 3 (if t.therm.overLimit then 0x98 else 0x99) (5 + 65536 * meanWatts l.sum l.length)) ∧
      (s.sensed = true → limit < l.sum → (∀ at_, s.therm.raisedAt = some at_ → at_ + 100000000 ≤ s.nowNs) →
        t.therm.nPower.toNat = min 15 (s.therm.nPower.toNat + 1)) ∧
      (limit < l.sum → (∃ at_, s.therm.raisedAt = some at_ ∧ s.nowNs < at_ + 100000000) → t.therm.nPower = s.therm.nPower) ∧
      (l.sum ≤ limit → 95 * limit < 100 * l.sum → t.therm.nPower = s.therm.nPower) ∧
      (s.sensed = true → 100 * l.sum ≤ 95 * limit → l.sum ≤ limit → (∃ at_, s.therm.belowSince = some at_ ∧ at_ + 1000000000 ≤ s.nowNs) →
        (∀ at_, s.therm.fellAt = some at_ → at_ + 1000000000 ≤ s.nowNs) → t.therm.nPower.toNat = s.therm.nPower.toNat - 1) ∧
      t.therm.nThermal = s.therm.nThermal ∧ t.mem = s.mem ∧ t.settings = s.settings ∧ t.prog = s.prog ∧ t.pending = s.pending ∧
      (s.beat.aligned = true → t.therm.brake ≠ s.therm.brake →
        t.beat = { s.beat with brakePending := s.beat.brakePending ++ [(BitVec.ofNat 4 t.therm.brake, s.wall)] } ∧ t.therm.brakeChg = s.therm.brakeChg + 1) ∧
      (t.therm.brake = s.therm.brake → t.beat = s.beat ∧ t.therm.brakeChg = s.therm.brakeChg)) ∧
  (∀ (readings : List Reading) (s : State) (i : Nat) (r : Reading), s.power.vaoGood = true → s.power.inReset = false → s.power.stage ≠ 1 →
    s.power.stage ≠ 4 → s.power.downGroup = none → i < 25 → readings[i]? = some r → r.failed = true → (s.rail (i + 1)).en = true →
    (s.rail (i + 1)).pg = true → (∀ j < i, ∀ x, readings[j]? = some x → x.failed = false) → Answers (.powerSample readings) s fun t =>
      t.rail (i + 1) = { s.rail (i + 1) with state := 3, busErr := true, faults := (s.rail (i + 1)).faults + 1 } ∧ PowersDown s t ∧
      (s.powering = true → t.power.truingFault = true ∧ t.power.stage = 2) ∧ (s.powering = false → t.power.stage = 4) ∧
      MemSameButAborts s t ∧ t.settings = s.settings) ∧
  (∀ s : State, s.power.vaoGood = true →
    let blind : Prop := s.hottestOf 0 160 = none ∧ s.hottestOf 192 32 = none ∧
      ∀ n < 8, s.keyN 0x0501 (4 * n) 2 = 0 ∧ s.keyN 0x0501 (4 * n + 2) 2 = 0 ∨ s.hottestOf (224 + n) 1 = none
    (blind → exec .thermalBrakeStep s = .next s) ∧
    (s.nowNs < s.therm.thermalAt + 100000000 → exec .thermalBrakeStep s = .next s) ∧
    (¬blind → s.therm.thermalAt + 100000000 ≤ s.nowNs → Answers .thermalBrakeStep s fun t =>
      t.therm.thermalAt = s.nowNs ∧ t.therm.nPower = s.therm.nPower ∧
      (s.throttled = false → t.therm.nThermal.toNat = s.therm.nThermal.toNat - 1) ∧
      (s.throttled = true → s.therm.hottest = none → t.therm.nThermal.toNat = min 15 (s.therm.nThermal.toNat + 1)) ∧
      (s.throttled = true → ∀ a b, s.therm.hottest = some a → t.therm.hottest = some b →
        t.therm.nThermal.toNat = if b + 8 ≤ a then s.therm.nThermal.toNat else min 15 (s.therm.nThermal.toNat + 1)) ∧
      (∀ v ∈ s.throttledReadings, ∃ b, t.therm.hottest = some b ∧ v ≤ b) ∧
      (t.therm.brake = s.therm.brake → t.beat = s.beat) ∧
      (s.beat.aligned = true → t.therm.brake ≠ s.therm.brake →
        t.beat = { s.beat with brakePending := s.beat.brakePending ++ [(BitVec.ofNat 4 t.therm.brake, s.wall)] }) ∧
      { t with therm := s.therm, beat := s.beat } = s)) ∧
  (∀ s : State,
    (s.sensed = false → s.gearWanted = none) ∧
    (s.gearWanted = none → Answers .gearChange s fun t => t.therm = { s.therm with gearJob := false } ∧
      { t.beat with shiftDemand := false } = { s.beat with shiftDemand := false } ∧ { t with therm := s.therm, beat := s.beat } = s) ∧
    (∀ code cause, s.gearWanted = some (code, cause) → s.beat.aligned = true →
      s.therm.gearJob = false ∨ s.beat.held = false ∨ s.beat.causeShift = false ∨ s.wall % 16 ≠ 0 →
      Answers .gearChange s fun t => t.therm = { s.therm with gearJob := true } ∧ t.beat = { s.beat with shiftDemand := true } ∧
        { t with therm := s.therm, beat := s.beat } = s) ∧
    (∀ code cause, s.gearWanted = some (code, cause) → s.beat.aligned = false ∨ (s.therm.gearJob = true ∧ s.beat.held = true ∧
        s.beat.causeShift = true ∧ s.wall % 16 = 0) →
      Answers .gearChange s fun t => t.beat.gear.toNat = code ∧ t.therm.gearJob = false ∧ t.therm.gearChg = s.therm.gearChg + 1 ∧
        AoLogged s t 3 0x9F (s.beat.gear.toNat + 256 * code + 65536 * cause) ∧
        (s.beat.gear.toNat < code → t.therm.nPower.toNat = 2 * s.therm.nPower.toNat - 16 ∧
          t.therm.nThermal.toNat = 2 * s.therm.nThermal.toNat - 16) ∧
        (code < s.beat.gear.toNat → t.therm.nPower = 8 ∧ t.therm.nThermal = s.therm.nThermal) ∧
        t.beat.brakeN.toNat = t.therm.brake ∧ t.beat.brakePending = [] ∧ t.mem = s.mem ∧ t.settings = s.settings)) ∧
  (∀ (k : LpId) (s : State) (hot : Int), (s.rail 25).pg = true → s.power.inReset = false → s.hottestOf (160 + 8 * k.val) 8 = some hot →
    let cur := fld s.therm.ring (2 * k.val + 1) (2 * k.val)
    let l := (((List.range 8).map fun i => (SMap.get {} s.therm.sensors (160 + 8 * k.val + i) : SensorState)).filter SensorState.valid).map SensorState.read
    let off := (l.sum - (l.length : Int) * (s.keyN 0x0502 (2 * k.val) 2 : Nat)).natAbs
    let near := l ≠ [] ∧ 10 * off ≤ 16 * l.length
    let far := l ≠ [] ∧ 8 * l.length < off
    Answers (.regionHeaterControl k) s fun t =>
      SMap.get 0 t.therm.regionHeat k.val < 4096 ∧ (∀ j, j ≠ k.val → SMap.get 0 t.therm.regionHeat j = SMap.get 0 s.therm.regionHeat j) ∧
      MemSameButAborts s t ∧ t.settings = s.settings ∧ t.beat = s.beat ∧ t.prog = s.prog ∧
      (cur ≠ 3 → 1440 ≤ hot → fld t.therm.ring (2 * k.val + 1) (2 * k.val) = 3 ∧ ∀ j < 8, (s.port (8 * k.val + j)).state = 2 →
        (t.port (8 * k.val + j)).state = 3 ∧ (t.port (8 * k.val + j)).downs = (s.port (8 * k.val + j)).downs + 1) ∧
      (cur ≠ 3 → 1440 ≤ hot → ∀ j < 8, (s.port (8 * k.val + j)).state = 1 → (t.port (8 * k.val + j)).state = 3) ∧
      (cur = 3 → near → hot < 1440 → fld t.therm.ring (2 * k.val + 1) (2 * k.val) = 1 ∧ ∀ j < 8, PortRepeats s t (8 * k.val + j) 2) ∧
      (cur = 3 → ¬near ∨ 1440 ≤ hot → fld t.therm.ring (2 * k.val + 1) (2 * k.val) = 3) ∧
      (hot < 1440 → cur = 0 ∨ cur = 2 → near → fld t.therm.ring (2 * k.val + 1) (2 * k.val) = 1) ∧
      (hot < 1440 → cur = 0 ∨ cur = 2 → ¬near → fld t.therm.ring (2 * k.val + 1) (2 * k.val) = cur) ∧
      (hot < 1440 → cur = 1 → far → fld t.therm.ring (2 * k.val + 1) (2 * k.val) =
        match s.therm.bandSince k.val with | some since => if since + 1000000000 ≤ s.nowNs then 2 else 1 | none => 1) ∧
      (hot < 1440 → cur = 1 → ¬far → fld t.therm.ring (2 * k.val + 1) (2 * k.val) = 1 ∧ t.therm.bandSince k.val = none))

/-- A package's neighbour across a dimension: plain for dimensions 0 to 5, twisted for 6 to 11. The relation is symmetric, an
inter-rack neighbour has the same position and twist bit, the partner racks are those of Table 12.1, 16 positions of a rack lead
to each of the two racks of a dimension, and an intra-rack hop reaches a package of the other twist (R351). -/
def Obligations.NeighboursOfTheTwistedCube : Prop :=
  ∀ n < 4096,
    (∀ d ≤ 5, cubeNeighbour n d = n ^^^ 2 ^ d) ∧
    (∀ d, 6 ≤ d → d ≤ 11 → cubeNeighbour n d = n ^^^ 2 ^ d ^^^ (twist n * 2 ^ (d - 1))) ∧
    (∀ d < 12, cubeNeighbour n d < 4096 ∧ cubeNeighbour n d ≠ n ∧ cubeNeighbour (cubeNeighbour n d) d = n) ∧
    (∀ d, 5 ≤ d → d < 12 → cubeNeighbour n d % 32 = n % 32 ∧ twist (cubeNeighbour n d) = twist n) ∧
    (∀ d < 5, cubeNeighbour n d / 32 = n / 32 ∧ twist (cubeNeighbour n d) = 1 - twist n) ∧
    (∀ d flat twisted, (d, flat, twisted) ∈ [(5, 1, 1), (6, 2, 3), (7, 4, 6), (8, 8, 12), (9, 16, 24), (10, 32, 48), (11, 64, 96)] →
      cubeNeighbour n d / 32 = if twist n = 0 then n / 32 ^^^ flat else n / 32 ^^^ twisted) ∧
    ((List.range 32).filter fun q => twist (32 * (n / 32) + q) == twist n).length = 16

/-- A step takes the command at the front of the queue and runs it with the queue's rest; on an empty queue one ns of wall time
passes, in which the cadence count advances at its own rate while its clock runs, a start or a shift whose time comes notes whether the
count is locked, and nothing else changes (R364, R410, R414, R465; that time passes in idle steps is the model's choice, log entry 2). -/
def Obligations.StepTakesTheFront : Prop :=
  (∀ (c : Instr) (rest : List Instr) (s : State), step { s with pending := c :: rest } = exec c { s with pending := rest }) ∧
  ∀ s : State, s.pending = [] → ∃ t, step s = .next t ∧ t.nowNs = s.nowNs + 1 ∧ { t.mach with count := s.mach.count } = s.mach ∧
    (s.power.clocks = false → t.mach.count = s.mach.count) ∧
    (s.power.clocks = true → 0 ≤ 1000000 + s.mach.ppm → (t.mach.count : Int) = s.mach.count + 128 * (1000000 + s.mach.ppm)) ∧
    { t with nowNs := s.nowNs, mach := s.mach, prog := s.prog, hub := s.hub } = s ∧
    { t.prog with startLocked := none } = { s.prog with startLocked := none } ∧ { t.hub with shifts := [] } = { s.hub with shifts := [] } ∧
    (∀ at_, s.prog.startAt = some at_ → s.prog.startLocked = none →
      (at_ ≠ 0 → at_.toNat ≤ t.cadNs → t.prog.startLocked = some s.mach.locked) ∧
      (at_ = 0 ∨ t.cadNs < at_.toNat → t.prog.startLocked = none)) ∧
    t.hub.shifts = s.hub.shifts.map fun j =>
      { j with locked := if j.at_ ≠ 0 ∧ j.at_.toNat ≤ t.cadNs then some (j.locked.getD s.mach.locked) else j.locked }

/-- The invariant holds after reset, the queue is empty, and what the spec gives a reset value holds it: no rail but VAO is
enabled, every laser request is low, no program runs, no image or setting is in force, `ORDERED` is 1, the cassette is empty, no
array runs and no spoke, the beats are not aligned, and cadence is unlocked at stratum 0xFF with no parent. Values that the spec
does not give are the model's choices (log entries 1 and 4). -/
def Obligations.ResetLeavesTheStatedValues : Prop :=
  State.reset.Inv ∧ State.reset.pending = [] ∧ State.reset.power.stage = 1 ∧ (∀ n, (State.reset.rail n).en = false) ∧
  (∀ n, (State.reset.laser n).req = false) ∧ State.reset.prog.running = false ∧ State.reset.image = none ∧
  State.reset.ordered = true ∧ State.reset.hub.cassette = [] ∧ (∀ g, (State.reset.array g).power = 2) ∧
  (∀ p, (State.reset.spoke p).mode = 0) ∧ State.reset.beat.aligned = false ∧ State.reset.mach.locked = false ∧
  State.reset.mach.stratum = 0xFF ∧ State.reset.mach.parent = 0x1F ∧ (∀ a, State.reset.byte a = 0)

/-- Every command answers a next state in every state: none ends in a fault or a refusal. It leaves the queue of the commands
that wait as it was, and no time passes in it. -/
def Obligations.EveryCommandAnswers : Prop :=
  ∀ (c : Instr) (s : State), Answers c s fun t => t.pending = s.pending ∧ t.nowNs = s.nowNs

/-- Every step keeps the invariant: memory stays canonical, the hub log holds at most 4,096 records and the AO log 256, a beat is
held exactly for its causes, and the stage is one of the four (R36, R418, R429-R434). -/
def Obligations.EveryStepKeepsTheInvariant : Prop :=
  ∀ s t : State, s.Inv → step s = .next t → t.Inv
end

