-- ==== Sys2Proof/Laws/SMap.lean ====
section
/-! SUPPORT. Laws of sparse maps and of memory: a read after a write, and the canonical form. -/

namespace Sys2Proof.Laws

open Sys2Proof Sys2Proof.Machine

variable {α : Type}

theorem get?_erase (m : SMap α) (k j : Nat) : SMap.get? (SMap.erase m k) j = if j = k then none else SMap.get? m j := by
  induction m with
  | nil => simp [SMap.erase, SMap.get?]
  | cons e m ih =>
    obtain ⟨i, v⟩ := e
    simp only [SMap.erase, SMap.get?]
    split_ifs <;> simp_all [SMap.get?]

theorem get?_insert (m : SMap α) (k j : Nat) (v : α) :
    SMap.get? (SMap.insert m k v) j = if j = k then some v else SMap.get? m j := by
  induction m with
  | nil => simp [SMap.insert, SMap.get?, eq_comm]
  | cons e m ih =>
    obtain ⟨i, u⟩ := e
    simp only [SMap.insert]
    split_ifs <;> simp_all [SMap.get?, eq_comm]

/-- A read of what was written gives the value written; every other index is left alone. -/
theorem get_set [DecidableEq α] (d : α) (m : SMap α) (k j : Nat) (v : α) :
    SMap.get d (SMap.set d m k v) j = if j = k then v else SMap.get d m j := by
  unfold SMap.get SMap.set
  split_ifs <;> simp_all [get?_erase, get?_insert]

@[simp] theorem get_set_same [DecidableEq α] (d : α) (m : SMap α) (k : Nat) (v : α) :
    SMap.get d (SMap.set d m k v) k = v := by simp [get_set]

theorem get_set_ne [DecidableEq α] (d : α) (m : SMap α) (k j : Nat) (v : α) (h : j ≠ k) :
    SMap.get d (SMap.set d m k v) j = SMap.get d m j := by simp [get_set, h]

/-! ### The canonical form -/

/-- The bound of a well-formed tail may be lowered. -/
theorem wfFrom_mono [DecidableEq α] (d : α) (m : SMap α) (l l' : Option Nat)
    (hl : ∀ x, l' = some x → ∃ y, l = some y ∧ x ≤ y) (h : SMap.wfFrom d l m = true) : SMap.wfFrom d l' m = true := by
  cases m with
  | nil => rfl
  | cons e m =>
    obtain ⟨i, v⟩ := e
    simp only [SMap.wfFrom, Bool.and_eq_true] at h ⊢
    refine ⟨⟨?_, h.1.2⟩, h.2⟩
    cases l' with
    | none => rfl
    | some x =>
      obtain ⟨y, rfl, hxy⟩ := hl x rfl
      simp only [decide_eq_true_eq] at h ⊢
      omega

theorem wfFrom_erase [DecidableEq α] (d : α) (m : SMap α) (k : Nat) :
    ∀ l, SMap.wfFrom d l m = true → SMap.wfFrom d l (SMap.erase m k) = true := by
  induction m with
  | nil => intro l _; rfl
  | cons e m ih =>
    obtain ⟨i, v⟩ := e
    intro l h
    have h' := h
    simp only [SMap.wfFrom, Bool.and_eq_true] at h
    simp only [SMap.erase]
    split_ifs with hk
    · refine wfFrom_mono d _ (some i) l ?_ (ih _ h.2)
      rintro x rfl
      exact ⟨i, rfl, by have := h.1.1; simp only [decide_eq_true_eq] at this; omega⟩
    · simp only [SMap.wfFrom, Bool.and_eq_true]
      exact ⟨h.1, ih _ h.2⟩

/-- An index lies above the lower bound of a map. -/
def aboveBound (l : Option Nat) (k : Nat) : Bool := match l with | none => true | some x => decide (x < k)

theorem wfFrom_cons [DecidableEq α] (d : α) (l : Option Nat) (k : Nat) (v : α) (m : SMap α) :
    SMap.wfFrom d l ((k, v) :: m) = (aboveBound l k && decide (v ≠ d) && SMap.wfFrom d (some k) m) := by
  cases l <;> rfl

theorem wfFrom_insert [DecidableEq α] (d : α) (m : SMap α) (k : Nat) (v : α) (hv : v ≠ d) :
    ∀ l, (∀ x, l = some x → x < k) → SMap.wfFrom d l m = true → SMap.wfFrom d l (SMap.insert m k v) = true := by
  induction m with
  | nil =>
    intro l hl _
    simp only [SMap.insert, SMap.wfFrom, Bool.and_eq_true, decide_eq_true_eq, ne_eq]
    refine ⟨⟨?_, hv⟩, trivial⟩
    cases l with
    | none => rfl
    | some x => simpa using hl x rfl
  | cons e m ih =>
    obtain ⟨i, u⟩ := e
    intro l hl h
    simp only [wfFrom_cons, Bool.and_eq_true] at h
    have below : aboveBound l k = true := by
      cases l with
      | none => rfl
      | some x => simpa [aboveBound] using hl x rfl
    simp only [SMap.insert]
    split_ifs with h1 h2
    · simp only [wfFrom_cons, Bool.and_eq_true]
      refine ⟨⟨below, by simpa using hv⟩, ⟨?_, h.1.2⟩, h.2⟩
      simpa [aboveBound] using h1
    · subst h2
      simp only [wfFrom_cons, Bool.and_eq_true]
      exact ⟨⟨below, by simpa using hv⟩, h.2⟩
    · simp only [wfFrom_cons, Bool.and_eq_true]
      refine ⟨h.1, ih _ ?_ h.2⟩
      intro x hx
      simp only [Option.some.injEq] at hx
      omega

/-- A write keeps the canonical form. -/
theorem wf_set [DecidableEq α] (d : α) (m : SMap α) (k : Nat) (v : α) (h : SMap.wf d m = true) :
    SMap.wf d (SMap.set d m k v) = true := by
  unfold SMap.wf SMap.set at *
  split_ifs with hv
  · exact wfFrom_erase d m k none h
  · exact wfFrom_insert d m k v hv none (by simp) h

end Sys2Proof.Laws
end

