-- ==== Sys2Proof/Laws/State.lean ====
section
/-! SUPPORT. What each update of the state leaves alone, field by field, and what a read of the updated unit gives. -/

namespace Sys2Proof.Laws

open Sys2Proof Sys2Proof.Machine

variable (s : State)

/-! ### `setArray` -/

theorem setArray_array (g : Nat) (a : ArrayState) (j : Nat) : (s.setArray g a).array j = if j = g then a else s.array j := get_set _ _ _ _ _
@[simp] theorem setArray_array_same (g : Nat) (a : ArrayState) : (s.setArray g a).array g = a := get_set_same _ _ _ _
/-- Nothing but `arrays` changes. -/
theorem setArray_frame (g : Nat) (a : ArrayState) : { s.setArray g a with arrays := s.arrays } = s := rfl
@[simp] theorem setArray_pending (g : Nat) (a : ArrayState) : (s.setArray g a).pending = s.pending := rfl
@[simp] theorem setArray_freeCtr (g : Nat) (a : ArrayState) : (s.setArray g a).freeCtr = s.freeCtr := rfl
@[simp] theorem setArray_nowNs (g : Nat) (a : ArrayState) : (s.setArray g a).nowNs = s.nowNs := rfl
@[simp] theorem setArray_beat (g : Nat) (a : ArrayState) : (s.setArray g a).beat = s.beat := rfl
@[simp] theorem setArray_prog (g : Nat) (a : ArrayState) : (s.setArray g a).prog = s.prog := rfl
@[simp] theorem setArray_mem (g : Nat) (a : ArrayState) : (s.setArray g a).mem = s.mem := rfl
@[simp] theorem setArray_ecc (g : Nat) (a : ArrayState) : (s.setArray g a).ecc = s.ecc := rfl
@[simp] theorem setArray_power (g : Nat) (a : ArrayState) : (s.setArray g a).power = s.power := rfl
@[simp] theorem setArray_therm (g : Nat) (a : ArrayState) : (s.setArray g a).therm = s.therm := rfl
@[simp] theorem setArray_hub (g : Nat) (a : ArrayState) : (s.setArray g a).hub = s.hub := rfl
@[simp] theorem setArray_mach (g : Nat) (a : ArrayState) : (s.setArray g a).mach = s.mach := rfl
@[simp] theorem setArray_settings (g : Nat) (a : ArrayState) : (s.setArray g a).settings = s.settings := rfl
@[simp] theorem setArray_image (g : Nat) (a : ArrayState) : (s.setArray g a).image = s.image := rfl
@[simp] theorem setArray_hubLog (g : Nat) (a : ArrayState) : (s.setArray g a).hubLog = s.hubLog := rfl
@[simp] theorem setArray_aoLog (g : Nat) (a : ArrayState) : (s.setArray g a).aoLog = s.aoLog := rfl
@[simp] theorem setArray_sched (g : Nat) (a : ArrayState) : (s.setArray g a).sched = s.sched := rfl
@[simp] theorem setArray_wall (g : Nat) (a : ArrayState) : (s.setArray g a).wall = s.wall := rfl
@[simp] theorem setArray_live (g : Nat) (a : ArrayState) : (s.setArray g a).live = s.live := rfl
@[simp] theorem setArray_pbeat (g : Nat) (a : ArrayState) : (s.setArray g a).pbeat = s.pbeat := rfl
@[simp] theorem setArray_runs (g : Nat) (a : ArrayState) : (s.setArray g a).runs = s.runs := rfl
@[simp] theorem setArray_router (g : Nat) (a : ArrayState) (j : Nat) : (s.setArray g a).router j = s.router j := rfl
@[simp] theorem setArray_crossing (g : Nat) (a : ArrayState) (j : Nat) : (s.setArray g a).crossing j = s.crossing j := rfl
@[simp] theorem setArray_derailleur (g : Nat) (a : ArrayState) (j : Nat) : (s.setArray g a).derailleur j = s.derailleur j := rfl
@[simp] theorem setArray_spoke (g : Nat) (a : ArrayState) (j : Nat) : (s.setArray g a).spoke j = s.spoke j := rfl
@[simp] theorem setArray_vault (g : Nat) (a : ArrayState) (j : Nat) : (s.setArray g a).vault j = s.vault j := rfl
@[simp] theorem setArray_dmem (g : Nat) (a : ArrayState) (j : Nat) : (s.setArray g a).dmem j = s.dmem j := rfl
@[simp] theorem setArray_stk (g : Nat) (a : ArrayState) (j : Nat) : (s.setArray g a).stk j = s.stk j := rfl
@[simp] theorem setArray_channel (g : Nat) (a : ArrayState) (j : Nat) : (s.setArray g a).channel j = s.channel j := rfl
@[simp] theorem setArray_linkEnd (g : Nat) (a : ArrayState) (j : Nat) : (s.setArray g a).linkEnd j = s.linkEnd j := rfl
@[simp] theorem setArray_port (g : Nat) (a : ArrayState) (j : Nat) : (s.setArray g a).port j = s.port j := rfl
@[simp] theorem setArray_laser (g : Nat) (a : ArrayState) (j : Nat) : (s.setArray g a).laser j = s.laser j := rfl
@[simp] theorem setArray_fab (g : Nat) (a : ArrayState) (j : Nat) : (s.setArray g a).fab j = s.fab j := rfl
@[simp] theorem setArray_engine (g : Nat) (a : ArrayState) (j : Nat) : (s.setArray g a).engine j = s.engine j := rfl
@[simp] theorem setArray_mb (g : Nat) (a : ArrayState) (j : Nat) : (s.setArray g a).mb j = s.mb j := rfl
@[simp] theorem setArray_dieCounters (g : Nat) (a : ArrayState) (j : Nat) : (s.setArray g a).dieCounters j = s.dieCounters j := rfl

/-! ### `setRouter` -/

theorem setRouter_router (r : Nat) (a : RouterState) (j : Nat) : (s.setRouter r a).router j = if j = r then a else s.router j := get_set _ _ _ _ _
@[simp] theorem setRouter_router_same (r : Nat) (a : RouterState) : (s.setRouter r a).router r = a := get_set_same _ _ _ _
/-- Nothing but `routers` changes. -/
theorem setRouter_frame (r : Nat) (a : RouterState) : { s.setRouter r a with routers := s.routers } = s := rfl
@[simp] theorem setRouter_pending (r : Nat) (a : RouterState) : (s.setRouter r a).pending = s.pending := rfl
@[simp] theorem setRouter_freeCtr (r : Nat) (a : RouterState) : (s.setRouter r a).freeCtr = s.freeCtr := rfl
@[simp] theorem setRouter_nowNs (r : Nat) (a : RouterState) : (s.setRouter r a).nowNs = s.nowNs := rfl
@[simp] theorem setRouter_beat (r : Nat) (a : RouterState) : (s.setRouter r a).beat = s.beat := rfl
@[simp] theorem setRouter_prog (r : Nat) (a : RouterState) : (s.setRouter r a).prog = s.prog := rfl
@[simp] theorem setRouter_mem (r : Nat) (a : RouterState) : (s.setRouter r a).mem = s.mem := rfl
@[simp] theorem setRouter_ecc (r : Nat) (a : RouterState) : (s.setRouter r a).ecc = s.ecc := rfl
@[simp] theorem setRouter_power (r : Nat) (a : RouterState) : (s.setRouter r a).power = s.power := rfl
@[simp] theorem setRouter_therm (r : Nat) (a : RouterState) : (s.setRouter r a).therm = s.therm := rfl
@[simp] theorem setRouter_hub (r : Nat) (a : RouterState) : (s.setRouter r a).hub = s.hub := rfl
@[simp] theorem setRouter_mach (r : Nat) (a : RouterState) : (s.setRouter r a).mach = s.mach := rfl
@[simp] theorem setRouter_settings (r : Nat) (a : RouterState) : (s.setRouter r a).settings = s.settings := rfl
@[simp] theorem setRouter_image (r : Nat) (a : RouterState) : (s.setRouter r a).image = s.image := rfl
@[simp] theorem setRouter_hubLog (r : Nat) (a : RouterState) : (s.setRouter r a).hubLog = s.hubLog := rfl
@[simp] theorem setRouter_aoLog (r : Nat) (a : RouterState) : (s.setRouter r a).aoLog = s.aoLog := rfl
@[simp] theorem setRouter_sched (r : Nat) (a : RouterState) : (s.setRouter r a).sched = s.sched := rfl
@[simp] theorem setRouter_wall (r : Nat) (a : RouterState) : (s.setRouter r a).wall = s.wall := rfl
@[simp] theorem setRouter_live (r : Nat) (a : RouterState) : (s.setRouter r a).live = s.live := rfl
@[simp] theorem setRouter_pbeat (r : Nat) (a : RouterState) : (s.setRouter r a).pbeat = s.pbeat := rfl
@[simp] theorem setRouter_runs (r : Nat) (a : RouterState) : (s.setRouter r a).runs = s.runs := rfl
@[simp] theorem setRouter_array (r : Nat) (a : RouterState) (j : Nat) : (s.setRouter r a).array j = s.array j := rfl
@[simp] theorem setRouter_crossing (r : Nat) (a : RouterState) (j : Nat) : (s.setRouter r a).crossing j = s.crossing j := rfl
@[simp] theorem setRouter_derailleur (r : Nat) (a : RouterState) (j : Nat) : (s.setRouter r a).derailleur j = s.derailleur j := rfl
@[simp] theorem setRouter_spoke (r : Nat) (a : RouterState) (j : Nat) : (s.setRouter r a).spoke j = s.spoke j := rfl
@[simp] theorem setRouter_vault (r : Nat) (a : RouterState) (j : Nat) : (s.setRouter r a).vault j = s.vault j := rfl
@[simp] theorem setRouter_dmem (r : Nat) (a : RouterState) (j : Nat) : (s.setRouter r a).dmem j = s.dmem j := rfl
@[simp] theorem setRouter_stk (r : Nat) (a : RouterState) (j : Nat) : (s.setRouter r a).stk j = s.stk j := rfl
@[simp] theorem setRouter_channel (r : Nat) (a : RouterState) (j : Nat) : (s.setRouter r a).channel j = s.channel j := rfl
@[simp] theorem setRouter_linkEnd (r : Nat) (a : RouterState) (j : Nat) : (s.setRouter r a).linkEnd j = s.linkEnd j := rfl
@[simp] theorem setRouter_port (r : Nat) (a : RouterState) (j : Nat) : (s.setRouter r a).port j = s.port j := rfl
@[simp] theorem setRouter_laser (r : Nat) (a : RouterState) (j : Nat) : (s.setRouter r a).laser j = s.laser j := rfl
@[simp] theorem setRouter_fab (r : Nat) (a : RouterState) (j : Nat) : (s.setRouter r a).fab j = s.fab j := rfl
@[simp] theorem setRouter_engine (r : Nat) (a : RouterState) (j : Nat) : (s.setRouter r a).engine j = s.engine j := rfl
@[simp] theorem setRouter_mb (r : Nat) (a : RouterState) (j : Nat) : (s.setRouter r a).mb j = s.mb j := rfl
@[simp] theorem setRouter_dieCounters (r : Nat) (a : RouterState) (j : Nat) : (s.setRouter r a).dieCounters j = s.dieCounters j := rfl

/-! ### `setCrossing` -/

theorem setCrossing_crossing (x : Nat) (a : CrossingState) (j : Nat) : (s.setCrossing x a).crossing j = if j = x then a else s.crossing j := get_set _ _ _ _ _
@[simp] theorem setCrossing_crossing_same (x : Nat) (a : CrossingState) : (s.setCrossing x a).crossing x = a := get_set_same _ _ _ _
/-- Nothing but `crossings` changes. -/
theorem setCrossing_frame (x : Nat) (a : CrossingState) : { s.setCrossing x a with crossings := s.crossings } = s := rfl
@[simp] theorem setCrossing_pending (x : Nat) (a : CrossingState) : (s.setCrossing x a).pending = s.pending := rfl
@[simp] theorem setCrossing_freeCtr (x : Nat) (a : CrossingState) : (s.setCrossing x a).freeCtr = s.freeCtr := rfl
@[simp] theorem setCrossing_nowNs (x : Nat) (a : CrossingState) : (s.setCrossing x a).nowNs = s.nowNs := rfl
@[simp] theorem setCrossing_beat (x : Nat) (a : CrossingState) : (s.setCrossing x a).beat = s.beat := rfl
@[simp] theorem setCrossing_prog (x : Nat) (a : CrossingState) : (s.setCrossing x a).prog = s.prog := rfl
@[simp] theorem setCrossing_mem (x : Nat) (a : CrossingState) : (s.setCrossing x a).mem = s.mem := rfl
@[simp] theorem setCrossing_ecc (x : Nat) (a : CrossingState) : (s.setCrossing x a).ecc = s.ecc := rfl
@[simp] theorem setCrossing_power (x : Nat) (a : CrossingState) : (s.setCrossing x a).power = s.power := rfl
@[simp] theorem setCrossing_therm (x : Nat) (a : CrossingState) : (s.setCrossing x a).therm = s.therm := rfl
@[simp] theorem setCrossing_hub (x : Nat) (a : CrossingState) : (s.setCrossing x a).hub = s.hub := rfl
@[simp] theorem setCrossing_mach (x : Nat) (a : CrossingState) : (s.setCrossing x a).mach = s.mach := rfl
@[simp] theorem setCrossing_settings (x : Nat) (a : CrossingState) : (s.setCrossing x a).settings = s.settings := rfl
@[simp] theorem setCrossing_image (x : Nat) (a : CrossingState) : (s.setCrossing x a).image = s.image := rfl
@[simp] theorem setCrossing_hubLog (x : Nat) (a : CrossingState) : (s.setCrossing x a).hubLog = s.hubLog := rfl
@[simp] theorem setCrossing_aoLog (x : Nat) (a : CrossingState) : (s.setCrossing x a).aoLog = s.aoLog := rfl
@[simp] theorem setCrossing_sched (x : Nat) (a : CrossingState) : (s.setCrossing x a).sched = s.sched := rfl
@[simp] theorem setCrossing_wall (x : Nat) (a : CrossingState) : (s.setCrossing x a).wall = s.wall := rfl
@[simp] theorem setCrossing_live (x : Nat) (a : CrossingState) : (s.setCrossing x a).live = s.live := rfl
@[simp] theorem setCrossing_pbeat (x : Nat) (a : CrossingState) : (s.setCrossing x a).pbeat = s.pbeat := rfl
@[simp] theorem setCrossing_runs (x : Nat) (a : CrossingState) : (s.setCrossing x a).runs = s.runs := rfl

/-! ### `setDerailleur` -/

theorem setDerailleur_derailleur (d : Nat) (a : DerailleurState) (j : Nat) : (s.setDerailleur d a).derailleur j = if j = d then a else s.derailleur j := get_set _ _ _ _ _
@[simp] theorem setDerailleur_derailleur_same (d : Nat) (a : DerailleurState) : (s.setDerailleur d a).derailleur d = a := get_set_same _ _ _ _
/-- Nothing but `derailleurs` changes. -/
theorem setDerailleur_frame (d : Nat) (a : DerailleurState) : { s.setDerailleur d a with derailleurs := s.derailleurs } = s := rfl
@[simp] theorem setDerailleur_pending (d : Nat) (a : DerailleurState) : (s.setDerailleur d a).pending = s.pending := rfl
@[simp] theorem setDerailleur_freeCtr (d : Nat) (a : DerailleurState) : (s.setDerailleur d a).freeCtr = s.freeCtr := rfl
@[simp] theorem setDerailleur_nowNs (d : Nat) (a : DerailleurState) : (s.setDerailleur d a).nowNs = s.nowNs := rfl
@[simp] theorem setDerailleur_beat (d : Nat) (a : DerailleurState) : (s.setDerailleur d a).beat = s.beat := rfl
@[simp] theorem setDerailleur_prog (d : Nat) (a : DerailleurState) : (s.setDerailleur d a).prog = s.prog := rfl
@[simp] theorem setDerailleur_mem (d : Nat) (a : DerailleurState) : (s.setDerailleur d a).mem = s.mem := rfl
@[simp] theorem setDerailleur_ecc (d : Nat) (a : DerailleurState) : (s.setDerailleur d a).ecc = s.ecc := rfl
@[simp] theorem setDerailleur_power (d : Nat) (a : DerailleurState) : (s.setDerailleur d a).power = s.power := rfl
@[simp] theorem setDerailleur_therm (d : Nat) (a : DerailleurState) : (s.setDerailleur d a).therm = s.therm := rfl
@[simp] theorem setDerailleur_hub (d : Nat) (a : DerailleurState) : (s.setDerailleur d a).hub = s.hub := rfl
@[simp] theorem setDerailleur_mach (d : Nat) (a : DerailleurState) : (s.setDerailleur d a).mach = s.mach := rfl
@[simp] theorem setDerailleur_settings (d : Nat) (a : DerailleurState) : (s.setDerailleur d a).settings = s.settings := rfl
@[simp] theorem setDerailleur_image (d : Nat) (a : DerailleurState) : (s.setDerailleur d a).image = s.image := rfl
@[simp] theorem setDerailleur_hubLog (d : Nat) (a : DerailleurState) : (s.setDerailleur d a).hubLog = s.hubLog := rfl
@[simp] theorem setDerailleur_aoLog (d : Nat) (a : DerailleurState) : (s.setDerailleur d a).aoLog = s.aoLog := rfl
@[simp] theorem setDerailleur_sched (d : Nat) (a : DerailleurState) : (s.setDerailleur d a).sched = s.sched := rfl
@[simp] theorem setDerailleur_wall (d : Nat) (a : DerailleurState) : (s.setDerailleur d a).wall = s.wall := rfl
@[simp] theorem setDerailleur_live (d : Nat) (a : DerailleurState) : (s.setDerailleur d a).live = s.live := rfl
@[simp] theorem setDerailleur_pbeat (d : Nat) (a : DerailleurState) : (s.setDerailleur d a).pbeat = s.pbeat := rfl
@[simp] theorem setDerailleur_runs (d : Nat) (a : DerailleurState) : (s.setDerailleur d a).runs = s.runs := rfl
@[simp] theorem setDerailleur_array (d : Nat) (a : DerailleurState) (j : Nat) : (s.setDerailleur d a).array j = s.array j := rfl
@[simp] theorem setDerailleur_router (d : Nat) (a : DerailleurState) (j : Nat) : (s.setDerailleur d a).router j = s.router j := rfl
@[simp] theorem setDerailleur_crossing (d : Nat) (a : DerailleurState) (j : Nat) : (s.setDerailleur d a).crossing j = s.crossing j := rfl
@[simp] theorem setDerailleur_spoke (d : Nat) (a : DerailleurState) (j : Nat) : (s.setDerailleur d a).spoke j = s.spoke j := rfl
@[simp] theorem setDerailleur_vault (d : Nat) (a : DerailleurState) (j : Nat) : (s.setDerailleur d a).vault j = s.vault j := rfl
@[simp] theorem setDerailleur_dmem (d : Nat) (a : DerailleurState) (j : Nat) : (s.setDerailleur d a).dmem j = s.dmem j := rfl
@[simp] theorem setDerailleur_stk (d : Nat) (a : DerailleurState) (j : Nat) : (s.setDerailleur d a).stk j = s.stk j := rfl
@[simp] theorem setDerailleur_channel (d : Nat) (a : DerailleurState) (j : Nat) : (s.setDerailleur d a).channel j = s.channel j := rfl
@[simp] theorem setDerailleur_linkEnd (d : Nat) (a : DerailleurState) (j : Nat) : (s.setDerailleur d a).linkEnd j = s.linkEnd j := rfl
@[simp] theorem setDerailleur_port (d : Nat) (a : DerailleurState) (j : Nat) : (s.setDerailleur d a).port j = s.port j := rfl
@[simp] theorem setDerailleur_laser (d : Nat) (a : DerailleurState) (j : Nat) : (s.setDerailleur d a).laser j = s.laser j := rfl
@[simp] theorem setDerailleur_fab (d : Nat) (a : DerailleurState) (j : Nat) : (s.setDerailleur d a).fab j = s.fab j := rfl
@[simp] theorem setDerailleur_engine (d : Nat) (a : DerailleurState) (j : Nat) : (s.setDerailleur d a).engine j = s.engine j := rfl
@[simp] theorem setDerailleur_mb (d : Nat) (a : DerailleurState) (j : Nat) : (s.setDerailleur d a).mb j = s.mb j := rfl
@[simp] theorem setDerailleur_dieCounters (d : Nat) (a : DerailleurState) (j : Nat) : (s.setDerailleur d a).dieCounters j = s.dieCounters j := rfl

/-! ### `setSpoke` -/

theorem setSpoke_spoke (p : Nat) (a : SpokeState) (j : Nat) : (s.setSpoke p a).spoke j = if j = p then a else s.spoke j := get_set _ _ _ _ _
@[simp] theorem setSpoke_spoke_same (p : Nat) (a : SpokeState) : (s.setSpoke p a).spoke p = a := get_set_same _ _ _ _
/-- Nothing but `spokes` changes. -/
theorem setSpoke_frame (p : Nat) (a : SpokeState) : { s.setSpoke p a with spokes := s.spokes } = s := rfl
@[simp] theorem setSpoke_pending (p : Nat) (a : SpokeState) : (s.setSpoke p a).pending = s.pending := rfl
@[simp] theorem setSpoke_freeCtr (p : Nat) (a : SpokeState) : (s.setSpoke p a).freeCtr = s.freeCtr := rfl
@[simp] theorem setSpoke_nowNs (p : Nat) (a : SpokeState) : (s.setSpoke p a).nowNs = s.nowNs := rfl
@[simp] theorem setSpoke_beat (p : Nat) (a : SpokeState) : (s.setSpoke p a).beat = s.beat := rfl
@[simp] theorem setSpoke_prog (p : Nat) (a : SpokeState) : (s.setSpoke p a).prog = s.prog := rfl
@[simp] theorem setSpoke_mem (p : Nat) (a : SpokeState) : (s.setSpoke p a).mem = s.mem := rfl
@[simp] theorem setSpoke_ecc (p : Nat) (a : SpokeState) : (s.setSpoke p a).ecc = s.ecc := rfl
@[simp] theorem setSpoke_power (p : Nat) (a : SpokeState) : (s.setSpoke p a).power = s.power := rfl
@[simp] theorem setSpoke_therm (p : Nat) (a : SpokeState) : (s.setSpoke p a).therm = s.therm := rfl
@[simp] theorem setSpoke_hub (p : Nat) (a : SpokeState) : (s.setSpoke p a).hub = s.hub := rfl
@[simp] theorem setSpoke_mach (p : Nat) (a : SpokeState) : (s.setSpoke p a).mach = s.mach := rfl
@[simp] theorem setSpoke_settings (p : Nat) (a : SpokeState) : (s.setSpoke p a).settings = s.settings := rfl
@[simp] theorem setSpoke_image (p : Nat) (a : SpokeState) : (s.setSpoke p a).image = s.image := rfl
@[simp] theorem setSpoke_hubLog (p : Nat) (a : SpokeState) : (s.setSpoke p a).hubLog = s.hubLog := rfl
@[simp] theorem setSpoke_aoLog (p : Nat) (a : SpokeState) : (s.setSpoke p a).aoLog = s.aoLog := rfl
@[simp] theorem setSpoke_sched (p : Nat) (a : SpokeState) : (s.setSpoke p a).sched = s.sched := rfl
@[simp] theorem setSpoke_wall (p : Nat) (a : SpokeState) : (s.setSpoke p a).wall = s.wall := rfl
@[simp] theorem setSpoke_live (p : Nat) (a : SpokeState) : (s.setSpoke p a).live = s.live := rfl
@[simp] theorem setSpoke_pbeat (p : Nat) (a : SpokeState) : (s.setSpoke p a).pbeat = s.pbeat := rfl
@[simp] theorem setSpoke_runs (p : Nat) (a : SpokeState) : (s.setSpoke p a).runs = s.runs := rfl
@[simp] theorem setSpoke_array (p : Nat) (a : SpokeState) (j : Nat) : (s.setSpoke p a).array j = s.array j := rfl
@[simp] theorem setSpoke_router (p : Nat) (a : SpokeState) (j : Nat) : (s.setSpoke p a).router j = s.router j := rfl
@[simp] theorem setSpoke_crossing (p : Nat) (a : SpokeState) (j : Nat) : (s.setSpoke p a).crossing j = s.crossing j := rfl
@[simp] theorem setSpoke_derailleur (p : Nat) (a : SpokeState) (j : Nat) : (s.setSpoke p a).derailleur j = s.derailleur j := rfl
@[simp] theorem setSpoke_vault (p : Nat) (a : SpokeState) (j : Nat) : (s.setSpoke p a).vault j = s.vault j := rfl
@[simp] theorem setSpoke_dmem (p : Nat) (a : SpokeState) (j : Nat) : (s.setSpoke p a).dmem j = s.dmem j := rfl
@[simp] theorem setSpoke_stk (p : Nat) (a : SpokeState) (j : Nat) : (s.setSpoke p a).stk j = s.stk j := rfl
@[simp] theorem setSpoke_channel (p : Nat) (a : SpokeState) (j : Nat) : (s.setSpoke p a).channel j = s.channel j := rfl
@[simp] theorem setSpoke_linkEnd (p : Nat) (a : SpokeState) (j : Nat) : (s.setSpoke p a).linkEnd j = s.linkEnd j := rfl
@[simp] theorem setSpoke_port (p : Nat) (a : SpokeState) (j : Nat) : (s.setSpoke p a).port j = s.port j := rfl
@[simp] theorem setSpoke_laser (p : Nat) (a : SpokeState) (j : Nat) : (s.setSpoke p a).laser j = s.laser j := rfl
@[simp] theorem setSpoke_fab (p : Nat) (a : SpokeState) (j : Nat) : (s.setSpoke p a).fab j = s.fab j := rfl
@[simp] theorem setSpoke_engine (p : Nat) (a : SpokeState) (j : Nat) : (s.setSpoke p a).engine j = s.engine j := rfl
@[simp] theorem setSpoke_mb (p : Nat) (a : SpokeState) (j : Nat) : (s.setSpoke p a).mb j = s.mb j := rfl
@[simp] theorem setSpoke_dieCounters (p : Nat) (a : SpokeState) (j : Nat) : (s.setSpoke p a).dieCounters j = s.dieCounters j := rfl

/-! ### `setVault` -/

theorem setVault_vault (g : Nat) (a : VaultState) (j : Nat) : (s.setVault g a).vault j = if j = g then a else s.vault j := get_set _ _ _ _ _
@[simp] theorem setVault_vault_same (g : Nat) (a : VaultState) : (s.setVault g a).vault g = a := get_set_same _ _ _ _
/-- Nothing but `vaults` changes. -/
theorem setVault_frame (g : Nat) (a : VaultState) : { s.setVault g a with vaults := s.vaults } = s := rfl
@[simp] theorem setVault_pending (g : Nat) (a : VaultState) : (s.setVault g a).pending = s.pending := rfl
@[simp] theorem setVault_freeCtr (g : Nat) (a : VaultState) : (s.setVault g a).freeCtr = s.freeCtr := rfl
@[simp] theorem setVault_nowNs (g : Nat) (a : VaultState) : (s.setVault g a).nowNs = s.nowNs := rfl
@[simp] theorem setVault_beat (g : Nat) (a : VaultState) : (s.setVault g a).beat = s.beat := rfl
@[simp] theorem setVault_prog (g : Nat) (a : VaultState) : (s.setVault g a).prog = s.prog := rfl
@[simp] theorem setVault_mem (g : Nat) (a : VaultState) : (s.setVault g a).mem = s.mem := rfl
@[simp] theorem setVault_ecc (g : Nat) (a : VaultState) : (s.setVault g a).ecc = s.ecc := rfl
@[simp] theorem setVault_power (g : Nat) (a : VaultState) : (s.setVault g a).power = s.power := rfl
@[simp] theorem setVault_therm (g : Nat) (a : VaultState) : (s.setVault g a).therm = s.therm := rfl
@[simp] theorem setVault_hub (g : Nat) (a : VaultState) : (s.setVault g a).hub = s.hub := rfl
@[simp] theorem setVault_mach (g : Nat) (a : VaultState) : (s.setVault g a).mach = s.mach := rfl
@[simp] theorem setVault_settings (g : Nat) (a : VaultState) : (s.setVault g a).settings = s.settings := rfl
@[simp] theorem setVault_image (g : Nat) (a : VaultState) : (s.setVault g a).image = s.image := rfl
@[simp] theorem setVault_hubLog (g : Nat) (a : VaultState) : (s.setVault g a).hubLog = s.hubLog := rfl
@[simp] theorem setVault_aoLog (g : Nat) (a : VaultState) : (s.setVault g a).aoLog = s.aoLog := rfl
@[simp] theorem setVault_sched (g : Nat) (a : VaultState) : (s.setVault g a).sched = s.sched := rfl
@[simp] theorem setVault_wall (g : Nat) (a : VaultState) : (s.setVault g a).wall = s.wall := rfl
@[simp] theorem setVault_live (g : Nat) (a : VaultState) : (s.setVault g a).live = s.live := rfl
@[simp] theorem setVault_pbeat (g : Nat) (a : VaultState) : (s.setVault g a).pbeat = s.pbeat := rfl
@[simp] theorem setVault_runs (g : Nat) (a : VaultState) : (s.setVault g a).runs = s.runs := rfl

/-! ### `setDmem` -/

theorem setDmem_dmem (d : Nat) (a : DieMem) (j : Nat) : (s.setDmem d a).dmem j = if j = d then a else s.dmem j := get_set _ _ _ _ _
@[simp] theorem setDmem_dmem_same (d : Nat) (a : DieMem) : (s.setDmem d a).dmem d = a := get_set_same _ _ _ _
/-- Nothing but `dieMem` changes. -/
theorem setDmem_frame (d : Nat) (a : DieMem) : { s.setDmem d a with dieMem := s.dieMem } = s := rfl
@[simp] theorem setDmem_pending (d : Nat) (a : DieMem) : (s.setDmem d a).pending = s.pending := rfl
@[simp] theorem setDmem_freeCtr (d : Nat) (a : DieMem) : (s.setDmem d a).freeCtr = s.freeCtr := rfl
@[simp] theorem setDmem_nowNs (d : Nat) (a : DieMem) : (s.setDmem d a).nowNs = s.nowNs := rfl
@[simp] theorem setDmem_beat (d : Nat) (a : DieMem) : (s.setDmem d a).beat = s.beat := rfl
@[simp] theorem setDmem_prog (d : Nat) (a : DieMem) : (s.setDmem d a).prog = s.prog := rfl
@[simp] theorem setDmem_mem (d : Nat) (a : DieMem) : (s.setDmem d a).mem = s.mem := rfl
@[simp] theorem setDmem_ecc (d : Nat) (a : DieMem) : (s.setDmem d a).ecc = s.ecc := rfl
@[simp] theorem setDmem_power (d : Nat) (a : DieMem) : (s.setDmem d a).power = s.power := rfl
@[simp] theorem setDmem_therm (d : Nat) (a : DieMem) : (s.setDmem d a).therm = s.therm := rfl
@[simp] theorem setDmem_hub (d : Nat) (a : DieMem) : (s.setDmem d a).hub = s.hub := rfl
@[simp] theorem setDmem_mach (d : Nat) (a : DieMem) : (s.setDmem d a).mach = s.mach := rfl
@[simp] theorem setDmem_settings (d : Nat) (a : DieMem) : (s.setDmem d a).settings = s.settings := rfl
@[simp] theorem setDmem_image (d : Nat) (a : DieMem) : (s.setDmem d a).image = s.image := rfl
@[simp] theorem setDmem_hubLog (d : Nat) (a : DieMem) : (s.setDmem d a).hubLog = s.hubLog := rfl
@[simp] theorem setDmem_aoLog (d : Nat) (a : DieMem) : (s.setDmem d a).aoLog = s.aoLog := rfl
@[simp] theorem setDmem_sched (d : Nat) (a : DieMem) : (s.setDmem d a).sched = s.sched := rfl
@[simp] theorem setDmem_wall (d : Nat) (a : DieMem) : (s.setDmem d a).wall = s.wall := rfl
@[simp] theorem setDmem_live (d : Nat) (a : DieMem) : (s.setDmem d a).live = s.live := rfl
@[simp] theorem setDmem_pbeat (d : Nat) (a : DieMem) : (s.setDmem d a).pbeat = s.pbeat := rfl
@[simp] theorem setDmem_runs (d : Nat) (a : DieMem) : (s.setDmem d a).runs = s.runs := rfl

/-! ### `setStk` -/

theorem setStk_stk (t : Nat) (a : StackState) (j : Nat) : (s.setStk t a).stk j = if j = t then a else s.stk j := get_set _ _ _ _ _
@[simp] theorem setStk_stk_same (t : Nat) (a : StackState) : (s.setStk t a).stk t = a := get_set_same _ _ _ _
/-- Nothing but `memStacks` changes. -/
theorem setStk_frame (t : Nat) (a : StackState) : { s.setStk t a with memStacks := s.memStacks } = s := rfl
@[simp] theorem setStk_pending (t : Nat) (a : StackState) : (s.setStk t a).pending = s.pending := rfl
@[simp] theorem setStk_freeCtr (t : Nat) (a : StackState) : (s.setStk t a).freeCtr = s.freeCtr := rfl
@[simp] theorem setStk_nowNs (t : Nat) (a : StackState) : (s.setStk t a).nowNs = s.nowNs := rfl
@[simp] theorem setStk_beat (t : Nat) (a : StackState) : (s.setStk t a).beat = s.beat := rfl
@[simp] theorem setStk_prog (t : Nat) (a : StackState) : (s.setStk t a).prog = s.prog := rfl
@[simp] theorem setStk_mem (t : Nat) (a : StackState) : (s.setStk t a).mem = s.mem := rfl
@[simp] theorem setStk_ecc (t : Nat) (a : StackState) : (s.setStk t a).ecc = s.ecc := rfl
@[simp] theorem setStk_power (t : Nat) (a : StackState) : (s.setStk t a).power = s.power := rfl
@[simp] theorem setStk_therm (t : Nat) (a : StackState) : (s.setStk t a).therm = s.therm := rfl
@[simp] theorem setStk_hub (t : Nat) (a : StackState) : (s.setStk t a).hub = s.hub := rfl
@[simp] theorem setStk_mach (t : Nat) (a : StackState) : (s.setStk t a).mach = s.mach := rfl
@[simp] theorem setStk_settings (t : Nat) (a : StackState) : (s.setStk t a).settings = s.settings := rfl
@[simp] theorem setStk_image (t : Nat) (a : StackState) : (s.setStk t a).image = s.image := rfl
@[simp] theorem setStk_hubLog (t : Nat) (a : StackState) : (s.setStk t a).hubLog = s.hubLog := rfl
@[simp] theorem setStk_aoLog (t : Nat) (a : StackState) : (s.setStk t a).aoLog = s.aoLog := rfl
@[simp] theorem setStk_sched (t : Nat) (a : StackState) : (s.setStk t a).sched = s.sched := rfl
@[simp] theorem setStk_wall (t : Nat) (a : StackState) : (s.setStk t a).wall = s.wall := rfl
@[simp] theorem setStk_live (t : Nat) (a : StackState) : (s.setStk t a).live = s.live := rfl
@[simp] theorem setStk_pbeat (t : Nat) (a : StackState) : (s.setStk t a).pbeat = s.pbeat := rfl
@[simp] theorem setStk_runs (t : Nat) (a : StackState) : (s.setStk t a).runs = s.runs := rfl

/-! ### `setChannel` -/

theorem setChannel_channel (c : Nat) (a : ChannelState) (j : Nat) : (s.setChannel c a).channel j = if j = c then a else s.channel j := get_set _ _ _ _ _
@[simp] theorem setChannel_channel_same (c : Nat) (a : ChannelState) : (s.setChannel c a).channel c = a := get_set_same _ _ _ _
/-- Nothing but `channels` changes. -/
theorem setChannel_frame (c : Nat) (a : ChannelState) : { s.setChannel c a with channels := s.channels } = s := rfl
@[simp] theorem setChannel_pending (c : Nat) (a : ChannelState) : (s.setChannel c a).pending = s.pending := rfl
@[simp] theorem setChannel_freeCtr (c : Nat) (a : ChannelState) : (s.setChannel c a).freeCtr = s.freeCtr := rfl
@[simp] theorem setChannel_nowNs (c : Nat) (a : ChannelState) : (s.setChannel c a).nowNs = s.nowNs := rfl
@[simp] theorem setChannel_beat (c : Nat) (a : ChannelState) : (s.setChannel c a).beat = s.beat := rfl
@[simp] theorem setChannel_prog (c : Nat) (a : ChannelState) : (s.setChannel c a).prog = s.prog := rfl
@[simp] theorem setChannel_mem (c : Nat) (a : ChannelState) : (s.setChannel c a).mem = s.mem := rfl
@[simp] theorem setChannel_ecc (c : Nat) (a : ChannelState) : (s.setChannel c a).ecc = s.ecc := rfl
@[simp] theorem setChannel_power (c : Nat) (a : ChannelState) : (s.setChannel c a).power = s.power := rfl
@[simp] theorem setChannel_therm (c : Nat) (a : ChannelState) : (s.setChannel c a).therm = s.therm := rfl
@[simp] theorem setChannel_hub (c : Nat) (a : ChannelState) : (s.setChannel c a).hub = s.hub := rfl
@[simp] theorem setChannel_mach (c : Nat) (a : ChannelState) : (s.setChannel c a).mach = s.mach := rfl
@[simp] theorem setChannel_settings (c : Nat) (a : ChannelState) : (s.setChannel c a).settings = s.settings := rfl
@[simp] theorem setChannel_image (c : Nat) (a : ChannelState) : (s.setChannel c a).image = s.image := rfl
@[simp] theorem setChannel_hubLog (c : Nat) (a : ChannelState) : (s.setChannel c a).hubLog = s.hubLog := rfl
@[simp] theorem setChannel_aoLog (c : Nat) (a : ChannelState) : (s.setChannel c a).aoLog = s.aoLog := rfl
@[simp] theorem setChannel_sched (c : Nat) (a : ChannelState) : (s.setChannel c a).sched = s.sched := rfl
@[simp] theorem setChannel_wall (c : Nat) (a : ChannelState) : (s.setChannel c a).wall = s.wall := rfl
@[simp] theorem setChannel_live (c : Nat) (a : ChannelState) : (s.setChannel c a).live = s.live := rfl
@[simp] theorem setChannel_pbeat (c : Nat) (a : ChannelState) : (s.setChannel c a).pbeat = s.pbeat := rfl
@[simp] theorem setChannel_runs (c : Nat) (a : ChannelState) : (s.setChannel c a).runs = s.runs := rfl

/-! ### `setLinkEnd` -/

theorem setLinkEnd_linkEnd (e : Nat) (a : EndState) (j : Nat) : (s.setLinkEnd e a).linkEnd j = if j = e then a else s.linkEnd j := get_set _ _ _ _ _
@[simp] theorem setLinkEnd_linkEnd_same (e : Nat) (a : EndState) : (s.setLinkEnd e a).linkEnd e = a := get_set_same _ _ _ _
/-- Nothing but `ends` changes. -/
theorem setLinkEnd_frame (e : Nat) (a : EndState) : { s.setLinkEnd e a with ends := s.ends } = s := rfl
@[simp] theorem setLinkEnd_pending (e : Nat) (a : EndState) : (s.setLinkEnd e a).pending = s.pending := rfl
@[simp] theorem setLinkEnd_freeCtr (e : Nat) (a : EndState) : (s.setLinkEnd e a).freeCtr = s.freeCtr := rfl
@[simp] theorem setLinkEnd_nowNs (e : Nat) (a : EndState) : (s.setLinkEnd e a).nowNs = s.nowNs := rfl
@[simp] theorem setLinkEnd_beat (e : Nat) (a : EndState) : (s.setLinkEnd e a).beat = s.beat := rfl
@[simp] theorem setLinkEnd_prog (e : Nat) (a : EndState) : (s.setLinkEnd e a).prog = s.prog := rfl
@[simp] theorem setLinkEnd_mem (e : Nat) (a : EndState) : (s.setLinkEnd e a).mem = s.mem := rfl
@[simp] theorem setLinkEnd_ecc (e : Nat) (a : EndState) : (s.setLinkEnd e a).ecc = s.ecc := rfl
@[simp] theorem setLinkEnd_power (e : Nat) (a : EndState) : (s.setLinkEnd e a).power = s.power := rfl
@[simp] theorem setLinkEnd_therm (e : Nat) (a : EndState) : (s.setLinkEnd e a).therm = s.therm := rfl
@[simp] theorem setLinkEnd_hub (e : Nat) (a : EndState) : (s.setLinkEnd e a).hub = s.hub := rfl
@[simp] theorem setLinkEnd_mach (e : Nat) (a : EndState) : (s.setLinkEnd e a).mach = s.mach := rfl
@[simp] theorem setLinkEnd_settings (e : Nat) (a : EndState) : (s.setLinkEnd e a).settings = s.settings := rfl
@[simp] theorem setLinkEnd_image (e : Nat) (a : EndState) : (s.setLinkEnd e a).image = s.image := rfl
@[simp] theorem setLinkEnd_hubLog (e : Nat) (a : EndState) : (s.setLinkEnd e a).hubLog = s.hubLog := rfl
@[simp] theorem setLinkEnd_aoLog (e : Nat) (a : EndState) : (s.setLinkEnd e a).aoLog = s.aoLog := rfl
@[simp] theorem setLinkEnd_sched (e : Nat) (a : EndState) : (s.setLinkEnd e a).sched = s.sched := rfl
@[simp] theorem setLinkEnd_wall (e : Nat) (a : EndState) : (s.setLinkEnd e a).wall = s.wall := rfl
@[simp] theorem setLinkEnd_live (e : Nat) (a : EndState) : (s.setLinkEnd e a).live = s.live := rfl
@[simp] theorem setLinkEnd_pbeat (e : Nat) (a : EndState) : (s.setLinkEnd e a).pbeat = s.pbeat := rfl
@[simp] theorem setLinkEnd_runs (e : Nat) (a : EndState) : (s.setLinkEnd e a).runs = s.runs := rfl

/-! ### `setPort` -/

theorem setPort_port (f : Nat) (a : PortState) (j : Nat) : (s.setPort f a).port j = if j = f then a else s.port j := get_set _ _ _ _ _
@[simp] theorem setPort_port_same (f : Nat) (a : PortState) : (s.setPort f a).port f = a := get_set_same _ _ _ _
/-- Nothing but `ports` changes. -/
theorem setPort_frame (f : Nat) (a : PortState) : { s.setPort f a with ports := s.ports } = s := rfl
@[simp] theorem setPort_pending (f : Nat) (a : PortState) : (s.setPort f a).pending = s.pending := rfl
@[simp] theorem setPort_freeCtr (f : Nat) (a : PortState) : (s.setPort f a).freeCtr = s.freeCtr := rfl
@[simp] theorem setPort_nowNs (f : Nat) (a : PortState) : (s.setPort f a).nowNs = s.nowNs := rfl
@[simp] theorem setPort_beat (f : Nat) (a : PortState) : (s.setPort f a).beat = s.beat := rfl
@[simp] theorem setPort_prog (f : Nat) (a : PortState) : (s.setPort f a).prog = s.prog := rfl
@[simp] theorem setPort_mem (f : Nat) (a : PortState) : (s.setPort f a).mem = s.mem := rfl
@[simp] theorem setPort_ecc (f : Nat) (a : PortState) : (s.setPort f a).ecc = s.ecc := rfl
@[simp] theorem setPort_power (f : Nat) (a : PortState) : (s.setPort f a).power = s.power := rfl
@[simp] theorem setPort_therm (f : Nat) (a : PortState) : (s.setPort f a).therm = s.therm := rfl
@[simp] theorem setPort_hub (f : Nat) (a : PortState) : (s.setPort f a).hub = s.hub := rfl
@[simp] theorem setPort_mach (f : Nat) (a : PortState) : (s.setPort f a).mach = s.mach := rfl
@[simp] theorem setPort_settings (f : Nat) (a : PortState) : (s.setPort f a).settings = s.settings := rfl
@[simp] theorem setPort_image (f : Nat) (a : PortState) : (s.setPort f a).image = s.image := rfl
@[simp] theorem setPort_hubLog (f : Nat) (a : PortState) : (s.setPort f a).hubLog = s.hubLog := rfl
@[simp] theorem setPort_aoLog (f : Nat) (a : PortState) : (s.setPort f a).aoLog = s.aoLog := rfl
@[simp] theorem setPort_sched (f : Nat) (a : PortState) : (s.setPort f a).sched = s.sched := rfl
@[simp] theorem setPort_wall (f : Nat) (a : PortState) : (s.setPort f a).wall = s.wall := rfl
@[simp] theorem setPort_live (f : Nat) (a : PortState) : (s.setPort f a).live = s.live := rfl
@[simp] theorem setPort_pbeat (f : Nat) (a : PortState) : (s.setPort f a).pbeat = s.pbeat := rfl
@[simp] theorem setPort_runs (f : Nat) (a : PortState) : (s.setPort f a).runs = s.runs := rfl

/-! ### `setLaser` -/

theorem setLaser_laser (n : Nat) (a : LaserState) (j : Nat) : (s.setLaser n a).laser j = if j = n then a else s.laser j := get_set _ _ _ _ _
@[simp] theorem setLaser_laser_same (n : Nat) (a : LaserState) : (s.setLaser n a).laser n = a := get_set_same _ _ _ _
/-- Nothing but `lasers` changes. -/
theorem setLaser_frame (n : Nat) (a : LaserState) : { s.setLaser n a with lasers := s.lasers } = s := rfl
@[simp] theorem setLaser_pending (n : Nat) (a : LaserState) : (s.setLaser n a).pending = s.pending := rfl
@[simp] theorem setLaser_freeCtr (n : Nat) (a : LaserState) : (s.setLaser n a).freeCtr = s.freeCtr := rfl
@[simp] theorem setLaser_nowNs (n : Nat) (a : LaserState) : (s.setLaser n a).nowNs = s.nowNs := rfl
@[simp] theorem setLaser_beat (n : Nat) (a : LaserState) : (s.setLaser n a).beat = s.beat := rfl
@[simp] theorem setLaser_prog (n : Nat) (a : LaserState) : (s.setLaser n a).prog = s.prog := rfl
@[simp] theorem setLaser_mem (n : Nat) (a : LaserState) : (s.setLaser n a).mem = s.mem := rfl
@[simp] theorem setLaser_ecc (n : Nat) (a : LaserState) : (s.setLaser n a).ecc = s.ecc := rfl
@[simp] theorem setLaser_power (n : Nat) (a : LaserState) : (s.setLaser n a).power = s.power := rfl
@[simp] theorem setLaser_therm (n : Nat) (a : LaserState) : (s.setLaser n a).therm = s.therm := rfl
@[simp] theorem setLaser_hub (n : Nat) (a : LaserState) : (s.setLaser n a).hub = s.hub := rfl
@[simp] theorem setLaser_mach (n : Nat) (a : LaserState) : (s.setLaser n a).mach = s.mach := rfl
@[simp] theorem setLaser_settings (n : Nat) (a : LaserState) : (s.setLaser n a).settings = s.settings := rfl
@[simp] theorem setLaser_image (n : Nat) (a : LaserState) : (s.setLaser n a).image = s.image := rfl
@[simp] theorem setLaser_hubLog (n : Nat) (a : LaserState) : (s.setLaser n a).hubLog = s.hubLog := rfl
@[simp] theorem setLaser_aoLog (n : Nat) (a : LaserState) : (s.setLaser n a).aoLog = s.aoLog := rfl
@[simp] theorem setLaser_sched (n : Nat) (a : LaserState) : (s.setLaser n a).sched = s.sched := rfl
@[simp] theorem setLaser_wall (n : Nat) (a : LaserState) : (s.setLaser n a).wall = s.wall := rfl
@[simp] theorem setLaser_live (n : Nat) (a : LaserState) : (s.setLaser n a).live = s.live := rfl
@[simp] theorem setLaser_pbeat (n : Nat) (a : LaserState) : (s.setLaser n a).pbeat = s.pbeat := rfl
@[simp] theorem setLaser_runs (n : Nat) (a : LaserState) : (s.setLaser n a).runs = s.runs := rfl

/-! ### `setFab` -/

theorem setFab_fab (k : Nat) (a : FabState) (j : Nat) : (s.setFab k a).fab j = if j = k then a else s.fab j := get_set _ _ _ _ _
@[simp] theorem setFab_fab_same (k : Nat) (a : FabState) : (s.setFab k a).fab k = a := get_set_same _ _ _ _
/-- Nothing but `fabs` changes. -/
theorem setFab_frame (k : Nat) (a : FabState) : { s.setFab k a with fabs := s.fabs } = s := rfl
@[simp] theorem setFab_pending (k : Nat) (a : FabState) : (s.setFab k a).pending = s.pending := rfl
@[simp] theorem setFab_freeCtr (k : Nat) (a : FabState) : (s.setFab k a).freeCtr = s.freeCtr := rfl
@[simp] theorem setFab_nowNs (k : Nat) (a : FabState) : (s.setFab k a).nowNs = s.nowNs := rfl
@[simp] theorem setFab_beat (k : Nat) (a : FabState) : (s.setFab k a).beat = s.beat := rfl
@[simp] theorem setFab_prog (k : Nat) (a : FabState) : (s.setFab k a).prog = s.prog := rfl
@[simp] theorem setFab_mem (k : Nat) (a : FabState) : (s.setFab k a).mem = s.mem := rfl
@[simp] theorem setFab_ecc (k : Nat) (a : FabState) : (s.setFab k a).ecc = s.ecc := rfl
@[simp] theorem setFab_power (k : Nat) (a : FabState) : (s.setFab k a).power = s.power := rfl
@[simp] theorem setFab_therm (k : Nat) (a : FabState) : (s.setFab k a).therm = s.therm := rfl
@[simp] theorem setFab_hub (k : Nat) (a : FabState) : (s.setFab k a).hub = s.hub := rfl
@[simp] theorem setFab_mach (k : Nat) (a : FabState) : (s.setFab k a).mach = s.mach := rfl
@[simp] theorem setFab_settings (k : Nat) (a : FabState) : (s.setFab k a).settings = s.settings := rfl
@[simp] theorem setFab_image (k : Nat) (a : FabState) : (s.setFab k a).image = s.image := rfl
@[simp] theorem setFab_hubLog (k : Nat) (a : FabState) : (s.setFab k a).hubLog = s.hubLog := rfl
@[simp] theorem setFab_aoLog (k : Nat) (a : FabState) : (s.setFab k a).aoLog = s.aoLog := rfl
@[simp] theorem setFab_sched (k : Nat) (a : FabState) : (s.setFab k a).sched = s.sched := rfl
@[simp] theorem setFab_wall (k : Nat) (a : FabState) : (s.setFab k a).wall = s.wall := rfl
@[simp] theorem setFab_live (k : Nat) (a : FabState) : (s.setFab k a).live = s.live := rfl
@[simp] theorem setFab_pbeat (k : Nat) (a : FabState) : (s.setFab k a).pbeat = s.pbeat := rfl
@[simp] theorem setFab_runs (k : Nat) (a : FabState) : (s.setFab k a).runs = s.runs := rfl

/-! ### `setEngine` -/

theorem setEngine_engine (k : Nat) (a : EngineState) (j : Nat) : (s.setEngine k a).engine j = if j = k then a else s.engine j := get_set _ _ _ _ _
@[simp] theorem setEngine_engine_same (k : Nat) (a : EngineState) : (s.setEngine k a).engine k = a := get_set_same _ _ _ _
/-- Nothing but `engines` changes. -/
theorem setEngine_frame (k : Nat) (a : EngineState) : { s.setEngine k a with engines := s.engines } = s := rfl
@[simp] theorem setEngine_pending (k : Nat) (a : EngineState) : (s.setEngine k a).pending = s.pending := rfl
@[simp] theorem setEngine_freeCtr (k : Nat) (a : EngineState) : (s.setEngine k a).freeCtr = s.freeCtr := rfl
@[simp] theorem setEngine_nowNs (k : Nat) (a : EngineState) : (s.setEngine k a).nowNs = s.nowNs := rfl
@[simp] theorem setEngine_beat (k : Nat) (a : EngineState) : (s.setEngine k a).beat = s.beat := rfl
@[simp] theorem setEngine_prog (k : Nat) (a : EngineState) : (s.setEngine k a).prog = s.prog := rfl
@[simp] theorem setEngine_mem (k : Nat) (a : EngineState) : (s.setEngine k a).mem = s.mem := rfl
@[simp] theorem setEngine_ecc (k : Nat) (a : EngineState) : (s.setEngine k a).ecc = s.ecc := rfl
@[simp] theorem setEngine_power (k : Nat) (a : EngineState) : (s.setEngine k a).power = s.power := rfl
@[simp] theorem setEngine_therm (k : Nat) (a : EngineState) : (s.setEngine k a).therm = s.therm := rfl
@[simp] theorem setEngine_hub (k : Nat) (a : EngineState) : (s.setEngine k a).hub = s.hub := rfl
@[simp] theorem setEngine_mach (k : Nat) (a : EngineState) : (s.setEngine k a).mach = s.mach := rfl
@[simp] theorem setEngine_settings (k : Nat) (a : EngineState) : (s.setEngine k a).settings = s.settings := rfl
@[simp] theorem setEngine_image (k : Nat) (a : EngineState) : (s.setEngine k a).image = s.image := rfl
@[simp] theorem setEngine_hubLog (k : Nat) (a : EngineState) : (s.setEngine k a).hubLog = s.hubLog := rfl
@[simp] theorem setEngine_aoLog (k : Nat) (a : EngineState) : (s.setEngine k a).aoLog = s.aoLog := rfl
@[simp] theorem setEngine_sched (k : Nat) (a : EngineState) : (s.setEngine k a).sched = s.sched := rfl
@[simp] theorem setEngine_wall (k : Nat) (a : EngineState) : (s.setEngine k a).wall = s.wall := rfl
@[simp] theorem setEngine_live (k : Nat) (a : EngineState) : (s.setEngine k a).live = s.live := rfl
@[simp] theorem setEngine_pbeat (k : Nat) (a : EngineState) : (s.setEngine k a).pbeat = s.pbeat := rfl
@[simp] theorem setEngine_runs (k : Nat) (a : EngineState) : (s.setEngine k a).runs = s.runs := rfl

/-! ### `setMb` -/

theorem setMb_mb (m : Nat) (a : MailboxState) (j : Nat) : (s.setMb m a).mb j = if j = m then a else s.mb j := get_set _ _ _ _ _
@[simp] theorem setMb_mb_same (m : Nat) (a : MailboxState) : (s.setMb m a).mb m = a := get_set_same _ _ _ _
/-- Nothing but `mbs` changes. -/
theorem setMb_frame (m : Nat) (a : MailboxState) : { s.setMb m a with mbs := s.mbs } = s := rfl
@[simp] theorem setMb_pending (m : Nat) (a : MailboxState) : (s.setMb m a).pending = s.pending := rfl
@[simp] theorem setMb_freeCtr (m : Nat) (a : MailboxState) : (s.setMb m a).freeCtr = s.freeCtr := rfl
@[simp] theorem setMb_nowNs (m : Nat) (a : MailboxState) : (s.setMb m a).nowNs = s.nowNs := rfl
@[simp] theorem setMb_beat (m : Nat) (a : MailboxState) : (s.setMb m a).beat = s.beat := rfl
@[simp] theorem setMb_prog (m : Nat) (a : MailboxState) : (s.setMb m a).prog = s.prog := rfl
@[simp] theorem setMb_mem (m : Nat) (a : MailboxState) : (s.setMb m a).mem = s.mem := rfl
@[simp] theorem setMb_ecc (m : Nat) (a : MailboxState) : (s.setMb m a).ecc = s.ecc := rfl
@[simp] theorem setMb_power (m : Nat) (a : MailboxState) : (s.setMb m a).power = s.power := rfl
@[simp] theorem setMb_therm (m : Nat) (a : MailboxState) : (s.setMb m a).therm = s.therm := rfl
@[simp] theorem setMb_hub (m : Nat) (a : MailboxState) : (s.setMb m a).hub = s.hub := rfl
@[simp] theorem setMb_mach (m : Nat) (a : MailboxState) : (s.setMb m a).mach = s.mach := rfl
@[simp] theorem setMb_settings (m : Nat) (a : MailboxState) : (s.setMb m a).settings = s.settings := rfl
@[simp] theorem setMb_image (m : Nat) (a : MailboxState) : (s.setMb m a).image = s.image := rfl
@[simp] theorem setMb_hubLog (m : Nat) (a : MailboxState) : (s.setMb m a).hubLog = s.hubLog := rfl
@[simp] theorem setMb_aoLog (m : Nat) (a : MailboxState) : (s.setMb m a).aoLog = s.aoLog := rfl
@[simp] theorem setMb_sched (m : Nat) (a : MailboxState) : (s.setMb m a).sched = s.sched := rfl
@[simp] theorem setMb_wall (m : Nat) (a : MailboxState) : (s.setMb m a).wall = s.wall := rfl
@[simp] theorem setMb_live (m : Nat) (a : MailboxState) : (s.setMb m a).live = s.live := rfl
@[simp] theorem setMb_pbeat (m : Nat) (a : MailboxState) : (s.setMb m a).pbeat = s.pbeat := rfl
@[simp] theorem setMb_runs (m : Nat) (a : MailboxState) : (s.setMb m a).runs = s.runs := rfl

/-! ### `setDieCounters` -/

theorem setDieCounters_dieCounters (d : Nat) (a : DieCounters) (j : Nat) : (s.setDieCounters d a).dieCounters j = if j = d then a else s.dieCounters j := get_set _ _ _ _ _
@[simp] theorem setDieCounters_dieCounters_same (d : Nat) (a : DieCounters) : (s.setDieCounters d a).dieCounters d = a := get_set_same _ _ _ _
/-- Nothing but `counters` changes. -/
theorem setDieCounters_frame (d : Nat) (a : DieCounters) : { s.setDieCounters d a with counters := s.counters } = s := rfl
@[simp] theorem setDieCounters_pending (d : Nat) (a : DieCounters) : (s.setDieCounters d a).pending = s.pending := rfl
@[simp] theorem setDieCounters_freeCtr (d : Nat) (a : DieCounters) : (s.setDieCounters d a).freeCtr = s.freeCtr := rfl
@[simp] theorem setDieCounters_nowNs (d : Nat) (a : DieCounters) : (s.setDieCounters d a).nowNs = s.nowNs := rfl
@[simp] theorem setDieCounters_beat (d : Nat) (a : DieCounters) : (s.setDieCounters d a).beat = s.beat := rfl
@[simp] theorem setDieCounters_prog (d : Nat) (a : DieCounters) : (s.setDieCounters d a).prog = s.prog := rfl
@[simp] theorem setDieCounters_mem (d : Nat) (a : DieCounters) : (s.setDieCounters d a).mem = s.mem := rfl
@[simp] theorem setDieCounters_ecc (d : Nat) (a : DieCounters) : (s.setDieCounters d a).ecc = s.ecc := rfl
@[simp] theorem setDieCounters_power (d : Nat) (a : DieCounters) : (s.setDieCounters d a).power = s.power := rfl
@[simp] theorem setDieCounters_therm (d : Nat) (a : DieCounters) : (s.setDieCounters d a).therm = s.therm := rfl
@[simp] theorem setDieCounters_hub (d : Nat) (a : DieCounters) : (s.setDieCounters d a).hub = s.hub := rfl
@[simp] theorem setDieCounters_mach (d : Nat) (a : DieCounters) : (s.setDieCounters d a).mach = s.mach := rfl
@[simp] theorem setDieCounters_settings (d : Nat) (a : DieCounters) : (s.setDieCounters d a).settings = s.settings := rfl
@[simp] theorem setDieCounters_image (d : Nat) (a : DieCounters) : (s.setDieCounters d a).image = s.image := rfl
@[simp] theorem setDieCounters_hubLog (d : Nat) (a : DieCounters) : (s.setDieCounters d a).hubLog = s.hubLog := rfl
@[simp] theorem setDieCounters_aoLog (d : Nat) (a : DieCounters) : (s.setDieCounters d a).aoLog = s.aoLog := rfl
@[simp] theorem setDieCounters_sched (d : Nat) (a : DieCounters) : (s.setDieCounters d a).sched = s.sched := rfl
@[simp] theorem setDieCounters_wall (d : Nat) (a : DieCounters) : (s.setDieCounters d a).wall = s.wall := rfl
@[simp] theorem setDieCounters_live (d : Nat) (a : DieCounters) : (s.setDieCounters d a).live = s.live := rfl
@[simp] theorem setDieCounters_pbeat (d : Nat) (a : DieCounters) : (s.setDieCounters d a).pbeat = s.pbeat := rfl
@[simp] theorem setDieCounters_runs (d : Nat) (a : DieCounters) : (s.setDieCounters d a).runs = s.runs := rfl

/-! ### `setBeat` -/

@[simp] theorem setBeat_beat (b : BeatState) : (s.setBeat b).beat = b := rfl
/-- Nothing but `beat` changes. -/
theorem setBeat_frame (b : BeatState) : { s.setBeat b with beat := s.beat } = s := rfl
@[simp] theorem setBeat_pending (b : BeatState) : (s.setBeat b).pending = s.pending := rfl
@[simp] theorem setBeat_freeCtr (b : BeatState) : (s.setBeat b).freeCtr = s.freeCtr := rfl
@[simp] theorem setBeat_nowNs (b : BeatState) : (s.setBeat b).nowNs = s.nowNs := rfl
@[simp] theorem setBeat_prog (b : BeatState) : (s.setBeat b).prog = s.prog := rfl
@[simp] theorem setBeat_mem (b : BeatState) : (s.setBeat b).mem = s.mem := rfl
@[simp] theorem setBeat_ecc (b : BeatState) : (s.setBeat b).ecc = s.ecc := rfl
@[simp] theorem setBeat_power (b : BeatState) : (s.setBeat b).power = s.power := rfl
@[simp] theorem setBeat_therm (b : BeatState) : (s.setBeat b).therm = s.therm := rfl
@[simp] theorem setBeat_hub (b : BeatState) : (s.setBeat b).hub = s.hub := rfl
@[simp] theorem setBeat_mach (b : BeatState) : (s.setBeat b).mach = s.mach := rfl
@[simp] theorem setBeat_settings (b : BeatState) : (s.setBeat b).settings = s.settings := rfl
@[simp] theorem setBeat_image (b : BeatState) : (s.setBeat b).image = s.image := rfl
@[simp] theorem setBeat_hubLog (b : BeatState) : (s.setBeat b).hubLog = s.hubLog := rfl
@[simp] theorem setBeat_aoLog (b : BeatState) : (s.setBeat b).aoLog = s.aoLog := rfl
@[simp] theorem setBeat_array (b : BeatState) (j : Nat) : (s.setBeat b).array j = s.array j := rfl
@[simp] theorem setBeat_router (b : BeatState) (j : Nat) : (s.setBeat b).router j = s.router j := rfl
@[simp] theorem setBeat_crossing (b : BeatState) (j : Nat) : (s.setBeat b).crossing j = s.crossing j := rfl
@[simp] theorem setBeat_derailleur (b : BeatState) (j : Nat) : (s.setBeat b).derailleur j = s.derailleur j := rfl
@[simp] theorem setBeat_spoke (b : BeatState) (j : Nat) : (s.setBeat b).spoke j = s.spoke j := rfl
@[simp] theorem setBeat_vault (b : BeatState) (j : Nat) : (s.setBeat b).vault j = s.vault j := rfl
@[simp] theorem setBeat_dmem (b : BeatState) (j : Nat) : (s.setBeat b).dmem j = s.dmem j := rfl
@[simp] theorem setBeat_stk (b : BeatState) (j : Nat) : (s.setBeat b).stk j = s.stk j := rfl
@[simp] theorem setBeat_channel (b : BeatState) (j : Nat) : (s.setBeat b).channel j = s.channel j := rfl
@[simp] theorem setBeat_linkEnd (b : BeatState) (j : Nat) : (s.setBeat b).linkEnd j = s.linkEnd j := rfl
@[simp] theorem setBeat_port (b : BeatState) (j : Nat) : (s.setBeat b).port j = s.port j := rfl
@[simp] theorem setBeat_laser (b : BeatState) (j : Nat) : (s.setBeat b).laser j = s.laser j := rfl
@[simp] theorem setBeat_fab (b : BeatState) (j : Nat) : (s.setBeat b).fab j = s.fab j := rfl
@[simp] theorem setBeat_engine (b : BeatState) (j : Nat) : (s.setBeat b).engine j = s.engine j := rfl
@[simp] theorem setBeat_mb (b : BeatState) (j : Nat) : (s.setBeat b).mb j = s.mb j := rfl
@[simp] theorem setBeat_dieCounters (b : BeatState) (j : Nat) : (s.setBeat b).dieCounters j = s.dieCounters j := rfl

/-! ### `setProg` -/

@[simp] theorem setProg_prog (p : ProgramState) : (s.setProg p).prog = p := rfl
/-- Nothing but `prog` changes. -/
theorem setProg_frame (p : ProgramState) : { s.setProg p with prog := s.prog } = s := rfl
@[simp] theorem setProg_pending (p : ProgramState) : (s.setProg p).pending = s.pending := rfl
@[simp] theorem setProg_freeCtr (p : ProgramState) : (s.setProg p).freeCtr = s.freeCtr := rfl
@[simp] theorem setProg_nowNs (p : ProgramState) : (s.setProg p).nowNs = s.nowNs := rfl
@[simp] theorem setProg_beat (p : ProgramState) : (s.setProg p).beat = s.beat := rfl
@[simp] theorem setProg_mem (p : ProgramState) : (s.setProg p).mem = s.mem := rfl
@[simp] theorem setProg_ecc (p : ProgramState) : (s.setProg p).ecc = s.ecc := rfl
@[simp] theorem setProg_power (p : ProgramState) : (s.setProg p).power = s.power := rfl
@[simp] theorem setProg_therm (p : ProgramState) : (s.setProg p).therm = s.therm := rfl
@[simp] theorem setProg_hub (p : ProgramState) : (s.setProg p).hub = s.hub := rfl
@[simp] theorem setProg_mach (p : ProgramState) : (s.setProg p).mach = s.mach := rfl
@[simp] theorem setProg_settings (p : ProgramState) : (s.setProg p).settings = s.settings := rfl
@[simp] theorem setProg_image (p : ProgramState) : (s.setProg p).image = s.image := rfl
@[simp] theorem setProg_hubLog (p : ProgramState) : (s.setProg p).hubLog = s.hubLog := rfl
@[simp] theorem setProg_aoLog (p : ProgramState) : (s.setProg p).aoLog = s.aoLog := rfl

/-! ### `setHub` -/

@[simp] theorem setHub_hub (h : HubState) : (s.setHub h).hub = h := rfl
/-- Nothing but `hub` changes. -/
theorem setHub_frame (h : HubState) : { s.setHub h with hub := s.hub } = s := rfl
@[simp] theorem setHub_pending (h : HubState) : (s.setHub h).pending = s.pending := rfl
@[simp] theorem setHub_freeCtr (h : HubState) : (s.setHub h).freeCtr = s.freeCtr := rfl
@[simp] theorem setHub_nowNs (h : HubState) : (s.setHub h).nowNs = s.nowNs := rfl
@[simp] theorem setHub_beat (h : HubState) : (s.setHub h).beat = s.beat := rfl
@[simp] theorem setHub_prog (h : HubState) : (s.setHub h).prog = s.prog := rfl
@[simp] theorem setHub_mem (h : HubState) : (s.setHub h).mem = s.mem := rfl
@[simp] theorem setHub_ecc (h : HubState) : (s.setHub h).ecc = s.ecc := rfl
@[simp] theorem setHub_power (h : HubState) : (s.setHub h).power = s.power := rfl
@[simp] theorem setHub_therm (h : HubState) : (s.setHub h).therm = s.therm := rfl
@[simp] theorem setHub_mach (h : HubState) : (s.setHub h).mach = s.mach := rfl
@[simp] theorem setHub_settings (h : HubState) : (s.setHub h).settings = s.settings := rfl
@[simp] theorem setHub_image (h : HubState) : (s.setHub h).image = s.image := rfl
@[simp] theorem setHub_hubLog (h : HubState) : (s.setHub h).hubLog = s.hubLog := rfl
@[simp] theorem setHub_aoLog (h : HubState) : (s.setHub h).aoLog = s.aoLog := rfl
@[simp] theorem setHub_sched (h : HubState) : (s.setHub h).sched = s.sched := rfl
@[simp] theorem setHub_wall (h : HubState) : (s.setHub h).wall = s.wall := rfl
@[simp] theorem setHub_live (h : HubState) : (s.setHub h).live = s.live := rfl
@[simp] theorem setHub_pbeat (h : HubState) : (s.setHub h).pbeat = s.pbeat := rfl
@[simp] theorem setHub_runs (h : HubState) : (s.setHub h).runs = s.runs := rfl

/-! ### `setMach` -/

@[simp] theorem setMach_mach (m : MachState) : (s.setMach m).mach = m := rfl
/-- Nothing but `mach` changes. -/
theorem setMach_frame (m : MachState) : { s.setMach m with mach := s.mach } = s := rfl
@[simp] theorem setMach_pending (m : MachState) : (s.setMach m).pending = s.pending := rfl
@[simp] theorem setMach_freeCtr (m : MachState) : (s.setMach m).freeCtr = s.freeCtr := rfl
@[simp] theorem setMach_nowNs (m : MachState) : (s.setMach m).nowNs = s.nowNs := rfl
@[simp] theorem setMach_beat (m : MachState) : (s.setMach m).beat = s.beat := rfl
@[simp] theorem setMach_prog (m : MachState) : (s.setMach m).prog = s.prog := rfl
@[simp] theorem setMach_mem (m : MachState) : (s.setMach m).mem = s.mem := rfl
@[simp] theorem setMach_ecc (m : MachState) : (s.setMach m).ecc = s.ecc := rfl
@[simp] theorem setMach_power (m : MachState) : (s.setMach m).power = s.power := rfl
@[simp] theorem setMach_therm (m : MachState) : (s.setMach m).therm = s.therm := rfl
@[simp] theorem setMach_hub (m : MachState) : (s.setMach m).hub = s.hub := rfl
@[simp] theorem setMach_settings (m : MachState) : (s.setMach m).settings = s.settings := rfl
@[simp] theorem setMach_image (m : MachState) : (s.setMach m).image = s.image := rfl
@[simp] theorem setMach_hubLog (m : MachState) : (s.setMach m).hubLog = s.hubLog := rfl
@[simp] theorem setMach_aoLog (m : MachState) : (s.setMach m).aoLog = s.aoLog := rfl
@[simp] theorem setMach_sched (m : MachState) : (s.setMach m).sched = s.sched := rfl
@[simp] theorem setMach_wall (m : MachState) : (s.setMach m).wall = s.wall := rfl
@[simp] theorem setMach_live (m : MachState) : (s.setMach m).live = s.live := rfl
@[simp] theorem setMach_pbeat (m : MachState) : (s.setMach m).pbeat = s.pbeat := rfl
@[simp] theorem setMach_runs (m : MachState) : (s.setMach m).runs = s.runs := rfl

/-! ### `setPower` -/

@[simp] theorem setPower_power (p : PowerState) : (s.setPower p).power = p := rfl
/-- Nothing but `power` changes. -/
theorem setPower_frame (p : PowerState) : { s.setPower p with power := s.power } = s := rfl
@[simp] theorem setPower_pending (p : PowerState) : (s.setPower p).pending = s.pending := rfl
@[simp] theorem setPower_freeCtr (p : PowerState) : (s.setPower p).freeCtr = s.freeCtr := rfl
@[simp] theorem setPower_nowNs (p : PowerState) : (s.setPower p).nowNs = s.nowNs := rfl
@[simp] theorem setPower_beat (p : PowerState) : (s.setPower p).beat = s.beat := rfl
@[simp] theorem setPower_prog (p : PowerState) : (s.setPower p).prog = s.prog := rfl
@[simp] theorem setPower_mem (p : PowerState) : (s.setPower p).mem = s.mem := rfl
@[simp] theorem setPower_ecc (p : PowerState) : (s.setPower p).ecc = s.ecc := rfl
@[simp] theorem setPower_therm (p : PowerState) : (s.setPower p).therm = s.therm := rfl
@[simp] theorem setPower_hub (p : PowerState) : (s.setPower p).hub = s.hub := rfl
@[simp] theorem setPower_mach (p : PowerState) : (s.setPower p).mach = s.mach := rfl
@[simp] theorem setPower_settings (p : PowerState) : (s.setPower p).settings = s.settings := rfl
@[simp] theorem setPower_image (p : PowerState) : (s.setPower p).image = s.image := rfl
@[simp] theorem setPower_hubLog (p : PowerState) : (s.setPower p).hubLog = s.hubLog := rfl
@[simp] theorem setPower_aoLog (p : PowerState) : (s.setPower p).aoLog = s.aoLog := rfl
@[simp] theorem setPower_sched (p : PowerState) : (s.setPower p).sched = s.sched := rfl
@[simp] theorem setPower_wall (p : PowerState) : (s.setPower p).wall = s.wall := rfl
@[simp] theorem setPower_live (p : PowerState) : (s.setPower p).live = s.live := rfl
@[simp] theorem setPower_pbeat (p : PowerState) : (s.setPower p).pbeat = s.pbeat := rfl
@[simp] theorem setPower_runs (p : PowerState) : (s.setPower p).runs = s.runs := rfl

/-! ### `setTherm` -/

@[simp] theorem setTherm_therm (t : ThermState) : (s.setTherm t).therm = t := rfl
/-- Nothing but `therm` changes. -/
theorem setTherm_frame (t : ThermState) : { s.setTherm t with therm := s.therm } = s := rfl
@[simp] theorem setTherm_pending (t : ThermState) : (s.setTherm t).pending = s.pending := rfl
@[simp] theorem setTherm_freeCtr (t : ThermState) : (s.setTherm t).freeCtr = s.freeCtr := rfl
@[simp] theorem setTherm_nowNs (t : ThermState) : (s.setTherm t).nowNs = s.nowNs := rfl
@[simp] theorem setTherm_beat (t : ThermState) : (s.setTherm t).beat = s.beat := rfl
@[simp] theorem setTherm_prog (t : ThermState) : (s.setTherm t).prog = s.prog := rfl
@[simp] theorem setTherm_mem (t : ThermState) : (s.setTherm t).mem = s.mem := rfl
@[simp] theorem setTherm_ecc (t : ThermState) : (s.setTherm t).ecc = s.ecc := rfl
@[simp] theorem setTherm_power (t : ThermState) : (s.setTherm t).power = s.power := rfl
@[simp] theorem setTherm_hub (t : ThermState) : (s.setTherm t).hub = s.hub := rfl
@[simp] theorem setTherm_mach (t : ThermState) : (s.setTherm t).mach = s.mach := rfl
@[simp] theorem setTherm_settings (t : ThermState) : (s.setTherm t).settings = s.settings := rfl
@[simp] theorem setTherm_image (t : ThermState) : (s.setTherm t).image = s.image := rfl
@[simp] theorem setTherm_hubLog (t : ThermState) : (s.setTherm t).hubLog = s.hubLog := rfl
@[simp] theorem setTherm_aoLog (t : ThermState) : (s.setTherm t).aoLog = s.aoLog := rfl
@[simp] theorem setTherm_sched (t : ThermState) : (s.setTherm t).sched = s.sched := rfl
@[simp] theorem setTherm_wall (t : ThermState) : (s.setTherm t).wall = s.wall := rfl
@[simp] theorem setTherm_live (t : ThermState) : (s.setTherm t).live = s.live := rfl
@[simp] theorem setTherm_pbeat (t : ThermState) : (s.setTherm t).pbeat = s.pbeat := rfl
@[simp] theorem setTherm_runs (t : ThermState) : (s.setTherm t).runs = s.runs := rfl

/-! ### `setTap` -/

@[simp] theorem setTap_tap (t : TapState) : (s.setTap t).tap = t := rfl
/-- Nothing but `tap` changes. -/
theorem setTap_frame (t : TapState) : { s.setTap t with tap := s.tap } = s := rfl
@[simp] theorem setTap_pending (t : TapState) : (s.setTap t).pending = s.pending := rfl
@[simp] theorem setTap_freeCtr (t : TapState) : (s.setTap t).freeCtr = s.freeCtr := rfl
@[simp] theorem setTap_nowNs (t : TapState) : (s.setTap t).nowNs = s.nowNs := rfl
@[simp] theorem setTap_beat (t : TapState) : (s.setTap t).beat = s.beat := rfl
@[simp] theorem setTap_prog (t : TapState) : (s.setTap t).prog = s.prog := rfl
@[simp] theorem setTap_mem (t : TapState) : (s.setTap t).mem = s.mem := rfl
@[simp] theorem setTap_ecc (t : TapState) : (s.setTap t).ecc = s.ecc := rfl
@[simp] theorem setTap_power (t : TapState) : (s.setTap t).power = s.power := rfl
@[simp] theorem setTap_therm (t : TapState) : (s.setTap t).therm = s.therm := rfl
@[simp] theorem setTap_hub (t : TapState) : (s.setTap t).hub = s.hub := rfl
@[simp] theorem setTap_mach (t : TapState) : (s.setTap t).mach = s.mach := rfl
@[simp] theorem setTap_settings (t : TapState) : (s.setTap t).settings = s.settings := rfl
@[simp] theorem setTap_image (t : TapState) : (s.setTap t).image = s.image := rfl
@[simp] theorem setTap_hubLog (t : TapState) : (s.setTap t).hubLog = s.hubLog := rfl
@[simp] theorem setTap_aoLog (t : TapState) : (s.setTap t).aoLog = s.aoLog := rfl
@[simp] theorem setTap_sched (t : TapState) : (s.setTap t).sched = s.sched := rfl
@[simp] theorem setTap_wall (t : TapState) : (s.setTap t).wall = s.wall := rfl
@[simp] theorem setTap_live (t : TapState) : (s.setTap t).live = s.live := rfl
@[simp] theorem setTap_pbeat (t : TapState) : (s.setTap t).pbeat = s.pbeat := rfl
@[simp] theorem setTap_runs (t : TapState) : (s.setTap t).runs = s.runs := rfl

/-! ### `setMem` -/

@[simp] theorem setMem_mem (m : List Host.Cell) : (s.setMem m).mem = m := rfl
/-- Nothing but `mem` changes. -/
theorem setMem_frame (m : List Host.Cell) : { s.setMem m with mem := s.mem } = s := rfl
@[simp] theorem setMem_pending (m : List Host.Cell) : (s.setMem m).pending = s.pending := rfl
@[simp] theorem setMem_freeCtr (m : List Host.Cell) : (s.setMem m).freeCtr = s.freeCtr := rfl
@[simp] theorem setMem_nowNs (m : List Host.Cell) : (s.setMem m).nowNs = s.nowNs := rfl
@[simp] theorem setMem_beat (m : List Host.Cell) : (s.setMem m).beat = s.beat := rfl
@[simp] theorem setMem_prog (m : List Host.Cell) : (s.setMem m).prog = s.prog := rfl
@[simp] theorem setMem_ecc (m : List Host.Cell) : (s.setMem m).ecc = s.ecc := rfl
@[simp] theorem setMem_power (m : List Host.Cell) : (s.setMem m).power = s.power := rfl
@[simp] theorem setMem_therm (m : List Host.Cell) : (s.setMem m).therm = s.therm := rfl
@[simp] theorem setMem_hub (m : List Host.Cell) : (s.setMem m).hub = s.hub := rfl
@[simp] theorem setMem_mach (m : List Host.Cell) : (s.setMem m).mach = s.mach := rfl
@[simp] theorem setMem_settings (m : List Host.Cell) : (s.setMem m).settings = s.settings := rfl
@[simp] theorem setMem_image (m : List Host.Cell) : (s.setMem m).image = s.image := rfl
@[simp] theorem setMem_hubLog (m : List Host.Cell) : (s.setMem m).hubLog = s.hubLog := rfl
@[simp] theorem setMem_aoLog (m : List Host.Cell) : (s.setMem m).aoLog = s.aoLog := rfl
@[simp] theorem setMem_sched (m : List Host.Cell) : (s.setMem m).sched = s.sched := rfl
@[simp] theorem setMem_wall (m : List Host.Cell) : (s.setMem m).wall = s.wall := rfl
@[simp] theorem setMem_live (m : List Host.Cell) : (s.setMem m).live = s.live := rfl
@[simp] theorem setMem_pbeat (m : List Host.Cell) : (s.setMem m).pbeat = s.pbeat := rfl
@[simp] theorem setMem_runs (m : List Host.Cell) : (s.setMem m).runs = s.runs := rfl
@[simp] theorem setMem_array (m : List Host.Cell) (j : Nat) : (s.setMem m).array j = s.array j := rfl
@[simp] theorem setMem_router (m : List Host.Cell) (j : Nat) : (s.setMem m).router j = s.router j := rfl
@[simp] theorem setMem_crossing (m : List Host.Cell) (j : Nat) : (s.setMem m).crossing j = s.crossing j := rfl
@[simp] theorem setMem_derailleur (m : List Host.Cell) (j : Nat) : (s.setMem m).derailleur j = s.derailleur j := rfl
@[simp] theorem setMem_spoke (m : List Host.Cell) (j : Nat) : (s.setMem m).spoke j = s.spoke j := rfl
@[simp] theorem setMem_vault (m : List Host.Cell) (j : Nat) : (s.setMem m).vault j = s.vault j := rfl
@[simp] theorem setMem_dmem (m : List Host.Cell) (j : Nat) : (s.setMem m).dmem j = s.dmem j := rfl
@[simp] theorem setMem_stk (m : List Host.Cell) (j : Nat) : (s.setMem m).stk j = s.stk j := rfl
@[simp] theorem setMem_channel (m : List Host.Cell) (j : Nat) : (s.setMem m).channel j = s.channel j := rfl
@[simp] theorem setMem_linkEnd (m : List Host.Cell) (j : Nat) : (s.setMem m).linkEnd j = s.linkEnd j := rfl
@[simp] theorem setMem_port (m : List Host.Cell) (j : Nat) : (s.setMem m).port j = s.port j := rfl
@[simp] theorem setMem_laser (m : List Host.Cell) (j : Nat) : (s.setMem m).laser j = s.laser j := rfl
@[simp] theorem setMem_fab (m : List Host.Cell) (j : Nat) : (s.setMem m).fab j = s.fab j := rfl
@[simp] theorem setMem_engine (m : List Host.Cell) (j : Nat) : (s.setMem m).engine j = s.engine j := rfl
@[simp] theorem setMem_mb (m : List Host.Cell) (j : Nat) : (s.setMem m).mb j = s.mb j := rfl
@[simp] theorem setMem_dieCounters (m : List Host.Cell) (j : Nat) : (s.setMem m).dieCounters j = s.dieCounters j := rfl

/-! ### `setEcc` -/

@[simp] theorem setEcc_ecc (e : SMap EccMark) : (s.setEcc e).ecc = e := rfl
/-- Nothing but `ecc` changes. -/
theorem setEcc_frame (e : SMap EccMark) : { s.setEcc e with ecc := s.ecc } = s := rfl
@[simp] theorem setEcc_pending (e : SMap EccMark) : (s.setEcc e).pending = s.pending := rfl
@[simp] theorem setEcc_freeCtr (e : SMap EccMark) : (s.setEcc e).freeCtr = s.freeCtr := rfl
@[simp] theorem setEcc_nowNs (e : SMap EccMark) : (s.setEcc e).nowNs = s.nowNs := rfl
@[simp] theorem setEcc_beat (e : SMap EccMark) : (s.setEcc e).beat = s.beat := rfl
@[simp] theorem setEcc_prog (e : SMap EccMark) : (s.setEcc e).prog = s.prog := rfl
@[simp] theorem setEcc_mem (e : SMap EccMark) : (s.setEcc e).mem = s.mem := rfl
@[simp] theorem setEcc_power (e : SMap EccMark) : (s.setEcc e).power = s.power := rfl
@[simp] theorem setEcc_therm (e : SMap EccMark) : (s.setEcc e).therm = s.therm := rfl
@[simp] theorem setEcc_hub (e : SMap EccMark) : (s.setEcc e).hub = s.hub := rfl
@[simp] theorem setEcc_mach (e : SMap EccMark) : (s.setEcc e).mach = s.mach := rfl
@[simp] theorem setEcc_settings (e : SMap EccMark) : (s.setEcc e).settings = s.settings := rfl
@[simp] theorem setEcc_image (e : SMap EccMark) : (s.setEcc e).image = s.image := rfl
@[simp] theorem setEcc_hubLog (e : SMap EccMark) : (s.setEcc e).hubLog = s.hubLog := rfl
@[simp] theorem setEcc_aoLog (e : SMap EccMark) : (s.setEcc e).aoLog = s.aoLog := rfl
@[simp] theorem setEcc_sched (e : SMap EccMark) : (s.setEcc e).sched = s.sched := rfl
@[simp] theorem setEcc_wall (e : SMap EccMark) : (s.setEcc e).wall = s.wall := rfl
@[simp] theorem setEcc_live (e : SMap EccMark) : (s.setEcc e).live = s.live := rfl
@[simp] theorem setEcc_pbeat (e : SMap EccMark) : (s.setEcc e).pbeat = s.pbeat := rfl
@[simp] theorem setEcc_runs (e : SMap EccMark) : (s.setEcc e).runs = s.runs := rfl

end Sys2Proof.Laws
end

