-- ==== Sys2Proof/Laws/Memory.lean ====
section
/-! SUPPORT. Laws of memory: what each operation stores, what it leaves alone, and that it keeps the canonical form. -/

namespace Sys2Proof.Laws

open Sys2Proof Sys2Proof.Machine

variable (s : State)

/-- Nothing but memory, its marks and the counts of its checks differs. -/
def MemOnly (s t : State) : Prop := { t with mem := s.mem, ecc := s.ecc, dieMem := s.dieMem, memStacks := s.memStacks } = s

theorem memOnly_refl : MemOnly s s := rfl

theorem memOnly_trans {s t u : State} (h : MemOnly s t) (k : MemOnly t u) : MemOnly s u := by
  unfold MemOnly at *
  rw [← h, ← k]

/-- An operation on memory leaves every array as it was. -/
theorem memOnly_array {s t : State} (h : MemOnly s t) (m : Nat) : t.array m = s.array m := by
  unfold MemOnly at h
  conv_rhs => rw [← h]
  rfl

/-! ### Single bytes -/

theorem putByte_byte (a : Nat) (b : Byte) (x : Nat) : (s.putByte a b).byte x = if x = a then b else s.byte x := get_set _ _ _ _ _

theorem putByte_frame (a : Nat) (b : Byte) : { s.putByte a b with mem := s.mem } = s := rfl

theorem putByte_memOk (a : Nat) (b : Byte) (h : s.memOk = true) : (s.putByte a b).memOk = true := wf_set _ _ _ _ h

theorem putBytes_byte (bs : List Byte) : ∀ (s : State) (a x : Nat),
    (s.putBytes a bs).byte x = if a ≤ x then (bs[x - a]?).getD (s.byte x) else s.byte x := by
  induction bs with
  | nil => intro s a x; simp [State.putBytes]
  | cons b bs ih =>
    intro s a x
    simp only [State.putBytes, ih, putByte_byte]
    by_cases h : x = a
    · subst h; simp
    · by_cases h1 : a ≤ x
      · have h2 : a + 1 ≤ x := by omega
        have h3 : x - a = x - (a + 1) + 1 := by omega
        rw [if_pos h2, if_pos h1, h3, List.getElem?_cons_succ, if_neg h]
      · have h2 : ¬a + 1 ≤ x := by omega
        simp [h1, h2, h]

theorem putBytes_frame (bs : List Byte) : ∀ (s : State) (a : Nat), { s.putBytes a bs with mem := s.mem } = s := by
  induction bs with
  | nil => intro s a; rfl
  | cons b bs ih =>
    intro s a
    have h := ih (s.putByte a b) (a + 1)
    simp only [State.putBytes]
    have h2 := congrArg (fun u : State => { u with mem := s.mem }) h
    exact h2

theorem putBytes_memOk (bs : List Byte) : ∀ (s : State) (a : Nat), s.memOk = true → (s.putBytes a bs).memOk = true := by
  induction bs with
  | nil => intro s a h; exact h
  | cons b bs ih => intro s a h; exact ih _ _ (putByte_memOk s a b h)

/-- A run of bytes is stored, and no other byte changes. -/
theorem putBytes_wrote (a : Nat) (bs : List Byte) : Wrote s (s.putBytes a bs) a bs := by
  refine ⟨fun i b h => ?_, fun x hx => ?_⟩
  · rw [putBytes_byte]; simp [h]
  · rw [putBytes_byte]
    split
    · rw [List.getElem?_eq_none (by omega)]; rfl
    · rfl

/-! ### Marks and checks -/

@[simp] theorem setMark_mem (a : Nat) (m : Option EccMark) : (s.setMark a m).mem = s.mem := rfl
@[simp] theorem setMark_byte (a : Nat) (m : Option EccMark) (x : Nat) : (s.setMark a m).byte x = s.byte x := rfl
theorem setMark_frame (a : Nat) (m : Option EccMark) : { s.setMark a m with ecc := s.ecc } = s := rfl
theorem setMark_memOnly (a : Nat) (m : Option EccMark) : MemOnly s (s.setMark a m) := rfl

/-- The mark that was set is read back for its word, and every other word keeps its mark. -/
theorem setMark_mark (a x : Nat) (m : Option EccMark) (hm : m ≠ some .good) :
    (s.setMark a m).mark x = if x / 8 = a / 8 then m else s.mark x := by
  have hl : ∀ k : SMap EccMark, (s.setEcc k).lostAt x = s.lostAt x := fun _ => rfl
  have hw : x / 8 = a / 8 → s.lostAt x = s.lostAt a := by
    intro h
    have h1 : x / 0x800000000 = a / 0x800000000 := by omega
    have h2 : (x < 0x4000000000) = (a < 0x4000000000) := by simp only [eq_iff_iff]; omega
    simp only [State.lostAt, h1, h2]
  unfold State.setMark State.mark
  simp only [hl]
  by_cases hx : x / 8 = a / 8
  · rw [if_pos hx, hx, hw hx]
    cases m with
    | none => cases s.lostAt a <;> simp [State.setEcc, get?_erase, get?_insert]
    | some e => cases e <;> cases s.lostAt a <;> simp_all [State.setEcc, get?_erase, get?_insert]
  · rw [if_neg hx]
    have e : ∀ v, SMap.get? (if v = (if s.lostAt a = true then EccMark.poison else .good) then SMap.erase s.ecc (a / 8)
        else SMap.insert s.ecc (a / 8) v) (x / 8) = SMap.get? s.ecc (x / 8) := by
      intro v; split_ifs <;> simp [get?_erase, get?_insert, hx]
    show (match SMap.get? (if m.getD .good = (if s.lostAt a = true then EccMark.poison else .good) then SMap.erase s.ecc (a / 8)
        else SMap.insert s.ecc (a / 8) (m.getD .good)) (x / 8) with
      | some .good => none | some m => some m | none => if s.lostAt x then some .poison else none) = _
    rw [e]
    try rfl

theorem countCe_memOnly (r : Region) : MemOnly s (s.countCe r) := by cases r <;> rfl
theorem countUe_memOnly (r : Region) (o i : Nat) : MemOnly s (s.countUe r o i) := by cases r <;> rfl
@[simp] theorem countCe_mem (r : Region) : (s.countCe r).mem = s.mem := by cases r <;> rfl
@[simp] theorem countUe_mem (r : Region) (o i : Nat) : (s.countUe r o i).mem = s.mem := by cases r <;> rfl

/-- A check of a word stores nothing; it delivers the word poisoned, and counts, as its mark says. -/
theorem checkWord_memOnly (a : Nat) : MemOnly s (s.checkWord a).2 := by
  unfold State.checkWord
  split <;> first | exact memOnly_refl s | exact countCe_memOnly s _ | exact countUe_memOnly s _ _ _

@[simp] theorem checkWord_mem (a : Nat) : (s.checkWord a).2.mem = s.mem := by
  unfold State.checkWord
  split <;> simp

/-- A word with no mark is delivered clean, and nothing is counted. -/
theorem checkWord_unmarked (a : Nat) (h : s.mark a = none) : s.checkWord a = (false, s) := by
  unfold State.checkWord
  rw [h]

/-! ### Reads -/

theorem readMemF_memOnly : ∀ (fuel : Nat) (s : State) (a n : Nat), MemOnly s (State.readMemF fuel s a n).2 := by
  intro fuel
  induction fuel with
  | zero => intro s a n; exact memOnly_refl s
  | succ fuel ih =>
    intro s a n
    simp only [State.readMemF, State.readWord]
    split
    · exact memOnly_refl s
    · exact memOnly_trans (checkWord_memOnly s a) (ih _ _ _)

theorem readMemF_mem : ∀ (fuel : Nat) (s : State) (a n : Nat), (State.readMemF fuel s a n).2.mem = s.mem := by
  intro fuel
  induction fuel with
  | zero => intro s a n; rfl
  | succ fuel ih =>
    intro s a n
    simp only [State.readMemF, State.readWord]
    split
    · rfl
    · rw [ih]; exact checkWord_mem s a

/-- A read stores nothing. -/
@[simp] theorem readMem_mem (a n : Nat) : (s.readMem a n).2.mem = s.mem := readMemF_mem _ _ _ _
theorem readMem_memOnly (a n : Nat) : MemOnly s (s.readMem a n).2 := readMemF_memOnly _ _ _ _

theorem readMemF_unmarked : ∀ (fuel : Nat) (s : State) (a n : Nat), s.unmarked → n ≤ 8 * fuel - (if fuel = 0 then 0 else a % 8) →
    State.readMemF fuel s a n = ((s.bytes a n).map fun b => (b, false), s) := by
  intro fuel
  induction fuel with
  | zero => intro s a n _ h; have : n = 0 := by omega
            subst this; rfl
  | succ fuel ih =>
    intro s a n hu h
    simp only [State.readMemF, State.readWord, checkWord_unmarked s a (hu a).1]
    split
    · rename_i h0; subst h0; rfl
    · rename_i h0
      rw [if_neg (Nat.succ_ne_zero fuel)] at h
      have hb : n - min n (8 - a % 8) ≤ 8 * fuel - (if fuel = 0 then 0 else (a + min n (8 - a % 8)) % 8) := by
        by_cases hk : n ≤ 8 - a % 8
        · simp [Nat.min_eq_left hk]
        · have : min n (8 - a % 8) = 8 - a % 8 := by omega
          rw [this]
          split <;> omega
      rw [ih s _ _ hu hb]
      simp only [State.bytes, Prod.mk.injEq, and_true, List.map_map]
      have hsplit : n = min n (8 - a % 8) + (n - min n (8 - a % 8)) := by omega
      conv_rhs => rw [hsplit, List.range_add, List.map_append, List.map_map]
      simp [Function.comp_def, Nat.add_assoc]

/-- A read of unmarked memory gives the bytes as they stand, and changes nothing. -/
theorem readMem_unmarked (a n : Nat) (h : s.unmarked) : s.readMem a n = ((s.bytes a n).map fun b => (b, false), s) := by
  refine readMemF_unmarked _ _ _ _ h ?_
  rw [if_neg (by omega)]
  omega

/-! ### The start of the beat (R26) -/

theorem keepStart_memOnly : { s.keepStart with beatMem := s.beatMem } = s := by
  unfold State.keepStart
  split
  · rfl
  · split <;> rfl

@[simp] theorem keepStart_mem : s.keepStart.mem = s.mem := by rw [← congrArg State.mem (keepStart_memOnly s)]

/-- What the start of the beat held is the same however often one asks. -/
@[simp] theorem atStart_atStart : s.atStart.atStart = s.atStart := by
  have h : ∀ x, s.beatMem = x → s.atStart.atStart = s.atStart := by
    intro x hx
    cases x with
    | none => simp only [State.atStart, hx]
    | some x => simp only [State.atStart, hx]
  exact h _ rfl

theorem atStart_unmarked (h : s.unmarked) : s.atStart.unmarked := fun a => ⟨(h a).2, by rw [atStart_atStart]; exact (h a).2⟩

/-- A read in the beat domain stores nothing; of unmarked memory it gives what the beat began with, and changes nothing. -/
theorem readStart_memOnly (a n : Nat) : MemOnly s (s.readStart a n).2 := by
  have h := readMem_memOnly s.atStart a n
  unfold MemOnly State.readStart at *
  unfold State.atStart at *
  split at h <;> exact congrArg (fun u : State => { u with mem := s.mem, ecc := s.ecc }) h

@[simp] theorem readStart_mem (a n : Nat) : (s.readStart a n).2.mem = s.mem := rfl

theorem atStart_restore : { s.atStart with mem := s.mem, ecc := s.ecc } = s := by
  unfold State.atStart
  split <;> rfl

theorem readStart_unmarked (a n : Nat) (h : s.unmarked) : s.readStart a n = ((s.atStart.bytes a n).map fun b => (b, false), s) := by
  unfold State.readStart
  simp only [readMem_unmarked _ a n (atStart_unmarked s h), atStart_restore]

/-- A fetch stores nothing, and of unmarked memory changes nothing at all. -/
theorem countFetch_memOnly (a n : Nat) : MemOnly s (s.countFetch a n) := readStart_memOnly s a n
theorem countFetch_unmarked (a n : Nat) (h : s.unmarked) : s.countFetch a n = s := by
  unfold State.countFetch
  rw [readStart_unmarked s a n h]

/-! ### Writes -/

theorem writeWord_memOnly (a : Nat) (bs : List (Byte × Bool)) : MemOnly s (s.writeWord a bs) := by
  unfold State.writeWord
  have hp : ∀ u : State, MemOnly s u → ∀ l, MemOnly s (u.putBytes a l) := by
    intro u hu l
    refine memOnly_trans hu ?_
    have h := putBytes_frame l u a
    unfold MemOnly
    exact congrArg (fun v : State => { v with ecc := u.ecc, dieMem := u.dieMem, memStacks := u.memStacks }) h
  apply hp
  split
  · exact setMark_memOnly s _ _
  · exact memOnly_trans (checkWord_memOnly s a) (setMark_memOnly _ _ _)

theorem writeWord_byte (a : Nat) (bs : List (Byte × Bool)) (x : Nat) :
    (s.writeWord a bs).byte x = if a ≤ x then ((bs.map (·.1))[x - a]?).getD (s.byte x) else s.byte x := by
  unfold State.writeWord
  rw [putBytes_byte]
  have h : ∀ y, (if bs.length = 8 then s.setMark a (if (bs.any (·.2)) = true then some .poison else none)
      else (s.checkWord a).2.setMark a (if ((s.checkWord a).1 || bs.any (·.2)) = true then some .poison else none)).byte y = s.byte y := by
    intro y
    split
    · rfl
    · simp only [setMark_byte]; unfold State.byte; rw [checkWord_mem]
  simp only [h]

theorem writeWord_memOk (a : Nat) (bs : List (Byte × Bool)) (h : s.memOk = true) : (s.writeWord a bs).memOk = true := by
  unfold State.writeWord
  apply putBytes_memOk
  split
  · exact h
  · unfold State.memOk; rw [setMark_mem, checkWord_mem]; exact h

theorem writeMemF_memOnly : ∀ (fuel : Nat) (s : State) (a : Nat) (bs : List (Byte × Bool)), MemOnly s (State.writeMemF fuel s a bs) := by
  intro fuel
  induction fuel with
  | zero => intro s a bs; exact memOnly_refl s
  | succ fuel ih =>
    intro s a bs
    simp only [State.writeMemF]
    split
    · exact memOnly_refl s
    · exact memOnly_trans (writeWord_memOnly s _ _) (ih _ _ _)

theorem writeMemF_memOk : ∀ (fuel : Nat) (s : State) (a : Nat) (bs : List (Byte × Bool)), s.memOk = true →
    (State.writeMemF fuel s a bs).memOk = true := by
  intro fuel
  induction fuel with
  | zero => intro s a bs h; exact h
  | succ fuel ih =>
    intro s a bs h
    simp only [State.writeMemF]
    split
    · exact h
    · exact ih _ _ _ (writeWord_memOk s _ _ h)

theorem writeMemF_byte : ∀ (fuel : Nat) (s : State) (a : Nat) (bs : List (Byte × Bool)) (x : Nat),
    bs.length ≤ 8 * fuel - (if fuel = 0 then 0 else a % 8) →
    (State.writeMemF fuel s a bs).byte x = if a ≤ x then ((bs.map (·.1))[x - a]?).getD (s.byte x) else s.byte x := by
  intro fuel
  induction fuel with
  | zero =>
    intro s a bs x h
    have : bs = [] := List.length_eq_zero_iff.mp (by omega)
    subst this; simp [State.writeMemF]
  | succ fuel ih =>
    intro s a bs x h
    simp only [State.writeMemF]
    split
    · rename_i h0
      have : bs = [] := by simpa using h0
      subst this; simp
    · rename_i h0
      rw [if_neg (by omega)] at h
      rw [ih]
      · rw [writeWord_byte]
        simp only [List.map_take, List.map_drop]
        by_cases hx : a ≤ x
        · by_cases hy : a + (8 - a % 8) ≤ x
          · have e : x - a = 8 - a % 8 + (x - (a + (8 - a % 8))) := by omega
            have e1 : (List.take (8 - a % 8) (bs.map (·.1)))[x - a]? = none := by
              rw [List.getElem?_eq_none]; simp; omega
            rw [if_pos hy, if_pos hx, if_pos hx, e1, List.getElem?_drop, ← e]
            rfl
          · have e1 : (List.take (8 - a % 8) (bs.map (·.1)))[x - a]? = (bs.map (·.1))[x - a]? := by
              rw [List.getElem?_take, if_pos (by omega)]
            rw [if_neg hy, if_pos hx, if_pos hx, e1]
        · have hy : ¬a + (8 - a % 8) ≤ x := by omega
          simp only [hx, hy, if_false]
      · simp only [List.length_drop]
        split <;> omega

/-- A write stores its bytes, and no other byte of memory changes. -/
theorem writeMem_byte (a : Nat) (bs : List (Byte × Bool)) (x : Nat) :
    (s.writeMem a bs).byte x = if a ≤ x then ((bs.map (·.1))[x - a]?).getD (s.byte x) else s.byte x := by
  unfold State.writeMem
  rw [writeMemF_byte]
  rw [if_neg (by omega)]
  omega

theorem writeMem_memOnly (a : Nat) (bs : List (Byte × Bool)) : MemOnly s (s.writeMem a bs) := writeMemF_memOnly _ _ _ _
theorem writeMem_memOk (a : Nat) (bs : List (Byte × Bool)) (h : s.memOk = true) : (s.writeMem a bs).memOk = true :=
  writeMemF_memOk _ _ _ _ h

theorem writeFresh_memOnly (a : Nat) (bs : List Byte) : MemOnly s (s.writeFresh a bs) := writeMem_memOnly _ _ _
theorem writeFresh_memOk (a : Nat) (bs : List Byte) (h : s.memOk = true) : (s.writeFresh a bs).memOk = true := writeMem_memOk _ _ _ h
theorem writeFresh_wrote (a : Nat) (bs : List Byte) : Wrote s (s.writeFresh a bs) a bs := by
  have e : (bs.map fun b => (b, false)).map (·.1) = bs := by simp [Function.comp_def]
  refine ⟨fun i b h => ?_, fun x hx => ?_⟩
  · unfold State.writeFresh; rw [writeMem_byte, e]; simp [h]
  · unfold State.writeFresh; rw [writeMem_byte, e]
    split
    · rw [List.getElem?_eq_none (by omega)]; rfl
    · rfl

theorem foldl_putByte_memOk (ws : List (Nat × Byte × Bool)) : ∀ s : State, s.memOk = true →
    (ws.foldl (fun s w => s.putByte w.1 w.2.1) s).memOk = true := by
  induction ws with
  | nil => intro s h; exact h
  | cons w ws ih => intro s h; exact ih _ (putByte_memOk s _ _ h)

theorem writeWordBytes_memOk (word : Nat) (ws : List (Nat × Byte × Bool)) (h : s.memOk = true) :
    (s.writeWordBytes word ws).memOk = true := by
  unfold State.writeWordBytes
  apply foldl_putByte_memOk
  split
  · exact h
  · unfold State.memOk; rw [setMark_mem, checkWord_mem]; exact h

theorem writeScatter_memOk (ws : List (Nat × Byte × Bool)) (h : s.memOk = true) : (s.writeScatter ws).memOk = true := by
  unfold State.writeScatter
  generalize ((ws.map fun w => w.1 / 8).eraseDups) = l
  induction l generalizing s with
  | nil => exact h
  | cons w l ih => exact ih _ (writeWordBytes_memOk s _ _ h)

theorem writeTier0_memOk (rank : Nat) (ws : List (Nat × Byte × Bool)) (h : s.memOk = true) : (s.writeTier0 rank ws).memOk = true :=
  writeScatter_memOk s.keepStart _ (by unfold State.memOk at *; rwa [keepStart_mem])

/-! ### Bytes that an abort leaves open (R395) -/

theorem looseBytes_wf (a n c : Nat) (m : List Host.Cell) (h : Memory.wf m = true) : Memory.wf (looseBytes m a n c) = true := by
  unfold looseBytes
  generalize List.range n = l
  induction l generalizing m with
  | nil => exact h
  | cons i l ih => exact ih _ (wf_set _ _ _ _ h)

/-- An abort leaves memory in its canonical form, and changes nothing but memory and the count of free values. -/
theorem loosenDest_memOk (c : CollState) (h : s.memOk = true) : (s.loosenDest c).memOk = true := by
  unfold State.memOk State.loosenDest at *
  simp only []
  generalize ((List.range _).map _).zipIdx = l
  generalize s.mem = m at h
  induction l generalizing m with
  | nil => exact h
  | cons x l ih => exact ih _ (looseBytes_wf _ _ _ _ h)

theorem loosenDest_frame (c : CollState) : { s.loosenDest c with mem := s.mem, freeCtr := s.freeCtr } = s := rfl

/-- The memory of the state after reset is in canonical form. -/
theorem reset_memOk : State.reset.memOk = true := rfl

end Sys2Proof.Laws
end

