-- ==== Sys2Proof/Laws/Arrays.lean ====
section
/-! SUPPORT. What the issue of a word does for a gang: every member is updated once, from what it was; nothing else changes. -/

namespace Sys2Proof.Laws

open Sys2Proof Sys2Proof.Machine

theorem members_nodup (s : State) (g : Nat) : (s.members g).Nodup := by
  unfold State.members
  exact (List.nodup_range).map (fun a b h => by simpa using h)

theorem onlyArrays_refl (s : State) : OnlyArrays s s := rfl

theorem onlyArrays_trans {s t u : State} (h : OnlyArrays s t) (k : OnlyArrays t u) : OnlyArrays s u := by
  have k' : { u with arrays := s.arrays } = { t with arrays := s.arrays } := by
    have := congrArg (fun x : State => { x with arrays := s.arrays }) k
    exact this
  exact k'.trans h

theorem onlyArrays_setArray (s : State) (m : Nat) (a : ArrayState) : OnlyArrays s (s.setArray m a) := rfl

/-- What agrees but for the arrays agrees in every beat, in the program and in memory. -/
theorem onlyArrays_eq {s t : State} (h : OnlyArrays s t) : t = { s with arrays := t.arrays } := by
  have := congrArg (fun x : State => { x with arrays := t.arrays }) h
  exact this

/-- A fold that updates each array of a list without repeats from what it was, under a frame `R`. -/
theorem foldl_arrays (R : State → Prop) (F : State → Nat → State) (Q : Nat → ArrayState → Prop) (s : State) :
    ∀ (l : List Nat) (s0 : State), l.Nodup → R s0 → (∀ m ∈ l, s0.array m = s.array m) →
      (∀ m ∈ l, ∀ u, R u → u.array m = s.array m →
        R (F u m) ∧ Q m ((F u m).array m) ∧ ∀ j, j ≠ m → (F u m).array j = u.array j) →
      R (l.foldl F s0) ∧ (∀ m ∈ l, Q m ((l.foldl F s0).array m)) ∧
        (∀ m, m ∉ l → (l.foldl F s0).array m = s0.array m) := by
  intro l
  induction l with
  | nil => intro s0 _ h _ _; exact ⟨h, by simp, by simp⟩
  | cons x l ih =>
    intro s0 hn h hs hF
    obtain ⟨hR, hQ, hO⟩ := hF x (by simp) s0 h (hs x (by simp))
    obtain ⟨hxl, hnl⟩ := List.nodup_cons.mp hn
    obtain ⟨h1, h2, h3⟩ := ih (F s0 x) hnl hR
      (fun m hm => by rw [hO m (fun e => hxl (e ▸ hm)), hs m (by simp [hm])])
      (fun m hm => hF m (by simp [hm]))
    refine ⟨h1, fun m hm => ?_, fun m hm => ?_⟩
    · rcases List.mem_cons.mp hm with rfl | hm
      · rw [List.foldl_cons, h3 m hxl]; exact hQ
      · exact h2 m hm
    · simp only [List.mem_cons, not_or] at hm
      rw [List.foldl_cons, h3 m hm.2, hO m hm.1]

/-- The issue of a word that every member may execute, under a frame `R` that the arrays do not enter. -/
theorem issueWord_gang (s : State) (g op : Nat) (w : BitVec 128) (check : State → Nat → BitVec 128 → Option Nat)
    (effect : State → Nat → BitVec 128 → State) (R : State → Prop) (Q : Nat → ArrayState → Prop)
    (h : s.offers g op w) (hop : op ≠ 0xF) (h0 : R (s.countFetch (passAddr g (s.array g).pc) 16)) (hpb : ∀ u, R u → u.pbeat = s.pbeat)
    (hset : ∀ u m a, R u → R (u.setArray m a))
    (hc : ∀ m ∈ s.members g, ∀ u, R u → u.array m = s.array m → check u m w = none)
    (he : ∀ m ∈ s.members g, ∀ u, R u → u.array m = (s.array m).issued s.pbeat →
      R (effect u m w) ∧ Q m ((effect u m w).array m) ∧ ∀ j, j ≠ m → (effect u m w).array j = u.array j) :
    R (s.issueWord g op check effect) ∧
      (∀ m ∈ s.members g, Q m ((s.issueWord g op check effect).array m)) ∧
      (∀ m, m ∉ s.members g → (s.issueWord g op check effect).array m = s.array m) := by
  obtain ⟨hp, hpc, hw, hwo, hb, -⟩ := h
  have e : s.issueWord g op check effect = (s.members g).foldl (fun s' m =>
        match check s' m w with
        | some code =>
          if code ≤ 3 then s'.seqFault code m (fld w 121 112) (waitTarget w (loopSel (s.array g).loops (fld w 53 53) (fld w 52 51)).join).toNat
          else s'.seqFault code m
        | none => effect (s'.setArray m ((s'.array m).issued s'.pbeat)) m w) (s.countFetch (passAddr g (s.array g).pc) 16) := by
    unfold State.issueWord
    have h1 : ¬ (1024 ≤ (s.array g).pc) := by omega
    simp only [hp, hw, hwo, hb, h1, hop, Bool.not_true, Bool.false_eq_true, if_false, ne_eq, not_true_eq_false]
    try rfl
  rw [e]
  have ha : ∀ m, (s.countFetch (passAddr g (s.array g).pc) 16).array m = s.array m :=
    fun m => memOnly_array (countFetch_memOnly s _ _) m
  have hfold := foldl_arrays (R := R) (Q := Q) (s := s) (l := s.members g)
    (s0 := s.countFetch (passAddr g (s.array g).pc) 16)
    (F := fun s' m =>
        match check s' m w with
        | some code =>
          if code ≤ 3 then s'.seqFault code m (fld w 121 112) (waitTarget w (loopSel (s.array g).loops (fld w 53 53) (fld w 52 51)).join).toNat
          else s'.seqFault code m
        | none => effect (s'.setArray m ((s'.array m).issued s'.pbeat)) m w) (members_nodup s g) h0 (fun m _ => ha m) ?_
  · exact ⟨hfold.1, hfold.2.1, fun m hm => (hfold.2.2 m hm).trans (ha m)⟩
  intro m hm u hu hum
  simp only [hc m hm u hu hum]
  obtain ⟨a, b, c⟩ := he m hm (u.setArray m ((u.array m).issued u.pbeat)) (hset _ _ _ hu) (by simp [hum, hpb u hu])
  refine ⟨a, b, fun j hj => ?_⟩
  rw [c j hj, setArray_array]
  simp [hj]

end Sys2Proof.Laws
end

