-- ==== Sys2Proof/Laws/Keeps.lean ====
section
/-! SUPPORT. What shared operations keep: the queue, the time and the invariant; and the specifications of logs and answers. -/

namespace Sys2Proof.Laws

open Sys2Proof Sys2Proof.Machine

variable (s : State)

/-- The queue and the time are as they were, and the invariant holds if it held. -/
def Keeps (s t : State) : Prop := t.pending = s.pending ∧ t.nowNs = s.nowNs ∧ (s.Inv → t.Inv)

theorem keeps_refl : Keeps s s := ⟨rfl, rfl, id⟩

theorem keeps_trans {s t u : State} (h : Keeps s t) (k : Keeps t u) : Keeps s u :=
  ⟨k.1.trans h.1, k.2.1.trans h.2.1, k.2.2 ∘ h.2.2⟩

/-- An operation that touches none of the fields that the invariant reads. -/
theorem keeps_of {s t : State} (hp : t.pending = s.pending) (hn : t.nowNs = s.nowNs) (hm : t.mem = s.mem) (hl : t.hubLog = s.hubLog)
    (ha : t.aoLog = s.aoLog) (hb : t.beat = s.beat) (hw : t.power = s.power) : Keeps s t := by
  refine ⟨hp, hn, fun h => ?_⟩
  unfold State.Inv State.memOk at *
  rw [hm, hl, ha, hb, hw]
  exact h

theorem keeps_foldl {β : Type} (f : State → β → State) (hf : ∀ u x, Keeps u (f u x)) : ∀ (l : List β) (s : State), Keeps s (l.foldl f s) := by
  intro l
  induction l with
  | nil => exact keeps_refl
  | cons x l ih => intro s; exact keeps_trans (hf s x) (ih _)

theorem keeps_forAll (n : Nat) (f : State → Nat → State) (hf : ∀ u i, Keeps u (f u i)) : Keeps s (forAll n s f) := keeps_foldl f hf _ s

/-- An operation on memory alone keeps all if it keeps the canonical form. -/
theorem keeps_memOnly {s t : State} (h : MemOnly s t) (hm : s.memOk = true → t.memOk = true) : Keeps s t := by
  unfold MemOnly at h
  have hp : t.pending = s.pending := by rw [← h]
  have hn : t.nowNs = s.nowNs := by rw [← h]
  have hl : t.hubLog = s.hubLog := by rw [← h]
  have ha : t.aoLog = s.aoLog := by rw [← h]
  have hb : t.beat = s.beat := by rw [← h]
  have hw : t.power = s.power := by rw [← h]
  refine ⟨hp, hn, fun hi => ?_⟩
  unfold State.Inv at *
  rw [hl, ha, hb, hw]
  exact ⟨hm hi.1, hi.2⟩

theorem keeps_putByte (a : Nat) (b : Byte) : Keeps s (s.putByte a b) :=
  keeps_memOnly (t := s.putByte a b) rfl (putByte_memOk s a b)

theorem keeps_writeMem (a : Nat) (bs : List (Byte × Bool)) : Keeps s (s.writeMem a bs) :=
  keeps_memOnly (writeMem_memOnly s a bs) (writeMem_memOk s a bs)

theorem keeps_writeFresh (a : Nat) (bs : List Byte) : Keeps s (s.writeFresh a bs) := keeps_writeMem s a _

theorem keeps_readMem (a n : Nat) : Keeps s (s.readMem a n).2 :=
  keeps_memOnly (readMem_memOnly s a n) fun h => by unfold State.memOk at *; rwa [readMem_mem]

theorem keeps_checkWord (a : Nat) : Keeps s (s.checkWord a).2 :=
  keeps_memOnly (checkWord_memOnly s a) fun h => by unfold State.memOk at *; rwa [checkWord_mem]

theorem keeps_countFetch (a n : Nat) : Keeps s (s.countFetch a n) :=
  keeps_memOnly (countFetch_memOnly s a n) fun h => by unfold State.memOk at *; exact h

theorem keeps_keepStart : Keeps s s.keepStart := by
  unfold State.keepStart
  split
  · exact keeps_refl s
  · split <;> exact keeps_of rfl rfl rfl rfl rfl rfl rfl

theorem keeps_loosenDest (c : CollState) : Keeps s (s.loosenDest c) := ⟨rfl, rfl, fun h => ⟨loosenDest_memOk s c h.1, h.2⟩⟩

theorem keeps_draw : Keeps s s.draw.2 := keeps_of rfl rfl rfl rfl rfl rfl rfl

/-! ### Setters that the invariant does not read -/

theorem keeps_setArray (g : Nat) (a : ArrayState) : Keeps s (s.setArray g a) := keeps_of rfl rfl rfl rfl rfl rfl rfl
theorem keeps_setSpoke (p : Nat) (a : SpokeState) : Keeps s (s.setSpoke p a) := keeps_of rfl rfl rfl rfl rfl rfl rfl
theorem keeps_setRouter (r : Nat) (a : RouterState) : Keeps s (s.setRouter r a) := keeps_of rfl rfl rfl rfl rfl rfl rfl
theorem keeps_setDerailleur (d : Nat) (a : DerailleurState) : Keeps s (s.setDerailleur d a) := keeps_of rfl rfl rfl rfl rfl rfl rfl
theorem keeps_setChannel (c : Nat) (a : ChannelState) : Keeps s (s.setChannel c a) := keeps_of rfl rfl rfl rfl rfl rfl rfl
theorem keeps_setVault (g : Nat) (a : VaultState) : Keeps s (s.setVault g a) := keeps_of rfl rfl rfl rfl rfl rfl rfl
theorem keeps_setDmem (d : Nat) (a : DieMem) : Keeps s (s.setDmem d a) := keeps_of rfl rfl rfl rfl rfl rfl rfl
theorem keeps_setStk (t : Nat) (a : StackState) : Keeps s (s.setStk t a) := keeps_of rfl rfl rfl rfl rfl rfl rfl
theorem keeps_setFab (k : Nat) (a : FabState) : Keeps s (s.setFab k a) := keeps_of rfl rfl rfl rfl rfl rfl rfl
theorem keeps_setEngine (k : Nat) (a : EngineState) : Keeps s (s.setEngine k a) := keeps_of rfl rfl rfl rfl rfl rfl rfl
theorem keeps_setMb (m : Nat) (a : MailboxState) : Keeps s (s.setMb m a) := keeps_of rfl rfl rfl rfl rfl rfl rfl
theorem keeps_setHub (h : HubState) : Keeps s (s.setHub h) := keeps_of rfl rfl rfl rfl rfl rfl rfl
theorem keeps_setMach (m : MachState) : Keeps s (s.setMach m) := keeps_of rfl rfl rfl rfl rfl rfl rfl
theorem keeps_setTherm (t : ThermState) : Keeps s (s.setTherm t) := keeps_of rfl rfl rfl rfl rfl rfl rfl
theorem keeps_setPort (f : Nat) (p : PortState) : Keeps s (s.setPort f p) := keeps_of rfl rfl rfl rfl rfl rfl rfl
theorem keeps_setLaser (n : Nat) (x : LaserState) : Keeps s (s.setLaser n x) := keeps_of rfl rfl rfl rfl rfl rfl rfl
theorem keeps_setSetting (k v : Nat) : Keeps s (s.setSetting k v) := keeps_of rfl rfl rfl rfl rfl rfl rfl
theorem keeps_setDieCounters (d : Nat) (c : DieCounters) : Keeps s (s.setDieCounters d c) := keeps_of rfl rfl rfl rfl rfl rfl rfl

/-- A new beat state in which a beat is held for its causes. -/
theorem keeps_setBeat (b : BeatState)
    (hb : s.beat.held = (s.beat.causeWait || s.beat.causeBrake || s.beat.causeShift || s.beat.causeHub) →
      b.held = (b.causeWait || b.causeBrake || b.causeShift || b.causeHub)) : Keeps s (s.setBeat b) :=
  ⟨rfl, rfl, fun h => ⟨h.1, h.2.1, h.2.2.1, hb h.2.2.2.1, h.2.2.2.2⟩⟩

/-- A new power state with one of the four stages. -/
theorem keeps_setPower (p : PowerState)
    (hp : 1 ≤ s.power.stage.toNat → s.power.stage.toNat ≤ 4 → 1 ≤ p.stage.toNat ∧ p.stage.toNat ≤ 4) : Keeps s (s.setPower p) :=
  ⟨rfl, rfl, fun h => ⟨h.1, h.2.1, h.2.2.1, h.2.2.2.1, (hp h.2.2.2.2.1 h.2.2.2.2.2).1, (hp h.2.2.2.2.1 h.2.2.2.2.2).2⟩⟩

/-! ### Logs (R418) -/

theorem appendLog_length (cap : Nat) (l : List LogRec) (r : LogRec) (hc : 0 < cap) (h : l.length ≤ cap) : (appendLog cap l r).length ≤ cap := by
  unfold appendLog
  split <;> simp <;> omega

theorem appendLog_last (cap : Nat) (l : List LogRec) (r : LogRec) :
    ∃ f, (appendLog cap l r).getLast? = some { r with flags := f } := by
  unfold appendLog
  split
  · exact ⟨r.flags, by simp⟩
  · exact ⟨r.flags ||| 1, by simp⟩

theorem keeps_noteLog (ev : BitVec 4) : Keeps s (s.noteLog ev) := keeps_forAll s 32 _ fun u i => keeps_setMb u i _

/-- A log note changes the mailboxes alone. -/
theorem noteLog_eq (ev : BitVec 4) : ∃ m, s.noteLog ev = { s with mbs := m } := by
  unfold State.noteLog forAll
  generalize List.range 32 = l
  induction l generalizing s with
  | nil => exact ⟨s.mbs, rfl⟩
  | cons i l ih =>
    obtain ⟨m, hm⟩ := ih (s.setMb i { s.mb i with event := (s.mb i).event ||| ev, logCount := (s.mb i).logCount + 1 })
    exact ⟨m, hm⟩

theorem noteLog_hubLog (ev : BitVec 4) : (s.noteLog ev).hubLog = s.hubLog := by obtain ⟨m, h⟩ := noteLog_eq s ev; rw [h]
theorem noteLog_aoLog (ev : BitVec 4) : (s.noteLog ev).aoLog = s.aoLog := by obtain ⟨m, h⟩ := noteLog_eq s ev; rw [h]
theorem noteLog_hubSeq (ev : BitVec 4) : (s.noteLog ev).hubSeq = s.hubSeq := by obtain ⟨m, h⟩ := noteLog_eq s ev; rw [h]
theorem noteLog_aoSeq (ev : BitVec 4) : (s.noteLog ev).aoSeq = s.aoSeq := by obtain ⟨m, h⟩ := noteLog_eq s ev; rw [h]

/-- The logs, their sequence numbers and the mailboxes are all that a log entry changes. -/
theorem log_eq (cls code unitKind die unit detail : Nat) : ∃ hl al hs as m,
    s.log cls code unitKind die unit detail = { s with hubLog := hl, aoLog := al, hubSeq := hs, aoSeq := as, mbs := m } := by
  unfold State.log
  by_cases h : cls = 1
  · simp only [if_pos h]
    obtain ⟨m, hm⟩ := noteLog_eq _ _
    exact ⟨_, _, _, _, m, hm⟩
  · simp only [if_neg h]
    obtain ⟨m, hm⟩ := noteLog_eq _ _
    exact ⟨_, _, _, _, m, hm⟩

/-- The hub log takes every record. -/
theorem log_logged (cls code unitKind die unit detail : Nat) : Logged s (s.log cls code unitKind die unit detail) cls code := by
  obtain ⟨f, hf⟩ := appendLog_last 4096 s.hubLog
    { seq := s.hubSeq, cls := BitVec.ofNat 8 cls, code := BitVec.ofNat 8 code, flags := if s.ordered = true then 2 else 0,
      unitKind := BitVec.ofNat 8 unitKind, cadence := BitVec.ofNat 64 s.cadStamp, sched := s.beat.schedBeat, wall := s.beat.wallBeat,
      die := BitVec.ofNat 8 die, unit := BitVec.ofNat 16 unit, detail := BitVec.ofNat 96 detail }
  unfold Logged State.log
  simp only [noteLog_hubLog, noteLog_hubSeq]
  by_cases h : cls = 1
  · simp only [if_pos h]
    exact ⟨trivial, _, hf, rfl, rfl, rfl, rfl, rfl⟩
  · simp only [if_neg h]
    exact ⟨trivial, _, hf, rfl, rfl, rfl, rfl, rfl⟩

/-- The AO log takes every record of a machine check or an event. -/
theorem log_aoLogged (cls code unitKind die unit detail : Nat) (h : cls ≠ 1) : AoLogged s (s.log cls code unitKind die unit detail) cls code detail := by
  unfold AoLogged State.log
  simp only [if_neg h, noteLog_aoLog, noteLog_aoSeq]
  refine ⟨trivial, ?_⟩
  obtain ⟨f, hf⟩ := appendLog_last 256 s.aoLog
    { seq := s.aoSeq, cls := BitVec.ofNat 8 cls, code := BitVec.ofNat 8 code, flags := if s.ordered = true then 2 else 0,
      unitKind := BitVec.ofNat 8 unitKind, cadence := BitVec.ofNat 64 s.cadStamp, sched := s.beat.schedBeat, wall := s.beat.wallBeat,
      die := BitVec.ofNat 8 die, unit := BitVec.ofNat 16 unit, detail := BitVec.ofNat 96 detail }
  exact ⟨_, hf, rfl, rfl, rfl, rfl⟩

theorem keeps_log (cls code unitKind die unit detail : Nat) : Keeps s (s.log cls code unitKind die unit detail) := by
  unfold State.log
  refine keeps_trans ?_ (keeps_noteLog _ _)
  split
  · refine ⟨rfl, rfl, fun h => ⟨h.1, appendLog_length _ _ _ (by omega) h.2.1, h.2.2⟩⟩
  · refine ⟨rfl, rfl, fun h => ⟨h.1, appendLog_length _ _ _ (by omega) h.2.1, appendLog_length _ _ _ (by omega) h.2.2.1, h.2.2.2⟩⟩

theorem keeps_logEvent (code unitKind die unit detail : Nat) : Keeps s (s.logEvent code unitKind die unit detail) := keeps_log s _ _ _ _ _ _

theorem keeps_raiseFault (code unitKind d unit detail : Nat) : Keeps s (s.raiseFault code unitKind d unit detail) :=
  keeps_trans (keeps_log s _ _ _ _ _ _) (keeps_setBeat _ _ fun h => h)

/-! ### Answers (R401, R402) -/

theorem keeps_placeSlot (n : Nat) (slot : BitVec 512) : Keeps s (s.placeSlot n slot) := by
  unfold State.placeSlot
  simp only []
  split <;> exact keeps_of rfl rfl rfl rfl rfl rfl rfl

theorem keeps_postSlot (n : Nat) (slot : BitVec 512) : Keeps s (s.postSlot n slot) := by
  unfold State.postSlot
  simp only []
  split
  · exact keeps_placeSlot s n slot
  · exact keeps_setMb s n _

theorem keeps_reply (who : SenderId) (slot : BitVec 512) : Keeps s (s.reply who slot) := by
  unfold State.reply
  split
  · exact keeps_postSlot s _ slot
  · exact keeps_setHub s _

theorem keeps_completeCmd (who : SenderId) (tag opcode status foff res : Nat) : Keeps s (s.completeCmd who tag opcode status foff res) := by
  unfold State.completeCmd
  split
  · exact keeps_trans (keeps_setHub s _) (keeps_reply _ _ _)
  · exact keeps_refl s

theorem keeps_finish (c : Accepted) (status foff res : Nat) : Keeps s (s.finish c status foff res) := by
  unfold State.finish
  simp only []
  split
  · exact keeps_trans (keeps_setHub s _) (keeps_completeCmd _ _ _ _ _ _ _)
  · exact keeps_trans (keeps_setHub s _) (keeps_reply _ _ _)

theorem placeSlot_mb (n : Nat) (slot : BitVec 512) (j : Nat) : (s.placeSlot n slot).mb j =
    if j = n then { s.mb n with rspSlots := SMap.set 0 (s.mb n).rspSlots ((s.mb n).rspTail.toNat % 64) slot, rspTail := (s.mb n).rspTail + 1,
                                rspCount := (s.mb n).rspCount + 1, event := (s.mb n).event ||| 1 } else s.mb j := by
  unfold State.placeSlot
  simp only []
  split <;> exact get_set _ _ _ _ _

theorem event_bit (e : BitVec 4) : bitOf (e ||| 1) 0 = true := by
  revert e; decide

/-- An answer reaches its sender, and no other. -/
theorem reply_hubReplied (who : SenderId) (slot : BitVec 512) : HubReplied s (s.reply who slot) who slot := by
  unfold HubReplied State.reply
  by_cases hw : who.val < 32
  · simp only [hw, if_true]
    unfold State.postSlot
    simp only []
    by_cases hr : (s.mb who.val).held < 64 ∧ (s.mb who.val).waiting = []
    · simp only [hr, and_self, if_true, placeSlot_mb]
      refine ⟨fun _ _ _ => ⟨by simp, trivial, trivial, event_bit _⟩, fun _ h => ?_, fun h => absurd hw (by omega), fun m hm => by simp [hm]⟩
      rcases h with h | h
      · omega
      · exact absurd rfl h
    · simp only [hr, if_false]
      refine ⟨fun _ h1 h2 => absurd ⟨h1, h2⟩ hr, fun _ _ => ?_, fun h => absurd hw (by omega), fun m hm => ?_⟩
      · exact congrArg MailboxState.waiting (get_set_same _ _ _ _)
      · exact get_set_ne _ _ _ _ _ hm
  · simp only [hw, if_false]
    exact ⟨fun h => absurd h (by simp), fun h => absurd h (by simp), fun _ => rfl, fun _ _ => rfl⟩

end Sys2Proof.Laws
end

