-- ==== Sys2Proof/Tests/Slice0.lean ====
section
/-! SUPPORT. Tests: ill-formed commands are refused, worked examples of the spec, and for every statement with hypotheses states
and operands that meet them. -/

namespace Sys2Proof.Tests

open Sys2Proof Sys2Proof.Machine

set_option Elab.async false

/-! ### Helpers -/

/-- The cells of consecutive bytes that are not zero. -/
def cells (a : Nat) (bs : List Byte) : List Host.Cell := (bs.zipIdx.map fun x => (a + x.2, x.1)).filter fun c => c.2 != 0

/-- A word from its fields, each a value and its lowest bit. -/
def word (fs : List (Nat × Nat)) : Nat := (fs.map fun f => f.1 * 2 ^ f.2).sum

/-- A live beat at program beat 4,096, the wall beat the same. -/
def liveBeat : BeatState := { aligned := true, schedBeat := 4096, wallBeat := 4096 }
def heldBeat : BeatState := { liveBeat with held := true, causeHub := true }

/-- A running program in a live beat. -/
def running : State := { beat := liveBeat, prog := { running := true } }

/-- A running gang of arrays 0 and 1 whose port is at word `w`. -/
def gang (w : Nat) (a : ArrayState) : State :=
  let b : ArrayState := { a with active := true, leader := 0, size := 1 }
  { running with arrays := [(0, b), (1, b)], mem := cells (passAddr 0 a.pc) (leBytes 16 w) }

/-- An array that is on, and has no gap. -/
def onArray : ArrayState := { power := 0, gatedSince := none }

/-- The hypotheses of a statement about an issue: the offer, and the form of the word for every member. -/
def Issues (s : State) (op w : Nat) (form : ArrayState → BitVec 128 → Prop) : Prop :=
  s.offers 0 op (BitVec.ofNat 128 w) ∧ ∀ m ∈ s.members 0, form (s.array m) (BitVec.ofNat 128 w)


/-- What a command answers. -/
def after (c : Instr) (s : State) (p : State → Bool) : Bool := match exec c s with | .next t => p t | _ => false
/-! ### Arrays: hypotheses that are met -/

theorem test_issue_nop : Issues (gang (word [(5, 104)]) onArray) 0 (word [(5, 104)]) fun _ w => fld w 103 0 = 0 ∧ fld w 123 104 ≠ 0 := by
  unfold Issues State.offers; decide +kernel
theorem test_issue_dummy : Issues (gang (word [(0xA, 124), (8, 120), (3, 100)]) onArray) 0xA (word [(0xA, 124), (8, 120), (3, 100)])
    fun _ w => fld w 123 120 ≤ 8 ∧ fld w 119 100 ≠ 0 ∧ fld w 99 0 = 0 := by
  unfold Issues State.offers; decide +kernel
theorem test_issue_zero : Issues (gang (word [(3, 124), (2, 122)]) onArray) 3 (word [(3, 124), (2, 122)])
    fun a w => fld w 118 0 = 0 ∧ (fld w 121 121 = 0 ∨ fld w 120 119 < a.loops.length) := by
  unfold Issues State.offers; decide +kernel
theorem test_issue_stream : Issues (gang 0x20777700000000414A00000000000000 onArray) 2 0x20777700000000414A00000000000000
    fun a w => fld w 121 120 = 0 ∧ fld w 69 50 ≠ 0 ∧ fld w 49 0 = 0 ∧ fld w 119 104 = 0x7777 ∧ fld w 123 122 = 0 ∧
      (SMap.get {} a.streams (fld w 123 122)).next = none := by
  unfold Issues State.offers; decide +kernel
theorem test_stream_phases : (∀ ph < 16, (0x7777).testBit ph = true → servantPhase 0 ph = false) ∧ otherMasks onArray 0 = [] := by
  decide +kernel
theorem test_issue_gaps :
    Issues (gang (word [(0xB, 124), (33, 104)]) onArray) 0xB (word [(0xB, 124), (33, 104)]) (fun _ w => 33 ≤ fld w 123 104 ∧ fld w 103 0 = 0) ∧
    Issues (gang (word [(0xC, 124), (64, 104)]) onArray) 0xC (word [(0xC, 124), (64, 104)]) (fun _ w => 64 ≤ fld w 123 104 ∧ fld w 103 0 = 0) ∧
    Issues (gang (word [(0xE, 124)]) onArray) 0xE (word [(0xE, 124)]) (fun _ w => fld w 123 0 = 0) := by
  unfold Issues State.offers; decide +kernel

/-- `LOOP` of body words 1 and 2 with an `ENDLOOP` at 3. -/
def loopMem (count : Nat) : List Host.Cell :=
  cells (passAddr 0 0) (leBytes 16 (word [(6, 124), (count, 104), (3, 94)]) ++ leBytes 16 (word [(5, 104)]) ++ leBytes 16 (word [(5, 104)]) ++
    leBytes 16 (word [(7, 124)]))
def loopState (count : Nat) : State := { gang 0 onArray with mem := loopMem count }

theorem test_loop_words :
    (loopState 0).atControl 0 6 (BitVec.ofNat 128 (word [(6, 124), (3, 94)])) ∧
    (loopState 2).atControl 0 6 (BitVec.ofNat 128 (word [(6, 124), (2, 104), (3, 94)])) ∧
    opcodeOf ((loopState 2).passWord 0 3) = 7 ∧ isControl ((loopState 2).passWord 0 1) = false ∧ ((loopState 2).array 0).loops = [] := by
  unfold State.atControl; decide +kernel

def endloopState (idx : Nat) : State :=
  { gang 0 { onArray with pc := 3, loops := [{ start := 1, endIdx := 3, count := 2, idx := idx, aStep := 0, sStep := 0, dStep := 0, accStep := 0 }] }
    with mem := loopMem 2 }

theorem test_endloop_words :
    (endloopState 0).atControl 0 7 (BitVec.ofNat 128 (word [(7, 124)])) ∧ (endloopState 1).atControl 0 7 (BitVec.ofNat 128 (word [(7, 124)])) := by
  unfold State.atControl; decide +kernel

theorem test_signal : Issues (gang (word [(9, 124), (0x41, 112), (1, 96)]) onArray) 9 (word [(9, 124), (0x41, 112), (1, 96)])
    fun _ w => fld w 123 122 = 0 ∧ fld w 121 112 < 0x100 ∧ fld w 111 96 ≠ 0 ∧ fld w 95 0 = 0 := by
  unfold Issues State.offers; decide +kernel

/-- A `WAIT` on servant counter 0x105 for 6 with a timeout of 100 held beats. -/
def waitWord : Nat := word [(8, 124), (0x105, 112), (6, 80), (100, 56)]

theorem test_wait_short :
    Issues (gang waitWord onArray) 8 waitWord (fun _ w => atOrAbove ((gang waitWord onArray).counterValue 0 (fld w 121 112)) (waitTarget w none) = false) ∧
    (∀ m ∈ (gang waitWord onArray).members 0, waitCheck (gang waitWord onArray) m (BitVec.ofNat 128 waitWord) = none) := by
  unfold Issues State.offers; decide +kernel

theorem test_wait_met :
    let s := { gang waitWord onArray with counters := [(0, { copies := [(5, 6)] })] }
    Issues s 8 waitWord (fun _ w => atOrAbove (s.counterValue 0 (fld w 121 112)) (waitTarget w none) = true) ∧
      ∀ m ∈ s.members 0, waitCheck s m (BitVec.ofNat 128 waitWord) = none := by
  unfold Issues State.offers; decide +kernel

theorem test_unpark :
    let s := gang (word [(0xD, 124)]) {}
    Issues s 0xD (word [(0xD, 124)]) (fun a w => fld w 123 0 = 0 ∧ a.unparkUntil ≤ s.pbeat) ∧
      (∀ m ∈ s.members 0, m / 2048 = 0) ∧ ((SMap.get [] s.unparks 0).filter fun b => decide (s.sched < b + 2000)).length + (s.members 0).length ≤ 512 := by
  unfold Issues State.offers; decide +kernel

/-- One array, running. -/
def oneArray (a : ArrayState) : State := { running with arrays := [(0, a)] }

theorem test_power_events :
    ((oneArray { onArray with endAt := some 4080 }).array 0).gatedSince = none ∧ 4080 + 16 ≤ (oneArray onArray).pbeat ∧ running.runs = true ∧
    4095 < running.pbeat ∧ (oneArray { onArray with gate := some (4060, 4095), gatedSince := some 4060 }).staysGated 0 = false ∧ 4095 + 1 ≤ running.sched ∧
    4064 + 32 ≤ running.pbeat ∧ 2096 + 2000 ≤ running.pbeat := by decide +kernel

def aWindow : VoidWindow := { entry := 0, first := 4090, len := 40, armed := true }
def windowed : State := oneArray { onArray with windows := [aWindow] }

theorem test_ramps_and_windows :
    (∃ e ∈ (oneArray { onArray with unparkAt := some 4000 }).arrays, e.1 / 2048 = 0 ∧ e.2.unparkAt ≠ none ∧ e.2.ramp = false) ∧
    (windowed.array 0).inVoid = false ∧ (windowed.array 0).windows.find? (fun w => w.armed && decide (w.first ≤ windowed.pbeat) && decide (windowed.pbeat < w.first + w.len)) =
      some aWindow ∧
    (∀ w ∈ ((oneArray { onArray with inVoid := true, windows := [{ aWindow with len := 6 }] }).array 0).windows,
      w.armed = true → w.first ≤ running.pbeat → w.first + w.len ≤ running.pbeat) := by decide +kernel

theorem test_shaping_in_holds :
    let hold : State := { running with beat := { heldBeat with hubDemand := true, history := List.replicate 16 { service := true } }
                                       arrays := [(0, { onArray with driven := 3, decay := 32 })] }
    let notice : State := { running with beat := heldBeat, arrays := [(0, { onArray with lastD := 5 })] }
    hold.beat.held = true ∧ hold.inReleaseNotice = false ∧ 32 ≤ (hold.array 0).decay ∧ 0 < (hold.array 0).driven ∧
    notice.inReleaseNotice = true ∧ (notice.array 0).power ≠ 3 ∧ (notice.array 0).rampAt ≠ some notice.wall ∧
    (notice.array 0).driven < (notice.array 0).level (notice.pbeat - 8) (notice.array 0).lastD := by decide +kernel

/-- The manual's `PASS` word (chapter 4), and a `LOADACC` and a `DRAIN` of FP32. -/
def passW : Nat := 0x14803F0A00000000A001400005004000
def loadW : Nat := word [(4, 124), (9, 118), (7, 115), (7, 112), (0x100, 94), (32, 76)]
def drainW : Nat := word [(5, 124), (9, 113), (7, 110), (7, 107), (0x200, 84), (32, 66)]

theorem test_pass : let s := gang passW { onArray with loops := [{ start := 0, endIdx := 9, count := 4, idx := 0, aStep := 0, sStep := 0, dStep := 0, accStep := 1 }] }
    Issues s 1 passW (fun _ _ => True) ∧ ∀ m ∈ s.members 0, passCheck s m (BitVec.ofNat 128 passW) = none := by
  unfold Issues State.offers; decide +kernel
theorem test_loadacc : let s := gang loadW onArray
    Issues s 4 loadW (fun _ _ => True) ∧ ∀ m ∈ s.members 0, loadCheck s m (BitVec.ofNat 128 loadW) = none := by
  unfold Issues State.offers; decide +kernel
theorem test_drain : let s := gang drainW onArray
    Issues s 5 drainW (fun _ _ => True) ∧ ∀ m ∈ s.members 0, drainCheck s m (BitVec.ofNat 128 drainW) = none := by
  unfold Issues State.offers; decide +kernel

/-- The first pass beat of the manual's `PASS` in the path, issued at beat 4,080, and its stream at the line of a record. -/
def passItem : PathItem := { kind := .pass, issue := 4080, acc := 0, word := BitVec.ofNat 128 passW }
def aLine : StreamLine := { line := 330, data := List.replicate 96 (0x41 : Byte), poison := List.replicate 12 false, arriveAt := 4090, arrived := true }

theorem test_pass_beat :
    let r : PassRun := { word := BitVec.ofNat 128 passW, aEff := 0, asEff := 0, acc := 0, total := 8, issued := 2, start := 4094 }
    let s := gang passW { onArray with pass := some r }
    s.runs = true ∧ (s.array 0).pass = some r ∧ (s.array 0).leader.toNat = 0 ∧ r.issued < r.total ∧ r.start + r.issued ≤ s.pbeat := by
  decide +kernel

theorem test_pass_broadcast :
    let p := passFields passItem.word
    let s := oneArray { onArray with path := [passItem], streams := [(p.stream, { buf := List.replicate 4 aLine })] }
    let starved := oneArray { onArray with path := [passItem] }
    let need := recordBytes p (blockStarts (scaleBlock p.scale) (passItem.beat * dotLength p.fmtB) (dotLength p.fmtB)).length
    (s.array 0).path.find? (fun it => it.kind == .pass && it.bRec.isNone && decide (it.issue + 8 ≤ s.pbeat)) = some passItem ∧
    need ≤ (streamBytes 0 (SMap.get {} (s.array 0).streams p.stream) s.pbeat).length ∧
    (streamBytes 0 (SMap.get {} (starved.array 0).streams p.stream) s.pbeat).length < need := by decide +kernel

/-- A stream of phases 0 and 8 that has fetched nothing. -/
def aDesc : StreamDesc := { phaseMask := 0x0101, startLine := 0, stride := 1, count := 4, fetched := 0, issuedAt := 4090 }

theorem test_stream_fetch :
    let st : StreamState := { cur := some aDesc }
    let s := oneArray { onArray with active := true, streams := [(0, st)] }
    s.runs = true ∧ (s.array 0).active = true ∧ fetchDesc st = some (aDesc, false) ∧ bitOf aDesc.phaseMask (s.pbeat % 16) = true ∧
    aDesc.issuedAt < s.pbeat ∧ st.fetchedAt ≠ some s.pbeat ∧ st.buf.length + (if st.freedAt = s.pbeat then st.freed else 0) < 32 := by
  decide +kernel

theorem test_line_arrival :
    let l := { aLine with arrived := false }
    let s := oneArray { onArray with streams := [(0, { buf := [aLine, l] })] }
    (SMap.get {} (s.array 0).streams 0).buf = [aLine] ++ l :: [] ∧ (∀ x ∈ [aLine], x.arrived = true ∨ s.pbeat < x.arriveAt) ∧
    l.arriveAt ≤ s.pbeat := by decide +kernel

/-- A load and a broadcast pass beat at the ends of their paths, and a drained byte that is due. -/
def pathState (it : PathItem) : State := oneArray { onArray with path := [it], drains := [{ due := 4096, writes := [(storeBase 0 + 5, 0x5A)] }] }
def pathWitness (s : State) : Prop :=
  s.runs = true ∧ ∃ it ∈ (s.array 0).path, it.issue + 15 ≤ s.pbeat ∧ (it.kind = .pass → it.bRec ≠ none)

theorem test_path_items :
    pathWitness (pathState { passItem with kind := .load, load := List.replicate 64 7 }) ∧ pathWitness (pathState { passItem with kind := .zero }) ∧
    pathWitness (pathState { passItem with bRec := some [] }) := by
  unfold pathWitness; decide +kernel

/-- Where no mark is listed and no memory has been lost, no word is marked. -/
theorem test_unmarked : (gang passW onArray).unmarked := by
  have h (a : Nat) : (gang passW onArray).mark a = none := by
    have e : (gang passW onArray).lostAt a = false := by
      show (decide (a < 0x4000000000) && false) = false
      simp
    show (if (gang passW onArray).lostAt a then some EccMark.poison else none) = none
    simp [e]
  exact fun a => ⟨h a, h a⟩

theorem test_path_effects :
    let s := pathState { passItem with kind := .load, load := List.replicate 64 7 }
    after (.accumulatorWrite 0) s (fun t => (t.array 0).accum 0 63 == 7 && (t.array 0).path.isEmpty) = true ∧
    after (.drainOutputWrite 0) s (fun t => t.byte (storeBase 0 + 5) == 0x5A && (t.array 0).drains.isEmpty) = true := by decide +kernel

/-! ### Beats and waits -/

/-- Table 2.3: a demand that stands at the end of wall beats 1,000 to 1,022 holds wall beats 1,016 to 1,038. -/
def table23 (wall : Nat) (held : Bool) : State :=
  { beat := { aligned := true, wallBeat := BitVec.ofNat 64 wall, held := held, causeWait := held
              history := (List.range 16).map fun k => { waits := if 1000 ≤ wall - 1 - k ∧ wall - 1 - k < 1023 then 4 else 0 } } }

theorem test_table_2_3 :
    after .holdDemandArrival (table23 1014 false) (fun t => !t.beat.held) = true ∧
    after .holdDemandArrival (table23 1015 false) (fun t => t.beat.held && t.beat.causeWait) = true ∧
    after .holdDemandArrival (table23 1037 true) (fun t => t.beat.held) = true ∧
    after .holdDemandArrival (table23 1038 true) (fun t => !t.beat.held && t.beat.heldWait == 1) = true := by decide +kernel

/-- A brake value of 4 holds the beats 3, 7, 11 and 15 of each frame of 16 (R50). -/
theorem test_brake_pattern : ((List.range 16).filter fun w => brakeHolds 4 w) = [3, 7, 11, 15] := by decide +kernel

/-- Array 0 waits for counter 0x120 of its die to reach 6; `left` held beats remain. -/
def aWait (left : Nat) : WaitState := { unit := .array 0, die := 0, counter := 0x120, target := 6, heldLeft := left, sampleWall := 4000 }
def waiting (left : Nat) (value : Word32) (abort : Word64) : State :=
  { beat := { heldBeat with waits := [aWait left] }, prog := { running := true }, counters := [(0, { copies := [(0x20, value)], abortCopy := abort })] }

theorem test_wait_ends :
    (waiting 9 6 0).waitOf (.array 0) = some (aWait 9) ∧ atOrAbove ((waiting 9 6 0).counterValue 0 0x120) 6 = true ∧
      (waiting 9 6 0).waitAborts (aWait 9) = false ∧
    (waiting 0 5 0).waitOf (.array 0) = some (aWait 0) ∧ atOrAbove ((waiting 0 5 0).counterValue 0 0x120) 6 = false ∧
    (waiting 9 5 1).waitAborts (aWait 9) = true := by decide +kernel

theorem test_brake_apply_and_fault_hold :
    let b : State := { beat := { liveBeat with brakePending := [(7, 4070), (4, 4080), (9, 4081)] } }
    let f (done : Bool) : State := { beat := { heldBeat with faultHold := true, stopped := done }, prog := { running := !done } }
    b.beat.brakePending = [(7, 4070)] ++ (4, 4080) :: [(9, 4081)] ∧
    (∀ x ∈ [((7 : BitVec 4), 4070)] ++ [(4, 4080)], x.2 + 16 ≤ b.wall / 16 * 16) ∧
    (∀ x ∈ [((9 : BitVec 4), 4081)], b.wall / 16 * 16 < x.2 + 16) ∧ (f true).beat.stopped = true ∧ (f false).stopReady = true ∧
    (f false).prog.running = true := by decide +kernel

/-- The ten links are operational, site 0 raised zero_mark in provisional beat 1,008, and beat zero has not come. -/
def trained : State := { power := { stage := 2, clocks := true }, beat := { provBeats := 1024, zeroMark := some 1008 }, ends := (List.range 20).map fun n => (n, { state := 4 }) }

theorem test_beat_zero : trained.power.stage = 2 ∧ trained.beat.aligned = false ∧ (∀ l < 10, (trained.linkEnd (2 * l)).state = 4) ∧
    trained.beat.zeroMark = some 1008 ∧ trained.beat.provBeats = 1008 + 16 := by decide +kernel

/-- R272: zero_mark is raised in the provisional beat 16 before a multiple of 1,024, once the ten links are aligned. -/
theorem test_zero_mark :
    after .holdDemandArrival { trained with beat := { provBeats := 1007 } } (fun t => t.beat.provBeats == 1008 && t.beat.zeroMark == some 1008) = true ∧
    after .holdDemandArrival { trained with beat := { provBeats := 1006 } } (fun t => t.beat.zeroMark == none) = true := by decide +kernel

theorem test_program_beat_zero :
    let s : State := { beat := liveBeat, prog := { startAt := some 500 }, mach := { locked := true, count := 600 * 128000000 } }
    (500 : Word64).toNat ≤ s.cadNs ∧ s.mach.locked = true ∧ s.live = true ∧ s.sched % 256 = 0 ∧ s.beat.faultHold = false := by decide +kernel

/-! ### Chainline -/

def aFlit : Flit := { data := 0xC0FFEE, tag := 0, poison := 0 }
/-- Router 7 of die 0 sends what it has at W to S and to X. -/
def slotState : State := { running with routers := [(7, { inputs := [(.w, 4096, aFlit)], slots := [(0, BitVec.ofNat 64 (word [(4, 56), (4, 36)]))] })] }

theorem test_slot :
    let e := slotState.slotEntry 7
    slotState.runs = true ∧ (slotState.router 7).slotAt ≠ some slotState.beat.routed ∧ bitOf e 9 = false ∧ bitOf e 14 = false ∧
    slotOutputs[1]? = some .s ∧ entrySource e 1 = some .w ∧ slotState.programSource 7 .w = some aFlit ∧ (meshNext 7 .s).isSome = true ∧
    slotOutputs[6]? = some .x ∧ entrySource e 6 = some .w ∧ meshNext 7 .x = none ∧ (farPort 7 .x).isSome = true ∧
    (∀ p ∈ edgePorts, onLightplane 15 p = false) := by decide +kernel

theorem test_slot_moves :
    after (.chainlineSlot 7) slotState (fun t => (t.router 15).inputs == [(.n, 4097, aFlit)] && (t.router 7).inputs.isEmpty &&
      (t.router 7).slotAt == some 0) = true := by decide +kernel

theorem test_lane_flits :
    let s : State := { running with routers := [(256, { window := [(.x, 4096, 4082, aFlit)] })] }
    s.live = true ∧ (s.router 256).window.find? (fun x => x.1 == .x && decide (x.2.1 ≤ s.sched)) = some (.x, 4096, 4082, aFlit) ∧
    onLightplane 3 .p0 = true ∧ ((s.router 3).fifoIn.filter fun x => x.1 == .p0).length < 64 ∧ s.crossingShut (.fab (Fin.ofNat 4 (3 / 512))) = false := by
  decide +kernel

/-- A transit flit from die 0 to die 2. -/
def onWay (no track at_ : Nat) : TransitFlit := { way := 2, no := no, track := track, at_ := at_, flit := aFlit }
/-- All links are live. Crossing 0 carries a flit on its last hop, one that has further to go, one that waits and one that comes, and has a free
place; a flit has left crossing 6, the last of the path from die 0 to die 2. -/
def transit : State :=
  { beat := heldBeat
    crossings := [(0, { buffer := [onWay 3 0 0], onTrack := [onWay 2 3 5, onWay 1 4 31], used := 5, freed := 1
                        coming := [onWay 4 1 4096], leaving := [onWay 0 0 4090] }),
                  (12, { leaving := [onWay 0 0 4096], used := 1, freed := 1 })]
    ends := (List.range 36).map fun n => (n, { state := 4 })
    fabs := [(0, { transitOut := [(2, [aFlit])], transitNo := 5 })] }
def cut : State := { transit with ends := [] }

theorem test_transit_moves :
    let c := crossingOf 0
    transit.beat.held = true ∧ (transit.crossing 0).movedAt ≠ some transit.wall ∧ c.hops 3 = 32 ∧ transit.exitLive c false = true ∧
    transit.exitFree (0, false) = true ∧ transit.entryFree (0, false) = true ∧ transit.nextFlit (0, false) = some (onWay 3 0 0) ∧
    transit.holdsCredit (0, false) 2 = true ∧ nextWay (0, false) 2 = some 12 ∧ transit.entryLive c false = true ∧
    (transit.crossing 0).used < 32 ∧
    (firstSenders (0, false)).find? (fun p => !(SMap.get [] (transit.fab p.1).transitOut p.2).isEmpty && !transit.crossingShut (.fab (Fin.ofNat 4 p.1))) =
      some (0, 2) ∧
    cut.exitLive c false = false ∧ cut.entryLive c false = false ∧ (crossingOf 3).hops 0 = 1 ∧
    ({ running with crossings := [(0, { movedAt := none })] } : State).sched % 16 = 0 ∧ c.first = 12 ∧ c.last = 15 := by decide +kernel

theorem test_transit_arrivals :
    let here (y : TransitFlit) : Bool := y.flit == aFlit && decide (y.at_ ≤ transit.wall)
    (transit.crossing 0).coming.find? here = some (onWay 4 1 4096) ∧ (transit.crossing 12).coming = [] ∧
    onWay 0 0 4090 ∈ (transit.crossing 0).leaving ∧ beforeIn (6, false) (transitPath 0 2) = some (0, false) := by decide +kernel

theorem test_transit_credits :
    transit.arrivedFlit 12 = some (onWay 0 0 4096) ∧ transit.arrivedFlit 0 = none ∧
    0 < (transit.crossing 12).freed ∧ transit.crossingMoves (crossingOf 6) = true ∧ transit.entryLive (crossingOf 6) false = true ∧
    (edgeEnd (crossingOf 6).site ((crossingOf 6).entry false)).isSome = true ∧
    (edgeEnd (crossingOf 6).site ((crossingOf 6).exit false)).isSome = true ∧ (transit.crossing 3).freed = 0 := by decide +kernel

/-- R142: a flit of track 0 of the one-hop crossing of site 2 leaves in the beat in which it enters. -/
theorem test_transit_one_hop :
    after (.transitMove 3 false) { transit with crossings := [(6, { buffer := [{ way := 9, no := 0, flit := aFlit }], used := 1 })] }
      (fun t => (t.crossing 6).buffer.isEmpty && (t.crossing 6).onTrack.isEmpty &&
        (t.crossing 6).leaving == [{ way := 9, no := 0, track := 0, at_ := 4110, flit := aFlit }]) = true := by decide +kernel

/-- Crossings 1 and 2 share the link into site 1: the flit that the second would send waits a beat (log entry 97). -/
theorem test_transit_shared_link :
    after (.transitMove 1 false) { transit with crossings := [], fabs := [(0, { transitOut := [(1, [aFlit]), (3, [aFlit])] })] } (fun t =>
      (t.crossing 2).coming.length == 1 && !t.entryFree (2, false) &&
        after (.transitMove 2 false) t fun u => (u.crossing 4).coming.isEmpty && SMap.get [] (u.fab 0).transitOut 3 == [aFlit]) = true := by
  decide +kernel

/-! ### Servant traffic -/

/-- A request of channel 0 for four bytes of a store or scratchpad. -/
def localReq (write : Bool) (addr : Nat) : ServantReq :=
  { owner := .access 0 1, write := write, addr := addr, data := List.replicate 4 7, poison := List.replicate 4 false, len := 4, whole := 4 }

/-- Its flit at input W of a router, its line when it has been read, and the place: line 5 of the first array of router 15. -/
def aPlace : Nat := storeBase (routerArray 15 0) + 64 * 5 + 8
def reqFlit (write : Bool) (addr : Nat) : ServFlit := { ServFlit.ofReq (localReq write addr) 0 .v 0 with port := .w }
def dataFlit : ServFlit := { reqFlit false aPlace with kind := .data }

/-- One servant flit at a router, with no program and in a granted entry that names outputs for W. -/
def flitAt (r : RouterId) (x : ServFlit) : State := { beat := liveBeat, routers := [(r, { servant := [x] })] }
def grantAt (r : RouterId) (x : ServFlit) (out : Nat) : State :=
  { running with routers := [(r, { servant := [x], slots := [(0, BitVec.ofNat 64 (word [(4, 60 - 4 * out), (1, 9)]))] })] }

theorem oneFlit_of {s : State} {r : RouterId} {x : ServFlit} {q : PortName} (hl : s.localReqs = [])
    (h : s.beat.aligned = true ∧ (s.router r).slotAt ≠ some s.beat.routed ∧ (s.router r).servant = [x] ∧ x.ready ≤ s.beat.routed ∧
      x.port ≠ .l ∧ (s.router r).request = none ∧ (s.router r).fifoIn = [] ∧ s.servantRoom r x q = true ∧
      (s.prog.running = false ∧ q = x.wants r ∨
        s.runs = true ∧ bitOf (s.slotEntry r) 9 = true ∧ entryOuts r (s.slotEntry r) x.port = [q])) : s.oneFlit r x q :=
  ⟨h.1, h.2.1, h.2.2.1, h.2.2.2.1, h.2.2.2.2.1, h.2.2.2.2.2.1, h.2.2.2.2.2.2.1, fun k => by rw [hl]; rfl, h.2.2.2.2.2.2.2.1,
    h.2.2.2.2.2.2.2.2⟩

theorem test_servant_hops :
    ((flitAt 7 (reqFlit true aPlace)).laneBeats 7).oneFlit 7 (reqFlit true aPlace) .s ∧ (meshNext 7 .s).isSome = true ∧
    ((flitAt 7 (reqFlit true (storeBase 2048))).laneBeats 7).oneFlit 7 (reqFlit true (storeBase 2048)) .x ∧
    meshNext 7 .x = none ∧ (farPort 7 .x).isSome = true ∧
    ((grantAt 15 (reqFlit true aPlace) 1).laneBeats 15).oneFlit 15 (reqFlit true aPlace) .s := by
  refine ⟨oneFlit_of ?_ ?_, ?_, oneFlit_of ?_ ?_, ?_, ?_, oneFlit_of ?_ ?_⟩ <;> decide +kernel

theorem test_servant_served :
    ((flitAt 15 (reqFlit true aPlace)).laneBeats 15).oneFlit 15 (reqFlit true aPlace) .l ∧
    ((flitAt 15 (reqFlit false aPlace)).laneBeats 15).oneFlit 15 (reqFlit false aPlace) .l ∧
    ((flitAt 0 dataFlit).laneBeats 0).oneFlit 0 dataFlit .v ∧ servesOwner 0 .v (.access 0 1) = true := by
  refine ⟨oneFlit_of ?_ ?_, oneFlit_of ?_ ?_, oneFlit_of ?_ ?_, ?_⟩ <;> decide +kernel

theorem test_servant_places :
    let s := flitAt 15 (reqFlit true aPlace)
    let w : State := { grantAt 15 (reqFlit true aPlace) 4 with arrays := [(routerArray 15 0, { onArray with active := true })] }
    tagPlace 15 (reqFlit true aPlace).flit.tag = some (aPlace - 8) ∧ (reqFlit true aPlace).span = (8, 4) ∧
    s.servantError true aPlace 4 = false ∧ w.servantError true (storeBase (routerArray 15 0) + 0x2C000) 4 = true ∧
    SMap.get 0 s.t0Writes aPlace ≤ 2 := by decide +kernel

theorem test_servant_effects :
    after (.servantChainlineRequest 15) (flitAt 15 (reqFlit true aPlace)) (fun t => t.bytes (aPlace - 1) 6 == [0, 7, 7, 7, 7, 0]) = true ∧
    after (.servantChainlineRequest 7) (flitAt 7 (reqFlit true aPlace)) (fun t => (t.router 15).servant.map (fun x => (x.port, x.ready)) == [(.n, 1)]) = true ∧
    after (.servantChainlineRequest 15) (flitAt 15 (reqFlit false aPlace)) (fun t => (t.router 15).request.isSome && t.mem.isEmpty) = true := by
  decide +kernel

/-- A read that is pending at router 15; its line leaves towards router 14. -/
theorem test_pending_read :
    let x := { reqFlit false aPlace with port := .l }
    let s : State := { beat := liveBeat, routers := [(15, { request := some x })] }
    s.prog.running = false ∧ (s.router 15).slotAt ≠ some s.beat.routed ∧ (∀ p ∈ edgePorts, onLightplane 15 p = false) ∧
    (s.router 15).request = some x ∧ x.ready ≤ s.beat.routed ∧ tagPlace 15 x.flit.tag = some (aPlace - 8) ∧
    meshNext 15 ({ x with kind := .data }.wants 15) = some (14, .e) := by decide +kernel

/-! ### Memory and copy channels -/

/-- A request of channel 0 for `len` bytes of a vault or stack. -/
def memReq (write : Bool) (addr len : Nat) : ServantReq :=
  { owner := .access 0 1, write := write, addr := addr, data := List.replicate len 7, poison := List.replicate len false, len := len, whole := len }
def atomicReq (addr : Nat) : ServantReq := { memReq true addr 8 with atomic := some (0, 1, 0) }
/-- It at the head of vault 0's queue, in a held beat of a running program that the hub goes on demanding. -/
def vaultState (v : VaultState) (m : DieMem) : State :=
  { beat := { heldBeat with history := List.replicate 16 { service := true }, hubDemand := true }, prog := { running := true }
    vaults := [(0, v)], dieMem := [(0, m)], nowNs := 200000 }

theorem test_refresh_and_vault :
    let owes := vaultState {} { owedUnits := 2560 }
    (∀ q ∈ [memReq true 64 40, memReq true 66 2, memReq false 66 2, atomicReq 64],
      let s := vaultState { queue := [q] } {}
      (s.vault 0).queue = q :: [] ∧ s.vaultSlot 0 = .servant ∧ s.refreshFirst 0 = false ∧ (s.vault 0).writeback = none ∧ s.scrubDue 0 = false ∧
      q.data.length = q.len ∧ q.poison.length = q.len) ∧
    owes.vaultSlot 0 = .servant ∧ owes.refreshFirst 0 = true ∧
    ({ running with beat := { liveBeat with schedBeat := 4099 } } : State).vaultSlot 0 = .refresh ∧
    (vaultState { queue := [memReq true 66 2], merging := true } {}).vaultSlot 0 = .servant ∧
    mergesAt 0 (memReq true 64 40) = false ∧ linePart 0 (memReq true 64 40) = 32 ∧ mergesAt 0 (memReq true 66 2) = true ∧
    linePart 0 (memReq true 66 2) = 2 := by decide +kernel

theorem test_scrub :
    let m : DieMem := { owedAt := some 200000, servingFrom := 100000 }
    let s := { vaultState {} m with ecc := [(1, .single)] }
    let back := { vaultState { writeback := some 0 } m with ecc := [(1, .single)] }
    s.scrubSlot 0 = true ∧ s.scrubDue 0 = true ∧ (s.vault 0).writeback = none ∧ back.scrubSlot 0 = true ∧ (back.vault 0).writeback = some 0 ∧
    back.mark (vaultBase 0 + 96 * 0 + 8 * 1) = some .single := by decide +kernel

/-- A request at the head of the queue of HBM4 stack 0, or of capacity stack 0 (instance 16). -/
def stackState (n : Nat) (k : StackState) : State := { memStacks := [(n, { k with state := 2 })], nowNs := 1000 }

theorem test_stack_access :
    let q := memReq true (hbmBase 0 + 32) 64
    let s := stackState 0 { queue := [q] }
    (s.stk 0).queue = [q] ∧ (s.stk 0).state = 2 ∧ s.inDomainReset (.stk 0) = false ∧ q.tries < 3 ∧ ({ q with tries := 3 } : ServantReq).tries = 3 ∧
    min q.len (64 - q.addr % 64) < q.len ∧ (({ memStacks := [(0, { queue := [q] })] } : State).stk 0).state ≠ 2 ∧
    (∀ q ∈ [memReq true (hbmBase 0 + 32) 64, memReq false (hbmBase 0) 64, atomicReq (hbmBase 0)], q.data.length = q.len ∧ q.poison.length = q.len) ∧
    after (.stackAccess 0 .clean) s (fun t => t.byte (hbmBase 0 + 63) == 7 && t.byte (hbmBase 0 + 64) == 0) = true := by
  decide +kernel

theorem test_capacity_port :
    let w : ServantReq := { memReq true (capBase 0) 40 with tries := 4 }
    let r := memReq false (capBase 0) 32
    let both := stackState 16 { queue := [w, r], turnAt := 872 }
    let s := stackState 16 { queue := [w], dirWrite := true, turned := true, turnAt := 992 }
    (both.stk 16).state = 2 ∧ (both.stk 16).turnAt + 128 ≤ both.nowNs ∧ both.inDomainReset (.cap 0) = false ∧
    (both.stk 16).queue.find? (fun q => q.write == (both.stk 16).dirWrite) = some r ∧ r.len ≤ min r.len (32 - r.addr % 32) ∧
    (s.stk 16).queue.find? (fun q => q.write == (s.stk 16).dirWrite) = some w ∧ (s.stk 16).turnAt + 8 ≤ s.nowNs ∧ 4 ≤ w.tries ∧ r.tries < 4 ∧
    min w.len (32 - w.addr % 32) < w.len ∧ (({ memStacks := [(16, { queue := [w] })] } : State).stk 16).state ≠ 2 ∧
    (∀ x ∈ [capBase 0, capBase 0 + 31], regionOf x = some (.cap 0, x - capBase 0)) := by decide +kernel

/-- The check value of the CRC-16 of polynomial 0x1021 over the digits 1 to 9 from 0 is 0x31C3, and a lane error is found (R229). -/
theorem test_crc16 :
    crc16F 72 0x313233343536373839 0 = 0x31C3 ∧ (receivedFlit (List.replicate 32 0x5A) 0).2 = true ∧
    (receivedFlit (List.replicate 32 0x5A) 1).2 = false := by decide +kernel

/-- A descriptor in progress of channel 0, with one access outstanding. -/
def aDescRun (x : Access) : DescRun :=
  { src := 0x100, dst := 0x200, length := 64, srcW := 64, dstW := 64, silent := false, last := true, next := 0, readIssued := 64, out := [x] }
def anAccess (write : Bool) (id : Option Word32) (resp : Option (Bool × List Byte × List Bool)) : Access :=
  { n := 5, write := write, off := 0x100, len := 64, issued := 1000, reqId := id, resp := resp }
def channelState (d : DescRun) : State := { nowNs := 101000, channels := [(0, { state := 1, cur := some d, desc := BitVec.ofNat 64 (scratchBase 0) })] }

theorem test_access_responses :
    (∀ r ∈ [(true, false, [], []), (false, false, List.replicate 64 (1 : Byte), List.replicate 64 false), (false, true, [], [])],
      let x := anAccess r.2.1 none (some (r.1, r.2.2.1, r.2.2.2))
      ((channelState (aDescRun x)).channel 0).cur = some (aDescRun x) ∧ (aDescRun x).out.find? (fun x => x.n == 5 && x.resp.isSome) = some x) ∧
    (aDescRun (anAccess false none none)).out.find? (fun x => x.n == 5 && x.resp.isNone) = some (anAccess false none none) ∧
    (aDescRun (anAccess false (some 9) none)).out.find? (fun x => x.n == 5 && x.resp.isNone) = some (anAccess false (some 9) none) ∧
    (anAccess false none none).issued = 1000 ∧ (anAccess false (some 9) none).issued = 1000 := by decide +kernel

theorem test_access_timeouts :
    let s := channelState (aDescRun (anAccess false (some 9) none))
    let t : State := { s with fabs := [(0, { out := [{ reqId := 9, deadline := 51000 }] })] }
    s.nowNs = 101000 ∧ (∀ o ∈ (s.fab 0).out, o.reqId ≠ 9) ∧ (s.fab 0).injecting 9 = false ∧
    (t.fab 0).out.find? (fun o => o.reqId == 9) = some { reqId := 9, deadline := 51000 } := by decide +kernel

/-- A status write or fetch of channel 0 under way, with its response. -/
def aControl (fetch : Bool) (resp : Option (Bool × List Byte × List Bool)) : ControlAccess :=
  { fetch := fetch, n := 3, addr := scratchBase 0, issued := 1000, resp := resp }

theorem test_descriptor_ends :
    let d := { aDescRun (anAccess true none none) with out := [], writeDone := 64 }
    let bad := { d with failed := true }
    ((channelState d).channel 0).cur = some d ∧ ((channelState d).channel 0).ctl = none ∧ d.status = some 0x01 ∧ bad.status = some 0x12 ∧
    (∀ r ∈ [none, some (true, [], []), some (false, [], [])],
      let s : State := { nowNs := 51000, channels := [(0, { state := 1, cur := some d, ctl := some (aControl false r) })] }
      (s.channel 0).cur = some d ∧ (s.channel 0).ctl = some (aControl false r) ∧ (aControl false r).issued + 50000 ≤ s.nowNs) ∧
    (let s : State := { channels := [(0, { stopReq := true, state := 1 })] }
     (s.channel 0).stopReq = true ∧ (s.channel 0).cur = none) ∧
    regionOf (gaOffset (BitVec.ofNat 64 (vaultBase 0)).toNat + 23) = some (.vault 0, 23) ∧ (channelState d).regionServes (.vault 0) = true := by
  decide +kernel

theorem test_descriptor_fetch :
    let start (a : Nat) (b : Nat) : ChannelState := { queue := [{ first := BitVec.ofNat 64 a, budget := b, owner := none }] }
    (∀ x ∈ [(vaultBase 0, 3), (vaultBase 0, 0), (vaultBase 0 + 8, 3)],
      let s : State := { channels := [(0, start x.1 x.2)] }
      let c1 : ChannelState := { queue := [], budget := BitVec.ofNat 16 x.2 }
      (s.channel 0).cur = none ∧ (s.channel 0).stopReq = false ∧ (s.channel 0).state ≠ 2 ∧ s.inDomainReset (.vault 0) = false ∧
      (s.channel 0).ctl = none ∧ (s.channel 0).startChain = some (c1, x.1) ∧ (x.2 = 3 → c1.chain.toNat < c1.budget.toNat) ∧
      (x.2 = 0 → c1.budget.toNat ≤ c1.chain.toNat) ∧ x.1 < 2 ^ 64 ∧ gaSpace x.1 = 0 ∧ s.ownAddress x.1 = true ∧
      regionOf (gaOffset x.1) = some (.vault 0, x.1 % 32)) ∧ vaultBase 0 % 32 = 0 ∧ (vaultBase 0 + 8) % 32 ≠ 0 ∧
    (∀ r ∈ [none, some (true, [], []), some (false, List.replicate 32 (0 : Byte), List.replicate 32 false)],
      let s : State := { nowNs := 51000, channels := [(0, { state := 1, ctl := some (aControl true r) })] }
      (s.channel 0).cur = none ∧ (s.channel 0).stopReq = false ∧ (s.channel 0).state ≠ 2 ∧ s.inDomainReset (.vault (Fin.ofNat 8 (0 / 32))) = false ∧
      (s.channel 0).ctl = some (aControl true r) ∧ (aControl true r).issued + 50000 ≤ s.nowNs) := by decide +kernel

/-! ### Chaxel -/

/-- Link ends 20 and 21 are live in a wall beat. -/
def links (wall : Nat) (a b : EndState) : State :=
  { beat := { aligned := true, wallBeat := BitVec.ofNat 64 wall }, ends := [(20, { a with state := 4 }), (21, { b with state := 4 })] }

/-- A group with a wrong bit fails, alone in its group time and beside another that was asked for (R258, R261). -/
theorem test_groups :
    let s := links 4109 { asked := [(9, 4109, 0)] } {}
    let sent := (links 4109 {} {}).launchedGroup 20 7 4104
    ((links 4109 {} {}).linkEnd 20).state = 4 ∧ groupCheckBeat (links 4109 {} {}).wall = true ∧ groupStart 4109 = 4104 ∧
    groupCrc (withErrors sent 1) ≠ groupCrc sent ^^^ 0 ∧
    (s.linkEnd 20).asked.find? (fun x => groupStart x.2.1 == 4104) = some (9, 4109, 0) ∧
    (∀ x ∈ ((links 4109 { asked := [(9, 4093, 0)] } {}).linkEnd 20).asked, groupStart x.2.1 ≠ 4104) := by decide +kernel

theorem test_replay_requests :
    let s := links 4110 {} { asked := [(9, 4109, 0)] }
    let w := s.requestSent (20 ^^^ 1) (s.wall - 1)
    (s.linkEnd 20).state = 4 ∧ groupCheckBeat (s.wall - 1) = true ∧ w = 0x825 ∧
    ((List.range 12).filter fun i => bitOf (w ^^^ 1) i).length % 2 = 1 ∧ ((List.range 12).filter fun i => bitOf w i).length % 2 = 0 ∧
    bitOf w 11 = true ∧ fld w 10 2 = 9 ∧ (links 4110 {} {}).requestSent (20 ^^^ 1) 4109 = 0 ∧
    (s.linkEnd (20 ^^^ 1)).asked.find? (fun x => x.2.1 == s.wall - 1) = some (9, 4109, 0) ∧ alignmentMark = 0xFFC := by decide +kernel

/-- Beat 0 and beat 3 of the replay of group 9; without a replay the check fails (R262, R263). -/
theorem test_replay_checks :
    (∀ x ∈ [(4109, 0), (4112, 3)],
      let s := links x.1 { asked := [(9, 4105, x.2)] } { replaying := [(9, 4100)] }
      let none_ := links x.1 { asked := [(9, 4105, x.2)] } {}
      (s.linkEnd 20).state = 4 ∧
      (s.linkEnd 20).asked.find? (fun y => groupStart y.2.1 + 9 + y.2.2 == s.wall) = some (9, 4105, x.2) ∧
      replayCrc 9 x.2 ((s.replaySent 20 (s.wall - 2)).1 ^^^ 0) = (s.replaySent 20 (s.wall - 2)).2 ^^^ 0 ∧
      replayCrc 9 x.2 ((none_.replaySent 20 (s.wall - 2)).1 ^^^ 0) ≠ (none_.replaySent 20 (s.wall - 2)).2 ^^^ 0) := by decide +kernel

/-- Three copies of an idle hold word with different errors: the majority counts, and two bits disagree (R265). -/
theorem test_phase_and_hold_words :
    let s := links 4109 {} {}
    (s.linkEnd 20).state = 4 ∧ 150 < (-151 : Int).natAbs ∧ s.beatNow ≠ 0 ∧ s.beat.aligned = true ∧ 1 ≤ s.wall ∧ beatLink (4 / 2) = true ∧
    beatLink (22 / 2) = false ∧
    after (.holdWordReceive 20 0x0F 0x0E 0x0C) s (fun t => (t.linkEnd 20).holdWord == 0x0E && (t.linkEnd 20).holdFix == 2) = true := by
  decide +kernel

/-- Link 0 in a state of its training. -/
def training (st : BitVec 3) : State := { power := { stage := 2, clocks := true }, ends := [(0, { state := st }), (1, { state := st })] }

/-- The capability words of dies 0 and 1: edition 1.0, 2.0 Gb/s, beat-locked, 256 groups, all features (Table 9.7). -/
def goodWord (die : Nat) : Word64 := withCapCrc (1 * 2 ^ 52 + 1 * 2 ^ 44 + 256 * 2 ^ 31 + 31 * 2 ^ 8 + die)
/-- Wrong bits that turn what end `e` sends into a good word and serial 5. -/
def copyOf (e : Nat) : TrainingWords :=
  { cap := capWord (endDie e) ^^^ goodWord (endDie e), identity := identityWord (endDie e) ^^^ 5 }

theorem copyOf_words (e : Nat) : (wordsOf e (copyOf e)).cap = goodWord (endDie e) ∧ (wordsOf e (copyOf e)).identity = 5 := by
  have h {n : Nat} (a b : BitVec n) : a ^^^ (a ^^^ b) = b := by rw [← BitVec.xor_assoc]; simp
  exact ⟨h _ _, h _ _⟩

theorem copyOf_accepted (e : Nat) (h : capCrcOk (goodWord (endDie e)) = true) :
    acceptCopies e (List.replicate 3 (copyOf e)) = some (wordsOf e (copyOf e)) := by
  simp [List.replicate, acceptCopies, copyOf_words e, h]

/-- With good fuses link 0 takes its words; words that never arrive fail. -/
theorem test_training_exchange (fuses : ∀ d, fuseGood d = true) :
    (training 0).power.stage = 2 ∧ (training 0).power.truingFault = false ∧ (training 0).power.clocks = true ∧
    ((training 1).linkEnd (2 * 0)).state = 1 ∧ ((training 2).linkEnd (2 * 0)).state = 2 ∧
    exchangeCause 0 (acceptCopies 0 (List.replicate 3 (copyOf 0))) (acceptCopies 1 (List.replicate 3 (copyOf 1))) = none ∧
    exchangeCause 0 none none = some 1 := by
  rw [copyOf_accepted 0 (by decide +kernel), copyOf_accepted 1 (by decide +kernel)]
  simp only [exchangeCause, fuses, copyOf_words]
  decide +kernel

/-- A position whose window is under 24 steps has failed: the clock of a group is not repaired (R267, R269). -/
theorem test_training_lanes (repairs : ∀ e, fusedWords e = []) :
    let rep : TrainingReport := { lowCopies := [], highCopies := [], sweeps := [], samples := [], retest := [], lowDelay := 0, highDelay := 0 }
    let s (f : List (Nat × Nat)) : State := { ends := [(0, { state := 2, trimFailed := f }), (1, { state := 2 })] }
    (s []).lanesCause 0 rep = none ∧ (s [(3, 33)]).lanesCause 0 rep = some 4 ∧ (s [(3, 9), (3, 10), (3, 34)]).lanesCause 0 rep = some 3 := by
  simp only [State.lanesCause, State.retestOk, State.failedAt, EndState.fusedAt, repairs]
  decide +kernel

/-- A failed position moves to the lowest spare that can be used (R269). -/
theorem test_repair_map :
    repairMap [(3, 9), (3, 34), (5, 2), (5, 1)] = [(3, [(9, 35)]), (5, [(1, 34), (2, 35)])] ∧
    laneCause [(3, 9), (3, 10), (3, 34)] = some 3 := by decide +kernel

theorem test_alignment :
    let s : State := { power := { stage := 2, clocks := true }, ends := (List.range 20).map fun n => (n, { state := if n / 2 = 3 ∨ n / 2 = 9 then 3 else 4 }) }
    let t : State := { s with ends := (List.range 20).map fun n => (n, { state := if n / 2 = 3 then 3 else 4 }) }
    s.power.stage = 2 ∧ s.power.clocks = true ∧ s.power.truingFault = false ∧ (s.linkEnd (2 * 9)).state = 3 ∧ (∀ x ∈ alignsAfter 9, (s.linkEnd (2 * x)).state = 4) ∧ 9 ∈ treeLinks ∧
    (List.replicate 16 7).map (s.markArrives 9) = List.replicate 16 7 ∧
    (t.linkEnd (2 * 3)).state = 3 ∧ (∀ x ∈ alignsAfter 3, (t.linkEnd (2 * x)).state = 4) ∧ 3 ∉ treeLinks ∧
    (∀ m ∈ (List.replicate 16 2).map (t.markArrives 3), (m + 2) % 2048 = 4) ∧
    (∀ d < 4, 1 ≤ d → ∃ m ∈ (List.replicate 15 1 ++ [3]).map (t.markArrives 3), (m + d) % 2048 ≠ 4) := by decide +kernel

/-! ### Lightplane -/

/-- Port 0 is up and enabled; wavelength 2 of its receiver is `x`. -/
def optic (x : WaveState) : State := { power := { stage := 3 }, settings := [(0x0440, 1)], ports := [(0, { state := 2, waves := [(0, x)] })] }

theorem test_frames :
    (∀ x ∈ [({} : WaveState), { align := 1, candidates := 3, lastSeq := 9 }, { align := 2, badRun := 3, lastSeq := 135 }],
      ((optic x).port 0).state ≠ 0 ∧ (optic x).terminated 0 0 = true ∧ (optic x).steered 0 0 = false) ∧
    (0xE8B3 : BitVec 16) = 0xE8B3 ∧ (10 : Byte).toNat = (9 + 1) % 136 ∧ (1 : Byte).toNat ≠ (135 + 1) % 136 ∧
    (let s : State := { ports := [(0, { state := 1, step := 5 })] }
     (s.port 0).state = 1 ∧ (s.port 0).step = 5) ∧ (243 : Byte).toNat = 240 + 3 ∧ (244 : Byte).toNat = 241 + 3 ∧
    (∀ w < 16, nfld (identFrame w).toNat 1007 1000 = 240 + w) := by
  refine ⟨by decide +kernel, by decide, by decide, by decide, by decide +kernel, by decide, by decide, fun w hw => ?_⟩
  have e (p : Nat) : nfld (frameBits (240 + w) p).toNat 1007 1000 = 240 + w := by
    simp only [nfld, frameBits, BitVec.toNat_ofNat]
    omega
  exact e _

/-- The generator of RS(544,514) is that of IEEE 802.3 Table 91-1 (log entry 22). -/
theorem test_rs_generator :
    rsGenerator = [523, 834, 128, 158, 185, 127, 392, 193, 610, 788, 361, 883, 503, 942, 385, 495, 720, 94, 132, 593, 249, 282, 565, 108, 1,
      552, 230, 187, 552, 575, 1] := by decide +kernel

/-- A shortened codeword with two wrong symbols is corrected; one of 46 data symbols has 16 wrong and is not (R287). -/
theorem test_rs_decode :
    rsDecode (((rsEncode [1, 2, 3]).set 0 77).set 20 5) = some (2, [1, 2, 3]) ∧
    rsDecode ((rsEncode [1, 2, 3]).mapIdx fun i x => if i < 16 then x ^^^ 1 else x) = none := by decide +kernel

/-- Two blocks of a burst of one frame come back from its bits (R295-R297, R312). -/
theorem test_burst_round :
    let bs : List (BitVec 257) := [BitVec.ofNat 257 (2 ^ 256 + 0x1234), 0xABCDEF]
    let bits := ((burstOf 24 bs).foldl (fun v f => v * 2 ^ 1024 + f.toNat) 0)
    let field := frameField 24 2048 bits 1024
    delimiterEnd 2048 bits = some 1024 ∧ badFrames 24 field = 0 ∧ delimiterEnd 64 0 = none ∧
    burstBlocksOf 24 (burstDecode 24 (burstPayloadOf 24 field)) = bs := by decide +kernel

/-- Wavelength 2 of lightplane die 0 in four slots of 256 ns, the first with the state word of the manual's example (chapter 10). -/
def steeredSettings : SMap Nat := [(0x0402, word [(4, 0), (0x0000002002_03EE3F, 64), (0x20_0003FFFF, 128), (0x20_0003FFFF, 192), (0x20_0003FFFF, 256)]), (0x0440, 0x3F)]
def steered (locked : Bool) : State :=
  { power := { stage := 3 }, settings := steeredSettings, ports := (List.range 6).map fun j => (j, { state := 2 })
    mach := { locked := locked, count := 1000000512 * 128000000 }, steer := [(2, { term := 0x3F, lenNs := 256, launched := 2 })] }

theorem test_codewords_and_bursts :
    (let s := optic { align := 2, synced := true, payloadBits := 6000 }
     (s.wave 0 0).align = 2 ∧ (s.wave 0 0).synced = true ∧ 5440 ≤ (s.wave 0 0).payloadBits) ∧
    circuitWave 1 2 = true ∧ ((steered true).steerG (1 / 8) 2).lenNs ≠ 0 ∧ bitOf ((steered true).steerG (1 / 8) 2).term 1 = true ∧
    (steered true).steered 1 2 = true ∧ bitOf ((steered true).steerG (0 / 8) 2).launched 1 = true := by decide +kernel

theorem test_steering_slots :
    ¬(((steered true).steerG 0 2).dark = true ∧ (steered true).cadNs < ((steered true).steerG 0 2).endAt) ∧ (steered true).slotCount 0 2 = 4 ∧
    (steered true).slotBegins 0 2 0 = true ∧ (steered true).mach.locked = true ∧ (steered false).mach.locked = false ∧
    (steered true).slotCount 0 3 < 2 := by decide +kernel

/-- Chapter 10: in slot 0 output 2 passes what input 0 brings, C10 adds its own burst, C7 is terminated and the rest is dark. -/
theorem test_slot_word :
    after (.steeringSlotStart 0 0 0) (steered true) (fun t => (List.range 6).map (slotOut (t.steerG 0 2).out.toNat) == [7, 7, 0, 7, 6, 7] &&
      (t.steerG 0 2).term == 2 && (t.steerG 0 2).launched == 16) = true := by decide +kernel

def ringed (x : RingState) : State := { power := { stage := 3 }, nowNs := 600000000, rings := [(0, x)] }

theorem test_rings :
    (ringed { state := 1 }).inDomainReset (.fab 0) = false ∧ ((ringed { state := 1, windows := 5, good := 9 }).ring 0 0).state = 1 ∧
    ((ringed { state := 2, windows := 5, far := 2 }).ring 0 0).state = 2 ∧ ((ringed { state := 1, acqStart := 100000000 }).ring 0 0).coast = false ∧
    ((ringed { state := 1, acqStart := 100000000 }).ring 0 0).acqStart + 500000000 ≤ (ringed {}).nowNs ∧
    1024 ≤ ({ ringed {} with settings := [(0x0440, 1)] } : State).litSamples 0 0 0 ∧ (ringed {}).litSamples 0 0 2000 = 0 ∧
    after (.truingWindow 0 0 1023 0 0) (ringed { state := 2, windows := 5 }) (fun t => (t.ring 0 0).coast && (t.ring 0 0).invalid) = true := by
  decide +kernel

/-- A laser whose port is enabled, with its light or without. -/
def lasered (x : LaserState) (low : Bool) : State := { optic {} with nowNs := 3000000000, lasers := [(0, x)], power := { stage := 3, interlockLow := low, rails := [(1, { pg := true })] } }

theorem test_lasers :
    (lasered {} false).laserMay 0 = true ∧ (lasered {} true).laserMay 0 = false ∧
    ((lasered { req := true, fellAt := some 2000000000 } false).laser 0).ok = false ∧ 2000000000 + 1000000000 ≤ (lasered {} false).nowNs ∧
    ((lasered { req := true, reqAt := 1000000000 } false).laser 0).fellAt = none ∧ 1000000000 + 2000000000 ≤ (lasered {} false).nowNs ∧
    (lasered { req := true, fellAt := some 2000000000 } false).laserLate 0 = true ∧
    (lasered { req := true, fellAt := some 2500000000 } false).laserLate 0 = false ∧ 0 ∈ laserPorts 0 ∧ ((lasered {} true).port 0).state ≠ 0 ∧ (lasered {} true).portEnabled 0 = true ∧ (lasered {} true).power.interlockLow = true ∧
    (lasered {} true).vioOn = true ∧ (optic {}).vioOn = false := by
  decide +kernel

/-- Port 0 at a step of its bring-up. -/
def bringUp (step : BitVec 3) : State :=
  { power := { stage := 2 }, settings := [(0x0440, 1)], nowNs := 20000000, ports := [(0, { state := 1, step := step, waves := (List.range 16).map fun w => (w, { ident := 4 }) })], therm := { ring := 1 }
    rings := (portRings 0 0 ++ portRings 0 1).map fun r => (r, { state := 2 }), lasers := [(0, { ok := true })] }

theorem test_bring_up :
    (∀ k < 6, (bringUp (BitVec.ofNat 3 k)).started = true ∧ (bringUp (BitVec.ofNat 3 k)).portEnabled 0 = true ∧
      ((bringUp (BitVec.ofNat 3 k)).port 0).state ≠ 2 ∧ ((bringUp (BitVec.ofNat 3 k)).port 0).retryAt ≤ (bringUp 0).nowNs) ∧
    (bringUp 0).inDomainReset (.fab (Fin.ofNat 4 (0 / 8))) = false ∧ (bringUp 0).inDomainReset (.ptx 0) = false ∧
    (bringUp 0).inDomainReset (.prx 0) = false ∧ fld (bringUp 0).therm.ring 1 0 = 1 ∧ ((bringUp 2).laser 0).ok = true ∧
    (∀ w < 16, ((bringUp 5).wave 0 w).ident = 4) ∧ ((bringUp 3).ring 0 300).state ≠ 2 ∧
    (∀ r ∈ portRings 0 1, ((bringUp 3).ring 0 r).state = 2) ∧ (∀ r ∈ portRings 0 0, ((bringUp 5).ring 0 r).state = 2) ∧
    fld (bringUp 0).therm.ring 1 0 ≠ 3 ∧ fld ({ bringUp 0 with therm := { ring := 3 } } : State).therm.ring 1 0 = 3 := by decide +kernel

/-- After a failure that was not the laser's, the port tries again from step 4, and what was faulty is tried again (R303, R307). -/
theorem test_bring_up_again :
    let s := { bringUp 3 with ports := [(0, { state := 1, step := 3, retrying := true, waves := [(4, { faulty := true })] })] }
    after (.portBringUp 0 true) s (fun t => (t.port 0).step == 4 && !(t.wave 0 4).faulty) = true := by decide +kernel

theorem test_port_up_and_down :
    let clean : WaveState := { align := 2, goodSince := some 10000000 }
    let s := { bringUp 6 with ports := [(0, { state := 1, step := 6, waves := [(0, clean), (1, clean)] })] }
    let down := { optic { badSince := some 5 } with nowNs := 100005 }
    (s.port 0).state = 1 ∧ (s.port 0).step = 6 ∧ (∀ w < if (fibreCube 0).isSome then 2 else 16, s.clean 0 w = true) ∧
    (down.port 0).state = 2 ∧ (fibreCube 0).isSome = true ∧ (down.wave 0 0).badSince = some 5 ∧ 5 + 100000 ≤ down.nowNs := by decide +kernel

/-- A `STORE` of 40 bytes to package 0, whose header has come with one payload block of two. -/
def aStore : Packet := { ty := 0x02, len := 40, dst := 0x1000, offset := 0x100, payload := List.replicate 32 1 }
def fifoState (x : WaveState) (f : FifoState) : State := { optic x with fabs := [(0, { fifos := [(0, f)] })] }
def ctrl (n : Nat) : BitVec 257 := BitVec.ofNat 257 (2 ^ 256 + n)

theorem test_blocks :
    (fifoState {} {}).terminated 0 0 = true ∧ bitOf (ctrl 0xF0) 256 = true ∧ 0xF0 ≤ fld (ctrl 0xF0) 7 0 ∧
    (let s := fifoState { partial_ := some aStore } {}
     (s.wave 0 0).partial_ = some aStore ∧ bitOf (0 : BitVec 257) 256 = false ∧ ({ aStore with payload := aStore.payload ++ leBytes 32 0 } : Packet).whole = true) ∧
    (let s := fifoState { partial_ := some { aStore with payload := [] } } {}
     (s.wave 0 0).partial_ = some { aStore with payload := [] } ∧ ({ aStore with payload := leBytes 32 0 } : Packet).whole = false) := by decide +kernel

theorem test_headers :
    let s := fifoState {} {}
    let h (p : Packet) := ctrl (headerNat p)
    (∀ p ∈ [aStore, { aStore with ty := 0x01 }, { aStore with ty := 0x55 }], bitOf (h p) 256 = true ∧ fld (h p) 7 0 < 0xF0) ∧
    (s.wave 0 0).partial_ = none ∧
    s.discards 0 0 (headerOf (h aStore)) = false ∧ (headerOf (h aStore)).whole = false ∧
    s.discards 0 0 (headerOf (h { aStore with ty := 0x01 })) = false ∧ (headerOf (h { aStore with ty := 0x01 })).whole = true ∧
    s.discards 0 0 (headerOf (h { aStore with ty := 0x55 })) = true := by decide +kernel

theorem test_fifos :
    (let s := fifoState { partial_ := some aStore } { started := true }
     (s.fifo 0 0).started = true ∧ (s.wave 0 0).partial_ = some aStore ∧ s.terminated 0 0 = true) ∧
    (let s := fifoState { partial_ := some aStore } { flush := true, packets := [aStore] }
     (s.fifo 0 0).flush = true ∧ (s.fifo 0 0).started = false) := by decide +kernel

/-! ### Fabric -/

/-- Package 0, with routes to packages 1 (dimension 0) and 8 (dimension 3), a send window to package 1, and fibres 0 and 8 up. -/
def fabricState (fb : FabState) : State :=
  { settings := [(0x0310, word [(2 ^ 31 + 0x1F * 2 ^ 20, 0), (2 ^ 31, 32), (2 ^ 31 + 3 * 2 ^ 20, 256)]), (0x0320, word [(0xF, 0), (1, 16), (1, 32), (0xFFFFFFFFFFFF, 128)]),
                 (0x0440, 1), (0x0601, 2 ^ 31)]
    ports := [(0, { state := 2 }), (8, { state := 2 })], fabs := [(0, fb)], image := some { opCounters := 1 }, nowNs := 200000 }

/-- A `STORE` of four bytes that has arrived whole, for package `dst`. -/
def storeTo (dst : Nat) : Packet := { ty := 0x02, len := 4, dst := BitVec.ofNat 16 dst, offset := 0x100, payload := [1, 2, 3, 4], reqId := 0x10000000 }
def atFifo (p : Packet) : State := fabricState { fifos := [(0, { packets := [p] })] }
def atOut (p : Packet) : State := fabricState { outq := [p] }

/-- The next move of an input, read off the router: its packet and what it does with it. -/
def nextMoveOf (s : State) (k : LpId) (i : Nat) : Option (Packet × Move) :=
  (s.headOf k i).bind fun p => ((s.movesLeft k i p).find? fun x => s.eligible k i x && s.nextInput k x.out == some i).map fun m => (p, m)

theorem nextMove_of (s : State) (k : LpId) (keys : List Nat) (i : Nat) (p : Packet) (hi : i ∈ keys) (hle : ∀ j ∈ keys, i ≤ j)
    (h : (nextMoveOf s k i).map (·.1) = some p) : ∃ m, NextMove s k keys i p m := by
  obtain ⟨⟨_, m⟩, hq, rfl⟩ := Option.map_eq_some_iff.1 h
  obtain ⟨q, hh, hq⟩ := Option.bind_eq_some_iff.1 hq
  obtain ⟨x, hx, hq⟩ := Option.map_eq_some_iff.1 hq
  cases hq
  exact ⟨m, hi, hh, hx, fun j hj hlt => absurd (hle j hj) (by omega)⟩

/-- A packet that its FIFO, the queue of its own die, or another die brings, has a next move of every kind. -/
theorem test_serves :
    (∀ d ∈ [0, 1, 8, 5], (∃ m, NextMove (atFifo (storeTo d)) 0 (inputKey (.fifo 0 0)) 0 (storeTo d) m) ∧ (atFifo (storeTo d)).unfinished 0 0 = false) ∧
    ((∃ m, NextMove (atOut (storeTo 1)) 0 (inputKey .injected) 132 (storeTo 1) m) ∧ (atOut (storeTo 1)).unfinished 0 132 = false) ∧
    ∃ m, NextMove (fabricState { transitIn := [(1, [storeTo 1])] }) 0 (inputKey (.transit 1)) 129 (storeTo 1) m := by
  have e : ∀ d ∈ [0, 1, 8, 5], (nextMoveOf (atFifo (storeTo d)) 0 0).map (·.1) = some (storeTo d) ∧ (atFifo (storeTo d)).unfinished 0 0 = false := by
    decide +kernel
  exact ⟨fun d hd => ⟨nextMove_of _ _ _ _ _ (by decide) (by decide) (e d hd).1, (e d hd).2⟩,
    ⟨nextMove_of _ _ _ _ _ (by decide) (by decide) (by decide +kernel), by decide +kernel⟩,
    nextMove_of _ _ _ _ _ (by decide) (by decide) (by decide +kernel)⟩

theorem test_routes :
    (atFifo (storeTo 0)).routeFrom 0 0 (storeTo 0) = .here ∧ (atFifo (storeTo 1)).routeFrom 0 0 (storeTo 1) = .lane 0 0 false none ∧
    (atFifo (storeTo 8)).routeFrom 0 0 (storeTo 8) = .die 1 ∧ (atFifo (storeTo 5)).routeFrom 0 0 (storeTo 5) = .unreachable ∧
    routePresent ((atFifo (storeTo 5)).routeEntry 5) = false ∧ routePresent ((atFifo (storeTo 1)).routeEntry 1) = true ∧
    fld (storeTo 1).fan 11 0 = 0 ∧ (storeTo 1).network = 0 ∧ (atFifo (storeTo 1)).inDomainReset (.fab 0) = false ∧ ownInput 0 (.fifo 0 0) := by
  unfold ownInput; decide +kernel

/-- A multicast copy of class 2 for dimensions 0 and 3: one lane of the own die, and one crossing to the die of dimension 3. -/
def fanPacket : Packet := { ty := 0x10, flags := 0x80, len := 4, fan := 0x9, payload := [1, 2, 3, 4] }
theorem test_multicast :
    fld fanPacket.fan 11 0 ≠ 0 ∧ (atOut fanPacket).torus = false ∧ nbit 9 0 = true ∧ nbit 9 3 = true ∧
    (atOut fanPacket).fanLane fanPacket 0 = some (0, 0) ∧ ({ atOut fanPacket with ports := [] } : State).fanLane fanPacket 0 = none ∧
    (atOut fanPacket).transitOpen 0 1 = true ∧
    (∃ m, NextMove (atOut fanPacket) 0 (inputKey .injected) 132 fanPacket m) ∧
    ((atOut fanPacket).movesOf 0 132 fanPacket).map Move.key = [0, 129] ∧ ((atOut fanPacket).movesOf 0 0 fanPacket).map Move.key = [0, 129, 132] := by
  exact ⟨by decide, by decide +kernel, by decide, by decide, by decide +kernel, by decide +kernel, by decide +kernel,
    nextMove_of _ _ _ _ _ (by decide) (by decide) (by decide +kernel), by decide +kernel, by decide +kernel⟩

/-- A packet of two blocks for package `d`, of which the first has come. -/
def half (d : Nat) : Packet := { storeTo d with len := 64, payload := List.replicate 32 1 }
def arrivingOf (d : Nat) (x : FifoState) : State :=
  { atFifo (storeTo d) with fabs := [(0, { fifos := [(0, x)] })], ports := [(0, { state := 2, waves := [(0, { partial_ := some (half d) })] }), (8, { state := 2 })] }

/-- It may be started, and then its consumer takes what has come. -/
theorem test_cut_through :
    (∀ d ∈ [0, 1, 8], ((arrivingOf d {}).fifo 0 0).packets = [] ∧ ∃ m, NextMove (arrivingOf d {}) 0 [0] 0 (half d) m) ∧
    (arrivingOf 1 { started := true, out := 0 }).startedPacket 0 0 = some (half 1) ∧
    (arrivingOf 1 { started := true, out := 0, packets := [storeTo 1] }).startedPacket 0 0 = some (storeTo 1) ∧
    (arrivingOf 1 { started := true, out := 0 }).startedArriving 0 0 = true ∧
    (arrivingOf 1 { started := true, out := 0, gone := 2 }).fifoLevel 0 0 = 0 ∧
    after (.packetForward 0 (.fifo 0 0)) (arrivingOf 1 {}) (fun t => (t.fifo 0 0).started && (t.fifo 0 0).gone == 2 && (t.fifo 0 0).out == 0) = true := by
  have e : ∀ d ∈ [0, 1, 8], ((arrivingOf d {}).fifo 0 0).packets = [] ∧ (nextMoveOf (arrivingOf d {}) 0 0).map (·.1) = some (half d) := by
    decide +kernel
  exact ⟨fun d hd => ⟨(e d hd).1, nextMove_of _ _ _ _ _ (by decide) (by decide) (e d hd).2⟩, by decide +kernel, by decide +kernel, by decide +kernel,
    by decide +kernel, by decide +kernel⟩

/-- A lane with nothing to send: its FIFO offers nothing; a circuit output that no slot adds to sends nothing. -/
theorem test_idle_lane :
    (fabricState {}).startedPacket 0 0 = none ∧ (∀ p m, ¬NextMove (fabricState {}) 0 [0] 0 p m) ∧ (fabricState {}).portOpen 0 = true ∧
    (fabricState {}).portOpen 1 = false ∧ (fabricState {}).steered 0 0 = false ∧ circuitWave 0 0 = false := by
  have h : (fabricState {}).headOf 0 0 = none := by decide +kernel
  refine ⟨by decide +kernel, fun p m hm => ?_, by decide +kernel, by decide +kernel, by decide +kernel, by decide +kernel⟩
  cases h.symm.trans hm.2.1

theorem test_injection :
    let s := { fabricState { inject := [(1, [storeTo 1])] } with settings := [(0x0301, word [(0xFFFFFFFF, 128)]), (0x0601, 2 ^ 31)] }
    let shaped := { fabricState { inject := [(1, [storeTo 1])] } with settings := [(0x0301, word [(1000, 128)]), (0x0601, 2 ^ 31)] }
    SMap.get [] (s.fab 0).inject 1 = [storeTo 1] ∧ s.hub.stopped = false ∧ ({ s with hub := { stopped := true } } : State).hub.stopped = true ∧ s.tokensAllow 0 1 = true ∧ shaped.tokensAllow 0 1 = true ∧
    shaped.keyN 0x0301 16 4 ≠ 0xFFFFFFFF ∧ s.inDomainReset (.fab 0) = false := by decide +kernel

/-- Chapter 11: the lane hashes of the worked example. -/
theorem test_lane_hash : laneHash 37 1061 0 = 0xDAB2 ∧ laneHash 1061 37 0 = 0xE2C2 := by decide +kernel

/-- A token count of -188 bytes allows a request again 752 ns later at 0.25 bytes a ns (chapter 11). -/
theorem test_tokens_return :
    let s (now : Nat) := { fabricState { tokens := [0, -188, 0, 0] } with settings := [(0x0301, word [(250, 128)])], nowNs := now }
    (s 751).tokensAllow 0 1 = false ∧ (s 752).tokensAllow 0 1 = true := by decide +kernel

theorem test_relay_and_drain :
    let s := { fabricState {} with hub := { relayOut := [(0, false, 7)] } }
    let d (cmds : List OpenCmd) : State := { hub := { stopped := true, openCmds := cmds } }
    let o : OpenCmd := { mb := 0, tag := 1, opcode := 0x33, deadline := 0, slot := 0 }
    s.hub.relayOut.find? (fun r => cubeFibre r.1.val / 8 == 0) = some (0, false, 7) ∧ s.portOpen (cubeFibre 0) = true ∧
    3 ≤ (s.fifo (cubeFibre 0) 0).credit0 ∧ (d []).drained = true ∧ (d [o]).drained = true ∧ ({} : State).drained = false ∧
    (d [o]).hub.openCmds.find? (fun o => o.opcode == 0x33) = some o ∧ (0, 0) ∈ congestionPlaces := by decide +kernel

/-- An operation record (Table 11.5): code, operation, length, address, result. -/
def record (op aop len addr res : Nat) : Flit :=
  { data := BitVec.ofNat 512 (word [(op, 0), (aop, 8), (len, 16), (addr, 64), (res, 128), (0x01020304, 192)]), tag := 0, poison := 0 }
def issuing (f : Flit) : State := fabricState { issuers := [(0, { queue := [f] })] }
def remoteAt (off : Nat) : Nat := 2 ^ 48 + off

theorem test_operation_record :
    let e : ServFlit := { port := .p3, ready := 0, kind := .write, flit := record 4 0 0 0 0, home := (7, .p3), sent := some 4000 }
    let s := { fabricState {} with beat := liveBeat, routers := [(7, { fifoOut := [e] })] }
    let full := fabricState { issuers := [(0, { queue := List.replicate 64 (record 4 0 0 0 0) })] }
    (s.router (recordRouter (issuerDie 0 0))).fifoOut.find? (fun e => e.port == .p3 && e.req.isNone && e.kind != .data && s.crossed e) = some e ∧
    (s.issuer 0 0).queue.length < 64 ∧ 64 ≤ (full.issuer 0 0).queue.length ∧ (laneEnd (recordRouter (issuerDie 0 0)) .p3).isSome = true := by decide +kernel

theorem test_records :
    (∀ f ∈ [record 1 0 8 0x100 (storeBase 0), record 2 0 8 0x100 0, record 3 0 8 0x100 (storeBase 0), record 4 0 0 0 0,
        record 1 0 8 (remoteAt 0x100) (storeBase 0), record 2 0 8 (remoteAt 0x100) 0, record 3 0 8 (remoteAt 0x100) (storeBase 0)],
      (issuing f).inDomainReset (.fab 0) = false ∧ ((issuing f).issuer 0 0).queue = [f] ∧ (issuing f).recordOk (issuerDie 0 0) f.data = true ∧
      ((issuing f).issuer 0 0).out = []) ∧
    (∀ op < 5, (issuing (record op 9 8 0 0)).recordOk (issuerDie 0 0) (record op 9 8 0 0).data = false) ∧
    (issuing (record 4 0 0 0 0)).ownAddress 0x100 = true ∧ gaSpace 0x100 = 0 ∧ (issuing (record 4 0 0 0 0)).refusesAccess 0x100 8 = false ∧
    atomicTier 0x100 = true ∧ 0x100 % 8 = 0 ∧ (issuing (record 4 0 0 0 0)).refusesAccess 0xC00000 8 = true ∧ (issuing (record 4 0 0 0 0)).hub.stopped = false ∧ (issuing (record 4 0 0 0 0)).ownAddress (remoteAt 0x100) = false := by decide +kernel

theorem test_send_windows :
    let s := issuing (record 4 0 0 0 0)
    (∀ op ∈ [Access3.load, .store, .atomic], s.sendWindow 1 0x100 8 0 op = some 1 ∧ s.sendWindow 2 0x100 8 0 op = none) ∧
    s.packageNo = some 0 ∧ routePresent (s.routeEntry 1) = true := by decide +kernel

def opRun (f : Flit) (reply : Option (Byte × List Byte × Word32)) (job : Option ServJob) : OpRun :=
  { n := 3, record := f.data, reqId := none, reply := reply, job := job }
def ending (o : OpRun) (run : Bool) : State := { fabricState { issuers := [(0, { out := [o] })] } with prog := { running := run } }
/-- An access of two bytes of which this many have been answered. -/
def served (acked : Nat) (st : Nat) : ServJob := { off := 0x100, len := 2, acked := acked, status := st, got := [(0, [(9, false), (8, true)])] }

/-- A record with its reply, one whose access has been performed, and one whose result is being written. -/
theorem test_record_ends :
    (∀ f ∈ [record 1 0 2 0x100 (storeBase 0), record 2 0 2 0x100 0, record 4 0 0 0 0], ∀ st ∈ [(0 : Byte), 0x22], ∀ run ∈ [false, true],
      ((ending (opRun f (some (st, [9, 9], 0)) none) run).issuer 0 0).out.find? (fun o => o.n == 3) = some (opRun f (some (st, [9, 9], 0)) none) ∧
      ∀ y ∈ ((ending (opRun f (some (st, [9, 9], 0)) none) run).issuer 0 0).out, 3 ≤ y.n) ∧
    (served 2 0).done = true ∧ (served 1 0).done = false ∧ (served 2 0x10).status ≠ 0 ∧
    (opRun (record 1 0 2 0x100 (storeBase 0)) none (some (served 2 0))).settled.reply = some (0x01, [9, 8], 0x01) ∧
    (opRun (record 1 0 2 0x100 (storeBase 0)) (some (0, [9, 9], 0)) (some (served 2 0))).settled.job = some (served 2 0) ∧
    regionOf (opResult (record 1 0 2 0x100 (storeBase 0)).data) = some (.store 0, 0) := by decide +kernel

/-- A request delivered at lightplane die 0 from fibre 6 or, `none`, from inside. -/
def delivered (p : Packet) (from_ : Option (FibreId × WaveId)) : State := fabricState { local_ := [(from_, p)] }
def loadOf (space : Byte) (off : BitVec 48) (len : BitVec 16) : Packet := { ty := 0x01, space := space, offset := off, len := len }
def atomicOf (aop : Byte) (off : BitVec 48) (len : BitVec 16) : Packet :=
  { ty := 0x03, code := aop, offset := off, len := len, payload := List.replicate 16 1 }

theorem test_remote_memory :
    (∀ p ∈ [loadOf 0 0x100 8, loadOf 0 0xC00000 8, loadOf 1 0x0F0000000000 8, loadOf 1 0x0F0000000002 8],
      (delivered p (some (6, 0))).serves 0 (fun p => p.ty == 0x01) (some (6, 0)) p) ∧
    (∀ p ∈ [storeTo 0, { storeTo 0 with offset := 0xC00000 }, { storeTo 0 with space := 1, offset := 0x0F0000000000 }],
      (delivered p (some (6, 0))).serves 0 (fun p => p.ty == 0x02) (some (6, 0)) p) ∧
    (delivered (storeTo 0) none).refusesAccess 0x100 8 = false ∧ (delivered (storeTo 0) none).refusesAccess 0xC00000 8 = true ∧
    controlPlace (some 6) 0x0F0000000000 8 = some (0, 0) ∧ controlPlace (some 6) 0x0F0000000002 8 = none := by
  unfold State.serves; decide +kernel

/-- The atomic operations at an address that is aligned, and at one that is not. -/
def atomicAt (aop : Fin 8) (odd : Bool) : Packet := atomicOf (BitVec.ofNat 8 aop) (if odd then 0x102 else 0x100) 4
theorem test_remote_atomics_served (aop : Fin 8) (odd : Bool) :
    (delivered (atomicAt aop odd) none).serves 0 (fun p => p.ty == 0x03 && p.code.toNat == aop.val) none (atomicAt aop odd) := by
  have e : ∀ (a : Fin 8) (o : Bool), (delivered (atomicAt a o) none).inDomainReset (.fab 0) = false ∧
      ((delivered (atomicAt a o) none).fab 0).serving = [] ∧
      ((delivered (atomicAt a o) none).fab 0).local_.find? (fun x => x.2.network == 0 && !x.2.collective &&
        (x.2.ty == 0x03 && x.2.code.toNat == a.val) && (delivered (atomicAt a o) none).inOrder 0 x.2) = some (none, atomicAt a o) := by
    decide +kernel
  have x := e aop odd
  exact ⟨x.1, fun y hy => absurd (x.2.1 ▸ hy) (by simp), x.2.2⟩

theorem test_remote_atomics :
    regionOf 0x100 = some (.vault 0, 0x100) ∧ 0x100 % max 1 4 = 0 ∧ 0x102 % max 1 4 ≠ 0 ∧
    after (.atomicAdd 0) (delivered (atomicOf 0 0x100 4) none) (fun t => (t.vault 0).queue.map (fun q => q.atomic) ==
      [some (0, 0x0101010101010101, 0x0101010101010101)]) = true := by decide +kernel

/-- A performed request of each kind, with a good and a bad status. -/
theorem test_remote_performed :
    ∀ p ∈ [loadOf 0 0x100 2, storeTo 0, atomicOf 5 0x100 4], ∀ st ∈ [0, 0x11],
      ((fabricState { serving := [{ n := 0, packet := p, job := served 2 st }] }).fab 0).serving.find? (fun x => x.packet.ty == p.ty && x.job.done) =
        some { n := 0, packet := p, job := served 2 st } := by decide +kernel

/-- A reply to request 5 of channel 0's unit, or to 0x10000000 of the issuer. -/
def replyOf (id : Word32) : Packet := { ty := 0x81, reqId := id, payload := [5] }
def replied (id : Word32) (out : List Outstanding) : State := fabricState { local_ := [(none, replyOf id)], out := out }
theorem test_replies :
    ((replied 5 []).fab 0).local_.find? (fun x => x.2.network == 1 && !x.2.collective) = some (none, replyOf 5) ∧ ((replied 5 []).fab 0).out = [] ∧
    ((replied 5 [{ reqId := 5, deadline := 100000 }]).fab 0).out.find? (fun o => o.reqId == (5 : Word32)) = some { reqId := 5, deadline := 100000 } ∧
    fld (5 : Word32) 28 23 = 0 ∧ fld (0x10000000 : Word32) 28 23 = 32 := by decide +kernel

/-- A request of channel 0 that another package serves. -/
def remoteRun : DescRun :=
  { src := 0x100, dst := 0x200, length := 64, srcW := 64, dstW := 64, silent := false, last := true, next := 0, readIssued := 64
    out := [{ n := 5, write := false, off := 0x100, len := 64, issued := 1000, reqId := some 5, resp := none }] }
theorem test_reply_timeouts :
    ((replied 0x10000000 [{ reqId := 0x10000000, deadline := 100000 }]).fab 0).out.find? (fun o => o.reqId == (0x10000000 : Word32) && decide (o.deadline ≤ 200000)) =
      some { reqId := 0x10000000, deadline := 100000 } ∧ (replied 5 []).nowNs = 200000 ∧
    (let s := { fabricState { out := [{ reqId := 5, deadline := 100000 }] } with channels := [(0, { cur := some remoteRun })] }
     (s.channel 0).cur = some remoteRun ∧ (remoteRun.out.find? fun x => x.reqId == some (5 : Word32)).isSome = true) := by decide +kernel

/-! ### Spokes -/

/-- Spoke 0 may issue at the word that its `PC` is at; its code is bytes 256 to 511 of its scratchpad, its tasks stand at 1,024. -/
def spokeBase : SpokeState := { active := true, mode := 1, pc := 256, layout := 0x01010401, runS := 4000, runE := 5000 }
def atSpoke (w : Nat) (a : SpokeState) : State := { running with spokes := [(0, a)], mem := cells (scratchBase 0 + 256) (leBytes 4 w) }

def spokeCheck (w : Nat) (a : SpokeState) (op fn unused : Nat) : Bool :=
  let s := atSpoke w a
  s.spokeFree 0 && decide ((s.spoke 0).pc.toNat % 4 = 0) && decide (codeFirst (s.spoke 0).layout ≤ (s.spoke 0).pc.toNat) &&
    decide ((s.spoke 0).pc.toNat < codeEnd (s.spoke 0).layout) && decide (s.spokeWord 0 = BitVec.ofNat 32 w) &&
    decide (spokeOp (BitVec.ofNat 32 w) = some (op, fn)) && decide ((BitVec.ofNat 32 w).toNat &&& unused = 0) && decide ((s.spoke 0).ready = []) && decide ((s.spoke 0).vready = [])

theorem spokeCheck_at {w op fn unused : Nat} {a : SpokeState} (h : spokeCheck w a op fn unused = true) (srcs : List Nat) :
    (atSpoke w a).spokeAt 0 op fn unused srcs (BitVec.ofNat 32 w) := by
  simp only [spokeCheck, Bool.and_eq_true, decide_eq_true_eq] at h
  obtain ⟨⟨⟨⟨⟨⟨⟨⟨h1, h2⟩, h3⟩, h4⟩, h5⟩, h6⟩, h7⟩, h8⟩, h9⟩ := h
  refine ⟨h1, h2, h3, h4, h5, h6, fun r _ => ?_, h7⟩
  have e (k : Nat) : SMap.get [] ((atSpoke w a).spoke 0).vready k = [] := congrArg (SMap.get [] · k) h9
  have e0 : SMap.get 0 ((atSpoke w a).spoke 0).ready r = 0 := congrArg (SMap.get 0 · r) h8
  show SpokeState.readyBy ((atSpoke w a).spoke 0) _ r = true
  unfold SpokeState.readyBy
  rw [e, e0]
  simp

/-- Opcode, function and unused bits of every instruction of Table 6.4. -/
def spokeForms : List (Nat × Nat × Nat) :=
  ([0, 1, 2, 3, 4, 5, 6, 7, 8, 9, 0xA, 0xB, 0x10, 0x11, 0x18, 0x19, 0x1A, 0x1B].map fun f => (0x01, f, 0)) ++
  ([0x02, 0x03, 0x04, 0x05, 0x06, 0x10, 0x11, 0x12, 0x13, 0x14, 0x15, 0x16, 0x17, 0x18, 0x19, 0x20, 0x21, 0x22, 0x23, 0x24, 0x25, 0x26, 0x27].map
    fun o => (o, 0, 0)) ++ [(0x07, 0, 0x1F0000), (0x08, 0, 0xFF80)] ++
  ([0, 1, 2, 5, 6, 9].map fun f => (0x30, f, 0x3C00)) ++ [(0x30, 3, 0), (0x30, 4, 0)] ++ ([7, 8, 0xA].map fun f => (0x30, f, 0x3FC00)) ++
  [(0x31, 0, 0x3C00), (0x31, 1, 0x3C00), (0x31, 2, 0)] ++ ((List.range 12).map fun f => (0x32, f, 0x3C00)) ++ [(0x32, 0xC, 0x3C000)] ++
  ((List.range 6).map fun f => (0x33, f, 0x02003C00)) ++ ((List.range 5).map fun f => (0x34, f, 0x3FC00)) ++
  ((List.range 4).map fun f => (0x35, f, 0x3FC00))
def spokeForms2 : List (Nat × Nat × Nat) :=
  [(0x36, 0, 0x0047FC00), (0x36, 1, 0x00447C00), (0x36, 2, 0x3FC00), (0x36, 3, 0x3FFC00), (0x37, 0, 0x7C000), (0x37, 1, 0x7C000),
   (0x37, 2, 0x7C000), (0x37, 3, 0x3FC00), (0x37, 4, 0x0043FC00), (0x37, 5, 0x0043FC00), (0x37, 6, 0x0043FC00), (0x37, 7, 0x3FC00),
   (0x37, 8, 0x3FC00), (0x38, 0, 0x1FF80), (0x38, 1, 0x1F80), (0x38, 2, 0x1F80), (0x39, 0, 0x02223F80), (0x39, 1, 0x02223F80),
   (0x39, 2, 0x0223FF80), (0x39, 3, 0x0201FF80), (0x39, 4, 0x03C1FF80), (0x3F, 0, 0x03FFFFC0), (0x3F, 1, 0x03FFFFC0), (0x3F, 2, 0x03E0FFC0),
   (0x3F, 3, 0x1F0000), (0x3F, 4, 0x03E00000), (0x3F, 8, 0), (0x3F, 9, 0x1F0000), (0x3F, 0xA, 0x1F0000), (0x3F, 0x10, 0x021FFFC0),
   (0x3F, 0x11, 0x03FF3000), (0x3F, 0x12, 0x021FFFC0), (0x3F, 0x13, 0x021FFFC0), (0x3F, 0x18, 0xFFC0), (0x3F, 0x19, 0x001FFFC0)]

theorem test_spoke_forms : (spokeForms.all fun x => spokeCheck (x.1 * 2 ^ 26 + x.2.1) spokeBase x.1 x.2.1 x.2.2) = true := by decide +kernel
theorem test_spoke_forms_2 : (spokeForms2.all fun x => spokeCheck (x.1 * 2 ^ 26 + x.2.1) spokeBase x.1 x.2.1 x.2.2) = true := by decide +kernel

/-- Chapter 6: `VFMA v3, v1, v2, v3` under p0 is 0xC0C48C03; with lanes of 2, 3 and 1 it writes 7. -/
theorem test_vfma_word : spokeCheck 0xC0C48C03 spokeBase 0x30 3 0 = true ∧ (fld (0xC0C48C03 : Word32) 25 22, fld (0xC0C48C03 : Word32) 21 18,
    fld (0xC0C48C03 : Word32) 17 14, fld (0xC0C48C03 : Word32) 13 10, fld (0xC0C48C03 : Word32) 9 7) = (3, 1, 2, 3, 0) := by decide +kernel
theorem test_vfma : after (.vfma 0) (atSpoke 0xC0C48C03 { spokeBase with v := [(1, 0x40000000), (2, 0x40400000), (3, 0x3F800000)] })
    (fun t => lane ((t.spoke 0).vr 3) 0 == 0x40E00000 && lane ((t.spoke 0).vr 3) 1 == 0) = true := by decide +kernel

def outside (pc : Nat) : Bool :=
  let s := atSpoke 0 { spokeBase with pc := BitVec.ofNat 32 pc }
  s.spokeFree 0 && (decide ((s.spoke 0).pc.toNat % 4 ≠ 0) || decide ((s.spoke 0).pc.toNat < codeFirst (s.spoke 0).layout) ||
    decide (codeEnd (s.spoke 0).layout ≤ (s.spoke 0).pc.toNat))
theorem test_spoke_faults : ([2, 252, 512].all outside) = true ∧ outside 256 = false ∧ spokeOp ((atSpoke 0 spokeBase).spokeWord 0) = none ∧
    fld (BitVec.ofNat 32 (0x08 * 2 ^ 26)) 6 5 ≠ 3 := by decide +kernel

theorem test_spoke_addresses :
    spokeAddrBad 0x01010401 0 256 4 4 true = true ∧ spokeAddrBad 0x01010401 0 2 4 4 false = true ∧ spokeAddrBad 0x01010401 0 0x300000 4 4 false = true ∧
    spokeAddrBad 0x01010401 0 512 4 4 true = false ∧ spokeAddr 0 512 4 = some (scratchBase 0 + 512, false) ∧
    spokeAddr 0 0x140000 64 = some (storeBase 1, true) ∧ spokeAddrBad 0x01010401 0 0x140000 64 4 true = false ∧
    addrI spokeBase (BitVec.ofNat 32 (0x15 * 2 ^ 26 + 512)) = 512 ∧ addrM spokeBase (BitVec.ofNat 32 (0x19 * 2 ^ 26 + 128)) = 512 ∧
    addrI spokeBase (BitVec.ofNat 32 (0x10 * 2 ^ 26 + 2)) = 2 := by decide +kernel

theorem test_spoke_stores :
    let x : StoreItem := { due := 4096, addr := storeBase 0, bytes := [(storeBase 0, 5), (storeBase 0 + 1, 6)] }
    let s := atSpoke 0 { spokeBase with stores := [x] }
    s.runs = true ∧ (s.spoke 0).stores.filter (fun x => decide (x.due ≤ s.pbeat)) = [x] ∧ (x.bytes.map (·.1)).Nodup := by decide +kernel

theorem test_branch_offsets :
    after (.beq 0) (atSpoke (0x20 * 2 ^ 26 + 0xFFFF) spokeBase) (fun t => (t.spoke 0).pc == 252 && (t.spoke 0).nextIssue == 4099) = true ∧
    after (.bne 0) (atSpoke (0x21 * 2 ^ 26 + 0xFFFF) spokeBase) (fun t => (t.spoke 0).pc == 260 && (t.spoke 0).nextIssue == 4097) = true := by decide +kernel

theorem test_runs :
    let s := { atSpoke 0 { spokeBase with mode := 2, nextRun := some (0, 1) } with mem := cells (scratchBase 0 + 1024) (leBytes 8 3000 ++ leBytes 4 900 ++ leBytes 4 1000 ++ leBytes 4 2) }
    let done := atSpoke 0 { spokeBase with tend := true }
    let late := atSpoke 0 { spokeBase with runE := 4096 }
    let held := atSpoke 0 { spokeBase with until_ := some 4096 }
    (s.spoke 0).nextRun = some (0, 1) ∧ s.runs = true ∧ (s.spoke 0).active = true ∧ (s.spoke 0).mode = 2 ∧
    (s.taskEntry 0 0).start + 1 * (s.taskEntry 0 0).period ≤ s.pbeat ∧
    (done.spoke 0).tend = true ∧ (done.spoke 0).settled done.pbeat = true ∧ done.pbeat < (done.spoke 0).runE ∧
    (late.spoke 0).mode = 1 ∧ (late.spoke 0).runE ≤ late.pbeat ∧ (held.spoke 0).until_ = some 4096 ∧ 4096 ≤ held.pbeat := by decide +kernel

/-- A word of opcode 0x3F with its function and fields. -/
def ctl (fs : List (Nat × Nat)) : Word32 := BitVec.ofNat 32 (0x3F * 2 ^ 26 + word fs)

theorem test_control_fields :
    (let a : SpokeState := { spokeBase with x := [(1, 97)] }
     a.runS + (a.xr (fld (ctl [(2, 0), (1, 16)]) 20 16)).toNat = 4097 ∧ a.runS + (a.xr (fld (ctl [(2, 0), (2, 16)]) 20 16)).toNat = 4000) ∧
    csrKnown (fld (ctl [(3, 0), (2, 6)]) 15 6) = true ∧ csrKnown (fld (ctl [(3, 0), (9, 6)]) 15 6) = false ∧
    csrWritable (fld (ctl [(4, 0), (2, 6)]) 15 6) = false ∧ fld (ctl [(4, 0), (7, 6)]) 15 6 = 7 ∧ fld (ctl [(4, 0), (0x1F, 6)]) 15 6 = 0x1F ∧
    fld (ctl [(4, 0), (0x5E, 6)]) 15 6 = 0x40 + 2 * 15 ∧ fld (ctl [(4, 0), (0x41, 6)]) 15 6 = 0x41 + 2 * 0 := by decide +kernel

theorem test_counters :
    let s := atSpoke 0 { spokeBase with x := [(1, 5), (2, 100)] }
    let w (id : Nat) := ctl [(8, 0), (id, 6), (1, 21), (2, 16)]
    (∀ id ∈ [0, 0xFF, 0x100, 0x17F], fld (w id) 15 6 = id ∧ ((s.spoke 0).xr (fld (w id) 20 16)).toNat ≠ 0 ∧ atOrAbove (s.counterValue 0 id) ((s.spoke 0).xr (fld (w id) 25 21)) = false) ∧
    fld (w 0x180) 15 6 = 0x180 ∧ fld (w 0x3FF) 15 6 = 0x3FF ∧ ((s.spoke 0).xr (fld (ctl [(8, 0), (1, 6)]) 20 16)).toNat = 0 ∧
    (∀ id ∈ [0x120, 0x15F], s.abortCopyBit 0 (id - 0x120) = false) ∧
    atOrAbove (s.counterValue 0 0xFF) ((s.spoke 0).xr (fld (ctl [(8, 0), (0xFF, 6), (2, 16)]) 25 21)) = true ∧
    (s.spoke 0).xr (fld (ctl [(9, 0), (0xFF, 6), (1, 21)]) 25 21) = 5 ∧ (s.spoke 0).xr (fld (ctl [(9, 0), (0xFF, 6)]) 25 21) = 0 := by decide +kernel

theorem test_records_queues_posts :
    (spokeBase.record = none ∧ spokeBase.landed = none ∧ spokeBase.outQ.length < 16 ∧ spokeBase.inQ = []) ∧
    16 ≤ ({ spokeBase with outQ := List.replicate 16 (aFlit, 0) } : SpokeState).outQ.length ∧
    ({ spokeBase with record := some (4100, 0) } : SpokeState).record ≠ none ∧
    ({ spokeBase with inQ := [(aFlit, 4096)] } : SpokeState).inQ = (aFlit, 4096) :: [] ∧ aFlit.poison = 0 ∧
    fld (ctl [(0x18, 0), (2, 21), (1, 16)]) 21 21 = 0 ∧
    (let s (c : ChannelState) : State := { atSpoke 0 { spokeBase with x := [(1, 3)] } with channels := [(3, c)] }
     ((s {}).channel 3).claimed = false ∧ ((s { claimed := true }).channel 3).queue.length < 8 ∧
     8 ≤ ((s { claimed := true, queue := List.replicate 8 { first := 0, budget := 1, owner := none } }).channel 3).queue.length ∧
     (SMap.get [] (s {}).collPosts 0).length < 16 ∧ 16 ≤ (SMap.get [] { s {} with collPosts := [(0, List.replicate 16 (1, 0))] }.collPosts 0).length) := by decide +kernel

/-- A `DTRIG` of each phase that keeps R149, and one that does not. -/
theorem test_triggers :
    (∀ code < 4, spokeCheck (0x3F * 2 ^ 26 + 0x11 + code * 2 ^ 14 + 3 * 2 ^ 6) spokeBase 0x3F 0x11 0x03FF3000 = true ∧
      fld (BitVec.ofNat 32 (0x3F * 2 ^ 26 + 0x11 + code * 2 ^ 14 + 3 * 2 ^ 6)) 15 14 = code ∧
      ({ collect := some 3, lastDispatch := some 3, desc := [(3, BitVec.ofNat 512 (word [(4, 160)]))] } : DerailleurState).triggerFault 4096 3 code = none ∧
      ({ lastTrigBeat := some 4096 } : DerailleurState).triggerFault 4096 3 code = some 0x10) := by decide +kernel

/-! ### Derailleur -/

/-- A layer of 4 tokens and 8 slots, one input and one output line, two bound experts from entry 0, one active choice, 2 fills and
void table entry 5. -/
def layerWord : BitVec 512 := BitVec.ofNat 512 (word [(4, 16), (8, 32), (1, 48), (1, 64), (2, 96), (1, 128), (2, 160), (5, 176), (1, 192)])
def derailed (d : DerailleurState) : State :=
  { running with derailleurs := [(0, { d with desc := [(3, layerWord)], binding := [(0, BitVec.ofNat 128 (word [(1, 0), (4, 8), (8, 24)]))]
                                              voidTab := [(5, BitVec.ofNat 64 (word [(7, 40), (100, 20), (40, 0)]))] })] }

theorem test_phase_starts :
    (∀ code < 4, ((derailed { triggers := [(3, code, 4096)] }).derailleur 0).triggers = [(3, code, 4096)]) ∧ (derailed {}).runs = true ∧
    4096 ≤ (derailed {}).pbeat ∧ voidEntries (layerDesc layerWord) = [5] := by decide +kernel

/-- A route record of token 2 with one choice, expert 1; one of token 4 names none of the layer. -/
def routeRecord (tok : Nat) : BitVec 512 := BitVec.ofNat 512 (word [(tok, 0), (1, 16), (0x3F80, 64)])
def landing (tok : Nat) (c : Option Nat) : State :=
  { derailed { collect := c } with spokes := [(0, { spokeBase with record := some (4096, routeRecord tok) })] }

theorem test_route_landing :
    ((landing 2 none).spoke 0).record = some (4096, routeRecord 2) ∧ ((landing 2 none).derailleur 0).collect = none ∧
    ((landing 2 (some 3)).derailleur 0).collect = some 3 ∧ ((landing 2 (some 3)).derailleur 0).recordFault (routeRecord 2) = none ∧
    (layerDesc layerWord).tokBase + (layerDesc layerWord).tok ≤ slotN (routeRecord 4) 0 2 ∧ (landing 2 none).runs = true := by decide +kernel

theorem test_assignment_and_sweeps :
    let a := derailed { phase := 1, phaseDesc := 3, phaseStart := 4000 }
    let b := derailed { phase := 2, phaseDesc := 3, phaseStart := 4000 }
    let early := derailed { phase := 2, phaseDesc := 3, phaseStart := 4090 }
    (a.derailleur 0).phase = 1 ∧ (a.derailleur 0).phaseStart + (a.derailleur 0).layer.tok + 15 ≤ a.pbeat ∧ a.runs = true ∧
    (b.derailleur 0).phase = 2 ∧ 0 < (b.derailleur 0).layer.inLines ∧ 4000 + (b.derailleur 0).layer.tok + 16 + 2 ≤ b.pbeat ∧
    (b.derailleur 0).sweeps = [] ∧ early.pbeat < 4090 + (early.derailleur 0).layer.tok + 16 := by decide +kernel

/-- A combine of which an out-sweep starts in this beat, with and without a poisoned line; and the last beat of a `VOID`. -/
theorem test_combine_and_void :
    let c (bad : SMap Byte) := derailed { phase := 4, phaseDesc := 3, phaseStart := 4095, ledger := [(0, { pos := 6, gate := 0 })], linePoison := bad }
    let v := derailed { phase := 3, phaseDesc := 3, phaseStart := 4000, phaseEnd := 4097 }
    let y := ((c []).derailleur 0).layer
    ((c []).derailleur 0).phase = 4 ∧ 0 < y.outLines ∧ 0 < y.tok ∧ y.tok = 4 ∧ y.slots = 8 ∧ y.initHome = false ∧
    4095 + (0 + 1) * max ((y.slots + 31) / 32) ((y.tok + 31) / 32) + 0 / 32 = (c []).pbeat ∧ 6 ∈ ((c []).derailleur 0).summed y 0 ∧
    SMap.get 0 ((c [(6, 1)]).derailleur 0).linePoison (16384 * (0 % 2) + 6) ≠ 0 ∧ ((c []).derailleur 0).linePoison = [] ∧
    ((c []).derailleur 0).sweeps = [] ∧
    (v.derailleur 0).phase = 3 ∧ (v.derailleur 0).phaseEnd ≤ v.pbeat + 1 ∧ v.runs = true ∧
    after (.voidArming 0) v (fun t => (t.derailleur 0).phase == 0) = true ∧
    after (.combineSweep 0 true 0) (c [(6, 1)]) (fun t => t.beat.machineCheck) = true := by decide +kernel

/-! ### Discovery and cadence -/

/-- Cube port 0 up, with a neighbour. -/
def neighboured (n : NeighbourState) (m : MachState) : State := { optic {} with nowNs := 1000000, mach := { m with nbrs := [(0, n)] } }

theorem test_discovery :
    ((neighboured {} {}).port (cubeFibre 0)).state = 2 ∧ ((neighboured { cand := 7, candRun := 2 } {}).nbr 0).cand = 7 ∧
    2 ≤ ((neighboured { cand := 7, candRun := 2 } {}).nbr 0).candRun ∧ ((neighboured {} {}).nbr 0).cand ≠ (7 : BitVec 208) := by decide +kernel

/-- Ports 0 and 2 hold the same serial on two lane groups; port 4 holds none and was recycled. -/
def quarantined : State := { mach := { nbrs := [(0, { seen := [(9, 0)], state := 2 }), (2, { seen := [(9, 2)], state := 2 }), (4, { state := 3, recycled := 2 })] } }
theorem test_quarantine : quarantined.quarCause 0 = some (1, [2]) ∧ quarantined.quarCause 4 = none ∧ (quarantined.nbr 4).state = 3 ∧
    (quarantined.nbr 4).recycled = 2 := by decide +kernel

/-- Chapter 12: a round trip of 1,000 ns and a beacon whose transmit time lies 2.5 ns ahead. -/
def beaconed (m : MachState) : State := neighboured { txTimes := [6400] } { m with count := (6400 + 128000) * 1000000 }
def aBeacon (t3 : Nat) : BitVec 208 := BitVec.ofNat 208 (word [(t3 / 128, 0), (t3 % 128, 64), (6400, 72), (0, 104), (3, 136), (1, 144)])

theorem test_beacons :
    (∀ m ∈ [({} : MachState), { parent := 0, goodRun := 499 }, { root := true }],
      (beaconed m).portOpen (cubeFibre 0) = true ∧ (beaconed m).inDomainReset .cad = false ∧ (beaconed m).cad128 = 134400) ∧
    ((beaconed {}).nbr 0).txTimes.find? (fun t => t % 2 ^ 32 == fld (aBeacon 70720) 103 72) = some 6400 ∧
    bitOf (aBeacon 70720) 144 = true ∧ bitOf (aBeacon 70720) 145 = false ∧ fld (aBeacon 70720) 143 136 = 3 ∧
    (∀ p < 24, p ≠ 0 → (beaconed {}).usable p = false) ∧ (beaconed {}).mach.parent = 0x1F ∧
    (BitVec.ofNat 32 134400 - BitVec.ofNat 32 6400 - (0 : Word32)).toNat / 2 = 64000 ∧
    (BitVec.ofNat 32 70720 + BitVec.ofNat 32 64000 - BitVec.ofNat 32 134400).toInt = 320 := by decide +kernel

theorem test_parents :
    let lost (locked : Bool) := neighboured {} { parent := 0, locked := locked }
    let other : State := { neighboured { rxFlags := 1, rxStratum := 2, usedAt := some 999999 } { parent := 3, locked := true } with ports := [(0, { state := 2 })] }
    (lost false).parentIsLost = true ∧ (lost true).bestParent = none ∧ (lost true).parentIsLost = true ∧
    other.parentIsLost = true ∧ other.bestParent = some 0 ∧
    (let h : State := { nowNs := 1000000, mach := { holdover := true, locked := true } }
     h.mach.holdover = true ∧ h.mach.holdSince + 1000000 ≤ h.nowNs) ∧ (steered true).slotCount 0 2 = 4 := by decide +kernel

/-! ### Collectives -/

/-- An entry: operation, chunks, span of dimension 0, counter 5, slot 9 of engine 0, chunks of 64 KiB in HBM4 stack 0. -/
def collEntry (op chunks : Nat) (more : List (Nat × Nat)) : BitVec 512 :=
  BitVec.ofNat 512 (word ([(op, 0), (16, 16), (5, 24), (9, 32), (1, 48), (chunks, 64), (hbmBase 0, 128), (hbmBase 0 + 0x1000000, 192)] ++ more))
/-- Package 0, bound to peloton 0, in a group of two. -/
def collBase : State :=
  { settings := [(0x0600, word [(1, 15), (1, 32)]), (0x0601, 2 ^ 31)], nowNs := 2000000, mach := { count := 1000000 * 128000000, locked := true }
    image := some { coll := [(3, collEntry 1 2 []), (4, collEntry 9 2 [])] } }

theorem test_collective_posts :
    let s : State := { collBase with collPosts := [(0, [(3, 4000, 7)]), (1, [(4, 4000, 7)])] }
    s.inDomainReset (.fab 0) = false ∧ SMap.get [] s.collPosts (2 * 0) = [(3, 4000, 7)] ∧ (SMap.get [] s.collPosts (2 * 0 + 1)).head? = some (4, 4000, 7) ∧
    s.clFormBad 0 (collEntry 1 2 []) = none ∧ s.clFormBad 0 (collEntry 9 2 []) = some 0 ∧
    (SMap.get? [(3, collEntry 1 2 []), (4, collEntry 9 2 [])] 5) = none ∧
    (let u : State := { collBase with collPosts := [(1, [(4, 4000, 7)])] }
     SMap.get [] u.collPosts (2 * 0 + 1) = [(4, 4000, 7)] ∧ (SMap.get [] u.collPosts (2 * 0)).head? = none) := by decide +kernel

theorem test_collective_start :
    let s : State := { collBase with engines := [(0, { checked := [(1, collEntry 1 2 [])] })] }
    (s.engine 0).checked = [(1, collEntry 1 2 [])] ∧ (s.engine 0).open_.length < 16 ∧ s.coll 0 9 = none ∧
    2 * (ceChunk (collEntry 1 2 []) / 65536) ≤ (s.engine 0).store ∧ (∀ q < 4, ∀ c ∈ (s.engine q).open_, ceCounter c.entry ≠ ceCounter (collEntry 1 2 [])) ∧
    SMap.get? (s.engine 0).lastEnd 9 = none ∧ (s.engine 0).early = [] := by decide +kernel

/-- That collective, open at rank 0 of two, and a packet of its slot from package 1. -/
def openColl (op chunks : Nat) (more : List (Nat × Nat)) : CollState :=
  { slot := 9, entry := collEntry op chunks more, gen := 1, epoch := 0, rank := 0, size := 2, started := 900000, buffers := 2 }
def collPkt (ty code : Byte) (chunk idx : Nat) (len : Nat) : Packet :=
  { ty := ty, flags := 0x20, code := code, src := 1, injectUs := 1000, reqId := 0x00910000, offset := BitVec.ofNat 48 (chunk * 2 ^ 24 + idx * 4096)
    payload := List.replicate len 1 }
def collState (c : CollState) (p : Packet) : State :=
  { collBase with engines := [(0, { open_ := [c], gens := [(9, 1)] })], fabs := [(0, { local_ := [(none, p)] })] }

def collOk (c : CollState) (p : Packet) : Bool :=
  let s := collState c p
  !s.inDomainReset (.fab 0) && decide ((s.fab 0).local_.find? (fun x => x.2.ty == p.ty) = some (none, p)) &&
    decide (fld p.peloton 11 0 = s.peloton) && decide (s.ageOf p ≤ 1000) && decide (s.coll 0 (clSlot p) = some c) &&
    decide (clEpoch p = c.epoch.toNat) && decide (clGen p = c.gen.toNat) && decide (bitOf p.flags 5 = s.ordered) &&
    decide (s.packageRank (ceSpan c.entry) p.srcPkg = some 1) && decide (p.code.toNat = ceOp c.entry) &&
    decide (fld p.space 3 0 = slotN c.entry 2 1 - 16) && decide (clChunk p < treeChunks c.entry c.size) && decide (clIndex p < ceChunk c.entry / 256)

theorem collOk_accepts {c : CollState} {p : Packet} (h : collOk c p = true) :
    ((collState c p).landAccesses 0).collPacket 0 p.ty false none p ∧ ((collState c p).landAccesses 0).collAccepts 0 false p c 1 := by
  simp only [collOk, Bool.and_eq_true, decide_eq_true_eq, Bool.not_eq_true'] at h
  obtain ⟨⟨⟨⟨⟨⟨⟨⟨⟨⟨⟨⟨h1, h2⟩, h3⟩, h4⟩, h5⟩, h6⟩, h7⟩, h8⟩, h9⟩, h10⟩, h11⟩, h12⟩, h13⟩ := h
  exact ⟨⟨h1, rfl, fun _ => h2⟩, ⟨h3, .inr h4, h5, h6, h7⟩, h8, h9, h10, h11, h12, h13⟩

/-- A chunk whose sender has a credit. -/
def granted (c : CollState) (j : Nat) (got : Nat) : CollState :=
  c.setChunk j { granted := [1], rx := if got = 0 then [] else [(1, List.replicate got (0, false))] }

theorem test_collective_data :
    collOk (granted (openColl 1 2 []) 0 0) (collPkt 0x10 1 0 0 256) = true ∧
    (collState (granted (openColl 1 2 []) 0 0) (collPkt 0x10 1 0 0 256)).dataFrom (granted (openColl 1 2 []) 0 0) 0 1 = true ∧
    (collState (openColl 1 2 []) (collPkt 0x10 1 0 0 256)).dataFrom (openColl 1 2 []) 0 1 = false ∧
    collOk (openColl 1 2 []) (collPkt 0x10 1 0 3 256) = true ∧ (collPkt 0x10 1 0 0 256).payload.length = 256 := by decide +kernel

/-- A chunk that is combined as it arrives, unordered; and a chunk of which no packet has been sent for longer than the stall
time. -/
theorem test_collective_now :
    let c := (openColl 1 2 []).setChunk 0 { granted := [1], acc := some [(3, false)] }
    let s := collState c (collPkt 0x10 1 0 0 256)
    let u : State := { s with settings := (0x0100, 0) :: s.settings }
    collOk c (collPkt 0x10 1 0 0 256) = true ∧ s.dataFrom c 0 1 = true ∧ u.ordered = false ∧ u.dataFrom c 0 1 = true ∧ c.up = true ∧ 1 ∈ s.childrenOf c 0 ∧
    (c.chunk 0).acc = some [(3, false)] ∧
    (∃ x ∈ ({ c with sending := [(0, 1, 1000000)] } : CollState).sending, x.2.2 + 1000 * ceStallUs c.entry ≤ s.nowNs) := by
  decide +kernel

/-- The last packet of a chunk: 65,280 bytes stand, and the chunk is whole. -/
theorem test_collective_last_data :
    (List.replicate 65280 ((0 : Byte), false)).length = 256 * clIndex (collPkt 0x10 1 0 255 256) ∧
    (granted (openColl 1 2 []) 0 65280).size = 2 ∧
    ceChunk (openColl 1 2 []).entry ≤ (List.replicate 65280 ((0 : Byte), false) ++ List.replicate 256 ((1 : Byte), false)).length := by
  refine ⟨?_, rfl, ?_⟩
  · rw [List.length_replicate]; decide +kernel
  · rw [List.length_append, List.length_replicate, List.length_replicate]; decide +kernel

theorem test_collective_tests :
    (∀ ty ∈ [(0x10 : Byte), 0x11, 0x12, 0x1F, 0x90, 0x91], collOk (openColl 1 2 []) (collPkt ty 1 0 0 0) = true) ∧
    fld ({ collPkt 0x10 1 0 0 0 with peloton := 5 } : Packet).peloton 11 0 ≠ collBase.peloton ∧
    1000 < collBase.ageOf { collPkt 0x10 1 0 0 0 with injectUs := BitVec.ofInt 32 (-1) } ∧
    clEpoch { collPkt 0x10 1 0 0 0 with reqId := 0x00910001 } ≠ collBase.epoch ∧ clGen { collPkt 0x10 1 0 0 0 with reqId := 0x00920000 } ≠ 1 ∧
    bitOf ({ collPkt 0x10 1 0 0 0 with flags := 0 } : Packet).flags 5 ≠ collBase.ordered ∧
    collBase.coll 0 9 = none ∧ clGen (collPkt 0x10 1 0 0 0) ≠ (SMap.get 0 [] 9 + 2 : BitVec 4).toNat := by decide +kernel

theorem test_collective_barrier :
    let c := openColl 6 0 []
    collOk c (collPkt 0x11 6 0 0 0) = true ∧ 1 ∈ (collState c (collPkt 0x11 6 0 0 0)).childrenOf c 0 ∧
    (collState c (collPkt 0x11 6 0 0 0)).parentOf c 0 = none ∧ 1 ∉ (collState (openColl 1 2 []) (collPkt 0x11 1 1 0 0)).childrenOf (openColl 1 2 []) 1 ∧
    collOk (openColl 1 2 []) (collPkt 0x11 1 1 0 0) = true := by decide +kernel

/-- A release reaches rank 1 of a group of two from rank 0: package 1's view. -/
theorem test_collective_release :
    let c : CollState := { openColl 6 0 [] with rank := 1 }
    let p := { collPkt 0x12 6 0 0 0 with src := 0 }
    let s : State := { collState c p with settings := [(0x0600, word [(1, 15), (1, 32)]), (0x0601, 2 ^ 31 + 1)] }
    s.packageRank (ceSpan c.entry) p.srcPkg = some 0 ∧ ceOp c.entry = 6 ∧ s.torus = false ∧ 0 ≠ c.rank ∧ s.coll 0 (clSlot p) = some c := by decide +kernel

theorem test_collective_credits :
    let c := openColl 1 2 []
    let c2 := c.setChunk 0 { sentTo := [1] }
    collOk c (collPkt 0x90 1 0 0 0) = true ∧ c.isA2A = false ∧ c.down = true ∧ 1 ∈ (collState c (collPkt 0x90 1 0 0 0)).childrenOf c 0 ∧
    c.up = true ∧ (collState c (collPkt 0x90 1 1 0 0)).parentOf c 1 = some 1 ∧ collOk c2 (collPkt 0x91 1 0 0 0) = true ∧ 1 ∈ (c2.chunk 0).sentTo ∧
    (collPkt 0x1F 1 0 0 32).payload.length = 32 := by decide +kernel

/-- Chapter 13: in a tree of eight for chunk 5 the root is rank 5, the order 2, 0, 1, and rank 5's children are 1, 4
and 7, in the order in which they are combined. -/
theorem test_tree_of_eight :
    let same (_ _ r : Nat) := r
    treeOrder 3 5 = [2, 0, 1] ∧ treeRoot (collEntry 1 8 []) 8 5 = 5 ∧ treeParent [2, 2, 2] same 5 5 5 = none ∧
    treeParent [2, 2, 2] same 5 5 2 = some 6 ∧ treeParent [2, 2, 2] same 5 5 6 = some 7 ∧ treeParent [2, 2, 2] same 5 5 7 = some 5 ∧
    treeChildren [2, 2, 2] same 8 5 5 5 = [1, 4, 7] := by decide +kernel

/-- Over dimensions 0 to 6 package 97 is rank 65, and its neighbour across dimension 0 by R351, package 96, is rank 96. -/
theorem test_tree_across_the_twist :
    ({} : State).rankPackage 0x7F 65 = 97 ∧ ({} : State).acrossRank 0x7F 65 0 64 = 96 ∧ ({} : State).rankPackage 0x7F 96 = 96 := by decide +kernel

/-- Gates: none, one on servant counter 5 of die 0 for 2, and one on the chunk counter 0x121 whose flag is set. -/
def gated (more : List (Nat × Nat)) : CollState := openColl 1 2 more
theorem test_gates :
    let s (c : CollState) := collState c (collPkt 0x10 1 0 0 0)
    (s (gated [])).gateMet (gated []).entry 40 0 = true ∧ 0 < chunkCount (gated []).entry 2 0 false ∧ 0 < chunkCount (gated []).entry 2 0 true ∧
    (gated []).busy < (gated []).buffers ∧ (gated []).isA2A = false ∧ ((gated []).chunk ((gated []).chunkOfDest 0)).gateDst = false ∧
    (s (gated [(1, 320), (0x105, 336), (2, 352)])).gateMet (gated [(1, 320), (0x105, 336), (2, 352)]).entry 40 0 = false ∧
    slotN (gated [(1, 320), (0x121, 336)]).entry 40 1 = 1 ∧ slotN (gated [(1, 320), (0x121, 336)]).entry 42 2 = 0x121 ∧
    ({ s (gated []) with counters := [(0, { abortCopy := 2 })] } : State).abortCopyBit 0 (0x121 - 0x120) = true ∧ (openColl 5 2 []).isA2A = true ∧
    0 < chunkCount (openColl 5 2 []).entry 2 0 false ∧ (s (gated [])).parentOf (gated []) ((gated []).chunkOfDest 1) = some 1 ∧
    1 ∉ ((gated []).chunk ((gated []).chunkOfDest 1)).granted := by decide +kernel

theorem test_collective_ends :
    let s (c : CollState) := collState c (collPkt 0x10 1 0 0 0)
    let w := (openColl 1 2 []).setChunk 0 { written := true }
    let done : CollState := { openColl 6 0 [] with released := true }
    let stuck := (openColl 1 2 []).setChunk 0 { rx := [(1, [(0, false)])], lastPkt := some 1000000 }
    w.stepsMade < resultChunks w.entry w.size ∧ (w.chunk (w.chunkOfDest w.stepsMade)).written = true ∧ (s w).coll 0 9 = some w ∧
    done.stepsMade = resultChunks done.entry done.size ∧ (s done).allAcked done = true ∧
    (∃ e ∈ stuck.chunks, e.2.rx ≠ [] ∧ ∃ at_ ∈ e.2.lastPkt, at_ + 1000 * ceStallUs stuck.entry ≤ (s stuck).nowNs) ∧
    ceDeadline (openColl 1 2 [(1, 256)]).entry ≠ 0 ∧ 900000 + ceDeadline (openColl 1 2 [(1, 256)]).entry ≤ (s w).cadNs ∧
    (let h : State := { s w with beat := { heldBeat with faultHold := true, machineCheck := true } }
     h.beat.faultHold = true ∧ h.beat.machineCheck = true) ∧
    (let p := collPkt 0x1F 1 0 0 32
     let r : State := { collBase with engines := [(0, { resend := [(9, 1750000, p)] })] }
     (r.engine 0).resend.find? (fun x => decide (x.2.1 ≤ r.nowNs)) = some (9, 1750000, p) ∧ p.network = 0) := by decide +kernel

/-- An engine one of whose chunk accesses has been answered, with a status. -/
def chunkAnswered (op : Nat) (use : ChunkUse) (status : Nat) : ChunkAccess × CollState × State :=
  let a : ChunkAccess := { n := 4, slot := 9, use := use, index := 0, job := { off := hbmBase 0, len := 2, acked := 2, status := status, got := [(0, [(9, false), (8, true)])] } }
  let c := openColl op 2 []
  (a, c, { collBase with engines := [(0, { open_ := [c], gens := [(9, 1)], accesses := [a] })] })

theorem test_chunk_answers :
    (∀ op ∈ [1, 5], ∀ use ∈ [ChunkUse.source, .own, .dest], ∀ st ∈ [0, 1],
      let x := chunkAnswered op use st
      (x.2.2.engine 0).accesses.filter (fun a => a.job.done) = [x.1] ∧ x.2.2.coll 0 x.1.slot = some x.2.1 ∧ x.1.use = use ∧ x.1.job.status = st) ∧
    (openColl 5 2 []).isA2A = true ∧ (openColl 1 2 []).isA2A = false ∧ (openColl 1 2 []).up = true ∧
    1 ∈ (chunkAnswered 1 .source 0).2.2.childrenOf (openColl 1 2 []) 0 ∧ ((openColl 1 2 []).chunk 0).combined = [] ∧
    ((openColl 1 2 []).chunk 0).ready = [] ∧
    ((chunkAnswered 1 .dest 0).2.2.landAccesses 0).coll 0 9 = some ((openColl 1 2 []).setChunk 0 { written := true }) ∧
    (((chunkAnswered 1 .source 0).2.2.landAccesses 0).coll 0 9).map (fun c => (c.chunk 0).acc) = some (some [(9, false), (8, true)]) := by decide +kernel

/-- A packet that was held for its slot's start goes before one of its type that has arrived since, and is not tested for its age. -/
theorem test_held_packets :
    let p := { collPkt 0x11 6 0 0 0 with injectUs := BitVec.ofInt 32 (-1) }
    let s : State := { collBase with engines := [(0, { open_ := [openColl 6 0 []], gens := [(9, 1)], applied := [p] })] }
    s.inDomainReset (.fab 0) = false ∧ (s.engine 0).applied.find? (fun x => x.ty == 0x11) = some p ∧ 1000 < s.ageOf p ∧ clGen p = 1 ∧
    s.earlyHeld = 0 ∧ after (.clArrive 0) s (fun t => (t.coll 0 9).any (fun c => c.arrived.contains 1)) = true := by decide +kernel
/-! ### Mailboxes and hub commands -/

/-- A command slot of this package, tag 5. -/
def cmd (op : Nat) (fs : List (Nat × Nat)) : BitVec 512 := BitVec.ofNat 512 (word ([(op, 0), (0x10, 8), (5, 16), (0xFF, 32)] ++ fs))
/-- Stage 3, with service port 6 up, and a host mailbox and a fabric one that may send. -/
def hubBase : State := { power := { stage := 3, vaoGood := true }, ports := [(6, { state := 2 }), (0, { state := 2 })], nowNs := 5000000 }
/-- Command `c` of mailbox `m` in the foreground. -/
def hubRuns (m : SenderId) (c : BitVec 512) : State :=
  { hubBase with hub := { current := some { mb := m, slot := c, rung := 0, no := 0 }
                          openCmds := [{ mb := m, tag := 5, opcode := BitVec.ofNat 8 (slotOp c), deadline := 10 ^ 9, slot := c }] } }
/-- The same, with its buffer read, or failed: `data` has come with this status. -/
def withBuffer (s : State) (data : List (Byte × Bool)) (status : Nat) (res : Nat := 0) : State :=
  { s with hub := { s.hub with job := some { n := 0, job := { off := 0, len := data.length, acked := data.length, status := status, got := [(0, data)] }, res := res } } }
/-- One whose first byte has not come. -/
def bufferUnderWay (s : State) : State := { s with hub := { s.hub with job := some { n := 0, job := { off := 0, len := 1 } } } }

/-- Command `c` waits in host mailbox 1, and has not been taken. -/
def rung (c : BitVec 512) (s : State := hubBase) : State := { s with mbs := [(1, { cmdSlots := [(0, c)] })] }

theorem test_doorbell :
    let full : State := { hubBase with mbs := [(3, { cmdTail := 64 })] }
    let off : State := { hubBase with ports := [] }
    (24 ≤ (24 : MbId).val ∧ (24 : MbId).val ≤ 30) ∧ ¬(24 ≤ (3 : MbId).val ∧ (3 : MbId).val ≤ 30) ∧ 64 < (full.mb 3).waitingCmds + ((65 : BitVec 7) - (full.mb 3).cmdTail).toNat ∧ (full.mb 3).waitingCmds ≤ 64 ∧
    (off.mb 3).waitingCmds + ((64 : BitVec 7) - (off.mb 3).cmdTail).toNat ≤ 64 ∧ off.serving 3 = false ∧
    hubBase.serving 1 = true ∧ (hubBase.mb 1).cmdHead = (hubBase.mb 1).cmdTail ∧ hubBase.hub.taking = none ∧ hubBase.hub.bells = [] ∧
    (let b : State := { off with hub := { bells := [{ who := 2, rung := 5 }] } }
     ∀ x ∈ b.hub.bells, b.servesBell x = false) := by decide +kernel

/-- One slot for each test of R404 and each way of taking: a bad byte, no such opcode, a state that refuses, a short and a long
command, a relay. -/
theorem test_taking :
    let f (c : BitVec 512) (own : Bool) := (rung c).fieldFailure 1 c own
    f (cmd 0x01 [(1, 64)]) true = some (0x10, 8) ∧ f (cmd 0x06 []) true = some (0x12, 0) ∧ cmdClasses 0x07 = none ∧
    f (cmd 0x41 [(6, 64)]) true = some (0x10, 8) ∧
    f (cmd 0x41 [(1, 64)]) true = none ∧ (rung 0).stateFailure 1 (cmd 0x41 [(1, 64)]) (some []) = some (0x11, 0) ∧
    f (cmd 0x01 []) true = none ∧ (rung 0).stateFailure 1 (cmd 0x01 []) (some []) = none ∧ isLong (cmd 0x01 []) = false ∧
    f (cmd 0x11 []) true = none ∧ (rung 0).stateFailure 1 (cmd 0x11 []) (some []) = none ∧ isLong (cmd 0x11 []) = true ∧
    f (cmd 0x01 [] - 0xFF00000000) false = none ∧ slotN (cmd 0x01 [] - 0xFF00000000) 4 1 = 0 ∧ hubBase.portOpen (cubeFibre 0) = true ∧
    hubBase.portOpen (cubeFibre 3) = false ∧ hubBase.tooEarly 0x01 = false ∧ ({} : State).tooEarly 0x11 = true ∧ bufferNeed (cmd 0x01 []) [] = none ∧
    (let c := cmd 0x10 [(0x1000, 64), (1, 128)]
     f c true = none ∧ hubBase.tooEarly 0x10 = false ∧ (bufferNeed c []).map (·.1) = some 0x1000 ∧ regionOf 0x1000 = some (.vault 0, 0x1000) ∧
     hubBase.regionServes (.vault 0) = true) := by
  decide +kernel

/-- Ringing for an `IDENTIFY` accepts it, for a `CHECK` answers `ACCEPTED`, and for a command with a bad byte rejects it. -/
theorem test_doorbell_rings :
    after (.cmdTailWrite 1 1) (rung (cmd 0x01 [])) (fun t => t.hub.accepted.length == 1 && (t.mb 1).rspTail == 0) = true ∧
    after (.cmdTailWrite 1 1) (rung (cmd 0x11 [])) (fun t => SMap.get 0 (t.mb 1).rspSlots 0 == BitVec.ofNat 512 0x050111) = true ∧
    after (.cmdTailWrite 1 1) (rung (cmd 0x01 [(1, 64)])) (fun t => SMap.get 0 (t.mb 1).rspSlots 0 == BitVec.ofNat 512 0x800051001) = true := by
  decide +kernel

theorem test_mailbox_registers :
    let s : State := { hubBase with mbs := [(2, { rspTail := 3, rspHead := 1, cmdHead := 4, cmdTail := 6, cmdSel := 5 }), (16, { event := 1, eventEn := 1, notifyLo := 0x1000 })] }
    (s.mb 2).held < ((4 : BitVec 7) - (s.mb 2).rspHead).toNat ∧ ((2 : BitVec 7) - (s.mb 2).rspHead).toNat ≤ (s.mb 2).held ∧ (s.mb 2).waiting = [] ∧
    (∃ j < (s.mb 2).waitingCmds, ((s.mb 2).cmdHead.toNat + j) % 64 = (s.mb 2).cmdSel.toNat) ∧
    (∀ j < (s.mb 0).waitingCmds, ((s.mb 0).cmdHead.toNat + j) % 64 ≠ (s.mb 0).cmdSel.toNat) ∧
    (s.mb 2).event &&& (s.mb 2).eventEn = 0 ∧ (s.mb 16).event &&& (s.mb 16).eventEn ≠ 0 ∧ mbClass 16 = 1 ∧
    (∀ b, (s.mb 16).notifiedAt = some b → b + 10000 ≤ s.nowNs) ∧ s.ownAddress 0x1000 = true ∧ gaSpace 0x1000 = 0 ∧
    s.regionServes (.vault 0) = true := by
  refine ⟨?_, ?_, ?_, ?_, ?_, ?_, ?_, ?_, fun b h => (by cases h), ?_, ?_, ?_⟩ <;> decide +kernel

theorem test_notify :
    let s : State := { hubBase with mbs := [(16, { event := 1, eventEn := 1, notifyLo := 0x1000, rspCount := 0x0203 })] }
    after (.mailboxNotify 16) s (fun t => (t.vault 0).queue.map (fun q => (q.addr, q.data)) == [(0x1000, [3, 2, 0, 0])] && (t.mb 16).notifiedAt == some 5000000) = true := by decide +kernel

/-- A sideband transfer that has brought an offset and three bytes, of a register and between registers, and a bad offset. -/
theorem test_sideband :
    let s (l : List Byte) : State := { hubBase with power := { hubBase.power with rails := [(1, { pg := true })] }, tap := { transfer := some (l, 0) } }
    let at_ (off : Nat) := leBytes 2 off ++ [1, 2, 3]
    (s (at_ 0x24)).sidebandOn = true ∧ hubBase.sidebandOn = false ∧ (s (at_ 0x24)).tap.transfer = some (at_ 0x24, 0) ∧ 5 ≤ (at_ 0x24).length ∧
    (at_ 0x24).length < 66 ∧ transferOffset (at_ 0x24) = 0x24 ∧ (transferOffset (at_ 0x24) + ((at_ 0x24).length - 2)) % 4 = 3 ∧
    (transferOffset (at_ 0x25) + ((at_ 0x25).length - 2)) % 4 ≠ 3 ∧ 0x1000 ≤ transferOffset (at_ 0x1024) ∧
    after (.registerWrite (.sideband .byte) 0) (s (leBytes 2 0x24 ++ [5, 0, 0])) (fun t => (t.mb 31).eventEn == 5) = true := by decide +kernel

theorem test_low_word_reads : (classInfo 1).isSome = true ∧ 8 ∈ loOffsets 1 ∧ classInfo 2 ≠ none := by decide +kernel

theorem test_selection :
    let a : Accepted := { mb := 1, slot := cmd 0x01 [], rung := 5000000, no := 0 }
    let b : Accepted := { mb := 2, slot := cmd 0x12 [], rung := 5000000, no := 1 }
    let s (l : List Accepted) : State := { hubBase with hub := { accepted := l } }
    (∀ m < 32, ((s [a]).mb m).waitingCmds = 0) ∧ (s [a]).nextCommand = some a ∧ (s [a, b]).nextCommand = some b ∧
    [a, b].find? (fun a => slotOp a.slot == 0x12 && slotN a.slot 8 8 == 0) = some b ∧ (s []).hub.accepted = [] ∧
    (s []).hub.shutdown = false := by decide +kernel

/-- A command that is being taken: what it is judged by has come, well, with an error or poisoned, or has not. -/
def taking (acked status : Nat) (bad : Bool) : State :=
  { hubBase with hub := { taking := some ({ who := 1, rung := 5, slot := some (cmd 0x20 [(0x1000, 64), (256, 128)]) },
                                          { n := 0, job := { off := 0x1004, len := 2, acked := acked, status := status, got := [(0, [(0, bad), (1, false)])] } }) } }
theorem test_taking_goes_on :
    let c := cmd 0x20 [(0x1000, 64), (256, 128)]
    (taking 2 0 false).fieldFailure 1 c true = none ∧ slotN c 4 1 = 0xFF ∧ (taking 2 0 false).hub.bells = [] ∧
    (∀ st ∈ [0, 1], ∀ bad ∈ [true, false], ((taking 2 st bad).hub.taking.any fun x => x.2.job.done) = true ∧
      ((taking 0 st bad).hub.taking.any fun x => x.2.job.done) = false ∧
      ((taking 2 st bad).hub.taking.any fun x => x.2.job.data.any (·.2)) = bad) ∧
    bufferNeed c [0, 1] = none ∧
    (let d := cmd 0x10 [(0x1000, 64), (2, 128)]
     (bufferNeed d ([1, 2, 3, 4].map fun i => BitVec.ofNat 8 i)).isSome = true) := by decide +kernel

theorem test_relays :
    let r : RelayWait := { mb := 1, port := 3, opcode := 0x11, tag := 5, deadline := 4000000 }
    let s : State := { hubBase with hub := { relays := [r] } }
    s.hub.relays.find? (fun r => r.port == 3 && r.tag.toNat == slotTag (respSlot 0x11 0 5 0 1 0) && r.opcode.toNat == slotOp (respSlot 0x11 0 5 0 1 0)) = some r ∧
    slotN (respSlot 0x11 0 5 0 1 0) 1 1 ≠ 0x01 ∧
    s.hub.relays.find? (fun r => r.mb == 1 && r.tag == 5 && r.deadline != 0 && decide (r.deadline ≤ s.nowNs)) = some r ∧
    s.fieldFailure (Fin.ofNat 56 (32 + 3)) (cmd 0x20 [(1, 320)]) (slotN (cmd 0x20 [(1, 320)]) 4 1 == 0xFF) = some (0x10, 40) ∧ ({ s with power := {} } : State).power.vaoGood = false ∧ s.power.vaoGood = true ∧
    s.power.inReset = false ∧ s.hub.shutdown = false ∧ s.hub.taking = none ∧ s.hub.bells = [] ∧
    s.fieldFailure (Fin.ofNat 56 (32 + 3)) (cmd 0x44 []) true = some (0x12, 0) := by decide +kernel

theorem test_timeouts :
    let o (op : Nat) : OpenCmd := { mb := 1, tag := 5, opcode := BitVec.ofNat 8 op, deadline := 1000, slot := cmd op [(3, 72)] }
    let s (op : Nat) : State := { hubBase with hub := { openCmds := [o op] }, channels := [(3, { owner := some (1, 5) })] }
    (∀ op ∈ [0x11, 0x21, 0x23], (s op).hub.openCmds.find? (fun o => o.mb == 1 && o.tag == 5 && decide (o.deadline ≤ (s op).nowNs)) = some (o op) ∧
      (s op).openCmd 1 (5 : BitVec 16).toNat (o op).opcode.toNat = some (o op)) ∧
    copyChannel (o 0x23).slot = 3 ∧ ((s 0x23).channel 3).owner = some (1, 5) := by decide +kernel

/-! ### What hub commands find -/

theorem test_current :
    (∀ x ∈ [(0x01, 1), (0x04, 1), (0x05, 1), (0x06, 16), (0x23, 1), (0x33, 16), (0x34, 16), (0x40, 1), (0x10, 1), (0x11, 1), (0x12, 1), (0x13, 1),
        (0x20, 1), (0x21, 1), (0x22, 1), (0x30, 16), (0x31, 16), (0x32, 16), (0x42, 1), (0x41, 1), (0x43, 1)],
      (hubRuns (Fin.ofNat 56 x.2) (cmd x.1 [])).cur x.1 = (hubRuns (Fin.ofNat 56 x.2) (cmd x.1 [])).hub.current) ∧
    (hubRuns 1 (cmd 0x02 [(4, 192)])).cur 0x02 ≠ none ∧ (hubRuns 1 (cmd 0x03 [(4, 192)])).cur 0x03 ≠ none := by decide +kernel

theorem test_snapshots :
    let j : SnapJob := { mb := 1, slot := cmd 0x02 [], isSnap := true, wallAt := 4100 }
    let s (far : Nat) (b : BeatState) : State :=
      { hubBase with hub := { snaps := [{ j with wallAt := far }] }, beat := b, prog := { running := true } }
    (s 9000 liveBeat).beat.aligned = true ∧ (s 4100 liveBeat).wall < 4100 ∧ (s 4100 liveBeat).snapHolds { j with wallAt := 4100 } = true ∧
    (let d : State := { s 4000 liveBeat with hub := { (s 4000 liveBeat).hub with
        shifts := [{ entries := [{ key := 0x0200, value := 2000, size := 4 }], at_ := 0, mb := 1, tag := 5, opcode := 0x12, package := true }] } }
     (s 4000 liveBeat).shiftHere = false ∧ d.shiftHere = true) ∧
    (let g : State := { hubRuns 1 (cmd 0x02 []) with hub := { (hubRuns 1 (cmd 0x02 [])).hub with snaps := [j] } }
     g.cur 0x02 ≠ none ∧ (∃ x ∈ g.hub.snaps, x.slot = cmd 0x02 [] ∧ x.mb = 1)) ∧
    4100 ≤ (s 4100 liveBeat).wall + 16 ∧ (s 9000 liveBeat).wall + 16 < 9000 ∧ (s 4000 liveBeat).wall ≥ 4000 ∧
    (s 4000 liveBeat).cur 0x22 = none ∧ (s 9 {}).beat.aligned = false ∧
    (s 9000 liveBeat).hub.snaps.find? (fun j => j.job.any fun w => w.job.done) = none ∧
    ((s 9000 liveBeat).hub.snaps.find? (fun j => j.job.isNone)).isSome = true ∧
    (selectedBlocks (cmd 0x03 [(4, 192)])).length ≤ 1 := by decide +kernel

/-- A snapshot whose buffer has been written, and one that is to be written to its buffer. -/
theorem test_snapshot_buffers :
    let w : HubJob := { n := 0, job := { off := vaultBase 5, len := 64, acked := 64 } }
    let j : SnapJob := { mb := 1, slot := cmd 0x02 [(vaultBase 5, 64), (64, 128)], isSnap := true, wallAt := 4100, job := some w }
    let s : State := { hubRuns 1 (cmd 0x02 [(vaultBase 5, 64), (64, 128)]) with hub := { (hubRuns 1 (cmd 0x02 [(vaultBase 5, 64), (64, 128)])).hub with snaps := [j], current := none } }
    s.hub.snaps.find? (fun j => j.job.any fun w => w.job.done) = some j ∧ (s.openCmd 1 (slotTag j.slot) (slotOp j.slot)).isSome = true ∧
    slotN j.slot 8 8 ≠ 0 ∧ 64 ≤ slotN j.slot 16 4 ∧ regionOf (slotN j.slot 8 8) = some (.vault 5, 0) ∧ s.regionServes (.vault 5) = true := by decide +kernel

theorem test_congestion_map :
    let s := hubRuns 1 (cmd 0x04 [(vaultBase 0, 64), (5632, 128)])
    (∀ c ∈ s.hub.current, 64 ≤ slotN c.slot 16 4) ∧ s.hub.job = none ∧ regionOf (vaultBase 0) = some (.vault 0, 0) ∧ congestionPlaces.length = 88 ∧
    (∀ c ∈ (hubRuns 1 (cmd 0x04 [(vaultBase 0, 64)])).hub.current, slotN c.slot 16 4 < 64) ∧
    ((bufferUnderWay s).hub.job.any fun w => !w.job.done) = true ∧ ((withBuffer s [] 0 88).hub.job.any fun w => w.job.done) = true := by
  decide +kernel

/-- A buffer that has been read, and one that has failed or holds poison. -/
theorem test_buffers (c : BitVec 512) :
    (withBuffer (hubRuns 1 c) [(1, false), (2, false)] 0).bufferRead [1, 2] ∧ (withBuffer (hubRuns 1 c) [(1, false)] 1).bufferFailed ∧
    (withBuffer (hubRuns 1 c) [(1, true)] 0).bufferFailed ∧ ∃ w, (bufferUnderWay (hubRuns 1 c)).hub.job = some w ∧ w.job.done = false :=
  ⟨⟨_, rfl, rfl, rfl, rfl⟩, ⟨_, rfl, rfl, .inl (by decide)⟩, ⟨_, rfl, rfl, .inr rfl⟩, _, rfl, rfl⟩

theorem buffer_read (s : State) (bs : List Byte) : (withBuffer s (bs.map fun b => (b, false)) 0).bufferRead bs :=
  ⟨_, rfl, by simp [ServJob.done], rfl, by simp [ServJob.data]⟩

/-- Three records: numbers 7, 8, 9; a read from 8, and a clear through 8. -/
def logRec (n : Nat) : LogRec :=
  { seq := BitVec.ofNat 32 n, cls := 1, code := 2, flags := 0, unitKind := 0, cadence := 0, sched := 0, wall := 0, die := 0, unit := 0, detail := 0 }
def logged (c : BitVec 512) : State := { hubRuns 16 c with hubLog := [logRec 7, logRec 8, logRec 9], aoLog := [logRec 7, logRec 8, logRec 9] }
theorem test_logs :
    let r := cmd 0x05 [(8, 96)]
    let b := cmd 0x05 [(8, 96), (1, 128), (vaultBase 5, 192)]
    let found := (logged b).hubLog.filter fun r => atOrAbove r.seq (BitVec.ofNat 32 (slotN b 12 4))
    slotN r 24 8 = 0 ∧ slotN b 24 8 ≠ 0 ∧ (logged b).hub.job = none ∧ ((logged b).hubLog.filter fun r => atOrAbove r.seq 100) = [] ∧ found.take (slotN b 16 2) = [logRec 8] ∧
    after .clearLog (logged (cmd 0x06 [(1, 64), (8, 96)])) (fun t => t.aoLog == [logRec 9] && t.hubLog.length == 3) = true ∧
    after .clearLog (logged (cmd 0x06 [(8, 96)])) (fun t => t.hubLog == [logRec 9] && t.aoLog.length == 3) = true := by decide +kernel

theorem test_copy_commands :
    let c := cmd 0x23 [(2, 64), (3, 72), (9, 96), (0x1000, 128)]
    let a := cmd 0x23 [(2, 64), (3, 72), (1, 80)]
    let busy (c : BitVec 512) : State := { hubRuns 1 c with channels := [(67, { claimed := true })], prog := { running := true } }
    copyChannel c = 67 ∧ slotN c 10 1 % 2 = 0 ∧ slotN a 10 1 % 2 = 1 ∧ (hubRuns 1 c).claimedNow 67 = false ∧
    ((hubRuns 1 c).channel 67).queue.length < 8 ∧ (busy c).claimedNow 67 = true ∧ (hubRuns 1 a).claimedNow 67 = false ∧
    ((hubRuns 1 a).channel 67).cur = none ∧ ((hubRuns 1 a).channel 67).owner = none ∧ ((hubRuns 1 a).channel 67).queue = [] ∧ (busy a).claimedNow 67 = true ∧
    after .copy (hubRuns 1 c) (fun t => (t.channel 67).queue == [{ first := 0x1000, budget := 9, owner := some (1, 5) }]) = true := by decide +kernel

theorem test_drain_commands :
    (∀ o ∈ (hubRuns 16 (cmd 0x34 [])).hub.openCmds, o.opcode ≠ 0x33) ∧
    after .drainFabric (hubRuns 16 (cmd 0x33 [(9, 64)])) (fun t => t.hub.stopped && t.hub.current == none) = true ∧
    (∀ n ∈ [0, 1, 2, 3, 4], ({ hubRuns 1 (cmd 0x40 []) with power := { calStep := n } } : State).power.calStep = n) ∧
    ({ hubRuns 1 (cmd 0x40 []) with power := { loadedCal := some true } } : State).power.loadedCal = some true := by decide +kernel

/-- A repair command of operation `op` on offset `off`, in the service state or not. -/
def repairs (op off : Nat) (service : Bool) (more : List (Nat × Nat)) : State :=
  { hubRuns 1 (cmd 0x41 ([(op, 64), (off, 128)] ++ more)) with settings := if service then [(0x0102, 1)] else [] }
/-- Row 3 of bank 7 of vault 5 of die 1. -/
def vaultRow : Nat := vaultBase 2053 + 96 * (256 * 3 + 7)
theorem test_repair_places :
    (∀ op ∈ [1, 2, 3, 4, 5], (repairs op vaultRow false []).service = false ∧ slotN (cmd 0x41 [(op, 64)]) 8 1 = op) ∧
    (repairs 1 vaultRow true []).service = true ∧ slotN (cmd 0x41 [(1, 64), (vaultRow, 128)]) 16 8 = vaultRow ∧
    (∃ o, regionOf vaultRow = some (.vault 2053, o)) ∧ (rowWords vaultRow).length = 48 ∧
    (∃ r, repairAt vaultRow false 0 false = some r ∧ (repairs 3 vaultRow true []).sparesUsed r < spareCount r ∧
      spareCount r ≤ ({ repairs 3 vaultRow true [] with repairs := List.replicate 8 r } : State).sparesUsed r) ∧
    (∃ r, repairAt vaultRow true 4 true = some r ∧ (repairs 4 vaultRow true [(1, 72), (4, 80)]).sparesUsed r < spareCount r ∧
      ({ repairs 4 vaultRow true [(1, 72), (4, 80)] with power := { rails := [(11, { setMv := 1100 })] } } : State).vvltNominal r = true) := by
  refine ⟨?_, ?_, ?_, ⟨_, rfl⟩, ?_, ⟨_, rfl, ?_⟩, ⟨_, rfl, ?_⟩⟩ <;> decide +kernel

/-- Worked example of chapter 8: HBM4 offset 0x3_A5C4_1BC0. -/
theorem test_hbm_example : hbmPlace 0x3A5C41BC0 = (51, 13, 0x3A5C, 1) := by decide +kernel

/-! ### Cassettes -/

def entry1 : CassEntry := { key := 0x0200, value := 2000, size := 4 }
def entryBad : CassEntry := { key := 0x0200, value := 999, size := 4 }
/-- Stage one entry inline. -/
def stageCmd (key value : Nat) : BitVec 512 := cmd 0x10 [(1, 128), (key, 192), (4, 208), (value, 224)]
theorem test_stage :
    stageEntries 1 (stageCmd 0x0200 2000) [] = .entries [entry1] 8 ∧
    stageEntries 1 (stageCmd 0x0601 2000) [] = .refused 0x12 24 ∧
    (hubRuns 1 (stageCmd 0x0200 2000)).armed = false ∧ (hubRuns 1 (stageCmd 0x0200 2000)).notOwner 1 = false ∧
    ([entry1].foldl putEntry []).length ≤ 1024 ∧ slotN (stageCmd 0x0200 2000) 8 8 = 0 ∧
    slotN (cmd 0x10 [(0x1000, 64), (1, 128)]) 8 8 ≠ 0 := by decide +kernel

def withCassette (s : State) (es : List CassEntry) (checked : Bool) : State :=
  { s with hub := { s.hub with cassette := es, owner := some 1, checked := checked } }
theorem test_check :
    let s (es : List CassEntry) := withCassette (hubRuns 1 (cmd 0x11 [])) es false
    checkRules (s [entry1]) (s [entry1]) [entry1] = none ∧ (s [entry1]).armed = false ∧ (s [entry1]).notOwner 1 = false ∧
    checkRules (s [entry1, entryBad]) (s []) [entry1, entryBad] = some { rule := 1, idx := 1, key := 0x0200, byte := 0 } := by decide +kernel

theorem test_shift :
    let s (c : Bool) := withCassette (hubRuns 1 (cmd 0x12 [])) [entry1] c
    (s true).cur 0x12 ≠ none ∧ (∀ c ∈ (s true).hub.current, (s true).shiftTaken c = false) ∧ (s false).hub.checked = false ∧ (s true).hub.checked = true ∧
    (s true).notOwner 1 = false ∧ slotN (cmd 0x12 []) 8 8 = 0 ∧ (∀ j ∈ (s true).hub.shifts, j.package = false) ∧
    slotN (cmd 0x12 [(9, 64)]) 8 8 ≠ 0 ∧ (s true).mach.locked = false := by decide +kernel

def shiftJob (es : List CassEntry) : ShiftJob := { entries := es, at_ := 0, mb := 1, tag := 5, opcode := 0x12, package := true }
def shifting (es : List CassEntry) : State :=
  { withCassette (hubRuns 1 (cmd 0x12 [])) es true with
    hub := { (withCassette (hubRuns 1 (cmd 0x12 [])) es true).hub with shifts := [shiftJob es] } }
theorem test_shift_instant :
    (shifting [entry1]).dueShift = some (shiftJob [entry1]) ∧ (shifting [entry1]).needsHold [entry1] = false ∧
    (shifting [entry1]).boundaryFor (shiftJob [entry1]) = true ∧ stateRules (shifting [entry1]) [entry1] = none ∧
    ([entry1].map (·.key)).Nodup ∧ quiet [entry1] = false ∧ (shifting [entry1]).mach.locked = false ∧
    (let e : CassEntry := { key := 0x0310, value := 1, size := 1024 }
     stateRules (shifting [e]) [e] = some { rule := 0x11, idx := 0, key := 0x0310, byte := 0 }) ∧
    after .shiftInstant (shifting [entry1]) (fun t => t.setting 0x0200 == 2000 && t.hub.cassette == [] && t.hub.shifts == []) = true := by decide +kernel

theorem test_shift_demand :
    let e : CassEntry := { key := 0x0280, value := 1, size := 4 }
    let j : ShiftJob := { shiftJob [e] with at_ := 50000 }
    let s : State := { shifting [e] with hub := { (shifting [e]).hub with shifts := [j] }, prog := { running := true } }
    j ∈ s.hub.shifts ∧ s.needsHold j.entries = true ∧ j.demand = false ∧ j.at_.toNat ≤ s.cadNs + 100000 ∧
    (let u : State := { s with beat := { aligned := true, held := true, causeShift := true } }
     u.boundaryFor { j with demand := true } = true) := by decide +kernel

theorem test_discard :
    let s (at_ : Nat) : State := { withCassette (hubRuns 1 (cmd 0x13 [])) [entry1] true with
      hub := { (withCassette (hubRuns 1 (cmd 0x13 [])) [entry1] true).hub with shifts := [{ shiftJob [entry1] with at_ := BitVec.ofNat 64 at_ }] } }
    (s 0).notOwner 1 = false ∧ (withCassette (hubRuns 1 (cmd 0x13 [])) [entry1] true).armedAt = none ∧ (s 200000).armedAt = some 200000 ∧
    ¬(200000 ≤ (s 200000).cadNs + 100000) ∧ (s 90000).armedAt = some 90000 ∧ 90000 ≤ (s 90000).cadNs + 100000 ∧
    ((s 200000).hub.shifts.find? (fun j => j.package)).isSome = true ∧
    (withCassette (hubRuns 2 (cmd 0x13 [])) [entry1] true).notOwner 2 = true ∧ (s 200000).discardRefused 1 = false ∧
    (s 90000).discardRefused 1 = true ∧ (s 200000).discardRefused 2 = true ∧ (s 0).discardRefused 1 = false := by decide +kernel

/-- A window page read from a buffer, a binding, a release and a power limit: both outcomes of the check. -/
theorem test_private_cassettes :
    let limit (v : Nat) := hubRuns 1 (cmd 0x42 [(v, 64)])
    let es (v : Nat) : List CassEntry := [{ key := 0x0200, value := v, size := 4 }]
    let binds := hubRuns 16 (cmd 0x30 [(1, 64)])
    let bind : List CassEntry := [{ key := 0x0600, value := 1, size := 16 }]
    (limit 2000).privateBlocked (cmd 0x42 [(2000, 64)]) = false ∧ checkRules (limit 2000) ((limit 2000).overlay []) (es 2000) = none ∧
    (checkRules (limit 9) ((limit 9).overlay []) (es 9)).isSome = true ∧
    (withCassette (limit 2000) [entry1] true).privateBlocked (cmd 0x42 [(2000, 64)]) = true ∧
    (∀ c ∈ (limit 2000).hub.current, (limit 2000).shiftTaken c = false) ∧ slotN (cmd 0x42 [(2000, 64)]) 16 8 = 0 ∧
    slotN (cmd 0x30 [(1, 64)]) 42 2 = 0 ∧ checkRules binds (binds.overlay []) bind = none ∧
    (∀ c ∈ binds.hub.current, binds.shiftTaken c = false) ∧ binds.windowEntries 0 0 [] = [] ∧
    (hubRuns 16 (cmd 0x31 [])).running = false ∧
    ({ hubRuns 16 (cmd 0x31 []) with prog := { running := true } } : State).running = true ∧
    (hubRuns 16 (cmd 0x32 [(hbmBase 0, 128), (1, 208)])).hub.job = none ∧ slotN (cmd 0x32 [(hbmBase 0, 128), (1, 208)]) 26 2 = 1 ∧
    after .setPowerLimit (limit 2000) (fun t => t.hub.shifts.length == 1 && t.hub.current != none) = true := by decide +kernel

/-! ### Images and programs -/

theorem test_image_refusals :
    let c := cmd 0x20 [(vaultBase 5, 64), (256, 128)]
    let s := hubRuns 1 c
    let g : Nat → Byte := byteAt [1, 2]
    s.hub.job = none ∧ slotN c 16 8 ≠ 0 ∧ slotN (cmd 0x20 [(0x1000, 64)]) 16 8 = 0 ∧ s.imageFail g 256 ≠ none ∧ imgN g 4 2 ≠ 0x0100 ∧
    (s.running = false ∧ s.service = false) ∧ ({ s with prog := { running := true } } : State).running = true ∧
    imgN (byteAt [0, 0, 0, 0, 0, 1]) 4 2 = 0x0100 := by decide +kernel

def loaded (c : BitVec 512) : State := { hubRuns 1 c with image := some { seed := 9, plan := 1 } }
theorem test_start :
    (loaded (cmd 0x21 [])).startRefused = false ∧ ({ loaded (cmd 0x21 []) with prog := { running := true } } : State).startRefused = true ∧
    slotN (cmd 0x21 []) 8 8 = 0 := by decide +kernel

theorem test_stop :
    let s := hubRuns 1 (cmd 0x22 [])
    let run (b : BeatState) : State := { s with beat := b, prog := { running := true }, arrays := [(4, { pc := 9 })] }
    (run liveBeat).stopReady = false ∧ (run heldBeat).stopReady = true ∧ (run heldBeat).prog.running = true ∧ s.stopReady = true ∧ s.prog.running = false ∧
    after .stopProgram (run heldBeat) (fun t => !t.prog.running && (t.array 4).power == 2 && (t.array 4).pc == 9) = true := by decide +kernel

/-- Where no mark is listed, nothing is kept from the start of the beat and no memory has been lost, no word is marked. -/
theorem unmarked_of {s : State} (e : s.ecc = []) (d : s.dieMem = []) (b : s.beatMem = none) : s.unmarked := by
  have h (a : Nat) : s.mark a = none := by
    simp [State.mark, State.lostAt, State.dmem, e, d, SMap.get?, SMap.get]
  intro a
  simp [State.atStart, b, h a]

theorem test_hub_unmarked (c : BitVec 512) : (hubRuns 16 c).unmarked := unmarked_of rfl rfl rfl
/-! ### Images -/

/-- Header of an image of one empty section of firmware, version 1. -/
def fwHeader : List Byte :=
  leBytes 80 (word [(0x31524459, 0), (0x0200, 32), (0xA0, 48), (336, 64), (1, 128), (1, 208), (0x10, 512), (0xFF, 528), (80, 544)])
/-- Its hash by FIPS 180 (computed outside the model). -/
def fwHash : Nat := 0x3aa2bd1981a794b6a728fdaa7eb3ee7d33bb46c049a6ae15ccb805f701c7032884455e2f0dcaa0dfb420f9c4cf104a93
/-- A public key under which (hash, hash) is a signature of that hash. -/
def fwX : Nat := 0x9bde4d460e12b5eac6d25a00728bade4c65014c9340d7b36a85e4dda28f3982779e9f9e6d45779e5474e650a5885f707
def fwY : Nat := 0xd8da3bd676c9b5ae99d9d1006b9530a43b5e0daf180b48e2b2d4dddc8f2663dbff53d364a2b2d5fb961967ebb70babf5
def fwImage : List Byte := fwHeader ++ 4 :: ([fwX, fwY, fwHash, fwHash].flatMap fun v => (leBytes 48 v).reverse) ++ List.replicate 63 0
/-- `LOAD_IMAGE` of it, whose buffer has been read. -/
def fwState (bank : Bool) : State :=
  withBuffer { hubRuns 1 (cmd 0x20 [(0x1000, 64), (336, 128)]) with power := { hubBase.power with fwBank := bank } } (fwImage.map fun b => (b, false)) 0
def fwByte : Nat → Byte := byteAt fwImage
def fwRaw (o n : Nat) : List Byte := (List.range n).map fun i => fwByte (imgN fwByte 8 8 - 256 + o + i)

/-- FIPS 180: the constants are the first 64 fraction bits of the cube roots of the first 80 primes, and of the square roots of the
9th to 16th primes. -/
theorem test_sha_constants :
    let primes := (List.range 410).filter fun p => decide (2 ≤ p) && (List.range p).all fun d => decide (d < 2) || p % d != 0
    let fraction (e p k : Nat) : Bool := (List.range 21).any fun i =>
      let x := i * 2 ^ 64 + k
      decide (x ^ e ≤ p * 2 ^ (64 * e)) && decide (p * 2 ^ (64 * e) < (x + 1) ^ e)
    primes.length = 80 ∧ shaK.length = 80 ∧ (primes.zip shaK).all (fun x => fraction 3 x.1 x.2) = true ∧
    shaInit.length = 8 ∧ ((primes.drop 8).zip shaInit).all (fun x => fraction 2 x.1 x.2) = true := by decide +kernel

/-- SHA-384 of the image, and of the key; the second is also computed outside the model. -/
theorem test_sha384 :
    (sha384 ((List.range 80).map fwByte)).toNat = fwHash ∧ sha384 (fwRaw 0 97) =
      0x8ca7f89eb109c46da815c1d67bea44bdf27974879abf2bad5ea0c170b58072b9b8e3889a327e4f3b376ec726fa8e3276 := by decide +kernel

theorem test_signature :
    (fwByte (imgN fwByte 8 8 - 256) == 0x04 &&
      ecdsaVerify (beNat (fwRaw 1 48)) (beNat (fwRaw 49 48)) (beNat (fwRaw 97 48)) (beNat (fwRaw 145 48))
        (sha384 ((List.range (imgN fwByte 8 8 - 256)).map fwByte)) &&
      (zeros fwByte (imgN fwByte 8 8 - 256 + 193) 63).all (·.2) : Bool) = true := by decide +kernel

/-- A part whose first key hash is that of the key takes the firmware image. -/
theorem test_firmware_image (key : Config.keyHash 0 =
      0x8ca7f89eb109c46da815c1d67bea44bdf27974879abf2bad5ea0c170b58072b9b8e3889a327e4f3b376ec726fa8e3276)
    (valid : Config.keyRevoked 0 = false) :
    (fwState false).imageFail fwByte 336 = none := by
  have head : headerFail fwByte 336 = none := by decide +kernel
  have fmt : imgN fwByte 4 2 = 0x0200 := by decide +kernel
  have keyed : (List.finRange 4).any (fun i => Config.keyHash i == sha384 (fwRaw 0 97) && !Config.keyRevoked i) = true :=
    List.any_eq_true.2 ⟨0, List.mem_finRange _, by rw [test_sha384.2, key, valid, beq_self_eq_true]; rfl⟩
  have sig : signatureFail fwByte = none := by
    have good := test_signature
    unfold fwRaw at keyed good
    unfold signatureFail
    rw [if_neg (by rw [keyed]; decide), if_pos good]
  simp [State.imageFail, head, sig, fmt]

theorem test_firmware_buffer :
    (∀ b ∈ [false, true], (fwState b).power.fwBank = b ∧ (fwState b).bufferRead fwImage) ∧ imgN fwByte 4 2 = 0x0200 ∧ fwImage.length = 336 := by
  exact ⟨fun _ _ => ⟨rfl, buffer_read _ _⟩, by decide +kernel, by decide +kernel⟩

/-- The header and section table of a program image: one section of each kind, 1 to 6, for every die. -/
def progHeader : List Byte :=
  let sizes : List (Nat × Nat) := [(160, 32768), (32928, 557072), (590000, 168960), (758960, 16781312), (17540272, 8), (17540280, 552)]
  leBytes 160 (word ([(0x31524459, 0), (0x0100, 32), (0xA0, 48), (17541088, 64), (6, 208)] ++
    sizes.zipIdx.flatMap fun x => [(x.2 + 1, 512 + 128 * x.2), (0xFF, 528 + 128 * x.2), (x.1.1, 544 + 128 * x.2), (x.1.2, 608 + 128 * x.2)]))
theorem test_program_header :
    let g (i : Nat) : Byte := (progHeader[i]?).getD 0
    headerFail g 17541088 = none ∧ headerFail g 17541087 = some { reason := 1 } ∧ imgN g 4 2 = 0x0100 ∧ (sectionTable g).length = 6 := by
  decide +kernel
/-! ### Start, power and temperature -/

/-- Kickstand and the truing stage. -/
def kick (strap : BitVec 4) : State := { power := { vaoGood := true, strap := strap } }
def truing (p : PowerState → PowerState) : State := { power := p { stage := 2, vaoGood := true, truingBegun := true }, nowNs := 5000000000 }
/-- Every rail but VAO is on, or every one of a list. -/
def goodRail : RailState := { setMv := 1000, pg := true, en := true, state := 2 }
def railsOn (l : List Nat) : SMap RailState := l.map fun n => (n, goodRail)
def allOn : SMap RailState := railsOn ((List.range 25).map (· + 1))

theorem test_reset_pins :
    (kick 1).power.vaoGood = true ∧ (kick 1).power.inReset = false ∧ State.reset.power.vaoGood = false ∧ (kick 1).kickstand = true ∧
    ({ kick 1 with power := { (kick 1).power with inReset := true } } : State).power.inReset = true ∧ (truing id).kickstand = false ∧
    ({ power := { inReset := true } } : State).power.vaoGood = false := by decide +kernel

/-- A cold reset keeps a hard repair, drops a soft one, and clears the settings. -/
theorem test_cold_reset :
    let r : Repair := { unit := 0, bank := 0, column := false, index := 0, hard := true }
    let s : State := { State.reset with repairs := [r, { r with hard := false }], settings := [(0x0200, 2000)], aoLog := [logRec 1] }
    after (.coldReset true) s (fun t => t.repairs == [r] && t.settings == [] && t.aoLog == []) = true ∧
    after (.coldReset false) s (fun t => t.aoLog.length == 1) = true := by decide +kernel

/-- `RESET_DOMAIN` of code 1, forced or not, with a program running or none. -/
def resets (code : Nat) (force : Nat) (s : State) : State := { s with hub := (hubRuns 1 (cmd 0x43 [(code, 64), (force, 80)])).hub, power := hubBase.power }
theorem test_domain_resets :
    (∀ code ∈ [1, 2, 3, 4, 5, 6, 7, 8], (resets code 0 {}).cur 0x43 ≠ none ∧ slotN (cmd 0x43 [(code, 64)]) 8 1 = code ∧
      (domainOf (cmd 0x43 [(code, 64)])).isSome = true) ∧
    (resets 1 0 running).prog.running = true ∧ slotN (cmd 0x43 [(1, 64), (1, 80)]) 10 1 % 2 = 1 ∧ (resets 1 1 running).stopReady = false ∧
    (resets 1 1 { running with beat := heldBeat }).stopReady = true ∧ slotN (cmd 0x43 [(1, 64)]) 10 1 % 2 = 0 := by decide +kernel

theorem test_domain_ready :
    let c := cmd 0x43 [(8, 64)]
    let o : OpenCmd := { mb := 1, tag := 5, opcode := 0x43, deadline := 10 ^ 9, slot := c }
    let s (now : Nat) : State := { nowNs := now, hub := { openCmds := [o] }, power := { hubBase.power with resets := [(.sense, 0)] } }
    let x : State := { power := { hubBase.power with resync := [(.fab 1, 1), (.vault 2, 4)] } }
    (s 9).inDomainReset .sense = true ∧ (∀ r ∈ (s 9).power.resync, r.1 ≠ .sense) ∧
    (s 9).hub.openCmds.find? (fun o => o.opcode == 0x43 && domainOf o.slot == some .sense) = some o ∧ 9 < o.deadline ∧ o.deadline ≤ 10 ^ 9 ∧
    x.power.resync.find? (fun r => r.1 == .fab 1) = some (.fab 1, 1) ∧ x.power.resync.find? (fun r => r.1 == .vault 2) = some (.vault 2, 4) := by
  decide +kernel

theorem test_shutdown_and_tap :
    (hubRuns 1 (cmd 0x44 [])).cur 0x44 ≠ none ∧ slotN (cmd 0x44 [(1, 64)]) 8 1 = 1 ∧ slotN (cmd 0x44 []) 8 1 = 0 ∧
    ({ hubRuns 1 0 with power := { hubBase.power with restart := true } } : State).power.restart = true ∧
    (kick 1).power.vaoGood = true ∧ bitOf (kick 1).power.strap 0 = true ∧ bitOf (kick 4).power.strap 2 = true ∧ bitOf (kick 1).power.strap 2 = false := by
  decide +kernel

/-- One bank passes, both do, or none does; REFCLK is good or not. -/
theorem test_truing_begins (h : Config.rollbackMin.toNat ≤ 5) :
    let b (v : Nat) (ok : Bool) : FwBank := { version := BitVec.ofNat 32 v, rollback := 5, image := if ok then none else some [] }
    let s (x y : Bool) : State := { kick 0 with power := { (kick 0).power with fwA := b 1 x, fwB := b 2 y } }
    (s true true).kickstand = true ∧ bitOf (s true true).power.strap 0 = false ∧ (97000 ≤ 100000 ∧ 100000 ≤ 103000) ∧
    (s false false).bankPasses false = false ∧ (s false false).bankPasses true = false ∧ (s true true).bankPasses false = true ∧
    (s true true).bankPasses true = true ∧ (s true true).power.newer = true ∧ (s true false).bankPasses false = true ∧
    (s true false).bankPasses true = false ∧ bitOf (kick 1).power.strap 0 = true ∧ (s false false).power.noBank = false ∧
    ({ s false false with power := { (s false false).power with noBank := true } } : State).power.noBank = true := by
  simp [State.bankPasses, h, kick, PowerState.newer, State.kickstand]
  decide

theorem crc32_lt (bs : List Byte) : crc32 bs < 2 ^ 32 := by
  have step (r : Nat) (h : r < 2 ^ 32) (l : List Nat) : l.foldl (fun r _ => crc32Bit r) r < 2 ^ 32 := by
    induction l generalizing r with
    | nil => exact h
    | cons _ _ ih => exact ih _ (by unfold crc32Bit; exact Nat.xor_lt_two_pow (by omega) (by split <;> decide))
  have all (r : Nat) (h : r < 2 ^ 32) :
      bs.foldl (fun r b => (List.range 8).foldl (fun r _ => crc32Bit r) (r ^^^ b.toNat)) r < 2 ^ 32 := by
    induction bs generalizing r with
    | nil => exact h
    | cons b _ ih => exact ih _ (step _ (Nat.xor_lt_two_pow h (by have := b.isLt; omega)) _)
  exact Nat.xor_lt_two_pow (all _ (by decide)) (by decide)

/-- The CRC-32 of IEEE 802.3 of the digits 1 to 9. -/
theorem test_crc32 : crc32 [0x31, 0x32, 0x33, 0x34, 0x35, 0x36, 0x37, 0x38, 0x39] = 0xCBF43926 := by decide +kernel

/-- A bank with its commit record is valid, one without is not. -/
theorem test_calibration_banks :
    let c (gen : Word32) : CalBank :=
      { generation := gen, bodyLen := 0, serial := Config.serial, vcoreMv := [], portRec := 0, biases := [], tones := [], trims := [] }
    bankResult (some { c 1 with commit := some (c 1).commitRec }) = 0 ∧ bankResult (some (c 2)) ≠ 0 ∧ bankResult none ≠ 0 := by
  have h (bs : List Byte) : crc32 bs % 4294967296 = crc32 bs := Nat.mod_eq_of_lt (crc32_lt bs)
  simp [bankResult, CalBank.commitRec, CommitRec.crcSelf, CalBank.bytes, CalBank.body, h]

/-- Fuse bytes 0 to 13 of zeros, with no repair entry, are good with this CRC-16, and not with another. -/
theorem test_fuses (c : Nat) (f : ∀ d i, Config.fuseByte d i = if i = 14 then BitVec.ofNat 8 c else if i = 15 then BitVec.ofNat 8 (c / 256) else 0) :
    (c = 0xA96A → ∀ d, fuseGood d = true) ∧ (c = 0 → ∀ d, fuseGood d = false) := by
  constructor <;> intro h d <;> subst h <;> simp only [fuseGood, fuseCrc, fuseN, f] <;> decide +kernel

theorem test_truing_goes_on :
    let s (rails : SMap RailState) (held : Bool) := truing fun p => { p with rails := rails, railsHeld := held, groupsUp := if rails = [] then 0 else 11 }
    let up (e : EndState) : State := { s allOn false with beat := liveBeat, ends := (List.range 36).map fun i => (i, e), power := { (s allOn false).power with trainedAt := 0 } }
    (s [] true).railsGood = false ∧ (s [] false).railsGood = false ∧ (s allOn false).railsGood = true ∧ (s [] true).power.railsHeld = true ∧
    (s allOn false).power.truingFault = false ∧ (s allOn false).power.downGroup = none ∧ (∃ e ∈ (up { state := 5, cause := 2 }).ends, e.2.state = 5) ∧
    (∀ e ∈ (up { state := 4 }).ends, e.2.state ≠ 5) ∧ (up { state := 4 }).beat.aligned = true ∧ (∀ l < 18, ((up { state := 4 }).linkEnd (2 * l)).state = 4) ∧
    ({ up { state := 4 } with nowNs := 14000000000 } : State).portsDone = true := by decide +kernel

theorem test_power_up :
    let s (u : Option (Nat × Nat)) (rails : SMap RailState) := truing fun p => { p with upGroup := u, rails := rails }
    (s none (railsOn [1])).powering = true ∧ ({ s none (railsOn [1]) with power := { (s none (railsOn [1])).power with groupsUp := 1 } } : State).nextGroup = some 1 ∧ (railsOf 1).length = 8 ∧
    (s (some (0, 5000000000)) [(1, { setMv := 1800, en := true, state := 1 })]).nowNs ≤ 5000000000 + 10000000 ∧
    (∀ x ∈ (railsOf 0).zip [1746], 97 * 1800 ≤ 100 * x.2 ∧ 100 * x.2 ≤ 103 * 1800) ∧ (∃ x ∈ (railsOf 0).zip [1745], 100 * x.2 < 97 * 1800) ∧
    1000 + 10000000 < (s (some (0, 1000)) []).nowNs ∧ (s (some (0, 1000)) []).power.upGroup = some (0, 1000) ∧ groupOf 1 = 0 ∧
    groupOf 2 ≠ 0 ∧ (5000000000 : Nat) < 5000000000 + 10000000 := by decide +kernel

theorem test_power_down :
    let s (g : Nat) (rails : SMap RailState) (b : BeatState) : State :=
      { truing (fun p => { p with downGroup := some (g, 0), rails := rails }) with beat := b, prog := { running := true } }
    (∃ n ∈ railsOf 10, ((s 10 allOn liveBeat).rail n).en = true) ∧ (s 10 allOn liveBeat).downReady = false ∧ (s 10 allOn heldBeat).downReady = true ∧
    (∃ n ∈ railsOf 1, ((s 1 allOn {}).rail n).en = true) ∧ (∀ n ∈ railsOf 1, ((s 1 [] {}).rail n).en = false) ∧ groupOf 1 = 0 ∧
    ((s 0 [(1, { pg := true })] {}).rail 1).en = false ∧ ((s 0 [(1, { pg := true })] {}).rail 1).pg = true ∧ 0 + 10000000 ≤ (s 0 [] {}).nowNs ∧
    ((s 0 allOn {}).rail 3).en = true ∧ ((s 0 allOn {}).rail 3).pg = true := by decide +kernel

theorem test_losses :
    let s := truing fun p => { p with rails := allOn, stage := 3 }
    (s.rail 7).en = true ∧ (s.rail 7).pg = true ∧ s.power.downGroup = none ∧ s.power.truingBegun = true ∧ ((truing id).rail 7).en = false ∧
    (kick 0).power.truingBegun = false ∧ (truing id).stepTwoReached = false ∧ (truing id).power.fwStartAt + 2000000000 ≤ (truing id).nowNs ∧
    (truing (fun p => { p with fwTried := 2 })).bankPasses true = false := by
  refine ⟨?_, ?_, ?_, ?_, ?_, ?_, ?_, ?_, ?_⟩ <;> first | decide +kernel | (simp [State.bankPasses, truing]; intros; decide)

/-- Every rail is on, and the sites have these readings. -/
def warm (l : List (Nat × Int)) : State :=
  { hubBase with power := { hubBase.power with rails := allOn }
                 therm := { sensors := l.map fun x => (x.1, { samples := List.replicate 8 x.2, filtered := BitVec.ofInt 16 x.2, effective := BitVec.ofInt 16 x.2 }) } }

/-- A die at 125 °C shuts the package down; a vault at 105 °C stops what runs; a site out of range is suspect. -/
theorem test_sensor_sample :
    let s := { warm [(0, 2001), (128, 1681), (16, 2401)] with prog := { running := true } }
    let v : List Int := (List.range 232).map fun i => if i = 0 then 2001 else if i = 128 then 1681 else if i = 16 then 2401 else 700
    v.length = 232 ∧ s.sitePowered 0 = true ∧ hubBase.sitePowered 0 = false ∧ s.inDomainReset .sense = false ∧ State.reset.power.vaoGood = false ∧
    after (.sensorSample v) s (fun t => t.power.stage == 4 && t.therm.stopVault && (SMap.get {} t.therm.sensors 16 : SensorState).suspect &&
      t.hottestOf 0 16 == some 2001 && t.hottestOf 128 4 == some 1681 && t.beat.hubDemand) = true := by decide +kernel

/-- The readings of every logic and stack site, at 25 °C. -/
def senses : SMap SensorState := (warm ((List.range 232).map fun i => (i, 400))).therm.sensors

/-- 25 equal readings, with P_avg over the limit, a little under it, and far under it. -/
theorem test_power_sample :
    let r (da : Nat) : List Reading := List.replicate 25 { mv := 1000, da := BitVec.ofNat 16 da }
    let s (raised fell below : Option Nat) : State := { hubBase with nowNs := 2000000000, therm := { sensors := senses, nPower := 3, raisedAt := raised, fellAt := fell, belowSince := below } }
    let lim : Nat := (s none none none).setting 0x0200 % 65536 * 10000
    (s none none none).sensed = true ∧ ({} : State).sensed = false ∧ (∀ x ∈ r 1, x.failed = false) ∧
    (s none none none).power.inReset = false ∧ (s none none none).power.stage ≠ 1 ∧ (r 1).length = 25 ∧ lim < 100000 + 25 * 1000 * 3000 ∧ 100 * (100000 + 25 * 1000) ≤ 95 * lim ∧
    after (.powerSample (r 3000)) (s none none none) (fun t => t.therm.nPower == 4 && t.therm.overLimit) = true ∧
    after (.powerSample (r 3000)) (s (some 1950000000) none none) (fun t => t.therm.nPower == 3) = true ∧
    after (.powerSample (r 1)) (s none none (some 1000000000)) (fun t => t.therm.nPower == 2) = true := by decide +kernel

theorem test_thermal_brake :
    let s := warm [(0, 1700)]
    (s.hottestOf 0 160 ≠ none) ∧ s.nowNs < s.therm.thermalAt + 100000000 ∧ ({ s with nowNs := 100000000 } : State).therm.thermalAt + 100000000 ≤ 100000000 ∧
    s.throttled = false ∧ ({ s with therm := { s.therm with logic := 1 } } : State).throttled = true ∧
    (∀ at_, (some 1680 : Option Int) = some at_ → ¬(1700 + 8 ≤ at_)) ∧
    after .thermalBrakeStep { s with nowNs := 100000000, therm := { s.therm with logic := 1, hottest := some 1710 } } (fun t => t.therm.nThermal == 0) = true ∧
    after .thermalBrakeStep { s with nowNs := 100000000, therm := { s.therm with logic := 1, hottest := some 1700 } } (fun t => t.therm.nThermal == 1) = true := by
  refine ⟨?_, ?_, ?_, ?_, ?_, fun a h => ?_, ?_, ?_⟩
  on_goal 6 => cases h; decide
  all_goals decide +kernel

theorem test_gear_changes :
    let up : State := { hubBase with nowNs := 2000000000, therm := { sensors := senses, nPower := 9, brakeHiSince := some 0 } }
    let held : BeatState := { aligned := true, held := true, causeShift := true, wallBeat := 16 }
    let down : State := { hubBase with nowNs := 2000000000, beat := { held with gear := 2 }, therm := { sensors := senses, lowSince := some 0, gearJob := true } }
    hubBase.gearWanted = none ∧ up.gearWanted = some (1, 0) ∧ down.gearWanted = some (1, 0) ∧ up.therm.gearJob = false ∧ down.wall % 16 = 0 ∧
    after .gearChange { up with beat := held, therm := { up.therm with gearJob := true } } (fun t => t.beat.gear == 1 && t.therm.nPower == 2) = true ∧
    after .gearChange down (fun t => t.beat.gear == 1 && t.therm.nPower == 8) = true := by decide +kernel

/-- A region at its setpoint, far from it, and at 90 °C, in each of its states. -/
theorem test_region_heater :
    let s (v : Int) (ring : Byte) : State := { warm ((List.range 8).map fun i => (160 + i, v)) with therm := { (warm ((List.range 8).map fun i => (160 + i, v))).therm with ring := ring } }
    let set : Nat := (s 0 0).keyN 0x0502 0 2
    ((s 0 0).rail 25).pg = true ∧ (s 1440 0).hottestOf 160 8 = some 1440 ∧ (s set 3).hottestOf 160 8 = some (set : Int) ∧ set < 1440 ∧
    after (.regionHeaterControl 0) (s 1440 1) (fun t => fld t.therm.ring 1 0 == 3 && (t.port 0).state == 3) = true ∧
    after (.regionHeaterControl 0) (s set 0) (fun t => fld t.therm.ring 1 0 == 1) = true ∧
    after (.regionHeaterControl 0) (s (set + 20) 1) (fun t => fld t.therm.ring 1 0 == 1 && t.therm.bandSince 0 == some 5000000) = true := by decide +kernel

set_option maxRecDepth 20000 in
/-- A thermistor of 10 kΩ is at 25 °C, one that is shorted reads the most a reading holds (R449). -/
theorem test_thermistor : thermistorReading 10000000 = 400 ∧ thermistorReading 0 = 32767 := by decide

/-- A regulator that does not answer in a sweep is a rail fault. -/
theorem test_failed_reading :
    let s : State := { warm [] with power := { (warm []).power with truingBegun := true } }
    let l : List Reading := List.replicate 6 { mv := 1000, da := 1 } ++ { mv := 0, da := 0, failed := true } :: List.replicate 18 { mv := 1000, da := 1 }
    s.power.inReset = false ∧ s.power.stage ≠ 1 ∧ s.power.stage ≠ 4 ∧ s.power.downGroup = none ∧ (s.rail 7).en = true ∧ (s.rail 7).pg = true ∧
    (∀ j < 6, ∀ x ∈ l[j]?, x.failed = false) ∧ (∃ x ∈ l[6]?, x.failed = true) ∧ s.powering = false ∧
    (truing fun p => { p with rails := allOn }).powering = true ∧
    after (.powerSample l) s (fun t => (t.rail 7).state == 3 && (t.rail 7).busErr && t.power.stage == 4) = true := by decide +kernel

/-- A TAP with VIO on, `TRST_N` high and an instruction loaded, in kickstand with `STRAP0` high or low, or held by `TRST_N`. -/
def tapped (ir : BitVec 5) (strap : BitVec 4) (low : Bool) : State :=
  { kick strap with power := { (kick strap).power with rails := [(1, { pg := true })] }, tap := { ir := ir, trstLow := low, dr := [true] } }
theorem test_tap :
    (tapped 1 1 false).vioOn = true ∧ (kick 1).vioOn = false ∧ (tapped 1 1 false).tap.trstLow = false ∧ (tapped 1 1 true).tap.trstLow = true ∧
    (tapped 1 0 false).tapInForce = 1 ∧ (tapped 0x1F 0 false).tapInForce = 0x1F ∧ (tapped 1 1 false).kickstand = true ∧
    bitOf (tapped 1 1 false).power.strap 0 = true ∧ bitOf (tapped 1 0 false).power.strap 0 = false ∧ (tapped 1 1 false).boundarySelected = false ∧
    after (.tapInstruction (.shift false)) (tapped 1 1 false) (fun t => t.tap.tdo == some true) = true := by
  refine ⟨?_, ?_, ?_, ?_, ?_, ?_, ?_, ?_, ?_, ?_, ?_⟩ <;> rfl

/-- A code of `SAMPLE/PRELOAD` or `EXTEST` that is neither `BYPASS` nor `IDCODE` selects the boundary register; another code is `BYPASS` while
the package is not held in kickstand. -/
theorem test_boundary (h : Config.tapSample ≠ 0x1F ∧ Config.tapSample ≠ 0x01) :
    (tapped Config.tapSample 0 false).boundarySelected = true ∧
    (∀ c : BitVec 5, c ≠ 0x1F → c ≠ 0x01 → c ≠ Config.tapSample → tapAlways (tapped c 0 false).tap.ir = false) := by
  constructor
  · simp [State.boundarySelected, State.tapInForce, tapAlways, tapBypass, tapped]
    exact h
  · intro c a b d
    simp [tapAlways, tapBypass, tapped, d]
    exact ⟨a, b⟩

/-- REFCLK is lost once truing has begun, and again; VIO is lost in kickstand. -/
theorem test_reference_and_vio :
    (truing id).power.truingBegun = true ∧ (truing id).power.refLost = false ∧ (truing id).power.inReset = false ∧
    ({ truing id with power := { (truing id).power with refLost := true } } : State).power.refLost = true ∧ (kick 0).power.truingBegun = false ∧
    (let s : State := { kick 0 with power := { (kick 0).power with rails := [(1, { setMv := 1800, en := true, pg := true, state := 2 })] } }
     (s.rail 1).en = true ∧ (s.rail 1).pg = true ∧ s.power.downGroup = none ∧
     after (.railLoss 1) s (fun t => t.power.stage == 4 && (t.rail 1).state == 3) = true) := by decide +kernel
/-! ### The whole part -/

/-- Worked example of chapter 12: the route from 37 to 199, and neighbours across dimension 10. -/
theorem test_twisted_route :
    twist 199 = 1 ∧ twist 37 = 0 ∧ cubeNeighbour 37 1 = 39 ∧ cubeNeighbour 39 5 = 7 ∧ cubeNeighbour 7 7 = 199 ∧ cubeNeighbour 37 10 = 1061 ∧
    [0x80100000, 0x80500000, 0x80700000, 0x81F00000].map routeOut = [1, 5, 7, 0x1F] := by decide +kernel

/-- Table 5.8: a dispatch of 64 tokens, 96 positions, 2 input lines and 10 bound experts lasts 90 beats. -/
theorem test_dispatch_beats :
    let d : DerailleurState := { desc := [(0, BitVec.ofNat 512 (word [(64, 16), (96, 32), (2, 48), (10, 96)]))], binding := (List.range 10).map fun x => (x, 1) }
    d.duration 0 1 = 90 := by decide +kernel

/-- The repair entries of chapter 9: group 137, position 22, an east edge that receives and a west edge that transmits. -/
theorem test_repair_entry :
    let w : Word32 := 0xA8958000
    let v : Word32 := 0xC8958000
    fld w 31 30 = 2 ∧ fld w 29 29 = 1 ∧ fld w 28 20 = 137 ∧ fld w 19 14 = 22 ∧ fld v 31 30 = 3 ∧ fld v 29 29 = 0 ∧ fld v 28 20 = 137 ∧
    movesOf [(137, 22), (137, 5)] 137 = [5, 22] ∧ sparesOf 137 = [34, 35] := by decide +kernel

/-- A training report of one window, of `width` steps from step 60, and one sample of each test, at bits `i` and `j`. -/
def sampledReport (width i j : Nat) : TrainingReport :=
  { lowCopies := [], highCopies := [], lowDelay := 0, highDelay := 0
    sweeps := [{ atEnd := 0, group := 0, position := 0, first := 60, width := width }]
    samples := [{ atEnd := 0, group := 0, position := 0, index := i, value := true }]
    retest := [{ atEnd := 0, group := 0, position := 0, index := j, value := true }] }

/-- Ill-formed commands are refused, one for each check. -/
theorem test_ill_formed :
    (Instr.dispatchSweep 0 false 2816).wf = false ∧ (Instr.combineSweep 0 true 2816).wf = false ∧
    (Instr.linkTraining 0 (sampledReport 5 0 0)).wf = false ∧ (Instr.linkTraining 0 (sampledReport 4 (2 ^ 21) 0)).wf = false ∧
    (Instr.linkTraining 0 (sampledReport 4 0 (2 ^ 17))).wf = false ∧ (Instr.linkTraining 0 (sampledReport 4 0 0)).wf = true ∧
    (Instr.tapInstruction (.capture [true])).wf = false ∧ (Instr.tapInstruction (.capture (List.replicate 85 true))).wf = true ∧ (Instr.alignmentMark 0 [0]).wf = false ∧ (Instr.steeringSlotStart 0 2 64).wf = false ∧
    (Instr.burstReceive 0 2 { start := 0, count := 3, bits := 8 }).wf = false ∧
    (Instr.truingWindow 0 0 125001 0 0).wf = false ∧ (Instr.registerWrite (.block 2 0 3) 0).wf = false ∧
    (Instr.loRegisterRead (.block 1 0 2)).wf = false ∧ (Instr.repairTest [4]).wf = false ∧
    (Instr.truing { refclkKHz := 100000, failStep := none, stackRate := [7] }).wf = false ∧ (Instr.railGroupPowerUp 1 [1100]).wf = false ∧
    (Instr.sensorSample []).wf = false ∧ (Instr.powerSample []).wf = false ∧ (Instr.dispatchSweep 0 false 2815).wf = true ∧ (Instr.nop 0).wf = true := by
  decide +kernel

/-- The opcode table gives no row bits. -/
theorem test_no_word_spells_a_command (s : State) (n w : Nat) : decodeTableWord n w = none ∧ s.withFetchWord n w = s := ⟨rfl, rfl⟩

/-- A queue of two commands runs the first, and an empty queue lets a nanosecond pass. -/
theorem test_steps :
    State.reset.pending = [] ∧ 0 ≤ 1000000 + State.reset.mach.ppm ∧
    (match step { State.reset with pending := [.pwrokAoRise 5, .nop 0] } with | .next t => t.pending == [.nop 0] && t.power.strap == 5 | _ => false) = true ∧
    (match step State.reset with | .next t => t.nowNs == 1 && t.mach.count == 0 | _ => false) = true ∧
    (match step { State.reset with power := { clocks := true } } with | .next t => t.nowNs == 1 && t.mach.count == 128000000 | _ => false) = true := by decide +kernel

/-- The invariant holds of the state after reset. -/
theorem test_invariant : State.reset.Inv := by
  refine ⟨by decide, by decide, by decide, ?_, ?_⟩ <;> decide
end Sys2Proof.Tests
end

section
/-! The refutation of O50: the four bytes of a mailbox notification may run over the populated end of a local store, and then only a part
of them is queued. -/

namespace Sys2Proof.Proofs

open Sys2Proof Sys2Proof.Machine

/-- A request to a local store that stands whole in its queue has every one of its lines waiting for the chainline (R25). -/
theorem linePart_waits_of_queued {s t : State} {q x : ServantReq} {g o : Nat} (h : Queued s t q)
    (hr : regionOf q.addr = some (.store g, o)) (hx : x ∈ lineParts (q.len / 64 + 2) q) :
    x ∈ SMap.get [] t.localReqs (requestPort x) := by
  obtain ⟨-, -, -, hlocal⟩ := h
  obtain ⟨hwait, -⟩ := hlocal o (.inl ⟨g, hr⟩)
  rw [hwait (requestPort x)]
  exact List.mem_append_right _ (List.mem_filter.mpr ⟨hx, by simp⟩)

/-- A package at the ready stage whose mailbox MB16 has an enabled event and, as its notification address, the last two bytes of local
store 0. R420 asks for no alignment of that address. -/
def notifiesAtStoreEnd : State :=
  { power := { stage := 3, vaoGood := true }
    mbs := [(16, { event := 1, eventEn := 1, notifyLo := 0x2FFFE, notifyHi := 0x800 })] }

/-- The request that the notification clause asks to find queued there. -/
def storeEndRequest : ServantReq :=
  { owner := .hub 0, write := true, addr := storeBase 0 + 0x2FFFE, data := leBytes 4 0, poison := List.replicate 4 false, len := 4, whole := 4 }

/-- The part of it beyond the first line. -/
def pastStoreEnd : ServantReq :=
  { storeEndRequest with addr := storeBase 0 + 0x30000, data := leBytes 2 0, poison := [false, false], len := 2, whole := 2, part := 2 }

/-- The state meets every premise of the notification clause for MB16. -/
theorem notifiesAtStoreEnd_premises :
    let x := notifiesAtStoreEnd.mb 16
    let a := x.notifyLo.toNat + 2 ^ 32 * x.notifyHi.toNat
    x.event &&& x.eventEn ≠ 0 ∧ mbClass 16 = 1 ∧ a ≠ 0 ∧ x.notifiedAt = none ∧ notifiesAtStoreEnd.ownAddress a = true ∧ gaSpace a = 0 ∧
      regionOf (gaOffset a) = some (.store 0, 0x2FFFE) ∧ notifiesAtStoreEnd.regionServes (.store 0) = true := by
  decide +kernel

/-- The request falls into two lines, the second of which starts where nothing is populated (R10, R22). -/
theorem storeEndRequest_parts :
    regionOf storeEndRequest.addr = some (.store 0, 0x2FFFE) ∧ pastStoreEnd ∈ lineParts (storeEndRequest.len / 64 + 2) storeEndRequest ∧
      regionOf pastStoreEnd.addr = none := by
  decide +kernel

/-- The model answers the second line with an error at once (R10): it does not wait for the chainline. -/
theorem mailboxNotify_pastStoreEnd_not_queued : Answers (.mailboxNotify 16) notifiesAtStoreEnd fun t =>
    pastStoreEnd ∉ SMap.get [] t.localReqs (requestPort pastStoreEnd) :=
  ⟨_, rfl, by decide +kernel⟩

/-- Refutes O50: where the notification address lies in a local store that serves, its clause on `MAILBOX_NOTIFY` finds the whole store of
`RSP_COUNT` in the queue, but of four bytes that begin at the store's last two only the first line is queued. -/
theorem not_mailboxesTakeSelectAndAnswer : ¬ Obligations.MailboxesTakeSelectAndAnswer := by
  unfold Obligations.MailboxesTakeSelectAndAnswer
  rintro ⟨-, -, -, -, -, -, -, -, -, -, -, -, -, -, -, hnotify, -⟩
  obtain ⟨hevent, hclass, ha, hnever, hown, hspace, hregion, hserves⟩ := notifiesAtStoreEnd_premises
  obtain ⟨hstore, hpart, -⟩ := storeEndRequest_parts
  obtain ⟨-, hstores⟩ := hnotify 16 notifiesAtStoreEnd
  obtain ⟨hqueues, -⟩ := hstores hevent hclass ha fun b hb => nomatch hnever.symm.trans hb
  obtain ⟨t, ht, u, -, -, -, hq⟩ := hqueues hown hspace
  have hqueued : Queued u t storeEndRequest := hq _ _ hregion hserves
  obtain ⟨t', ht', hlost⟩ := mailboxNotify_pastStoreEnd_not_queued
  cases ht.symm.trans ht'
  exact hlost (linePart_waits_of_queued hqueued hstore hpart)

end Sys2Proof.Proofs
end

section
/-! The refutation of O37: a reply may bring more than its record asked for, and then the result runs over the populated end of a
scratchpad, and only a part of its write is queued. -/

namespace Sys2Proof.Proofs

open Sys2Proof Sys2Proof.Machine

/-- A request to a scratchpad that stands whole in its queue has every one of its lines waiting for the chainline (R25). -/
theorem linePart_waits_of_queued_scratch {s t : State} {q x : ServantReq} {p o : Nat} (h : Queued s t q)
    (hr : regionOf q.addr = some (.scratch p, o)) (hx : x ∈ lineParts (q.len / 64 + 2) q) :
    x ∈ SMap.get [] t.localReqs (requestPort x) := by
  obtain ⟨-, -, -, hlocal⟩ := h
  obtain ⟨hwait, -⟩ := hlocal o (.inr ⟨p, hr⟩)
  rw [hwait (requestPort x)]
  exact List.mem_append_right _ (List.mem_filter.mpr ⟨hx, by simp⟩)

/-- A `LOAD` of one byte of package 1, whose result is the last byte of the last scratchpad, of die 7. -/
def lastByteRecord : BitVec 512 := BitVec.ofNat 512 (1 + 2 ^ 16 + 2 ^ 64 * 2 ^ 48 + 2 ^ 128 * (scratchBase 2047 + 0xFFFF))

/-- That record among the outstanding ones of die 7, once a reply with two bytes of data has come for it. Table 11.2 gives a `LOAD_REPLY`
the bytes asked for, but what comes from another package is free, and `REPLY_RECEIVE` matches a reply by its identifier alone (R342). -/
def longReplyRun : OpRun := { n := 0, record := lastByteRecord, reqId := some 0, reply := some (0, [0, 0], 0) }

def longReplyState : State :=
  { image := some { opCounters := 1 }, fabs := [(3, { issuers := [(1, { out := [longReplyRun], next := 1 })] })] }

/-- The write of the result that the statement asks to find queued. -/
def longResult : ServantReq :=
  { owner := .record 3 1 0, write := true, addr := opResult longReplyRun.record, data := [0, 0], len := 2, whole := 2
    poison := (List.range 2).map fun j => bitOf (0 : Word32) ((gaOffset (opAddr longReplyRun.record) % 256 + j) / 8) }

/-- The part of it beyond the first line. -/
def pastScratchEnd : ServantReq :=
  { longResult with addr := scratchBase 2047 + 0x10000, data := [0], poison := [false], len := 1, whole := 1, part := 1 }

/-- The record keeps its form, and the state meets every premise of the clause on results. -/
theorem longReplyState_premises :
    longReplyState.recordOk (issuerDie 3 1) lastByteRecord = true ∧ longReplyState.inDomainReset (.fab 3) = false ∧
      (longReplyState.issuer 3 1).out.find? (fun o => o.n == 0) = some longReplyRun ∧ longReplyRun.settled = longReplyRun ∧
      opCode longReplyRun.record = 1 := by
  decide +kernel

/-- The result falls into two lines, the second of which starts where nothing is populated (R10). -/
theorem longResult_parts :
    regionOf longResult.addr = some (.scratch 2047, 0xFFFF) ∧ pastScratchEnd ∈ lineParts (longResult.len / 64 + 2) longResult ∧
      regionOf pastScratchEnd.addr = none := by
  decide +kernel

/-- The model answers the second line with an error at once (R10): it does not wait for the chainline. -/
theorem opRecordComplete_pastScratchEnd_not_queued : Answers (.opRecordComplete 3 1 0) longReplyState fun t =>
    pastScratchEnd ∉ SMap.get [] t.localReqs (requestPort pastScratchEnd) :=
  by
  have h : (match exec (.opRecordComplete 3 1 0) longReplyState with
    | .next t => decide (pastScratchEnd ∉ SMap.get [] t.localReqs (requestPort pastScratchEnd))
    | _ => false) = true := by decide +kernel
  split at h
  case h_1 t ht => exact ⟨t, ht, of_decide_eq_true h⟩
  case h_2 => cases h

/-- Refutes O37: the clause on the result of a record finds the write of the whole result queued at the place that the record names, but
of a result that begins at the last populated byte only the first line is queued. -/
theorem not_operationRecordsStartAndComplete : ¬ Obligations.OperationRecordsStartAndComplete := by
  unfold Obligations.OperationRecordsStartAndComplete
  rintro ⟨-, -, -, -, -, hcompletes⟩
  obtain ⟨-, hup, hfind, hsettled, hload⟩ := longReplyState_premises
  obtain ⟨hregion, hpart, -⟩ := longResult_parts
  obtain ⟨-, hreplied, -⟩ := hcompletes 3 1 0 longReplyState longReplyRun hup hfind
  obtain ⟨-, -, hwrites, -⟩ := hreplied 0 [0, 0] 0 (by rw [hsettled]; rfl)
  rw [hsettled, hload] at hwrites
  obtain ⟨t, ht, m, -, -, -, hq⟩ := hwrites rfl (fun h => absurd h.1 (by decide)) ⟨by decide, .inl rfl, by decide⟩
  have hqueued : Queued m t longResult := hq ⟨0xFFFF, .inr ⟨2047, hregion⟩⟩
  obtain ⟨t', ht', hlost⟩ := opRecordComplete_pastScratchEnd_not_queued
  cases ht.symm.trans ht'
  exact hlost (linePart_waits_of_queued_scratch hqueued hregion hpart)

end Sys2Proof.Proofs
end

section
/-! Rules for O16: answers to servant requests, and the bytes that the chainline writes. -/

namespace Sys2Proof.Proofs

open Sys2Proof Sys2Proof.Machine Sys2Proof.Laws

/-! ### Answers to servant requests -/

/-- An answer changes nothing but the units that own requests. -/
theorem respond_frame (s : State) (q : ServantReq) (st : Nat) (data : List (Byte × Bool)) :
    { s.respond q st data with channels := s.channels, fabs := s.fabs, hub := s.hub, engines := s.engines } = s := by
  unfold State.respond
  cases q.owner with
  | access c n => cases h : (s.channel c).cur with | none => simp only [h] | some d => simp only [h]; rfl
  | control | remote | record | hub | chunk => rfl

theorem respond_router (s : State) (q : ServantReq) (st : Nat) (data : List (Byte × Bool)) (j : Nat) :
    (s.respond q st data).router j = s.router j :=
  (congrArg (fun u : State => u.router j) (respond_frame s q st data) :)

theorem respond_mem (s : State) (q : ServantReq) (st : Nat) (data : List (Byte × Bool)) : (s.respond q st data).mem = s.mem :=
  (congrArg State.mem (respond_frame s q st data) :)

theorem respond_answered (s : State) (q : ServantReq) (st : Nat) (data : List (Byte × Bool)) :
    Answered s (s.respond q st data) q st data := by
  unfold Answered State.respond
  cases q.owner with
  | access c n =>
    cases h : (s.channel c).cur with
    | none =>
      simp only [h]
      exact ⟨trivial, trivial, trivial, fun _ _ => trivial, (congrArg (fun x => { s.channel c with cur := x }) h)⟩
    | some d =>
      simp only [h]
      exact ⟨rfl, rfl, rfl, fun k hk => get_set_ne _ _ _ _ _ hk, setChannel_channel_same _ _ _⟩
  | control c n => exact ⟨rfl, rfl, rfl, fun k hk => get_set_ne _ _ _ _ _ hk, setChannel_channel_same _ _ _⟩
  | remote k n => exact ⟨rfl, rfl, rfl, fun j hj => get_set_ne _ _ _ _ _ hj, setFab_fab_same _ _ _⟩
  | record k i n =>
    refine ⟨rfl, rfl, rfl, fun j hj => get_set_ne _ _ _ _ _ hj, ?_, fun j => ?_⟩
    · simp only [setFab_fab_same]
    · simp only [setFab_fab_same, get_set]
  | hub n => exact ⟨rfl, rfl, rfl, rfl⟩
  | chunk k n => exact ⟨rfl, rfl, rfl, fun j hj => get_set_ne _ _ _ _ _ hj, setEngine_engine_same _ _ _⟩

/-- What happens before and after an answer, to no owner's state, leaves it the owner's answer. -/
theorem answered_of_noAnswer {s u v t : State} {q : ServantReq} {st : Nat} {data : List (Byte × Bool)} (hb : NoAnswer s u)
    (h : Answered u v q st data) (ha : NoAnswer v t) : Answered s t q st data := by
  obtain ⟨hc, hf, hh, he⟩ := hb
  obtain ⟨hc', hf', hh', he'⟩ := ha
  unfold Answered State.channel State.fab State.engine at *
  simp only [← hc, ← hf, ← hh, ← he, hc', hf', hh', he']
  exact h

/-! ### Bytes that the chainline writes (R109) -/

/-- Where every write to a byte gives it `b`, and it has the value `b` or is written, it has the value `b` afterwards. -/
theorem foldl_putByte_byte {y : Nat} {b : Byte} (ws : List (Nat × Byte × Bool)) : ∀ s : State, (∀ w ∈ ws, w.1 = y → w.2.1 = b) →
    (s.byte y = b ∨ ∃ w ∈ ws, w.1 = y) → (ws.foldl (fun s w => s.putByte w.1 w.2.1) s).byte y = b := by
  induction ws with
  | nil => intro s _ h; simpa using h
  | cons w ws ih =>
    intro s hb h
    refine ih _ (fun v hv => hb v (List.mem_cons_of_mem _ hv)) ?_
    rw [putByte_byte]
    by_cases hw : y = w.1
    · exact .inl (by rw [if_pos hw]; exact hb w List.mem_cons_self hw.symm)
    · rw [if_neg hw]
      refine h.imp_right ?_
      rintro ⟨v, hv, rfl⟩
      exact ⟨v, (List.mem_cons.mp hv).resolve_left fun e => hw (by rw [e]), rfl⟩

theorem writeWordBytes_byte {y : Nat} {b : Byte} {ws : List (Nat × Byte × Bool)} (s : State) (word : Nat)
    (hb : ∀ w ∈ ws, w.1 = y → w.2.1 = b) (h : s.byte y = b ∨ ∃ w ∈ ws, w.1 = y) : (s.writeWordBytes word ws).byte y = b := by
  unfold State.writeWordBytes
  refine foldl_putByte_byte ws _ hb (h.imp_left fun h => ?_)
  split
  · exact h
  · unfold State.byte at *; rwa [setMark_mem, checkWord_mem]

/-- The words of a scattered write are written one by one: the same holds once the word of the byte has had its turn. -/
theorem foldl_writeWordBytes_byte {y : Nat} {b : Byte} {ws : List (Nat × Byte × Bool)} (hb : ∀ w ∈ ws, w.1 = y → w.2.1 = b)
    (l : List Nat) : ∀ s : State, (s.byte y = b ∨ (∃ w ∈ ws, w.1 = y) ∧ y / 8 ∈ l) →
    (l.foldl (fun s w => s.writeWordBytes w (ws.filter fun x => x.1 / 8 == w)) s).byte y = b := by
  induction l with
  | nil => intro s h; simpa using h
  | cons v l ih =>
    intro s h
    have hv : ∀ w ∈ ws.filter fun x => x.1 / 8 == v, w.1 = y → w.2.1 = b := fun w hw => hb w (List.mem_filter.mp hw).1
    refine ih _ ?_
    rcases h with h | ⟨⟨w, hw, rfl⟩, hl⟩
    · exact .inl (writeWordBytes_byte s v hv (.inl h))
    · rcases List.mem_cons.mp hl with rfl | hl
      · exact .inl (writeWordBytes_byte s _ hv (.inr ⟨w, List.mem_filter.mpr ⟨hw, beq_self_eq_true _⟩, rfl⟩))
      · exact .inr ⟨⟨w, hw, rfl⟩, hl⟩

/-- A write of tier 0 gives a byte the value that all of its writes name, if a port of no higher rank has written it; and it leaves a byte
that it does not name as it was. -/
theorem writeTier0_byte {y : Nat} {b : Byte} {ws : List (Nat × Byte × Bool)} (s : State) (rank : Nat)
    (hb : ∀ w ∈ ws, w.1 = y → w.2.1 = b) (h : s.byte y = b ∨ (∃ w ∈ ws, w.1 = y) ∧ SMap.get 0 s.t0Writes y ≤ rank) :
    (s.writeTier0 rank ws).byte y = b := by
  refine foldl_writeWordBytes_byte (fun w hw => hb w (List.mem_filter.mp hw).1) _ s.keepStart ?_
  refine Or.imp (fun h => ?_) (fun h => ?_) h
  · unfold State.byte at *; rwa [keepStart_mem]
  · obtain ⟨⟨w, hw, rfl⟩, hr⟩ := h
    have hwon : w ∈ ws.filter fun w => decide (SMap.get 0 s.t0Writes w.1 ≤ rank) := List.mem_filter.mpr ⟨hw, by simpa using hr⟩
    exact ⟨⟨w, hwon, rfl⟩, List.mem_eraseDups.mpr (List.mem_map.mpr ⟨w, hwon, rfl⟩)⟩

/-- `t` with memory, its checks, the start of the beat and the ranks of the beat's writes put back. -/
def tierOf (s t : State) : State :=
  { t with mem := s.mem, ecc := s.ecc, dieMem := s.dieMem, memStacks := s.memStacks, beatMem := s.beatMem, t0Writes := s.t0Writes }

theorem foldl_putByte_memOnly (ws : List (Nat × Byte × Bool)) : ∀ s : State, MemOnly s (ws.foldl (fun s w => s.putByte w.1 w.2.1) s) := by
  induction ws with
  | nil => exact memOnly_refl
  | cons w ws ih => intro s; exact memOnly_trans (t := s.putByte w.1 w.2.1) rfl (ih _)

theorem writeWordBytes_memOnly (s : State) (word : Nat) (ws : List (Nat × Byte × Bool)) : MemOnly s (s.writeWordBytes word ws) := by
  unfold State.writeWordBytes
  refine memOnly_trans ?_ (foldl_putByte_memOnly ws _)
  split
  · exact setMark_memOnly s _ _
  · exact memOnly_trans (checkWord_memOnly s _) (setMark_memOnly _ _ _)

theorem writeScatter_memOnly (s : State) (ws : List (Nat × Byte × Bool)) : MemOnly s (s.writeScatter ws) := by
  unfold State.writeScatter
  generalize (ws.map fun w => w.1 / 8).eraseDups = l
  induction l generalizing s with
  | nil => exact memOnly_refl s
  | cons w l ih => exact memOnly_trans (writeWordBytes_memOnly s w _) (ih _)

theorem writeTier0_frame (s : State) (rank : Nat) (ws : List (Nat × Byte × Bool)) : tierOf s (s.writeTier0 rank ws) = s := by
  have hk := congrArg (tierOf s) (keepStart_memOnly s)
  exact (congrArg (tierOf s) (writeScatter_memOnly s.keepStart _)).trans hk

theorem writeTier0_router (s : State) (rank : Nat) (ws : List (Nat × Byte × Bool)) (j : Nat) :
    (s.writeTier0 rank ws).router j = s.router j :=
  (congrArg (fun u : State => u.router j) (writeTier0_frame s rank ws) :)

theorem writeTier0_noAnswer (s : State) (rank : Nat) (ws : List (Nat × Byte × Bool)) : NoAnswer s (s.writeTier0 rank ws) :=
  let h := writeTier0_frame s rank ws
  ⟨(congrArg State.channels h :), (congrArg State.fabs h :), (congrArg State.hub h :), (congrArg State.engines h :)⟩

end Sys2Proof.Proofs
end

section
/-! Rules for O16: where the outputs of a router lead, and what taking a flit from its input changes. -/

namespace Sys2Proof.Proofs

open Sys2Proof Sys2Proof.Machine Sys2Proof.Laws

/-! ### Where a flit goes -/

/-- The router over a mesh wire is another one. -/
theorem meshNext_ne {r r2 : Nat} {q q2 : PortName} (h : meshNext r q = some (r2, q2)) : r2 ≠ r := by
  unfold meshNext routerRow routerCol at h
  cases q <;> simp only [Option.ite_none_right_eq_some, Option.some.injEq, Prod.mk.injEq, reduceCtorEq] at h <;> omega

theorem edgeFar_ne {d d2 : Nat} {e : Edge} (h : edgeFar d e = some (some d2)) : d2 ≠ d := by
  unfold edgeFar at h
  cases e <;> grind

theorem portEdge_lane_lt {r : Nat} {q : PortName} {e : Edge} {lane : Nat} (h : portEdge r q = some (e, lane)) : lane < 32 := by
  unfold portEdge routerRow routerCol at h
  cases q <;> grind

theorem routerDie_lanePort {d lane : Nat} (e : Edge) (h : lane < 32) : routerDie (lanePort d e lane).1 = d := by
  unfold routerDie lanePort
  cases e <;> simp only <;> omega

/-- The router over a Chaxel link is another one: it lies on another die. -/
theorem farPort_ne {r r2 : Nat} {q q2 : PortName} (h : farPort r q = some (r2, q2)) : r2 ≠ r := by
  unfold farPort at h
  split at h
  case h_2 => cases h
  case h_1 e lane hport =>
    split at h
    case h_2 => cases h
    case h_1 d hfar =>
      rintro rfl
      have hd := routerDie_lanePort (d := d) e.opposite (portEdge_lane_lt hport)
      rw [Option.some.inj h] at hd
      exact edgeFar_ne hfar hd.symm

/-- A wire or link to another router. -/
def leadsTo (r : Nat) (q : PortName) (r2 : Nat) (q2 : PortName) : Prop :=
  meshNext r q = some (r2, q2) ∨ meshNext r q = none ∧ farPort r q = some (r2, q2)

theorem leadsTo_ne {r r2 : Nat} {q q2 : PortName} (h : leadsTo r q r2 q2) : r2 ≠ r :=
  h.elim meshNext_ne fun h => farPort_ne h.2

/-- The flit as it waits behind a wire, or a link, that it has entered in this beat. -/
def sentFlit (s : State) (r : Nat) (x : ServFlit) (q q2 : PortName) : ServFlit :=
  { x with port := q2, ready := s.beat.routed + (if (meshNext r q).isSome then 1 else 14)
           sent := if (meshNext r q).isSome then none else some s.wall }

theorem servantHop_leadsTo (s : State) {r r2 : Nat} (x : ServFlit) {q q2 : PortName} (h : leadsTo r q r2 q2) :
    s.servantHop r x q = s.setRouter r2 { s.router r2 with servant := (s.router r2).servant ++ [sentFlit s r x q q2] } := by
  have hl : q ≠ .l := by rintro rfl; rcases h with h | ⟨-, h⟩ <;> cases h
  have hv : q ≠ .v := by rintro rfl; rcases h with h | ⟨-, h⟩ <;> cases h
  unfold State.servantHop sentFlit
  split
  · exact absurd rfl hl
  · exact absurd rfl hv
  · rcases h with h | ⟨hm, hf⟩
    · simp [h]
    · simp [hm, hf]

/-! ### A flit is taken from its input -/

/-- The ends of the links of a die are not the far ends of its own links. -/
theorem edgeEnd_ne_far {d a b : Nat} {e e' : Edge} (hd : d < 8) (ha : edgeEnd d e = some a) (hb : edgeEnd d e' = some b) : a ≠ b ^^^ 1 := by
  have h : ∀ d < 8, ∀ e ∈ [Edge.north, .south, .east, .west], ∀ e' ∈ [Edge.north, .south, .east, .west],
      ∀ a ∈ edgeEnd d e, ∀ b ∈ edgeEnd d e', a ≠ b ^^^ 1 := by decide +kernel
  exact h d hd e (by cases e <;> decide) e' (by cases e' <;> decide) a ha b hb

theorem laneEnd_ne_far {r : RouterId} {p q : PortName} {a b : Nat} (ha : laneEnd r p = some a) (hb : laneEnd r q = some b) : a ≠ b ^^^ 1 := by
  obtain ⟨x, -, hx⟩ := Option.bind_eq_some_iff.mp ha
  obtain ⟨y, -, hy⟩ := Option.bind_eq_some_iff.mp hb
  exact edgeEnd_ne_far (by unfold routerDie; omega) hx hy

/-- Router `r` is rid of the flits that waited at its inputs; links may carry another credit away from it, and settled registers have
taken their values. -/
structure Taken (s u : State) (r : RouterId) : Prop where
  frame : { u with routers := s.routers, ends := s.ends } = s
  others : ∀ j, j ≠ r.val → u.router j = s.router j
  same : { u.router r with servant := (s.router r).servant, xfer := (s.router r).xfer, staged := (s.router r).staged } = s.router r
  servant : (u.router r).servant = []
  ends : ∀ q e, laneEnd r q = some e → u.linkEnd e = s.linkEnd e

theorem sendCredit_frame (s : State) (e : Nat) (lanes : List Nat) (what : Option Nat) :
    { s.sendCredit e lanes what with ends := s.ends } = s := by
  unfold State.sendCredit
  simp only
  split <;> rfl

theorem sendCredit_linkEnd_ne (s : State) {e j : Nat} (lanes : List Nat) (what : Option Nat) (h : j ≠ e) :
    (s.sendCredit e lanes what).linkEnd j = s.linkEnd j := by
  unfold State.sendCredit
  simp only
  split
  · exact get_set_ne _ _ _ _ _ h
  · rfl

theorem freePlace_frame (s : State) (r : Nat) (q : PortName) : { s.freePlace r q with ends := s.ends } = s := by
  unfold State.freePlace
  split
  · split
    · exact sendCredit_frame s _ _ _
    · rfl
  · rfl

theorem freePlace_linkEnd (s : State) {r : RouterId} (p : PortName) {q : PortName} {e : Nat} (h : laneEnd r q = some e) :
    (s.freePlace r p).linkEnd e = s.linkEnd e := by
  unfold State.freePlace
  split
  case h_1 e' he' =>
    split
    · exact sendCredit_linkEnd_ne s _ _ (laneEnd_ne_far h he')
    · rfl
  case h_2 => rfl

theorem freePlace_router (s : State) (r : Nat) (p : PortName) (j : Nat) : (s.freePlace r p).router j = s.router j :=
  (congrArg (fun u : State => u.router j) (freePlace_frame s r p) :)

/-- The state after a router's only flit has been taken from its input. -/
def takenAt (s : State) (r : RouterId) (p : PortName) : State := (s.setRouter r { s.router r with servant := [] }).freePlace r p

theorem takenAt_router (s : State) (r : RouterId) (p : PortName) : (takenAt s r p).router r = { s.router r with servant := [] } := by
  unfold takenAt
  rw [freePlace_router, setRouter_router_same]

theorem taken_takenAt (s : State) (r : RouterId) (p : PortName) : Taken s (takenAt s r p) r where
  frame := congrArg (fun u : State => { u with routers := s.routers }) (freePlace_frame _ r p)
  others j hj := by unfold takenAt; rw [freePlace_router, setRouter_router, if_neg hj]
  same := by rw [takenAt_router]
  servant := by rw [takenAt_router]
  ends q e h := freePlace_linkEnd _ p h

/-- The state once a router has taken the rewrites of its transfer registers. -/
def settledAt (s : State) (r : Nat) : State := s.setRouter r ((s.router r).settle s.sched)

theorem settledAt_router (s : State) (r : Nat) : (settledAt s r).router r = (s.router r).settle s.sched := setRouter_router_same _ _ _

theorem taken_settledAt (s : State) (r : RouterId) (p : PortName) : Taken s (takenAt (settledAt s r) r p) r :=
  let h := taken_takenAt (settledAt s r) r p
  { frame := (congrArg (fun u : State => { u with routers := s.routers }) h.frame :)
    others := fun j hj => (h.others j hj).trans (by unfold settledAt; rw [setRouter_router, if_neg hj])
    same := by rw [takenAt_router, settledAt_router]; rfl
    servant := h.servant
    ends := h.ends }

section
variable {s u : State} {r : RouterId} (h : Taken s u r)
include h

theorem Taken.noAnswer : NoAnswer s u :=
  ⟨(congrArg State.channels h.frame :), (congrArg State.fabs h.frame :), (congrArg State.hub h.frame :), (congrArg State.engines h.frame :)⟩

theorem Taken.beat : u.beat = s.beat := (congrArg State.beat h.frame :)
theorem Taken.mem : u.mem = s.mem := (congrArg State.mem h.frame :)
theorem Taken.localReqs : u.localReqs = s.localReqs := (congrArg State.localReqs h.frame :)
theorem Taken.t0Writes : u.t0Writes = s.t0Writes := (congrArg State.t0Writes h.frame :)
theorem Taken.byte (y : Nat) : u.byte y = s.byte y := (congrArg (fun v : State => v.byte y) h.frame :)
theorem Taken.servantError (write : Bool) (off len : Nat) : u.servantError write off len = s.servantError write off len :=
  (congrArg (fun v : State => v.servantError write off len) h.frame :)
theorem Taken.request : (u.router r).request = (s.router r).request := (congrArg RouterState.request h.same :)
theorem Taken.fifoIn : (u.router r).fifoIn = (s.router r).fifoIn := (congrArg RouterState.fifoIn h.same :)

/-- What is the same at router `r` is the same at every router. -/
theorem Taken.everywhere {α : Type} (f : RouterState → α) (hf : f (u.router r) = f (s.router r)) (j : Nat) :
    f (u.router j) = f (s.router j) := by
  by_cases hj : j = r.val
  · rw [hj, hf]
  · rw [h.others j hj]

theorem Taken.fifoOut : ∀ j, (u.router j).fifoOut = (s.router j).fifoOut := h.everywhere _ (congrArg RouterState.fifoOut h.same :)

/-- No lane has come to carry a flit. -/
theorem Taken.laneFlits_sublist (e lane : Nat) : (u.laneFlits e lane).Sublist (s.laneFlits e lane) := by
  have hserv : ∀ j, (u.router j).servant.Sublist (s.router j).servant := fun j => by
    by_cases hj : j = r.val
    · rw [hj, h.servant]; exact List.nil_sublist _
    · rw [h.others j hj]
  have hwin : ∀ j, (u.router j).window = (s.router j).window := h.everywhere _ (congrArg RouterState.window h.same :)
  have hin : ∀ j, (u.router j).fifoIn = (s.router j).fifoIn := h.everywhere _ h.fifoIn
  have hcross : ∀ n, u.crossing n = s.crossing n := fun n => (congrArg (fun v : State => v.crossing n) h.frame :)
  unfold State.laneFlits
  simp only [hwin, hin, h.fifoOut, hcross]
  refine List.Sublist.append ?_ (List.Sublist.refl _)
  split
  · exact ((List.Sublist.refl _).append ((hserv _).filterMap _)).append (List.Sublist.refl _)
  · exact List.Sublist.refl _
  · exact List.Sublist.refl _

theorem Taken.portUsed {q : PortName} (hs : s.portUsed r q = false) : u.portUsed r q = false := by
  unfold State.portUsed at *
  split
  case h_2 => rfl
  case h_1 e he =>
    rw [he] at hs
    have hw : u.wall = s.wall := (congrArg State.wall h.frame :)
    simp only [State.laneUsed, List.any_eq_false, hw] at *
    exact fun x hx => hs x ((h.laneFlits_sublist _ _).subset hx)

theorem Taken.asyncLane (q : PortName) : u.asyncLane r q = s.asyncLane r q := by
  unfold State.asyncLane
  cases he : laneEnd r q with
  | none => rfl
  | some e => simp only [h.ends q e he]

end

theorem laneEnd_of_onLightplane {r : Nat} {q : PortName} (h : onLightplane r q = true) : ∃ e, laneEnd r q = some e := by
  unfold onLightplane at h
  split at h
  case h_2 => cases h
  case h_1 e lane hport =>
    unfold laneEnd
    rw [hport]
    unfold edgeFar at h
    cases e <;> simp [edgeEnd, edgeLink] at h ⊢

theorem laneEnd_of_asyncLane {s : State} {r : Nat} {q : PortName} (h : s.asyncLane r q = true) : ∃ e, laneEnd r q = some e := by
  unfold State.asyncLane at h
  cases he : laneEnd r q with
  | none => simp [he] at h
  | some e => exact ⟨e, rfl⟩

/-- A place that is free before the flit is taken is free afterwards. -/
theorem Taken.outRoom {s u : State} {r : RouterId} (h : Taken s u r) {q : PortName} (hs : s.outRoom r q = true)
    (hq : ∃ e, laneEnd r q = some e) : u.outRoom r q = true := by
  obtain ⟨e, he⟩ := hq
  have hdue : u.creditsDue e (laneOf r q) = s.creditsDue e (laneOf r q) := by unfold State.creditsDue; rw [h.ends q e he]
  have hshut : ∀ d, u.crossingShut d = s.crossingShut d := fun d => (congrArg (fun v : State => v.crossingShut d) h.frame :)
  unfold State.outRoom at *
  simp only [he, Option.getD_some, hdue, hshut, h.asyncLane, h.fifoOut] at *
  split
  case h_2 hfar => simpa [hfar] using hs
  case h_1 r2 q2 hfar => simpa [hfar, h.others r2 (farPort_ne hfar)] using hs

/-- An output that takes the flit before it is taken from its input takes it afterwards. -/
theorem Taken.servantRoom {s u : State} {r : RouterId} (h : Taken s u r) {x : ServFlit} {q : PortName} (hs : s.servantRoom r x q = true) :
    u.servantRoom r x q = true := by
  have hres : u.reservedNow r q = s.reservedNow r q := (congrArg (fun v : State => v.reservedNow r q) h.frame :)
  unfold State.servantRoom at *
  split at hs
  · simpa [h.request] using hs
  · rfl
  · simp only [Bool.and_eq_true, Bool.not_eq_true', Bool.or_eq_true] at hs ⊢
    obtain ⟨⟨hfree, hunused⟩, hroom⟩ := hs
    refine ⟨⟨hres.trans hfree, h.portUsed hunused⟩, hroom.elim (fun hno => .inl ?_) fun hroom => ?_⟩
    · rwa [h.asyncLane]
    · by_cases hq : (onLightplane r q || s.asyncLane r q) = true
      · refine .inr (h.outRoom hroom ?_)
        exact (Bool.or_eq_true_iff.mp hq).elim laneEnd_of_onLightplane laneEnd_of_asyncLane
      · exact .inl (by rw [h.asyncLane]; exact Bool.eq_false_of_not_eq_true hq)

end Sys2Proof.Proofs
end

section
/-! Rules for O16: what a hop leaves as it was, the sources of a router, and what becomes of a flit at its place. -/

namespace Sys2Proof.Proofs

open Sys2Proof Sys2Proof.Machine Sys2Proof.Laws

/-! ### What a hop leaves as it was -/

/-- A hop through a router changes of it only the read that is pending and the flits on their way to a lightplane die; it draws no
request and no beat passes. -/
structure Hopped (u h : State) (r : Nat) : Prop where
  beat : h.beat = u.beat
  localReqs : h.localReqs = u.localReqs
  same : { h.router r with request := (u.router r).request, fifoOut := (u.router r).fifoOut } = u.router r

theorem hopped_refl (u : State) (r : Nat) : Hopped u u r := ⟨rfl, rfl, rfl⟩

theorem hopped_respond {u v : State} {r : Nat} (h : Hopped u v r) (q : ServantReq) (st : Nat) (data : List (Byte × Bool)) :
    Hopped u (v.respond q st data) r where
  beat := (congrArg State.beat (respond_frame v q st data) :).trans h.beat
  localReqs := (congrArg State.localReqs (respond_frame v q st data) :).trans h.localReqs
  same := by rw [respond_router]; exact h.same

theorem hopped_answerFlit {u v : State} {r : Nat} (h : Hopped u v r) (x : ServFlit) (st : Nat) (data : List (Byte × Bool)) :
    Hopped u (v.answerFlit x st data) r := by
  unfold State.answerFlit
  split
  · exact hopped_respond h _ _ _
  · exact h

theorem hopped_writeTier0 (u : State) (r rank : Nat) (ws : List (Nat × Byte × Bool)) : Hopped u (u.writeTier0 rank ws) r where
  beat := (congrArg State.beat (writeTier0_frame u rank ws) :)
  localReqs := (congrArg State.localReqs (writeTier0_frame u rank ws) :)
  same := by rw [writeTier0_router]

theorem hopped_servantWrite (u : State) (r : Nat) (x : ServFlit) : Hopped u (u.servantWrite r x) r := by
  unfold State.servantWrite
  split
  · exact hopped_answerFlit (hopped_refl u r) _ _ _
  · dsimp only
    split
    · exact hopped_answerFlit (hopped_refl u r) _ _ _
    · exact hopped_answerFlit (hopped_writeTier0 u r _ _) _ _ _

theorem hopped_servantRead (u : State) (r : Nat) (x : ServFlit) : Hopped u (u.servantRead r x) r := by
  unfold State.servantRead
  split
  · exact hopped_answerFlit (hopped_refl u r) _ _ _
  · dsimp only
    split
    · exact hopped_answerFlit (hopped_refl u r) _ _ _
    · exact ⟨rfl, rfl, by rw [setRouter_router_same]⟩

theorem hopped_servantHome (u : State) (r : Nat) (x : ServFlit) (q : PortName) : Hopped u (u.servantHome r x q) r := by
  unfold State.servantHome
  split
  · split
    · exact hopped_respond (hopped_refl u r) _ _ _
    · exact hopped_refl u r
  · exact hopped_refl u r

theorem hopped_leadsTo (u : State) {r r2 : Nat} (x : ServFlit) {q q2 : PortName} (h : leadsTo r q r2 q2) :
    Hopped u (u.servantHop r x q) r := by
  rw [servantHop_leadsTo u x h]
  exact ⟨rfl, rfl, by rw [setRouter_router, if_neg (leadsTo_ne h).symm]⟩

/-- An output that is neither L nor V leads to another router or to a lightplane die. -/
theorem servantHop_toLightplane (u : State) {r : Nat} (x : ServFlit) {q : PortName} (hl : q ≠ .l) (hv : q ≠ .v)
    (h : ∀ r2 q2, ¬leadsTo r q r2 q2) : u.servantHop r x q = u.toLightplane r q x := by
  have hm : meshNext r q = none := by
    cases hm : meshNext r q with
    | none => rfl
    | some y => exact absurd (.inl hm) (h y.1 y.2)
  have hf : farPort r q = none := by
    cases hf : farPort r q with
    | none => rfl
    | some y => exact absurd (.inr ⟨hm, hf⟩) (h y.1 y.2)
  unfold State.servantHop
  split
  · exact absurd rfl hl
  · exact absurd rfl hv
  · rw [hm, hf]; rfl

theorem hopped_servantHop (u : State) (r : Nat) (x : ServFlit) (q : PortName) : Hopped u (u.servantHop r x q) r := by
  by_cases hl : q = .l
  · subst hl
    cases hk : x.kind with
    | write => simpa only [State.servantHop, hk] using hopped_servantWrite u r x
    | read => simpa only [State.servantHop, hk] using hopped_servantRead u r x
    | data => simpa only [State.servantHop, hk] using hopped_refl u r
  by_cases hv : q = .v
  · subst hv; exact hopped_servantHome u r x .v
  by_cases hto : ∃ r2 q2, leadsTo r q r2 q2
  · obtain ⟨r2, q2, hto⟩ := hto
    exact hopped_leadsTo u x hto
  · rw [servantHop_toLightplane u x hl hv fun r2 q2 h => hto ⟨r2, q2, h⟩]
    exact ⟨rfl, rfl, by unfold State.toLightplane; rw [setRouter_router_same]⟩

/-! ### The sources of a router -/

/-- No flit waits at the inputs of a router, and no request waits to enter the chainline. -/
def Quiet (s : State) (r : Nat) : Prop :=
  (s.router r).servant = [] ∧ (s.router r).fifoIn = [] ∧ ∀ k, SMap.get [] s.localReqs k = []

theorem Hopped.quiet {u h : State} {r : Nat} (hh : Hopped u h r) (hq : Quiet u r) : Quiet h r := by
  obtain ⟨hs, hf, hl⟩ := hq
  exact ⟨(congrArg RouterState.servant hh.same :).trans hs, (congrArg RouterState.fifoIn hh.same :).trans hf, fun k => by
    rw [hh.localReqs]; exact hl k⟩

/-- A source other than L holds nothing where no flit waits at it, none has come over a lane and no request may enter. -/
theorem servantAt_none {s : State} {r : Nat} {p : PortName} (enters : ServantReq → Bool) (hp : p ≠ .l)
    (hs : ∀ x ∈ (s.router r).servant, x.port ≠ p) (hf : (s.router r).fifoIn = []) (hl : ∀ k, SMap.get [] s.localReqs k = []) :
    s.servantAt r p enters = none := by
  have hnone : (s.router r).servant.find? (fun x => x.port == p && decide (x.ready ≤ s.beat.routed)) = none := by
    rw [List.find?_eq_none]
    intro x hx
    simp [hs x hx]
  unfold State.servantAt
  split
  · exact absurd rfl hp
  · simp only [hnone, hf, List.find?_nil]
    split
    · simp [State.dequeueReq, hl]
    · rfl

theorem servantAt_quiet {s : State} {r : Nat} {p : PortName} (enters : ServantReq → Bool) (hp : p ≠ .l) (hq : Quiet s r) :
    s.servantAt r p enters = none :=
  let ⟨hs, hf, hl⟩ := hq
  servantAt_none enters hp (by simp [hs]) hf hl

theorem servantAt_l_none {s : State} {r : Nat} (enters : ServantReq → Bool) (h : (s.router r).request = none) :
    s.servantAt r .l enters = none := by
  simp only [State.servantAt, h]

/-- The only flit at the inputs is what its source holds. -/
theorem servantAt_only {s : State} {r : RouterId} {x : ServFlit} (enters : ServantReq → Bool) (hp : x.port ≠ .l)
    (hs : (s.router r).servant = [x]) (hr : x.ready ≤ s.beat.routed) :
    s.servantAt r x.port enters = some (x, takenAt s r x.port) := by
  unfold State.servantAt takenAt
  split
  case h_1 h => exact absurd h hp
  case h_2 => simp [hs, hr]

/-- A turn around the sources of a router, L first, at which only source `p` does anything. -/
theorem foldl_slotSources {σ : Type} (f : σ → PortName → σ) {p : PortName} {s t : σ} (hbefore : ∀ a, a ≠ p → f s a = s) (hp : f s p = t)
    (hafter : ∀ a, a ≠ p → a ≠ .l → f t a = t) : slotSources.foldl f s = t := by
  cases p <;> simp [slotSources, hbefore, hp, hafter]

/-- Flit `x`, which may move, is all the servant traffic of a router, and no request waits to enter the chainline. -/
structure OnlyFlit (s : State) (r : RouterId) (x : ServFlit) : Prop where
  port : x.port ≠ .l
  servant : (s.router r).servant = [x]
  ready : x.ready ≤ s.beat.routed
  request : (s.router r).request = none
  fifoIn : (s.router r).fifoIn = []
  localReqs : ∀ k, SMap.get [] s.localReqs k = []

section
variable {s : State} {r : RouterId} {x : ServFlit} (h : OnlyFlit s r x)
include h

/-- The other sources hold nothing. -/
theorem OnlyFlit.servantAt_ne {p : PortName} (enters : ServantReq → Bool) (hp : p ≠ x.port) : s.servantAt r p enters = none := by
  by_cases hl : p = .l
  · rw [hl]
    exact servantAt_l_none enters h.request
  · exact servantAt_none enters hl (by simpa [h.servant] using hp.symm) h.fifoIn h.localReqs

/-- Once it is taken and has moved, they hold nothing either. -/
theorem OnlyFlit.servantAt_hop {p : PortName} (enters : ServantReq → Bool) (q : PortName) (hp : p ≠ .l) :
    ((takenAt s r x.port).servantHop r x q).servantAt r p enters = none := by
  have htaken := taken_takenAt s r x.port
  have hquiet : Quiet (takenAt s r x.port) r :=
    ⟨htaken.servant, htaken.fifoIn.trans h.fifoIn, by rw [htaken.localReqs]; exact h.localReqs⟩
  exact servantAt_quiet enters hp ((hopped_servantHop _ r x q).quiet hquiet)

/-- While no program runs, the flit moves through the output that it wants. -/
theorem freeEntry_only (hroom : s.servantRoom r x (x.wants r) = true) :
    s.freeEntry r = (takenAt s r x.port).servantHop r x (x.wants r) := by
  unfold State.freeEntry
  rw [foldl_slotSources (p := x.port) (t := ((takenAt s r x.port).servantHop r x (x.wants r), [x.wants r])) _ ?_ ?_ ?_]
  · intro p hp
    simp only [h.servantAt_ne _ hp]
  · simp [servantAt_only _ h.port h.servant h.ready, (taken_takenAt s r x.port).servantRoom hroom]
  · intro p _ hp
    simp only [h.servantAt_hop _ _ hp]

/-- In a granted entry that names one output for it, it moves through that output. -/
theorem servantEntry_only {q : PortName} {e : Word64} (hroom : (takenAt s r x.port).servantRoom r x q = true)
    (ho : entryOuts r e x.port = [q]) : s.servantEntry r e = (takenAt s r x.port).servantHop r x q := by
  unfold State.servantEntry
  refine foldl_slotSources (p := x.port) _ ?_ ?_ ?_
  · intro p hp
    simp only [h.servantAt_ne _ hp, ite_self]
  · simp [ho, servantAt_only _ h.port h.servant h.ready, hroom]
  · intro p _ hp
    simp only [h.servantAt_hop _ _ hp, ite_self]

/-- Taking the rewrites of transfer registers leaves it the only one. -/
theorem OnlyFlit.settledAt : OnlyFlit (settledAt s r) r x where
  port := h.port
  servant := by rw [settledAt_router]; exact h.servant
  ready := h.ready
  request := by rw [settledAt_router]; exact h.request
  fifoIn := by rw [settledAt_router]; exact h.fifoIn
  localReqs := h.localReqs

end

/-! ### A flit is served at its place (R22, R109, R178) -/

theorem answerFlit_mem (s : State) (x : ServFlit) (st : Nat) (data : List (Byte × Bool)) : (s.answerFlit x st data).mem = s.mem := by
  unfold State.answerFlit
  split
  · exact respond_mem s _ _ _
  · rfl

theorem answerFlit_router (s : State) (x : ServFlit) (st : Nat) (data : List (Byte × Bool)) (j : Nat) :
    (s.answerFlit x st data).router j = s.router j := by
  unfold State.answerFlit
  split
  · exact respond_router s _ _ _ j
  · rfl

theorem answerFlit_answered (s : State) {x : ServFlit} {y : ServantReq} (st : Nat) (data : List (Byte × Bool)) (h : x.req = some y) :
    Answered s (s.answerFlit x st data) y st data := by
  simp only [State.answerFlit, h]
  exact respond_answered s y st data

/-- A request for a place that may not be accessed is answered with an error. -/
theorem servantHop_refused (s : State) {r a : Nat} {x : ServFlit} (hk : x.kind ≠ .data) (ha : tagPlace r x.flit.tag = some a)
    (herr : s.servantError (x.kind == .write) (x.place a).1 (x.place a).2 = true) : s.servantHop r x .l = s.answerFlit x 0x10 [] := by
  unfold ServFlit.place at herr
  cases h : x.kind with
  | write =>
    rw [h] at herr
    simp only [State.servantHop, h, State.servantWrite, ha]
    exact if_pos herr
  | read =>
    rw [h] at herr
    simp only [State.servantHop, h, State.servantRead, ha]
    exact if_pos herr
  | data => exact absurd h hk

/-- A read of a good place is pending there. -/
theorem servantHop_read (s : State) {r a : Nat} {x : ServFlit} (hk : x.kind = .read) (ha : tagPlace r x.flit.tag = some a)
    (hgood : s.servantError false (x.place a).1 (x.place a).2 = false) :
    s.servantHop r x .l = s.setRouter r { s.router r with request := some { x with port := .l, ready := s.beat.routed + 1 } } := by
  simp only [State.servantHop, hk, State.servantRead, ha]
  exact if_neg (ne_true_of_eq_false hgood)

/-- The bytes that a write stores: each with its address and its poison. -/
def lineWrites (x : ServFlit) (a : Nat) : List (Nat × Byte × Bool) :=
  (((flitBytes x.flit).drop x.span.1).take x.span.2).zipIdx.map fun (b, i) => (a + x.span.1 + i, b.1, b.2)

/-- A write of a good place is stored under the chainline's rank, and answered. -/
theorem servantHop_write (s : State) {r a : Nat} {x : ServFlit} (hk : x.kind = .write) (ha : tagPlace r x.flit.tag = some a)
    (hgood : s.servantError true (x.place a).1 (x.place a).2 = false) :
    s.servantHop r x .l = (s.writeTier0 2 (lineWrites x a)).answerFlit x 0 [] := by
  simp only [State.servantHop, hk, State.servantWrite, ha]
  exact if_neg (ne_true_of_eq_false hgood)

theorem leBytes_length (n : Nat) : ∀ v, (leBytes n v).length = n := by
  induction n with
  | zero => intro v; rfl
  | succ n ih => intro v; exact congrArg (· + 1) (ih _)

theorem flitBytes_length (f : Flit) : (flitBytes f).length = 64 := by simp [flitBytes, leBytes_length]

/-- The writes of a line: byte i of the place takes byte i of what the flit covers. -/
theorem mem_lineWrites {x : ServFlit} {a : Nat} {w : Nat × Byte × Bool} :
    w ∈ lineWrites x a ↔ ∃ i b, i < x.span.2 ∧ (flitBytes x.flit)[x.span.1 + i]? = some b ∧ w = (a + x.span.1 + i, b.1, b.2) := by
  simp only [lineWrites, List.mem_map, Prod.exists, List.mem_zipIdx_iff_getElem?, List.getElem?_take, List.getElem?_drop,
    Option.ite_none_right_eq_some]
  constructor
  · rintro ⟨b, p, i, ⟨hi, hb⟩, rfl⟩
    exact ⟨i, b, p, hi, hb, rfl⟩
  · rintro ⟨i, b, p, hi, hb, rfl⟩
    exact ⟨b, p, i, ⟨hi, hb⟩, rfl⟩

theorem writeTier0_lineWrites_inside (s : State) {x : ServFlit} {a i : Nat} (hi : i < x.span.2) (hi64 : x.span.1 + i < 64)
    (hr : SMap.get 0 s.t0Writes (a + x.span.1 + i) ≤ 2) :
    (s.writeTier0 2 (lineWrites x a)).byte (a + x.span.1 + i) = ((flitBytes x.flit)[x.span.1 + i]?.map (·.1)).getD 0 := by
  obtain ⟨b, hb⟩ : ∃ b, (flitBytes x.flit)[x.span.1 + i]? = some b :=
    ⟨_, List.getElem?_eq_getElem (by rwa [flitBytes_length])⟩
  rw [hb]
  refine writeTier0_byte s 2 (fun w hw hy => ?_) (.inr ⟨⟨_, mem_lineWrites.mpr ⟨i, b, hi, hb, rfl⟩, rfl⟩, hr⟩)
  obtain ⟨j, c, -, hc, rfl⟩ := mem_lineWrites.mp hw
  obtain rfl : j = i := Nat.add_left_cancel hy
  rw [hb] at hc
  exact congrArg Prod.fst (Option.some.inj hc).symm

theorem writeTier0_lineWrites_outside (s : State) {x : ServFlit} {a y : Nat} (hy : y < a + x.span.1 ∨ a + x.span.1 + x.span.2 ≤ y) :
    (s.writeTier0 2 (lineWrites x a)).byte y = s.byte y := by
  refine writeTier0_byte s 2 (fun w hw h => ?_) (.inl rfl)
  obtain ⟨j, c, hj, -, rfl⟩ := mem_lineWrites.mp hw
  dsimp only at h
  omega

end Sys2Proof.Proofs
end

section
/-! O16: a router's beat with one servant flit, and with a pending read. -/

namespace Sys2Proof.Proofs

open Sys2Proof Sys2Proof.Machine Sys2Proof.Laws

/-! ### A router's beat -/

/-- The end of the beat at a router notes the beat and drops program flits that were due in it; nothing else changes. -/
structure Marked (h t : State) (r : Nat) : Prop where
  frame : { t with routers := h.routers } = h
  others : ∀ j, j ≠ r → t.router j = h.router j
  servant : (t.router r).servant = (h.router r).servant
  request : (t.router r).request = (h.router r).request
  slotAt : (t.router r).slotAt = some h.beat.routed

/-- The note of the beat at a router. -/
def noted (s : State) (r : Nat) : State := s.setRouter r { s.router r with slotAt := some s.beat.routed }

theorem marked_noted (h : State) (r : Nat) : Marked h (noted h r) r where
  frame := rfl
  others j hj := by unfold noted; rw [setRouter_router, if_neg hj]
  servant := by unfold noted; rw [setRouter_router_same]
  request := by unfold noted; rw [setRouter_router_same]
  slotAt := by unfold noted; rw [setRouter_router_same]

theorem marked_inputs (h : State) (r : Nat) (l : List (PortName × Nat × Flit)) :
    Marked h (noted (h.setRouter r { h.router r with inputs := l }) r) r where
  frame := rfl
  others j hj := by unfold noted; rw [setRouter_router, if_neg hj, setRouter_router, if_neg hj]
  servant := by unfold noted; rw [setRouter_router_same, setRouter_router_same]
  request := by unfold noted; rw [setRouter_router_same, setRouter_router_same]
  slotAt := by unfold noted; rw [setRouter_router_same]; rfl

theorem Marked.noAnswer {h t : State} {r : Nat} (hm : Marked h t r) : NoAnswer h t :=
  ⟨(congrArg State.channels hm.frame :), (congrArg State.fabs hm.frame :), (congrArg State.hub hm.frame :), (congrArg State.engines hm.frame :)⟩

theorem Marked.mem {h t : State} {r : Nat} (hm : Marked h t r) : t.mem = h.mem := (congrArg State.mem hm.frame :)

/-- The lanes to the lightplane dies keep the beat, the program and the slot table. -/
structure LanesWorked (s t : State) (r : Nat) : Prop where
  beat : t.beat = s.beat
  prog : t.prog = s.prog
  slots : (t.router r).slots = (s.router r).slots
  period : (t.router r).period = (s.router r).period

theorem lanesWorked_refl (s : State) (r : Nat) : LanesWorked s s r := ⟨rfl, rfl, rfl, rfl⟩

theorem lanesWorked_trans {s t u : State} {r : Nat} (h : LanesWorked s t r) (k : LanesWorked t u r) : LanesWorked s u r :=
  ⟨k.beat.trans h.beat, k.prog.trans h.prog, k.slots.trans h.slots, k.period.trans h.period⟩

theorem lanesWorked_setRouter (s : State) (r : Nat) {a : RouterState} (hs : a.slots = (s.router r).slots)
    (hp : a.period = (s.router r).period) : LanesWorked s (s.setRouter r a) r :=
  ⟨rfl, rfl, by rw [setRouter_router_same]; exact hs, by rw [setRouter_router_same]; exact hp⟩

theorem lanesWorked_takeOut (s : State) (r : Nat) (x : ServFlit) : LanesWorked s (s.takeOut r x) r := by
  refine lanesWorked_trans (lanesWorked_setRouter s r (a := { s.router r with fifoOut := (s.router r).fifoOut.erase x }) rfl rfl) ?_
  have h := sendCredit_frame (s.setRouter r { s.router r with fifoOut := (s.router r).fifoOut.erase x })
    ((laneEnd r x.port).getD 0) [laneOf r x.port] none
  exact ⟨(congrArg State.beat h :), (congrArg State.prog h :), (congrArg (fun u : State => (u.router r).slots) h :),
    (congrArg (fun u : State => (u.router r).period) h :)⟩

theorem lanesWorked_servantHome (s : State) (r : Nat) (x : ServFlit) (q : PortName) : LanesWorked s (s.servantHome r x q) r := by
  unfold State.servantHome
  split
  case h_2 => exact lanesWorked_refl s r
  case h_1 y _ =>
    split
    · have h := respond_frame s y 0 x.data
      exact ⟨(congrArg State.beat h :), (congrArg State.prog h :), by rw [respond_router], by rw [respond_router]⟩
    · exact lanesWorked_refl s r

/-- A request leaves its queue, and nothing else changes. -/
theorem dequeueReq_frame {s t : State} {k : Nat} {enters : ServantReq → Bool} {q : ServantReq} (h : s.dequeueReq k enters = some (q, t)) :
    { t with localReqs := s.localReqs } = s := by
  obtain ⟨_, -, he⟩ := Option.map_eq_some_iff.mp h
  cases he
  rfl

theorem lanesWorked_laneBeat (s : State) (r : Nat) (p : PortName) : LanesWorked s (s.laneBeat r p) r := by
  unfold State.laneBeat
  extract_lets s1
  have hout : LanesWorked s s1 r := by
    unfold s1
    split
    · exact lanesWorked_trans (lanesWorked_takeOut s r _) (lanesWorked_servantHome _ r _ p)
    · exact lanesWorked_refl s r
  clear_value s1
  refine lanesWorked_trans hout ?_
  split
  case h_2 => exact lanesWorked_refl s1 r
  case h_1 k _ =>
    split
    · exact lanesWorked_refl s1 r
    · split
      case h_2 => exact lanesWorked_refl s1 r
      case h_1 q s2 hq =>
        have h := dequeueReq_frame hq
        have hq : LanesWorked s1 s2 r := ⟨(congrArg State.beat h :), (congrArg State.prog h :),
          (congrArg (fun u : State => (u.router r).slots) h :), (congrArg (fun u : State => (u.router r).period) h :)⟩
        exact lanesWorked_trans hq (lanesWorked_setRouter s2 r hq.slots.symm hq.period.symm)

theorem lanesWorked_laneBeats (s : State) (r : Nat) : LanesWorked s (s.laneBeats r) r := by
  unfold State.laneBeats
  generalize edgePorts = l
  induction l generalizing s with
  | nil => exact lanesWorked_refl s r
  | cons p l ih =>
    refine lanesWorked_trans ?_ (ih _)
    dsimp only
    split
    · exact lanesWorked_laneBeat s r p
    · exact lanesWorked_refl s r

theorem LanesWorked.slotEntry {s t : State} {r : Nat} (h : LanesWorked s t r) : t.slotEntry r = s.slotEntry r := by
  unfold State.slotEntry State.entryAt State.pbeat
  rw [h.beat, h.prog, h.slots, h.period]

theorem laneBeats_away {r : Nat} (s : State) (h : ∀ p ∈ edgePorts, onLightplane r p = false) : s.laneBeats r = s := by
  unfold State.laneBeats
  generalize edgePorts = l at h
  induction l with
  | nil => rfl
  | cons p l ih =>
    rw [List.foldl_cons, h p List.mem_cons_self]
    exact ih fun p hp => h p (List.mem_cons_of_mem _ hp)

theorem running_of_runs {s : State} (h : s.runs = true) : s.prog.running = true := by
  simp only [State.runs, Bool.and_eq_true] at h
  obtain ⟨⟨-, hrunning⟩, -⟩ := h
  exact hrunning

/-- While no program runs the router's beat is that of its free tables. -/
theorem routerBeat_free {s : State} {r : Nat} (granted : Bool) (ha : (s.laneBeats r).beat.aligned = true)
    (hn : ((s.laneBeats r).router r).slotAt ≠ some (s.laneBeats r).beat.routed) (hp : (s.laneBeats r).prog.running = false) :
    s.routerBeat r granted = noted ((s.laneBeats r).freeEntry r) r := by
  simp [State.routerBeat, ha, hn, hp, noted]

/-- In a granted entry it is that of the entry, and program flits that were due are gone. -/
theorem routerBeat_granted {s : State} {r : Nat} (granted : Bool) (hn : ((s.laneBeats r).router r).slotAt ≠ some (s.laneBeats r).beat.routed)
    (hp : (s.laneBeats r).runs = true) (hg : bitOf ((s.laneBeats r).slotEntry r) 9 = true) :
    let s1 := s.laneBeats r
    let h := (settledAt s1 r).servantEntry r (s1.slotEntry r)
    s.routerBeat r granted = noted (h.setRouter r { h.router r with inputs := (h.router r).inputs.filter fun x => decide (s1.sched < x.2.1) }) r := by
  have hrun := running_of_runs hp
  have ha : (s.laneBeats r).beat.aligned = true := by
    simp only [State.runs, State.live, Bool.and_eq_true] at hp
    obtain ⟨⟨⟨haligned, -⟩, -⟩, -⟩ := hp
    exact haligned
  have hbusy : ¬(!(s.laneBeats r).beat.aligned || ((s.laneBeats r).router r).slotAt == some (s.laneBeats r).beat.routed) = true := by simp [ha, hn]
  have hstops : ¬(!(s.laneBeats r).runs || (granted && !bitOf ((s.laneBeats r).slotEntry r) 9)) = true := by simp [hp, hg]
  unfold State.routerBeat
  dsimp only
  rw [if_neg hbusy, if_neg (by simp [hrun]), if_neg hstops, if_pos hg]
  rfl

/-- A program entry is not executed by a servant request. -/
theorem routerBeat_ungranted {s : State} {r : Nat} (hp : (s.laneBeats r).prog.running = true) (hg : bitOf ((s.laneBeats r).slotEntry r) 9 = false) :
    s.routerBeat r true = s.laneBeats r := by
  simp [State.routerBeat, hp, hg]

/-- The only servant flit of a router is taken, moves one hop, and the beat is noted. -/
theorem routerBeat_oneFlit {s : State} {r : RouterId} {x : ServFlit} {q : PortName} (granted : Bool) (h : (s.laneBeats r).oneFlit r x q) :
    ∃ u, Taken (s.laneBeats r) u r ∧ Marked (u.servantHop r x q) (s.routerBeat r granted) r := by
  obtain ⟨ha, hn, hs, hready, hx, hreq, hf, hl, hroom, hway⟩ := h
  have honly : OnlyFlit (s.laneBeats r) r x := ⟨hx, hs, hready, hreq, hf, hl⟩
  obtain ⟨hidle, rfl⟩ | ⟨hruns, hg, ho⟩ := hway
  · refine ⟨_, taken_takenAt (s.laneBeats r) r x.port, ?_⟩
    rw [routerBeat_free granted ha hn hidle, freeEntry_only honly hroom]
    exact marked_noted _ _
  · have htaken := taken_settledAt (s.laneBeats r) r x.port
    refine ⟨_, htaken, ?_⟩
    have hentry := servantEntry_only honly.settledAt (htaken.servantRoom hroom) ho
    rw [routerBeat_granted granted hn hruns hg, hentry]
    exact marked_inputs _ _ _

/-! ### The outcome of a hop -/

theorem noAnswer_trans {s t u : State} (h : NoAnswer s t) (k : NoAnswer t u) : NoAnswer s u := by
  obtain ⟨hc, hf, hh, he⟩ := h
  obtain ⟨kc, kf, kh, ke⟩ := k
  exact ⟨kc.trans hc, kf.trans hf, kh.trans hh, ke.trans he⟩

theorem Taken.sentFlit_eq {s u : State} {r : RouterId} (hu : Taken s u r) (x : ServFlit) (q q2 : PortName) :
    sentFlit u r x q q2 = sentFlit s r x q q2 := by
  have hw : u.wall = s.wall := (congrArg State.wall hu.frame :)
  unfold sentFlit
  rw [hu.beat, hw]

section
variable {s u t : State} {r : RouterId} {x : ServFlit} (hu : Taken s u r)
include hu

section
variable {q : PortName} (ht : Marked (u.servantHop r x q) t r)
include ht

theorem servant_empty_of_hop : (t.router r).servant = [] := by
  rw [ht.servant, ← hu.servant]
  exact (congrArg RouterState.servant (hopped_servantHop u r x q).same :)

theorem slotAt_of_hop : (t.router r).slotAt = some s.beat.routed := by
  rw [ht.slotAt, (hopped_servantHop u r x q).beat, hu.beat]

/-- Over a wire or a link the flit appears at the other router, and memory stays as it is. -/
theorem flit_sent {r2 : Nat} {q2 : PortName} (h : leadsTo r q r2 q2) :
    t.mem = s.mem ∧ (t.router r2).servant = (s.router r2).servant ++ [sentFlit s r x q q2] := by
  have hr := leadsTo_ne h
  refine ⟨?_, ?_⟩
  · rw [ht.mem, servantHop_leadsTo u x h]
    exact hu.mem
  · rw [ht.others r2 hr, servantHop_leadsTo u x h, setRouter_router_same, hu.others r2 hr, hu.sentFlit_eq]

end

/-- At a V port memory stays as it is, and data for a requester behind the port answer it. -/
theorem flit_home (ht : Marked (u.servantHop r x .v) t r) :
    t.mem = s.mem ∧ ∀ y, x.kind = .data → x.req = some y → servesOwner r .v y.owner = true → Answered s t y 0 x.data := by
  refine ⟨?_, fun y hk hy ho => ?_⟩
  · rw [ht.mem, ← hu.mem]
    simp only [State.servantHop, State.servantHome]
    split
    · split
      · exact respond_mem u _ _ _
      · rfl
    · rfl
  · have hhop : u.servantHop r x .v = u.respond y 0 x.data := by simp [State.servantHop, State.servantHome, hk, hy, ho]
    rw [hhop] at ht
    exact answered_of_noAnswer hu.noAnswer (respond_answered u y 0 x.data) ht.noAnswer

variable (ht : Marked (u.servantHop r x .l) t r) (hreq : (s.router r).request = none) {a : Nat} (ha : tagPlace r x.flit.tag = some a)
include ht ha

theorem flit_pends (hk : x.kind = .read) (hgood : s.servantError false (x.place a).1 (x.place a).2 = false) :
    t.mem = s.mem ∧ (t.router r).request = some { x with port := .l, ready := s.beat.routed + 1 } := by
  have hhop := servantHop_read u hk ha (by rwa [hu.servantError])
  refine ⟨?_, ?_⟩
  · rw [ht.mem, hhop]
    exact hu.mem
  · rw [ht.request, hhop, setRouter_router_same, hu.beat]

include hreq

theorem flit_refused (hk : x.kind ≠ .data) (herr : s.servantError (x.kind == .write) (x.place a).1 (x.place a).2 = true) :
    t.mem = s.mem ∧ (t.router r).request = none ∧ ∀ y, x.req = some y → Answered s t y 0x10 [] := by
  rw [servantHop_refused u hk ha (by rwa [hu.servantError])] at ht
  refine ⟨?_, ?_, fun y hy => answered_of_noAnswer hu.noAnswer (answerFlit_answered u 0x10 [] hy) ht.noAnswer⟩
  · rw [ht.mem, answerFlit_mem, hu.mem]
  · rw [ht.request, answerFlit_router, hu.request, hreq]

theorem flit_written (hk : x.kind = .write) (hgood : s.servantError true (x.place a).1 (x.place a).2 = false) :
    (t.router r).request = none ∧ (∀ y, x.req = some y → Answered s t y 0 []) ∧
      (∀ i, i < (x.place a).2 → SMap.get 0 s.t0Writes ((x.place a).1 + i) ≤ 2 → x.span.1 + i < 64 →
        t.byte ((x.place a).1 + i) = ((flitBytes x.flit)[x.span.1 + i]?.map (·.1)).getD 0) ∧
      ∀ b, b < (x.place a).1 ∨ (x.place a).1 + (x.place a).2 ≤ b → t.byte b = s.byte b := by
  rw [servantHop_write u hk ha (by rwa [hu.servantError])] at ht
  have hbyte : ∀ y, t.byte y = (u.writeTier0 2 (lineWrites x a)).byte y := fun y => by
    unfold State.byte
    rw [ht.mem, answerFlit_mem]
  refine ⟨?_, fun y hy => ?_, fun i hi hr hi64 => ?_, fun b hb => ?_⟩
  · rw [ht.request, answerFlit_router, writeTier0_router, hu.request, hreq]
  · exact answered_of_noAnswer (noAnswer_trans hu.noAnswer (writeTier0_noAnswer u _ _)) (answerFlit_answered _ 0 [] hy) ht.noAnswer
  · rw [hbyte]
    exact writeTier0_lineWrites_inside u hi hi64 (by rwa [hu.t0Writes])
  · rw [hbyte, writeTier0_lineWrites_outside u hb, hu.byte]

end

/-! ### A pending read -/

theorem portEdge_of_meshNext {r : Nat} {q : PortName} {y : Nat × PortName} (h : meshNext r q = some y) : portEdge r q = none := by
  cases q <;> simp [meshNext, portEdge] at h ⊢

/-- A mesh wire takes a flit unless a transit phase reserves it. -/
theorem servantRoom_mesh {s : State} {r : Nat} {x : ServFlit} {q : PortName} {y : Nat × PortName} (h : meshNext r q = some y)
    (hres : s.reservedNow r q = false) : s.servantRoom r x q = true := by
  have hedge := portEdge_of_meshNext h
  unfold State.servantRoom
  split
  · cases h
  · cases h
  · simp [hres, State.portUsed, onLightplane, State.asyncLane, laneEnd, farPort, hedge]

/-- The pending read `x` of the line at `a`, which may move, is all the servant traffic of a router, and no request waits to enter the
chainline. -/
structure OnlyPending (s : State) (r : Nat) (x : ServFlit) (a : Nat) : Prop where
  quiet : Quiet s r
  request : (s.router r).request = some x
  ready : x.ready ≤ s.beat.routed
  place : tagPlace r x.flit.tag = some a

/-- The line that answers a read, as data on its way. -/
def lineFlit (s : State) (x : ServFlit) (a : Nat) : ServFlit :=
  { x with kind := .data, flit := mkFlit (s.readStart a 64).1 x.flit.tag }

/-- The state once a router's pending read has been performed. -/
def readAt (s : State) (r a : Nat) : State := (s.readStart a 64).2.setRouter r { s.router r with request := none }

theorem readAt_router (s : State) (r a : Nat) : (readAt s r a).router r = { s.router r with request := none } := setRouter_router_same _ _ _

theorem readAt_router_ne (s : State) {r j : Nat} (a : Nat) (h : j ≠ r) : (readAt s r a).router j = s.router j := by
  unfold readAt
  rw [setRouter_router, if_neg h]
  exact (congrArg (fun u : State => u.router j) (readStart_memOnly s a 64) :)

theorem readAt_beat (s : State) (r a : Nat) : (readAt s r a).beat = s.beat := (congrArg State.beat (readStart_memOnly s a 64) :)

theorem readAt_localReqs (s : State) (r a : Nat) : (readAt s r a).localReqs = s.localReqs :=
  (congrArg State.localReqs (readStart_memOnly s a 64) :)

section
variable {s : State} {r a : Nat} {x : ServFlit} (h : OnlyPending s r x a)
include h

/-- Source L holds the line of the pending read. -/
theorem OnlyPending.servantAt_l (enters : ServantReq → Bool) : s.servantAt r .l enters = some (lineFlit s x a, readAt s r a) := by
  simp only [State.servantAt, h.request, h.place, Option.getD_some, if_neg (Nat.not_lt.mpr h.ready), lineFlit, readAt]

/-- While no program runs, the line leaves through the output that it wants. -/
theorem freeEntry_pending (hroom : (readAt s r a).servantRoom r (lineFlit s x a) ((lineFlit s x a).wants r) = true) :
    s.freeEntry r = (readAt s r a).servantHop r (lineFlit s x a) ((lineFlit s x a).wants r) := by
  obtain ⟨hs, hf, hl⟩ := h.quiet
  have hquiet : Quiet (readAt s r a) r :=
    ⟨by rw [readAt_router]; exact hs, by rw [readAt_router]; exact hf, by rw [readAt_localReqs]; exact hl⟩
  have hhop := (hopped_servantHop _ r (lineFlit s x a) ((lineFlit s x a).wants r)).quiet hquiet
  unfold State.freeEntry
  rw [foldl_slotSources (p := .l)
    (t := ((readAt s r a).servantHop r (lineFlit s x a) ((lineFlit s x a).wants r), [(lineFlit s x a).wants r])) _ ?_ ?_ ?_]
  · intro p hp
    simp only [servantAt_quiet _ hp h.quiet]
  · simp only [h.servantAt_l, hroom]
    rfl
  · intro p _ hp
    simp only [servantAt_quiet _ hp hhop]

/-- Over a mesh wire it appears at the next router; the read is pending no longer, and memory stays as it is. -/
theorem pending_sent {r2 : Nat} {q2 : PortName} (hres : s.reservedNow r ((lineFlit s x a).wants r) = false)
    (hnext : meshNext r ((lineFlit s x a).wants r) = some (r2, q2)) :
    let t := noted (s.freeEntry r) r
    (t.router r).request = none ∧ t.mem = s.mem ∧
      (t.router r2).servant = (s.router r2).servant ++ [{ lineFlit s x a with port := q2, ready := s.beat.routed + 1, sent := none }] := by
  intro t
  have hne := meshNext_ne hnext
  have ht : Marked (s.freeEntry r) t r := marked_noted _ _
  have hkept : (readAt s r a).reservedNow r ((lineFlit s x a).wants r) = s.reservedNow r ((lineFlit s x a).wants r) :=
    (congrArg (fun u : State => u.reservedNow r ((lineFlit s x a).wants r)) (readStart_memOnly s a 64) :)
  have hfree := freeEntry_pending h (servantRoom_mesh hnext (hkept.trans hres))
  rw [servantHop_leadsTo _ _ (.inl hnext)] at hfree
  refine ⟨?_, ?_, ?_⟩
  · rw [ht.request, hfree, setRouter_router, if_neg hne.symm, readAt_router]
  · rw [ht.mem, hfree]
    rfl
  · rw [ht.others r2 hne, hfree, setRouter_router_same, readAt_router_ne s a hne]
    simp [sentFlit, hnext, readAt_beat]

end

/-- Settles O16: the one flit at a router is taken and moves one hop, over a wire or link, into its place or to its requester; the line of
a pending read goes over its wire; and program entries and routers away from the lightplane dies are left alone. -/
theorem servantFlitsMoveAndAreServed : Obligations.ServantFlitsMoveAndAreServed := by
  unfold Obligations.ServantFlitsMoveAndAreServed
  refine ⟨fun r s x q c hone hc => ?_, ?_, fun r s hruns hg _ => ?_, fun r s haway => laneBeats_away s haway⟩
  · obtain ⟨granted, hexec⟩ : ∃ granted, exec c s = .next (s.routerBeat r granted) := by
      rcases hc with rfl | rfl
      · exact ⟨true, rfl⟩
      · exact ⟨false, rfl⟩
    obtain ⟨u, hu, ht⟩ := routerBeat_oneFlit granted hone
    obtain ⟨-, -, -, -, -, hreq, -⟩ := hone
    have hbeat := (lanesWorked_laneBeats s r).beat
    refine ⟨_, hexec, (slotAt_of_hop hu ht).trans (by rw [hbeat]), servant_empty_of_hop hu ht, fun r2 q2 hto => ?_, ?_, ?_⟩
    · obtain ⟨hmem, hsent⟩ := flit_sent hu ht hto
      refine ⟨hmem, ?_⟩
      rw [hsent]
      unfold sentFlit State.wall
      rw [hbeat]
    · rintro rfl hk a ha
      refine ⟨flit_refused hu ht hreq ha hk, fun hgood => ⟨fun hread => ?_, fun hwrite => ?_⟩⟩
      · rw [← hbeat]
        exact flit_pends hu ht ha hread (by rw [hread] at hgood; exact hgood)
      · exact flit_written hu ht hreq ha hwrite (by rw [hwrite] at hgood; exact hgood)
    · rintro rfl
      exact flit_home hu ht
  · intro r s x a hidle haligned hn haway hs hf hl hreq hready ha y hres r2 q2 hnext
    have hlanes := laneBeats_away s haway
    have hbeat : s.routerBeat r true = noted (s.freeEntry r) r := by
      rw [routerBeat_free true (by rwa [hlanes]) (by rwa [hlanes]) (by rwa [hlanes]), hlanes]
    have honly : OnlyPending s r x a := ⟨⟨hs, hf, hl⟩, hreq, hready, ha⟩
    exact ⟨_, congrArg Host.Outcome.next hbeat, pending_sent honly hres hnext⟩
  · have hlanes := lanesWorked_laneBeats s r
    have hbeat := routerBeat_ungranted (s := s) (r := r) (by rw [hlanes.prog]; exact running_of_runs hruns) (by rwa [hlanes.slotEntry])
    exact congrArg Host.Outcome.next hbeat

end Sys2Proof.Proofs
end

section
/-! O60. `Kept` carries `Keeps` to a command's outcome. An update of one field that the invariant does not read keeps it, and so
does a fold or a pair whose parts do. In the sections that follow each function of the model that answers a state has its own `Keeps`
lemma, out of those of the functions that it calls; `grind` composes them along the function's branches, and the functions that move
the log, the held beat or the stage have their proofs written out. -/

namespace Sys2Proof.Proofs

open Sys2Proof Sys2Proof.Machine Sys2Proof.Laws

def Kept (s : State) : Out → Prop
  | .next t => Keeps s t
  | _ => False

theorem kept_ok {s t : State} (h : Keeps s t) : Kept s (ok t) := h

theorem keeps_withProg (s : State) (x) : Keeps s { s with prog := x } := keeps_of rfl rfl rfl rfl rfl rfl rfl

theorem keeps_withChunk (s : State) (x) : Keeps s { s with chunk := x } := keeps_of rfl rfl rfl rfl rfl rfl rfl

theorem keeps_withAbort (s : State) (x) : Keeps s { s with abort := x } := keeps_of rfl rfl rfl rfl rfl rfl rfl

theorem keeps_withArrays (s : State) (x) : Keeps s { s with arrays := x } := keeps_of rfl rfl rfl rfl rfl rfl rfl

theorem keeps_withUnparks (s : State) (x) : Keeps s { s with unparks := x } := keeps_of rfl rfl rfl rfl rfl rfl rfl

theorem keeps_withRamps (s : State) (x) : Keeps s { s with ramps := x } := keeps_of rfl rfl rfl rfl rfl rfl rfl

theorem keeps_withRouters (s : State) (x) : Keeps s { s with routers := x } := keeps_of rfl rfl rfl rfl rfl rfl rfl

theorem keeps_withCollPosts (s : State) (x) : Keeps s { s with collPosts := x } := keeps_of rfl rfl rfl rfl rfl rfl rfl

theorem keeps_withT0Writes (s : State) (x) : Keeps s { s with t0Writes := x } := keeps_of rfl rfl rfl rfl rfl rfl rfl

theorem keeps_withRepairs (s : State) (x) : Keeps s { s with repairs := x } := keeps_of rfl rfl rfl rfl rfl rfl rfl

theorem keeps_withEngineTurn (s : State) (x) : Keeps s { s with engineTurn := x } := keeps_of rfl rfl rfl rfl rfl rfl rfl

theorem keeps_withLocalReqs (s : State) (x) : Keeps s { s with localReqs := x } := keeps_of rfl rfl rfl rfl rfl rfl rfl

theorem keeps_withRings (s : State) (x) : Keeps s { s with rings := x } := keeps_of rfl rfl rfl rfl rfl rfl rfl

theorem keeps_withLasers (s : State) (x) : Keeps s { s with lasers := x } := keeps_of rfl rfl rfl rfl rfl rfl rfl

theorem keeps_withMach (s : State) (x) : Keeps s { s with mach := x } := keeps_of rfl rfl rfl rfl rfl rfl rfl

theorem keeps_withEngines (s : State) (x) : Keeps s { s with engines := x } := keeps_of rfl rfl rfl rfl rfl rfl rfl

theorem keeps_withHub (s : State) (x) : Keeps s { s with hub := x } := keeps_of rfl rfl rfl rfl rfl rfl rfl

theorem keeps_withImage (s : State) (x) : Keeps s { s with image := x } := keeps_of rfl rfl rfl rfl rfl rfl rfl

theorem keeps_withLatches (s : State) (x) : Keeps s { s with latches := x } := keeps_of rfl rfl rfl rfl rfl rfl rfl

theorem keeps_setCrossing (s : State) (x : Nat) (a : CrossingState) : Keeps s (s.setCrossing x a) := keeps_of rfl rfl rfl rfl rfl rfl rfl

theorem keeps_setLinkEnd (s : State) (e : Nat) (a : EndState) : Keeps s (s.setLinkEnd e a) := keeps_of rfl rfl rfl rfl rfl rfl rfl

theorem keeps_setRing (s : State) (k r : Nat) (a : RingState) : Keeps s (s.setRing k r a) := keeps_of rfl rfl rfl rfl rfl rfl rfl

theorem keeps_setNbr (s : State) (q : Nat) (a : NeighbourState) : Keeps s (s.setNbr q a) := keeps_of rfl rfl rfl rfl rfl rfl rfl

theorem keeps_setSteerG (s : State) (k w : Nat) (a : SteerState) : Keeps s (s.setSteerG k w a) := keeps_of rfl rfl rfl rfl rfl rfl rfl

theorem keeps_setEcc (s : State) (e : SMap EccMark) : Keeps s (s.setEcc e) := keeps_of rfl rfl rfl rfl rfl rfl rfl

theorem keeps_setTap (s : State) (t : TapState) : Keeps s (s.setTap t) := keeps_of rfl rfl rfl rfl rfl rfl rfl

theorem keeps_withPower (s : State) (p : PowerState) (h : p.stage = s.power.stage) : Keeps s { s with power := p } :=
  keeps_setPower s p fun h1 h2 => by rw [h]; exact ⟨h1, h2⟩

theorem keeps_withStage (s : State) (p : PowerState) (h1 : 1 ≤ p.stage.toNat) (h2 : p.stage.toNat ≤ 4) : Keeps s { s with power := p } :=
  keeps_setPower s p fun _ _ => ⟨h1, h2⟩

theorem keeps_foldl_fst {β γ : Type} (f : State × γ → β → State × γ) (hf : ∀ u c x, Keeps u (f (u, c) x).1) :
    ∀ (l : List β) (s : State) (c : γ), Keeps s (l.foldl f (s, c)).1 := by
  intro l
  induction l with
  | nil => exact fun s _ => keeps_refl s
  | cons x l ih => exact fun s c => keeps_trans (hf s c x) (ih _ _)

theorem kept_ite {s : State} {a b : Out} (c : Prop) [Decidable c] (ha : Kept s a) (hb : Kept s b) : Kept s (if c then a else b) := by
  split
  · exact ha
  · exact hb

theorem keeps_snd {α : Type} {s t : State} {x : α × State} {a : α} (h : x = (a, t)) (hk : Keeps s x.2) : Keeps s t := by
  subst h
  exact hk

end Sys2Proof.Proofs
end

section
/-! Keeping through the shared operations: logs, faults, counters and the fields of the state. -/

namespace Sys2Proof.Proofs

open Sys2Proof Sys2Proof.Machine Sys2Proof.Laws

theorem keeps_setWave (s : State) (f w : Nat) (a : WaveState) : Keeps s (s.setWave f w a) := keeps_setPort s _ _

theorem keeps_noteInstants (s : State) : Keeps s s.noteInstants := keeps_of rfl rfl rfl rfl rfl rfl rfl

theorem keeps_setRail (s : State) (n : Nat) (x : RailState) : Keeps s (s.setRail n x) := by
  grind [State.setRail, keeps_setPower, keeps_trans, keeps_refl]

theorem keeps_setMark (s : State) (a : Nat) (m : Option EccMark) : Keeps s (s.setMark a m) := keeps_setEcc s _

theorem keeps_putBytes (bs : List Byte) : ∀ (s : State) (a : Nat), Keeps s (s.putBytes a bs) := by
  induction bs with
  | nil => exact fun s _ => keeps_refl s
  | cons b bs ih => exact fun s a => keeps_trans (keeps_putByte s a b) (ih _ _)

theorem keeps_writeWordBytes (s : State) (word : Nat) (ws : List (Nat × Byte × Bool)) : Keeps s (s.writeWordBytes word ws) := by
  grind [State.writeWordBytes, keeps_setMark, keeps_checkWord, keeps_putByte, keeps_foldl, keeps_trans, keeps_refl]

theorem keeps_writeScatter (s : State) (ws : List (Nat × Byte × Bool)) : Keeps s (s.writeScatter ws) :=
  keeps_foldl _ (fun u _ => keeps_writeWordBytes u _ _) _ s

theorem keeps_readStart (s : State) (a n : Nat) : Keeps s (s.readStart a n).2 :=
  keeps_memOnly (readStart_memOnly s a n) id

theorem keeps_writeTier0 (s : State) (rank : Nat) (ws : List (Nat × Byte × Bool)) : Keeps s (s.writeTier0 rank ws) := by
  grind [State.writeTier0, keeps_writeScatter, keeps_keepStart, keeps_foldl, keeps_withT0Writes, keeps_trans, keeps_refl]

theorem keeps_stepSignal (s : State) (d id step : Nat) : Keeps s (s.stepSignal d id step) := keeps_setDieCounters s _ _

theorem keeps_stepChunk (s : State) (n : Nat) : Keeps s (s.stepChunk n) := by
  grind [State.stepChunk, keeps_withChunk, keeps_trans, keeps_refl]

theorem keeps_faultDemand (s : State) (d : Nat) : Keeps s (s.faultDemand d) := by
  grind [State.faultDemand, keeps_setBeat, keeps_trans, keeps_refl]

theorem keeps_machineCheck (s : State) (code unitKind d unit detail : Nat) : Keeps s (s.machineCheck code unitKind d unit detail) := by
  grind [State.machineCheck, keeps_faultDemand, keeps_log, keeps_setBeat, keeps_trans, keeps_refl]

theorem keeps_arrayFault (s : State) (code g idx ctr val : Nat) : Keeps s (s.arrayFault code g idx ctr val) := keeps_raiseFault s _ _ _ _ _

theorem keeps_faultWord (s : State) (code g idx ctr val : Nat) : Keeps s (s.faultWord code g idx ctr val) :=
  keeps_trans (keeps_arrayFault s _ _ _ _ _) (keeps_setArray _ _ _)

theorem keeps_seqFault (s : State) (code g ctr val : Nat) : Keeps s (s.seqFault code g ctr val) := keeps_faultWord s _ _ _ _ _

theorem keeps_faultInstr (s : State) (code p at_ ctr val : Nat) : Keeps s (s.faultInstr code p at_ ctr val) :=
  keeps_trans (keeps_setSpoke s _ _) (keeps_raiseFault _ _ _ _ _ _)

theorem keeps_spokeFault (s : State) (code p ctr val : Nat) : Keeps s (s.spokeFault code p ctr val) := keeps_faultInstr s _ _ _ _ _

theorem keeps_poisonCheck (s : State) (unitKind d unit off : Nat) : Keeps s (s.poisonCheck unitKind d unit off) :=
  keeps_machineCheck s _ _ _ _ _

theorem keeps_waitFault (s : State) (code : Nat) (u : WaitUnit) (ctr val : Nat) : Keeps s (s.waitFault code u ctr val) := by
  cases u with
  | array g => exact keeps_faultWord s _ _ _ _ _
  | spoke p => exact keeps_faultInstr s _ _ _ _ _

end Sys2Proof.Proofs
end

section
/-! Keeping through the arrays, the lanes of the routers and the chainline. -/

namespace Sys2Proof.Proofs

open Sys2Proof Sys2Proof.Machine Sys2Proof.Laws

theorem keeps_gangFault (s : State) (code g : Nat) : Keeps s (s.gangFault code g) := keeps_foldl _ (fun u _ => keeps_seqFault u _ _ _ _) _ s

theorem keeps_issueWord (s : State) (g op : Nat) (check : State → Nat → BitVec 128 → Option Nat)
    (effect : State → Nat → BitVec 128 → State)
    (h : ∀ u m w, Keeps u (effect u m w)) : Keeps s (s.issueWord g op check effect) := by
  unfold State.issueWord
  extract_lets a w
  have hfault : ∀ u : State, Keeps u (u.gangFault 0x0C g) := fun u => keeps_gangFault u _ _
  split; · exact keeps_refl s
  split; · exact keeps_gangFault s _ _
  split; · exact keeps_trans (keeps_countFetch s _ _) (keeps_gangFault _ _ _)
  split; · exact keeps_refl s
  split; · exact keeps_foldl _ (fun u m => keeps_setArray u m _) _ s
  refine keeps_trans (keeps_countFetch s _ _) (keeps_foldl _ (fun u m => ?_) _ _)
  split
  · split <;> exact keeps_seqFault u _ _ _ _
  · exact keeps_trans (keeps_setArray u m _) (h _ m w)

theorem keeps_readRow (s : State) (g off code e0 n : Nat) : Keeps s (s.readRow g off code e0 n).2 := by
  grind [State.readRow, keeps_readStart, keeps_trans, keeps_refl]

theorem keeps_readOne (s : State) (g off : Nat) : Keeps s (s.readOne g off).2 := by
  rw [State.readOne]
  split
  next bs s1 h =>
  have h1 : Keeps s s1 := keeps_snd h (keeps_readStart s _ _)
  split <;> exact h1

theorem keeps_readAll {α : Type} (s : State) (ks : List Nat) (f : State → Nat → α × State) (h : ∀ u k x t, f u k = (x, t) → Keeps u t) :
    Keeps s (s.readAll ks f).2 := by
  unfold State.readAll
  have go : ∀ acc : List α × State, Keeps s acc.2 →
      Keeps s (ks.foldl (fun acc k => let (x, s1) := f acc.2 k; (acc.1 ++ [x], s1)) acc).2 := by
    induction ks with
    | nil => exact fun _ h => h
    | cons k ks ih => exact fun acc ha => ih _ (keeps_trans ha (h acc.2 k _ _ rfl))
  exact go _ (keeps_refl s)

theorem kept_execEndClockGate (g : ArrayId) (s : State) : Kept s (execEndClockGate g s) := by
  grind [execEndClockGate, kept_ok, keeps_setArray, keeps_trans, keeps_refl]

theorem keeps_passBeat (s : State) (m : Nat) : Keeps s (s.passBeat m) := by
  unfold State.passBeat
  extract_lets +onlyGivenNames a
  split; · exact keeps_refl s
  next r _ =>
  extract_lets +onlyGivenNames p j run
  split; · exact keeps_setArray s _ _
  split; · exact keeps_setArray s _ _
  extract_lets +onlyGivenNames lx e0 cnt blk
  split
  next elems s1 h =>
  have h1 : Keeps s s1 := keeps_snd h (keeps_readAll s _ _ fun u i _ _ h => keeps_snd h (keeps_readRow u _ _ _ _ _))
  split
  · exact keeps_trans h1 (keeps_setArray s1 _ _)
  · extract_lets +onlyGivenNames b0 last
    split
    next read s2 h2 =>
    refine keeps_trans (keeps_trans h1 (keeps_snd h2 (keeps_readAll s1 _ _ fun u i _ _ h => ?_))) (keeps_setArray s2 _ _)
    refine keeps_snd h (keeps_readAll u _ _ fun v k _ _ h => ?_)
    split at h
    · exact keeps_snd h (keeps_refl v)
    · exact keeps_snd h (keeps_readOne v _ _)

theorem kept_execPassBeatIssue (g : ArrayId) (s : State) : Kept s (execPassBeatIssue g s) := by
  grind [execPassBeatIssue, kept_ok, keeps_passBeat, keeps_foldl, keeps_trans, keeps_refl]

theorem kept_execPassBroadcast (g : ArrayId) (s : State) : Kept s (execPassBroadcast g s) := by
  grind [execPassBroadcast, kept_ok, keeps_faultWord, keeps_setArray, keeps_poisonCheck, keeps_trans, keeps_refl]

theorem kept_execAccumulatorWrite (g : ArrayId) (s : State) : Kept s (execAccumulatorWrite g s) := by
  grind [execAccumulatorWrite, kept_ok, keeps_setArray, keeps_foldl, keeps_trans, keeps_refl]

theorem kept_execLoadacc (g : ArrayId) (s : State) : Kept s (execLoadacc g s) := by
  grind [execLoadacc, kept_ok, keeps_issueWord, keeps_readAll, keeps_readRow, keeps_setArray, keeps_poisonCheck, keeps_trans,
    keeps_refl]

theorem kept_execDrain (g : ArrayId) (s : State) : Kept s (execDrain g s) := by
  refine kept_ok (keeps_issueWord s _ _ _ _ fun u m w => ?_)
  extract_lets +onlyGivenNames a p ld lc dst sc k
  split
  next given s1 h1 =>
  split
  next rnds s2 h2 =>
  extract_lets +onlyGivenNames rows writes a2 x s3
  have hgiven : Keeps u s1 := by
    split at h1
    · exact keeps_snd h1 (keeps_readAll u _ _ fun v _ _ _ h => keeps_snd h (keeps_readOne v _ _))
    · exact keeps_snd h1 (keeps_refl u)
  have hrnds : Keeps s1 s2 := by
    split at h2
    · refine keeps_snd h2 (keeps_readAll s1 _ _ fun v _ _ _ h => ?_)
      rw [← (Prod.mk.inj h).2]
      exact keeps_draw v
    · exact keeps_snd h2 (keeps_refl s1)
  have h3 : Keeps u s3 := keeps_trans (keeps_trans hgiven hrnds) (keeps_setArray s2 _ _)
  clear_value s3
  split
  · exact keeps_trans h3 (keeps_poisonCheck _ _ _ _ _)
  · exact h3

theorem kept_execDrainOutputWrite (g : ArrayId) (s : State) : Kept s (execDrainOutputWrite g s) := by
  grind [execDrainOutputWrite, kept_ok, keeps_writeTier0, keeps_setArray, keeps_trans, keeps_refl]

theorem kept_execStreamFetch (g : ArrayId) (i : StreamId) (s : State) : Kept s (execStreamFetch g i s) := by
  grind [execStreamFetch, keeps_readMem, kept_ok, keeps_setArray, keeps_trans, keeps_refl]

theorem kept_execStreamLineArrival (g : ArrayId) (i : StreamId) (s : State) : Kept s (execStreamLineArrival g i s) := by
  grind [execStreamLineArrival, kept_ok, keeps_setArray, keeps_trans, keeps_refl]

theorem keeps_controlWord (s : State) (g op : Nat) : Keeps s (s.controlWord g op) := by
  grind [State.controlWord, keeps_gangFault, keeps_countFetch, keeps_setArray, keeps_foldl, keeps_trans, keeps_refl]

theorem kept_execWait (g : ArrayId) (s : State) : Kept s (execWait g s) := by
  grind [execWait, kept_ok, keeps_issueWord, keeps_setArray, keeps_setBeat, keeps_trans, keeps_refl]

theorem kept_execSignal (g : ArrayId) (s : State) : Kept s (execSignal g s) := by
  grind [execSignal, kept_ok, keeps_issueWord, keeps_stepSignal, keeps_trans, keeps_refl]

theorem kept_execFreewheelWake (g : ArrayId) (s : State) : Kept s (execFreewheelWake g s) := by
  grind [execFreewheelWake, kept_ok, keeps_setArray, keeps_trans, keeps_refl]

theorem kept_execParkPowerGate (g : ArrayId) (s : State) : Kept s (execParkPowerGate g s) := by
  grind [execParkPowerGate, kept_ok, keeps_setArray, keeps_trans, keeps_refl]

theorem kept_execUnpark (g : ArrayId) (s : State) : Kept s (execUnpark g s) := by
  grind [execUnpark, kept_ok, keeps_issueWord, keeps_setArray, keeps_withUnparks, keeps_withPower, keeps_trans, keeps_refl]

theorem kept_execUnparkRampStart (d : DieId) (s : State) : Kept s (execUnparkRampStart d s) := by
  grind [execUnparkRampStart, keeps_setArray, kept_ok, keeps_foldl, keeps_withRamps, keeps_trans, keeps_refl]

theorem kept_execUnparkComplete (g : ArrayId) (s : State) : Kept s (execUnparkComplete g s) := by
  grind [execUnparkComplete, kept_ok, keeps_setArray, keeps_trans, keeps_refl]

theorem kept_execVoidWindowStart (g : ArrayId) (s : State) : Kept s (execVoidWindowStart g s) := by
  grind [execVoidWindowStart, kept_ok, keeps_setArray, keeps_trans, keeps_refl]

theorem kept_execVoidWindowEnd (g : ArrayId) (s : State) : Kept s (execVoidWindowEnd g s) := by
  grind [execVoidWindowEnd, kept_ok, keeps_setArray, keeps_trans, keeps_refl]

theorem kept_execHoldShaperDecay (g : ArrayId) (s : State) : Kept s (execHoldShaperDecay g s) := by
  grind [execHoldShaperDecay, kept_ok, keeps_setArray, keeps_trans, keeps_refl]

theorem kept_execReleaseNoticeRamp (g : ArrayId) (s : State) : Kept s (execReleaseNoticeRamp g s) := by
  grind [execReleaseNoticeRamp, kept_ok, keeps_setArray, keeps_trans, keeps_refl]

theorem keeps_writeLine (s : State) (off : Nat) (f : Flit) : Keeps s (s.writeLine off f) := keeps_writeTier0 s _ _

theorem keeps_readLine (s : State) (off : Nat) (tag : BitVec 24) : Keeps s (s.readLine off tag).2 := by
  grind [State.readLine, keeps_readStart, keeps_trans, keeps_refl]

theorem keeps_combineCheck (s : State) (die : Nat) : Keeps s (s.combineCheck die) := by
  grind [State.combineCheck, keeps_draw, keeps_poisonCheck, keeps_trans, keeps_refl]

theorem keeps_derailleurIn (s : State) (die p : Nat) (f : Flit) : Keeps s (s.derailleurIn die p f) := by
  grind [State.derailleurIn, keeps_setDerailleur, keeps_trans, keeps_refl]

theorem keeps_sendCredit (s : State) (e : Nat) (lanes : List Nat) (what : Option Nat) : Keeps s (s.sendCredit e lanes what) := by
  grind [State.sendCredit, keeps_setLinkEnd, keeps_trans, keeps_refl]

theorem keeps_freePlace (s : State) (r : Nat) (q : PortName) : Keeps s (s.freePlace r q) := by
  grind [State.freePlace, keeps_sendCredit, keeps_trans, keeps_refl]

theorem keeps_toLightplane (s : State) (r : Nat) (q : PortName) (x : ServFlit) : Keeps s (s.toLightplane r q x) := keeps_setRouter s _ _

theorem keeps_takeOut (s : State) (r : Nat) (x : ServFlit) : Keeps s (s.takeOut r x) :=
  keeps_trans (keeps_setRouter s _ _) (keeps_sendCredit _ _ _ _)

theorem keeps_sendFlit (s : State) (r : Nat) (q : PortName) (f : Flit) : Keeps s (s.sendFlit r q f) := by
  grind [State.sendFlit, keeps_setRouter, keeps_toLightplane, keeps_trans, keeps_refl]

theorem keeps_slotRead (s : State) (r n : Nat) : Keeps s (s.slotRead r n) := by
  unfold State.slotRead
  extract_lets +onlyGivenNames a x
  split; · exact keeps_raiseFault s _ _ _ _ _
  extract_lets +onlyGivenNames used deliver
  have hused : ∀ u, Keeps u (used u) := fun u => keeps_setRouter u _ _
  have hdeliver : ∀ u f, Keeps u (deliver u f) := fun u f => keeps_setRouter u _ _
  clear_value used deliver
  split
  · grind [keeps_setSpoke, keeps_spokeFault, keeps_trans]
  · split
    next f s1 h =>
    exact keeps_trans (keeps_snd h (keeps_readLine s _ _)) (keeps_trans (hused s1) (hdeliver _ f))

theorem keeps_slotWrite (s : State) (r n : Nat) (f : Flit) : Keeps s (s.slotWrite r n f) := by
  grind [State.slotWrite, keeps_raiseFault, keeps_setRouter, keeps_setSpoke, keeps_spokeFault, keeps_writeLine, keeps_trans, keeps_refl]

theorem keeps_programEntry (s : State) (r : Nat) (e : Word64) : Keeps s (s.programEntry r e) := by
  grind [State.programEntry, keeps_slotRead, keeps_slotWrite, keeps_derailleurIn, keeps_sendFlit, keeps_foldl, keeps_trans, keeps_refl]

theorem keeps_respond (s : State) (q : ServantReq) (st : Nat) (data : List (Byte × Bool)) : Keeps s (s.respond q st data) := by
  grind [State.respond, keeps_setChannel, keeps_setFab, keeps_setHub, keeps_setEngine, keeps_trans, keeps_refl]

theorem keeps_answerFlit (s : State) (x : ServFlit) (st : Nat) (data : List (Byte × Bool)) : Keeps s (s.answerFlit x st data) := by
  grind [State.answerFlit, keeps_respond, keeps_trans, keeps_refl]

theorem keeps_dequeueReq {s t : State} {k : Nat} {enters : ServantReq → Bool} {q : ServantReq} (h : s.dequeueReq k enters = some (q, t)) :
    Keeps s t := by
  obtain ⟨_, -, he⟩ := Option.map_eq_some_iff.mp h
  cases he
  exact keeps_withLocalReqs s _

theorem keeps_servantAt {s t : State} {r : Nat} {p : PortName} {enters : ServantReq → Bool} {x : ServFlit}
    (h : s.servantAt r p enters = some (x, t)) : Keeps s t := by
  unfold State.servantAt at h
  split at h
  · grind [keeps_readStart, keeps_setRouter, keeps_trans]
  · extract_lets a at h
    split at h
    · cases h; exact keeps_trans (keeps_setRouter s _ _) (keeps_freePlace _ _ _)
    · split at h <;> cases h; exact keeps_setRouter s _ _
    · split at h
      · obtain ⟨⟨q, u⟩, hq, he⟩ := Option.map_eq_some_iff.mp h
        cases he
        exact keeps_dequeueReq hq
      · cases h

theorem keeps_servantWrite (s : State) (r : Nat) (x : ServFlit) : Keeps s (s.servantWrite r x) := by
  grind [State.servantWrite, keeps_answerFlit, keeps_writeTier0, keeps_trans, keeps_refl]

theorem keeps_servantRead (s : State) (r : Nat) (x : ServFlit) : Keeps s (s.servantRead r x) := by
  grind [State.servantRead, keeps_answerFlit, keeps_setRouter, keeps_trans, keeps_refl]

theorem keeps_servantHome (s : State) (r : Nat) (x : ServFlit) (q : PortName) : Keeps s (s.servantHome r x q) := by
  grind [State.servantHome, keeps_respond, keeps_trans, keeps_refl]

theorem keeps_servantHop (s : State) (r : Nat) (x : ServFlit) (q : PortName) : Keeps s (s.servantHop r x q) := by
  unfold State.servantHop
  grind [keeps_servantWrite, keeps_servantRead, keeps_servantHome, keeps_setRouter, keeps_toLightplane, keeps_refl]

theorem keeps_servantEntry (s : State) (r : Nat) (e : Word64) : Keeps s (s.servantEntry r e) := by
  unfold State.servantEntry
  refine keeps_foldl _ (fun u p => ?_) _ s
  extract_lets outs fits
  split; · exact keeps_refl u
  split
  case h_1 x u1 h =>
    split
    · exact keeps_trans (keeps_servantAt h) (keeps_foldl _ (fun v q => keeps_servantHop v _ _ _) _ _)
    · exact keeps_refl u
  case h_2 => exact keeps_refl u

theorem keeps_freeEntry (s : State) (r : Nat) : Keeps s (s.freeEntry r) := by
  unfold State.freeEntry
  refine keeps_foldl_fst _ (fun u used p => ?_) _ s []
  grind [→ keeps_servantAt, keeps_servantHop, keeps_trans, keeps_refl]

theorem keeps_laneBeat (s : State) (r : Nat) (p : PortName) : Keeps s (s.laneBeat r p) := by
  unfold State.laneBeat
  extract_lets s1
  have h1 : Keeps s s1 := by
    unfold s1
    split
    · exact keeps_trans (keeps_takeOut s _ _) (keeps_servantHome _ _ _ _)
    · exact keeps_refl s
  clear_value s1
  grind [→ keeps_dequeueReq, keeps_setRouter, keeps_trans]

theorem keeps_laneBeats (s : State) (r : Nat) : Keeps s (s.laneBeats r) := by
  grind [State.laneBeats, keeps_laneBeat, keeps_foldl, keeps_trans, keeps_refl]

theorem keeps_routerBeat (s0 : State) (r : Nat) (granted : Bool) : Keeps s0 (s0.routerBeat r granted) := by
  grind [State.routerBeat, keeps_laneBeats, keeps_setRouter, keeps_freeEntry, keeps_servantEntry, keeps_programEntry, keeps_trans,
    keeps_refl]

theorem kept_execChaxelFlitPresent (r : RouterId) (q : PortName) (s : State) : Kept s (execChaxelFlitPresent r q s) := by
  grind [execChaxelFlitPresent, kept_ok, keeps_setRouter, keeps_trans, keeps_refl]

theorem kept_execLightplaneFifoInbound (r : RouterId) (q : PortName) (flit : Flit) (s : State) :
    Kept s (execLightplaneFifoInbound r q flit s) := by
  grind [execLightplaneFifoInbound, kept_ok, keeps_setRouter, keeps_trans, keeps_refl]

end Sys2Proof.Proofs
end

section
/-! Keeping through the beats, the memory operations and what spokes and hub share. -/

namespace Sys2Proof.Proofs

open Sys2Proof Sys2Proof.Machine Sys2Proof.Laws

theorem keeps_landLoad (s : State) (p : Nat) (l : LoadItem) : Keeps s (s.landLoad p l) := by
  grind [State.landLoad, keeps_readMem, keeps_poisonCheck, keeps_setSpoke, keeps_trans, keeps_refl]

theorem keeps_landLoads (s : State) : Keeps s (s.landLoads) :=
  keeps_foldl _ (fun u _ => keeps_foldl _ (fun u _ => keeps_landLoad u _ _) _ u) _ s

theorem keeps_issueSpoke (s : State) (p : Nat) (f : IssueForm) (effect : State → Word32 → State) (h : ∀ u w, Keeps u (effect u w)) :
    Keeps s (s.issueSpoke p f effect) := by
  grind [State.issueSpoke, keeps_spokeFault, keeps_countFetch, keeps_setSpoke, keeps_trans, keeps_refl]

theorem keeps_issueOwn (s : State) (p : Nat) (f : IssueForm) (effect : Nat → SpokeState → Word32 → SpokeState) :
    Keeps s (s.issueOwn p f effect) :=
  keeps_issueSpoke s _ _ _ (fun u _ => keeps_setSpoke u _ _)

theorem keeps_issueS (s : State) (p fn lat : Nat) (f : Word32 → Word32 → Word32) : Keeps s (s.issueS p fn lat f) := keeps_issueOwn s _ _ _

theorem keeps_issueI (s : State) (p op unused : Nat) (bad : Word32 → Bool) (f : Word32 → Word32 → Word32) :
    Keeps s (s.issueI p op unused bad f) :=
  keeps_issueOwn s _ _ _

theorem keeps_issueLoad (s : State) (p op n : Nat) (signed : Bool) : Keeps s (s.issueLoad p op n signed) := keeps_issueOwn s _ _ _

theorem keeps_issueStore (s : State) (p op n : Nat) : Keeps s (s.issueStore p op n) := keeps_issueOwn s _ _ _

theorem keeps_issueBranch (s : State) (p op : Nat) (c : Word32 → Word32 → Bool) : Keeps s (s.issueBranch p op c) := keeps_issueOwn s _ _ _

theorem keeps_issueV (s : State) (p op : Nat) (fns : List Nat) (unused lat : Nat) (src : Word32 → List Nat) (bad : Word32 → Bool) (all :
    Bool) (f : SpokeState → Word32 → VRes) :
    Keeps s (s.issueV p op fns unused lat src bad all f) :=
  keeps_issueOwn s _ _ _

theorem keeps_issueV2 (s : State) (p op fn lat : Nat) (f : Word32 → Word32 → Word32 × BitVec 5) : Keeps s (s.issueV2 p op fn lat f) :=
  keeps_issueV s _ _ _ _ _ _ _ _ _

theorem keeps_issueV1 (s : State) (p op fn lat : Nat) (f : Word32 → Word32 × BitVec 5) : Keeps s (s.issueV1 p op fn lat f) :=
  keeps_issueV s _ _ _ _ _ _ _ _ _

theorem keeps_issueCmp (s : State) (p fn : Nat) (f : Word32 → Word32 → Bool × BitVec 5) : Keeps s (s.issueCmp p fn f) :=
  keeps_issueOwn s _ _ _

theorem keeps_endBeat (s : State) : Keeps s s.endBeat := keeps_of rfl rfl rfl rfl rfl rfl rfl

theorem keeps_provBeat (s : State) : Keeps s (s.provBeat) := by
  grind [State.provBeat, keeps_setBeat, keeps_trans, keeps_refl]

/-- The next beat is held for its causes alone (R36). -/
theorem nextBeat_held (s : State) : s.nextBeat.held =
    (s.nextBeat.causeWait || s.nextBeat.causeBrake || s.nextBeat.causeShift || s.nextBeat.causeHub) := rfl

theorem kept_execHoldDemandArrival (s : State) : Kept s (execHoldDemandArrival s) := by
  unfold execHoldDemandArrival
  split
  · refine kept_ok ?_
    split
    · exact keeps_provBeat s
    · exact keeps_refl s
  · extract_lets s1 s2
    have h1 : Keeps s s1 := keeps_trans (keeps_endBeat s) (keeps_setBeat _ _ fun _ => nextBeat_held s)
    have h2 : Keeps s s2 := keeps_trans h1 (keeps_withArrays s1 _)
    refine kept_ok (keeps_trans h2 ?_)
    split
    · exact keeps_trans (keeps_landLoads s2) (keeps_forAll _ 8 _ fun u d => keeps_combineCheck u d)
    · exact keeps_refl s2

theorem kept_execBrakeApply (s : State) : Kept s (execBrakeApply s) := by
  grind [execBrakeApply, kept_ok, keeps_setBeat, keeps_trans, keeps_refl]

theorem keeps_dropWait (s : State) (u : WaitUnit) : Keeps s (s.dropWait u) := by
  grind [State.dropWait, keeps_setBeat, keeps_trans, keeps_refl]

theorem kept_execWaitRelease (u : WaitUnit) (s : State) : Kept s (execWaitRelease u s) := by
  grind [execWaitRelease, kept_ok, keeps_dropWait, keeps_trans, keeps_refl]

theorem kept_execWaitTimeout (u : WaitUnit) (s : State) : Kept s (execWaitTimeout u s) := by
  grind [execWaitTimeout, kept_ok, keeps_waitFault, keeps_dropWait, keeps_trans, keeps_refl]

theorem kept_execWaitAborted (u : WaitUnit) (s : State) : Kept s (execWaitAborted u s) := by
  grind [execWaitAborted, kept_ok, keeps_waitFault, keeps_dropWait, keeps_trans, keeps_refl]

theorem keeps_crossCounter (s : State) (i d : Nat) : Keeps s (s.crossCounter i d) := keeps_setDieCounters s _ _

theorem kept_execServantCounterCrossing (d : DieId) (i : ServantCounterId) (s : State) : Kept s (execServantCounterCrossing d i s) := by
  grind [execServantCounterCrossing, kept_ok, keeps_forAll, keeps_crossCounter, keeps_trans, keeps_refl]

theorem keeps_setRefresh (s : State) (d : Nat) (code : BitVec 2) : Keeps s (s.setRefresh d code) := keeps_setDmem s _ _

theorem kept_execRefreshOp (g : ArrayId) (s : State) : Kept s (execRefreshOp g s) := by
  grind [execRefreshOp, kept_ok, keeps_setVault, keeps_trans, keeps_refl]

theorem keeps_performAtomic (s : State) (q : ServantReq) (a : Nat × Nat × Nat) : Keeps s (s.performAtomic q a) := by
  grind [State.performAtomic, keeps_readMem, keeps_respond, keeps_writeFresh, keeps_trans, keeps_refl]

theorem kept_execVaultServantAccess (g : ArrayId) (s : State) : Kept s (execVaultServantAccess g s) := by
  grind [execVaultServantAccess, kept_ok, keeps_setVault, keeps_performAtomic, keeps_writeMem, keeps_respond, keeps_readMem,
    keeps_trans, keeps_refl]

theorem kept_execScrubRead (g : ArrayId) (s : State) : Kept s (execScrubRead g s) := by
  unfold execScrubRead
  split
  · extract_lets v line due
    split
    next s1 h =>
    have hread := keeps_readMem s (vaultBase g + 96 * line) 96
    rw [h] at hread
    exact kept_ok (keeps_trans hread (keeps_setVault s1 _ _))
  · exact keeps_refl s

theorem kept_execScrubWriteback (g : ArrayId) (s : State) : Kept s (execScrubWriteback g s) := by
  grind [execScrubWriteback, keeps_setMark, kept_ok, keeps_setVault, keeps_foldl, keeps_trans, keeps_refl]

theorem keeps_markBlock (s : State) (base words : Nat) (m : Option EccMark) : Keeps s (s.markBlock base words m) :=
  keeps_foldl _ (fun u _ => keeps_setMark u _ _) _ s

theorem kept_execStackAccess (t : Fin 16) (rep : AccessReport) (s : State) : Kept s (execStackAccess t rep s) := by
  unfold execStackAccess
  extract_lets k
  split
  case h_2 => exact keeps_refl s
  split; · exact keeps_refl s
  split; · exact kept_ok (keeps_trans (keeps_setStk s _ _) (keeps_respond _ _ _ _))
  split; · exact kept_ok (keeps_setStk s _ _)
  split <;> grind [kept_ok, keeps_respond, keeps_setStk, keeps_putBytes, keeps_markBlock, keeps_trans]

theorem kept_execCapTurn (t : Fin 16) (s : State) : Kept s (execCapTurn t s) := by
  grind [execCapTurn, kept_ok, keeps_setStk, keeps_trans, keeps_refl]

theorem kept_execCapFlitReceive (t : Fin 16) (err : BitVec 272) (s : State) : Kept s (execCapFlitReceive t err s) := by
  grind [execCapFlitReceive, kept_ok, keeps_respond, keeps_setStk, keeps_performAtomic, keeps_writeMem, keeps_markBlock, keeps_readMem,
    keeps_trans, keeps_refl]

theorem keeps_drainWaiting (fuel : Nat) : ∀ (s : State) (n : Nat), Keeps s (State.drainWaiting fuel s n) := by
  induction fuel with
  | zero => exact fun s _ => keeps_refl s
  | succ fuel ih => grind [State.drainWaiting, keeps_placeSlot, keeps_setMb, keeps_trans, keeps_refl]

theorem keeps_background (s : State) : Keeps s (s.background) := keeps_setHub s _

end Sys2Proof.Proofs
end

section
/-! Keeping through the links: light, packets, cadence and blocks. -/

namespace Sys2Proof.Proofs

open Sys2Proof Sys2Proof.Machine Sys2Proof.Laws

theorem keeps_transmit (s : State) (f w : Nat) (bs : List (BitVec 257)) : Keeps s (s.transmit f w bs) := keeps_setWave s _ _ _

theorem keeps_fillMultiframe (s : State) (f w : Nat) : Keeps s (s.fillMultiframe f w) := keeps_transmit s _ _ _

theorem keeps_sendControl (s : State) (f w ty content : Nat) : Keeps s (s.sendControl f w ty content) :=
  keeps_trans (keeps_setFab s _ _) (keeps_transmit _ _ _ _)

theorem keeps_blocksAcross (s : State) (k k2 : Nat) (bs : List (BitVec 257)) : Keeps s (s.blocksAcross k k2 bs) := keeps_setFab s _ _

theorem keeps_request (s : State) (k unit die cls : Nat) (p : Packet) : Keeps s (s.request k unit die cls p).2 := by
  grind [State.request, keeps_setFab, keeps_trans, keeps_refl]

theorem keeps_pushOut (s : State) (k : Nat) (p : Packet) : Keeps s (s.pushOut k p) := keeps_setFab s _ _

theorem kept_execDiscoverySend (q : CubePort) (s : State) : Kept s (execDiscoverySend q s) := by
  grind [execDiscoverySend, kept_ok, keeps_sendControl, keeps_setNbr, keeps_trans, keeps_refl]

theorem keeps_discoveryBlock (s : State) (q : Nat) (content : BitVec 208) : Keeps s (s.discoveryBlock q content) := by
  grind [State.discoveryBlock, keeps_setNbr, keeps_trans, keeps_refl]

theorem keeps_logPort (s : State) (code f cause : Nat) : Keeps s (s.logPort code f cause) := keeps_logEvent s _ _ _ _ _

theorem keeps_judge (s0 s : State) (q : Nat) : Keeps s (s0.judge s q) := by
  unfold State.judge
  grind [keeps_setNbr, keeps_withMach, keeps_logPort, keeps_trans]

theorem kept_execDiscoveryWindowEnd (s : State) : Kept s (execDiscoveryWindowEnd s) :=
  kept_ok (keeps_forAll s 24 _ fun u q => keeps_judge s u q)

theorem keeps_portRecycled (s : State) (q : Nat) : Keeps s (s.portRecycled q) := by
  grind [State.portRecycled, keeps_forAll, keeps_setNbr, keeps_trans, keeps_refl]

theorem kept_execBeaconSend (q : CubePort) (s : State) : Kept s (execBeaconSend q s) := by
  grind [execBeaconSend, kept_ok, keeps_sendControl, keeps_setNbr, keeps_trans, keeps_refl]

theorem keeps_followBeacon (s : State) (q : Nat) (offset : ℤ) : Keeps s (s.followBeacon q offset) := by
  grind [State.followBeacon, keeps_draw, keeps_withMach, keeps_trans, keeps_refl]

theorem keeps_adopt (s : State) (q time : Nat) : Keeps s (s.adopt q time) := by
  grind [State.adopt, keeps_setMach, keeps_noteInstants, keeps_trans, keeps_refl]

theorem keeps_switchParent (s : State) (q : Nat) : Keeps s (s.switchParent q) := keeps_setMach s _

theorem keeps_beaconBlock (s : State) (q : Nat) (content : BitVec 208) : Keeps s (s.beaconBlock q content) := by
  grind [State.beaconBlock, keeps_setNbr, keeps_followBeacon, keeps_switchParent, keeps_adopt, keeps_trans, keeps_refl]

theorem kept_execParentLost (s : State) : Kept s (execParentLost s) := by
  grind [execParentLost, kept_ok, keeps_setMach, keeps_switchParent, keeps_trans, keeps_refl]

theorem keeps_darkSteered (s : State) : Keeps s (s.darkSteered) := by
  grind [State.darkSteered, keeps_forAll, keeps_setSteerG, keeps_trans, keeps_refl]

theorem kept_execHoldoverExpire (s : State) : Kept s (execHoldoverExpire s) := by
  grind [execHoldoverExpire, kept_ok, keeps_darkSteered, keeps_setMach, keeps_trans, keeps_refl]

theorem keeps_setFifo (s : State) (f w : Nat) (x : FifoState) : Keeps s (s.setFifo f w x) := keeps_setFab s _ _

theorem keeps_blocksGone (s : State) (f w cls n : Nat) : Keeps s (s.blocksGone f w cls n) := keeps_setFifo s _ _ _

theorem keeps_countBad (s : State) (k : Nat) : Keeps s (s.countBad k) := keeps_setFab s _ _

theorem keeps_countLost (s : State) (k : Nat) : Keeps s (s.countLost k) := keeps_setFab s _ _

theorem keeps_countCut (s : State) (k : Nat) : Keeps s (s.countCut k) := keeps_setFab s _ _

theorem keeps_countUnreach (s : State) (k : Nat) : Keeps s (s.countUnreach k) := keeps_setFab s _ _

theorem keeps_noteSent (s : State) (f w : Nat) (p : Packet) : Keeps s (s.noteSent f w p) := keeps_setFab s _ _

theorem keeps_sendCut (s : State) (k out : Nat) : Keeps s (s.sendCut k out) := by
  grind [State.sendCut, keeps_sendControl, keeps_blocksAcross, keeps_trans, keeps_refl]

theorem keeps_losePartial (s : State) (f w : Nat) : Keeps s (s.losePartial f w) := by
  grind [State.losePartial, keeps_blocksGone, keeps_setWave, keeps_sendCut, keeps_countCut, keeps_setFifo, keeps_trans, keeps_refl]

theorem keeps_dataLost (s : State) (f w : Nat) : Keeps s (s.dataLost f w) := by
  grind [State.dataLost, keeps_countLost, keeps_losePartial, keeps_setWave, keeps_trans, keeps_refl]

theorem keeps_returnCredits (s : State) (f w : Nat) (b : BitVec 257) : Keeps s (s.returnCredits f w b) := keeps_setFifo s _ _ _

theorem keeps_controlBlock (s : State) (f w : Nat) (b : BitVec 257) : Keeps s (s.controlBlock f w b) := by
  grind [State.controlBlock, keeps_returnCredits, keeps_losePartial, keeps_beaconBlock, keeps_discoveryBlock, keeps_countBad,
    keeps_trans, keeps_refl]

theorem keeps_packetWhole (s : State) (f w : Nat) (p : Packet) : Keeps s (s.packetWhole f w p) := keeps_setFifo s _ _ _

theorem keeps_headerBlock (s : State) (f w : Nat) (b : BitVec 257) : Keeps s (s.headerBlock f w b) := by
  grind [State.headerBlock, keeps_dataLost, keeps_setFifo, keeps_setWave, keeps_blocksGone, keeps_countBad, keeps_packetWhole,
    keeps_trans, keeps_refl]

theorem keeps_payloadBlock (s : State) (f w : Nat) (b : BitVec 257) : Keeps s (s.payloadBlock f w b) := by
  grind [State.payloadBlock, keeps_blocksGone, keeps_countLost, keeps_setWave, keeps_packetWhole, keeps_trans, keeps_refl]

theorem keeps_receiveBlock (s : State) (f w : Nat) (b : BitVec 257) : Keeps s (s.receiveBlock f w b) := by
  grind [State.receiveBlock, keeps_payloadBlock, keeps_controlBlock, keeps_headerBlock, keeps_trans, keeps_refl]

theorem kept_execBlockReceive (f : FibreId) (w : WaveId) (block : BitVec 257) (s : State) : Kept s (execBlockReceive f w block s) := by
  grind [execBlockReceive, kept_ok, keeps_receiveBlock, keeps_trans, keeps_refl]

theorem kept_execCreditReturn (f : FibreId) (w : WaveId) (block : BitVec 257) (s : State) : Kept s (execCreditReturn f w block s) := by
  grind [execCreditReturn, kept_ok, keeps_returnCredits, keeps_trans, keeps_refl]

theorem kept_execCut (f : FibreId) (w : WaveId) (s : State) : Kept s (execCut f w s) := by
  grind [execCut, kept_ok, keeps_losePartial, keeps_trans, keeps_refl]

theorem kept_execFifoUnderrun (f : FibreId) (w : WaveId) (s : State) : Kept s (execFifoUnderrun f w s) := by
  grind [execFifoUnderrun, keeps_losePartial, kept_ok, keeps_setFifo, keeps_trans, keeps_refl]

theorem keeps_flushPort (s : State) (f : Nat) : Keeps s (s.flushPort f) := keeps_forAll s _ _ (fun u _ => keeps_setFifo u _ _ _)

theorem keeps_flushFifo (s : State) (f w : Nat) : Keeps s (s.flushFifo f w) := by
  grind [State.flushFifo, keeps_losePartial, keeps_setFifo, keeps_setFab, keeps_foldl, keeps_trans, keeps_refl]

theorem kept_execFifoFlush (f : FibreId) (w : WaveId) (s : State) : Kept s (execFifoFlush f w s) := by
  grind [execFifoFlush, kept_ok, keeps_flushFifo, keeps_trans, keeps_refl]

end Sys2Proof.Proofs
end

section
/-! Keeping through copies, groups and collectives. -/

namespace Sys2Proof.Proofs

open Sys2Proof Sys2Proof.Machine Sys2Proof.Laws

theorem keeps_enqueueOne (s : State) (q : ServantReq) : Keeps s (s.enqueueOne q) := by
  grind [State.enqueueOne, keeps_setVault, keeps_respond, keeps_setStk, keeps_withLocalReqs, keeps_trans, keeps_refl]

theorem keeps_enqueue (s : State) (q : ServantReq) : Keeps s (s.enqueue q) := by
  grind [State.enqueue, keeps_enqueueOne, keeps_foldl, keeps_trans, keeps_refl]

theorem keeps_dropRequest (s : State) (o : ReqOwner) (off : Nat) : Keeps s (s.dropRequest o off) := by
  grind [State.dropRequest, keeps_setVault, keeps_setStk, keeps_withLocalReqs, keeps_trans, keeps_refl]

theorem keeps_hubRequest (s : State) (j : HubJob) (write : Bool) (bs : List Byte) : Keeps s (s.hubRequest j write bs) :=
  keeps_trans (keeps_setHub s _) (keeps_enqueue _ _)

theorem keeps_beginBuf (s : State) (j : HubJob) (write : Bool) (bs : List Byte) : Keeps s (s.beginBuf j write bs) :=
  keeps_trans (keeps_setHub s _) (keeps_hubRequest _ _ _ _)

theorem keeps_dropJob (s : State) (j : Option HubJob) : Keeps s (s.dropJob j) := by
  cases j with
  | none => exact keeps_refl s
  | some x => exact keeps_dropRequest s _ _

theorem keeps_issueAccess (s : State) (c : ChanId) (write : Bool) (ga len : Nat) (bs : List (Byte × Bool)) :
    Keeps s (s.issueAccess c write ga len bs) := by
  grind [State.issueAccess, keeps_setChannel, keeps_enqueue, keeps_request, keeps_trans, keeps_refl]

theorem keeps_pumpOne {s t : State} {c : ChanId} (h : s.pumpOne c = some t) : Keeps s t := by
  unfold State.pumpOne at h
  grind [keeps_setChannel, keeps_issueAccess, keeps_trans]

theorem keeps_pumpEngine (fuel : Nat) : ∀ (s : State) (e : Nat), Keeps s (State.pumpEngine fuel s e) := by
  induction fuel with
  | zero => exact fun s _ => keeps_refl s
  | succ fuel ih =>
    intro s e
    unfold State.pumpEngine
    split
    case h_1 i t h =>
      obtain ⟨j, -, hj⟩ := List.exists_of_findSome?_eq_some h
      obtain ⟨u, hu, he⟩ := Option.map_eq_some_iff.mp hj
      cases he
      exact keeps_trans (keeps_pumpOne hu) (keeps_trans (keeps_withEngineTurn _ _) (ih _ _))
    case h_2 => exact keeps_refl s

theorem keeps_pump (s : State) (c : ChanId) : Keeps s (s.pump c) := keeps_pumpEngine _ s _

theorem keeps_completeCopy (s : State) (c status halt : Nat) : Keeps s (s.completeCopy c status halt) := by
  grind [State.completeCopy, keeps_completeCmd, keeps_trans, keeps_refl]

theorem keeps_discardQueue (s : State) (c : Nat) : Keeps s (s.discardQueue c) := by
  grind [State.discardQueue, keeps_setChannel, keeps_completeCmd, keeps_foldl, keeps_trans, keeps_refl]

theorem keeps_haltChannel (s : State) (c : ChanId) (cause addr : Nat) : Keeps s (s.haltChannel c cause addr) := by
  grind [State.haltChannel, keeps_discardQueue, keeps_completeCopy, keeps_setChannel, keeps_raiseFault, keeps_trans, keeps_refl]

theorem keeps_dropChannel (s : State) (c : ChanId) : Keeps s (s.dropChannel c) := by
  grind [State.dropChannel, keeps_dropRequest, keeps_foldl, keeps_trans, keeps_refl]

theorem keeps_resetChannel (s : State) (c : Nat) : Keeps s (s.resetChannel c) :=
  keeps_trans (keeps_trans (keeps_trans (keeps_dropChannel s _) (keeps_completeCopy _ _ _ _)) (keeps_discardQueue _ _)) (keeps_setChannel _ _ _)

theorem keeps_beginControl (s : State) (c : ChanId) (fetch : Bool) (off : Nat) (bs : List Byte) : Keeps s (s.beginControl c fetch off bs) :=
  keeps_trans (keeps_setChannel s _ _) (keeps_enqueue _ _)

theorem kept_execDescriptorFetch (c : ChanId) (s : State) : Kept s (execDescriptorFetch c s) := by
  unfold execDescriptorFetch
  extract_lets +onlyGivenNames ch
  split; · exact keeps_refl s
  split
  · split
    · extract_lets +onlyGivenNames a s1
      refine kept_ite _ ?_ ?_
      · exact kept_ok (keeps_trans (keeps_setChannel s _ _) (keeps_haltChannel _ _ _ _))
      · exact kept_ok (keeps_trans (keeps_setChannel s _ _) (keeps_trans (keeps_setChannel _ _ _) (keeps_pump _ _)))
    · refine kept_ite _ ?_ (keeps_refl s)
      exact kept_ok (keeps_trans (keeps_setChannel s _ _) (keeps_trans (keeps_dropRequest _ _ _) (keeps_haltChannel _ _ _ _)))
  · split; · exact keeps_refl s
    extract_lets +onlyGivenNames s0
    have h0 : ∀ x, Keeps s (s.setChannel c x) := keeps_setChannel s c
    refine kept_ite _ ?_ (kept_ite _ ?_ ?_)
    · exact kept_ok (keeps_trans (h0 _) (keeps_haltChannel _ _ _ _))
    · exact kept_ok (keeps_trans (h0 _) (keeps_haltChannel _ _ _ _))
    · exact kept_ok (keeps_trans (h0 _) (keeps_trans (keeps_setChannel _ _ _) (keeps_beginControl _ _ _ _ _)))

theorem kept_execCopyAccessResponse (c : ChanId) (n : Nat) (s : State) : Kept s (execCopyAccessResponse c n s) := by
  unfold execCopyAccessResponse
  grind [kept_ok, keeps_setChannel, keeps_pump, keeps_trans, keeps_refl]

theorem keeps_timeOutAccess (s : State) (c : ChanId) (x : Access) : Keeps s (s.timeOutAccess c x) := by
  grind [State.timeOutAccess, keeps_dropRequest, keeps_setChannel, keeps_trans, keeps_refl]

theorem kept_execCopyAccessTimeout (c : ChanId) (n : Nat) (s : State) : Kept s (execCopyAccessTimeout c n s) := by
  grind [execCopyAccessTimeout, keeps_setFab, kept_ok, keeps_timeOutAccess, keeps_trans, keeps_refl]

theorem keeps_descriptorDone (s : State) (c : ChanId) (d : DescRun) (st : Byte) : Keeps s (s.descriptorDone c d st) := by
  grind [State.descriptorDone, keeps_setChannel, keeps_raiseFault, keeps_completeCopy, keeps_trans, keeps_refl]

theorem kept_execDescriptorComplete (c : ChanId) (s : State) : Kept s (execDescriptorComplete c s) := by
  unfold execDescriptorComplete
  extract_lets ch
  split; · exact keeps_refl s
  split; · exact keeps_refl s
  split; · exact kept_ok (keeps_beginControl s _ _ _ _)
  split <;> grind [kept_ok, keeps_setChannel, keeps_haltChannel, keeps_descriptorDone, keeps_dropRequest, keeps_trans, keeps_refl]

theorem keeps_stopChannel (s : State) (c : Nat) : Keeps s (s.stopChannel c) :=
  keeps_trans (keeps_trans (keeps_completeCopy s _ _ _) (keeps_discardQueue _ _)) (keeps_setChannel _ _ _)

theorem keeps_requestStop (s : State) (c : Nat) : Keeps s (s.requestStop c) := by
  grind [State.requestStop, keeps_stopChannel, keeps_setChannel, keeps_trans, keeps_refl]

theorem kept_execChannelStop (c : ChanId) (s : State) : Kept s (execChannelStop c s) := by
  grind [execChannelStop, kept_ok, keeps_stopChannel, keeps_trans, keeps_refl]

theorem keeps_setColl (s : State) (k : Nat) (c : CollState) : Keeps s (s.setColl k c) := keeps_setEngine s _ _

theorem keeps_putBoth (s : State) (k : Nat) (ec : EngineState × CollState) : Keeps s (s.putBoth k ec) :=
  keeps_trans (keeps_setEngine s _ _) (keeps_setColl _ _ _)

theorem keeps_release (s : State) (k slot : Nat) : Keeps s (s.release k slot) := by
  grind [State.release, keeps_putBoth, keeps_trans, keeps_refl]

theorem keeps_sendCl (s : State) (k : Nat) (p : Packet) : Keeps s (s.sendCl k p) := by
  grind [State.sendCl, keeps_pushOut, keeps_setFab, keeps_trans, keeps_refl]

theorem keeps_countPoison (s : State) (k : Nat) (d : List (Byte × Bool)) : Keeps s (s.countPoison k d) := keeps_setEngine s _ _

theorem keeps_sendChunk (s : State) (k : Nat) (c : CollState) (j who : Nat) (d : List (Byte × Bool)) :
    Keeps s (s.sendChunk k c j who d) := by
  grind [State.sendChunk, keeps_countPoison, keeps_sendCl, keeps_foldl, keeps_trans, keeps_refl]

theorem keeps_grant (s : State) (k slot j who : Nat) : Keeps s (s.grant k slot j who) := by
  grind [State.grant, keeps_sendCl, keeps_setColl, keeps_trans, keeps_refl]

theorem keeps_creditChildren (s : State) (k slot j : Nat) : Keeps s (s.creditChildren k slot j) := by
  unfold State.creditChildren
  split
  · exact keeps_refl s
  · refine keeps_foldl _ (fun u ch => ?_) _ s
    grind [keeps_grant, keeps_putBoth, keeps_trans, keeps_refl]

theorem keeps_combineReady (fuel : Nat) : ∀ (s : State) (k slot j : Nat), Keeps s (State.combineReady fuel s k slot j) := by
  induction fuel with
  | zero => exact fun s _ _ _ => keeps_refl s
  | succ fuel ih =>
    intro s k slot j
    unfold State.combineReady
    split; · exact keeps_refl s
    extract_lets x kids
    split
    · split
      · grind [keeps_setColl, keeps_countPoison, keeps_release, keeps_trans]
      · exact keeps_refl s
    · exact keeps_refl s

theorem keeps_beginChunk (s : State) (k : Nat) (c : CollState) (use : ChunkUse) (i : Nat) (d : List (Byte × Bool)) :
    Keeps s (s.beginChunk k c use i d) := keeps_trans (keeps_setEngine s _ _) (keeps_enqueue _ _)

theorem keeps_dropAccesses (s : State) (k slot : Nat) : Keeps s (s.dropAccesses k slot) :=
  keeps_trans (keeps_setEngine s _ _) (keeps_foldl _ (fun u _ => keeps_dropRequest u _ _) _ _)

theorem keeps_progress (s : State) (k slot j : Nat) : Keeps s (s.progress k slot j) := by
  unfold State.progress
  split; · exact keeps_refl s
  extract_lets +onlyGivenNames x parent kids
  clear_value parent
  split; · exact keeps_refl s
  extract_lets +onlyGivenNames full
  split; · exact keeps_setColl s _ _
  split
  · split
    · split
      · exact keeps_trans (keeps_sendChunk s _ _ _ _ _) (keeps_trans (keeps_setColl _ _ _) (keeps_release _ _ _))
      · exact keeps_refl s
    · exact keeps_refl s
  · extract_lets +onlyGivenNames writes s1 x1 dests s2 x2 finished s3
    have h1 : Keeps s s1 := by
      unfold s1
      split
      · split
        · exact keeps_beginChunk s _ _ _ _ _
        · exact keeps_refl s
      · exact keeps_refl s
    have h2 : Keeps s1 s2 := keeps_foldl _ (fun u y => keeps_sendChunk u _ _ _ _ _) _ s1
    have h3 : Keeps s s3 := keeps_trans (keeps_trans h1 h2) (keeps_setColl s2 _ _)
    split
    · exact keeps_trans h3 (keeps_release _ _ _)
    · exact h3

theorem keeps_sendBlock (s : State) (k slot i : Nat) : Keeps s (s.sendBlock k slot i) := by
  grind [State.sendBlock, keeps_beginChunk, keeps_trans, keeps_refl]

theorem keeps_abortColl (s : State) (k : Nat) (c : CollState) (cause origin detected : Nat) :
    Keeps s (s.abortColl k c cause origin detected) := by
  grind [State.abortColl, keeps_setFab, keeps_sendCl, keeps_dropAccesses, keeps_setEngine, keeps_logEvent, keeps_loosenDest,
    keeps_foldl, keeps_withAbort, keeps_trans, keeps_refl]

theorem keeps_abortOwn (s : State) (k : Nat) (c : CollState) (cause : Nat) : Keeps s (s.abortOwn k c cause) := keeps_abortColl s _ _ _ _ _

theorem keeps_abortEngine (s : State) (k cause : Nat) : Keeps s (s.abortEngine k cause) :=
  keeps_foldl _ (fun u _ => keeps_abortOwn u _ _ _) _ s

theorem keeps_abortAll (s : State) (cause : Nat) : Keeps s (s.abortAll cause) := keeps_forAll s _ _ (fun u _ => keeps_abortEngine u _ _)

theorem kept_execCollectiveTakePost (k : LpId) (s : State) : Kept s (execCollectiveTakePost k s) := by
  unfold execCollectiveTakePost
  grind [kept_ok, keeps_withCollPosts, keeps_raiseFault, keeps_setEngine, keeps_trans, keeps_refl]

theorem keeps_barrier (s : State) (k slot : Nat) : Keeps s (s.barrier k slot) := by
  grind [State.barrier, keeps_sendCl, keeps_setColl, keeps_foldl, keeps_trans, keeps_refl]

theorem kept_execCollectiveStart (k : LpId) (s : State) : Kept s (execCollectiveStart k s) := by
  grind [execCollectiveStart, kept_ok, keeps_setEngine, keeps_abortColl, keeps_barrier, keeps_withAbort, keeps_trans, keeps_refl]

theorem keeps_openSource (s : State) (k : Nat) (c : CollState) (i : Nat) : Keeps s (s.openSource k c i) := by
  grind [State.openSource, keeps_sendBlock, keeps_setColl, keeps_beginChunk, keeps_putBoth, keeps_trans, keeps_refl]

theorem keeps_openDest (s : State) (k : Nat) (c : CollState) (i : Nat) : Keeps s (s.openDest k c i) := by
  grind [State.openDest, keeps_beginChunk, keeps_setColl, keeps_progress, keeps_grant, keeps_putBoth, keeps_trans, keeps_refl]

theorem keeps_landChunk (s : State) (k : Nat) (c : CollState) (a : ChunkAccess) : Keeps s (s.landChunk k c a) := by
  grind [State.landChunk, keeps_sendChunk, keeps_setColl, keeps_creditChildren, keeps_countPoison, keeps_progress, keeps_combineReady,
    keeps_beginChunk, keeps_release, keeps_trans, keeps_refl]

theorem keeps_landAccesses (s : State) (k : Nat) : Keeps s (s.landAccesses k) := by
  grind [State.landAccesses, keeps_setEngine, keeps_landChunk, keeps_foldl, keeps_trans, keeps_refl]

theorem kept_execGateOpen (k : LpId) (slot : SlotId) (dst : Bool) (chunk : Nat) (s : State) : Kept s (execGateOpen k slot dst chunk s) := by
  grind [execGateOpen, kept_ok, keeps_landAccesses, keeps_abortOwn, keeps_openDest, keeps_openSource, keeps_trans, keeps_refl]

theorem keeps_takeLocal {s t : State} {k : Nat} {f : Packet → Bool} {x : Bool × Packet} (h : s.takeLocal k f = some (x, t)) :
    Keeps s t := by
  unfold State.takeLocal at h
  grind [keeps_setEngine, keeps_setFab]

theorem keeps_wholeChunk (s : State) (k slot j y : Nat) (d : List (Byte × Bool)) : Keeps s (s.wholeChunk k slot j y d) := by
  grind [State.wholeChunk, keeps_sendCl, keeps_beginChunk, keeps_setColl, keeps_progress, keeps_creditChildren, keeps_combineReady,
    keeps_trans, keeps_refl]

theorem keeps_clTest {s t : State} {k : Nat} {held : Bool} {p : Packet} (h : s.clTest k held p = .drop t) : Keeps s t := by
  have hset : ∀ e, Keeps s (s.setEngine k e) := keeps_setEngine s k
  have habort : ∀ c n, Keeps s (s.abortOwn k c n) := fun c n => keeps_abortOwn s k c n
  have hcoll : ∀ c x y z, Keeps s (s.abortColl k c x y z) := fun c x y z => keeps_abortColl s k c x y z
  unfold State.clTest at h
  extract_lets e slot c? epochHere at h
  clear_value c? epochHere
  split at h; · exact ClVerdict.drop.inj h ▸ hset _
  split at h; · exact ClVerdict.drop.inj h ▸ hset _
  split at h; · exact ClVerdict.drop.inj h ▸ hset _
  cases c? <;> grind

/-- A collective packet that has been taken and passes its tests has effect `f` on what the landed accesses leave. -/
theorem kept_execClData (k : LpId) (s : State) : Kept s (execClData k s) := by
  unfold execClData
  grind [kept_ok, keeps_landAccesses, → keeps_takeLocal, → keeps_clTest, keeps_abortOwn, keeps_setColl, keeps_countPoison,
    keeps_wholeChunk, keeps_trans, keeps_refl]

theorem kept_execClArrive (k : LpId) (s : State) : Kept s (execClArrive k s) := by
  unfold execClArrive
  grind [kept_ok, keeps_landAccesses, → keeps_takeLocal, → keeps_clTest, keeps_abortOwn, keeps_setColl, keeps_barrier, keeps_trans,
    keeps_refl]

theorem kept_execClRelease (k : LpId) (s : State) : Kept s (execClRelease k s) := by
  unfold execClRelease
  grind [kept_ok, keeps_landAccesses, → keeps_takeLocal, → keeps_clTest, keeps_abortOwn, keeps_setColl, keeps_sendCl, keeps_foldl,
    keeps_trans, keeps_refl]

theorem kept_execClAbort (k : LpId) (s : State) : Kept s (execClAbort k s) := by
  unfold execClAbort
  grind [kept_ok, keeps_landAccesses, → keeps_takeLocal, → keeps_clTest, keeps_abortOwn, keeps_trans, keeps_refl]

theorem kept_execClCredit (k : LpId) (s : State) : Kept s (execClCredit k s) := by
  unfold execClCredit
  grind [kept_ok, keeps_landAccesses, → keeps_takeLocal, → keeps_clTest, keeps_abortOwn, keeps_setColl, keeps_sendBlock, keeps_progress,
    keeps_trans, keeps_refl]

theorem kept_execClAck (k : LpId) (s : State) : Kept s (execClAck k s) := by
  unfold execClAck
  grind [kept_ok, keeps_landAccesses, → keeps_takeLocal, → keeps_clTest, keeps_abortOwn, keeps_setColl, keeps_progress, keeps_trans,
    keeps_refl]

theorem kept_execChunkResultStep (k : LpId) (slot : SlotId) (s : State) : Kept s (execChunkResultStep k slot s) := by
  grind [execChunkResultStep, kept_ok, keeps_landAccesses, keeps_stepChunk, keeps_setColl, keeps_trans, keeps_refl]

theorem kept_execCollectiveClose (k : LpId) (slot : SlotId) (s : State) : Kept s (execCollectiveClose k slot s) := by
  grind [execCollectiveClose, kept_ok, keeps_landAccesses, keeps_stepChunk, keeps_setEngine, keeps_trans, keeps_refl]

theorem keeps_noteSending (s : State) (k : Nat) (p : Packet) : Keeps s (s.noteSending k p) := by
  grind [State.noteSending, keeps_setColl, keeps_trans, keeps_refl]

theorem kept_execCollectiveStall (k : LpId) (slot : SlotId) (s : State) : Kept s (execCollectiveStall k slot s) := by
  grind [execCollectiveStall, kept_ok, keeps_landAccesses, keeps_abortOwn, keeps_trans, keeps_refl]

theorem kept_execCollectiveDeadline (k : LpId) (slot : SlotId) (s : State) : Kept s (execCollectiveDeadline k slot s) := by
  grind [execCollectiveDeadline, kept_ok, keeps_landAccesses, keeps_abortOwn, keeps_trans, keeps_refl]

theorem kept_execCollectiveAbort (k : LpId) (slot : SlotId) (s : State) : Kept s (execCollectiveAbort k slot s) := by
  grind [execCollectiveAbort, kept_ok, keeps_landAccesses, keeps_abortOwn, keeps_trans, keeps_refl]

theorem kept_execAbortResend (k : LpId) (s : State) : Kept s (execAbortResend k s) := by
  grind [execAbortResend, kept_ok, keeps_sendCl, keeps_setEngine, keeps_trans, keeps_refl]

end Sys2Proof.Proofs
end

section
/-! Keeping through the lightplane and the cassette. -/

namespace Sys2Proof.Proofs

open Sys2Proof Sys2Proof.Machine Sys2Proof.Laws

theorem keeps_acquire (s : State) (k r : Nat) : Keeps s (s.acquire k r) := by
  grind [State.acquire, keeps_setRing, keeps_trans, keeps_refl]

theorem keeps_identReceive (s : State) (f w : Nat) (marker : BitVec 16) (q : Nat) : Keeps s (s.identReceive f w marker q) := by
  grind [State.identReceive, keeps_setWave, keeps_draw, keeps_acquire, keeps_setRing, keeps_trans, keeps_refl]

theorem keeps_lightGone (s : State) (f w : Nat) : Keeps s (s.lightGone f w) := by
  grind [State.lightGone, keeps_dataLost, keeps_setWave, keeps_trans, keeps_refl]

theorem kept_execFrameReceive (f : FibreId) (w : WaveId) (marker : BitVec 16) (sequence : Byte) (payload : BitVec 1000) (s : State) :
    Kept s (execFrameReceive f w marker sequence payload s) := by
  grind [execFrameReceive, kept_ok, keeps_identReceive, keeps_lightGone, keeps_setWave, keeps_draw, keeps_dataLost, keeps_trans,
    keeps_refl]

theorem keeps_receiveBlocks (s : State) (f w : Nat) (bs : List (BitVec 257)) : Keeps s (s.receiveBlocks f w bs) :=
  keeps_foldl _ (fun u _ => keeps_receiveBlock u _ _ _) _ s

theorem kept_execCodewordDecode (f : FibreId) (w : WaveId) (s : State) : Kept s (execCodewordDecode f w s) := by
  unfold execCodewordDecode
  extract_lets x left r y
  clear_value r y
  split; · exact keeps_refl s
  split
  · exact kept_ok (keeps_trans (keeps_setWave s _ _ _) (keeps_dataLost _ _ _))
  · exact kept_ok (keeps_trans (keeps_setWave s _ _ _) (keeps_receiveBlocks _ _ _ _))

theorem keeps_endBurst (s : State) (f w ns : Nat) : Keeps s (s.endBurst f w ns) := by
  grind [State.endBurst, keeps_sendControl, keeps_setWave, keeps_trans, keeps_refl]

theorem keeps_endSlot (s : State) (k w : Nat) : Keeps s (s.endSlot k w) := by
  grind [State.endSlot, keeps_endBurst, keeps_foldl, keeps_trans, keeps_refl]

theorem keeps_applySlot (s0 : State) (k w slot : Nat) (t : Option ℤ) : Keeps s0 (s0.applySlot k w slot t) := by
  grind [State.applySlot, keeps_endSlot, keeps_setSteerG, keeps_foldl, keeps_trans, keeps_refl]

theorem keeps_refreshSteering (s : State) (k : Nat) : Keeps s (s.refreshSteering k) := by
  grind [State.refreshSteering, keeps_forAll, keeps_applySlot, keeps_setSteerG, keeps_trans, keeps_refl]

theorem kept_execSteeringSlotStart (k : LpId) (w : CircuitWave) (slot : Nat) (s : State) : Kept s (execSteeringSlotStart k w slot s) := by
  grind [execSteeringSlotStart, kept_ok, keeps_applySlot, keeps_setSteerG, keeps_trans, keeps_refl]

theorem kept_execBurstReceive (f : FibreId) (w : WaveId) (rep : BurstReport) (s : State) : Kept s (execBurstReceive f w rep s) := by
  grind [execBurstReceive, kept_ok, keeps_dataLost, keeps_setWave, keeps_draw, keeps_receiveBlocks, keeps_foldl, keeps_trans,
    keeps_refl]

theorem keeps_flushChunks (s : State) (f : Nat) : Keeps s (s.flushChunks f) := keeps_setFab s _ _

theorem keeps_linkLost (s : State) (f : Nat) : Keeps s (s.linkLost f) := by
  grind [State.linkLost, keeps_forAll, keeps_setWave, keeps_flushChunks, keeps_flushPort, keeps_setNbr, keeps_abortOwn, keeps_foldl,
    keeps_trans, keeps_refl]

theorem keeps_holdDown (s : State) (f : Nat) : Keeps s (s.holdDown f) := by
  grind [State.holdDown, keeps_setPort, keeps_trans, keeps_refl]

theorem keeps_goDown (s : State) (f : Nat) : Keeps s (s.goDown f) := by
  grind [State.goDown, keeps_logPort, keeps_setPort, keeps_refreshSteering, keeps_linkLost, keeps_trans, keeps_refl]

theorem keeps_disablePort (s : State) (f : Nat) : Keeps s (s.disablePort f) := by
  grind [State.disablePort, keeps_setPort, keeps_refreshSteering, keeps_linkLost, keeps_trans, keeps_refl]

theorem kept_execPortDown (f : FibreId) (s : State) : Kept s (execPortDown f s) := by
  grind [execPortDown, kept_ok, keeps_goDown, keeps_trans, keeps_refl]

theorem keeps_ringFaulty (s : State) (k r : Nat) : Keeps s (s.ringFaulty k r) := by
  grind [State.ringFaulty, keeps_setRing, keeps_setWave, keeps_refreshSteering, keeps_goDown, keeps_trans, keeps_refl]

theorem kept_execTruingWindow (k : LpId) (ring : RingId) (lit : Nat) (sum cnt : ℤ) (s : State) :
    Kept s (execTruingWindow k ring lit sum cnt s) := by
  grind [execTruingWindow, kept_ok, keeps_setRing, keeps_draw, keeps_ringFaulty, keeps_trans, keeps_refl]

theorem kept_execRingFault (k : LpId) (ring : RingId) (s : State) : Kept s (execRingFault k ring s) := by
  grind [execRingFault, kept_ok, keeps_ringFaulty, keeps_setRing, keeps_trans, keeps_refl]

theorem kept_execLaserRequest (n : LaserId) (s : State) : Kept s (execLaserRequest n s) := by
  grind [execLaserRequest, kept_ok, keeps_setLaser, keeps_trans, keeps_refl]

theorem keeps_repeatFrom (s : State) (fs : List Nat) (step : Nat) : Keeps s (s.repeatFrom fs step) := by
  grind [State.repeatFrom, keeps_linkLost, keeps_setPort, keeps_refreshSteering, keeps_foldl, keeps_trans, keeps_refl]

theorem keeps_laserFaults (s : State) (n : Nat) : Keeps s (s.laserFaults n) :=
  keeps_trans (keeps_setLaser s _ _) (keeps_logEvent _ _ _ _ _ _)

theorem kept_execLaserOkRise (n : LaserId) (s : State) : Kept s (execLaserOkRise n s) := by
  grind [execLaserOkRise, keeps_setLaser, kept_ok, keeps_laserFaults, keeps_repeatFrom, keeps_trans, keeps_refl]

theorem kept_execLaserFault (n : LaserId) (s : State) : Kept s (execLaserFault n s) := by
  grind [execLaserFault, kept_ok, keeps_laserFaults, keeps_trans, keeps_refl]

theorem kept_execInterlockLow (s : State) : Kept s (execInterlockLow s) := by
  unfold execInterlockLow
  extract_lets s1
  have h1 : Keeps s { s1 with power := { s1.power with interlockLow := true } } := ⟨rfl, rfl, id⟩
  exact kept_ok (keeps_trans h1 (keeps_logEvent _ _ _ _ _ _))

theorem kept_execInterlockHigh (s : State) : Kept s (execInterlockHigh s) := by
  grind [execInterlockHigh, kept_ok, keeps_repeatFrom, keeps_withPower, keeps_trans, keeps_refl]

theorem keeps_loadRing (s : State) (k r : Nat) (tones : Machine.SMap (BitVec 6)) : Keeps s (s.loadRing k r tones) := by
  grind [State.loadRing, keeps_setRing, keeps_trans, keeps_refl]

theorem keeps_tryAgain (s : State) (f : Nat) : Keeps s (s.tryAgain f) :=
  keeps_trans (keeps_foldl _ (fun u _ => keeps_setRing u _ _ _) _ s) (keeps_setPort _ _ _)

theorem keeps_acquireSend (s : State) (f : Nat) : Keeps s (s.acquireSend f) := keeps_foldl _ (fun u _ => keeps_acquire u _ _) _ s

theorem keeps_reach (s : State) (f step : Nat) : Keeps s (s.reach f step) := keeps_setPort s _ _

theorem kept_execPortBringUp (f : FibreId) (okay : Bool) (s : State) : Kept s (execPortBringUp f okay s) := by
  grind [execPortBringUp, kept_ok, keeps_reach, keeps_tryAgain, keeps_setPort, keeps_acquireSend, keeps_loadRing, keeps_acquire,
    keeps_forAll, keeps_setWave, keeps_foldl, keeps_trans, keeps_refl]

theorem kept_execPortUp (f : FibreId) (s : State) : Kept s (execPortUp f s) := by
  grind [execPortUp, keeps_setPort, keeps_portRecycled, kept_ok, keeps_refreshSteering, keeps_trans, keeps_refl]

theorem keeps_overlay (s : State) (es : List CassEntry) : Keeps s (s.overlay es) := keeps_foldl _ (fun u _ => keeps_setSetting u _ _) _ s

theorem keeps_accrue (s : State) (k : Nat) : Keeps s (s.accrue k) := keeps_setFab s _ _

theorem keeps_clampTokens (s : State) (k : Nat) : Keeps s (s.clampTokens k) := keeps_setFab s _ _

theorem keeps_noteBrake (s : State) (old : Nat) : Keeps s (s.noteBrake old) := keeps_setTherm s _

theorem keeps_changeGear (s : State) (code cause : Nat) : Keeps s (s.changeGear code cause) := by
  grind [State.changeGear, keeps_noteBrake, keeps_setTherm, keeps_setBeat, keeps_logEvent, keeps_trans, keeps_refl]

theorem keeps_clearRepaired (s : State) : Keeps s (s.clearRepaired) := by
  grind [State.clearRepaired, keeps_setMark, keeps_foldl, keeps_withRepairs, keeps_trans, keeps_refl]

theorem keeps_setRole (s : State) (root : Bool) (start : Nat) : Keeps s (s.setRole root start) := by
  grind [State.setRole, keeps_noteInstants, keeps_setMach, keeps_trans, keeps_refl]

theorem keeps_shiftSchedule (s old : State) (k w : Nat) : Keeps s (s.shiftSchedule old k w) := by
  grind [State.shiftSchedule, keeps_setSteerG, keeps_forAll, keeps_setWave, keeps_trans, keeps_refl]

theorem keeps_dropLasers (s : State) : Keeps s (s.dropLasers) := by
  grind [State.dropLasers, keeps_forAll, keeps_setLaser, keeps_trans, keeps_refl]

theorem keeps_shiftEffect (s old : State) (e : CassEntry) : Keeps s (s.shiftEffect old e) := by
  grind [State.shiftEffect, keeps_setRole, keeps_clearRepaired, keeps_changeGear, keeps_forAll, keeps_clampTokens, keeps_shiftSchedule,
    keeps_dropLasers, keeps_setPort, keeps_disablePort, keeps_abortAll, keeps_foldl, keeps_withEngines, keeps_trans, keeps_refl]

theorem keeps_applyCassette (s : State) (es : List CassEntry) : Keeps s (s.applyCassette es) := by
  grind [State.applyCassette, keeps_forAll, keeps_accrue, keeps_shiftEffect, keeps_overlay, keeps_foldl, keeps_trans, keeps_refl]

theorem kept_execStage (s : State) : Kept s (execStage s) := by
  unfold execStage
  grind [kept_ok, keeps_setHub, keeps_finish, keeps_trans, keeps_refl]

theorem kept_execCheck (s : State) : Kept s (execCheck s) := by
  grind [execCheck, kept_ok, keeps_finish, keeps_setHub, keeps_trans, keeps_refl]

theorem keeps_refreshShift (s : State) : Keeps s (s.refreshShift) := by
  grind [State.refreshShift, keeps_setBeat, keeps_trans, keeps_refl]

theorem keeps_takeShift (s : State) (c : Accepted) (es : List CassEntry) (at_ : Nat) (package : Bool) :
    Keeps s (s.takeShift c es at_ package) := by
  grind [State.takeShift, keeps_setHub, keeps_refreshShift, keeps_background, keeps_trans, keeps_refl]

theorem kept_execShift (s : State) : Kept s (execShift s) := by
  grind [execShift, kept_ok, keeps_finish, keeps_takeShift, keeps_trans, keeps_refl]

theorem kept_execShiftDemand (s : State) : Kept s (execShiftDemand s) := by
  grind [execShiftDemand, kept_ok, keeps_refreshShift, keeps_setHub, keeps_trans, keeps_refl]

theorem keeps_endJob (s : State) (j : ShiftJob) (status foff res : Nat) : Keeps s (s.endJob j status foff res) := by
  grind [State.endJob, keeps_refreshShift, keeps_setHub, keeps_finish, keeps_completeCmd, keeps_trans, keeps_refl]

theorem kept_execShiftInstant (s : State) : Kept s (execShiftInstant s) := by
  grind [execShiftInstant, kept_ok, keeps_endJob, keeps_refreshShift, keeps_setHub, keeps_applyCassette, keeps_trans, keeps_refl]

theorem keeps_cancelShift (s : State) : Keeps s (s.cancelShift) := by
  grind [State.cancelShift, keeps_endJob, keeps_completeCmd, keeps_setHub, keeps_trans, keeps_refl]

theorem kept_execDiscard (s : State) : Kept s (execDiscard s) := by
  grind [execDiscard, kept_ok, keeps_finish, keeps_cancelShift, keeps_setHub, keeps_trans, keeps_refl]

theorem keeps_runPrivate (s : State) (c : Accepted) (es : List CassEntry) (at_ : Nat) : Keeps s (s.runPrivate c es at_) := by
  grind [State.runPrivate, keeps_finish, keeps_overlay, keeps_takeShift, keeps_trans, keeps_refl]

theorem keeps_runWindows (s : State) (c : Accepted) (before : List CassEntry) (buf first count at_ : Nat) :
    Keeps s (s.runWindows c before buf first count at_) := by
  grind [State.runWindows, keeps_runPrivate, keeps_beginBuf, keeps_finish, keeps_setHub, keeps_trans, keeps_refl]

theorem kept_execBindPeloton (s : State) : Kept s (execBindPeloton s) := by
  grind [execBindPeloton, kept_ok, keeps_runWindows, keeps_trans, keeps_refl]

theorem kept_execReleasePeloton (s : State) : Kept s (execReleasePeloton s) := by
  grind [execReleasePeloton, kept_ok, keeps_finish, keeps_runPrivate, keeps_foldl, keeps_trans, keeps_refl]

theorem kept_execSetWindows (s : State) : Kept s (execSetWindows s) := by
  grind [execSetWindows, kept_ok, keeps_runWindows, keeps_trans, keeps_refl]

theorem kept_execSetPowerLimit (s : State) : Kept s (execSetPowerLimit s) := by
  grind [execSetPowerLimit, kept_ok, keeps_runPrivate, keeps_trans, keeps_refl]

end Sys2Proof.Proofs
end

section
/-! Keeping through transit, chaxels and the program. -/

namespace Sys2Proof.Proofs

open Sys2Proof Sys2Proof.Machine Sys2Proof.Laws

theorem keeps_spendCredit (s : State) (me : Nat × Bool) (way : Nat) : Keeps s (s.spendCredit me way) := by
  grind [State.spendCredit, keeps_setCrossing, keeps_trans, keeps_refl]

theorem keeps_enterTracks (fuel : Nat) : ∀ (k : Nat) (s : State) (me : Nat × Bool), Keeps s (State.enterTracks fuel k s me) := by
  induction fuel with
  | zero => exact fun _ s _ => keeps_refl s
  | succ fuel ih => grind [State.enterTracks, keeps_spendCredit, keeps_setCrossing, keeps_trans, keeps_refl]

theorem keeps_sendComing (fuel : Nat) : ∀ (k : Nat) (s : State) (me : Nat × Bool), Keeps s (State.sendComing fuel k s me) := by
  induction fuel with
  | zero => exact fun _ s _ => keeps_refl s
  | succ fuel ih => grind [State.sendComing, keeps_setFab, keeps_setCrossing, keeps_trans, keeps_refl]

theorem kept_execTransitMove (x : CrossingId) (dir : Bool) (s : State) : Kept s (execTransitMove x dir s) := by
  grind [execTransitMove, keeps_setCrossing, keeps_enterTracks, kept_ok, keeps_sendComing, keeps_trans, keeps_refl]

theorem kept_execTransitFlitArrival (x : CrossingId) (dir : Bool) (flit : Flit) (s : State) :
    Kept s (execTransitFlitArrival x dir flit s) := by
  grind [execTransitFlitArrival, keeps_setCrossing, kept_ok, keeps_trans, keeps_refl]

theorem keeps_transitBlock (s : State) (k src : Nat) (b : BitVec 257) (bad : Nat) : Keeps s (s.transitBlock k src b bad) := by
  grind [State.transitBlock, keeps_setFab, keeps_trans, keeps_refl]

theorem keeps_trackCredit (s : State) (site : Nat) (edge : Edge) (away : Bool) (what : Nat) :
    Keeps s (s.trackCredit site edge away what) := by
  grind [State.trackCredit, keeps_sendCredit, keeps_trans, keeps_refl]

theorem keeps_takeTransit (s : State) (n : Nat) : Keeps s (s.takeTransit n) := by
  grind [State.takeTransit, keeps_trackCredit, keeps_setCrossing, keeps_transitBlock, keeps_foldl, keeps_trans, keeps_refl]

theorem kept_execTransitCreditReturn (x : CrossingId) (dir : Bool) (s : State) : Kept s (execTransitCreditReturn x dir s) := by
  grind [execTransitCreditReturn, keeps_takeTransit, kept_ok, keeps_trackCredit, keeps_setCrossing, keeps_trans, keeps_refl]

theorem keeps_mapLane (s : State) (e lane G : Nat) (f : Nat → Flit → Option Flit) : Keeps s (s.mapLane e lane G f) := by
  grind [State.mapLane, keeps_setRouter, keeps_forAll, keeps_setCrossing, keeps_trans, keeps_refl]

theorem keeps_returnCredit (s : State) (e lane v : Nat) : Keeps s (s.returnCredit e lane v) := by
  grind [State.returnCredit, keeps_setLinkEnd, keeps_setCrossing, keeps_trans, keeps_refl]

theorem keeps_deliverBeat (s : State) (e grp G k : Nat) (w : Word64) : Keeps s (s.deliverBeat e grp G k w) := by
  grind [State.deliverBeat, keeps_mapLane, keeps_returnCredit, keeps_trans, keeps_refl]

theorem keeps_linkCheck (s : State) (code e grp wall : Nat) : Keeps s (s.linkCheck code e grp wall) := by
  grind [State.linkCheck, keeps_setBeat, keeps_log, keeps_faultDemand, keeps_trans, keeps_refl]

theorem keeps_uncorrectable (s : State) (e grp G : Nat) : Keeps s (s.uncorrectable e grp G) := by
  grind [State.uncorrectable, keeps_mapLane, keeps_linkCheck, keeps_setLinkEnd, keeps_trans, keeps_refl]

theorem kept_execChaxelGroupReceive (e : EndId) (grp : GroupId) (err : BitVec 256) (crcErr : Byte) (s : State) :
    Kept s (execChaxelGroupReceive e grp err crcErr s) := by
  grind [execChaxelGroupReceive, kept_ok, keeps_deliverBeat, keeps_setLinkEnd, keeps_uncorrectable, keeps_foldl, keeps_trans,
    keeps_refl]

theorem kept_execReplayRequest (e : EndId) (err : BitVec 12) (s : State) : Kept s (execReplayRequest e err s) := by
  grind [execReplayRequest, kept_ok, keeps_setLinkEnd, keeps_trans, keeps_refl]

theorem kept_execReplayCheck (e : EndId) (err : Word64) (crcErr : Byte) (s : State) : Kept s (execReplayCheck e err crcErr s) := by
  grind [execReplayCheck, kept_ok, keeps_deliverBeat, keeps_setLinkEnd, keeps_uncorrectable, keeps_trans, keeps_refl]

theorem kept_execChxPhase (e : EndId) (drift : ℤ) (s : State) : Kept s (execChxPhase e drift s) := by
  grind [execChxPhase, keeps_setLinkEnd, kept_ok, keeps_linkCheck, keeps_trans, keeps_refl]

theorem keeps_brakeHeard (s : State) (wrong : BitVec 24) : Keeps s (s.brakeHeard wrong) := by
  grind [State.brakeHeard, keeps_setBeat, keeps_trans, keeps_refl]

theorem kept_execHoldWordReceive (e : EndId) (x0 x1 x2 : BitVec 24) (s : State) : Kept s (execHoldWordReceive e x0 x1 x2 s) := by
  grind [execHoldWordReceive, kept_ok, keeps_setLinkEnd, keeps_brakeHeard, keeps_trans, keeps_refl]

theorem keeps_setLink (s : State) (l : Nat) (f : EndState → EndState) : Keeps s (s.setLink l f) :=
  keeps_trans (keeps_setLinkEnd s _ _) (keeps_setLinkEnd _ _ _)

theorem keeps_resetLanes (s : State) (l : Nat) : Keeps s (s.resetLanes l) := by
  grind [State.resetLanes, keeps_setLink, keeps_withRouters, keeps_trans, keeps_refl]

theorem keeps_linkFails (s : State) (l cause : Nat) : Keeps s (s.linkFails l cause) := keeps_setLink s _ _

theorem keeps_exchangeWords (s : State) (l : Nat) (rep : TrainingReport) : Keeps s (s.exchangeWords l rep) := by
  grind [State.exchangeWords, keeps_setLinkEnd, keeps_setLink, keeps_linkFails, keeps_foldl, keeps_trans, keeps_refl]

theorem keeps_testLanes (s : State) (l : Nat) (rep : TrainingReport) : Keeps s (s.testLanes l rep) := by
  grind [State.testLanes, keeps_linkFails, keeps_setLinkEnd, keeps_setLink, keeps_resetLanes, keeps_trans, keeps_refl]

theorem kept_execLinkTraining (l : LinkId) (rep : TrainingReport) (s : State) : Kept s (execLinkTraining l rep s) := by
  grind [execLinkTraining, kept_ok, keeps_setLink, keeps_exchangeWords, keeps_testLanes, keeps_trans, keeps_refl]

theorem kept_execAlignmentMark (l : LinkId) (delays : List Nat) (s : State) : Kept s (execAlignmentMark l delays s) := by
  grind [execAlignmentMark, kept_ok, keeps_setLink, keeps_setLinkEnd, keeps_setBeat, keeps_linkFails, keeps_trans, keeps_refl]

theorem kept_execBeatZero (s : State) : Kept s (execBeatZero s) := by
  grind [execBeatZero, keeps_setPower, kept_ok, keeps_setBeat, keeps_trans, keeps_refl]

theorem keeps_stopClaimed (s : State) : Keeps s (s.stopClaimed) := by
  grind [State.stopClaimed, keeps_setChannel, keeps_requestStop, keeps_foldl, keeps_trans, keeps_refl]

theorem keeps_stopIdle (s : State) : Keeps s (s.stopIdle) := by
  grind [State.stopIdle, keeps_abortAll, keeps_setBeat, keeps_trans, keeps_refl]

theorem keeps_programStopped (s : State) : Keeps s s.programStopped := by
  unfold State.programStopped
  extract_lets s1 s2
  have h1 : Keeps s s1 := keeps_trans (keeps_abortAll s _) (keeps_stopClaimed _)
  clear_value s1
  have h2 : Keeps s1 s2 := keeps_of rfl rfl rfl rfl rfl rfl rfl
  clear_value s2
  exact keeps_trans (keeps_trans h1 h2) ⟨rfl, rfl, id⟩

theorem kept_execProgramFault (s : State) : Kept s (execProgramFault s) := by
  grind [execProgramFault, kept_ok, keeps_abortAll, keeps_programStopped, keeps_setBeat, keeps_trans, keeps_refl]

theorem kept_execFaultHoldClear (s : State) : Kept s (execFaultHoldClear s) := by
  grind [execFaultHoldClear, kept_ok, keeps_setBeat, keeps_trans, keeps_refl]

theorem keeps_endOpen (s : State) (no : Nat) : Keeps s (s.endOpen no) :=
  keeps_trans (keeps_setHub s _) (keeps_foldl _ (fun u _ => keeps_completeCmd u _ _ _ _ _ _) _ _)

theorem kept_execStopProgram (s : State) : Kept s (execStopProgram s) := by
  grind [execStopProgram, kept_ok, keeps_endOpen, keeps_programStopped, keeps_stopIdle, keeps_finish, keeps_setBeat, keeps_withProg,
    keeps_trans, keeps_refl]

theorem keeps_loadProgram (s : State) (i : ImageState) (at_ seed : Nat) : Keeps s (s.loadProgram i at_ seed) :=
  keeps_of rfl rfl rfl rfl rfl rfl rfl

theorem kept_execStartProgram (s : State) : Kept s (execStartProgram s) := by
  grind [execStartProgram, kept_ok, keeps_finish, keeps_background, keeps_loadProgram, keeps_trans, keeps_refl]

theorem keeps_completeStart (s : State) (status res : Nat) : Keeps s (s.completeStart status res) := by
  grind [State.completeStart, keeps_completeCmd, keeps_trans, keeps_refl]

theorem kept_execProgramBeatZero (s : State) : Kept s (execProgramBeatZero s) := by
  unfold execProgramBeatZero
  split
  · split; · exact keeps_refl s
    split; · exact kept_ok (keeps_trans (keeps_withProg s _) (keeps_completeStart _ _ _))
    split
    · extract_lets p s1
      have h1 : Keeps s s1 := keeps_of rfl rfl rfl rfl rfl rfl rfl
      exact kept_ok (keeps_trans h1 (keeps_completeStart _ _ _))
    · exact keeps_refl s
  · exact keeps_refl s

end Sys2Proof.Proofs
end

section
/-! Keeping through the spokes and the derailleur. -/

namespace Sys2Proof.Proofs

open Sys2Proof Sys2Proof.Machine Sys2Proof.Laws

theorem kept_execSpokeStoreWrite (p : SpokeId) (s : State) : Kept s (execSpokeStoreWrite p s) := by
  grind [execSpokeStoreWrite, keeps_writeTier0, kept_ok, keeps_setSpoke, keeps_foldl, keeps_trans, keeps_refl]

theorem keeps_issueWiden (s : State) (p : Nat) (fns : List Nat) (get : Word32 → BitVec 512 → Nat → Word32 × BitVec 5) :
    Keeps s (s.issueWiden p fns get) :=
  keeps_issueOwn s _ _ _

theorem keeps_issuePred (s : State) (p fn unused : Nat) (f : BitVec 16 → BitVec 16 → BitVec 16) : Keeps s (s.issuePred p fn unused f) :=
  keeps_issueOwn s _ _ _

theorem kept_execUntilRelease (p : SpokeId) (s : State) : Kept s (execUntilRelease p s) := by
  grind [execUntilRelease, kept_ok, keeps_setSpoke, keeps_trans, keeps_refl]

theorem kept_execTaskRunStart (p : SpokeId) (s : State) : Kept s (execTaskRunStart p s) := by
  grind [execTaskRunStart, kept_ok, keeps_setSpoke, keeps_countFetch, keeps_trans, keeps_refl]

theorem kept_execRunComplete (p : SpokeId) (s : State) : Kept s (execRunComplete p s) := by
  grind [execRunComplete, kept_ok, keeps_setSpoke, keeps_trans, keeps_refl]

theorem kept_execBudgetOverrun (p : SpokeId) (s : State) : Kept s (execBudgetOverrun p s) := by
  grind [execBudgetOverrun, kept_ok, keeps_spokeFault, keeps_trans, keeps_refl]

theorem kept_execCsrw (p : SpokeId) (s : State) : Kept s (execCsrw p s) := by
  grind [execCsrw, kept_ok, keeps_issueSpoke, keeps_setSpoke, keeps_setArray, keeps_setRouter, keeps_trans, keeps_refl]

theorem kept_execSpokeWait (p : SpokeId) (s : State) : Kept s (execSpokeWait p s) := by
  grind [execSpokeWait, kept_ok, keeps_issueSpoke, keeps_setSpoke, keeps_setBeat, keeps_trans, keeps_refl]

theorem kept_execRwr (p : SpokeId) (s : State) : Kept s (execRwr p s) := by
  grind [execRwr, kept_ok, keeps_issueSpoke, keeps_setSpoke, keeps_trans, keeps_refl]

theorem kept_execQpop (p : SpokeId) (s : State) : Kept s (execQpop p s) := by
  grind [execQpop, kept_ok, keeps_issueSpoke, keeps_setSpoke, keeps_draw, keeps_poisonCheck, keeps_trans, keeps_refl]

theorem keeps_postFault (s : State) (p c : Nat) : Keeps s (s.postFault p c) := keeps_faultInstr s _ _ _ _ _

theorem kept_execCepost (p : SpokeId) (s : State) : Kept s (execCepost p s) := by
  grind [execCepost, kept_ok, keeps_issueSpoke, keeps_postFault, keeps_setChannel, keeps_trans, keeps_refl]

theorem kept_execClpost (p : SpokeId) (s : State) : Kept s (execClpost p s) := by
  grind [execClpost, kept_ok, keeps_issueSpoke, keeps_postFault, keeps_withCollPosts, keeps_trans, keeps_refl]

theorem keeps_issueTrigger (s : State) (p code : Nat) : Keeps s (s.issueTrigger p code) := by
  grind [State.issueTrigger, keeps_issueSpoke, keeps_setDerailleur, keeps_trans, keeps_refl]

theorem keeps_installWindows (s : State) (die v0 : Nat) (entries : List Nat) : Keeps s (s.installWindows die v0 entries) := by
  grind [State.installWindows, keeps_setArray, keeps_foldl, keeps_trans, keeps_refl]

theorem kept_execDerailleurPhaseStart (die : DieId) (s : State) : Kept s (execDerailleurPhaseStart die s) := by
  grind [execDerailleurPhaseStart, kept_ok, keeps_setDerailleur, keeps_installWindows, keeps_trans, keeps_refl]

theorem kept_execRouteLanding (p : SpokeId) (s : State) : Kept s (execRouteLanding p s) := by
  grind [execRouteLanding, keeps_setSpoke, kept_ok, keeps_raiseFault, keeps_setDerailleur, keeps_trans, keeps_refl]

theorem kept_execAssignment (die : DieId) (s : State) : Kept s (execAssignment die s) := by
  grind [execAssignment, kept_ok, keeps_setDerailleur, keeps_trans, keeps_refl]

theorem keeps_startSweep (s : State) (die : Nat) (w : Sweep) : Keeps s (s.startSweep die w) := by
  grind [State.startSweep, keeps_setDerailleur, keeps_trans, keeps_refl]

theorem kept_execDispatchSweep (die : DieId) (out : Bool) (line : Nat) (s : State) : Kept s (execDispatchSweep die out line s) := by
  grind [execDispatchSweep, kept_ok, keeps_startSweep, keeps_trans, keeps_refl]

theorem kept_execFillSweep (die : DieId) (s : State) : Kept s (execFillSweep die s) := by
  grind [execFillSweep, kept_ok, keeps_startSweep, keeps_trans, keeps_refl]

theorem kept_execCombineSweep (die : DieId) (out : Bool) (line : Nat) (s : State) : Kept s (execCombineSweep die out line s) := by
  grind [execCombineSweep, keeps_startSweep, kept_ok, keeps_combineCheck, keeps_trans, keeps_refl]

theorem kept_execVoidArming (die : DieId) (s : State) : Kept s (execVoidArming die s) := by
  grind [execVoidArming, keeps_setDerailleur, kept_ok, keeps_setArray, keeps_foldl, keeps_trans, keeps_refl]

end Sys2Proof.Proofs
end

section
/-! Keeping through registers, commands and the hub. -/

namespace Sys2Proof.Proofs

open Sys2Proof Sys2Proof.Machine Sys2Proof.Laws

theorem keeps_readReg (s : State) (cls x2 off : Nat) : Keeps s (s.readReg cls x2 off).2 := by
  grind [State.readReg, keeps_withLatches, keeps_trans, keeps_refl]

theorem keeps_unlessReserved {s t : State} (m : Nat) (h : Keeps s t) : Keeps s (s.unlessReserved m t) := by
  unfold State.unlessReserved
  split
  · exact keeps_refl s
  · exact h

theorem keeps_clearEvents (s : State) (m : Nat) (v : Word32) : Keeps s (s.clearEvents m v) := keeps_setMb s _ _

theorem kept_execMbEventClear (m : MbId) (v : Word32) (s : State) : Kept s (execMbEventClear m v s) := by
  grind [execMbEventClear, kept_ok, keeps_unlessReserved, keeps_clearEvents, keeps_trans, keeps_refl]

theorem keeps_ringErr (s : State) (m : Nat) : Keeps s (s.ringErr m) := keeps_setMb s _ _

theorem keeps_writeCmdWin (s : State) (m i : Nat) (v : Word32) : Keeps s (s.writeCmdWin m i v) := by
  grind [State.writeCmdWin, keeps_ringErr, keeps_setMb, keeps_trans, keeps_refl]

theorem kept_execCmdWinWrite (m : MbId) (i : Fin 16) (v : Word32) (s : State) : Kept s (execCmdWinWrite m i v s) := by
  grind [execCmdWinWrite, kept_ok, keeps_unlessReserved, keeps_writeCmdWin, keeps_trans, keeps_refl]

theorem keeps_writeRspHead (s : State) (m : Nat) (v : Word32) : Keeps s (s.writeRspHead m v) := by
  grind [State.writeRspHead, keeps_drainWaiting, keeps_setMb, keeps_ringErr, keeps_trans, keeps_refl]

theorem kept_execRspHeadWrite (m : MbId) (v : Word32) (s : State) : Kept s (execRspHeadWrite m v s) := by
  grind [execRspHeadWrite, kept_ok, keeps_unlessReserved, keeps_writeRspHead, keeps_trans, keeps_refl]

theorem keeps_sidebandRead (s : State) : Keeps s (s.sidebandRead) := by
  grind [State.sidebandRead, keeps_setTap, keeps_trans, keeps_refl]

theorem kept_execLoRegisterRead (reg : RegName) (s : State) : Kept s (execLoRegisterRead reg s) := by
  cases reg <;> grind [execLoRegisterRead, kept_ok, keeps_sidebandRead, keeps_readReg, keeps_refl]

theorem keeps_accept (s : State) (who : SenderId) (rung : Nat) (c : BitVec 512) (got : Option (List Byte)) :
    Keeps s (s.accept who rung c got) := by
  grind [State.accept, keeps_setHub, keeps_reply, keeps_trans, keeps_refl]

theorem keeps_relayOn (s : State) (who : SenderId) (c : BitVec 512) : Keeps s (s.relayOn who c) := by
  grind [State.relayOn, keeps_setHub, keeps_reply, keeps_trans, keeps_refl]

theorem keeps_takeCommand (s : State) (who : SenderId) (rung : Nat) (c : BitVec 512) (got : Option (List Byte)) :
    Keeps s (s.takeCommand who rung c got) := by
  grind [State.takeCommand, keeps_reply, keeps_relayOn, keeps_accept, keeps_trans, keeps_refl]

theorem keeps_readSlot (s : State) (b : Bell) : Keeps s (s.readSlot b).2 := by
  grind [State.readSlot, keeps_setHub, keeps_setMb, keeps_trans, keeps_refl]

theorem keeps_beginTaking (s : State) (b : Bell) (need : Nat × Nat) (before : List (Byte × Bool)) : Keeps s (s.beginTaking b need before) :=
  keeps_trans (keeps_setHub s _) (keeps_hubRequest _ _ _ _)

theorem keeps_takeWaiting (fuel : Nat) : ∀ s : State, Keeps s (State.takeWaiting fuel s) := by
  induction fuel with
  | zero => exact keeps_refl
  | succ fuel ih =>
    intro s
    unfold State.takeWaiting
    grind [keeps_setHub, keeps_takeCommand, keeps_beginTaking, keeps_readSlot, keeps_trans, keeps_refl]

theorem keeps_takeAll (s : State) : Keeps s (s.takeAll) := keeps_takeWaiting _ s

theorem keeps_ringDoorbell (s : State) (m : Nat) (v : Word32) : Keeps s (s.ringDoorbell m v) := by
  grind [State.ringDoorbell, keeps_setMb, keeps_takeAll, keeps_setHub, keeps_ringErr, keeps_trans, keeps_refl]

theorem kept_execCmdTailWrite (m : MbId) (v : Word32) (s : State) : Kept s (execCmdTailWrite m v s) := by
  grind [execCmdTailWrite, kept_ok, keeps_unlessReserved, keeps_ringDoorbell, keeps_trans, keeps_refl]

theorem kept_execCommandSelect (s : State) : Kept s (execCommandSelect s) := by
  grind [execCommandSelect, kept_ok, keeps_takeAll, keeps_setHub, keeps_trans, keeps_refl]

theorem keeps_writeMb (s : State) (m off : Nat) (v : Word32) : Keeps s (s.writeMb m off v) := by
  unfold State.writeMb
  grind [keeps_writeCmdWin, keeps_ringDoorbell, keeps_writeRspHead, keeps_setMb, keeps_clearEvents, keeps_refl]

theorem keeps_sidebandWrite (s : State) (p : SidebandPart) (b : Byte) : Keeps s (s.sidebandWrite p b) := by
  unfold State.sidebandWrite
  split
  · exact keeps_setTap s _
  · exact keeps_setTap s _
  · split
    · exact keeps_refl s
    · extract_lets l1 s1 i off
      split
      · exact keeps_setTap s _
      · exact keeps_trans (keeps_setTap s _) (keeps_writeMb _ _ _ _)

theorem kept_execRegisterWrite (reg : RegName) (v : Word32) (s : State) : Kept s (execRegisterWrite reg v s) := by
  cases reg <;> grind [execRegisterWrite, kept_ok, keeps_unlessReserved, keeps_writeMb, keeps_setArray, keeps_sidebandWrite, keeps_refl]

theorem kept_execIdentify (s : State) : Kept s (execIdentify s) := by
  grind [execIdentify, kept_ok, keeps_finish, keeps_trans, keeps_refl]

theorem keeps_endSnap (s : State) (j : SnapJob) (fine whole : Bool) (bytes : Nat) : Keeps s (s.endSnap j fine whole bytes) :=
  keeps_trans (keeps_setHub s _) (keeps_completeCmd _ _ _ _ _ _ _)

theorem keeps_answerSnap (s : State) (j : SnapJob) : Keeps s (s.answerSnap j) := by
  grind [State.answerSnap, keeps_setHub, keeps_finish, keeps_endSnap, keeps_hubRequest, keeps_trans, keeps_refl]

theorem keeps_beginSnap (s : State) (op : Nat) : Keeps s (s.beginSnap op) := by
  grind [State.beginSnap, keeps_setHub, keeps_background, keeps_trans, keeps_refl]

theorem kept_execSnapshotLatch (s : State) : Kept s (execSnapshotLatch s) := by
  grind [execSnapshotLatch, kept_ok, keeps_endSnap, keeps_setBeat, keeps_answerSnap, keeps_trans, keeps_refl]

theorem kept_execGetCongestionMap (s : State) : Kept s (execGetCongestionMap s) := by
  grind [execGetCongestionMap, kept_ok, keeps_finish, keeps_forAll, keeps_setFab, keeps_beginBuf, keeps_trans, keeps_refl]

theorem kept_execReadLog (s : State) : Kept s (execReadLog s) := by
  grind [execReadLog, kept_ok, keeps_finish, keeps_beginBuf, keeps_trans, keeps_refl]

/-- Clearing takes records away from a log. -/
theorem kept_execClearLog (s : State) : Kept s (execClearLog s) := by
  have hao : ∀ p, Keeps s { s with aoLog := s.aoLog.filter p } := fun p =>
    ⟨rfl, rfl, fun ⟨hm, hl, ha, hb⟩ => ⟨hm, hl, (List.length_filter_le _ _).trans ha, hb⟩⟩
  have hhub : ∀ p, Keeps s { s with hubLog := s.hubLog.filter p } := fun p =>
    ⟨rfl, rfl, fun ⟨hm, hl, ha⟩ => ⟨hm, (List.length_filter_le _ _).trans hl, ha⟩⟩
  unfold execClearLog
  split
  · exact keeps_refl s
  · extract_lets past
    split
    · exact kept_ok (keeps_trans (hao _) (keeps_finish _ _ _ _ _))
    · exact kept_ok (keeps_trans (hhub _) (keeps_finish _ _ _ _ _))

theorem kept_execCopy (s : State) : Kept s (execCopy s) := by
  grind [execCopy, kept_ok, keeps_finish, keeps_background, keeps_setChannel, keeps_trans, keeps_refl]

theorem kept_execCopyAbort (s : State) : Kept s (execCopyAbort s) := by
  grind [execCopyAbort, kept_ok, keeps_finish, keeps_requestStop, keeps_trans, keeps_refl]

theorem kept_execDrainFabric (s : State) : Kept s (execDrainFabric s) := by
  grind [execDrainFabric, kept_ok, keeps_background, keeps_setHub, keeps_trans, keeps_refl]

theorem kept_execResumeFabric (s : State) : Kept s (execResumeFabric s) := by
  grind [execResumeFabric, kept_ok, keeps_setHub, keeps_completeCmd, keeps_forAll, keeps_pumpEngine, keeps_finish, keeps_foldl,
    keeps_trans, keeps_refl]

theorem keeps_relayArrives (s : State) (q : CubePort) (response : Bool) (slot : BitVec 512) : Keeps s (s.relayArrives q response slot) := by
  grind [State.relayArrives, keeps_postSlot, keeps_setHub, keeps_takeAll, keeps_trans, keeps_refl]

theorem kept_execRelayTimeout (m : MbId) (tag : BitVec 16) (s : State) : Kept s (execRelayTimeout m tag s) := by
  grind [execRelayTimeout, kept_ok, keeps_postSlot, keeps_setHub, keeps_trans, keeps_refl]

theorem kept_execMailboxNotify (m : MbId) (s : State) : Kept s (execMailboxNotify m s) := by
  grind [execMailboxNotify, keeps_setMb, kept_ok, keeps_hubRequest, keeps_request, keeps_trans, keeps_refl]

theorem keeps_dropCommand (s : State) (o : OpenCmd) : Keeps s (s.dropCommand o) := by
  grind [State.dropCommand, keeps_dropJob, keeps_refreshShift, keeps_setHub, keeps_setPower, keeps_setBeat, keeps_foldl, keeps_withProg,
    keeps_trans, keeps_refl]

theorem kept_execCommandTimeout (m : SenderId) (tag : BitVec 16) (s : State) : Kept s (execCommandTimeout m tag s) := by
  grind [execCommandTimeout, kept_ok, keeps_dropCommand, keeps_requestStop, keeps_completeCmd, keeps_setChannel, keeps_trans,
    keeps_refl]

end Sys2Proof.Proofs
end

section
/-! Keeping through the fabric, the image and repairs. -/

namespace Sys2Proof.Proofs

open Sys2Proof Sys2Proof.Machine Sys2Proof.Laws

theorem keeps_noteCongestion (s : State) (f n : Nat) (g : Congestion → Congestion) : Keeps s (s.noteCongestion f n g) := keeps_setFab s _ _

theorem keeps_sendBlocks (s : State) (f w : Nat) (p : Packet) (bs : List (BitVec 257)) : Keeps s (s.sendBlocks f w p bs) := by
  grind [State.sendBlocks, keeps_sendControl, keeps_noteCongestion, keeps_transmit, keeps_setFifo, keeps_trans, keeps_refl]

theorem keeps_launch (s : State) (f w : Nat) (p : Packet) : Keeps s (s.launch f w p) :=
  keeps_trans (keeps_sendBlocks s _ _ _ _) (keeps_noteSent _ _ _ _)

theorem keeps_takeInput (s : State) (k i : Nat) (p : Packet) : Keeps s (s.takeInput k i p) := by
  grind [State.takeInput, keeps_setFifo, keeps_setFab, keeps_trans, keeps_refl]

theorem keeps_deliver (s : State) (k i : Nat) (p : Packet) : Keeps s (s.deliver k i p) := by
  grind [State.deliver, keeps_countBad, keeps_pushOut, keeps_relayArrives, keeps_setFab, keeps_trans, keeps_refl]

theorem keeps_makeMove (s : State) (k i : Nat) (m : Move) : Keeps s (s.makeMove k i m) := by
  unfold State.makeMove
  grind [keeps_launch, keeps_blocksAcross, keeps_deliver, keeps_setFab, keeps_countUnreach, keeps_pushOut, keeps_trans, keeps_refl]

theorem keeps_serveMove (s : State) (k i : Nat) (p : Packet) (m : Move) : Keeps s (s.serveMove k i p m) := by
  grind [State.serveMove, keeps_setFab, keeps_makeMove, keeps_takeInput, keeps_trans, keeps_refl]

theorem keeps_pumpFifo (s : State) (f w : Nat) (p : Packet) : Keeps s (s.pumpFifo f w p) := by
  grind [State.pumpFifo, keeps_setFifo, keeps_blocksAcross, keeps_sendBlocks, keeps_noteSent, keeps_deliver, keeps_trans, keeps_refl]

theorem keeps_startPacket (s : State) (k i : Nat) (p : Packet) (m : Move) : Keeps s (s.startPacket k i p m) := by
  unfold State.startPacket
  grind [keeps_setFab, keeps_setFifo, keeps_pumpFifo, keeps_trans, keeps_refl]

theorem keeps_idleLane (s : State) (f w : Nat) : Keeps s (s.idleLane f w) := by
  grind [State.idleLane, keeps_fillMultiframe, keeps_sendControl, keeps_trans, keeps_refl]

theorem kept_execPacketForward (k : LpId) (inp : FabricInput) (s : State) : Kept s (execPacketForward k inp s) := by
  unfold execPacketForward
  grind [kept_ok, keeps_pumpFifo, keeps_startPacket, keeps_serveMove, keeps_idleLane, keeps_refl]

theorem keeps_relayPacket (s : State) (k : Nat) (response : Bool) (slot : BitVec 512) : Keeps s (s.relayPacket k response slot).2 := by
  grind [State.relayPacket, keeps_setFab, keeps_trans, keeps_refl]

theorem keeps_sendRelay {s t : State} {k : Nat} (h : s.sendRelay k = some t) : Keeps s t := by
  unfold State.sendRelay at h
  grind [keeps_setHub, keeps_relayPacket, keeps_setFab, keeps_launch, keeps_trans]

theorem keeps_spendTokens (s : State) (k cls bytes : Nat) : Keeps s (s.spendTokens k cls bytes) := by
  grind [State.spendTokens, keeps_accrue, keeps_setFab, keeps_trans, keeps_refl]

theorem keeps_setIssuer (s : State) (k i : Nat) (x : IssuerState) : Keeps s (s.setIssuer k i x) := keeps_setFab s _ _

theorem keeps_respondRemote (s : State) (c : Nat) (id : Word32) (failed : Bool) (data : List Byte) (flags : List Bool) :
    Keeps s (s.respondRemote c id failed data flags) := by
  grind [State.respondRemote, keeps_setChannel, keeps_trans, keeps_refl]

theorem keeps_answerSource (s : State) (k : Nat) (reqId : Word32) (st : Nat) (data : List Byte) (mask : Word32) (off : Nat) :
    Keeps s (s.answerSource k reqId st data mask off) := by
  grind [State.answerSource, keeps_respondRemote, keeps_setIssuer, keeps_trans, keeps_refl]

theorem kept_execPacketInject (k : LpId) (cls : Fin 4) (s : State) : Kept s (execPacketInject k cls s) := by
  unfold execPacketInject
  grind [kept_ok, → keeps_sendRelay, keeps_setFab, keeps_answerSource, keeps_spendTokens, keeps_noteSending, keeps_trans, keeps_refl]

theorem keeps_takeRequest {s t : State} {k : Nat} {f : Packet → Bool} {x : Option FibreId} {p : Packet}
    (h : s.takeRequest k f = some (x, p, t)) : Keeps s t := by
  obtain ⟨_, -, he⟩ := Option.map_eq_some_iff.mp h
  cases he
  exact keeps_setFab s _ _

theorem keeps_controlLoad (s : State) (from_ : Option FibreId) (space off len : Nat) :
    Keeps s (s.controlLoad from_ space off len).2.2 := by
  unfold State.controlLoad
  split <;> exact keeps_refl s

theorem keeps_controlStore (s : State) (from_ : Option FibreId) (space off : Nat) (bs : List (Byte × Bool)) :
    Keeps s (s.controlStore from_ space off bs).2.2 := by
  unfold State.controlStore
  split
  · exact keeps_foldl _ (fun u i => keeps_writeMb u _ _ _) _ s
  · exact keeps_refl s

theorem keeps_answerRequest (k : Nat) (p : Packet) (r : Performed) : Keeps r.2.2 (State.answerRequest k p r) :=
  keeps_pushOut _ _ _

theorem keeps_atOnce {s t : State} {from_ : Option FibreId} {r : MemRequest} {st : Nat} {d : List (Byte × Bool)}
    (h : s.atOnce from_ r = some (st, d, t)) : Keeps s t := by
  unfold State.atOnce at h
  grind [keeps_controlStore, keeps_controlLoad, keeps_refl]

theorem keeps_serveRemote (s : State) (k : Nat) (kind : Packet → Bool) : Keeps s (s.serveRemote k kind) := by
  unfold State.serveRemote
  split
  · exact keeps_trans (keeps_setFab s _ _) (keeps_answerRequest _ _ _)
  · split
    case h_1 f p s1 h =>
      refine keeps_trans (keeps_takeRequest h) ?_
      split
      case h_1 r hr => exact keeps_trans (keeps_atOnce hr) (keeps_answerRequest _ _ _)
      case h_2 => exact keeps_trans (keeps_setFab s1 _ _) (keeps_enqueue _ _)
    case h_2 => exact keeps_refl s

theorem kept_execRemoteLoad (k : LpId) (s : State) : Kept s (execRemoteLoad k s) := by
  grind [execRemoteLoad, kept_ok, keeps_serveRemote, keeps_trans, keeps_refl]

theorem kept_execRemoteStore (k : LpId) (s : State) : Kept s (execRemoteStore k s) := by
  grind [execRemoteStore, kept_ok, keeps_serveRemote, keeps_trans, keeps_refl]

theorem keeps_remoteAtomic (s : State) (k aop : Nat) : Keeps s (s.remoteAtomic k aop) := keeps_serveRemote s _ _

theorem kept_execAtomicAdd (k : LpId) (s : State) : Kept s (execAtomicAdd k s) := by
  grind [execAtomicAdd, kept_ok, keeps_remoteAtomic, keeps_trans, keeps_refl]

theorem kept_execAtomicSwap (k : LpId) (s : State) : Kept s (execAtomicSwap k s) := by
  grind [execAtomicSwap, kept_ok, keeps_remoteAtomic, keeps_trans, keeps_refl]

theorem kept_execAtomicCas (k : LpId) (s : State) : Kept s (execAtomicCas k s) := by
  grind [execAtomicCas, kept_ok, keeps_remoteAtomic, keeps_trans, keeps_refl]

theorem kept_execAtomicMin (k : LpId) (s : State) : Kept s (execAtomicMin k s) := by
  grind [execAtomicMin, kept_ok, keeps_remoteAtomic, keeps_trans, keeps_refl]

theorem kept_execAtomicMax (k : LpId) (s : State) : Kept s (execAtomicMax k s) := by
  grind [execAtomicMax, kept_ok, keeps_remoteAtomic, keeps_trans, keeps_refl]

theorem kept_execAtomicMinu (k : LpId) (s : State) : Kept s (execAtomicMinu k s) := by
  grind [execAtomicMinu, kept_ok, keeps_remoteAtomic, keeps_trans, keeps_refl]

theorem kept_execAtomicMaxu (k : LpId) (s : State) : Kept s (execAtomicMaxu k s) := by
  grind [execAtomicMaxu, kept_ok, keeps_remoteAtomic, keeps_trans, keeps_refl]

theorem kept_execAtomicFadd (k : LpId) (s : State) : Kept s (execAtomicFadd k s) := by
  grind [execAtomicFadd, kept_ok, keeps_remoteAtomic, keeps_trans, keeps_refl]

theorem kept_execOperationRecord (k : LpId) (i : Fin 2) (s : State) : Kept s (execOperationRecord k i s) := by
  grind [execOperationRecord, kept_ok, keeps_takeOut, keeps_setIssuer, keeps_trans, keeps_refl]

theorem keeps_startRecord (s : State) (k i : Nat) (f : Flit) : Keeps s (s.startRecord k i f) := by
  unfold State.startRecord
  extract_lets r d x pkg open_ done
  have hopen : ∀ u id reply, Keeps u (open_ u id reply) := fun u _ _ => keeps_setIssuer u _ _ _
  have hdone : ∀ u st, Keeps u (done u st) := fun u st => hopen u _ _
  clear_value open_ done
  grind [→ keeps_atOnce, keeps_setIssuer, keeps_enqueue, keeps_request, keeps_trans]

theorem keeps_issueRecord (s : State) (k i op : Nat) : Keeps s (s.issueRecord k i op) := by
  grind [State.issueRecord, keeps_startRecord, keeps_setIssuer, keeps_trans, keeps_refl]

theorem kept_execOpLoad (k : LpId) (i : Fin 2) (s : State) : Kept s (execOpLoad k i s) := by
  grind [execOpLoad, kept_ok, keeps_issueRecord, keeps_trans, keeps_refl]

theorem kept_execOpStore (k : LpId) (i : Fin 2) (s : State) : Kept s (execOpStore k i s) := by
  grind [execOpStore, kept_ok, keeps_issueRecord, keeps_trans, keeps_refl]

theorem kept_execOpAtomic (k : LpId) (i : Fin 2) (s : State) : Kept s (execOpAtomic k i s) := by
  grind [execOpAtomic, kept_ok, keeps_issueRecord, keeps_trans, keeps_refl]

theorem kept_execOpFence (k : LpId) (i : Fin 2) (s : State) : Kept s (execOpFence k i s) := by
  grind [execOpFence, kept_ok, keeps_issueRecord, keeps_trans, keeps_refl]

theorem keeps_endRecord (s : State) (d i : Nat) (r : BitVec 512) (st : Nat) : Keeps s (s.endRecord d i r st) := by
  grind [State.endRecord, keeps_stepChunk, keeps_raiseFault, keeps_trans, keeps_refl]

theorem kept_execOpRecordComplete (k : LpId) (i : Fin 2) (n : Nat) (s : State) : Kept s (execOpRecordComplete k i n s) := by
  grind [execOpRecordComplete, kept_ok, keeps_endRecord, keeps_setIssuer, keeps_enqueue, keeps_trans, keeps_refl]

theorem kept_execReplyReceive (k : LpId) (s : State) : Kept s (execReplyReceive k s) := by
  unfold execReplyReceive
  grind [kept_ok, → keeps_takeLocal, keeps_setFab, keeps_answerSource, keeps_trans, keeps_refl]

theorem kept_execRequestTimeout (k : LpId) (reqId : Word32) (s : State) : Kept s (execRequestTimeout k reqId s) := by
  unfold execRequestTimeout
  split; · exact keeps_refl s
  split; · exact keeps_refl s
  grind [kept_ok, keeps_setFab, keeps_timeOutAccess, keeps_answerSource, keeps_trans]

theorem kept_execFabricDrained (s : State) : Kept s (execFabricDrained s) := by
  grind [execFabricDrained, kept_ok, keeps_completeCmd, keeps_trans, keeps_refl]

theorem kept_execCongestionSample (k : LpId) (s : State) : Kept s (execCongestionSample k s) := by
  grind [execCongestionSample, kept_ok, keeps_noteCongestion, keeps_foldl, keeps_trans, keeps_refl]

theorem keeps_writeSection (s : State) (i : ImageState) (g : Nat → Byte) (x : Section) (die : Nat) :
    Keeps s (s.writeSection i g x die).1 := by
  grind [State.writeSection, keeps_forAll, keeps_writeFresh, keeps_setDerailleur, keeps_trans, keeps_refl]

theorem keeps_writeShared (s : State) (i : ImageState) (g : Nat → Byte) (x : Section) : Keeps s (s.writeShared i g x).1 := by
  grind [State.writeShared, keeps_writeFresh, keeps_trans, keeps_refl]

theorem keeps_installImage (s : State) (g : Nat → Byte) : Keeps s (s.installImage g) := by
  unfold State.installImage
  extract_lets +onlyGivenNames total i0
  refine keeps_trans ?_ (keeps_withImage _ _)
  refine keeps_foldl_fst _ (fun u c x => ?_) _ s i0
  split
  · exact keeps_foldl_fst _ (fun v e d => keeps_writeSection v e g x d) _ u c
  · exact keeps_writeShared u c g x

theorem keeps_installFirmware (s : State) (g : Nat → Byte) : Keeps s (s.installFirmware g) := by
  grind [State.installFirmware, keeps_setPower, keeps_trans, keeps_refl]

theorem kept_execLoadImage (s : State) : Kept s (execLoadImage s) := by
  grind [execLoadImage, kept_ok, keeps_finish, keeps_beginBuf, keeps_installFirmware, keeps_installImage, keeps_trans, keeps_refl]

theorem keeps_repair (s : State) (op : Nat) (f : Accepted → Out) (h : ∀ c, Kept s (f c)) : Kept s (s.repair op f) := by
  unfold State.repair
  grind [kept_ok, keeps_finish, keeps_refl]

theorem kept_execRepairMap (s : State) : Kept s (execRepairMap s) := by
  grind [execRepairMap, keeps_repair, keeps_finish, kept_ok, keeps_trans, keeps_refl]

theorem kept_execRepairTest (failing : List Nat) (s : State) : Kept s (execRepairTest failing s) := by
  grind [execRepairTest, keeps_repair, keeps_draw, keeps_putBytes, keeps_setMark, kept_ok, keeps_finish, keeps_foldl, keeps_trans,
    keeps_refl]

theorem keeps_countRepair (s : State) (r : Repair) : Keeps s (s.countRepair r) := by
  grind [State.countRepair, keeps_setDmem, keeps_setStk, keeps_trans, keeps_refl]

theorem keeps_putSpare (s : State) (r : Repair) : Keeps s (s.putSpare r) := by
  grind [State.putSpare, keeps_countRepair, keeps_putBytes, keeps_setMark, keeps_foldl, keeps_withRepairs, keeps_trans, keeps_refl]

theorem keeps_leaveLost (s : State) (r : Repair) : Keeps s (s.leaveLost r) := by
  grind [State.leaveLost, keeps_setDmem, keeps_trans, keeps_refl]

theorem keeps_replace (s : State) (c : Accepted) (hard : Bool) : Keeps s (s.replace c hard) := by
  grind [State.replace, keeps_finish, keeps_leaveLost, keeps_putSpare, keeps_trans, keeps_refl]

theorem keeps_calStepped (s : State) (n : Nat) : Keeps s (s.calStepped n) := by
  grind [State.calStepped, keeps_setPower, keeps_trans, keeps_refl]

theorem kept_execCalSave (s : State) : Kept s (execCalSave s) := by
  have hcal (u : State) (b : Bool) (x : Option CalBank) : Keeps u (u.setPower (u.power.setCal b x)) :=
    keeps_withPower u _ (by cases b <;> rfl)
  have hload (u : State) (b : Option Bool) : Keeps u (u.setPower { u.power with loadedCal := b }) := keeps_withPower u _ rfl
  unfold execCalSave
  split; · exact keeps_refl s
  extract_lets b bank failed
  have hfailed : ∀ u, Keeps u (failed u) := fun u => keeps_trans (keeps_calStepped u 0) (keeps_finish _ _ _ _ _)
  clear_value failed bank
  split
  · exact kept_ok (keeps_trans (hcal s _ _) (keeps_calStepped _ _))
  · exact kept_ok (keeps_trans (hcal s _ _) (keeps_calStepped _ _))
  · grind [kept_ok, keeps_draw, keeps_calStepped, keeps_trans]
  · exact kept_ok (keeps_trans (hcal s _ _) (keeps_calStepped _ _))
  · grind [kept_ok, keeps_draw, keeps_calStepped, keeps_finish, keeps_trans]

end Sys2Proof.Proofs
end

section
/-! Keeping through resets, power, thermal control and the pins. -/

namespace Sys2Proof.Proofs

open Sys2Proof Sys2Proof.Machine Sys2Proof.Laws

theorem keeps_resetCompute (s : State) : Keeps s s.resetCompute :=
  ⟨rfl, rfl, fun ⟨hm, hl, ha, _, hp⟩ => ⟨hm, hl, ha, rfl, hp⟩⟩

theorem keeps_resetLightplane (s : State) : Keeps s s.resetLightplane := keeps_of rfl rfl rfl rfl rfl rfl rfl

theorem keeps_resetHub (s : State) : Keeps s s.resetHub := by
  unfold State.resetHub
  extract_lets s1
  have h1 : Keeps s s1 := by
    unfold s1
    split
    · exact keeps_clearRepaired s
    · exact keeps_refl s
  exact keeps_trans h1 ⟨rfl, rfl, fun ⟨hm, _, ha⟩ => ⟨hm, Nat.zero_le _, ha⟩⟩

theorem keeps_resetPower (s : State) : Keeps s s.resetPower :=
  ⟨rfl, rfl, fun ⟨hm, hl, ha, hb, _⟩ => ⟨hm, hl, ha, hb, show 1 ≤ 1 by omega, show 1 ≤ 4 by omega⟩⟩

theorem keeps_warmReset (s : State) (source : Nat) : Keeps s (s.warmReset source) :=
  keeps_trans (keeps_trans (keeps_resetCompute s) (keeps_resetLightplane _))
    (keeps_trans (keeps_resetHub _) (keeps_trans (keeps_resetPower _) (keeps_logEvent _ _ _ _ _ _)))

theorem kept_execWarmReset (s : State) : Kept s (execWarmReset s) := by
  grind [execWarmReset, kept_ok, keeps_warmReset, keeps_setPower, keeps_trans, keeps_refl]

theorem kept_execColdReset (vaoUp : Bool) (s : State) : Kept s (execColdReset vaoUp s) := by
  unfold execColdReset
  refine kept_ok ?_
  split
  · exact ⟨rfl, rfl, fun _ => ⟨rfl, Nat.zero_le _, Nat.zero_le _, rfl, show 1 ≤ 1 from le_rfl, show 1 ≤ 4 by omega⟩⟩
  · exact ⟨rfl, rfl, fun ⟨_, _, ha, _⟩ => ⟨rfl, Nat.zero_le _, ha, rfl, show 1 ≤ 1 from le_rfl, show 1 ≤ 4 by omega⟩⟩

theorem keeps_resetDomain (s : State) (code : Nat) (effect : State → Nat → State) (h : ∀ u i, Keeps u (effect u i)) :
    Kept s (s.resetDomain code effect) := by
  have hpower (u : State) (r : List (ResetDomain × Nat)) (q : List (ResetDomain × Nat)) :
      Keeps u (u.setPower { u.power with resets := r, resync := q }) := keeps_withPower u _ rfl
  unfold State.resetDomain
  split; · exact keeps_refl s
  next c _ =>
  split; · exact keeps_refl s
  extract_lets +onlyGivenNames i force stops
  split; · exact keeps_refl s
  split; · exact kept_ok (keeps_finish s _ _ _ _)
  split; · exact kept_ok (keeps_setBeat s _ id)
  extract_lets +onlyGivenNames s1 s2 p s3
  have h1 : Keeps s s1 := by
    unfold s1
    split
    · exact keeps_trans (keeps_endOpen s _) (keeps_programStopped _)
    · exact keeps_refl s
  have h2 : Keeps s1 s2 := keeps_trans (keeps_logEvent s1 _ _ _ _ _) (h _ _)
  have h3 : Keeps s2 s3 := hpower s2 _ _
  exact kept_ok (keeps_trans (keeps_trans h1 h2) (keeps_trans h3 (keeps_background s3)))

theorem keeps_failAll (s : State) (q : List ServantReq) : Keeps s (s.failAll q) := keeps_foldl _ (fun u _ => keeps_respond u _ _ _) _ s

theorem keeps_resetVaults (s : State) (d : Nat) : Keeps s (s.resetVaults d) :=
  keeps_trans (keeps_foldl _ (fun u _ => keeps_trans (keeps_setVault u _ _) (keeps_failAll _ _)) _ s)
    (keeps_forAll _ _ _ (fun u _ => keeps_resetChannel u _))

theorem keeps_resetStack (s : State) (t : Nat) : Keeps s (s.resetStack t) := keeps_trans (keeps_setStk s _ _) (keeps_failAll _ _)

theorem keeps_flushNow (s : State) (f w : Nat) : Keeps s (s.flushNow f w) := by
  grind [State.flushNow, keeps_setFifo, keeps_flushFifo, keeps_trans, keeps_refl]

theorem keeps_resetFab (s : State) (k : Nat) : Keeps s (s.resetFab k) := by
  grind [State.resetFab, keeps_forAll, keeps_flushNow, keeps_setFab, keeps_setEngine, keeps_abortEngine, keeps_setLaser,
    keeps_repeatFrom, keeps_withLocalReqs, keeps_withRings, keeps_trans, keeps_refl]

theorem kept_execResetDomainVault (s : State) : Kept s (execResetDomainVault s) :=
  keeps_resetDomain s _ _ (fun u _ => keeps_resetVaults u _)

theorem kept_execResetDomainStk (s : State) : Kept s (execResetDomainStk s) := keeps_resetDomain s _ _ (fun u _ => keeps_resetStack u _)

theorem kept_execResetDomainCap (s : State) : Kept s (execResetDomainCap s) := keeps_resetDomain s _ _ (fun u _ => keeps_resetStack u _)

theorem kept_execResetDomainFab (s : State) : Kept s (execResetDomainFab s) := keeps_resetDomain s _ _ (fun u _ => keeps_resetFab u _)

theorem kept_execResetDomainPtx (s : State) : Kept s (execResetDomainPtx s) := keeps_resetDomain s _ _ (fun u _ => keeps_repeatFrom u _ _)

theorem kept_execResetDomainPrx (s : State) : Kept s (execResetDomainPrx s) :=
  keeps_resetDomain s _ _ (fun u _ => keeps_trans
    (keeps_forAll u _ _ (fun u _ => keeps_trans (keeps_dataLost u _ _) (keeps_setWave _ _ _ _))) (keeps_repeatFrom _ _ _))

theorem kept_execResetDomainCad (s : State) : Kept s (execResetDomainCad s) :=
  keeps_resetDomain s _ _ (fun u _ => keeps_trans (keeps_setMach u _) (keeps_darkSteered _))

theorem kept_execResetDomainSense (s : State) : Kept s (execResetDomainSense s) := keeps_resetDomain s _ _ (fun u _ => keeps_setTherm u _)

theorem keeps_retrain (s : State) (t : Nat) : Keeps s (s.retrain t) := by
  grind [State.retrain, keeps_draw, keeps_setStk, keeps_trans, keeps_refl]

theorem keeps_serveDomain (s : State) (dom : ResetDomain) : Keeps s (s.serveDomain dom) := by
  cases dom <;> grind [State.serveDomain, keeps_setDmem, keeps_retrain, keeps_setMach, keeps_refl]

theorem kept_execDomainReady (dom : ResetDomain) (s : State) : Kept s (execDomainReady dom s) := by
  grind [execDomainReady, kept_ok, keeps_completeCmd, keeps_serveDomain, keeps_setPower, keeps_trans, keeps_refl]

theorem keeps_emptyCrossing (s : State) (dom : ResetDomain) : Keeps s (s.emptyCrossing dom) := by
  cases dom
  case fab => exact keeps_of rfl rfl rfl rfl rfl rfl rfl
  all_goals exact keeps_refl s

theorem emptyCrossing_power (s : State) (dom : ResetDomain) : (s.emptyCrossing dom).power = s.power := by
  cases dom <;> rfl

theorem kept_execFifoResync (dom : ResetDomain) (s : State) : Kept s (execFifoResync dom s) := by
  grind [execFifoResync, kept_ok, keeps_emptyCrossing, emptyCrossing_power, State.setPower, keeps_withPower, keeps_trans, keeps_refl]

theorem keeps_railEvent (s : State) (n code cause : Nat) : Keeps s (s.railEvent n code cause) :=
  keeps_trans (keeps_setRail s _ _) (keeps_log _ _ _ _ _ _ _)

theorem keeps_beginPowerDown (s : State) : Keeps s (s.beginPowerDown) := by
  grind [State.beginPowerDown, keeps_setPower, keeps_setBeat, keeps_withLasers, keeps_trans, keeps_refl]

theorem keeps_hubCheck (s : State) (code detail : Nat) : Keeps s (s.hubCheck code detail) := by
  grind [State.hubCheck, keeps_log, keeps_setBeat, keeps_trans, keeps_refl]

theorem keeps_shutDown (s : State) : Keeps s (s.shutDown) := by
  grind [State.shutDown, keeps_beginPowerDown, keeps_withPower, keeps_withStage, keeps_trans, keeps_refl]

theorem keeps_busFailed (s : State) (n : Nat) : Keeps s (s.busFailed n) := keeps_trans (keeps_railEvent s _ _ _) (keeps_shutDown _)

theorem keeps_unpowered (s : State) (g : Nat) : Keeps s (s.unpowered g) := by
  grind [State.unpowered, keeps_resetLightplane, keeps_setPower, keeps_resetCompute, keeps_trans, keeps_refl]

theorem keeps_stopForPower (s : State) : Keeps s (s.stopForPower) := by
  grind [State.stopForPower, keeps_programStopped, keeps_abortAll, keeps_setBeat, keeps_trans, keeps_refl]

theorem kept_execRailGroupPowerDown (grp : RailGroup) (pgLow : Bool) (s : State) : Kept s (execRailGroupPowerDown grp pgLow s) := by
  grind [execRailGroupPowerDown, kept_ok, keeps_setBeat, keeps_stopForPower, keeps_setRail, keeps_unpowered, keeps_setPower,
    keeps_foldl, keeps_trans, keeps_refl]

theorem kept_execRailFaultPowerDown (n : RailId) (cause : Fin 2) (s : State) : Kept s (execRailFaultPowerDown n cause s) := by
  have hdown (u : State) (r : SMap RailState) : Keeps u (u.setPower { u.power with downGroup := none, clocks := false, rails := r }) :=
    keeps_withPower u _ rfl
  unfold execRailFaultPowerDown
  split; · exact keeps_refl s
  extract_lets +onlyGivenNames x late early
  refine kept_ite _ ?_ (keeps_refl s)
  · extract_lets +onlyGivenNames s1
    have h1 : Keeps s s1 := by
      unfold s1
      split
      · exact keeps_setRail s _ _
      · exact keeps_refl s
    refine kept_ok (keeps_trans (keeps_trans h1 (hdown s1 (SMap.update {} s1.power.rails fun _ r => r.dropped))) ?_)
    exact keeps_trans (keeps_resetLightplane _) (keeps_trans (keeps_resetCompute _) (keeps_railEvent _ _ _ _))

theorem kept_execRailLoss (n : RailId) (s : State) : Kept s (execRailLoss n s) := by
  grind [execRailLoss, kept_ok, keeps_shutDown, keeps_hubCheck, keeps_setRail, keeps_trans, keeps_refl]

theorem keeps_unitTruingFailed (s : State) (unitKind die unit step cause : Nat) :
    Keeps s (s.unitTruingFailed unitKind die unit step cause) := by
  grind [State.unitTruingFailed, keeps_logEvent, keeps_forAll, keeps_disablePort, keeps_withLasers, keeps_withPower, keeps_trans,
    keeps_refl]

theorem keeps_truingFailed (s : State) (step cause : Nat) : Keeps s (s.truingFailed step cause) := keeps_unitTruingFailed s _ _ _ _ _

theorem keeps_linkTruingFailed (s : State) (l cause : Nat) : Keeps s (s.linkTruingFailed l cause) := keeps_unitTruingFailed s _ _ _ _ _

theorem keeps_dieTruingFailed (s : State) (d : Nat) : Keeps s (s.dieTruingFailed d) := keeps_unitTruingFailed s _ _ _ _ _

theorem keeps_railFailed (s : State) (n cause : Nat) : Keeps s (s.railFailed n cause) :=
  keeps_trans (keeps_trans (keeps_railEvent s _ _ _) (keeps_beginPowerDown _)) (keeps_truingFailed _ _ _)

theorem kept_execRailGroupPowerUp (grp : RailGroup) (vout : List Nat) (s : State) : Kept s (execRailGroupPowerUp grp vout s) := by
  have hrails {β : Type} (f : State → β → Nat) (g : State → β → RailState) (l : List β) (u : State) :
      Keeps u (l.foldl (fun s x => s.setRail (f s x) (g s x)) u) := keeps_foldl _ (fun u _ => keeps_setRail u _ _) l u
  have hgroup (u : State) (x : Option (Nat × Nat)) : Keeps u (u.setPower { u.power with upGroup := x }) := keeps_withPower u _ rfl
  have hup (u : State) (g : Nat) : Keeps u (u.setPower { u.power with upGroup := none, groupsUp := g }) := keeps_withPower u _ rfl
  unfold execRailGroupPowerUp
  extract_lets +onlyGivenNames g
  split; · exact keeps_refl s
  split
  · split; · exact keeps_refl s
    exact kept_ok (keeps_trans (hrails _ _ _ s) (hgroup _ _))
  · split; · exact keeps_refl s
    split; · exact kept_ok (keeps_railFailed s _ _)
    extract_lets +onlyGivenNames reads s1
    have h1 : Keeps s s1 := hrails _ _ _ s
    split
    · exact kept_ok (keeps_trans h1 (keeps_railFailed _ _ _))
    · exact kept_ok (keeps_trans (keeps_trans h1 (hrails _ _ _ _)) (hup _ _))

theorem kept_execRailGroupTimeout (n : RailId) (cause : Fin 3) (s : State) : Kept s (execRailGroupTimeout n cause s) := by
  grind [execRailGroupTimeout, kept_ok, keeps_railFailed, keeps_trans, keeps_refl]

theorem keeps_enterKickstand (s : State) (straps : BitVec 4) : Keeps s (s.enterKickstand straps) := by
  grind [State.enterKickstand, keeps_setPower, keeps_setRail, keeps_trans, keeps_refl]

theorem kept_execPwrokAoRise (straps : BitVec 4) (s : State) : Kept s (execPwrokAoRise straps s) := by
  grind [execPwrokAoRise, kept_ok, keeps_enterKickstand, keeps_withPower, keeps_trans, keeps_refl]

theorem kept_execResetNRelease (straps : BitVec 4) (s : State) : Kept s (execResetNRelease straps s) := by
  grind [execResetNRelease, kept_ok, keeps_enterKickstand, keeps_withPower, keeps_trans, keeps_refl]

theorem kept_execStrap0Fall (s : State) : Kept s (execStrap0Fall s) := by
  grind [execStrap0Fall, kept_ok, keeps_setPower, keeps_trans, keeps_refl]

theorem keeps_startBank (s : State) (b : Bool) : Keeps s (s.startBank b) := by
  grind [State.startBank, keeps_setPower, keeps_trans, keeps_refl]

theorem keeps_loadCalibration (s : State) : Keeps s (s.loadCalibration) := by
  grind [State.loadCalibration, keeps_setPower, keeps_forAll, keeps_setSetting, keeps_logEvent, keeps_trans, keeps_refl]

theorem keeps_beginTruing (s : State) : Keeps s s.beginTruing := by
  unfold State.beginTruing
  split
  · grind [keeps_withPower, keeps_logEvent, keeps_trans, keeps_refl]
  · extract_lets s1 s2 s3
    have h1 : Keeps s s1 := keeps_startBank s _
    have h2 : Keeps s1 s2 := by grind [keeps_logEvent, keeps_refl]
    have h3 : Keeps s2 s3 := keeps_loadCalibration s2
    clear_value s3
    exact keeps_trans (keeps_trans h1 (keeps_trans h2 h3))
      ⟨rfl, rfl, fun ⟨hm, hl, ha, hb, _⟩ => ⟨hm, hl, ha, hb, show 1 ≤ 2 by omega, show 2 ≤ 4 by omega⟩⟩

theorem kept_execFirmwareWatchdog (s : State) : Kept s (execFirmwareWatchdog s) := by
  unfold execFirmwareWatchdog
  split
  · extract_lets p s1 b
    have h1 : Keeps s s1 := ⟨rfl, rfl, id⟩
    clear_value s1
    have h2 (u : State) : Keeps u { u with
        power := { u.power with stage := 1, truingBegun := false, noBank := true }
        lasers := SMap.update {} u.lasers fun _ x => { x with req := false, fellAt := none } } :=
      ⟨rfl, rfl, fun ⟨hm, hl, ha, hb, _⟩ => ⟨hm, hl, ha, hb, show 1 ≤ 1 by omega, show 1 ≤ 4 by omega⟩⟩
    grind [kept_ok, keeps_startBank, keeps_logEvent, keeps_loadCalibration, keeps_trans]
  · exact keeps_refl s

theorem keeps_zeroMemory (s : State) : Keeps s s.zeroMemory := ⟨rfl, rfl, fun h => ⟨rfl, h.2⟩⟩

theorem keeps_trainStacks (s : State) (rates : List Nat) : Keeps s (s.trainStacks rates) :=
  keeps_forAll s _ _ (fun u _ => keeps_setStk u _ _)

theorem keeps_finishTruing (s0 : State) (rep : TruingReport) : Keeps s0 (s0.finishTruing rep) := by
  grind [State.finishTruing, keeps_setPower, keeps_truingFailed, keeps_dieTruingFailed, keeps_linkTruingFailed, keeps_zeroMemory,
    keeps_trainStacks, keeps_trans, keeps_refl]

theorem kept_execTruing (rep : TruingReport) (s : State) : Kept s (execTruing rep s) := by
  grind [execTruing, kept_ok, keeps_setPower, keeps_beginTruing, keeps_finishTruing, keeps_trans, keeps_refl]

theorem kept_execRefclkLoss (s : State) : Kept s (execRefclkLoss s) := by
  grind [execRefclkLoss, keeps_hubCheck, keeps_setPower, kept_ok, keeps_beginPowerDown, keeps_trans, keeps_refl]

theorem kept_execShutdownPowerDown (s : State) : Kept s (execShutdownPowerDown s) := by
  grind [execShutdownPowerDown, kept_ok, keeps_finish, keeps_shutDown, keeps_withHub, keeps_trans, keeps_refl]

theorem kept_execShutdownWarmRestart (straps : BitVec 4) (s : State) : Kept s (execShutdownWarmRestart straps s) := by
  unfold execShutdownWarmRestart
  split; · exact kept_ok (keeps_trans (keeps_warmReset s 1) (keeps_enterKickstand _ _))
  split
  · split
    · exact keeps_refl s
    · exact kept_ok (keeps_trans (keeps_finish s _ _ _ _) (keeps_trans (keeps_withHub _ _) (keeps_withPower _ _ rfl)))
  · exact keeps_refl s

theorem keeps_logSite (s : State) (i : Nat) (old new : SensorState) : Keeps s (s.logSite i old new) := by
  grind [State.logSite, keeps_logEvent, keeps_trans, keeps_refl]

theorem keeps_sampleAll (s : State) (ws : List ℤ) : Keeps s (s.sampleAll ws) :=
  keeps_trans (keeps_setTherm s _) (keeps_forAll _ _ _ (fun u _ => keeps_logSite u _ _ _))

theorem keeps_stopNow (s : State) : Keeps s (s.stopNow) := by
  grind [State.stopNow, keeps_programStopped, keeps_stopIdle, keeps_setTherm, keeps_trans, keeps_refl]

theorem keeps_orderlyStop (s : State) (logic : Bool) : Keeps s (s.orderlyStop logic) := by
  grind [State.orderlyStop, keeps_setTherm, keeps_completeStart, keeps_requestStop, keeps_stopNow, keeps_setBeat, keeps_foldl,
    keeps_withProg, keeps_trans, keeps_refl]

theorem keeps_logThrottle (s : State) (source idx thr old new : Nat) (t : ℤ) : Keeps s (s.logThrottle source idx thr old new t) := by
  grind [State.logThrottle, keeps_logEvent, keeps_trans, keeps_refl]

theorem keeps_loseVaults (s : State) (d : Nat) : Keeps s (s.loseVaults d) := keeps_trans (keeps_setEcc s _) (keeps_setDmem _ _ _)

theorem keeps_limitVault (s : State) (cold : Bool) (d : Nat) : Keeps s (s.limitVault cold d) := by
  grind [State.limitVault, keeps_setRefresh, keeps_setDmem, keeps_logThrottle, keeps_orderlyStop, keeps_log, keeps_loseVaults,
    keeps_trans, keeps_refl]

theorem keeps_limitLogic (s : State) (cold : Bool) (d : Nat) : Keeps s (s.limitLogic cold d) := by
  grind [State.limitLogic, keeps_setTherm, keeps_logThrottle, keeps_orderlyStop, keeps_log, keeps_shutDown, keeps_trans, keeps_refl]

theorem keeps_limitStack (s : State) (t : Nat) : Keeps s (s.limitStack t) := by
  grind [State.limitStack, keeps_setStk, keeps_logThrottle, keeps_orderlyStop, keeps_log, keeps_trans, keeps_refl]

theorem keeps_limitThermistor (s : State) (n : Nat) : Keeps s (s.limitThermistor n) := by
  grind [State.limitThermistor, keeps_setTherm, keeps_logThrottle, keeps_orderlyStop, keeps_log, keeps_trans, keeps_refl]

theorem kept_execSensorSample (samples : List ℤ) (s : State) : Kept s (execSensorSample samples s) := by
  grind [execSensorSample, kept_ok, keeps_stopNow, keeps_sampleAll, keeps_forAll, keeps_limitVault, keeps_limitLogic, keeps_limitStack,
    keeps_limitThermistor, keeps_trans, keeps_refl]

theorem keeps_regionStop (s : State) (k : Nat) : Keeps s (s.regionStop k) :=
  keeps_trans (keeps_dropLasers s) (keeps_forAll _ _ _ (fun u _ => keeps_trans (keeps_goDown u _) (keeps_holdDown _ _)))

theorem keeps_setRegion (s : State) (k st : Nat) (since : Option Nat) : Keeps s (s.setRegion k st since) := keeps_setTherm s _

theorem kept_execRegionHeaterControl (k : LpId) (s : State) : Kept s (execRegionHeaterControl k s) := by
  unfold execRegionHeaterControl
  extract_lets +onlyGivenNames sites l
  split; · exact keeps_refl s
  split; · exact keeps_refl s
  split
  next hot _ _ free s1 hd =>
  have hdraw := keeps_draw s
  rw [hd] at hdraw
  extract_lets +onlyGivenNames t s2 off near far cur note
  have h2 : Keeps s s2 := keeps_trans hdraw (keeps_setTherm s1 _)
  have hnote : ∀ u ev, Keeps u (note u ev) := fun u ev => keeps_logEvent u _ _ _ _ _
  clear_value s2 note cur far near
  have hset (u : State) (st : Nat) (x : Option Nat) (h : Keeps s u) : Keeps s (u.setRegion k st x) := keeps_trans h (keeps_setRegion u _ _ _)
  have hnote2 (ev : Nat) : Keeps s (note s2 ev) := keeps_trans h2 (hnote s2 ev)
  split; · exact kept_ok (keeps_trans (hset _ _ _ (hnote2 1)) (keeps_regionStop _ _))
  split
  · split
    · exact kept_ok (keeps_trans (hset _ _ _ (hnote2 2)) (keeps_repeatFrom _ _ _))
    · exact kept_ok h2
  split
  · refine kept_ok ?_
    split
    · exact hset _ _ _ h2
    · exact h2
  split
  · refine kept_ok ?_
    split
    · exact hset _ _ _ (hnote2 2)
    · exact h2
  split
  · extract_lets t
    split
    · exact kept_ok (hset _ _ _ (hnote2 0))
    · exact kept_ok (hset _ _ _ h2)
  · exact kept_ok (hset _ _ _ h2)

theorem keeps_brakeChanged (s : State) (old : Nat) : Keeps s (s.brakeChanged old) := by
  grind [State.brakeChanged, keeps_noteBrake, keeps_setBeat, keeps_trans, keeps_refl]

theorem keeps_readRails (s : State) (readings : List Reading) : Keeps s (s.readRails readings) := by
  grind [State.readRails, keeps_forAll, keeps_setRail, keeps_trans, keeps_refl]

theorem keeps_logPower (s : State) (old new : Bool) (watts : Nat) : Keeps s (s.logPower old new watts) := by
  grind [State.logPower, keeps_logEvent, keeps_trans, keeps_refl]

theorem kept_execPowerSample (readings : List Reading) (s : State) : Kept s (execPowerSample readings s) := by
  unfold execPowerSample
  split; · exact keeps_refl s
  extract_lets s1 sample t l sum now limit exceeds below low old holds rises falls t1 s2 failed
  have h2 : Keeps s s2 := keeps_trans (keeps_trans (keeps_readRails s _) (keeps_setTherm _ _))
    (keeps_trans (keeps_brakeChanged _ _) (keeps_logPower _ _ _ _))
  clear_value s2
  grind [kept_ok, keeps_railFailed, keeps_busFailed, keeps_trans]

theorem kept_execThermalBrakeStep (s : State) : Kept s (execThermalBrakeStep s) := by
  grind [execThermalBrakeStep, kept_ok, keeps_brakeChanged, keeps_setTherm, keeps_foldl, keeps_trans, keeps_refl]

theorem kept_execGearChange (s : State) : Kept s (execGearChange s) := by
  grind [execGearChange, kept_ok, keeps_refreshShift, keeps_setTherm, keeps_changeGear, keeps_trans, keeps_refl]

theorem kept_execTapInstruction (e : TapEvent) (s : State) : Kept s (execTapInstruction e s) := by
  unfold execTapInstruction
  grind [kept_ok, keeps_setTap, keeps_refl]

theorem kept_execDynamicAddressAssign (addr : BitVec 7) (s : State) : Kept s (execDynamicAddressAssign addr s) := by
  grind [execDynamicAddressAssign, kept_ok, keeps_setTap, keeps_trans, keeps_refl]

theorem kept_execSmbusClockLowTimeout (s : State) : Kept s (execSmbusClockLowTimeout s) := by
  grind [execSmbusClockLowTimeout, kept_ok, keeps_setTap, keeps_trans, keeps_refl]

end Sys2Proof.Proofs
end

section
/-! O60. Every command, and so every step, keeps the invariant. -/

namespace Sys2Proof.Proofs

open Sys2Proof Sys2Proof.Machine Sys2Proof.Laws

theorem exec_keeps (c : Instr) (s : State) : Kept s (exec c s) := by
  cases c with
  | nop _ => exact kept_ok (keeps_issueWord s _ _ _ _ (fun u _ _ => keeps_setArray u _ _))
  | pass _ => exact kept_ok (keeps_issueWord s _ _ _ _ (fun u _ _ => keeps_trans (keeps_setArray u _ _) (keeps_passBeat _ _)))
  | passBeatIssue g => exact kept_execPassBeatIssue g s
  | passBroadcast g => exact kept_execPassBroadcast g s
  | accumulatorWrite g => exact kept_execAccumulatorWrite g s
  | stream _ => exact kept_ok (keeps_issueWord s _ _ _ _ (fun u _ _ => keeps_setArray u _ _))
  | streamFetch g st => exact kept_execStreamFetch g st s
  | streamLineArrival g st => exact kept_execStreamLineArrival g st s
  | zero _ => exact kept_ok (keeps_issueWord s _ _ _ _ (fun u _ _ => keeps_setArray u _ _))
  | loadacc g => exact kept_execLoadacc g s
  | drain g => exact kept_execDrain g s
  | drainOutputWrite g => exact kept_execDrainOutputWrite g s
  | loop _ => exact kept_ok (keeps_controlWord s _ _)
  | endloop _ => exact kept_ok (keeps_controlWord s _ _)
  | wait g => exact kept_execWait g s
  | waitRelease u => exact kept_execWaitRelease u s
  | waitTimeout u => exact kept_execWaitTimeout u s
  | waitAborted u => exact kept_execWaitAborted u s
  | signal g => exact kept_execSignal g s
  | dummy _ => exact kept_ok (keeps_issueWord s _ _ _ _ (fun u _ _ => keeps_setArray u _ _))
  | freewheel _ => exact kept_ok (keeps_issueWord s _ _ _ _ (fun u _ _ => keeps_setArray u _ _))
  | freewheelWake g => exact kept_execFreewheelWake g s
  | park _ => exact kept_ok (keeps_issueWord s _ _ _ _ (fun u _ _ => keeps_setArray u _ _))
  | parkPowerGate g => exact kept_execParkPowerGate g s
  | unpark g => exact kept_execUnpark g s
  | unparkRampStart d => exact kept_execUnparkRampStart d s
  | unparkComplete g => exact kept_execUnparkComplete g s
  | endWord _ => exact kept_ok (keeps_issueWord s _ _ _ _ (fun u _ _ => keeps_setArray u _ _))
  | endClockGate g => exact kept_execEndClockGate g s
  | holdShaperDecay g => exact kept_execHoldShaperDecay g s
  | releaseNoticeRamp g => exact kept_execReleaseNoticeRamp g s
  | programFault => exact kept_execProgramFault s
  | faultHoldClear => exact kept_execFaultHoldClear s
  | holdDemandArrival => exact kept_execHoldDemandArrival s
  | brakeApply => exact kept_execBrakeApply s
  | servantCounterCrossing d st => exact kept_execServantCounterCrossing d st s
  | chainlineSlot _ => exact kept_ok (keeps_routerBeat s _ _)
  | chaxelFlitPresent r q => exact kept_execChaxelFlitPresent r q s
  | lightplaneFifoInbound r q flit => exact kept_execLightplaneFifoInbound r q flit s
  | servantChainlineRequest _ => exact kept_ok (keeps_routerBeat s _ _)
  | transitMove x dir => exact kept_execTransitMove x dir s
  | transitFlitArrival x dir flit => exact kept_execTransitFlitArrival x dir flit s
  | transitCreditReturn x dir => exact kept_execTransitCreditReturn x dir s
  | dtrigOpen _ => exact kept_ok (keeps_issueTrigger s _ _)
  | dtrigDispatch _ => exact kept_ok (keeps_issueTrigger s _ _)
  | dtrigVoid _ => exact kept_ok (keeps_issueTrigger s _ _)
  | dtrigCombine _ => exact kept_ok (keeps_issueTrigger s _ _)
  | derailleurPhaseStart d => exact kept_execDerailleurPhaseStart d s
  | routeLanding p => exact kept_execRouteLanding p s
  | assignment d => exact kept_execAssignment d s
  | dispatchSweep d out line => exact kept_execDispatchSweep d out line s
  | fillSweep d => exact kept_execFillSweep d s
  | voidArming d => exact kept_execVoidArming d s
  | voidWindowStart g => exact kept_execVoidWindowStart g s
  | combineSweep d out line => exact kept_execCombineSweep d out line s
  | taskRunStart p => exact kept_execTaskRunStart p s
  | runComplete p => exact kept_execRunComplete p s
  | budgetOverrun p => exact kept_execBudgetOverrun p s
  | untilRelease p => exact kept_execUntilRelease p s
  | add _ => exact kept_ok (keeps_issueS s _ _ _ _)
  | sub _ => exact kept_ok (keeps_issueS s _ _ _ _)
  | and _ => exact kept_ok (keeps_issueS s _ _ _ _)
  | or _ => exact kept_ok (keeps_issueS s _ _ _ _)
  | xor _ => exact kept_ok (keeps_issueS s _ _ _ _)
  | sll _ => exact kept_ok (keeps_issueS s _ _ _ _)
  | srl _ => exact kept_ok (keeps_issueS s _ _ _ _)
  | sra _ => exact kept_ok (keeps_issueS s _ _ _ _)
  | slt _ => exact kept_ok (keeps_issueS s _ _ _ _)
  | sltu _ => exact kept_ok (keeps_issueS s _ _ _ _)
  | min _ => exact kept_ok (keeps_issueS s _ _ _ _)
  | max _ => exact kept_ok (keeps_issueS s _ _ _ _)
  | mul _ => exact kept_ok (keeps_issueS s _ _ _ _)
  | mulh _ => exact kept_ok (keeps_issueS s _ _ _ _)
  | div _ => exact kept_ok (keeps_issueS s _ _ _ _)
  | divu _ => exact kept_ok (keeps_issueS s _ _ _ _)
  | rem _ => exact kept_ok (keeps_issueS s _ _ _ _)
  | remu _ => exact kept_ok (keeps_issueS s _ _ _ _)
  | addi _ => exact kept_ok (keeps_issueI s _ _ _ _ _)
  | andi _ => exact kept_ok (keeps_issueI s _ _ _ _ _)
  | ori _ => exact kept_ok (keeps_issueI s _ _ _ _ _)
  | xori _ => exact kept_ok (keeps_issueI s _ _ _ _ _)
  | slti _ => exact kept_ok (keeps_issueI s _ _ _ _ _)
  | lui _ => exact kept_ok (keeps_issueI s _ _ _ _ _)
  | shi _ => exact kept_ok (keeps_issueI s _ _ _ _ _)
  | lw _ => exact kept_ok (keeps_issueLoad s _ _ _ _)
  | lh _ => exact kept_ok (keeps_issueLoad s _ _ _ _)
  | lhu _ => exact kept_ok (keeps_issueLoad s _ _ _ _)
  | lb _ => exact kept_ok (keeps_issueLoad s _ _ _ _)
  | lbu _ => exact kept_ok (keeps_issueLoad s _ _ _ _)
  | sw _ => exact kept_ok (keeps_issueStore s _ _ _)
  | sh _ => exact kept_ok (keeps_issueStore s _ _ _)
  | sb _ => exact kept_ok (keeps_issueStore s _ _ _)
  | vld _ => exact kept_ok (keeps_issueOwn s _ _ _)
  | vst _ => exact kept_ok (keeps_issueOwn s _ _ _)
  | spokeStoreWrite p => exact kept_execSpokeStoreWrite p s
  | beq _ => exact kept_ok (keeps_issueBranch s _ _ _)
  | bne _ => exact kept_ok (keeps_issueBranch s _ _ _)
  | blt _ => exact kept_ok (keeps_issueBranch s _ _ _)
  | bge _ => exact kept_ok (keeps_issueBranch s _ _ _)
  | bltu _ => exact kept_ok (keeps_issueBranch s _ _ _)
  | bgeu _ => exact kept_ok (keeps_issueBranch s _ _ _)
  | jal _ => exact kept_ok (keeps_issueOwn s _ _ _)
  | jalr _ => exact kept_ok (keeps_issueOwn s _ _ _)
  | vfadd _ => exact kept_ok (keeps_issueV2 s _ _ _ _ _)
  | vfsub _ => exact kept_ok (keeps_issueV2 s _ _ _ _ _)
  | vfmul _ => exact kept_ok (keeps_issueV2 s _ _ _ _ _)
  | vfma _ => exact kept_ok (keeps_issueV s _ _ _ _ _ _ _ _ _)
  | vfnma _ => exact kept_ok (keeps_issueV s _ _ _ _ _ _ _ _ _)
  | vfmin _ => exact kept_ok (keeps_issueV2 s _ _ _ _ _)
  | vfmax _ => exact kept_ok (keeps_issueV2 s _ _ _ _ _)
  | vfabs _ => exact kept_ok (keeps_issueV1 s _ _ _ _ _)
  | vfneg _ => exact kept_ok (keeps_issueV1 s _ _ _ _ _)
  | vfscale _ => exact kept_ok (keeps_issueV2 s _ _ _ _ _)
  | vfexp _ => exact kept_ok (keeps_issueV1 s _ _ _ _ _)
  | vbfadd _ => exact kept_ok (keeps_issueV s _ _ _ _ _ _ _ _ _)
  | vbfmul _ => exact kept_ok (keeps_issueV s _ _ _ _ _ _ _ _ _)
  | vbfma _ => exact kept_ok (keeps_issueV s _ _ _ _ _ _ _ _ _)
  | vadd _ => exact kept_ok (keeps_issueV2 s _ _ _ _ _)
  | vsub _ => exact kept_ok (keeps_issueV2 s _ _ _ _ _)
  | vand _ => exact kept_ok (keeps_issueV2 s _ _ _ _ _)
  | vor _ => exact kept_ok (keeps_issueV2 s _ _ _ _ _)
  | vxor _ => exact kept_ok (keeps_issueV2 s _ _ _ _ _)
  | vshl _ => exact kept_ok (keeps_issueV2 s _ _ _ _ _)
  | vshr _ => exact kept_ok (keeps_issueV2 s _ _ _ _ _)
  | vsra _ => exact kept_ok (keeps_issueV2 s _ _ _ _ _)
  | vmull _ => exact kept_ok (keeps_issueV2 s _ _ _ _ _)
  | vmin _ => exact kept_ok (keeps_issueV2 s _ _ _ _ _)
  | vmax _ => exact kept_ok (keeps_issueV2 s _ _ _ _ _)
  | vsel _ => exact kept_ok (keeps_issueV s _ _ _ _ _ _ _ _ _)
  | vslide _ => exact kept_ok (keeps_issueV s _ _ _ _ _ _ _ _ _)
  | vfeq _ => exact kept_ok (keeps_issueCmp s _ _ _)
  | vflt _ => exact kept_ok (keeps_issueCmp s _ _ _)
  | vfle _ => exact kept_ok (keeps_issueCmp s _ _ _)
  | vieq _ => exact kept_ok (keeps_issueCmp s _ _ _)
  | vilt _ => exact kept_ok (keeps_issueCmp s _ _ _)
  | viltu _ => exact kept_ok (keeps_issueCmp s _ _ _)
  | vexp2 _ => exact kept_ok (keeps_issueV1 s _ _ _ _ _)
  | vlog2 _ => exact kept_ok (keeps_issueV1 s _ _ _ _ _)
  | vrsqrt _ => exact kept_ok (keeps_issueV1 s _ _ _ _ _)
  | vrcp _ => exact kept_ok (keeps_issueV1 s _ _ _ _ _)
  | vtanh _ => exact kept_ok (keeps_issueV1 s _ _ _ _ _)
  | vfrsum _ => exact kept_ok (keeps_issueV s _ _ _ _ _ _ _ _ _)
  | vfrmax _ => exact kept_ok (keeps_issueV s _ _ _ _ _ _ _ _ _)
  | vfrmin _ => exact kept_ok (keeps_issueV s _ _ _ _ _ _ _ _ _)
  | virsum _ => exact kept_ok (keeps_issueV s _ _ _ _ _ _ _ _ _)
  | vsort _ => exact kept_ok (keeps_issueOwn s _ _ _)
  | vmrg _ => exact kept_ok (keeps_issueOwn s _ _ _)
  | vfkey _ => exact kept_ok (keeps_issueV1 s _ _ _ _ _)
  | viota _ => exact kept_ok (keeps_issueV s _ _ _ _ _ _ _ _ _)
  | vcvtf8 _ => exact kept_ok (keeps_issueV s _ _ _ _ _ _ _ _ _)
  | vcvtbf _ => exact kept_ok (keeps_issueV s _ _ _ _ _ _ _ _ _)
  | vcvtbl _ => exact kept_ok (keeps_issueV1 s _ _ _ _ _)
  | vwid8 _ => exact kept_ok (keeps_issueWiden s _ _ _)
  | vwidb _ => exact kept_ok (keeps_issueWiden s _ _ _)
  | vf2i _ => exact kept_ok (keeps_issueV1 s _ _ _ _ _)
  | vi2f _ => exact kept_ok (keeps_issueV1 s _ _ _ _ _)
  | vsplat _ => exact kept_ok (keeps_issueOwn s _ _ _)
  | vins _ => exact kept_ok (keeps_issueOwn s _ _ _)
  | vmovx _ => exact kept_ok (keeps_issueOwn s _ _ _)
  | pand _ => exact kept_ok (keeps_issuePred s _ _ _ _)
  | por _ => exact kept_ok (keeps_issuePred s _ _ _ _)
  | pnot _ => exact kept_ok (keeps_issuePred s _ _ _ _)
  | pset _ => exact kept_ok (keeps_issueOwn s _ _ _)
  | pget _ => exact kept_ok (keeps_issueOwn s _ _ _)
  | spokeNop _ => exact kept_ok (keeps_issueOwn s _ _ _)
  | tend _ => exact kept_ok (keeps_issueOwn s _ _ _)
  | untilTask _ => exact kept_ok (keeps_issueOwn s _ _ _)
  | csrr _ => exact kept_ok (keeps_issueSpoke s _ _ _ (fun u _ => keeps_setSpoke u _ _))
  | csrw p => exact kept_execCsrw p s
  | spokeWait p => exact kept_execSpokeWait p s
  | spokeSignal _ => exact kept_ok (keeps_issueSpoke s _ _ _ (fun u _ => keeps_stepSignal u _ _ _))
  | rdcnt _ => exact kept_ok (keeps_issueSpoke s _ _ _ (fun u _ => keeps_setSpoke u _ _))
  | rwr p => exact kept_execRwr p s
  | qpush _ => exact kept_ok (keeps_issueSpoke s _ _ _ (fun u _ => keeps_setSpoke u _ _))
  | qpop p => exact kept_execQpop p s
  | cepost p => exact kept_execCepost p s
  | clpost p => exact kept_execClpost p s
  | refreshOp g => exact kept_execRefreshOp g s
  | vaultServantAccess g => exact kept_execVaultServantAccess g s
  | scrubRead g => exact kept_execScrubRead g s
  | scrubWriteback g => exact kept_execScrubWriteback g s
  | stackAccess t rep => exact kept_execStackAccess t rep s
  | capTurn t => exact kept_execCapTurn t s
  | capFlitReceive t err => exact kept_execCapFlitReceive t err s
  | descriptorFetch c => exact kept_execDescriptorFetch c s
  | copyAccessResponse c n => exact kept_execCopyAccessResponse c n s
  | copyAccessTimeout c n => exact kept_execCopyAccessTimeout c n s
  | descriptorComplete c => exact kept_execDescriptorComplete c s
  | channelStop c => exact kept_execChannelStop c s
  | chaxelGroupReceive e grp err crcErr => exact kept_execChaxelGroupReceive e grp err crcErr s
  | replayRequest e err => exact kept_execReplayRequest e err s
  | replayCheck e err crcErr => exact kept_execReplayCheck e err crcErr s
  | chxPhase e drift => exact kept_execChxPhase e drift s
  | holdWordReceive e x0 x1 x2 => exact kept_execHoldWordReceive e x0 x1 x2 s
  | linkTraining l rep => exact kept_execLinkTraining l rep s
  | alignmentMark l delays => exact kept_execAlignmentMark l delays s
  | beatZero => exact kept_execBeatZero s
  | frameReceive f w marker sequence payload => exact kept_execFrameReceive f w marker sequence payload s
  | codewordDecode f w => exact kept_execCodewordDecode f w s
  | steeringSlotStart k w slot => exact kept_execSteeringSlotStart k w slot s
  | burstReceive f w rep => exact kept_execBurstReceive f w rep s
  | truingWindow k ring lit sum cnt => exact kept_execTruingWindow k ring lit sum cnt s
  | ringFault k ring => exact kept_execRingFault k ring s
  | laserRequest n => exact kept_execLaserRequest n s
  | laserOkRise n => exact kept_execLaserOkRise n s
  | laserOkFall _ => exact kept_ok (keeps_setLaser s _ _)
  | laserFault n => exact kept_execLaserFault n s
  | interlockLow => exact kept_execInterlockLow s
  | interlockHigh => exact kept_execInterlockHigh s
  | portBringUp f ok => exact kept_execPortBringUp f ok s
  | portUp f => exact kept_execPortUp f s
  | portDown f => exact kept_execPortDown f s
  | blockReceive f w block => exact kept_execBlockReceive f w block s
  | creditReturn f w block => exact kept_execCreditReturn f w block s
  | cut f w => exact kept_execCut f w s
  | packetForward k inp => exact kept_execPacketForward k inp s
  | packetInject k cls => exact kept_execPacketInject k cls s
  | fifoUnderrun f w => exact kept_execFifoUnderrun f w s
  | fifoFlush f w => exact kept_execFifoFlush f w s
  | operationRecord k st => exact kept_execOperationRecord k st s
  | opLoad k st => exact kept_execOpLoad k st s
  | opStore k st => exact kept_execOpStore k st s
  | opAtomic k st => exact kept_execOpAtomic k st s
  | opFence k st => exact kept_execOpFence k st s
  | opRecordComplete k st n => exact kept_execOpRecordComplete k st n s
  | remoteLoad k => exact kept_execRemoteLoad k s
  | remoteStore k => exact kept_execRemoteStore k s
  | atomicAdd k => exact kept_execAtomicAdd k s
  | atomicSwap k => exact kept_execAtomicSwap k s
  | atomicCas k => exact kept_execAtomicCas k s
  | atomicMin k => exact kept_execAtomicMin k s
  | atomicMax k => exact kept_execAtomicMax k s
  | atomicMinu k => exact kept_execAtomicMinu k s
  | atomicMaxu k => exact kept_execAtomicMaxu k s
  | atomicFadd k => exact kept_execAtomicFadd k s
  | replyReceive k => exact kept_execReplyReceive k s
  | requestTimeout k reqId => exact kept_execRequestTimeout k reqId s
  | fabricDrained => exact kept_execFabricDrained s
  | congestionSample k => exact kept_execCongestionSample k s
  | discoverySend q => exact kept_execDiscoverySend q s
  | discoveryReceive _ _ => exact kept_ok (keeps_discoveryBlock s _ _)
  | discoveryWindowEnd => exact kept_execDiscoveryWindowEnd s
  | beaconSend q => exact kept_execBeaconSend q s
  | beaconReceive _ _ => exact kept_ok (keeps_beaconBlock s _ _)
  | parentLost => exact kept_execParentLost s
  | holdoverExpire => exact kept_execHoldoverExpire s
  | cadenceOutEdge => exact kept_ok (keeps_setMach s _)
  | collectiveTakePost k => exact kept_execCollectiveTakePost k s
  | collectiveStart k => exact kept_execCollectiveStart k s
  | gateOpen k slot dst chunk => exact kept_execGateOpen k slot dst chunk s
  | clData k => exact kept_execClData k s
  | clArrive k => exact kept_execClArrive k s
  | clRelease k => exact kept_execClRelease k s
  | clAbort k => exact kept_execClAbort k s
  | clCredit k => exact kept_execClCredit k s
  | clAck k => exact kept_execClAck k s
  | chunkResultStep k slot => exact kept_execChunkResultStep k slot s
  | collectiveClose k slot => exact kept_execCollectiveClose k slot s
  | collectiveStall k slot => exact kept_execCollectiveStall k slot s
  | collectiveDeadline k slot => exact kept_execCollectiveDeadline k slot s
  | collectiveAbort k slot => exact kept_execCollectiveAbort k slot s
  | abortResend k => exact kept_execAbortResend k s
  | cmdTailWrite m v => exact kept_execCmdTailWrite m v s
  | rspHeadWrite m v => exact kept_execRspHeadWrite m v s
  | cmdWinWrite m st v => exact kept_execCmdWinWrite m st v s
  | mbEventClear m v => exact kept_execMbEventClear m v s
  | registerWrite reg v => exact kept_execRegisterWrite reg v s
  | loRegisterRead reg => exact kept_execLoRegisterRead reg s
  | commandSelect => exact kept_execCommandSelect s
  | identify => exact kept_execIdentify s
  | getState => exact kept_ok (keeps_beginSnap s _)
  | snapshotLatch => exact kept_execSnapshotLatch s
  | readTelemetry => exact kept_ok (keeps_beginSnap s _)
  | getCongestionMap => exact kept_execGetCongestionMap s
  | readLog => exact kept_execReadLog s
  | clearLog => exact kept_execClearLog s
  | stage => exact kept_execStage s
  | check => exact kept_execCheck s
  | shift => exact kept_execShift s
  | shiftDemand => exact kept_execShiftDemand s
  | shiftInstant => exact kept_execShiftInstant s
  | discard => exact kept_execDiscard s
  | loadImage => exact kept_execLoadImage s
  | startProgram => exact kept_execStartProgram s
  | programBeatZero => exact kept_execProgramBeatZero s
  | stopProgram => exact kept_execStopProgram s
  | copy => exact kept_execCopy s
  | copyAbort => exact kept_execCopyAbort s
  | bindPeloton => exact kept_execBindPeloton s
  | releasePeloton => exact kept_execReleasePeloton s
  | setWindows => exact kept_execSetWindows s
  | drainFabric => exact kept_execDrainFabric s
  | resumeFabric => exact kept_execResumeFabric s
  | calSave => exact kept_execCalSave s
  | repairMap => exact kept_execRepairMap s
  | repairTest failing => exact kept_execRepairTest failing s
  | repairSoft => exact keeps_repair s _ _ (fun _ => kept_ok (keeps_replace s _ _))
  | repairHard => exact keeps_repair s _ _ (fun _ => kept_ok (keeps_replace s _ _))
  | repairStatus => exact keeps_repair s _ _ (fun _ => kept_ok (keeps_finish s _ _ _ _))
  | setPowerLimit => exact kept_execSetPowerLimit s
  | resetDomainVault => exact kept_execResetDomainVault s
  | resetDomainStk => exact kept_execResetDomainStk s
  | resetDomainCap => exact kept_execResetDomainCap s
  | resetDomainFab => exact kept_execResetDomainFab s
  | resetDomainPtx => exact kept_execResetDomainPtx s
  | resetDomainPrx => exact kept_execResetDomainPrx s
  | resetDomainCad => exact kept_execResetDomainCad s
  | resetDomainSense => exact kept_execResetDomainSense s
  | domainReady dom => exact kept_execDomainReady dom s
  | fifoResync dom => exact kept_execFifoResync dom s
  | shutdownPowerDown => exact kept_execShutdownPowerDown s
  | shutdownWarmRestart straps => exact kept_execShutdownWarmRestart straps s
  | relayReceive _ _ _ => exact kept_ok (keeps_relayArrives s _ _ _)
  | relayTimeout m tag => exact kept_execRelayTimeout m tag s
  | mailboxNotify m => exact kept_execMailboxNotify m s
  | coldReset vaoUp => exact kept_execColdReset vaoUp s
  | warmReset => exact kept_execWarmReset s
  | strap0Fall => exact kept_execStrap0Fall s
  | truing rep => exact kept_execTruing rep s
  | railGroupPowerUp grp vout => exact kept_execRailGroupPowerUp grp vout s
  | railGroupTimeout n cause => exact kept_execRailGroupTimeout n cause s
  | railGroupPowerDown grp pgLow => exact kept_execRailGroupPowerDown grp pgLow s
  | railFaultPowerDown n cause => exact kept_execRailFaultPowerDown n cause s
  | railLoss n => exact kept_execRailLoss n s
  | firmwareWatchdog => exact kept_execFirmwareWatchdog s
  | refclkLoss => exact kept_execRefclkLoss s
  | sensorSample samples => exact kept_execSensorSample samples s
  | powerSample readings => exact kept_execPowerSample readings s
  | thermalBrakeStep => exact kept_execThermalBrakeStep s
  | gearChange => exact kept_execGearChange s
  | regionHeaterControl k => exact kept_execRegionHeaterControl k s
  | tapInstruction ir => exact kept_execTapInstruction ir s
  | commandTimeout m tag => exact kept_execCommandTimeout m tag s
  | resetNRelease straps => exact kept_execResetNRelease straps s
  | pwrokAoRise straps => exact kept_execPwrokAoRise straps s
  | voidWindowEnd g => exact kept_execVoidWindowEnd g s
  | dynamicAddressAssign addr => exact kept_execDynamicAddressAssign addr s
  | smbusClockLowTimeout => exact kept_execSmbusClockLowTimeout s

/-- Invariants carry over a command that `Kept` speaks of. -/
theorem inv_of_kept {s t : State} {o : Out} (h : Kept s o) (ho : o = .next t) (hs : s.Inv) : t.Inv := by
  subst ho
  exact h.2.2 hs

/-- One ns of wall time keeps the invariant: it moves the clock and what a passing instant settles. -/
theorem tick_keeps_inv {s : State} (h : s.Inv) : s.tick.Inv := h

/-- Settles O60, by one case per command: each command's `Keeps` lemma is put together from those of the functions that it calls, so the
invariant is followed through the model's own layers. -/
theorem everyStepKeepsTheInvariant : Obligations.EveryStepKeepsTheInvariant := by
  unfold Obligations.EveryStepKeepsTheInvariant
  intro s t hs hstep
  unfold step at hstep
  split at hstep
  · cases hstep
    exact tick_keeps_inv hs
  next c rest _ =>
    exact inv_of_kept (exec_keeps c { s with pending := rest }) hstep hs

end Sys2Proof.Proofs
end

section
/-! O10. A fault of a running program: its record, its demand, and what it leaves alone. -/

namespace Sys2Proof.Proofs

open Sys2Proof Sys2Proof.Machine Sys2Proof.Laws

/-- The last record of the hub log after an entry names the class, the code and the unit, and stands in this beat. -/
theorem log_last (s : State) (cls code unitKind die unit detail : Nat) :
    ∃ r, (s.log cls code unitKind die unit detail).hubLog.getLast? = some r ∧ r.cls = BitVec.ofNat 8 cls ∧ r.code = BitVec.ofNat 8 code ∧
      r.unitKind = BitVec.ofNat 8 unitKind ∧ r.die = BitVec.ofNat 8 die ∧ r.unit = BitVec.ofNat 16 unit ∧
      r.sched = s.beat.schedBeat ∧ r.wall = s.beat.wallBeat := by
  obtain ⟨f, hf⟩ := appendLog_last 4096 s.hubLog
    { seq := s.hubSeq, cls := BitVec.ofNat 8 cls, code := BitVec.ofNat 8 code, flags := if s.ordered = true then 2 else 0,
      unitKind := BitVec.ofNat 8 unitKind, cadence := BitVec.ofNat 64 s.cadStamp, sched := s.beat.schedBeat, wall := s.beat.wallBeat,
      die := BitVec.ofNat 8 die, unit := BitVec.ofNat 16 unit, detail := BitVec.ofNat 96 detail }
  unfold State.log
  simp only [noteLog_hubLog]
  by_cases h : cls = 1
  · simp only [if_pos h]
    exact ⟨_, hf, rfl, rfl, rfl, rfl, rfl, rfl, rfl⟩
  · simp only [if_neg h]
    exact ⟨_, hf, rfl, rfl, rfl, rfl, rfl, rfl, rfl⟩

theorem bitOf_or_shiftLeft_self (x : BitVec 8) (d : Nat) (hd : d < 8) : bitOf (x ||| ((1 : BitVec 8) <<< d)) d = true := by
  unfold bitOf
  rw [BitVec.testBit_toNat, BitVec.getLsbD_or]
  simp [hd]

/-- What a fault changes: the logs, their numbers, the mailboxes and, of the beat, the hold and its demands. -/
theorem raiseFault_eq (s : State) (code unitKind d unit detail : Nat) : ∃ hl al hs as m,
    s.raiseFault code unitKind d unit detail = { s with
      hubLog := hl, aoLog := al, hubSeq := hs, aoSeq := as, mbs := m
      beat := { s.beat with faultHold := true, faultDemands := s.beat.faultDemands ||| (1 <<< d),
                            faultAt := some (s.beat.faultAt.getD s.wall) } } := by
  obtain ⟨hl, al, hs, as, m, h⟩ := log_eq s 1 code unitKind d unit detail
  exact ⟨hl, al, hs, as, m, by unfold State.raiseFault; rw [h]; rfl⟩

theorem raiseFault_beat (s : State) (code unitKind d unit detail : Nat) : (s.raiseFault code unitKind d unit detail).beat =
    { s.beat with faultHold := true, faultDemands := s.beat.faultDemands ||| (1 <<< d), faultAt := some (s.beat.faultAt.getD s.wall) } := by
  obtain ⟨hl, al, hs, as, m, h⟩ := raiseFault_eq s code unitKind d unit detail
  rw [h]

theorem raiseFault_arrays (s : State) (code unitKind d unit detail : Nat) : (s.raiseFault code unitKind d unit detail).arrays = s.arrays := by
  obtain ⟨hl, al, hs, as, m, h⟩ := raiseFault_eq s code unitKind d unit detail
  rw [h]

theorem raiseFault_spokes (s : State) (code unitKind d unit detail : Nat) : (s.raiseFault code unitKind d unit detail).spokes = s.spokes := by
  obtain ⟨hl, al, hs, as, m, h⟩ := raiseFault_eq s code unitKind d unit detail
  rw [h]

theorem raiseFault_hubLog (s : State) (code unitKind d unit detail : Nat) :
    (s.raiseFault code unitKind d unit detail).hubLog = (s.log 1 code unitKind d unit detail).hubLog := by
  unfold State.raiseFault State.faultDemand
  rw [setBeat_hubLog]

theorem raiseFault_reportsOnly (s : State) (code unitKind d unit detail : Nat) :
    OnlyReportsOf s (s.raiseFault code unitKind d unit detail) = s := by
  obtain ⟨hl, al, hs, as, m, h⟩ := raiseFault_eq s code unitKind d unit detail
  rw [h]
  rfl

theorem raiseFault_recorded (s : State) (code unitKind d unit detail : Nat) (hd : d < 8) :
    FaultRecorded s (s.raiseFault code unitKind d unit detail) code unitKind d unit := by
  obtain ⟨r, hr, hcls, hcode, hkind, hdie, hunit, hbeats⟩ := log_last s 1 code unitKind d unit detail
  unfold FaultRecorded
  rw [raiseFault_beat, raiseFault_hubLog]
  exact ⟨rfl, bitOf_or_shiftLeft_self _ d hd, r, hr, hcls, hcode, hkind, hdie, hunit, hbeats⟩

/-- The record and the hold of a fault do not depend on the units. -/
theorem faultRecorded_congr {s s' t t' : State} {code unitKind die unit : Nat} (h : FaultRecorded s t code unitKind die unit)
    (hs : s'.beat.schedBeat = s.beat.schedBeat) (hw : s'.beat.wallBeat = s.beat.wallBeat) (hb : t'.beat = t.beat)
    (hl : t'.hubLog = t.hubLog) : FaultRecorded s' t' code unitKind die unit := by
  unfold FaultRecorded at *
  rw [hs, hw, hb, hl]
  exact h

theorem waitFault_waits (s : State) (code : Nat) (u : WaitUnit) (ctr val : Nat) : (s.waitFault code u ctr val).beat.waits = s.beat.waits := by
  cases u with
  | array g =>
    unfold State.waitFault State.faultWord State.arrayFault
    simp only [setArray_beat, raiseFault_beat]
  | spoke p =>
    unfold State.waitFault State.faultInstr
    simp only [setSpoke_beat, raiseFault_beat]

theorem waitFaulted_setArray {s u : State} {code : Nat} {g : ArrayId} (hfault : FaultRecorded s u code 0 (g.val / 2048) (g.val % 2048))
    (harrays : u.arrays = s.arrays) (honly : OnlyReportsOf s u = s) :
    WaitFaulted s (u.setArray g { u.array g with seqState := 5 }) code (.array g) := by
  have hu (m : Nat) : u.array m = s.array m := by unfold State.array; rw [harrays]
  refine ⟨faultRecorded_congr hfault rfl rfl rfl rfl, ?_, fun m hm => ?_, ?_⟩
  · rw [setArray_array_same, hu]
  · rw [setArray_array, if_neg hm, hu]
  · exact congrArg (fun x : State => { x with arrays := s.arrays }) honly

theorem waitFaulted_setSpoke {s u : State} {code : Nat} {p : SpokeId} {b : SpokeState} (hmode : b.mode = 3)
    (hfault : FaultRecorded s u code 1 (p.val / 256) (p.val % 256)) (hspokes : u.spokes = (s.setSpoke p b).spokes)
    (honly : OnlyReportsOf (s.setSpoke p b) u = s.setSpoke p b) : WaitFaulted s u code (.spoke p) := by
  have hu (m : Nat) : u.spoke m = (s.setSpoke p b).spoke m := by unfold State.spoke; rw [hspokes]
  refine ⟨hfault, ?_, fun m hm => ?_, ?_⟩
  · rw [hu, setSpoke_spoke_same, hmode]
  · rw [hu, setSpoke_spoke, if_neg hm]
  · exact congrArg (fun x : State => { x with spokes := s.spokes }) honly

/-- A fault of an array's word stops its sequence and is recorded (R105). -/
theorem faultWord_faulted (s : State) (code : Nat) (g : ArrayId) (idx ctr val : Nat) :
    WaitFaulted s (s.faultWord code g idx ctr val) code (.array g) := by
  have hg : g.val / 2048 < 8 := by have := g.isLt; omega
  exact waitFaulted_setArray (raiseFault_recorded s _ _ _ _ _ hg) (raiseFault_arrays s _ _ _ _ _) (raiseFault_reportsOnly s _ _ _ _ _)

/-- A fault of a spoke's instruction stops the spoke and is recorded (R202). -/
theorem faultInstr_faulted (s : State) (code : Nat) (p : SpokeId) (at_ ctr val : Nat) :
    WaitFaulted s (s.faultInstr code p at_ ctr val) code (.spoke p) := by
  have hp : p.val / 256 < 8 := by have := p.isLt; omega
  exact waitFaulted_setSpoke rfl (faultRecorded_congr (raiseFault_recorded (s.setSpoke p _) _ _ _ _ _ hp) rfl rfl rfl rfl)
    (raiseFault_spokes _ _ _ _ _ _) (raiseFault_reportsOnly _ _ _ _ _ _)

/-- The fault of a wait stops its unit and is recorded. -/
theorem waitFault_faulted (s : State) (code : Nat) (u : WaitUnit) (ctr val : Nat) : WaitFaulted s (s.waitFault code u ctr val) code u := by
  cases u with
  | array g => exact faultWord_faulted s code g _ _ _
  | spoke p => exact faultInstr_faulted s code p _ _ _

/-- A wait that is met and not aborted is released. -/
theorem waitRelease_met {u : WaitUnit} {s : State} {w : WaitState} (hw : s.waitOf u = some w) (hmet : s.waitMet w = true)
    (hrun : s.waitAborts w = false) : execWaitRelease u s = ok (s.dropWait u) := by
  unfold execWaitRelease
  simp only [hw, hmet, hrun, Bool.not_false, Bool.and_true, if_true]

/-- A wait whose held beats have run out short of its target faults. -/
theorem waitTimeout_short {u : WaitUnit} {s : State} {w : WaitState} (hw : s.waitOf u = some w) (hleft : w.heldLeft = 0)
    (hmet : s.waitMet w = false) : execWaitTimeout u s = ok ((s.dropWait u).waitFault 0x02 u w.counter w.target.toNat) := by
  unfold execWaitTimeout
  simp only [hw, hleft, hmet, Bool.not_false, and_self, if_true]

theorem waitAborted_set {u : WaitUnit} {s : State} {w : WaitState} (hw : s.waitOf u = some w) (habort : s.waitAborts w = true) :
    execWaitAborted u s = ok ((s.dropWait u).waitFault 0x03 u w.counter w.target.toNat) := by
  unfold execWaitAborted
  simp only [hw, habort, if_true]

/-- Dropping its wait first makes no difference to what a fault of the unit changes. -/
theorem waitFaulted_of_dropWait {s t : State} {code : Nat} {u v : WaitUnit} (h : WaitFaulted (s.dropWait v) t code u) :
    WaitFaulted s t code u := by
  cases u with
  | array g =>
    obtain ⟨hrec, harray, hothers, honly⟩ := h
    exact ⟨faultRecorded_congr hrec rfl rfl rfl rfl, harray, hothers, congrArg (fun x : State => { x with beat := s.beat }) honly⟩
  | spoke p =>
    obtain ⟨hrec, hspoke, hothers, honly⟩ := h
    exact ⟨faultRecorded_congr hrec rfl rfl rfl rfl, hspoke, hothers, congrArg (fun x : State => { x with beat := s.beat }) honly⟩

/-- Settles O10: of the three commands the first drops the wait alone, and the others drop it and fault its unit. -/
theorem waitsEndByReleaseTimeoutOrAbort : Obligations.WaitsEndByReleaseTimeoutOrAbort := by
  unfold Obligations.WaitsEndByReleaseTimeoutOrAbort
  have hfault (u : WaitUnit) (s : State) (code ctr val : Nat) :
      ((s.dropWait u).waitFault code u ctr val).beat.waits = s.beat.waits.filter (fun x => x.unit != u) ∧
        WaitFaulted s ((s.dropWait u).waitFault code u ctr val) code u :=
    ⟨waitFault_waits _ _ _ _ _, waitFaulted_of_dropWait (waitFault_faulted _ _ _ _ _)⟩
  refine ⟨fun u s w hw hmet hrun => waitRelease_met hw hmet hrun, fun u s w hw hleft hshort => ?_, fun u s w hw habort => ?_⟩
  · exact ⟨_, waitTimeout_short hw hleft hshort, hfault u s 0x02 _ _⟩
  · exact ⟨_, waitAborted_set hw habort, hfault u s 0x03 _ _⟩

end Sys2Proof.Proofs
end

section
/-! O3. The issue of a word whose effect reaches beyond the arrays: the gang takes it in turn, the leader first. -/

namespace Sys2Proof.Proofs

open Sys2Proof Sys2Proof.Machine Sys2Proof.Laws

/-- What the issue of word `w` at leader `g` of state `s` does for member `m`: a fault, or its update and the word's effect. -/
def issueMember (s : State) (g : Nat) (w : BitVec 128) (check : State → Nat → BitVec 128 → Option Nat)
    (effect : State → Nat → BitVec 128 → State) (u : State) (m : Nat) : State :=
  match check u m w with
  | some code =>
    if code ≤ 3 then u.seqFault code m (fld w 121 112) (waitTarget w (loopSel (s.array g).loops (fld w 53 53) (fld w 52 51)).join).toNat
    else u.seqFault code m
  | none => effect (u.setArray m ((u.array m).issued u.pbeat)) m w

theorem issueMember_checked {s u : State} {g m : Nat} {w : BitVec 128} {check : State → Nat → BitVec 128 → Option Nat}
    {effect : State → Nat → BitVec 128 → State} (h : check u m w = none) :
    issueMember s g w check effect u m = effect (u.setArray m ((u.array m).issued u.pbeat)) m w := by
  unfold issueMember
  rw [h]

/-- A free port whose word is offered hands it to each member in turn, once the fetch is counted. -/
theorem issueWord_of_offers {s : State} {g op : Nat} {w : BitVec 128} (h : s.offers g op w) (hop : op ≠ 0xF)
    (check : State → Nat → BitVec 128 → Option Nat) (effect : State → Nat → BitVec 128 → State) :
    s.issueWord g op check effect =
      (s.members g).foldl (issueMember s g w check effect) (s.countFetch (passAddr g (s.array g).pc) 16) := by
  obtain ⟨hport, hpc, hword, hopc, hpass, -⟩ := h
  have hin : ¬1024 ≤ (s.array g).pc := by omega
  unfold State.issueWord
  simp only [hport, hword, hopc, hpass, hin, hop, Bool.not_true, Bool.false_eq_true, if_false, ne_eq, not_true_eq_false]
  rfl

/-- The members of a gang are its leader's array and those that follow it. -/
theorem members_eq (s : State) (g : Nat) : s.members g = (List.range (s.members g).length).map (g + ·) := by
  unfold State.members
  rw [List.length_map, List.length_range]

theorem mem_members_iff (s : State) (g m : Nat) : m ∈ s.members g ↔ ∃ i < (s.members g).length, m = g + i := by
  rw [members_eq s g, List.length_map, List.length_range]
  simp only [List.mem_map, List.mem_range, eq_comm]

/-- A fold over consecutive arrays, each updated once from what it was in `s`, under a frame `R` that counts them. -/
theorem foldl_counted {R : Nat → State → Prop} {upd : Nat → ArrayState} {F : State → Nat → State} {s s0 : State} {g n : Nat} (hstart : R 0 s0)
    (harrays : ∀ m, s0.array m = s.array m)
    (hF : ∀ i u, i < n → R i u → u.array (g + i) = s.array (g + i) →
      R (i + 1) (F u (g + i)) ∧ (F u (g + i)).array (g + i) = upd (g + i) ∧ ∀ j, j ≠ g + i → (F u (g + i)).array j = u.array j) :
    R n (((List.range n).map (g + ·)).foldl F s0) ∧
      (∀ i < n, (((List.range n).map (g + ·)).foldl F s0).array (g + i) = upd (g + i)) ∧
      (∀ m, (∀ i < n, m ≠ g + i) → (((List.range n).map (g + ·)).foldl F s0).array m = s.array m) := by
  induction n with
  | zero => exact ⟨hstart, fun _ h => absurd h (by omega), fun m _ => harrays m⟩
  | succ n ih =>
    obtain ⟨hR, hdone, hleft⟩ := ih fun i u hi => hF i u (by omega)
    rw [List.range_succ, List.map_append, List.foldl_append]
    generalize ((List.range n).map (g + ·)).foldl F s0 = u at hR hdone hleft ⊢
    obtain ⟨hR1, hthis, hothers⟩ := hF n u (by omega) hR (hleft _ (by omega))
    simp only [List.map_cons, List.map_nil, List.foldl_cons, List.foldl_nil]
    refine ⟨hR1, fun i hi => ?_, fun m hm => ?_⟩
    · rcases Nat.lt_succ_iff_lt_or_eq.mp hi with hi | rfl
      · rw [hothers _ (by omega), hdone i hi]
      · exact hthis
    · rw [hothers _ (hm n (by omega)), hleft m fun i hi => hm i (by omega)]

/-- The issue of a word that every member may execute, under a frame `R` that counts the members that have taken it. -/
theorem issueWord_counted {s : State} {g op : Nat} {w : BitVec 128} {check : State → Nat → BitVec 128 → Option Nat}
    {effect : State → Nat → BitVec 128 → State} (R : Nat → State → Prop) (upd : Nat → ArrayState) (h : s.offers g op w) (hop : op ≠ 0xF)
    (hstart : R 0 (s.countFetch (passAddr g (s.array g).pc) 16)) (hpb : ∀ i u, R i u → u.pbeat = s.pbeat)
    (hset : ∀ i u m a, R i u → R i (u.setArray m a))
    (hcheck : ∀ i u, g + i ∈ s.members g → R i u → u.array (g + i) = s.array (g + i) → check u (g + i) w = none)
    (heffect : ∀ i u, g + i ∈ s.members g → R i u → u.array (g + i) = (s.array (g + i)).issued s.pbeat →
      R (i + 1) (effect u (g + i) w) ∧ (effect u (g + i) w).array (g + i) = upd (g + i) ∧
        ∀ j, j ≠ g + i → (effect u (g + i) w).array j = u.array j) :
    R (s.members g).length (s.issueWord g op check effect) ∧
      (∀ m ∈ s.members g, (s.issueWord g op check effect).array m = upd m) ∧
      (∀ m, m ∉ s.members g → (s.issueWord g op check effect).array m = s.array m) := by
  have hfold := foldl_counted (R := R) (upd := upd) (F := issueMember s g w check effect) (n := (s.members g).length) hstart
    (memOnly_array (countFetch_memOnly s _ _)) fun i u hi hu ha => by
      have hmem : g + i ∈ s.members g := (mem_members_iff s g _).mpr ⟨i, hi, rfl⟩
      rw [issueMember_checked (hcheck i u hmem hu ha), ha, hpb i u hu]
      obtain ⟨hR, hthis, hothers⟩ := heffect i _ hmem (hset i u (g + i) _ hu) (setArray_array_same u _ _)
      exact ⟨hR, hthis, fun j hj => by rw [hothers j hj, setArray_array, if_neg hj]⟩
  rw [← members_eq, ← issueWord_of_offers h hop] at hfold
  obtain ⟨hR, hdone, hleft⟩ := hfold
  refine ⟨hR, fun m hm => ?_, fun m hm => hleft m fun i hi hmi => hm ((mem_members_iff s g m).mpr ⟨i, hi, hmi⟩)⟩
  obtain ⟨i, hi, rfl⟩ := (mem_members_iff s g m).mp hm
  exact hdone i hi

/-! ### The frame of an issue -/

/-- The count of a fetch leaves all but the counts of checked words, and all where no word is marked. -/
theorem arraysMove_countFetch (s : State) (a n : Nat) : ArraysMove s (s.countFetch a n) := by
  refine ⟨?_, fun h => ?_⟩
  · have h := countFetch_memOnly s a n
    unfold MemOnly at h
    exact congrArg (fun x : State => { x with arrays := s.arrays }) h
  · rw [countFetch_unmarked s a n h]
    exact onlyArrays_refl s

theorem arraysMove_setArray {s u : State} (h : ArraysMove s u) (m : Nat) (a : ArrayState) : ArraysMove s (u.setArray m a) := h

/-- Of a state, but the arrays and the counts of checked words, an issue so far has changed the counters to `c`, the beat to `b` and the
rates of `UNPARK`. -/
structure IssuedSo (s : State) (c : SMap DieCounters) (b : BeatState) (u : State) : Prop where
  frame : ArraysMove s { u with counters := s.counters, beat := s.beat, unparks := s.unparks }
  counters : u.counters = c
  beat : u.beat = b

theorem countFetch_unparks (s : State) (a n : Nat) : (s.countFetch a n).unparks = s.unparks := by
  have h := countFetch_memOnly s a n
  unfold MemOnly at h
  exact (congrArg State.unparks h :)

theorem issuedSo_countFetch (s : State) (a n : Nat) : IssuedSo s s.counters s.beat (s.countFetch a n) := by
  have h := countFetch_memOnly s a n
  unfold MemOnly at h
  have hbeat : (s.countFetch a n).beat = s.beat := (congrArg State.beat h :)
  have hcounters : (s.countFetch a n).counters = s.counters := (congrArg State.counters h :)
  refine ⟨?_, hcounters, hbeat⟩
  rw [← hbeat, ← hcounters, ← countFetch_unparks s a n]
  exact arraysMove_countFetch s a n

/-- The words of the program stores depend on memory, now and at the start of the beat. -/
theorem passWord_congr {s u : State} (hmem : u.mem = s.mem) (hstart : u.beatMem = s.beatMem) : u.passWord = s.passWord := by
  have hbyte : u.atStart.byte = s.atStart.byte := by
    unfold State.atStart
    rw [hstart]
    funext a
    split <;> simp only [State.byte, hmem]
  funext g w
  unfold State.passWord State.bytes
  rw [hbyte]

section
variable {s u : State} {c : SMap DieCounters} {b : BeatState}

theorem IssuedSo.setArray (h : IssuedSo s c b u) (m : Nat) (a : ArrayState) : IssuedSo s c b (u.setArray m a) where
  frame := h.frame
  counters := h.counters
  beat := h.beat

theorem IssuedSo.stepSignal (h : IssuedSo s s.counters b u) (d id step : Nat) :
    IssuedSo s (s.stepSignal d id step).counters b (u.stepSignal d id step) where
  frame := h.frame
  counters := by
    have hdie : u.dieCounters d = s.dieCounters d := by unfold State.dieCounters; rw [h.counters]
    unfold State.stepSignal State.setDieCounters
    rw [hdie, h.counters]
  beat := h.beat

theorem IssuedSo.setBeat (h : IssuedSo s c b u) (b' : BeatState) : IssuedSo s c b' (u.setBeat b') where
  frame := h.frame
  counters := h.counters
  beat := rfl

theorem IssuedSo.wall (h : IssuedSo s c s.beat u) : u.wall = s.wall := by
  unfold State.wall
  rw [h.beat]

theorem IssuedSo.counterValue (h : IssuedSo s s.counters b u) : u.counterValue = s.counterValue := by
  have hcopy : u.counterCopy = s.counterCopy := by unfold State.counterCopy State.dieCounters; rw [h.counters]
  unfold State.counterValue State.dieCounters
  rw [hcopy, h.counters]

theorem IssuedSo.abortCopyBit (h : IssuedSo s s.counters b u) : u.abortCopyBit = s.abortCopyBit := by
  unfold State.abortCopyBit State.dieCounters
  rw [h.counters]

theorem IssuedSo.prog (h : IssuedSo s c b u) : u.prog = s.prog := (congrArg State.prog h.frame.1 :)

theorem IssuedSo.pbeat (h : IssuedSo s c b u) (hb : b.schedBeat = s.beat.schedBeat) : u.pbeat = s.pbeat := by
  unfold State.pbeat
  rw [h.prog, h.beat, hb]

theorem IssuedSo.passWord (h : IssuedSo s c b u) : u.passWord = s.passWord :=
  passWord_congr (congrArg State.mem h.frame.1 :) (congrArg State.beatMem h.frame.1 :)

end

theorem offers_sequence {s : State} {g op m : Nat} {w : BitVec 128} (h : s.offers g op w) (hm : m ∈ s.members g) :
    sequenceFault (s.array m) op = none := (h.2.2.2.2.2 m hm).1

theorem offers_late {s : State} {g op m : Nat} {w : BitVec 128} (h : s.offers g op w) (hm : m ∈ s.members g) :
    lateFault (s.array m) s.pbeat op = none := (h.2.2.2.2.2 m hm).2

theorem members_length_pos (s : State) (g : Nat) : 0 < (s.members g).length := by
  unfold State.members
  rw [List.length_map, List.length_range]
  exact Nat.two_pow_pos _

/-! ### SIGNAL (R120) -/

/-- A `SIGNAL` gives its step with the first member. -/
theorem execSignal_issues {g : ArrayId} {s : State} {w : BitVec 128} (h : s.offers g 9 w) (h0 : fld w 123 122 = 0)
    (h1 : fld w 121 112 < 0x100) (h2 : fld w 111 96 ≠ 0) (h3 : fld w 95 0 = 0) :
    Answers (.signal g) s fun t =>
      (∀ m ∈ s.members g, t.array m = (s.array m).issued s.pbeat) ∧ (∀ m, m ∉ s.members g → t.array m = s.array m) ∧
        IssuedSo s (s.stepSignal (g.val / 2048) (fld w 121 112) (fld w 111 96)).counters s.beat t ∧ t.unparks = s.unparks := by
  have hissue := issueWord_counted (check := plainCheck 9 fun _ w =>
      fld w 123 122 ≠ 0 || decide (0x100 ≤ fld w 121 112) || fld w 111 96 = 0 || fld w 95 0 ≠ 0)
    (effect := fun u m w => if m = g.val then u.stepSignal (m / 2048) (fld w 121 112) (fld w 111 96) else u)
    (fun i u => IssuedSo s (if i = 0 then s.counters else (s.stepSignal (g.val / 2048) (fld w 121 112) (fld w 111 96)).counters) s.beat u ∧
      u.unparks = s.unparks)
    (fun m => (s.array m).issued s.pbeat) h (by decide)
    ⟨issuedSo_countFetch s _ _, countFetch_unparks s _ _⟩ (fun i u hu => hu.1.pbeat rfl)
    (fun i u m a hu => ⟨hu.1.setArray m a, hu.2⟩) (fun i u hi hu ha => ?_) (fun i u hi hu ha => ?_)
  · obtain ⟨hso, hgang, hothers⟩ := hissue
    rw [if_neg (by have := members_length_pos s g; omega)] at hso
    exact ⟨_, rfl, hgang, hothers, hso⟩
  · unfold plainCheck
    simp only [ha, hu.1.pbeat rfl, offers_sequence h hi, offers_late h hi, h0, h2, h3, Nat.not_le.mpr h1, decide_false, ne_eq,
      not_true_eq_false, Bool.or_self, Bool.false_eq_true, if_false, Option.or_none]
  · obtain ⟨hso, hunparks⟩ := hu
    rcases Nat.eq_zero_or_pos i with rfl | hi0
    · simp only [Nat.add_zero, if_true] at ha hso ⊢
      exact ⟨⟨hso.stepSignal _ _ _, hunparks⟩, ha, fun _ _ => rfl⟩
    · rw [if_neg (by omega)] at hso
      rw [if_neg (by omega), if_neg (by omega)]
      exact ⟨⟨hso, hunparks⟩, ha, fun _ _ => rfl⟩

theorem stepSignal_steps (s : State) (d e id k step : Nat) : SMap.get 0 ((s.stepSignal d id step).dieCounters e).steps k =
    if e = d ∧ k = id then SMap.get 0 (s.dieCounters e).steps k + BitVec.ofNat 32 step else SMap.get 0 (s.dieCounters e).steps k := by
  unfold State.stepSignal
  rw [setDieCounters_dieCounters]
  by_cases he : e = d
  · subst he
    simp only [if_true, true_and, get_set]
    split <;> rename_i hk
    · rw [hk]
    · rfl
  · simp only [he, if_false, false_and]

theorem stepSignal_rest (s : State) (d e id step : Nat) :
    { (s.stepSignal d id step).dieCounters e with steps := [] } = { s.dieCounters e with steps := [] } := by
  unfold State.stepSignal
  rw [setDieCounters_dieCounters]
  by_cases he : e = d
  · rw [if_pos he, he]
  · rw [if_neg he]

/-! ### WAIT (R39, R118, R119) -/

/-- The demand that a `WAIT` raises. -/
def waitRaised (g : ArrayId) (s : State) (w : BitVec 128) : WaitState :=
  { unit := .array g, die := ⟨g.val / 2048, by omega⟩, counter := fld w 121 112
    target := waitTarget w (loopSel (s.array g).loops (fld w 53 53) (fld w 52 51)).join
    heldLeft := waitLimit (fld w 79 56) (fld w 55 54), sampleWall := s.wall }

/-- The beat when a `WAIT` has sampled its counter. -/
def waitSampled (g : ArrayId) (s : State) (w : BitVec 128) : BeatState :=
  if s.waitMet (waitRaised g s w) then s.beat else { s.beat with waits := s.beat.waits ++ [waitRaised g s w] }

/-- An array whose gang waits from beat `pb`. -/
def waitingArray (pb : Nat) (w : BitVec 128) (a : ArrayState) : ArrayState :=
  { a with issueFree := pb + 16, seqState := 3, presented := (pb, pb + 15, fld w 34 31) :: a.presented.take 31 }

/-- What a `WAIT` does for a member, as the model has it. -/
def waitEffect (g : ArrayId) (u : State) (m : Nat) (w : BitVec 128) : State :=
  let a := u.array m
  let id := fld w 121 112
  let t := waitTarget w (loopSel a.loops (fld w 53 53) (fld w 52 51)).join
  let s1 := u.setArray m { a with issueFree := u.pbeat + 16, seqState := 3,
                                  presented := (u.pbeat, u.pbeat + 15, fld w 34 31) :: a.presented.take 31 }
  if m = g.val ∧ !atOrAbove (u.counterValue (m / 2048) id) t then
    let ws : WaitState := { unit := .array g, die := ⟨g.val / 2048, by omega⟩, counter := id, target := t,
                            heldLeft := waitLimit (fld w 79 56) (fld w 55 54), sampleWall := u.wall }
    s1.setBeat { s1.beat with waits := s1.beat.waits ++ [ws] }
  else s1

theorem execWait_eq (g : ArrayId) (s : State) : execWait g s = ok (s.issueWord g 8 waitCheck (waitEffect g)) := rfl

theorem waitEffect_leader (g : ArrayId) (u : State) (w : BitVec 128) :
    waitEffect g u g w = (u.setArray g (waitingArray u.pbeat w (u.array g))).setBeat (waitSampled g u w) := by
  unfold waitEffect waitSampled
  by_cases h : u.waitMet (waitRaised g u w) = true
  · rw [if_pos h, if_neg fun hs => Bool.false_ne_true (((Bool.not_eq_true' _).mp hs.2).symm.trans h)]
    rfl
  · have hshort : (!atOrAbove (u.counterValue (g.val / 2048) (fld w 121 112))
        (waitTarget w (loopSel (u.array g).loops (fld w 53 53) (fld w 52 51)).join)) = true := by
      rw [Bool.not_eq_true']
      exact Bool.eq_false_iff.mpr h
    rw [if_neg h, if_pos ⟨rfl, hshort⟩]
    rfl

theorem waitEffect_follower (g : ArrayId) (u : State) (w : BitVec 128) {m : Nat} (h : m ≠ g) :
    waitEffect g u m w = u.setArray m (waitingArray u.pbeat w (u.array m)) := by
  unfold waitEffect
  rw [if_neg fun hs => h hs.1]
  rfl

theorem waitSampled_sched (g : ArrayId) (s : State) (w : BitVec 128) : (waitSampled g s w).schedBeat = s.beat.schedBeat := by
  unfold waitSampled
  split <;> rfl

/-- A `WAIT` samples its counter with the first member. -/
theorem execWait_issues {g : ArrayId} {s : State} {w : BitVec 128} (h : s.offers g 8 w) (hform : ∀ m ∈ s.members g, waitCheck s m w = none) :
    Answers (.wait g) s fun t =>
      (∀ m ∈ s.members g, t.array m = waitingArray s.pbeat w ((s.array m).issued s.pbeat)) ∧ (∀ m, m ∉ s.members g → t.array m = s.array m) ∧
      IssuedSo s s.counters (waitSampled g s w) t ∧ t.unparks = s.unparks := by
  have hsched (i : Nat) : (if i = 0 then s.beat else waitSampled g s w).schedBeat = s.beat.schedBeat := by
    split
    · rfl
    · exact waitSampled_sched g s w
  have hissue := issueWord_counted (check := waitCheck) (effect := waitEffect g)
    (fun i u => IssuedSo s s.counters (if i = 0 then s.beat else waitSampled g s w) u ∧ u.unparks = s.unparks)
    (fun m => waitingArray s.pbeat w ((s.array m).issued s.pbeat)) h (by decide)
    ⟨issuedSo_countFetch s _ _, countFetch_unparks s _ _⟩ (fun i u hu => hu.1.pbeat (hsched i))
    (fun i u m a hu => ⟨hu.1.setArray m a, hu.2⟩) (fun i u hi hu ha => ?_) (fun i u hi hu ha => ?_)
  · obtain ⟨hso, hgang, hothers⟩ := hissue
    rw [if_neg (by have := members_length_pos s g; omega)] at hso
    exact ⟨_, congrArg Host.Outcome.next rfl, hgang, hothers, hso⟩
  · rw [← hform _ hi]
    unfold waitCheck
    simp only [ha, hu.1.counterValue, hu.1.abortCopyBit, hu.1.pbeat (hsched i)]
  · obtain ⟨hso, hunparks⟩ := hu
    have hpb := hso.pbeat (hsched i)
    rw [if_neg (Nat.succ_ne_zero i)]
    rcases Nat.eq_zero_or_pos i with rfl | hi0
    · rw [if_pos rfl] at hso
      have hraised : waitRaised g u w = waitRaised g s w := by
        unfold waitRaised
        rw [hso.wall, show u.array g = _ from ha]
        rfl
      have hsampled : waitSampled g u w = waitSampled g s w := by
        unfold waitSampled State.waitMet
        rw [hraised, hso.counterValue, hso.beat]
      rw [Nat.add_zero] at ha ⊢
      rw [waitEffect_leader, hsampled, ha, hpb]
      exact ⟨⟨(hso.setArray _ _).setBeat _, hunparks⟩, setArray_array_same _ _ _, fun j hj => (setArray_array _ _ _ _).trans (if_neg hj)⟩
    · rw [if_neg (by omega)] at hso
      rw [waitEffect_follower g u w (by omega), ha, hpb]
      exact ⟨⟨hso.setArray _ _, hunparks⟩, setArray_array_same _ _ _, fun j hj => (setArray_array _ _ _ _).trans (if_neg hj)⟩

/-! ### UNPARK (R96, R97) -/

theorem controlFault_congr {s u : State} (h : u.passWord = s.passWord) : controlFault u = controlFault s := by
  funext g pc loops
  unfold controlFault
  rw [h]

theorem controlNext_congr {s u : State} (h : u.passWord = s.passWord) : controlNext u = controlNext s := by
  funext g pc loops
  unfold controlNext
  rw [h]

theorem peekOpcode_congr {s u : State} (h : u.passWord = s.passWord) (g fuel : Nat) :
    ∀ pc loops, peekOpcode u g fuel pc loops = peekOpcode s g fuel pc loops := by
  induction fuel with
  | zero => exact fun _ _ => rfl
  | succ fuel ih =>
    intro pc loops
    unfold peekOpcode
    rw [h, controlFault_congr h, controlNext_congr h]
    simp only [ih]

/-- The gated beats of an array depend on it, the beat, the program and the program store. -/
theorem gatedBeats_congr {s u : State} {m : Nat} (ha : u.array m = s.array m) (hb : u.beat = s.beat) (hp : u.prog = s.prog)
    (hw : u.passWord = s.passWord) : u.gatedBeats m = s.gatedBeats m := by
  have hpb : u.pbeat = s.pbeat := by unfold State.pbeat; rw [hb, hp]
  have hsched : u.sched = s.sched := by unfold State.sched; rw [hb]
  have hstays : u.staysGated m = s.staysGated m := by
    unfold State.staysGated
    rw [ha]
    simp only [peekOpcode_congr hw]
  have hspan : u.gatedSpan m = s.gatedSpan m := by
    unfold State.gatedSpan
    rw [ha, hp, hpb, hsched, hstays]
  have hvoid : u.voidSpan m = s.voidSpan m := by
    unfold State.voidSpan
    rw [ha, hp, hsched]
  unfold State.gatedBeats
  rw [hspan, hvoid]

/-- The `UNPARK`s of a die that count towards its rate (R97). -/
def unparksCounted (now : Nat) (l : List Nat) : List Nat := l.filter fun b => decide (now < b + 2000)

theorem unparksCounted_cons (now : Nat) (l : List Nat) : unparksCounted now (now :: unparksCounted now l) = now :: unparksCounted now l := by
  unfold unparksCounted
  simp

/-- The gang has taken `i` members' part of an `UNPARK` of die `d`: each has entered the die's rate. -/
structure Unparked (s : State) (d i : Nat) (u : State) : Prop where
  issued : IssuedSo s s.counters s.beat u
  counted : unparksCounted s.sched (SMap.get [] u.unparks d) = List.replicate i s.sched ++ unparksCounted s.sched (SMap.get [] s.unparks d)
  trimmed : 0 < i → SMap.get [] u.unparks d = unparksCounted s.sched (SMap.get [] u.unparks d)
  others : ∀ e, e ≠ d → SMap.get [] u.unparks e = SMap.get [] s.unparks e

theorem unparked_countFetch (s : State) (d a n : Nat) : Unparked s d 0 (s.countFetch a n) where
  issued := issuedSo_countFetch s a n
  counted := by rw [countFetch_unparks]; rfl
  trimmed := fun h => absurd h (by decide)
  others := fun e _ => by rw [countFetch_unparks]

/-- An array to which power comes back. -/
def repowered (pb beats : Nat) (a : ArrayState) : ArrayState :=
  { a with acc := [], power := 3, parkAt := none, gatedSince := none, fwAcc := a.fwAcc + BitVec.ofNat 32 beats, unparkAt := some pb
           ramp := false, unparkUntil := pb + 2000 }

/-- One more member enters the rate of its die. -/
def rated (now : Nat) (u : State) (d : Nat) : State :=
  { u with unparks := SMap.set [] u.unparks d (now :: unparksCounted now (SMap.get [] u.unparks d)) }

theorem rated_array (now : Nat) (u : State) (d m : Nat) : (rated now u d).array m = u.array m := rfl

theorem unparked_succ {s u : State} {d i : Nat} (h : Unparked s d i u) (m : Nat) (a : ArrayState) :
    Unparked s d (i + 1) (rated s.sched (u.setArray m a) d) where
  issued := ⟨h.issued.frame, h.issued.counters, h.issued.beat⟩
  counted := by
    unfold rated
    rw [get_set_same, unparksCounted_cons, List.replicate_succ, List.cons_append, ← h.counted]
    rfl
  trimmed := fun _ => by
    unfold rated
    rw [get_set_same, unparksCounted_cons]
  others := fun e he => by
    unfold rated
    rw [get_set_ne _ _ _ _ _ he]
    exact h.others e he

/-- What an `UNPARK` does for a member, as the model has it. -/
def unparkEffect (u : State) (m : Nat) (_ : BitVec 128) : State :=
  rated u.sched (u.setArray m (repowered u.pbeat (u.gatedBeats m) (u.array m))) (m / 2048)

theorem execUnpark_eq (g : ArrayId) (s : State) : execUnpark g s = ok (s.issueWord g 0xD unparkCheck unparkEffect) := rfl

/-- An `UNPARK` restores every member's power and enters each in the rate of its die. -/
theorem execUnpark_issues {g : ArrayId} {s : State} {w : BitVec 128} (h : s.offers g 0xD w) (hform : fld w 123 0 = 0)
    (hfree : ∀ m ∈ s.members g, (s.array m).unparkUntil ≤ s.pbeat ∧ m / 2048 = g.val / 2048)
    (hrate : (unparksCounted s.sched (SMap.get [] s.unparks (g.val / 2048))).length + (s.members g).length ≤ 512) :
    Answers (.unpark g) s fun t =>
      (∀ m ∈ s.members g, t.array m =
        repowered s.pbeat ((s.setArray m ((s.array m).issued s.pbeat)).gatedBeats m) ((s.array m).issued s.pbeat)) ∧
      (∀ m, m ∉ s.members g → t.array m = s.array m) ∧ Unparked s (g.val / 2048) (s.members g).length t := by
  have hissue := issueWord_counted (check := unparkCheck)
    (effect := unparkEffect)
    (Unparked s (g.val / 2048)) (fun m =>
      repowered s.pbeat ((s.setArray m ((s.array m).issued s.pbeat)).gatedBeats m) ((s.array m).issued s.pbeat)) h (by decide)
    (unparked_countFetch s _ _ _) (fun i u hu => hu.issued.pbeat rfl)
    (fun i u m a hu => ⟨hu.issued.setArray m a, hu.counted, hu.trimmed, hu.others⟩) (fun i u hi hu ha => ?_) (fun i u hi hu ha => ?_)
  · obtain ⟨hso, hgang, hothers⟩ := hissue
    exact ⟨_, congrArg Host.Outcome.next rfl, hgang, hothers, hso⟩
  · have hrated : u.parkRate ((g.val + i) / 2048) = false := by
      unfold State.parkRate
      rw [(hfree _ hi).2, decide_eq_false_iff_not, Nat.not_le]
      have hcount := congrArg List.length hu.counted
      rw [List.length_append, List.length_replicate] at hcount
      have hlt : i < (s.members g).length := by
        obtain ⟨k, hk, he⟩ := (mem_members_iff s g _).mp hi
        omega
      have hsched : u.sched = s.sched := by unfold State.sched; rw [hu.issued.beat]
      rw [hsched]
      change (unparksCounted s.sched _).length < 512
      omega
    unfold unparkCheck
    simp only [hform, ha, hu.issued.pbeat rfl, offers_sequence h hi, offers_late h hi, hrated, Nat.not_lt.mpr (hfree _ hi).1,
      decide_false, ne_eq, not_true_eq_false, Bool.false_eq_true, if_false, Option.or_none]
  · have hpb := hu.issued.pbeat rfl
    have hsched : u.sched = s.sched := by unfold State.sched; rw [hu.issued.beat]
    have hbeats : u.gatedBeats (g.val + i) = (s.setArray (g.val + i) ((s.array (g.val + i)).issued s.pbeat)).gatedBeats (g.val + i) :=
      gatedBeats_congr (ha.trans (setArray_array_same _ _ _).symm) hu.issued.beat hu.issued.prog
        (hu.issued.passWord.trans (passWord_congr rfl rfl))
    unfold unparkEffect
    rw [ha, hpb, hsched, hbeats, (hfree _ hi).2]
    refine ⟨unparked_succ hu _ _, ?_, fun j hj => ?_⟩
    · rw [rated_array, setArray_array_same]
    · rw [rated_array, setArray_array, if_neg hj]

/-- Settles O3: each of the three words is followed through its gang. -/
theorem signalWaitAndUnparkIssue : Obligations.SignalWaitAndUnparkIssue := by
  unfold Obligations.SignalWaitAndUnparkIssue
  refine ⟨fun g s w h h0 h1 h2 h3 => ?_, fun g s w h hform => ?_, fun g s w h hform hfree hrate => ?_⟩
  · obtain ⟨t, ht, hgang, hothers, hso, hunparks⟩ := execSignal_issues h h0 h1 h2 h3
    have hdie (d : Nat) : t.dieCounters d = (s.stepSignal (g.val / 2048) (fld w 121 112) (fld w 111 96)).dieCounters d := by
      unfold State.dieCounters
      rw [hso.counters]
    refine ⟨t, ht, hgang, hothers, fun d id => ?_, fun d => ?_, ?_⟩
    · rw [hdie, stepSignal_steps]
    · rw [hdie, stepSignal_rest]
    · have hframe := hso.frame
      rw [← hso.beat, ← hunparks] at hframe
      exact hframe
  · obtain ⟨t, ht, hgang, hothers, hso, hunparks⟩ := execWait_issues h hform
    refine ⟨t, ht, hgang, hothers, fun hmet => ?_, fun hshort => ?_, ?_⟩
    · rw [hso.beat]
      exact if_pos hmet
    · refine ⟨waitRaised g s w, ?_, rfl, rfl, rfl, rfl, rfl, rfl⟩
      rw [hso.beat]
      exact if_neg (by rw [Bool.not_eq_true]; exact hshort)
    · have hframe := hso.frame
      rw [← hso.counters, ← hunparks] at hframe
      exact hframe
  · obtain ⟨t, ht, hgang, hothers, hun⟩ := execUnpark_issues h hform hfree hrate
    refine ⟨t, ht, hgang, hothers, ?_, hun.others, ?_⟩
    · rw [hun.trimmed (members_length_pos s g), hun.counted]
      rfl
    · have hframe := hun.issued.frame
      rw [← hun.issued.counters, ← hun.issued.beat] at hframe
      exact hframe

end Sys2Proof.Proofs
end

section
/-! O9. Sparse maps under a change of every entry, and the sums that a beat's end forms. -/

namespace Sys2Proof.Proofs

open Sys2Proof Sys2Proof.Machine Sys2Proof.Laws

variable {α : Type} [DecidableEq α]

/-- A map whose indices lie above `i` lists none up to `i`. -/
theorem get?_none_of_wfFrom {d : α} {k : Nat} (m : SMap α) : ∀ {i : Nat}, SMap.wfFrom d (some i) m = true → k ≤ i → SMap.get? m k = none := by
  induction m with
  | nil => exact fun _ _ => rfl
  | cons e m ih =>
    obtain ⟨j, v⟩ := e
    intro i h hk
    simp only [SMap.wfFrom, Bool.and_eq_true, decide_eq_true_eq] at h
    obtain ⟨⟨hij, -⟩, hm⟩ := h
    simp only [SMap.get?]
    rw [if_neg (by omega), ih hm (by omega)]

theorem get?_update_none (d : α) (f : Nat → α → α) {k : Nat} (m : SMap α) (h : SMap.get? m k = none) :
    SMap.get? (SMap.update d m f) k = none := by
  induction m with
  | nil => rfl
  | cons e m ih =>
    obtain ⟨j, v⟩ := e
    simp only [SMap.get?] at h
    split at h
    · cases h
    · rename_i hj
      unfold SMap.update at ih ⊢
      rw [List.map_cons, List.filter_cons]
      split
      · simp only [SMap.get?]
        rw [if_neg hj, ih h]
      · exact ih h

/-- A change of every listed entry, of a canonical map, reads back at each index; the default is not listed. -/
theorem get_update {d : α} {f : Nat → α → α} {k : Nat} (hf : f k d = d) (m : SMap α) :
    ∀ {lo : Option Nat}, SMap.wfFrom d lo m = true → SMap.get d (SMap.update d m f) k = f k (SMap.get d m k) := by
  induction m with
  | nil => exact fun _ => hf.symm
  | cons e m ih =>
    obtain ⟨j, v⟩ := e
    intro lo h
    simp only [SMap.wfFrom, Bool.and_eq_true] at h
    obtain ⟨-, hm⟩ := h
    have hrest := ih hm
    unfold SMap.get at hrest ⊢
    by_cases hj : j = k
    · subst hj
      have hnone := get?_update_none d f m (get?_none_of_wfFrom m hm le_rfl)
      unfold SMap.update at hnone ⊢
      rw [List.map_cons, List.filter_cons]
      simp only [SMap.get?, if_true]
      split
      · simp only [SMap.get?, if_true]
        rfl
      · rename_i hd
        rw [hnone]
        exact (of_not_not fun h => hd (decide_eq_true h)).symm
    · unfold SMap.update at hrest ⊢
      rw [List.map_cons, List.filter_cons]
      simp only [SMap.get?, if_neg hj]
      split
      · simp only [SMap.get?, if_neg hj]
        exact hrest
      · exact hrest

/-- Steps are added index by index. -/
theorem get_foldl_add {k : Nat} (steps : SMap Word32) : ∀ {lo : Option Nat} (m : SMap Word32), SMap.wfFrom 0 lo steps = true →
    SMap.get 0 (steps.foldl (fun m e => SMap.set 0 m e.1 (SMap.get 0 m e.1 + e.2)) m) k = SMap.get 0 m k + SMap.get 0 steps k := by
  induction steps with
  | nil => exact fun m _ => (BitVec.add_zero _).symm
  | cons e steps ih =>
    obtain ⟨j, v⟩ := e
    intro lo m h
    simp only [SMap.wfFrom, Bool.and_eq_true] at h
    obtain ⟨-, hm⟩ := h
    rw [List.foldl_cons, ih _ hm, get_set]
    unfold SMap.get
    by_cases hj : j = k
    · subst hj
      simp only [SMap.get?, if_true, get?_none_of_wfFrom steps hm le_rfl]
      exact BitVec.add_zero _
    · simp only [SMap.get?, if_neg hj, if_neg (Ne.symm hj)]

end Sys2Proof.Proofs
end

section
/-! O9. The supply level of an array from one beat to the next (R93, R98). -/

namespace Sys2Proof.Proofs

open Sys2Proof Sys2Proof.Machine Sys2Proof.Laws

theorem dummyPass_eq (a : ArrayState) (g w : Nat) : { a.dummyPass g w with scratch := a.scratch } = a := by
  unfold ArrayState.dummyPass
  split <;> rfl

theorem dummyPass_driven (a : ArrayState) (g w : Nat) : (a.dummyPass g w).driven = a.driven := (congrArg ArrayState.driven (dummyPass_eq a g w) :)
theorem dummyPass_dummy (a : ArrayState) (g w : Nat) : (a.dummyPass g w).dummy = a.dummy := (congrArg ArrayState.dummy (dummyPass_eq a g w) :)
theorem dummyPass_acc (a : ArrayState) (g w : Nat) : (a.dummyPass g w).acc = a.acc := (congrArg ArrayState.acc (dummyPass_eq a g w) :)

theorem shapeArray_live {s : State} {g : Nat} (a : ArrayState) (h : s.beat.held = false) (hpb : 8 ≤ s.pbeat) :
    (s.shapeArray g a).driven = a.level (s.pbeat - 8) a.lastD ∧
      (s.shapeArray g a).dummy = (s.shapeArray g a).driven - a.rowsAt (s.pbeat - 8) := by
  unfold State.shapeArray
  simp only [h, Bool.false_eq_true, if_false, dummyPass_driven, dummyPass_dummy]
  unfold ArrayState.shapeLive
  rw [if_neg (by omega)]
  exact ⟨rfl, rfl⟩

theorem heldLeft_pos {s : State} {k : Nat} (h : s.heldLeft = some k) : 0 < k := by
  unfold State.heldLeft at h
  obtain ⟨j, -, rfl⟩ := Option.map_eq_some_iff.mp h
  omega

/-- In a held beat an array keeps its level, or ramps to one row more. -/
theorem shapeArray_held {s : State} (g : Nat) (a : ArrayState) (h : s.beat.held = true) :
    (s.shapeArray g a).driven = a.shapeHeld.driven ∨
      a.power ≠ 3 ∧ (s.shapeArray g a).driven = a.shapeHeld.driven + 1 := by
  unfold State.shapeArray
  simp only [h, if_true, dummyPass_driven]
  split
  · rename_i k hk
    have hpos := heldLeft_pos hk
    split
    · rename_i hramp
      refine .inr ⟨fun hp => ?_, rfl⟩
      have hzero : a.shapeHeld.rampTarget s.pbeat = 0 := if_pos hp
      omega
    · exact .inl rfl
  · exact .inl rfl

theorem shapeHeld_acc (a : ArrayState) : a.shapeHeld.acc = a.acc := rfl
theorem rampUp_acc (a : ArrayState) (w : Nat) : (a.rampUp w).acc = a.acc := rfl
theorem shapeLive_acc (a : ArrayState) (pb : Nat) : (a.shapeLive pb).acc = a.acc := by
  unfold ArrayState.shapeLive
  split <;> rfl

theorem shapeArray_acc (s : State) (g : Nat) (a : ArrayState) : (s.shapeArray g a).acc = a.acc := by
  unfold State.shapeArray
  rw [dummyPass_acc]
  split
  · extract_lets a0
    have h0 : a0.acc = a.acc := shapeHeld_acc a
    clear_value a0
    split
    · split
      · rw [rampUp_acc, h0]
      · exact h0
    · exact h0
  · exact shapeLive_acc a _

/-- An array that presents no rows and drives none stays so. -/
theorem shapeArray_default (s : State) (g : Nat) : s.shapeArray g {} = {} := by
  have hlive : ArrayState.shapeLive {} s.pbeat = {} := by
    unfold ArrayState.shapeLive
    split <;> rfl
  have hheld : ArrayState.shapeHeld {} = {} := rfl
  have hzero : ArrayState.rampTarget {} s.pbeat = 0 := rfl
  unfold State.shapeArray
  rw [hlive, hheld]
  split
  · split
    · rename_i k hk
      have hpos := heldLeft_pos hk
      rw [if_neg (by rw [hzero]; omega)]
      rfl
    · rfl
  · rfl

end Sys2Proof.Proofs
end

section
/-! O9. What the loads and combines of a beat may change: the spokes, the counts of checked words, and a machine check (R177, R217). -/

namespace Sys2Proof.Proofs

open Sys2Proof Sys2Proof.Machine Sys2Proof.Laws

/-- The beat `b` but for the hold of a fault is the beat `c`. -/
def BeatButFault (b c : BeatState) : Prop :=
  { c with faultHold := b.faultHold, faultDemands := b.faultDemands, faultAt := b.faultAt, machineCheck := b.machineCheck } = b

/-- Reading has changed the spokes, the free values, and what a record and a fault's hold do. -/
structure HasRead (s t : State) : Prop where
  frame : { OnlyReportsOf s t with spokes := s.spokes, freeCtr := s.freeCtr } = s
  beat : BeatButFault s.beat t.beat

theorem beatButFault_refl (b : BeatState) : BeatButFault b b := rfl

theorem hasRead_refl (s : State) : HasRead s s := ⟨rfl, beatButFault_refl s.beat⟩

theorem hasRead_trans {s t u : State} (h : HasRead s t) (k : HasRead t u) : HasRead s u where
  frame := by
    have hk := congrArg (fun x : State => { OnlyReportsOf s x with spokes := s.spokes, freeCtr := s.freeCtr }) k.frame
    exact (hk :).trans h.frame
  beat := by
    have hk := congrArg (fun x : BeatState => { x with faultHold := s.beat.faultHold, faultDemands := s.beat.faultDemands
                                                       faultAt := s.beat.faultAt, machineCheck := s.beat.machineCheck }) k.beat
    exact (hk :).trans h.beat

theorem hasRead_foldl {β : Type} {f : State → β → State} (hf : ∀ u x, HasRead u (f u x)) (l : List β) : ∀ s, HasRead s (l.foldl f s) := by
  induction l with
  | nil => exact hasRead_refl
  | cons x l ih => exact fun s => hasRead_trans (hf s x) (ih _)

/-- Nothing but the counts of checked words differs. -/
def ChecksOnly (s t : State) : Prop := { t with dieMem := s.dieMem, memStacks := s.memStacks } = s

theorem checksOnly_trans {s t u : State} (h : ChecksOnly s t) (k : ChecksOnly t u) : ChecksOnly s u :=
  (congrArg (fun x : State => { x with dieMem := s.dieMem, memStacks := s.memStacks }) k :).trans h

theorem countCe_checksOnly (s : State) (r : Region) : ChecksOnly s (s.countCe r) := by cases r <;> rfl
theorem countUe_checksOnly (s : State) (r : Region) (o i : Nat) : ChecksOnly s (s.countUe r o i) := by cases r <;> rfl

theorem checkWord_checksOnly (s : State) (a : Nat) : ChecksOnly s (s.checkWord a).2 := by
  unfold State.checkWord
  split
  case h_3 => exact countUe_checksOnly s _ _ _
  case h_5 => exact countCe_checksOnly s _
  all_goals rfl

theorem readMemF_checksOnly (fuel : Nat) : ∀ (s : State) (a n : Nat), ChecksOnly s (State.readMemF fuel s a n).2 := by
  induction fuel with
  | zero => exact fun _ _ _ => rfl
  | succ fuel ih =>
    intro s a n
    simp only [State.readMemF, State.readWord]
    split
    · rfl
    · exact checksOnly_trans (checkWord_checksOnly s a) (ih _ _ _)

theorem hasRead_of_checksOnly {s t : State} (h : ChecksOnly s t) : HasRead s t where
  frame := (congrArg (fun x : State => { OnlyReportsOf s x with spokes := s.spokes, freeCtr := s.freeCtr }) h :)
  beat := by rw [show t.beat = s.beat from (congrArg State.beat h :)]; rfl

/-- What a machine check changes: the logs, their numbers, the mailboxes and, of the beat, the hold and its demands. -/
theorem machineCheck_eq (s : State) (code unitKind d unit detail : Nat) : ∃ hl al hs as m,
    s.machineCheck code unitKind d unit detail = { s with
      hubLog := hl, aoLog := al, hubSeq := hs, aoSeq := as, mbs := m
      beat := { s.beat with faultHold := true, faultDemands := s.beat.faultDemands ||| (1 <<< d),
                            faultAt := some (s.beat.faultAt.getD s.wall), machineCheck := true } } := by
  obtain ⟨hl, al, hs, as, m, h⟩ := log_eq s 2 code unitKind d unit detail
  exact ⟨hl, al, hs, as, m, by unfold State.machineCheck; rw [h]; rfl⟩

theorem hasRead_poisonCheck (s : State) (unitKind d unit off : Nat) : HasRead s (s.poisonCheck unitKind d unit off) := by
  unfold State.poisonCheck
  obtain ⟨hl, al, hs, as, m, h⟩ := machineCheck_eq s 0x40 unitKind d unit (off / 8 * 8)
  rw [h]
  exact ⟨rfl, rfl⟩

theorem hasRead_setSpoke (s : State) (p : Nat) (a : SpokeState) : HasRead s (s.setSpoke p a) where
  frame := by
    unfold State.setSpoke OnlyReportsOf
    rfl
  beat := beatButFault_refl s.beat

theorem hasRead_draw (s : State) : HasRead s s.draw.2 := ⟨rfl, rfl⟩

theorem hasRead_landLoad (s : State) (p : Nat) (l : LoadItem) : HasRead s (s.landLoad p l) := by
  unfold State.landLoad
  extract_lets +onlyGivenNames a0 take
  split
  next bs s1 hr =>
  have hread : HasRead s s1 := by
    have h := hasRead_of_checksOnly (readMemF_checksOnly (l.size / 8 + 2) s l.addr l.size)
    unfold State.readMem at hr
    rw [hr] at h
    exact h
  extract_lets +onlyGivenNames bad s2
  have hcheck : HasRead s1 s2 := by
    unfold s2
    clear s2
    clear_value bad
    split
    · exact hasRead_poisonCheck s1 _ _ _ _
    · exact hasRead_refl s1
  exact hasRead_trans (hasRead_trans hread hcheck) (hasRead_setSpoke s2 p _)

theorem hasRead_landLoads (s : State) : HasRead s s.landLoads := by
  unfold State.landLoads
  refine hasRead_foldl (fun u e => ?_) s.spokes s
  exact hasRead_foldl (fun v l => hasRead_landLoad v e.1 l) _ u

theorem hasRead_combineCheck (s : State) (die : Nat) : HasRead s (s.combineCheck die) := by
  unfold State.combineCheck
  split
  · exact hasRead_trans (hasRead_draw s) (hasRead_poisonCheck _ _ _ _ _)
  · exact hasRead_refl s

/-- Where no load is in flight none reads. -/
theorem landLoads_none {s : State} (h : ∀ e ∈ s.spokes, e.2.loads = []) : s.landLoads = s := by
  unfold State.landLoads
  have hfold (l : List (Nat × SpokeState)) (hl : ∀ e ∈ l, e.2.loads = []) :
      l.foldl (fun s e => (e.2.loads.filter fun l => decide (l.readAt ≤ s.pbeat)).foldl (fun s l => s.landLoad e.1 l) s) s = s := by
    induction l with
    | nil => rfl
    | cons e l ih =>
      rw [List.foldl_cons, hl e (by simp), List.filter_nil, List.foldl_nil]
      exact ih fun x hx => hl x (by simp [hx])
  exact hfold _ h

theorem combineCheck_clean {s : State} {d : Nat} (h : (s.derailleur d).sumsPoison s.pbeat = false) : s.combineCheck d = s := by
  unfold State.combineCheck
  rw [h, Bool.and_false]
  rfl

theorem forAll_of_fixed {n : Nat} {s : State} {f : State → Nat → State} (h : ∀ i < n, f s i = s) : forAll n s f = s := by
  unfold forAll
  have hfold (l : List Nat) (hl : ∀ i ∈ l, f s i = s) : l.foldl f s = s := by
    induction l with
    | nil => rfl
    | cons i l ih => rw [List.foldl_cons, hl i (by simp)]; exact ih fun j hj => hl j (by simp [hj])
  exact hfold _ fun i hi => h i (List.mem_range.mp hi)

end Sys2Proof.Proofs
end

section
/-! O9. The end of a beat and the start of the next. -/

namespace Sys2Proof.Proofs

open Sys2Proof Sys2Proof.Machine Sys2Proof.Laws

/-- The next beat as it begins, before loads and combines read. -/
def beatBegun (s : State) : State :=
  { s.endBeat.setBeat s.nextBeat with arrays := SMap.update {} s.arrays (s.endBeat.setBeat s.nextBeat).shapeArray }

theorem execHoldDemandArrival_aligned {s : State} (h : s.beat.aligned = true) :
    Answers .holdDemandArrival s fun t => HasRead (beatBegun s) t ∧
      ((∀ e ∈ s.spokes, e.2.loads = []) → (∀ d < 8, (s.derailleur d).sumsPoison (beatBegun s).pbeat = false) → t = beatBegun s) := by
  have hexec : exec .holdDemandArrival s = ok (if (beatBegun s).runs then
      forAll 8 (beatBegun s).landLoads fun s d => s.combineCheck d else beatBegun s) := by
    change execHoldDemandArrival s = _
    unfold execHoldDemandArrival
    rw [h]
    rfl
  refine ⟨_, hexec, ?_, fun hloads hclean => ?_⟩
  · split
    · exact hasRead_trans (hasRead_landLoads _) (hasRead_foldl hasRead_combineCheck _ _)
    · exact hasRead_refl _
  · split
    · rw [landLoads_none (s := beatBegun s) hloads]
      exact forAll_of_fixed fun d hd => combineCheck_clean (hclean d hd)
    · rfl

/-- The demands that decide the next beat count from beat 16 on; before it none stood. -/
theorem causesAt_eq (s : State) (w : Nat) : s.causesAt w =
    { wait := decide (16 ≤ w) && (s.seenDemands (w - 16)).wait, brake := brakeHolds (s.brakeAt w) w
      shift := decide (16 ≤ w) && (s.seenDemands (w - 16)).shift, hub := decide (16 ≤ w) && (s.seenDemands (w - 16)).hub } := by
  unfold State.causesAt
  by_cases h : w < 16
  · have hle : ¬16 ≤ w := by omega
    simp only [h, hle, if_true, decide_false, Bool.false_and]
    rfl
  · have hle : 16 ≤ w := by omega
    simp only [h, hle, if_false, decide_true, Bool.true_and]

theorem seenDemands_right {s : State} (h : ∀ e ∈ s.ends, e.2.holdErrs = []) (w : Nat) : s.seenDemands w = s.demandsAt w := by
  unfold State.seenDemands
  have hall : (s.ends.all fun x => x.2.holdErrs.isEmpty) = true := List.all_eq_true.mpr fun e he => by rw [h e he]; rfl
  simp only [hall, if_true]

/-- What reading leaves of the beat that has begun. -/
structure BeatFollows (s t : State) : Prop where
  frame : { OnlyReportsOf s t with arrays := s.arrays, spokes := s.spokes, counters := s.counters, t0Writes := s.t0Writes
                                   beatMem := s.beatMem, freeCtr := s.freeCtr } = s
  beat : BeatButFault s.nextBeat t.beat
  counters : t.counters = SMap.update {} s.counters fun _ c => c.endBeat
  arrays : t.arrays = SMap.update {} s.arrays (s.endBeat.setBeat s.nextBeat).shapeArray
  pbeat : t.pbeat = (s.endBeat.setBeat s.nextBeat).pbeat
  beatMem : t.beatMem = none

theorem beatBegun_beat (s : State) : (beatBegun s).beat = s.nextBeat := rfl

theorem beatFollows_of_hasRead {s t : State} (h : HasRead (beatBegun s) t) : BeatFollows s t where
  frame := (congrArg (fun x : State =>
    { OnlyReportsOf s x with arrays := s.arrays, spokes := s.spokes, counters := s.counters, t0Writes := s.t0Writes
                             beatMem := s.beatMem, freeCtr := s.freeCtr }) h.frame :)
  beat := by
    have hbeat := h.beat
    rwa [beatBegun_beat] at hbeat
  counters := (congrArg State.counters h.frame :)
  arrays := (congrArg State.arrays h.frame :)
  pbeat := by
    have hsched : t.beat.schedBeat = (beatBegun s).beat.schedBeat := (congrArg BeatState.schedBeat h.beat :)
    have hprog : t.prog = s.prog := (congrArg State.prog h.frame :)
    unfold State.pbeat
    rw [hsched, hprog]
    rfl
  beatMem := (congrArg State.beatMem h.frame :)

theorem BeatFollows.dieCounters {s t : State} (h : BeatFollows s t) (hwf : SMap.wf {} s.counters = true) (d : Nat) :
    t.dieCounters d = (s.dieCounters d).endBeat := by
  unfold State.dieCounters
  rw [h.counters]
  exact get_update (f := fun _ c => DieCounters.endBeat c) rfl _ hwf

theorem BeatFollows.array {s t : State} (h : BeatFollows s t) (hwf : SMap.wf {} s.arrays = true) (g : Nat) :
    t.array g = (s.endBeat.setBeat s.nextBeat).shapeArray g (s.array g) := by
  unfold State.array
  rw [h.arrays]
  exact get_update (shapeArray_default _ g) _ hwf

theorem endBeat_signal (c : DieCounters) (hwf : SMap.wf 0 c.steps = true) (id : Nat) :
    SMap.get 0 c.endBeat.signal id = SMap.get 0 c.signal id + SMap.get 0 c.steps id := get_foldl_add _ _ hwf

/-- Before the beats are aligned only provisional beats count, in the truing stage with its clocks (R48, R272). -/
theorem execHoldDemandArrival_unaligned {s : State} (h : s.beat.aligned = false) :
    exec .holdDemandArrival s = ok (if s.power.stage = 2 ∧ s.power.clocks then s.provBeat else s) := by
  change execHoldDemandArrival s = _
  unfold execHoldDemandArrival
  rw [h]
  rfl

/-- The state with one more provisional beat and this zero mark. -/
def provNext (s : State) (z : Option Nat) : State := { s with beat := { s.beat with provBeats := s.beat.provBeats + 1, zeroMark := z } }

theorem linksAligned_iff (s : State) : s.linksAligned = true ↔ ∀ l < 10, (s.linkEnd (2 * l)).state = 4 := by
  unfold State.linksAligned
  simp only [List.all_eq_true, List.mem_range, beq_iff_eq]

theorem provBeat_marked {s : State} {m : Nat} (h : s.beat.zeroMark = some m) :
    s.provBeat = if s.beat.provBeats < m + 16 then provNext s (some m) else s := by
  unfold State.provBeat
  simp only [h]
  split
  · unfold provNext
    rw [← h]
    rfl
  · rfl

theorem provBeat_unmarked {s : State} (h : s.beat.zeroMark = none) :
    s.provBeat = provNext s (if s.linksAligned && (s.provWall 0 + 17) % 1024 == 0 then some (s.beat.provBeats + 1) else none) := by
  have hwall : (provNext s none).provWall 0 + 16 = s.provWall 0 + 17 := by
    unfold provNext State.provWall
    simp only
    omega
  have hlinks : (provNext s none).linksAligned = s.linksAligned := rfl
  have hnext : s.setBeat { s.beat with provBeats := s.beat.provBeats + 1 } = provNext s none := by
    unfold provNext
    rw [← h]
    rfl
  unfold State.provBeat
  extract_lets b s1
  have hs1 : s1 = provNext s none := hnext
  have hb : b.zeroMark = none := h
  split
  · rename_i m hm
    exact absurd (hb.symm.trans hm) (Option.some_ne_none m).symm
  · rw [hs1, hwall, hlinks]
    split <;> rfl

theorem nextBeat_schedBeat (s : State) : s.nextBeat.schedBeat = if s.beat.held then s.beat.schedBeat else s.beat.schedBeat + 1 := by
  change countIf (!s.beat.held) s.beat.schedBeat = _
  unfold countIf
  cases s.beat.held <;> rfl

theorem nextBeat_routed {s : State} (h : s.beat.aligned = true) : s.nextBeat.routed =
    if s.beat.held = false ∨ s.prog.running = false then s.beat.routed + 1 else s.beat.routed := by
  change (if s.live || !s.prog.running then s.beat.routed + 1 else s.beat.routed) = _
  unfold State.live
  rw [h]
  cases s.beat.held <;> cases s.prog.running <;> rfl

/-- In the beat that begins an array drives the level of R93, or in a held one keeps its level or ramps by one row (R98). -/
theorem BeatFollows.array_level {s t : State} (h : BeatFollows s t) (hheld : t.beat.held = s.nextBeat.held)
    (hwf : SMap.wf {} s.arrays = true) (g : Nat) :
    (t.beat.held = false → 8 ≤ t.pbeat →
      (t.array g).driven = (s.array g).level (t.pbeat - 8) (s.array g).lastD ∧
      (t.array g).dummy = (t.array g).driven - (s.array g).rowsAt (t.pbeat - 8)) ∧
    (t.beat.held = true → (s.array g).power = 3 → (t.array g).driven = 0) ∧
    (t.beat.held = true → (s.array g).power ≠ 3 →
      (s.array g).driven ≤ (t.array g).driven ∧ (t.array g).driven ≤ (s.array g).driven + 1) ∧
    (t.array g).acc = (s.array g).acc := by
  rw [h.array hwf, h.pbeat, hheld]
  refine ⟨fun hlive hpb => shapeArray_live _ hlive hpb, fun hh hp => ?_, fun hh hp => ?_, shapeArray_acc _ _ _⟩
  · have hzero : (s.array g).shapeHeld.driven = 0 := if_pos hp
    rcases shapeArray_held (s := s.endBeat.setBeat s.nextBeat) g (s.array g) hh with hkept | ⟨hne, -⟩
    · rw [hkept, hzero]
    · exact absurd hp hne
  · have hsame : (s.array g).shapeHeld.driven = (s.array g).driven := if_neg hp
    rcases shapeArray_held (s := s.endBeat.setBeat s.nextBeat) g (s.array g) hh with hkept | ⟨-, hramped⟩
    · rw [hkept, hsame]
      exact ⟨le_rfl, Nat.le_succ _⟩
    · rw [hramped, hsame]
      exact ⟨Nat.le_succ _, le_rfl⟩

/-- Settles O9: the beat that follows is `nextBeat`, but for the hold of a fault that its loads and combines raise. -/
theorem everyBeatCountsItselfAndItsCauses : Obligations.EveryBeatCountsItselfAndItsCauses := by
  unfold Obligations.EveryBeatCountsItselfAndItsCauses
  refine ⟨fun s hal => ?_, fun s hal => ?_⟩
  · intro next
    rw [execHoldDemandArrival_unaligned hal]
    refine ⟨fun h => congrArg Host.Outcome.next (if_neg ?_), fun hstage hclocks => ?_⟩
    · rcases h with h | h
      · exact fun hs => h hs.1
      · exact fun hs => Bool.false_ne_true (h.symm.trans hs.2)
    · rw [if_pos ⟨hstage, hclocks⟩]
      refine ⟨fun m hm hlt => ?_, fun m hm hle => ?_, fun hnone => ⟨fun hlinks hmod => ?_, fun h => ?_⟩⟩
      · rw [provBeat_marked hm, if_pos hlt]
        rfl
      · rw [provBeat_marked hm, if_neg (by omega)]
      · rw [provBeat_unmarked hnone, (linksAligned_iff s).mpr hlinks, hmod]
        rfl
      · have hnot : (s.linksAligned && (s.provWall 0 + 17) % 1024 == 0) = false := by
          rw [Bool.and_eq_false_iff]
          rcases h with ⟨l, hl, hstate⟩ | hmod
          · exact .inl (Bool.eq_false_iff.mpr fun hal => hstate ((linksAligned_iff s).mp hal l hl))
          · exact .inr (beq_eq_false_iff_ne.mpr hmod)
        rw [provBeat_unmarked hnone, hnot]
        rfl
  · obtain ⟨t, ht, hread, hquiet⟩ := execHoldDemandArrival_aligned hal
    have hnext := beatFollows_of_hasRead hread
    have hb {β : Type} (f : BeatState → β) (hf : ∀ b : BeatState, f { b with
        faultHold := s.nextBeat.faultHold, faultDemands := s.nextBeat.faultDemands, faultAt := s.nextBeat.faultAt
        machineCheck := s.nextBeat.machineCheck } = f b) : f t.beat = f s.nextBeat := (hf _).symm.trans (congrArg f hnext.beat)
    refine ⟨t, ht, ?_⟩
    have hcauses := causesAt_eq s (s.wall + 1)
    refine ⟨fun h => seenDemands_right h _, hb (·.wallBeat) fun _ => rfl, ?_, hb (·.heldWait) fun _ => rfl, hb (·.heldBrake) fun _ => rfl,
      hb (·.heldShift) fun _ => rfl, hb (·.heldHub) fun _ => rfl, (hb (·.causeWait) fun _ => rfl).trans (congrArg Causes.wait hcauses),
      (hb (·.causeShift) fun _ => rfl).trans (congrArg Causes.shift hcauses),
      (hb (·.causeHub) fun _ => rfl).trans (congrArg Causes.hub hcauses),
      (hb (·.causeBrake) fun _ => rfl).trans (congrArg Causes.brake hcauses), ?_, hb (·.history) fun _ => rfl,
      hb (·.waits) fun _ => rfl, hb (·.brakeN) fun _ => rfl, hb (·.gear) fun _ => rfl, hb (·.hubDemand) fun _ => rfl,
      hb (·.shiftDemand) fun _ => rfl, hnext.beatMem, ?_, fun hwf hsteps d => ?_, fun hwf g => ?_, fun hloads hclean => ?_, hnext.frame⟩
    · exact (hb (·.schedBeat) fun _ => rfl).trans (nextBeat_schedBeat s)
    · rw [hb (·.held) fun _ => rfl, hb (·.causeWait) fun _ => rfl, hb (·.causeBrake) fun _ => rfl, hb (·.causeShift) fun _ => rfl,
        hb (·.causeHub) fun _ => rfl]
      rfl
    · exact (hb (·.routed) fun _ => rfl).trans (nextBeat_routed hal)
    · rw [hnext.dieCounters hwf]
      exact ⟨endBeat_signal _ (hsteps d), rfl⟩
    · exact hnext.array_level (hb (·.held) fun _ => rfl) hwf g
    · rw [hquiet hloads fun d hd => by rw [← hclean d hd, hnext.pbeat]; rfl]
      exact ⟨rfl, rfl, rfl, rfl⟩

end Sys2Proof.Proofs
end

section
/-! O11. A servant's value crosses to the copies of the dies (R42, R45, R384). -/

namespace Sys2Proof.Proofs

open Sys2Proof Sys2Proof.Machine Sys2Proof.Laws

/-- The bits of a number that is put together from its bits below `k`, bit `k` and those above. -/
theorem testBit_parts {k q c r : Nat} (hc : c < 2) (hr : r < 2 ^ k) (n : Nat) :
    (2 ^ k * (2 ^ 1 * q + c) + r).testBit n =
      if n < k then r.testBit n else if n = k then c.testBit 0 else q.testBit (n - k - 1) := by
  rw [Nat.testBit_two_pow_mul_add _ hr]
  by_cases hlt : n < k
  · rw [if_pos hlt, if_pos hlt]
  · rw [if_neg hlt, if_neg hlt, Nat.testBit_two_pow_mul_add _ (by simpa using hc)]
    by_cases heq : n = k
    · rw [if_pos heq, if_pos (by omega), heq, Nat.sub_self]
    · rw [if_neg heq, if_neg (by omega)]

/-- A number with bit `k` replaced, bit by bit. -/
theorem testBit_replaceBit (x k n c : Nat) (hc : c < 2) :
    (x - x >>> k % 2 * 2 ^ k + c * 2 ^ k).testBit n = if n = k then c.testBit 0 else x.testBit n := by
  have hr : x % 2 ^ k < 2 ^ k := Nat.mod_lt _ (Nat.two_pow_pos k)
  have hx : x = 2 ^ k * (2 ^ 1 * (x / 2 ^ k / 2) + x / 2 ^ k % 2) + x % 2 ^ k := by
    rw [pow_one, Nat.div_add_mod, Nat.div_add_mod]
  have hy : x - x >>> k % 2 * 2 ^ k + c * 2 ^ k = 2 ^ k * (2 ^ 1 * (x / 2 ^ k / 2) + c) + x % 2 ^ k := by
    rw [Nat.shiftRight_eq_div_pow]
    have hsplit : x = 2 ^ k * (2 * (x / 2 ^ k / 2)) + x / 2 ^ k % 2 * 2 ^ k + x % 2 ^ k := by
      conv_lhs => rw [hx]
      ring
    have hnew : 2 ^ k * (2 ^ 1 * (x / 2 ^ k / 2) + c) = 2 ^ k * (2 * (x / 2 ^ k / 2)) + c * 2 ^ k := by ring
    rw [hnew]
    omega
  rw [hy, testBit_parts hc hr]
  conv_rhs => rw [hx, testBit_parts (Nat.mod_lt _ (by decide)) hr]
  by_cases heq : n = k
  · rw [if_neg (by omega), if_pos heq, if_pos heq]
  · rw [if_neg heq, if_neg heq, if_neg heq]

/-- Setting one bit of a word leaves the others. -/
theorem bitOf_setFld_bit (w : BitVec 64) (k n : Nat) (b : Bool) (hk : k < 64) :
    bitOf (setFld w k k (if b then 1 else 0)) n = if n = k then b else bitOf w n := by
  have hone : k + 1 - k = 1 := by omega
  have hbit : (if b then 1 else 0) % 2 < 2 := Nat.mod_lt _ (by decide)
  unfold setFld bitOf fld
  rw [BitVec.testBit_toNat, BitVec.getLsbD_ofNat, hone, pow_one, testBit_replaceBit _ _ _ _ hbit]
  by_cases heq : n = k
  · subst heq
    cases b <;> simp [hk]
  · rw [if_neg heq, if_neg heq]
    by_cases hn : n < 64
    · rw [decide_eq_true hn, Bool.true_and]
    · rw [BitVec.testBit_toNat, BitVec.getLsbD_of_ge _ _ (by omega), Bool.and_false]

/-- The counters of die `d` when counter `i` has crossed to it. -/
def crossedCounters (s : State) (i d : Nat) : DieCounters :=
  { s.dieCounters d with
    copies := SMap.set 0 (s.dieCounters d).copies i (s.servantValue d i)
    abortCopy := if 0x20 ≤ i ∧ i < 0x60 then
        setFld (s.dieCounters d).abortCopy (i - 0x20) (i - 0x20) (if bitOf s.abort (i - 0x20) then 1 else 0)
      else (s.dieCounters d).abortCopy }

theorem crossCounter_eq (s : State) (i d : Nat) : s.crossCounter i d = s.setDieCounters d (crossedCounters s i d) := rfl

theorem crossedCounters_copy {s t : State} {q : Nat} (i : ServantCounterId) (h : t.dieCounters q = crossedCounters s i q) (id : Nat) :
    t.counterCopy q id = if id = 0x100 + i.val then s.servantValue q i else s.counterCopy q id := by
  have hsignal : (crossedCounters s i q).signal = (s.dieCounters q).signal := rfl
  have hcopies : (crossedCounters s i q).copies = SMap.set 0 (s.dieCounters q).copies i (s.servantValue q i) := rfl
  unfold State.counterCopy
  rw [h, hsignal, hcopies]
  by_cases hid : id < 0x100
  · rw [if_pos hid, if_pos hid, if_neg (by omega)]
  · rw [if_neg hid, if_neg hid, get_set]
    by_cases he : id = 0x100 + i.val
    · rw [if_pos he, if_pos (by omega)]
    · rw [if_neg he, if_neg (by omega)]

theorem crossedCounters_flag {s t : State} {q : Nat} (i : ServantCounterId) (h : t.dieCounters q = crossedCounters s i q) {n : Nat} (hn : n < 64) :
    t.abortCopyBit q n = if i.val = 0x20 + n then bitOf s.abort n else s.abortCopyBit q n := by
  unfold State.abortCopyBit
  rw [h]
  unfold crossedCounters
  simp only
  by_cases hi : 0x20 ≤ i.val ∧ i.val < 0x60
  · rw [if_pos hi, bitOf_setFld_bit _ _ _ _ (by omega)]
    by_cases he : i.val = 0x20 + n
    · rw [if_pos he, if_pos (by omega), show i.val - 0x20 = n by omega]
    · rw [if_neg he, if_neg (by omega)]
  · rw [if_neg hi, if_neg (by omega)]

theorem servantValue_chunk {i : Nat} (s : State) (d e : Nat) (h : 0x20 ≤ i ∧ i < 0x60) : s.servantValue d i = s.servantValue e i := by
  have hd (x : Nat) : s.servantValue x i = SMap.get 0 s.chunk (i - 0x20) := by
    unfold State.servantValue
    rw [if_neg (by omega), if_pos (by omega)]
  rw [hd, hd]

/-- A counter crosses to the dies below `n` one by one, from what each held. -/
theorem forAll_crossCounter (s : State) (i n : Nat) :
    (∀ q, (forAll n s fun s x => s.crossCounter i x).dieCounters q = if q < n then crossedCounters s i q else s.dieCounters q) ∧
      { (forAll n s fun s x => s.crossCounter i x) with counters := s.counters } = s := by
  unfold forAll
  induction n with
  | zero => exact ⟨fun q => (if_neg (Nat.not_lt_zero q)).symm, rfl⟩
  | succ n ih =>
    rw [List.range_succ, List.foldl_append, List.foldl_cons, List.foldl_nil]
    generalize (List.range n).foldl (fun s x => s.crossCounter i x) s = u at ih ⊢
    obtain ⟨hdies, hframe⟩ := ih
    have hcrossed : crossedCounters u i n = crossedCounters s i n := by
      have hdie : u.dieCounters n = s.dieCounters n := by rw [hdies, if_neg (Nat.lt_irrefl n)]
      have hvalue : u.servantValue n i = s.servantValue n i := (congrArg (fun x : State => x.servantValue n i) hframe :)
      have habort : u.abort = s.abort := (congrArg State.abort hframe :)
      unfold crossedCounters
      rw [hdie, hvalue, habort]
    refine ⟨fun q => ?_, hframe⟩
    rw [crossCounter_eq, setDieCounters_dieCounters, hcrossed, hdies]
    by_cases hq : q = n
    · rw [if_pos hq, if_pos (by omega), hq]
    · rw [if_neg hq]
      by_cases hlt : q < n
      · rw [if_pos hlt, if_pos (by omega)]
      · rw [if_neg hlt, if_neg (by omega)]

/-- A crossing reaches the copies of one die, or of all eight, and changes nothing else. -/
theorem execServantCounterCrossing_crosses (d : DieId) (i : ServantCounterId) (s : State) : Answers (.servantCounterCrossing d i) s fun t =>
    (∀ q, t.dieCounters q = if q = d.val ∨ (0x20 ≤ i.val ∧ i.val < 0x60 ∧ q < 8) then crossedCounters s i q else s.dieCounters q) ∧
      { t with counters := s.counters } = s := by
  have hexec : exec (.servantCounterCrossing d i) s =
    ok (if 0x20 ≤ i.val ∧ i.val < 0x60 then forAll 8 s fun s x => s.crossCounter i x else s.crossCounter i d) := rfl
  by_cases hi : 0x20 ≤ i.val ∧ i.val < 0x60
  · rw [if_pos hi] at hexec
    obtain ⟨hdies, hframe⟩ := forAll_crossCounter s i 8
    refine ⟨_, hexec, fun q => ?_, hframe⟩
    rw [hdies]
    by_cases hq : q < 8
    · rw [if_pos hq, if_pos (.inr ⟨hi.1, hi.2, hq⟩)]
    · rw [if_neg hq, if_neg (by omega)]
  · rw [if_neg hi] at hexec
    refine ⟨_, hexec, fun q => ?_, rfl⟩
    rw [crossCounter_eq, setDieCounters_dieCounters]
    by_cases hq : q = d.val
    · rw [if_pos hq, if_pos (.inl hq), hq]
    · rw [if_neg hq, if_neg (by omega)]

/-! ### The brake and the clearing of a fault hold (R46, R50) -/

/-- Of brake values that wait, the last that is due takes effect and the rest wait on. -/
theorem execBrakeApply_due {s : State} {due rest : List (BitVec 4 × Nat)} {n : BitVec 4} {w : Nat}
    (hpending : s.beat.brakePending = due ++ (n, w) :: rest) (hdue : ∀ x ∈ due ++ [(n, w)], brakeDue s.wall x = true)
    (hrest : ∀ x ∈ rest, brakeDue s.wall x = false) :
    exec .brakeApply s = .next { s with beat := { s.beat with brakeN := n, brakePending := rest } } := by
  have hsplit : s.beat.brakePending = (due ++ [(n, w)]) ++ rest := by rw [hpending, List.append_assoc]; rfl
  have hany : s.beat.brakePending.any (brakeDue s.wall) = true :=
    List.any_eq_true.mpr ⟨(n, w), by rw [hpending]; simp, hdue _ (by simp)⟩
  have hin : s.beat.brakePending.filter (brakeDue s.wall) = due ++ [(n, w)] := by
    rw [hsplit, List.filter_append, List.filter_eq_self.mpr hdue, List.filter_eq_nil_iff.mpr fun x hx => by simp [hrest x hx], List.append_nil]
  have hout : (s.beat.brakePending.filter fun p => !brakeDue s.wall p) = rest := by
    rw [hsplit, List.filter_append, List.filter_eq_nil_iff.mpr fun x hx => by simp [hdue x hx],
      List.filter_eq_self.mpr fun x hx => by simp [hrest x hx], List.nil_append]
  have hbrake : s.brakeAt s.wall = n.toNat := by
    unfold State.brakeAt
    rw [hin, List.getLast?_concat]
    rfl
  change execBrakeApply s = _
  unfold execBrakeApply
  rw [if_pos hany, hbrake, hout, BitVec.ofNat_toNat, BitVec.setWidth_eq]
  rfl

theorem execFaultHoldClear_stopped {s : State} (hhold : s.beat.faultHold = true) (hstopped : s.beat.stopped = true) :
    exec .faultHoldClear s = .next { s with beat :=
      { s.beat with faultHold := false, faultDemands := 0, faultAt := none, machineCheck := false, stopped := false } } := by
  change execFaultHoldClear s = _
  unfold execFaultHoldClear
  rw [hhold, hstopped]
  rfl

end Sys2Proof.Proofs
end

section
/-! O11. The stop of a program in a fault hold: its collectives abort, its channels stop, its units are left idle (R46, R410). -/

namespace Sys2Proof.Proofs

open Sys2Proof Sys2Proof.Machine Sys2Proof.Laws

/-- What neither the abort of collectives nor the stop of channels changes. -/
structure StopKeeps (s t : State) : Prop where
  beat : t.beat = s.beat
  prog : t.prog = s.prog
  pending : t.pending = s.pending
  settings : t.settings = s.settings
  counters : t.counters = s.counters
  mach : t.mach = s.mach
  hub : { t.hub with openCmds := s.hub.openCmds, relayOut := s.hub.relayOut } = s.hub

/-- Nor are memory and the collective engines changed. -/
structure StopQuiet (s t : State) : Prop extends StopKeeps s t where
  engines : t.engines = s.engines
  mem : t.mem = s.mem

theorem stopKeeps_trans {s t u : State} (h : StopKeeps s t) (k : StopKeeps t u) : StopKeeps s u where
  beat := k.beat.trans h.beat
  prog := k.prog.trans h.prog
  pending := k.pending.trans h.pending
  settings := k.settings.trans h.settings
  counters := k.counters.trans h.counters
  mach := k.mach.trans h.mach
  hub := (congrArg (fun x : HubState => { x with openCmds := s.hub.openCmds, relayOut := s.hub.relayOut }) k.hub :).trans h.hub

theorem stopKeeps_refl (s : State) : StopKeeps s s := ⟨rfl, rfl, rfl, rfl, rfl, rfl, rfl⟩

theorem stopQuiet_refl (s : State) : StopQuiet s s := ⟨stopKeeps_refl s, rfl, rfl⟩

theorem stopQuiet_trans {s t u : State} (h : StopQuiet s t) (k : StopQuiet t u) : StopQuiet s u :=
  ⟨stopKeeps_trans h.toStopKeeps k.toStopKeeps, k.engines.trans h.engines, k.mem.trans h.mem⟩

theorem stopQuiet_foldl {β : Type} {f : State → β → State} (hf : ∀ u x, StopQuiet u (f u x)) (l : List β) : ∀ s, StopQuiet s (l.foldl f s) := by
  induction l with
  | nil => exact stopQuiet_refl
  | cons x l ih => exact fun s => stopQuiet_trans (hf s x) (ih _)

theorem stopQuiet_setFab (s : State) (k : Nat) (a : FabState) : StopQuiet s (s.setFab k a) := ⟨⟨rfl, rfl, rfl, rfl, rfl, rfl, rfl⟩, rfl, rfl⟩
theorem stopQuiet_setVault (s : State) (g : Nat) (a : VaultState) : StopQuiet s (s.setVault g a) := ⟨⟨rfl, rfl, rfl, rfl, rfl, rfl, rfl⟩, rfl, rfl⟩
theorem stopQuiet_setStk (s : State) (t : Nat) (a : StackState) : StopQuiet s (s.setStk t a) := ⟨⟨rfl, rfl, rfl, rfl, rfl, rfl, rfl⟩, rfl, rfl⟩
theorem stopQuiet_setChannel (s : State) (c : Nat) (a : ChannelState) : StopQuiet s (s.setChannel c a) := ⟨⟨rfl, rfl, rfl, rfl, rfl, rfl, rfl⟩, rfl, rfl⟩
theorem stopQuiet_setMb (s : State) (m : Nat) (a : MailboxState) : StopQuiet s (s.setMb m a) := ⟨⟨rfl, rfl, rfl, rfl, rfl, rfl, rfl⟩, rfl, rfl⟩

theorem stopQuiet_logEvent (s : State) (code unitKind die unit detail : Nat) : StopQuiet s (s.logEvent code unitKind die unit detail) := by
  unfold State.logEvent
  obtain ⟨hl, al, hs, as, m, h⟩ := log_eq s 3 code unitKind die unit detail
  rw [h]
  exact ⟨⟨rfl, rfl, rfl, rfl, rfl, rfl, rfl⟩, rfl, rfl⟩

theorem stopQuiet_sendCl (s : State) (k : Nat) (p : Packet) : StopQuiet s (s.sendCl k p) := by
  unfold State.sendCl
  split <;> exact stopQuiet_setFab s k _

theorem stopQuiet_dropRequest (s : State) (o : ReqOwner) (off : Nat) : StopQuiet s (s.dropRequest o off) := by
  unfold State.dropRequest
  extract_lets keep
  split
  · exact stopQuiet_setVault s _ _
  · exact stopQuiet_setStk s _ _
  · exact stopQuiet_setStk s _ _
  · exact ⟨⟨rfl, rfl, rfl, rfl, rfl, rfl, rfl⟩, rfl, rfl⟩
  · exact stopQuiet_refl s

/-! ### Channels -/

theorem stopQuiet_placeSlot (s : State) (n : Nat) (slot : BitVec 512) : StopQuiet s (s.placeSlot n slot) := by
  unfold State.placeSlot
  extract_lets m s1
  have h1 : StopQuiet s s1 := stopQuiet_setMb s _ _
  split
  · exact stopQuiet_trans h1 ⟨⟨rfl, rfl, rfl, rfl, rfl, rfl, rfl⟩, rfl, rfl⟩
  · exact h1

theorem stopQuiet_reply (s : State) (who : SenderId) (slot : BitVec 512) : StopQuiet s (s.reply who slot) := by
  unfold State.reply State.postSlot
  split
  · extract_lets m
    split
    · exact stopQuiet_placeSlot s _ _
    · exact stopQuiet_setMb s _ _
  · exact ⟨⟨rfl, rfl, rfl, rfl, rfl, rfl, rfl⟩, rfl, rfl⟩

theorem stopQuiet_completeCmd (s : State) (who : SenderId) (tag opcode status foff res : Nat) :
    StopQuiet s (s.completeCmd who tag opcode status foff res) := by
  unfold State.completeCmd
  split
  · refine stopQuiet_trans ?_ (stopQuiet_reply _ _ _)
    exact ⟨⟨rfl, rfl, rfl, rfl, rfl, rfl, rfl⟩, rfl, rfl⟩
  · exact stopQuiet_refl s

theorem stopQuiet_completeCopy (s : State) (c status halt : Nat) : StopQuiet s (s.completeCopy c status halt) := by
  unfold State.completeCopy
  split
  · exact stopQuiet_completeCmd s _ _ _ _ _ _
  · exact stopQuiet_refl s

theorem stopQuiet_discardQueue (s : State) (c : Nat) : StopQuiet s (s.discardQueue c) := by
  unfold State.discardQueue
  refine stopQuiet_trans (stopQuiet_setChannel s c _) (stopQuiet_foldl (fun u x => ?_) _ _)
  split
  · exact stopQuiet_completeCmd u _ _ _ _ _ _
  · exact stopQuiet_refl u

theorem stopQuiet_requestStop (s : State) (c : Nat) : StopQuiet s (s.requestStop c) := by
  unfold State.requestStop State.stopChannel
  extract_lets ch
  split
  · exact stopQuiet_trans (stopQuiet_trans (stopQuiet_completeCopy s _ _ _) (stopQuiet_discardQueue _ c)) (stopQuiet_setChannel _ c _)
  · exact stopQuiet_setChannel s c _

theorem stopQuiet_stopClaimed (s : State) : StopQuiet s s.stopClaimed := by
  unfold State.stopClaimed
  refine stopQuiet_foldl (fun u e => ?_) _ s
  split; · exact stopQuiet_refl u
  split
  · exact stopQuiet_setChannel u _ _
  · exact stopQuiet_requestStop u _

/-! ### Collectives -/

theorem looseBytes_get (n a c x : Nat) (hx : x < a ∨ a + n ≤ x) (m : List Host.Cell) : SMap.get 0 (looseBytes m a n c) x = SMap.get 0 m x := by
  unfold looseBytes
  have hfold (l : List Nat) (hl : ∀ i ∈ l, a + i ≠ x) (f : Nat → Byte) :
      ∀ m : List Host.Cell, SMap.get 0 (l.foldl (fun m i => SMap.set 0 m (a + i) (f i)) m) x = SMap.get 0 m x := by
    induction l with
    | nil => exact fun _ => rfl
    | cons i l ih =>
      intro m
      rw [List.foldl_cons, ih (fun j hj => hl j (by simp [hj])), get_set_ne _ _ _ _ _ (Ne.symm (hl i (by simp)))]
  exact hfold _ (fun i hi => by have := List.mem_range.mp hi; omega) _ m

/-- An abort leaves open only the chunks that the collective has not counted (R395). -/
theorem loosenDest_byte (s : State) {c : CollState} {a : Nat} (ha : ¬c.looseAt a) : (s.loosenDest c).byte a = s.byte a := by
  unfold State.byte State.loosenDest
  extract_lets n rest
  have hrest : ∀ i ∈ rest, a < ceChunkAt c.entry true i ∨ ceChunkAt c.entry true i + n ≤ a := by
    intro i hi
    obtain ⟨j, hj, rfl⟩ := List.mem_map.mp hi
    have hlt := List.mem_range.mp hj
    by_contra hin
    exact ha ⟨j + c.stepsMade, by omega, by omega, by omega, by omega⟩
  have hfold (l : List (Nat × Nat)) (hl : ∀ x ∈ l, x.1 ∈ rest) (f : Nat × Nat → Nat) :
      ∀ m, SMap.get 0 (l.foldl (fun m x => looseBytes m (ceChunkAt c.entry true x.1) n (f x)) m) a = SMap.get 0 m a := by
    induction l with
    | nil => exact fun _ => rfl
    | cons x l ih =>
      intro m
      rw [List.foldl_cons, ih fun y hy => hl y (by simp [hy]), looseBytes_get _ _ _ _ (hrest _ (hl x (by simp)))]
  exact hfold _ (fun x hx => List.fst_mem_of_mem_zipIdx hx) _ _

/-- What the abort of a collective leaves: engine `k` has it no more in its slot, the other engines are as they were, and so is memory
outside its loose chunks. -/
structure Aborted (s : State) (k : Nat) (c : CollState) (t : State) : Prop where
  keeps : StopKeeps s t
  own : (t.engine k).open_ = (s.engine k).open_.filter fun x => x.slot != c.slot
  others : ∀ j, j ≠ k → t.engine j = s.engine j
  byte : ∀ a, ¬c.looseAt a → t.byte a = s.byte a

theorem dropAccesses_engine (s : State) (k slot : Nat) : StopKeeps s (s.dropAccesses k slot) ∧
    ((s.dropAccesses k slot).engine k).open_ = (s.engine k).open_ ∧ (∀ j, j ≠ k → (s.dropAccesses k slot).engine j = s.engine j) ∧
    (s.dropAccesses k slot).mem = s.mem := by
  unfold State.dropAccesses
  extract_lets gone rest s1
  have h1 : StopKeeps s s1 := ⟨rfl, rfl, rfl, rfl, rfl, rfl, rfl⟩
  have hdrop : StopQuiet s1 (gone.foldl (fun s a => s.dropRequest (.chunk k a.n) a.job.off) s1) :=
    stopQuiet_foldl (fun u _ => stopQuiet_dropRequest u _ _) gone s1
  have hengine (j : Nat) : (gone.foldl (fun s a => s.dropRequest (.chunk k a.n) a.job.off) s1).engine j = s1.engine j := by
    unfold State.engine
    rw [hdrop.engines]
  refine ⟨stopKeeps_trans h1 hdrop.toStopKeeps, ?_, fun j hj => ?_, hdrop.mem⟩
  · rw [hengine]
    unfold s1
    rw [setEngine_engine_same]
  · rw [hengine]
    unfold s1
    rw [setEngine_engine, if_neg hj]

/-- An abort step by step: its packets go out, its engine forgets it and its accesses, and its chunks are left open. -/
theorem aborted_of_steps {s s1 d s2 : State} {k : Nat} {c : CollState} {e1 : EngineState} (hsent : StopQuiet s s1)
    (hopen : e1.open_ = (s1.engine k).open_.filter fun x => x.slot != c.slot) (hd : d = (s1.setEngine k e1).dropAccesses k c.slot)
    (h2 : StopKeeps d s2) (hengines : s2.engines = d.engines) (hmem2 : s2.mem = d.mem) (code unitKind die unit detail : Nat) :
    Aborted s k c ((s2.loosenDest c).logEvent code unitKind die unit detail) := by
  obtain ⟨hdrop, hown, hothers, hmem⟩ := dropAccesses_engine (s1.setEngine k e1) k c.slot
  rw [← hd] at hdrop hown hothers hmem
  rw [setEngine_engine_same, hopen] at hown
  have hset : StopKeeps s1 (s1.setEngine k e1) := ⟨rfl, rfl, rfl, rfl, rfl, rfl, rfl⟩
  have hloose : StopKeeps s2 (s2.loosenDest c) := ⟨rfl, rfl, rfl, rfl, rfl, rfl, rfl⟩
  have hlog := stopQuiet_logEvent (s2.loosenDest c) code unitKind die unit detail
  have hengine1 (j : Nat) : s1.engine j = s.engine j := by unfold State.engine; rw [hsent.engines]
  have hengine (j : Nat) : ((s2.loosenDest c).logEvent code unitKind die unit detail).engine j = d.engine j := by
    have hlogged : ((s2.loosenDest c).logEvent code unitKind die unit detail).engines = s2.engines := hlog.engines
    unfold State.engine
    rw [hlogged, hengines]
  refine ⟨stopKeeps_trans (stopKeeps_trans hsent.toStopKeeps hset)
    (stopKeeps_trans (stopKeeps_trans hdrop h2) (stopKeeps_trans hloose hlog.toStopKeeps)), ?_, fun j hj => ?_, fun a ha => ?_⟩
  · rw [hengine, hown, hengine1]
  · rw [hengine, hothers j hj, setEngine_engine, if_neg hj, hengine1]
  · calc ((s2.loosenDest c).logEvent code unitKind die unit detail).byte a
        = (s2.loosenDest c).byte a := by unfold State.byte; rw [hlog.mem]
      _ = s2.byte a := loosenDest_byte s2 ha
      _ = s.byte a := by unfold State.byte; rw [hmem2, hmem]; exact congrArg (SMap.get 0 · a) hsent.mem

theorem stopKeeps_withAbort (s : State) (x : Word64) : StopKeeps s { s with abort := x } := ⟨rfl, rfl, rfl, rfl, rfl, rfl, rfl⟩

theorem abortColl_aborted (s : State) (k : Nat) (c : CollState) (cause origin detected : Nat) :
    Aborted s k c (s.abortColl k c cause origin detected) := by
  unfold State.abortColl
  extract_lets payload pkts tag fb s0 s1 e e1 d s2
  have hsent : StopQuiet s s1 := stopQuiet_trans (stopQuiet_setFab s k _) (stopQuiet_foldl (fun u p => stopQuiet_sendCl u k p) pkts s0)
  have hopen : e1.open_ = (s1.engine k).open_.filter fun x => x.slot != c.slot := rfl
  have hd : d = (s1.setEngine k e1).dropAccesses k c.slot := rfl
  have h2 : StopKeeps d s2 := stopKeeps_withAbort d _
  clear_value d e1 s1
  have hengines : s2.engines = d.engines := rfl
  have hmem : s2.mem = d.mem := rfl
  exact aborted_of_steps hsent hopen hd h2 hengines hmem _ _ _ _ _

/-- The aborts of a list of collectives of one engine. -/
theorem foldl_abortOwn (k cause : Nat) (l : List CollState) : ∀ s : State,
    let t := l.foldl (fun s c => s.abortOwn k c cause) s
    StopKeeps s t ∧ (∀ x ∈ (t.engine k).open_, x ∈ (s.engine k).open_ ∧ ∀ c ∈ l, x.slot ≠ c.slot) ∧
      (∀ j, j ≠ k → t.engine j = s.engine j) ∧ ∀ a, (∀ c ∈ l, ¬c.looseAt a) → t.byte a = s.byte a := by
  induction l with
  | nil => exact fun s => ⟨stopKeeps_refl s, fun x hx => ⟨hx, by simp⟩, fun _ _ => rfl, fun _ _ => rfl⟩
  | cons c l ih =>
    intro s
    have hfirst : Aborted s k c (s.abortOwn k c cause) := abortColl_aborted s k c cause s.ownPackage s.cadNs
    obtain ⟨hkeeps, hown, hothers, hbyte⟩ := ih (s.abortOwn k c cause)
    refine ⟨stopKeeps_trans hfirst.keeps hkeeps, fun x hx => ?_, fun j hj => (hothers j hj).trans (hfirst.others j hj), fun a ha => ?_⟩
    · obtain ⟨hx1, hslots⟩ := hown x hx
      rw [hfirst.own] at hx1
      obtain ⟨hx0, hslot⟩ := List.mem_filter.mp hx1
      refine ⟨hx0, fun d hd => ?_⟩
      rcases List.mem_cons.mp hd with rfl | hd
      · simpa using hslot
      · exact hslots d hd
    · exact (hbyte a fun d hd => ha d (by simp [hd])).trans (hfirst.byte a (ha c (by simp)))

/-- All open collectives abort: none is left open, and memory keeps what they do not leave unspecified. -/
theorem abortAll_spec (s : State) (cause : Nat) :
    StopKeeps s (s.abortAll cause) ∧ (∀ k < 4, ((s.abortAll cause).engine k).open_ = []) ∧ MemSameButAborts s (s.abortAll cause) := by
  have hprefix (n : Nat) (hn : n ≤ 4) :
      let t := (List.range n).foldl (fun s k => s.abortEngine k cause) s
      StopKeeps s t ∧ (∀ k < n, (t.engine k).open_ = []) ∧ (∀ k, n ≤ k → t.engine k = s.engine k) ∧ MemSameButAborts s t := by
    induction n with
    | zero => exact ⟨stopKeeps_refl s, fun _ h => absurd h (Nat.not_lt_zero _), fun _ _ => rfl, fun _ _ => rfl⟩
    | succ n ih =>
      obtain ⟨hkeeps, hdone, hleft, hmem⟩ := ih (by omega)
      rw [List.range_succ, List.foldl_append, List.foldl_cons, List.foldl_nil]
      generalize (List.range n).foldl (fun s k => s.abortEngine k cause) s = u at hkeeps hdone hleft hmem ⊢
      obtain ⟨hkeeps1, hown, hothers, hbyte⟩ := foldl_abortOwn n cause (u.engine n).open_ u
      refine ⟨stopKeeps_trans hkeeps hkeeps1, fun k hk => ?_, fun k hk => ?_, fun a ha => ?_⟩
      · by_cases hkn : k = n
        · subst hkn
          exact List.eq_nil_iff_forall_not_mem.mpr fun x hx => (hown x hx).2 x (hown x hx).1 rfl
        · exact (congrArg EngineState.open_ (hothers k hkn)).trans (hdone k (by omega))
      · exact (hothers k (by omega)).trans (hleft k (by omega))
      · refine (hbyte a fun c hc => ?_).trans (hmem a ha)
        rw [hleft n le_rfl] at hc
        exact ha n (by omega) c hc
  obtain ⟨hkeeps, hdone, -, hmem⟩ := hprefix 4 le_rfl
  exact ⟨hkeeps, hdone, hmem⟩

theorem stopKeeps_ready {s t : State} (h : StopKeeps s t) : t.stopReady = s.stopReady := by
  unfold State.stopReady
  rw [h.beat]

theorem mem_update {α : Type} [DecidableEq α] {d : α} {m : SMap α} {f : Nat → α → α} {e : Nat × α} (h : e ∈ SMap.update d m f) :
    ∃ v, e.2 = f e.1 v := by
  obtain ⟨x, -, rfl⟩ := List.mem_map.mp (List.mem_filter.mp h).1
  exact ⟨x.2, rfl⟩

/-- What the stop of a program leaves (R46, R410; log entry 16). -/
structure ProgramStopped (s t : State) : Prop where
  prog : t.prog = { s.prog with running := false, startAt := none }
  beat : t.beat = { s.beat with waits := [], hubDemand := false }
  arrays : ∀ e ∈ t.arrays, e.2.power = 2 ∧ e.2.driven = 0 ∧ e.2.path = [] ∧ e.2.drains = [] ∧ e.2.pass = none
  spokes : ∀ e ∈ t.spokes, e.2.mode = 0 ∧ e.2.stores = [] ∧ e.2.loads = []
  idle : ∀ k < 4, (t.engine k).open_ = []
  mem : MemSameButAborts s t
  pending : t.pending = s.pending
  hub : { t.hub with openCmds := s.hub.openCmds, relayOut := s.hub.relayOut } = s.hub
  settings : t.settings = s.settings
  counters : t.counters = s.counters
  mach : t.mach = s.mach

/-- The fields that `programStopped` carries over from the abort of the collectives and the stop of the channels, `u`. -/
structure CarriedOver (now : Nat) (u t : State) : Prop where
  engines : t.engines = u.engines
  mem : t.mem = u.mem
  pending : t.pending = u.pending
  hub : t.hub = u.hub
  settings : t.settings = u.settings
  counters : t.counters = u.counters
  mach : t.mach = u.mach
  prog : t.prog = { u.prog with running := false, startAt := none }
  beat : t.beat = { u.beat with waits := [], hubDemand := false }
  arrays : t.arrays = SMap.update {} u.arrays fun g a => a.parked now (u.voidBeats g)
  spokes : t.spokes = SMap.update {} u.spokes fun p a => a.halted (u.runSpent p false)

theorem programStopped_carriedOver (s : State) : CarriedOver s.sched (s.abortAll 8).stopClaimed s.programStopped := by
  unfold State.programStopped
  generalize (s.abortAll 8).stopClaimed = u
  exact ⟨rfl, rfl, rfl, rfl, rfl, rfl, rfl, rfl, rfl, rfl, rfl⟩

theorem programStopped_spec (s : State) : ProgramStopped s s.programStopped := by
  obtain ⟨hkeeps, hidle, hmem⟩ := abortAll_spec s 8
  have hclaimed := stopQuiet_stopClaimed (s.abortAll 8)
  have hstops := stopKeeps_trans hkeeps hclaimed.toStopKeeps
  have hover := programStopped_carriedOver s
  exact {
    prog := by rw [hover.prog, hstops.prog]
    beat := by rw [hover.beat, hstops.beat]
    arrays := fun e he => by
      rw [hover.arrays] at he
      obtain ⟨a, ha⟩ := mem_update he
      rw [ha]
      exact ⟨rfl, rfl, rfl, rfl, rfl⟩
    spokes := fun e he => by
      rw [hover.spokes] at he
      obtain ⟨a, ha⟩ := mem_update he
      rw [ha]
      exact ⟨rfl, rfl, rfl⟩
    idle := fun k hk => by
      unfold State.engine at hidle ⊢
      rw [hover.engines, hclaimed.engines, hidle k hk]
    mem := fun a ha => by
      rw [← hmem a ha]
      unfold State.byte
      rw [hover.mem, hclaimed.mem]
    pending := by rw [hover.pending, hstops.pending]
    hub := by rw [hover.hub, hstops.hub]
    settings := by rw [hover.settings, hstops.settings]
    counters := by rw [hover.counters, hstops.counters]
    mach := by rw [hover.mach, hstops.mach] }

/-- Stopping once more after an abort leaves open no more than the abort did. -/
theorem memSame_of_idle {s t u : State} (hidle : ∀ k < 4, (t.engine k).open_ = []) (h : MemSameButAborts s t) (k : MemSameButAborts t u) :
    MemSameButAborts s u := fun a ha => (k a fun j hj c hc => by rw [hidle j hj] at hc; cases hc).trans (h a ha)

/-- In a fault hold that is in force the program is stopped, once a machine check has aborted the open collectives. -/
theorem execProgramFault_stops {s : State} (hhold : s.beat.faultHold = true) (hstopped : s.beat.stopped = false)
    (hrun : s.prog.running = true) (hready : s.stopReady = true) :
    ∃ u, StopKeeps s u ∧ (∀ v, MemSameButAborts u v → MemSameButAborts s v) ∧
      exec .programFault s = .next (u.programStopped.setBeat { u.programStopped.beat with stopped := true }) := by
  have hexec : ∀ u, (if s.beat.machineCheck then s.abortAll 2 else s) = u → StopKeeps s u →
      exec .programFault s = .next (u.programStopped.setBeat { u.programStopped.beat with stopped := true }) := by
    intro u hu hkeeps
    change execProgramFault s = _
    unfold execProgramFault
    simp only [hhold, hstopped, Bool.not_true, Bool.or_self, Bool.false_eq_true, if_false, hu, stopKeeps_ready hkeeps, hready, if_true,
      hkeeps.prog, hrun]
  by_cases hcheck : s.beat.machineCheck = true
  · obtain ⟨hkeeps, hidle, hmem⟩ := abortAll_spec s 2
    exact ⟨_, hkeeps, fun v hv => memSame_of_idle hidle hmem hv, hexec _ (if_pos hcheck) hkeeps⟩
  · exact ⟨s, stopKeeps_refl s, fun v hv => hv, hexec s (if_neg hcheck) (stopKeeps_refl s)⟩

/-- Settles O11: counters cross die by die, brake values take effect in turn, and a fault hold ends after the stop of its program. -/
theorem copiesBrakeAndFaultHolds : Obligations.CopiesBrakeAndFaultHolds := by
  unfold Obligations.CopiesBrakeAndFaultHolds
  refine ⟨fun d i s => ?_, fun s due rest n w hpending hdue hrest => ?_, fun s => execFaultHoldClear_stopped, fun s hhold hstopped hrun hready => ?_⟩
  · obtain ⟨t, ht, hdies, hframe⟩ := execServantCounterCrossing_crosses d i s
    refine ⟨t, ht, fun q hq => ?_, fun q hq => (hdies q).trans (if_neg hq), hframe⟩
    have hcrossed : t.dieCounters q = crossedCounters s i q := (hdies q).trans (if_pos hq)
    have hvalue : s.servantValue q i = s.servantValue d i := by
      rcases hq with rfl | ⟨hlo, hhi, -⟩
      · rfl
      · exact servantValue_chunk s q d ⟨hlo, hhi⟩
    refine ⟨fun id => ?_, fun n hn => crossedCounters_flag i hcrossed hn⟩
    rw [crossedCounters_copy i hcrossed, hvalue]
  · exact execBrakeApply_due hpending (fun x hx => decide_eq_true (hdue x hx)) fun x hx => decide_eq_false (by have := hrest x hx; omega)
  · obtain ⟨u, hkeeps, hmem, hexec⟩ := execProgramFault_stops hhold hstopped hrun hready
    have hstop := programStopped_spec u
    generalize u.programStopped = v at hexec hstop
    refine ⟨_, hexec, ?_, ?_, rfl, ?_, ?_, ?_, hstop.arrays, hstop.spokes, hstop.idle, hmem _ hstop.mem, hstop.pending.trans hkeeps.pending,
      ?_, hstop.settings.trans hkeeps.settings, hstop.counters.trans hkeeps.counters, hstop.mach.trans hkeeps.mach⟩
    · exact congrArg ProgramState.running hstop.prog
    · change v.beat.faultHold = true
      rw [hstop.beat, hkeeps.beat]
      exact hhold
    · exact congrArg BeatState.waits hstop.beat
    · exact congrArg BeatState.hubDemand hstop.beat
    · change v.beat.faultDemands = s.beat.faultDemands
      rw [hstop.beat, hkeeps.beat]
    · have hhub := congrArg (fun h : HubState => { h with openCmds := s.hub.openCmds, relayOut := s.hub.relayOut }) hstop.hub
      exact (hhub :).trans hkeeps.hub

end Sys2Proof.Proofs
end

section
/-! O12. Beat zero of the package, and program beat 0 (R48, R101, R122, R410). -/

namespace Sys2Proof.Proofs

open Sys2Proof Sys2Proof.Machine Sys2Proof.Laws

/-- An answer to a command changes the hub's own state, the mailboxes and their response counters. -/
theorem hubOnly_trans {s t u : State} (h : HubOnly s t) (k : HubOnly t u) : HubOnly s u :=
  (congrArg (fun x : State => { x with hub := s.hub, mbs := s.mbs, hubCount := s.hubCount }) k :).trans h

theorem hubOnly_placeSlot (s : State) (n : Nat) (slot : BitVec 512) : HubOnly s (s.placeSlot n slot) := by
  unfold State.placeSlot
  extract_lets m s1
  split <;> rfl

theorem hubOnly_reply (s : State) (who : SenderId) (slot : BitVec 512) : HubOnly s (s.reply who slot) := by
  unfold State.reply State.postSlot
  split
  · extract_lets m
    split
    · exact hubOnly_placeSlot s _ _
    · rfl
  · rfl

theorem hubOnly_completeCmd (s : State) (who : SenderId) (tag opcode status foff res : Nat) :
    HubOnly s (s.completeCmd who tag opcode status foff res) := by
  unfold State.completeCmd
  split
  · refine hubOnly_trans ?_ (hubOnly_reply _ _ _)
    rfl
  · rfl

theorem hubOnly_completeStart (s : State) (status res : Nat) : HubOnly s (s.completeStart status res) := by
  unfold State.completeStart
  split
  · exact hubOnly_completeCmd s _ _ _ _ _ _
  · rfl

/-- In step 4 of truing, once the ten links are aligned, the counters start 16 provisional beats after `zero_mark`. -/
theorem execBeatZero_aligned {s : State} {m : Nat} (hstage : s.power.stage = 2) (hfault : s.power.truingFault = false)
    (hclocks : s.power.clocks = true) (hal : s.beat.aligned = false) (hlinks : ∀ l < 10, (s.linkEnd (2 * l)).state = 4)
    (hmark : s.beat.zeroMark = some m) (hbeats : s.beat.provBeats = m + 16) :
    exec .beatZero s = .next { s with
      power := { s.power with trainedAt := s.nowNs }
      beat := { s.beat with aligned := true, schedBeat := 0, wallBeat := 0, heldWait := 0, heldBrake := 0, heldShift := 0
                            heldHub := 0, held := false, causeWait := false, causeBrake := false, causeShift := false
                            causeHub := false, history := [] } } := by
  have htrains : s.trains = true := by
    unfold State.trains
    rw [hstage, hfault, hclocks]
    rfl
  have hzero : (s.beat.zeroMark.any fun m => m + 16 == s.beat.provBeats) = true := by rw [hmark, hbeats]; exact beq_self_eq_true _
  have hlinked : s.linksAligned = true := (linksAligned_iff s).mpr hlinks
  change execBeatZero s = _
  unfold execBeatZero
  rw [htrains, hal, hlinked, hzero]
  rfl

/-- The state in which the program runs from the beat in progress, its program beat 0. -/
def programBegun (s : State) : State :=
  { s with prog := { s.prog with running := true, startAt := none, beat0 := s.beat.schedBeat }
           counters := SMap.update {} s.counters fun _ c => { c with base := c.copies }
           routers := SMap.update {} s.routers fun _ r => { r with slotAt := none } }

theorem programBegun_counters (s : State) : (programBegun s).counters = SMap.update {} s.counters fun _ c => { c with base := c.copies } := rfl

section
variable {s : State} {at_ : Word64} (hat : s.prog.startAt = some at_) (hdue : at_ ≠ 0 → at_.toNat ≤ s.cadNs)
include hat hdue

/-- A start whose time has come with the cadence counter unlocked, or that would be refused by now, fails. -/
theorem execProgramBeatZero_fails (h : ¬(at_ ≠ 0 → s.prog.startLocked.getD s.mach.locked = true) ∨ s.startRefused = true) :
    exec .programBeatZero s = ok (({ s with prog := { s.prog with startAt := none } } : State).completeStart stFailed 0) := by
  have hfails : (at_ ≠ 0 ∧ (!s.prog.startLocked.getD s.mach.locked) = true) ∨ s.startRefused = true := by
    refine h.imp_left fun hnot => ?_
    obtain ⟨hne, hunlocked⟩ := Classical.not_imp.mp hnot
    exact ⟨hne, (Bool.not_eq_true' _).mpr (Bool.eq_false_iff.mpr hunlocked)⟩
  change execProgramBeatZero s = _
  unfold execProgramBeatZero
  simp only [hat]
  rw [if_neg fun hs => absurd (hdue hs.1) (Nat.not_le.mpr hs.2), if_pos hfails]

theorem execProgramBeatZero_begins (hlocked : at_ ≠ 0 → s.prog.startLocked.getD s.mach.locked = true) (hfree : s.startRefused = false)
    (hlive : s.live = true) (hsched : s.sched % 256 = 0) (hhold : s.beat.faultHold = false) :
    exec .programBeatZero s = ok ((programBegun s).completeStart stDone (resAt 8 8 s.sched + resAt 16 8 s.cadStamp)) := by
  have hgoes : ¬((at_ ≠ 0 ∧ (!s.prog.startLocked.getD s.mach.locked) = true) ∨ s.startRefused = true) := by
    rintro (⟨hne, hunlocked⟩ | hrefused)
    · rw [hlocked hne] at hunlocked
      cases hunlocked
    · rw [hfree] at hrefused
      cases hrefused
  have hbeat : (s.live && decide (s.sched % 256 = 0) && !s.beat.faultHold) = true := by
    rw [hlive, decide_eq_true hsched, hhold]
    rfl
  change execProgramBeatZero s = _
  unfold execProgramBeatZero
  simp only [hat]
  rw [if_neg fun hs => absurd (hdue hs.1) (Nat.not_le.mpr hs.2), if_neg hgoes, if_pos hbeat]
  rfl

end

/-- Settles O12: beat zero and program beat 0 are each one step of the model, and completing the command touches the hub alone. -/
theorem beatZeroAndProgramBeatZero : Obligations.BeatZeroAndProgramBeatZero := by
  unfold Obligations.BeatZeroAndProgramBeatZero
  refine ⟨fun s m => execBeatZero_aligned, fun s at_ hat hdue => ⟨fun h => ?_, fun hlocked hfree hlive hsched hhold => ?_⟩⟩
  · have honly := hubOnly_completeStart ({ s with prog := { s.prog with startAt := none } } : State) stFailed 0
    exact ⟨_, execProgramBeatZero_fails hat hdue h, (congrArg State.prog honly :), (congrArg State.mem honly :), (congrArg State.beat honly :),
      (congrArg State.arrays honly :), (congrArg State.spokes honly :)⟩
  · have honly := hubOnly_completeStart (programBegun s) stDone (resAt 8 8 s.sched + resAt 16 8 s.cadStamp)
    have hexec := execProgramBeatZero_begins hat hdue hlocked hfree hlive hsched hhold
    generalize (programBegun s).completeStart stDone (resAt 8 8 s.sched + resAt 16 8 s.cadStamp) = t at honly hexec
    have hprog : t.prog = (programBegun s).prog := (congrArg State.prog honly :)
    have hbeat : t.beat = s.beat := (congrArg State.beat honly :)
    have hcounters : t.counters = (programBegun s).counters := (congrArg State.counters honly :)
    refine ⟨t, hexec, hprog, ?_, fun e he => ?_, (congrArg State.mem honly :), (congrArg State.arrays honly :),
      (congrArg State.spokes honly :), (congrArg State.routers honly :), (congrArg State.pending honly :), hbeat,
      (congrArg State.settings honly :)⟩
    · unfold State.pbeat
      rw [hbeat, hprog]
      exact congrArg BitVec.toNat (BitVec.sub_self _)
    · rw [hcounters, programBegun_counters] at he
      obtain ⟨c, hc⟩ := mem_update he
      rw [hc]

end Sys2Proof.Proofs
end

section
/-! O55. Thermistors (R449), the gear (R51, R463), the brake (R50) and `n_thermal` (R462, R464). -/

namespace Sys2Proof.Proofs

open Sys2Proof Sys2Proof.Machine Sys2Proof.Laws

theorem log2Fix_rated : log2Fix 10000000 = 25567489968751 := by decide +kernel
theorem thermistorReading_rated : thermistorReading 10000000 = 400 := by
  unfold thermistorReading
  rw [log2Fix_rated]
  norm_num
theorem thermistorReading_short : thermistorReading 0 = 32767 := by
  unfold thermistorReading
  exact if_pos (Or.inl rfl)

/-! ### What a log record leaves -/

section
variable (s : State) (code unitKind die unit detail : Nat)

@[simp] theorem logEvent_therm : (s.logEvent code unitKind die unit detail).therm = s.therm := by
  obtain ⟨hl, al, hs, as, m, h⟩ := log_eq s 3 code unitKind die unit detail
  exact (congrArg State.therm h :)
@[simp] theorem logEvent_beat : (s.logEvent code unitKind die unit detail).beat = s.beat := by
  obtain ⟨hl, al, hs, as, m, h⟩ := log_eq s 3 code unitKind die unit detail
  exact (congrArg State.beat h :)
@[simp] theorem logEvent_mem : (s.logEvent code unitKind die unit detail).mem = s.mem := by
  obtain ⟨hl, al, hs, as, m, h⟩ := log_eq s 3 code unitKind die unit detail
  exact (congrArg State.mem h :)
@[simp] theorem logEvent_settings : (s.logEvent code unitKind die unit detail).settings = s.settings := by
  obtain ⟨hl, al, hs, as, m, h⟩ := log_eq s 3 code unitKind die unit detail
  exact (congrArg State.settings h :)
end

/-! ### The gear (R51, R463) -/

/-- A state with its gear changed, before the record. -/
theorem changeGear_eq {s : State} {code : Nat} (cause : Nat) (h : code ≠ s.beat.gear.toNat) : ∃ u : State,
    s.changeGear code cause = u.logEvent 0x9F 10 0xFF 0 (s.beat.gear.toNat + 2 ^ 8 * code + 2 ^ 16 * cause) ∧
    u.aoSeq = s.aoSeq ∧ u.mem = s.mem ∧ u.settings = s.settings ∧ u.beat.gear = BitVec.ofNat 2 code ∧
    u.beat.brakeN = BitVec.ofNat 4 u.therm.brake ∧ u.beat.brakePending = [] ∧ u.therm.gearChg = s.therm.gearChg + 1 ∧
    (s.beat.gear.toNat < code → u.therm.nPower = BitVec.ofNat 4 (raiseMap (code - s.beat.gear.toNat) s.therm.nPower.toNat) ∧
      u.therm.nThermal = BitVec.ofNat 4 (raiseMap (code - s.beat.gear.toNat) s.therm.nThermal.toNat)) ∧
    (code < s.beat.gear.toNat → u.therm.nPower = 8 ∧ u.therm.nThermal = s.therm.nThermal) := by
  unfold State.changeGear
  rw [if_neg h]
  by_cases hup : s.beat.gear.toNat < code
  · simp only [if_pos hup]
    exact ⟨_, rfl, rfl, rfl, rfl, rfl, rfl, rfl, rfl, fun _ => ⟨rfl, rfl⟩, fun hd => absurd hup (by omega)⟩
  · simp only [if_neg hup]
    exact ⟨_, rfl, rfl, rfl, rfl, rfl, rfl, rfl, rfl, fun hd => absurd hd hup, fun _ => ⟨rfl, rfl⟩⟩

/-- Firmware wants the next gear up or down. -/
theorem gearWanted_next {s : State} {code cause : Nat} (h : s.gearWanted = some (code, cause)) :
    code < 4 ∧ (code = s.beat.gear.toNat + 1 ∨ code + 1 = s.beat.gear.toNat) := by
  have hg := s.beat.gear.isLt
  simp only [State.gearWanted, Option.ite_none_left_eq_some] at h
  obtain ⟨-, h⟩ := h
  rcases ite_eq_iff.mp h with ⟨hc, he⟩ | ⟨-, h⟩
  · simp only [Bool.and_eq_true, decide_eq_true_eq] at hc
    simp only [Option.some.injEq, Prod.mk.injEq] at he
    omega
  · rw [Option.ite_none_right_eq_some] at h
    obtain ⟨hc, he⟩ := h
    simp only [Bool.and_eq_true, decide_eq_true_eq] at hc
    simp only [Option.some.injEq, Prod.mk.injEq] at he
    omega

theorem gearWanted_blind {s : State} (h : s.sensed = false) : s.gearWanted = none := by
  simp [State.gearWanted, h]

/-- The shift demand follows the gear job and the hub's commands. -/
theorem execGearChange_unwanted {s : State} (h : s.gearWanted = none) : Answers .gearChange s fun t =>
    t.therm = { s.therm with gearJob := false } ∧
      { t.beat with shiftDemand := false } = { s.beat with shiftDemand := false } ∧ { t with therm := s.therm, beat := s.beat } = s := by
  refine ⟨(s.setTherm { s.therm with gearJob := false }).refreshShift, ?_, rfl, rfl, rfl⟩
  show execGearChange s = _
  simp only [execGearChange, h]

theorem execGearChange_waits {s : State} {code cause : Nat} (h : s.gearWanted = some (code, cause)) (ha : s.beat.aligned = true)
    (hw : s.therm.gearJob = false ∨ s.beat.held = false ∨ s.beat.causeShift = false ∨ s.wall % 16 ≠ 0) : Answers .gearChange s fun t =>
      t.therm = { s.therm with gearJob := true } ∧ t.beat = { s.beat with shiftDemand := true } ∧
        { t with therm := s.therm, beat := s.beat } = s := by
  refine ⟨(s.setTherm { s.therm with gearJob := true }).refreshShift, ?_, rfl, rfl, rfl⟩
  show execGearChange s = _
  simp only [execGearChange, h]
  refine if_neg ?_
  simp only [ha, Bool.not_true, Bool.false_or, Bool.and_eq_true, decide_eq_true_eq, not_and]
  rintro ⟨⟨h1, h2⟩, h3⟩
  simpa [h1, h2, h3] using hw

theorem execGearChange_shifts {s : State} {code cause : Nat} (h : s.gearWanted = some (code, cause))
    (hw : s.beat.aligned = false ∨ (s.therm.gearJob = true ∧ s.beat.held = true ∧ s.beat.causeShift = true ∧ s.wall % 16 = 0)) :
    Answers .gearChange s fun t => t.beat.gear.toNat = code ∧ t.therm.gearJob = false ∧ t.therm.gearChg = s.therm.gearChg + 1 ∧
        AoLogged s t 3 0x9F (s.beat.gear.toNat + 256 * code + 65536 * cause) ∧
        (s.beat.gear.toNat < code → t.therm.nPower.toNat = 2 * s.therm.nPower.toNat - 16 ∧
          t.therm.nThermal.toNat = 2 * s.therm.nThermal.toNat - 16) ∧
        (code < s.beat.gear.toNat → t.therm.nPower = 8 ∧ t.therm.nThermal = s.therm.nThermal) ∧
        t.beat.brakeN.toNat = t.therm.brake ∧ t.beat.brakePending = [] ∧ t.mem = s.mem ∧ t.settings = s.settings := by
  obtain ⟨hlt, hnext⟩ := gearWanted_next h
  obtain ⟨u, hu, hseq, hmem, hset, hgear, hbrake, hpend, hchg, hup, hdown⟩ := changeGear_eq (s := s) (code := code) cause (by omega)
  have hexec : exec .gearChange s =
      .next (((s.changeGear code cause).setTherm { (s.changeGear code cause).therm with gearJob := false }).refreshShift) := by
    show execGearChange s = _
    simp only [execGearChange, h]
    refine if_pos ?_
    rcases hw with ha | ⟨h1, h2, h3, h4⟩
    · simp [ha]
    · simp [h1, h2, h3, h4]
  refine ⟨_, hexec, ?_⟩
  have hp : ∀ n : BitVec 4, (BitVec.ofNat 4 (raiseMap 1 n.toNat)).toNat = 2 * n.toNat - 16 := fun n => by
    have := n.isLt
    simp only [raiseMap, BitVec.toNat_ofNat]
    omega
  obtain ⟨ht, hb, hm, hs, hlog⟩ : (s.changeGear code cause).therm = u.therm ∧ (s.changeGear code cause).beat = u.beat ∧
      (s.changeGear code cause).mem = u.mem ∧ (s.changeGear code cause).settings = u.settings ∧
      AoLogged u (s.changeGear code cause) 3 0x9F (s.beat.gear.toNat + 2 ^ 8 * code + 2 ^ 16 * cause) := by
    rw [hu]
    exact ⟨logEvent_therm .., logEvent_beat .., logEvent_mem .., logEvent_settings .., log_aoLogged u 3 0x9F 10 0xFF 0 _ (by omega)⟩
  clear hu hexec
  generalize s.changeGear code cause = w at ht hb hm hs hlog ⊢
  refine ⟨?_, rfl, ?_, ?_, fun hlt => ?_, fun hlt => ?_, ?_, ?_, hm.trans hmem, hs.trans hset⟩
  · show w.beat.gear.toNat = code
    rw [hb, hgear, BitVec.toNat_ofNat]
    omega
  · show w.therm.gearChg = _
    rw [ht, hchg]
  · obtain ⟨h1, r, h2, h3, h4, h5, h6⟩ := hlog
    rw [hseq] at h1 h6
    exact ⟨h1, r, h2, h3, h4, h5, h6⟩
  · show w.therm.nPower.toNat = _ ∧ w.therm.nThermal.toNat = _
    obtain ⟨h1, h2⟩ := hup hlt
    have h3 : code - s.beat.gear.toNat = 1 := by omega
    rw [ht, h1, h2, h3]
    exact ⟨hp _, hp _⟩
  · show w.therm.nPower = _ ∧ w.therm.nThermal = _
    rw [ht]
    exact hdown hlt
  · show w.beat.brakeN.toNat = w.therm.brake
    have h1 := u.therm.nPower.isLt
    have h2 := u.therm.nThermal.isLt
    rw [hb, hbrake, ht, BitVec.toNat_ofNat]
    unfold ThermState.brake
    omega
  · show w.beat.brakePending = []
    rw [hb, hpend]

/-! ### The brake (R50, R462, R464) -/

/-- The beat domain's state when the brake values have changed from a `BRAKE_N` of `old` (R50). -/
def brakeCarried (s : State) (old : Nat) : BeatState :=
  if s.therm.brake = old then s.beat
  else if s.beat.aligned then { s.beat with brakePending := s.beat.brakePending ++ [(BitVec.ofNat 4 s.therm.brake, s.wall)] }
  else { s.beat with brakeN := BitVec.ofNat 4 s.therm.brake, brakePending := [] }

theorem brakeChanged_eq (s : State) (old : Nat) :
    s.brakeChanged old = { s with therm := (s.noteBrake old).therm, beat := brakeCarried s old } := by
  have hb : (s.noteBrake old).therm.brake = s.therm.brake := rfl
  unfold State.brakeChanged brakeCarried
  simp only [hb]
  by_cases h : s.therm.brake = old
  · simp only [if_pos h]
    rfl
  · by_cases ha : s.beat.aligned = true
    · have ha' : (s.noteBrake old).beat.aligned = true := ha
      simp only [if_neg h, if_pos ha, if_pos ha']
      rfl
    · have ha' : ¬(s.noteBrake old).beat.aligned = true := ha
      simp only [if_neg h, if_neg ha, if_neg ha']
      rfl

theorem brakeCarried_same {s : State} {old : Nat} (h : s.therm.brake = old) : brakeCarried s old = s.beat := if_pos h

theorem brakeCarried_aligned {s : State} {old : Nat} (h : s.therm.brake ≠ old) (ha : s.beat.aligned = true) :
    brakeCarried s old = { s.beat with brakePending := s.beat.brakePending ++ [(BitVec.ofNat 4 s.therm.brake, s.wall)] } := by
  simp [brakeCarried, h, ha]

/-! ### `n_thermal` (R462, R464) -/

/-- Every reading that the thermal brake needs is invalid (R464). -/
def thermalBlind (s : State) : Bool :=
  (s.hottestOf 0 160).isNone && (s.hottestOf 192 32).isNone &&
    (List.range 8).all fun n => !(s.keyN 0x0501 (4 * n) 2 != 0 || s.keyN 0x0501 (4 * n + 2) 2 != 0) || (s.hottestOf (224 + n) 1).isNone

theorem thermalBlind_iff (s : State) : thermalBlind s = true ↔ s.hottestOf 0 160 = none ∧ s.hottestOf 192 32 = none ∧
    ∀ n < 8, s.keyN 0x0501 (4 * n) 2 = 0 ∧ s.keyN 0x0501 (4 * n + 2) 2 = 0 ∨ s.hottestOf (224 + n) 1 = none := by
  simp [thermalBlind, and_assoc]

/-- The hottest reading of the throttled parts. -/
def hottestThrottled (s : State) : Option Int := match s.throttledReadings with | [] => none | v :: vs => some (vs.foldl max v)

/-- The hottest throttled part has fallen by 0.5 °C or more since the last step (R462). -/
def cooledBy (last now : Option Int) : Bool := match last, now with | some a, some b => decide (b + 8 ≤ a) | _, _ => false

/-- The next `n_thermal` (R462). -/
def thermalNext (throttled cooled : Bool) (n : BitVec 4) : BitVec 4 :=
  if throttled then (if cooled || n = 15 then n else n + 1) else if n = 0 then 0 else n - 1

/-- The thermal values after a step. -/
def thermalStepped (s : State) : ThermState :=
  { s.therm with nThermal := thermalNext s.throttled (cooledBy s.therm.hottest (hottestThrottled s)) s.therm.nThermal
                 hottest := hottestThrottled s, thermalAt := s.nowNs }

theorem execThermalBrakeStep_idle {s : State} (h : thermalBlind s = true ∨ s.nowNs < s.therm.thermalAt + 100000000) :
    exec .thermalBrakeStep s = .next s := by
  show execThermalBrakeStep s = _
  refine if_pos ?_
  rcases h with h | h
  · exact .inr (.inr h)
  · exact .inr (.inl h)

theorem execThermalBrakeStep_steps {s : State} (hv : s.power.vaoGood = true) (hb : ¬thermalBlind s = true)
    (ht : s.therm.thermalAt + 100000000 ≤ s.nowNs) :
    exec .thermalBrakeStep s = .next ((s.setTherm (thermalStepped s)).brakeChanged s.therm.brake) := by
  show execThermalBrakeStep s = _
  refine if_neg ?_
  rintro (h | h | h)
  · simp [hv] at h
  · omega
  · exact hb h

theorem thermalNext_calm (cooled : Bool) (n : BitVec 4) : (thermalNext false cooled n).toNat = n.toNat - 1 := by
  revert n; cases cooled <;> decide
theorem thermalNext_cooled (n : BitVec 4) : (thermalNext true true n).toNat = n.toNat := by
  revert n; decide
theorem thermalNext_hot (n : BitVec 4) : (thermalNext true false n).toNat = min 15 (n.toNat + 1) := by
  revert n; decide

theorem le_foldl_max (l : List Int) : ∀ a : Int, a ≤ l.foldl max a ∧ ∀ v ∈ l, v ≤ l.foldl max a := by
  induction l with
  | nil => exact fun a => ⟨le_refl a, by simp⟩
  | cons x xs ih =>
    intro a
    obtain ⟨h1, h2⟩ := ih (max a x)
    refine ⟨le_trans (le_max_left a x) h1, fun v hv => ?_⟩
    rcases List.mem_cons.mp hv with rfl | hv
    · exact le_trans (le_max_right a v) h1
    · exact h2 v hv

theorem le_hottestThrottled {s : State} {v : Int} (h : v ∈ s.throttledReadings) : ∃ b, hottestThrottled s = some b ∧ v ≤ b := by
  unfold hottestThrottled
  cases hl : s.throttledReadings with
  | nil => simp [hl] at h
  | cons x xs =>
    rw [hl] at h
    refine ⟨_, rfl, ?_⟩
    rcases List.mem_cons.mp h with rfl | h
    · exact (le_foldl_max xs _).1
    · exact (le_foldl_max xs x).2 v h

theorem execThermalBrakeStep_spec {s : State} (hv : s.power.vaoGood = true) (hb : ¬thermalBlind s = true)
    (ht : s.therm.thermalAt + 100000000 ≤ s.nowNs) : Answers .thermalBrakeStep s fun t =>
      t.therm.thermalAt = s.nowNs ∧ t.therm.nPower = s.therm.nPower ∧
      (s.throttled = false → t.therm.nThermal.toNat = s.therm.nThermal.toNat - 1) ∧
      (s.throttled = true → s.therm.hottest = none → t.therm.nThermal.toNat = min 15 (s.therm.nThermal.toNat + 1)) ∧
      (s.throttled = true → ∀ a b, s.therm.hottest = some a → t.therm.hottest = some b →
        t.therm.nThermal.toNat = if b + 8 ≤ a then s.therm.nThermal.toNat else min 15 (s.therm.nThermal.toNat + 1)) ∧
      (∀ v ∈ s.throttledReadings, ∃ b, t.therm.hottest = some b ∧ v ≤ b) ∧
      (t.therm.brake = s.therm.brake → t.beat = s.beat) ∧
      (s.beat.aligned = true → t.therm.brake ≠ s.therm.brake →
        t.beat = { s.beat with brakePending := s.beat.brakePending ++ [(BitVec.ofNat 4 t.therm.brake, s.wall)] }) ∧
      { t with therm := s.therm, beat := s.beat } = s := by
  refine ⟨_, execThermalBrakeStep_steps hv hb ht, ?_⟩
  rw [brakeChanged_eq]
  refine ⟨rfl, rfl, fun hc => ?_, fun hh hn => ?_, fun hh a b ha hbb => ?_, fun v hm => le_hottestThrottled hm,
    fun h => brakeCarried_same (s := s.setTherm (thermalStepped s)) h,
    fun hal h => brakeCarried_aligned (s := s.setTherm (thermalStepped s)) h hal, rfl⟩
  · show (thermalNext _ _ _).toNat = _
    rw [hc, thermalNext_calm]
  · show (thermalNext _ _ _).toNat = _
    rw [hh, hn]
    exact thermalNext_hot _
  · have hbb' : hottestThrottled s = some b := hbb
    show (thermalNext _ _ _).toNat = _
    rw [hh, ha, hbb']
    by_cases hle : b + 8 ≤ a
    · simp [cooledBy, hle, thermalNext_cooled]
    · simp [cooledBy, hle, thermalNext_hot]

end Sys2Proof.Proofs
end

section
/-! O55. The sweep of the rails: the power that they draw, `n_power`, and the record of the limit (R422, R461, R462). -/

namespace Sys2Proof.Proofs

open Sys2Proof Sys2Proof.Machine Sys2Proof.Laws

/-! ### A sweep of the rails (R422, R461, R462) -/

/-- An instant lies at least `d` ns back, or there is none. -/
def pastBy (x : Option Nat) (d now : Nat) : Bool := match x with | some v => decide (v + d ≤ now) | none => true

/-- The power that the rails of a state draw, in units of 0.1 mW (R461). -/
def drawnPower (s : State) : Nat :=
  (List.range 25).foldl (fun n i => n + (s.rail (i + 1)).vout.toNat * (s.rail (i + 1)).iout.toNat) 100000

/-- Since when the average has been at most 0.95 L. -/
def belowMark (t : ThermState) (sum limit now : Nat) : Option Nat :=
  if 100 * sum ≤ 95 * limit then some (t.belowSince.getD now) else none

/-- `n_power` rises at a sample. -/
def powerRises (t : ThermState) (holds : Bool) (sum limit now : Nat) : Bool :=
  !holds && decide (limit < sum) && pastBy t.raisedAt 100000000 now && decide (t.nPower.toNat < 15)

/-- `n_power` falls at a sample. -/
def powerFalls (t : ThermState) (holds : Bool) (sum limit now : Nat) : Bool :=
  !holds && (belowMark t sum limit now).isSome && pastBy (belowMark t sum limit now) 1000000000 now && pastBy t.fellAt 1000000000 now &&
    decide (0 < t.nPower.toNat)

/-- The power values after a sample (R461, R462). -/
def powerStepped (s : State) (holds : Bool) : ThermState :=
  let t := s.therm
  let l := drawnPower s :: t.power.take 9
  let limit := s.limitUnits * l.length
  let rises := powerRises t holds l.sum limit s.nowNs
  let falls := powerFalls t holds l.sum limit s.nowNs
  { t with power := l, overLimit := decide (limit < l.sum), energyUj := t.energyUj + drawnPower s
           belowSince := belowMark t l.sum limit s.nowNs
           lowSince := if 10 * l.sum ≤ 6 * limit then some (t.lowSince.getD s.nowNs) else none
           nPower := if rises then t.nPower + 1 else if falls then t.nPower - 1 else t.nPower
           raisedAt := if rises then some s.nowNs else t.raisedAt
           fellAt := if falls then some s.nowNs else t.fellAt }

/-- The state when the rails are read and the brake follows. -/
def powerBraked (s : State) (holds : Bool) : State := (s.setTherm (powerStepped s holds)).brakeChanged s.therm.brake

/-- The state after a sweep, before a failed regulator is looked at. -/
def powerSampled (readings : List Reading) (s : State) : State :=
  let s1 := s.readRails readings
  let l := drawnPower s1 :: s1.therm.power.take 9
  (powerBraked s1 (!s1.sensed || readings.all (·.failed))).logPower s1.therm.overLimit (decide (s1.limitUnits * l.length < l.sum))
    (meanWatts l.sum l.length)

/-- The first powered rail whose regulator has failed. -/
def failedRail (readings : List Reading) (s : State) : Option Nat :=
  (List.range 25).find? fun i => (match readings[i]? with | some r => r.failed | none => false) && (s.rail (i + 1)).en && (s.rail (i + 1)).pg

/-- What a failed regulator brings (R422). -/
def regulatorLost (s : State) (n : Nat) : State :=
  if s.power.downGroup.isSome ∨ s.power.stage = 4 then s else if s.powering then s.railFailed n 2 else s.busFailed n

theorem execPowerSample_idle {s : State} (readings : List Reading)
    (h : s.power.vaoGood = false ∨ s.power.inReset = true ∨ s.power.stage = 1) : exec (.powerSample readings) s = .next s := by
  show execPowerSample readings s = _
  refine if_pos ?_
  simpa using h

theorem execPowerSample_sweeps {s : State} (readings : List Reading) (hv : s.power.vaoGood = true) (hr : s.power.inReset = false)
    (hs : s.power.stage ≠ 1) : exec (.powerSample readings) s = .next
      (match failedRail readings (powerSampled readings s) with
      | some i => regulatorLost (powerSampled readings s) (i + 1)
      | none => powerSampled readings s) := by
  show execPowerSample readings s = _
  refine (if_neg ?_).trans ?_
  · simpa [hv, hr] using hs
  · change (match failedRail readings (powerSampled readings s) with
      | some i => ok (regulatorLost (powerSampled readings s) (i + 1))
      | none => ok (powerSampled readings s)) = _
    cases failedRail readings (powerSampled readings s) <;> rfl

/-! What is read of each rail. -/

/-- A rail after its reading: a failed transaction keeps the last one (R422). -/
def railRead (r : Option Reading) (x : RailState) : RailState :=
  match r with
  | some r => if r.failed then { x with busErr := true } else { x with busErr := false, vout := r.mv, iout := r.da }
  | none => x

/-- The reading of rail i + 1 reaches the state. -/
def readRail (readings : List Reading) (s : State) (i : Nat) : State :=
  match readings[i]? with
  | some r => s.setRail (i + 1) (railRead (some r) (s.rail (i + 1)))
  | none => s

theorem readRail_rail (readings : List Reading) (s : State) (i j : Nat) :
    (readRail readings s i).rail (j + 1) = if j = i then railRead readings[i]? (s.rail (i + 1)) else s.rail (j + 1) := by
  unfold readRail
  cases readings[i]? with
  | none => by_cases h : j = i <;> simp [h, railRead]
  | some r => exact (get_set _ _ _ _ _).trans (by simp only [Nat.add_right_cancel_iff]; rfl)

/-- A state with other rails. -/
def withRails (s : State) (R : SMap RailState) : State := { s with power := { s.power with rails := R } }

theorem readRail_frame (readings : List Reading) (s : State) (i : Nat) : ∃ R, readRail readings s i = withRails s R := by
  unfold readRail
  cases readings[i]? with
  | none => exact ⟨s.power.rails, rfl⟩
  | some r => exact ⟨_, rfl⟩

theorem foldl_readRail (readings : List Reading) (n : Nat) (s : State) :
    (∀ j, ((List.range n).foldl (readRail readings) s).rail (j + 1) = if j < n then railRead readings[j]? (s.rail (j + 1)) else s.rail (j + 1)) ∧
    ∃ R, (List.range n).foldl (readRail readings) s = withRails s R := by
  induction n with
  | zero => exact ⟨fun j => by simp, s.power.rails, rfl⟩
  | succ n ih =>
    obtain ⟨hrail, R, hR⟩ := ih
    rw [List.range_succ, List.foldl_append]
    generalize (List.range n).foldl (readRail readings) s = u at hrail hR
    refine ⟨fun j => ?_, ?_⟩
    · rw [List.foldl_cons, List.foldl_nil, readRail_rail, hrail, hrail]
      by_cases h1 : j = n
      · subst h1; simp
      · have : j < n + 1 ↔ j < n := by omega
        simp [h1, this]
    · obtain ⟨R', hR'⟩ := readRail_frame readings u n
      exact ⟨R', by rw [List.foldl_cons, List.foldl_nil, hR', hR]; rfl⟩

theorem readRails_eq (s : State) (readings : List Reading) : s.readRails readings = (List.range 25).foldl (readRail readings) s := rfl

theorem readRails_rail (s : State) (readings : List Reading) {i : Nat} (h : i < 25) :
    (s.readRails readings).rail (i + 1) = railRead readings[i]? (s.rail (i + 1)) := by
  rw [readRails_eq, (foldl_readRail readings 25 s).1, if_pos h]

theorem readRails_frame (s : State) (readings : List Reading) : ∃ R, s.readRails readings = withRails s R := by
  rw [readRails_eq]
  exact (foldl_readRail readings 25 s).2

theorem foldl_add_eq {α : Type} {f : Nat → Nat} {g : α → Nat} (l : List α) (h : ∀ i r, l[i]? = some r → f i = g r) (a : Nat) :
    (List.range l.length).foldl (fun n i => n + f i) a = l.foldl (fun n r => n + g r) a := by
  have hmap : (List.range l.length).map f = l.map g := by
    refine List.ext_getElem (by simp) fun i h1 h2 => ?_
    have hi : i < l.length := by simpa using h2
    simpa using h i l[i] (List.getElem?_eq_getElem hi)
  rw [← List.foldl_map (f := f) (g := fun n x => n + x), hmap, List.foldl_map]

/-- With every reading good, the rails draw what the readings say (R461). -/
theorem drawnPower_readRails (s : State) {readings : List Reading} (hlen : readings.length = 25) (hok : ∀ r ∈ readings, r.failed = false) :
    drawnPower (s.readRails readings) = readings.foldl (fun n r => n + r.mv.toNat * r.da.toNat) 100000 := by
  unfold drawnPower
  rw [← hlen]
  refine foldl_add_eq readings (fun i r hr => ?_) 100000
  have hi : i < 25 := hlen ▸ (List.getElem?_eq_some_iff.mp hr).1
  rw [readRails_rail s readings hi, hr]
  simp [railRead, hok r (List.mem_of_getElem? hr)]

theorem logPower_eq (s : State) (old new : Bool) (watts : Nat) : ∃ hl al hs as m,
    s.logPower old new watts = { s with hubLog := hl, aoLog := al, hubSeq := hs, aoSeq := as, mbs := m } := by
  unfold State.logPower
  by_cases h : old = new
  · exact ⟨s.hubLog, s.aoLog, s.hubSeq, s.aoSeq, s.mbs, if_pos h⟩
  · rw [if_neg h]
    exact log_eq s 3 _ 10 0xFF 0 _

theorem logPower_aoLogged (s : State) {old new : Bool} (watts : Nat) (h : new ≠ old) :
    AoLogged s (s.logPower old new watts) 3 (if new then 0x98 else 0x99) (5 + 65536 * watts) := by
  unfold State.logPower
  rw [if_neg fun h' => h h'.symm]
  exact log_aoLogged s 3 _ 10 0xFF 0 _ (by omega)

/-! What a sample makes of `n_power` (R462). -/

section
variable {t : ThermState} {sum limit now : Nat}

/-- `n_power` after a sample. -/
def powerNext (t : ThermState) (holds : Bool) (sum limit now : Nat) : BitVec 4 :=
  if powerRises t holds sum limit now then t.nPower + 1 else if powerFalls t holds sum limit now then t.nPower - 1 else t.nPower

theorem powerNext_same (holds : Bool) (hr : powerRises t holds sum limit now = false) (hf : powerFalls t holds sum limit now = false) :
    powerNext t holds sum limit now = t.nPower := by simp [powerNext, hr, hf]

theorem powerNext_holds : powerNext t true sum limit now = t.nPower := powerNext_same true rfl rfl

theorem pastBy_of {x : Option Nat} {d : Nat} (h : ∀ v, x = some v → v + d ≤ now) : pastBy x d now = true := by
  cases x with
  | none => rfl
  | some v => exact decide_eq_true (h v rfl)

theorem not_pastBy {x : Option Nat} {d : Nat} (h : ∃ v, x = some v ∧ now < v + d) : pastBy x d now = false := by
  obtain ⟨v, rfl, hlt⟩ := h
  exact decide_eq_false (by omega)

theorem belowMark_none (h : 95 * limit < 100 * sum) : belowMark t sum limit now = none := if_neg (by omega)

theorem powerFalls_above (holds : Bool) (h : 95 * limit < 100 * sum) : powerFalls t holds sum limit now = false := by
  simp [powerFalls, belowMark_none h]

theorem powerRises_within (holds : Bool) (h : sum ≤ limit) : powerRises t holds sum limit now = false := by
  simp [powerRises, h]

theorem powerNext_above (h : limit < sum) (hr : ∀ v, t.raisedAt = some v → v + 100000000 ≤ now) :
    (powerNext t false sum limit now).toNat = min 15 (t.nPower.toNat + 1) := by
  have hlt := t.nPower.isLt
  unfold powerNext
  rw [powerFalls_above false (by omega)]
  by_cases h15 : t.nPower.toNat < 15
  · have hrise : powerRises t false sum limit now = true := by simp [powerRises, h, pastBy_of hr, h15]
    rw [if_pos hrise, BitVec.toNat_add, show (1 : BitVec 4).toNat = 1 from rfl]
    omega
  · have hrise : powerRises t false sum limit now = false := by simp [powerRises, h15]
    simp only [hrise, Bool.false_eq_true, if_false]
    omega

theorem powerNext_raised (holds : Bool) (h : limit < sum) (hr : ∃ v, t.raisedAt = some v ∧ now < v + 100000000) :
    powerNext t holds sum limit now = t.nPower :=
  powerNext_same holds (by simp [powerRises, not_pastBy hr]) (powerFalls_above holds (by omega))

theorem powerNext_between (holds : Bool) (h : sum ≤ limit) (hb : 95 * limit < 100 * sum) : powerNext t holds sum limit now = t.nPower :=
  powerNext_same holds (powerRises_within holds h) (powerFalls_above holds hb)

theorem powerNext_below (hb : 100 * sum ≤ 95 * limit) (h : sum ≤ limit)
    (hs : ∃ v, t.belowSince = some v ∧ v + 1000000000 ≤ now) (hf : ∀ v, t.fellAt = some v → v + 1000000000 ≤ now) :
    (powerNext t false sum limit now).toNat = t.nPower.toNat - 1 := by
  obtain ⟨v, hv, hle⟩ := hs
  have hlt := t.nPower.isLt
  have hmark : belowMark t sum limit now = some v := by simp [belowMark, hb, hv]
  unfold powerNext
  rw [powerRises_within false h, if_neg Bool.false_ne_true]
  by_cases h0 : 0 < t.nPower.toNat
  · have hfall : powerFalls t false sum limit now = true := by
      simp only [powerFalls, hmark, pastBy_of hf, h0, decide_true, Bool.and_true, Bool.not_false, Option.isSome_some, Bool.true_and]
      exact decide_eq_true hle
    rw [if_pos hfall, BitVec.toNat_sub, show (1 : BitVec 4).toNat = 1 from rfl]
    omega
  · have hfall : powerFalls t false sum limit now = false := by simp [powerFalls, h0]
    simp only [hfall, Bool.false_eq_true, if_false]
    omega
end

/-- A sweep in which every regulator answers (R461, R462, R464). -/
theorem execPowerSample_good {s : State} {readings : List Reading} (hlen : readings.length = 25) (hok : ∀ r ∈ readings, r.failed = false)
    (hv : s.power.vaoGood = true) (hr : s.power.inReset = false) (hst : s.power.stage ≠ 1) :
    let sample := readings.foldl (fun n r => n + r.mv.toNat * r.da.toNat) 100000
    let l := sample :: s.therm.power.take 9
    let limit := s.setting 0x0200 % 65536 * 10000 * l.length
    Answers (.powerSample readings) s fun t =>
      t.therm.power = l ∧ t.therm.energyUj = s.therm.energyUj + sample ∧ (t.therm.overLimit = true ↔ limit < l.sum) ∧
      (∀ i r, readings[i]? = some r → t.rail (i + 1) = { s.rail (i + 1) with vout := r.mv, iout := r.da, busErr := false }) ∧
      (s.sensed = false → t.therm.nPower = s.therm.nPower) ∧
      (t.therm.overLimit ≠ s.therm.overLimit →
        AoLogged s t 3 (if t.therm.overLimit then 0x98 else 0x99) (5 + 65536 * meanWatts l.sum l.length)) ∧
      (s.sensed = true → limit < l.sum → (∀ at_, s.therm.raisedAt = some at_ → at_ + 100000000 ≤ s.nowNs) →
        t.therm.nPower.toNat = min 15 (s.therm.nPower.toNat + 1)) ∧
      (limit < l.sum → (∃ at_, s.therm.raisedAt = some at_ ∧ s.nowNs < at_ + 100000000) → t.therm.nPower = s.therm.nPower) ∧
      (l.sum ≤ limit → 95 * limit < 100 * l.sum → t.therm.nPower = s.therm.nPower) ∧
      (s.sensed = true → 100 * l.sum ≤ 95 * limit → l.sum ≤ limit →
        (∃ at_, s.therm.belowSince = some at_ ∧ at_ + 1000000000 ≤ s.nowNs) →
        (∀ at_, s.therm.fellAt = some at_ → at_ + 1000000000 ≤ s.nowNs) → t.therm.nPower.toNat = s.therm.nPower.toNat - 1) ∧
      t.therm.nThermal = s.therm.nThermal ∧ t.mem = s.mem ∧ t.settings = s.settings ∧ t.prog = s.prog ∧ t.pending = s.pending ∧
      (s.beat.aligned = true → t.therm.brake ≠ s.therm.brake →
        t.beat = { s.beat with brakePending := s.beat.brakePending ++ [(BitVec.ofNat 4 t.therm.brake, s.wall)] } ∧
          t.therm.brakeChg = s.therm.brakeChg + 1) ∧
      (t.therm.brake = s.therm.brake → t.beat = s.beat ∧ t.therm.brakeChg = s.therm.brakeChg) := by
  intro sample l limit
  have hnone : failedRail readings (powerSampled readings s) = none := by
    refine List.find?_eq_none.mpr fun i _ => ?_
    cases hi : readings[i]? with
    | none => simp
    | some r => simp [hok r (List.mem_of_getElem? hi)]
  refine ⟨powerSampled readings s, (execPowerSample_sweeps readings hv hr hst).trans (by rw [hnone]), ?_⟩
  have hall : readings.all (·.failed) = false := by
    cases readings with
    | nil => simp at hlen
    | cons r rs => simp [hok r (by simp)]
  have hdrawn : drawnPower (s.readRails readings) = sample := drawnPower_readRails s hlen hok
  have hrail : ∀ i r, readings[i]? = some r →
      (s.readRails readings).rail (i + 1) = { s.rail (i + 1) with vout := r.mv, iout := r.da, busErr := false } := fun i r hi => by
    rw [readRails_rail s readings (hlen ▸ (List.getElem?_eq_some_iff.mp hi).1), hi]
    simp [railRead, hok r (List.mem_of_getElem? hi)]
  obtain ⟨R, hR⟩ := readRails_frame s readings
  rw [hR] at hdrawn hrail
  have hsens : (withRails s R).sensed = s.sensed := rfl
  obtain ⟨T, hT⟩ : ∃ T, powerStepped (withRails s R) (!s.sensed) = T := ⟨_, rfl⟩
  have hstep : T.power = l ∧ T.energyUj = s.therm.energyUj + sample ∧ T.overLimit = decide (limit < l.sum) ∧
      T.nPower = powerNext s.therm (!s.sensed) l.sum limit s.nowNs ∧ T.nThermal = s.therm.nThermal ∧ T.brakeChg = s.therm.brakeChg := by
    rw [← hT]
    unfold powerStepped
    rw [hdrawn]
    exact ⟨rfl, rfl, rfl, rfl, rfl, rfl⟩
  obtain ⟨hpower, henergy, hover, hpow, hthermal, hchg⟩ := hstep
  have hsampled : powerSampled readings s = (powerBraked (withRails s R) (!s.sensed)).logPower s.therm.overLimit (decide (limit < l.sum))
      (meanWatts l.sum l.length) := by
    unfold powerSampled
    simp only [hR, hall, Bool.or_false, hsens, hdrawn]
    rfl
  obtain ⟨hl, al, hs, as, m, heq⟩ := logPower_eq (powerBraked (withRails s R) (!s.sensed)) s.therm.overLimit (decide (limit < l.sum))
    (meanWatts l.sum l.length)
  have hlog := fun h => logPower_aoLogged (powerBraked (withRails s R) (!s.sensed)) (old := s.therm.overLimit) (new := decide (limit < l.sum))
    (meanWatts l.sum l.length) h
  rw [← hsampled] at hlog heq
  have hbraked : powerBraked (withRails s R) (!s.sensed) = ((withRails s R).setTherm T).brakeChanged s.therm.brake := by rw [← hT]; rfl
  rw [hbraked, brakeChanged_eq] at heq hlog
  generalize powerSampled readings s = t at hlog heq ⊢
  have hth : t.therm = (((withRails s R).setTherm T).noteBrake s.therm.brake).therm := (congrArg State.therm heq :)
  have hbr : t.therm.brake = T.brake := by rw [hth]; rfl
  have hbeat : t.beat = brakeCarried ((withRails s R).setTherm T) s.therm.brake := (congrArg State.beat heq :)
  have hchg' : t.therm.brakeChg = if T.brake = s.therm.brake then T.brakeChg else T.brakeChg + 1 := by rw [hth]; rfl
  have hover' : t.therm.overLimit = decide (limit < l.sum) := by rw [hth]; exact hover
  have hpow' : t.therm.nPower = powerNext s.therm (!s.sensed) l.sum limit s.nowNs := by rw [hth]; exact hpow
  refine ⟨by rw [hth]; exact hpower, by rw [hth]; exact henergy, by simp [hover'], fun i r hi => ?_, fun hns => ?_, fun hne => ?_,
    fun hse h1 h2 => ?_, fun h1 h2 => ?_, fun h1 h2 => ?_, fun hse h1 h2 h3 h4 => ?_, by rw [hth]; exact hthermal,
    (congrArg State.mem heq :), (congrArg State.settings heq :), (congrArg State.prog heq :), (congrArg State.pending heq :),
    fun ha hne => ?_, fun he => ?_⟩
  · exact (congrArg (fun u : State => u.rail (i + 1)) heq :).trans (hrail i r hi)
  · rw [hpow', hns, Bool.not_false, powerNext_holds]
  · rw [hover'] at hne ⊢
    exact hlog hne
  · rw [hpow', hse]
    exact powerNext_above h1 h2
  · rw [hpow']
    exact powerNext_raised _ h1 h2
  · rw [hpow']
    exact powerNext_between _ h1 h2
  · rw [hpow', hse]
    exact powerNext_below h1 h2 h3 h4
  · rw [hbr] at hne ⊢
    rw [hbeat, hchg', if_neg hne, hchg]
    exact ⟨brakeCarried_aligned (s := (withRails s R).setTherm T) hne ha, rfl⟩
  · rw [hbr] at he
    rw [hbeat, hchg', if_pos he]
    exact ⟨brakeCarried_same (s := (withRails s R).setTherm T) he, hchg⟩

end Sys2Proof.Proofs
end

section
/-! O55. What the plant (rails, thermal values, lasers, vault registers, ports) keeps when collectives abort, channels stop and records are
written; and what a change at a port leaves (R307, R316). -/

namespace Sys2Proof.Proofs

open Sys2Proof Sys2Proof.Machine Sys2Proof.Laws

/-- The parts of the state that neither collectives, nor channels, nor mailboxes touch. -/
structure Plant where
  power  : PowerState
  therm  : ThermState
  lasers : SMap LaserState
  dieMem : SMap DieMem
  ports  : SMap PortState
  nowNs  : Nat

/-- The plant of a state. -/
def plantOf (s : State) : Plant := ⟨s.power, s.therm, s.lasers, s.dieMem, s.ports, s.nowNs⟩

section
variable {s t : State} (h : plantOf t = plantOf s)
include h
theorem plant_power : t.power = s.power := congrArg Plant.power h
theorem plant_therm : t.therm = s.therm := congrArg Plant.therm h
theorem plant_lasers : t.lasers = s.lasers := congrArg Plant.lasers h
theorem plant_dieMem : t.dieMem = s.dieMem := congrArg Plant.dieMem h
theorem plant_ports : t.ports = s.ports := congrArg Plant.ports h
theorem plant_nowNs : t.nowNs = s.nowNs := congrArg Plant.nowNs h
end

/-- A projection that every step of a fold keeps is kept by the fold. -/
theorem foldl_kept {β γ : Type} (p : State → γ) {f : State → β → State} (hf : ∀ u x, p (f u x) = p u) (l : List β) (s : State) :
    p (l.foldl f s) = p s := by
  induction l generalizing s with
  | nil => rfl
  | cons x l ih => exact (ih (f s x)).trans (hf s x)

section
variable (s : State)

theorem plant_logEvent (code unitKind die unit detail : Nat) : plantOf (s.logEvent code unitKind die unit detail) = plantOf s := by
  obtain ⟨hl, al, hs, as, m, h⟩ := log_eq s 3 code unitKind die unit detail
  exact (congrArg plantOf h :)

theorem plant_sendCl (k : Nat) (p : Packet) : plantOf (s.sendCl k p) = plantOf s := by
  unfold State.sendCl
  split <;> rfl

theorem plant_dropRequest (o : ReqOwner) (off : Nat) : plantOf (s.dropRequest o off) = plantOf s := by
  unfold State.dropRequest
  extract_lets keep
  split <;> rfl

theorem plant_placeSlot (n : Nat) (slot : BitVec 512) : plantOf (s.placeSlot n slot) = plantOf s := by
  unfold State.placeSlot
  extract_lets m s1
  split <;> rfl

theorem plant_reply (who : SenderId) (slot : BitVec 512) : plantOf (s.reply who slot) = plantOf s := by
  unfold State.reply State.postSlot
  split
  · extract_lets m
    split
    · exact plant_placeSlot s _ _
    · rfl
  · rfl

theorem plant_completeCmd (who : SenderId) (tag opcode status foff res : Nat) :
    plantOf (s.completeCmd who tag opcode status foff res) = plantOf s := by
  unfold State.completeCmd
  split
  · exact plant_reply _ _ _
  · rfl

theorem plant_completeCopy (c status halt : Nat) : plantOf (s.completeCopy c status halt) = plantOf s := by
  unfold State.completeCopy
  split
  · exact plant_completeCmd s _ _ _ _ _ _
  · rfl

theorem plant_discardQueue (c : Nat) : plantOf (s.discardQueue c) = plantOf s := by
  unfold State.discardQueue
  refine (foldl_kept plantOf (fun u x => ?_) _ _).trans rfl
  split
  · exact plant_completeCmd u _ _ _ _ _ _
  · rfl

theorem plant_requestStop (c : Nat) : plantOf (s.requestStop c) = plantOf s := by
  unfold State.requestStop State.stopChannel
  extract_lets ch
  split
  · exact (plant_discardQueue _ c).trans (plant_completeCopy s c _ _)
  · rfl

theorem plant_stopClaimed : plantOf s.stopClaimed = plantOf s := by
  unfold State.stopClaimed
  refine foldl_kept plantOf (fun u e => ?_) _ s
  split; · rfl
  split
  · rfl
  · exact plant_requestStop u _

theorem plant_completeStart (status res : Nat) : plantOf (s.completeStart status res) = plantOf s := by
  unfold State.completeStart
  split
  · exact plant_completeCmd s _ _ _ _ _ _
  · rfl

theorem plant_dropAccesses (k slot : Nat) : plantOf (s.dropAccesses k slot) = plantOf s := by
  unfold State.dropAccesses
  exact (foldl_kept plantOf (fun u x => plant_dropRequest u _ _) _ _).trans rfl

theorem plant_abortColl (k : Nat) (c : CollState) (cause origin detected : Nat) :
    plantOf (s.abortColl k c cause origin detected) = plantOf s := by
  unfold State.abortColl
  extract_lets payload pkts tag fb s0 s1 e e1 s2
  have hsent : plantOf s1 = plantOf s := foldl_kept plantOf (fun u p => plant_sendCl u k p) pkts s0
  have hdrop : plantOf ((s1.setEngine k e1).dropAccesses k c.slot) = plantOf s1 := plant_dropAccesses _ k c.slot
  exact (plant_logEvent _ _ _ _ _ _).trans (hdrop.trans hsent)

theorem plant_abortAll (cause : Nat) : plantOf (s.abortAll cause) = plantOf s :=
  foldl_kept plantOf (fun u k => foldl_kept plantOf (fun v c => plant_abortColl v k c cause _ _) _ u) _ s

theorem plant_programStopped : plantOf s.programStopped = plantOf s := by
  have h : plantOf (s.abortAll 8).stopClaimed = plantOf s := (plant_stopClaimed _).trans (plant_abortAll s 8)
  unfold State.programStopped
  generalize (s.abortAll 8).stopClaimed = u at h ⊢
  exact h

end

/-! ### Steps whose only trace in memory is what an abort leaves unspecified -/

/-- No collective opens, and memory keeps what open collectives do not leave unspecified. -/
structure OnlyAborts (s t : State) : Prop where
  open_ : ∀ k < 4, ∀ c ∈ (t.engine k).open_, c ∈ (s.engine k).open_
  mem : MemSameButAborts s t

theorem onlyAborts_of_eq {s t : State} (he : t.engines = s.engines) (hm : t.mem = s.mem) : OnlyAborts s t where
  open_ k _ c hc := by unfold State.engine at hc ⊢; rwa [he] at hc
  mem a _ := by unfold State.byte; rw [hm]

theorem onlyAborts_trans {s t u : State} (h : OnlyAborts s t) (k : OnlyAborts t u) : OnlyAborts s u where
  open_ i hi c hc := h.open_ i hi c (k.open_ i hi c hc)
  mem a ha := (k.mem a fun i hi c hc => ha i hi c (h.open_ i hi c hc)).trans (h.mem a ha)

theorem onlyAborts_refl (s : State) : OnlyAborts s s := onlyAborts_of_eq rfl rfl

theorem onlyAborts_logEvent (s : State) (code unitKind die unit detail : Nat) : OnlyAborts s (s.logEvent code unitKind die unit detail) :=
  onlyAborts_of_eq (stopQuiet_logEvent s ..).engines (stopQuiet_logEvent s ..).mem

theorem onlyAborts_abortAll (s : State) (cause : Nat) : OnlyAborts s (s.abortAll cause) where
  open_ k hk c hc := by rw [(abortAll_spec s cause).2.1 k hk] at hc; cases hc
  mem := (abortAll_spec s cause).2.2

theorem onlyAborts_programStopped (s : State) : OnlyAborts s s.programStopped where
  open_ k hk c hc := by rw [(programStopped_spec s).idle k hk] at hc; cases hc
  mem := (programStopped_spec s).mem

/-- The aborts of some of an engine's open collectives. -/
theorem onlyAborts_abortOwn {s : State} {k cause : Nat} (l : List CollState) (hl : ∀ c ∈ l, c ∈ (s.engine k).open_) (hk : k < 4) :
    OnlyAborts s (l.foldl (fun s c => s.abortOwn k c cause) s) := by
  obtain ⟨-, hown, hothers, hbyte⟩ := foldl_abortOwn k cause l s
  exact {
    open_ := fun j _ c hc => by
      by_cases hj : j = k
      · subst hj
        exact (hown c hc).1
      · rwa [hothers j hj] at hc
    mem := fun a ha => hbyte a fun c hc => ha k hk c (hl c hc) }

/-! ### Ports (R307, R316) -/

/-- What a change at a port leaves: the beat domain, the program, the settings and the plant but for the ports; and, of memory, all that no
abort leaves unspecified. -/
structure PortStep (s t : State) : Prop extends OnlyAborts s t where
  beat : t.beat = s.beat
  prog : t.prog = s.prog
  pending : t.pending = s.pending
  settings : t.settings = s.settings
  power : t.power = s.power
  therm : t.therm = s.therm
  lasers : t.lasers = s.lasers

theorem portStep_refl (s : State) : PortStep s s := ⟨onlyAborts_refl s, rfl, rfl, rfl, rfl, rfl, rfl, rfl⟩

theorem portStep_trans {s t u : State} (h : PortStep s t) (k : PortStep t u) : PortStep s u :=
  ⟨onlyAborts_trans h.toOnlyAborts k.toOnlyAborts, k.beat.trans h.beat, k.prog.trans h.prog, k.pending.trans h.pending,
    k.settings.trans h.settings, k.power.trans h.power, k.therm.trans h.therm, k.lasers.trans h.lasers⟩

theorem portStep_foldl {β : Type} {f : State → β → State} (hf : ∀ u x, PortStep u (f u x)) (l : List β) (s : State) :
    PortStep s (l.foldl f s) := by
  induction l generalizing s with
  | nil => exact portStep_refl s
  | cons x l ih => exact portStep_trans (hf s x) (ih (f s x))

theorem portStep_of_eq {s t : State} (h : { t with ports := s.ports, fabs := s.fabs, mach := s.mach, steer := s.steer } = s) : PortStep s t where
  open_ := (onlyAborts_of_eq (congrArg State.engines h :) (congrArg State.mem h :)).open_
  mem := (onlyAborts_of_eq (congrArg State.engines h :) (congrArg State.mem h :)).mem
  beat := (congrArg State.beat h :)
  prog := (congrArg State.prog h :)
  pending := (congrArg State.pending h :)
  settings := (congrArg State.settings h :)
  power := (congrArg State.power h :)
  therm := (congrArg State.therm h :)
  lasers := (congrArg State.lasers h :)

theorem portStep_setPort (s : State) (f : Nat) (p : PortState) : PortStep s (s.setPort f p) := portStep_of_eq rfl

theorem portStep_logEvent (s : State) (code unitKind die unit detail : Nat) : PortStep s (s.logEvent code unitKind die unit detail) := by
  have hquiet := stopQuiet_logEvent s code unitKind die unit detail
  have hplant := plant_logEvent s code unitKind die unit detail
  exact {
    toOnlyAborts := onlyAborts_logEvent s _ _ _ _ _
    beat := hquiet.beat
    prog := hquiet.prog
    pending := hquiet.pending
    settings := hquiet.settings
    power := plant_power hplant
    therm := plant_therm hplant
    lasers := plant_lasers hplant }

theorem plant_foldl_abortOwn (k cause : Nat) (l : List CollState) (s : State) :
    plantOf (l.foldl (fun s c => s.abortOwn k c cause) s) = plantOf s :=
  foldl_kept plantOf (fun u c => plant_abortColl u k c cause _ _) l s

theorem portStep_abortOwn {s : State} {k : Nat} (cause : Nat) (l : List CollState) (hl : ∀ c ∈ l, c ∈ (s.engine k).open_) (hk : k < 4) :
    PortStep s (l.foldl (fun s c => s.abortOwn k c cause) s) := by
  have hkeeps := (foldl_abortOwn k cause l s).1
  have hplant := plant_foldl_abortOwn k cause l s
  exact {
    toOnlyAborts := onlyAborts_abortOwn l hl hk
    beat := hkeeps.beat
    prog := hkeeps.prog
    pending := hkeeps.pending
    settings := hkeeps.settings
    power := plant_power hplant
    therm := plant_therm hplant
    lasers := plant_lasers hplant }

/-- What is not of its waves at every port: state, bring-up step, counts. -/
def portLines (s : State) : Nat → PortState := fun j => { s.port j with waves := [] }

/-- A step that leaves the ports' own states. -/
structure WaveStep (s t : State) : Prop extends PortStep s t where
  lines : portLines t = portLines s

theorem waveStep_refl (s : State) : WaveStep s s := ⟨portStep_refl s, rfl⟩

theorem waveStep_trans {s t u : State} (h : WaveStep s t) (k : WaveStep t u) : WaveStep s u :=
  ⟨portStep_trans h.toPortStep k.toPortStep, k.lines.trans h.lines⟩

theorem waveStep_foldl {β : Type} {f : State → β → State} (hf : ∀ u x, WaveStep u (f u x)) (l : List β) (s : State) :
    WaveStep s (l.foldl f s) := by
  induction l generalizing s with
  | nil => exact waveStep_refl s
  | cons x l ih => exact waveStep_trans (hf s x) (ih (f s x))

theorem waveStep_forAll {n : Nat} {f : State → Nat → State} (hf : ∀ k < n, ∀ u, WaveStep u (f u k)) (s : State) :
    WaveStep s (forAll n s f) := by
  have hfold (l : List Nat) : (∀ k ∈ l, k < n) → ∀ s, WaveStep s (l.foldl f s) := by
    induction l with
    | nil => exact fun _ s => waveStep_refl s
    | cons k l ih => exact fun hl s => waveStep_trans (hf k (hl k (by simp)) s) (ih (fun j hj => hl j (by simp [hj])) (f s k))
  exact hfold _ (fun k hk => List.mem_range.mp hk) s

theorem waveStep_of_eq {s t : State} (h : { t with fabs := s.fabs, mach := s.mach, steer := s.steer } = s) : WaveStep s t where
  toPortStep := portStep_of_eq (congrArg (fun u : State => { u with ports := s.ports }) h :)
  lines := (congrArg portLines h :)

theorem waveStep_setFab (s : State) (k : Nat) (a : FabState) : WaveStep s (s.setFab k a) := waveStep_of_eq rfl
theorem waveStep_setNbr (s : State) (q : Nat) (a : NeighbourState) : WaveStep s (s.setNbr q a) := waveStep_of_eq rfl
theorem waveStep_setSteerG (s : State) (k w : Nat) (a : SteerState) : WaveStep s (s.setSteerG k w a) := waveStep_of_eq rfl

theorem waveStep_setWave (s : State) (f w : Nat) (a : WaveState) : WaveStep s (s.setWave f w a) where
  toPortStep := portStep_setPort s f _
  lines := by
    funext j
    have hport : (s.setWave f w a).port j = if j = f then { s.port f with waves := SMap.set {} (s.port f).waves w a } else s.port j :=
      setPort_port s f _ j
    unfold portLines
    rw [hport]
    by_cases h : j = f
    · simp [h]
    · simp [h]

theorem waveStep_logEvent (s : State) (code unitKind die unit detail : Nat) : WaveStep s (s.logEvent code unitKind die unit detail) := by
  have hports := plant_ports (plant_logEvent s code unitKind die unit detail)
  exact ⟨portStep_logEvent s _ _ _ _ _, by unfold portLines State.port; rw [hports]⟩

theorem waveStep_abortOwn {s : State} {k : Nat} (cause : Nat) (l : List CollState) (hl : ∀ c ∈ l, c ∈ (s.engine k).open_) (hk : k < 4) :
    WaveStep s (l.foldl (fun s c => s.abortOwn k c cause) s) := by
  have hports := plant_ports (plant_foldl_abortOwn k cause l s)
  exact ⟨portStep_abortOwn cause l hl hk, by unfold portLines State.port; rw [hports]⟩

theorem waveStep_transmit (s : State) (f w : Nat) (bs : List (BitVec 257)) : WaveStep s (s.transmit f w bs) := waveStep_setWave s f w _

theorem waveStep_sendControl (s : State) (f w ty content : Nat) : WaveStep s (s.sendControl f w ty content) := by
  unfold State.sendControl
  extract_lets k i fb x c0 c1 b
  exact waveStep_trans (waveStep_setFab s k _) (waveStep_transmit _ f w _)

theorem waveStep_endBurst (s : State) (f w ns : Nat) : WaveStep s (s.endBurst f w ns) := by
  unfold State.endBurst
  extract_lets n s1
  have h1 : WaveStep s s1 := by
    unfold s1
    split
    · exact waveStep_sendControl s f w _ _
    · exact waveStep_refl s
  exact waveStep_trans h1 (waveStep_setWave s1 f w _)

theorem waveStep_applySlot (s : State) (k w slot : Nat) (t : Option Int) : WaveStep s (s.applySlot k w slot t) := by
  have hend : WaveStep s (s.endSlot k w) := by
    unfold State.endSlot
    extract_lets g
    split
    · exact waveStep_refl s
    · refine waveStep_foldl (fun u j => ?_) _ s
      split
      · exact waveStep_endBurst u _ w _
      · exact waveStep_refl u
  unfold State.applySlot
  generalize s.endSlot k w = u at hend ⊢
  exact waveStep_trans hend (waveStep_setSteerG u k w _)

theorem waveStep_refreshSteering (s : State) (k : Nat) : WaveStep s (s.refreshSteering k) := by
  refine waveStep_foldl (fun u i => ?_) _ s
  extract_lets w g
  split
  · exact waveStep_applySlot u k w _ _
  · exact waveStep_setSteerG u k w _

theorem waveStep_flushPort (s : State) (f : Nat) : WaveStep s (s.flushPort f) :=
  waveStep_foldl (fun u _ => waveStep_setFab u (f / 8) _) _ s

theorem waveStep_flushChunks (s : State) (f : Nat) : WaveStep s (s.flushChunks f) := by
  unfold State.flushChunks
  extract_lets fb mine
  exact waveStep_setFab s _ _

theorem waveStep_linkLost (s : State) (f : Nat) : WaveStep s (s.linkLost f) := by
  unfold State.linkLost
  extract_lets s0 s1
  have h0 : WaveStep s s0 := waveStep_foldl (fun u w => waveStep_setWave u f w _) _ s
  have h1 : WaveStep s s1 := waveStep_trans h0 (waveStep_trans (waveStep_flushPort s0 f) (waveStep_flushChunks _ f))
  clear_value s1
  split
  · exact h1
  next q _ =>
    extract_lets s2 spans
    have h2 : WaveStep s s2 := waveStep_trans h1 (waveStep_setNbr s1 q _)
    clear_value s2
    exact waveStep_trans h2 (waveStep_forAll (fun k hk u => waveStep_abortOwn 1 _ (fun c hc => (List.mem_filter.mp hc).1) hk) s2)

theorem portLines_setPort (s : State) (f : Nat) (p : PortState) :
    portLines (s.setPort f p) = fun j => if j = f then { p with waves := [] } else portLines s j := by
  funext j
  show ({ (s.setPort f p).port j with waves := [] } : PortState) = _
  rw [setPort_port]
  by_cases h : j = f <;> simp [h, portLines]

/-- A step at one port: the others keep their states. -/
structure PortChange (f : Nat) (p : PortState → PortState) (s t : State) : Prop extends PortStep s t where
  lines : portLines t = fun j => if j = f then p (portLines s f) else portLines s j

theorem portChange_of_waveStep {f : Nat} {s t : State} (h : WaveStep s t) : PortChange f id s t where
  toPortStep := h.toPortStep
  lines := by
    rw [h.lines]
    funext j
    by_cases hj : j = f <;> simp [hj]

theorem portChange_setPort (s : State) (f : Nat) (p : PortState → PortState) (q : PortState)
    (h : ({ q with waves := [] } : PortState) = p (portLines s f)) : PortChange f p s (s.setPort f q) :=
  ⟨portStep_setPort s f q, by rw [portLines_setPort, h]⟩

theorem portChange_trans {f : Nat} {p q : PortState → PortState} {s t u : State} (h : PortChange f p s t) (k : PortChange f q t u) :
    PortChange f (q ∘ p) s u where
  toPortStep := portStep_trans h.toPortStep k.toPortStep
  lines := by
    rw [k.lines, h.lines]
    funext j
    by_cases hj : j = f <;> simp [hj]

/-- A port that has been up and has gone down. -/
def portWentDown (p : PortState) : PortState := if p.state = 2 then { p with state := 3, downs := p.downs + 1 } else p

/-- A port in bring-up that is held down. -/
def portHeldDown (p : PortState) : PortState := if p.state = 1 then { p with state := 3, retryAt := 0, retrying := false } else p

theorem portChange_congr {f : Nat} {p q : PortState → PortState} {s t : State} (h : PortChange f p s t)
    (hpq : p (portLines s f) = q (portLines s f)) : PortChange f q s t :=
  ⟨h.toPortStep, by rw [h.lines, hpq]⟩

theorem goDown_change (s : State) (f : Nat) : PortChange f portWentDown s (s.goDown f) := by
  unfold State.goDown
  extract_lets s0 src s1
  have hstate : (portLines s f).state = (s.port f).state := rfl
  by_cases h : (s.port f).state = 2
  · rw [if_neg (not_not_intro h)]
    have h0 : WaveStep s s0 := waveStep_logEvent s _ _ _ _ _
    have h1 : PortChange f (fun p => { p with state := 3, downs := p.downs + 1 }) s0 s1 := portChange_setPort s0 f _ _ rfl
    have h2 : WaveStep s1 ((s1.linkLost f).refreshSteering (f / 8)) := waveStep_trans (waveStep_linkLost s1 f) (waveStep_refreshSteering _ _)
    refine portChange_congr (portChange_trans (portChange_of_waveStep h0) (portChange_trans h1 (portChange_of_waveStep h2))) ?_
    simp [portWentDown, hstate, h]
  · rw [if_pos h]
    exact portChange_congr (portChange_of_waveStep (waveStep_refl s)) (if_neg h).symm

theorem holdDown_change (s : State) (f : Nat) : PortChange f portHeldDown s (s.holdDown f) := by
  unfold State.holdDown
  have hstate : (portLines s f).state = (s.port f).state := rfl
  by_cases h : (s.port f).state = 1
  · rw [if_pos h]
    refine portChange_setPort s f _ _ ?_
    simp only [portHeldDown, hstate, h, if_true]
    rfl
  · rw [if_neg h]
    exact portChange_congr (portChange_of_waveStep (waveStep_refl s)) (if_neg h).symm

theorem portStep_disablePort (s : State) (f : Nat) : PortStep s (s.disablePort f) := by
  unfold State.disablePort
  extract_lets p s1
  split
  · exact portStep_refl s
  · exact portStep_trans (portStep_setPort s f _)
      (portStep_trans (waveStep_linkLost s1 f).toPortStep (waveStep_refreshSteering _ (f / 8)).toPortStep)

/-- A port in bring-up again, from a step at the latest (R307). -/
def portRepeated (step : Nat) (enabled : Bool) (p : PortState) : PortState :=
  if p.state = 0 ∨ !enabled then p else { p with state := 1, step := BitVec.ofNat 3 (min (step - 1) p.step.toNat), retryAt := 0 }

/-- The repeat of the bring-up of one port. -/
def repeatPort (step : Nat) (s : State) (f : Nat) : State :=
  let p := s.port f
  if p.state = 0 ∨ !s.portEnabled f then s
  else
    let s1 := if p.state = 2 then (s.setPort f { p with state := 1 }).linkLost f else s
    (s1.setPort f { s1.port f with state := 1, step := BitVec.ofNat 3 (min (step - 1) p.step.toNat), retryAt := 0 }).refreshSteering (f / 8)

theorem repeatFrom_eq (s : State) (fs : List Nat) (step : Nat) : s.repeatFrom fs step = fs.foldl (repeatPort step) s := rfl

theorem repeatPort_change (s : State) (f step : Nat) : PortChange f (portRepeated step (s.portEnabled f)) s (repeatPort step s f) := by
  unfold repeatPort
  extract_lets p s1
  have hstate : (portLines s f).state = p.state := rfl
  by_cases h : p.state = 0 ∨ !s.portEnabled f
  · rw [if_pos h]
    refine portChange_congr (portChange_of_waveStep (waveStep_refl s)) ?_
    simp only [portRepeated, hstate, if_pos h]
    rfl
  · rw [if_neg h]
    have h1 : PortChange f (fun q => { q with state := if q.state = 2 then 1 else q.state }) s s1 := by
      unfold s1
      by_cases h2 : p.state = 2
      · rw [if_pos h2]
        have hset := portChange_setPort s f (fun q => { q with state := 1 }) { p with state := 1 } rfl
        refine portChange_congr (portChange_trans hset (portChange_of_waveStep (waveStep_linkLost _ f))) ?_
        simp [hstate, h2]
      · rw [if_neg h2]
        refine portChange_congr (portChange_of_waveStep (waveStep_refl s)) ?_
        simp only [hstate, if_neg h2]
        rfl
    clear_value s1
    have h3 := portChange_setPort s1 f (fun q => { q with state := 1, step := BitVec.ofNat 3 (min (step - 1) p.step.toNat), retryAt := 0 })
      { s1.port f with state := 1, step := BitVec.ofNat 3 (min (step - 1) p.step.toNat), retryAt := 0 } rfl
    refine portChange_congr (portChange_trans h1 (portChange_trans h3 (portChange_of_waveStep (waveStep_refreshSteering _ (f / 8))))) ?_
    simp only [portRepeated, hstate, if_neg h]
    rfl

/-! The ports of a die, one after the other. -/

/-- Steps at ports 8k, 8k + 1 and on change those ports alone. -/
theorem foldl_portChange {k : Nat} {f : State → Nat → State} {p : Nat → PortState → PortState} {c : State → Prop}
    (hf : ∀ u, c u → ∀ j, PortChange (8 * k + j) (p j) u (f u j)) (hc : ∀ u v, c u → PortStep u v → c v) {s : State} (hs : c s)
    (n : Nat) :
    PortStep s ((List.range n).foldl f s) ∧
      (∀ j < n, portLines ((List.range n).foldl f s) (8 * k + j) = p j (portLines s (8 * k + j))) ∧
      ∀ i, (∀ j < n, i ≠ 8 * k + j) → portLines ((List.range n).foldl f s) i = portLines s i := by
  induction n with
  | zero => exact ⟨portStep_refl s, fun _ h => absurd h (Nat.not_lt_zero _), fun _ _ => rfl⟩
  | succ n ih =>
    obtain ⟨hstep, hdone, hleft⟩ := ih
    rw [List.range_succ, List.foldl_append, List.foldl_cons, List.foldl_nil]
    generalize (List.range n).foldl f s = u at hstep hdone hleft ⊢
    have hu := hf u (hc s u hs hstep) n
    refine ⟨portStep_trans hstep hu.toPortStep, fun j hj => ?_, fun i hi => ?_⟩
    · rw [hu.lines]
      by_cases hjn : j = n
      · subst hjn
        simp only [if_true]
        rw [hleft _ fun i hi => by omega]
      · simp only [show ¬(8 * k + j = 8 * k + n) by omega, if_false]
        exact hdone j (by omega)
    · rw [hu.lines]
      simp only [hi n (by omega), if_false]
      exact hleft i fun j hj => hi j (by omega)

theorem dropLasers_eq (s : State) : ∃ L, s.dropLasers = { s with lasers := L } := by
  unfold State.dropLasers forAll
  generalize List.range 8 = l
  induction l generalizing s with
  | nil => exact ⟨s.lasers, rfl⟩
  | cons n l ih =>
    rw [List.foldl_cons]
    split
    · exact ih s
    · obtain ⟨L, hL⟩ := ih (s.setLaser n { s.laser n with req := false, fellAt := none })
      exact ⟨L, hL⟩

/-- The ports of a region that has become too hot (R459). -/
theorem regionStop_spec (s : State) (k : Nat) : ∃ L, PortStep { s with lasers := L } (s.regionStop k) ∧
    ∀ j < 8, portLines (s.regionStop k) (8 * k + j) = portHeldDown (portWentDown (portLines s (8 * k + j))) := by
  obtain ⟨L, hL⟩ := dropLasers_eq s
  unfold State.regionStop
  rw [hL]
  obtain ⟨hstep, hports, -⟩ := foldl_portChange (k := k) (f := fun s j => (s.goDown (8 * k + j)).holdDown (8 * k + j))
    (p := fun _ => portHeldDown ∘ portWentDown) (c := fun _ => True)
    (fun u _ j => portChange_trans (goDown_change u _) (holdDown_change _ _)) (fun _ _ _ _ => trivial) (s := { s with lasers := L }) trivial 8
  exact ⟨L, hstep, hports⟩

theorem portEnabled_of_portStep {s t : State} (h : PortStep s t) (f : Nat) : t.portEnabled f = s.portEnabled f := by
  unfold State.portEnabled State.setting
  rw [h.settings]

/-- The ports of a die whose bring-up repeats (R307). -/
theorem repeatFrom_spec (s : State) (k step : Nat) : PortStep s (s.repeatFrom ((List.range 8).map fun j => 8 * k + j) step) ∧
    ∀ j < 8, portLines (s.repeatFrom ((List.range 8).map fun j => 8 * k + j) step) (8 * k + j) =
      portRepeated step (s.portEnabled (8 * k + j)) (portLines s (8 * k + j)) := by
  rw [repeatFrom_eq, List.foldl_map]
  obtain ⟨hstep, hports, -⟩ := foldl_portChange (k := k) (f := fun u j => repeatPort step u (8 * k + j))
    (p := fun j => portRepeated step (s.portEnabled (8 * k + j))) (c := fun u => ∀ f, u.portEnabled f = s.portEnabled f)
    (fun u hu j => by rw [← hu]; exact repeatPort_change u _ step)
    (fun u v hu hv f => (portEnabled_of_portStep hv f).trans (hu f)) (s := s) (fun _ => rfl) 8
  exact ⟨hstep, hports⟩

end Sys2Proof.Proofs
end

section
/-! O55. Region heaters (R459). -/

namespace Sys2Proof.Proofs

open Sys2Proof Sys2Proof.Machine Sys2Proof.Laws

/-! ### Fields of two bits -/

theorem fld_pair {n : Nat} (w : BitVec n) (k : Nat) : fld w (2 * k + 1) (2 * k) = w.toNat / 4 ^ k % 4 := by
  unfold fld
  rw [Nat.shiftRight_eq_div_pow, Nat.pow_mul, show 2 * k + 1 + 1 - 2 * k = 2 by omega, show (2 : Nat) ^ 2 = 4 from rfl]

theorem setFld_pair_toNat {n : Nat} (w : BitVec n) {k v : Nat} (hk : 2 * k + 2 ≤ n) (hv : v < 4) :
    (setFld w (2 * k + 1) (2 * k) v).toNat = 4 ^ k * (4 * (w.toNat / 4 ^ k / 4) + v) + w.toNat % 4 ^ k := by
  obtain ⟨m, rfl⟩ := Nat.exists_eq_add_of_le hk
  have hp : 0 < 4 ^ k := by positivity
  have hpow : 2 ^ (2 * k + 2 + m) = 4 ^ k * (4 * 2 ^ m) := by rw [pow_add, pow_add, pow_mul]; ring
  have hx := w.isLt
  have hr := Nat.mod_lt w.toNat hp
  unfold setFld
  rw [fld_pair, BitVec.toNat_ofNat, Nat.pow_mul, show 2 * k + 1 + 1 - 2 * k = 2 by omega, show (2 : Nat) ^ 2 = 4 from rfl,
    Nat.mod_eq_of_lt hv, hpow]
  rw [hpow] at hx
  have hdiv := Nat.div_add_mod w.toNat (4 ^ k)
  have hq : w.toNat / 4 ^ k < 4 * 2 ^ m := Nat.div_lt_of_lt_mul hx
  generalize w.toNat / 4 ^ k = q at hdiv hq ⊢
  generalize w.toNat % 4 ^ k = r at hdiv hr ⊢
  have hsub : w.toNat - q % 4 * 4 ^ k + v * 4 ^ k = 4 ^ k * (4 * (q / 4) + v) + r := by
    have hqd : 4 ^ k * q = 4 ^ k * (4 * (q / 4)) + q % 4 * 4 ^ k := by
      rw [Nat.mul_comm (q % 4), ← Nat.mul_add, Nat.div_add_mod]
    rw [← hdiv, hqd, Nat.mul_add, Nat.mul_comm v]
    omega
  rw [hsub]
  refine Nat.mod_eq_of_lt (lt_of_lt_of_le ?_ (Nat.mul_le_mul_left (4 ^ k) (show 4 * (q / 4) + v + 1 ≤ 4 * 2 ^ m by omega)))
  rw [Nat.mul_add (4 ^ k) _ 1]
  omega

theorem fld_setFld_pair {n : Nat} (w : BitVec n) {k v : Nat} (j : Nat) (hk : 2 * k + 2 ≤ n) (hv : v < 4) :
    fld (setFld w (2 * k + 1) (2 * k) v) (2 * j + 1) (2 * j) = if j = k then v else fld w (2 * j + 1) (2 * j) := by
  have hp : 0 < 4 ^ k := by positivity
  have hr := Nat.mod_lt w.toNat hp
  rw [fld_pair, fld_pair, setFld_pair_toNat w hk hv]
  have hdiv : (4 ^ k * (4 * (w.toNat / 4 ^ k / 4) + v) + w.toNat % 4 ^ k) / 4 ^ k = 4 * (w.toNat / 4 ^ k / 4) + v := by
    rw [Nat.mul_add_div hp, Nat.div_eq_of_lt hr, Nat.add_zero]
  rcases lt_trichotomy j k with h | rfl | h
  · obtain ⟨i, rfl⟩ := Nat.exists_eq_add_of_lt h
    have hdvd : 4 ^ j * 4 ∣ 4 ^ (j + i + 1) := ⟨4 ^ i, by ring⟩
    rw [if_neg (by omega), ← Nat.mod_mul_right_div_self, ← Nat.mod_mul_right_div_self, ← Nat.mod_mod_of_dvd _ hdvd, Nat.mul_add_mod,
      Nat.mod_mod, Nat.mod_mod_of_dvd _ hdvd]
  · rw [if_pos rfl, hdiv]
    omega
  · obtain ⟨i, rfl⟩ := Nat.exists_eq_add_of_lt h
    have hpow : 4 ^ (k + i + 1) = 4 ^ k * 4 * 4 ^ i := by ring
    rw [if_neg (by omega), hpow, ← Nat.div_div_eq_div_mul, ← Nat.div_div_eq_div_mul, hdiv, ← Nat.div_div_eq_div_mul,
      ← Nat.div_div_eq_div_mul]
    congr 2
    omega

/-! ### Ring regions (R459) -/

/-- The valid readings of a region. -/
def regionReadings (s : State) (k : Nat) : List Int :=
  (((List.range 8).map fun i => (SMap.get {} s.therm.sensors (160 + 8 * k + i) : SensorState)).filter SensorState.valid).map SensorState.read

/-- How far the sum of a region's readings is from its setpoint. -/
def regionOff (s : State) (k : Nat) : Nat :=
  ((regionReadings s k).sum - ((regionReadings s k).length : Int) * (s.keyN 0x0502 (2 * k) 2 : Nat)).natAbs

/-- The mean of a region is within its band, or too far from it. -/
def regionNear (s : State) (k : Nat) : Bool :=
  !(regionReadings s k).isEmpty && decide (10 * regionOff s k ≤ 16 * (regionReadings s k).length)
def regionFar (s : State) (k : Nat) : Bool :=
  !(regionReadings s k).isEmpty && decide (8 * (regionReadings s k).length < regionOff s k)

theorem regionNear_iff (s : State) (k : Nat) :
    regionNear s k = true ↔ regionReadings s k ≠ [] ∧ 10 * regionOff s k ≤ 16 * (regionReadings s k).length := by
  simp [regionNear]

theorem regionFar_iff (s : State) (k : Nat) :
    regionFar s k = true ↔ regionReadings s k ≠ [] ∧ 8 * (regionReadings s k).length < regionOff s k := by
  simp [regionFar]

/-- A region's heater has its drive. -/
def regionDriven (s : State) (k : Nat) : State :=
  s.draw.2.setTherm { s.draw.2.therm with regionHeat := SMap.set 0 s.draw.2.therm.regionHeat k (s.draw.1.toNat % 4096) }

/-- The record of a region's event. -/
def regionNoted (s : State) (k ev : Nat) (hot : Int) : State := s.logEvent 0x9E 10 0xFF 0 (k + 2 ^ 8 * ev + 2 ^ 16 * reading16 hot)

/-- The state of a region: 0 not yet warm, 1 in band, 2 out of band, 3 stopped. -/
def regionState (s : State) (k : Nat) : Nat := fld s.therm.ring (2 * k + 1) (2 * k)

/-- The region's state follows its readings. -/
def regionFollowed (s : State) (k : Nat) (hot : Int) : State :=
  if regionState s k ≠ 3 ∧ 1440 ≤ hot then ((regionNoted s k 1 hot).setRegion k 3 none).regionStop k
  else if regionState s k = 3 then
    (if regionNear s k = true ∧ hot < 1440 then
      ((regionNoted s k 2 hot).setRegion k 1 none).repeatFrom ((List.range 8).map fun j => 8 * k + j) 2 else s)
  else if regionState s k = 0 then (if regionNear s k then s.setRegion k 1 none else s)
  else if regionState s k = 2 then (if regionNear s k then (regionNoted s k 2 hot).setRegion k 1 none else s)
  else if regionFar s k then
    (if (s.therm.bandSince k).getD s.nowNs + 1000000000 ≤ s.nowNs then (regionNoted s k 0 hot).setRegion k 2 none
      else s.setRegion k 1 (some ((s.therm.bandSince k).getD s.nowNs)))
  else s.setRegion k 1 none

theorem execRegionHeaterControl_follows {k : LpId} {s : State} {hot : Int} (hpg : (s.rail 25).pg = true) (hr : s.power.inReset = false)
    (hhot : s.hottestOf (160 + 8 * k.val) 8 = some hot) :
    exec (.regionHeaterControl k) s = .next (regionFollowed (regionDriven s k) k hot) := by
  show execRegionHeaterControl k s = _
  unfold execRegionHeaterControl
  simp only []
  rw [if_neg (by simp [hpg, hr]), hhot]
  unfold regionFollowed
  simp only [apply_ite Host.Outcome.next]
  rfl

/-- What the control of a region leaves: the beat domain, the program, the settings and the heater drives; and, of memory, all that no abort
leaves unspecified. -/
structure RegionStep (s t : State) : Prop extends OnlyAborts s t where
  beat : t.beat = s.beat
  prog : t.prog = s.prog
  settings : t.settings = s.settings
  heat : t.therm.regionHeat = s.therm.regionHeat

theorem regionStep_trans {s t u : State} (h : RegionStep s t) (k : RegionStep t u) : RegionStep s u :=
  ⟨onlyAborts_trans h.toOnlyAborts k.toOnlyAborts, k.beat.trans h.beat, k.prog.trans h.prog, k.settings.trans h.settings, k.heat.trans h.heat⟩

theorem regionStep_of_portStep {s t : State} (h : PortStep s t) : RegionStep s t :=
  ⟨h.toOnlyAborts, h.beat, h.prog, h.settings, by rw [h.therm]⟩

theorem regionStep_refl (s : State) : RegionStep s s := regionStep_of_portStep (portStep_refl s)

theorem regionStep_noted (s : State) (k ev : Nat) (hot : Int) : RegionStep s (regionNoted s k ev hot) :=
  regionStep_of_portStep (portStep_logEvent s _ _ _ _ _)

theorem regionStep_setRegion (s : State) (k st : Nat) (since : Option Nat) : RegionStep s (s.setRegion k st since) :=
  ⟨onlyAborts_of_eq rfl rfl, rfl, rfl, rfl, rfl⟩

theorem regionStep_noted_setRegion (s : State) (k ev st : Nat) (hot : Int) (since : Option Nat) :
    RegionStep s ((regionNoted s k ev hot).setRegion k st since) :=
  regionStep_trans (regionStep_noted s k ev hot) (regionStep_setRegion _ k st since)

theorem regionStep_stop (s : State) (k : Nat) : RegionStep s (s.regionStop k) := by
  obtain ⟨L, h, -⟩ := regionStop_spec s k
  have h1 : RegionStep s { s with lasers := L } := ⟨onlyAborts_of_eq rfl rfl, rfl, rfl, rfl, rfl⟩
  exact regionStep_trans h1 (regionStep_of_portStep h)

theorem regionStep_followed (s : State) (k : Nat) (hot : Int) : RegionStep s (regionFollowed s k hot) := by
  unfold regionFollowed
  split
  · exact regionStep_trans (regionStep_noted_setRegion s k 1 3 hot none) (regionStep_stop _ k)
  split
  · split
    · exact regionStep_trans (regionStep_noted_setRegion s k 2 1 hot none) (regionStep_of_portStep (repeatFrom_spec _ k 2).1)
    · exact regionStep_refl s
  split
  · split
    · exact regionStep_setRegion s k 1 none
    · exact regionStep_refl s
  split
  · split
    · exact regionStep_noted_setRegion s k 2 1 hot none
    · exact regionStep_refl s
  split
  · split
    · exact regionStep_noted_setRegion s k 0 2 hot none
    · exact regionStep_setRegion s k 1 _
  · exact regionStep_setRegion s k 1 none

/-! The state that a region comes to. -/

section
variable {s : State} {k : Nat} {hot : Int}

theorem regionState_setRegion (s : State) {k st : Nat} (since : Option Nat) (hk : k < 4) (hst : st < 4) :
    regionState (s.setRegion k st since) k = st := by
  show fld (setFld s.therm.ring (2 * k + 1) (2 * k) st) (2 * k + 1) (2 * k) = st
  rw [fld_setFld_pair _ _ (by omega) hst, if_pos rfl]

theorem bandSince_setRegion_none (s : State) (k st : Nat) : (s.setRegion k st none).therm.bandSince k = none := by
  show Option.map _ (List.find? _ ([] ++ s.therm.ringBandSince.filter fun x => x.1 != k)) = none
  rw [List.nil_append, Option.map_eq_none_iff, List.find?_eq_none]
  intro x hx
  simpa using (List.mem_filter.mp hx).2

theorem portLines_setRegion (s : State) (k st : Nat) (since : Option Nat) : portLines (s.setRegion k st since) = portLines s := rfl

theorem portEnabled_setRegion (s : State) (k st : Nat) (since : Option Nat) (f : Nat) :
    (s.setRegion k st since).portEnabled f = s.portEnabled f := rfl

theorem portLines_region (s : State) (k ev st : Nat) (hot : Int) (since : Option Nat) :
    portLines ((regionNoted s k ev hot).setRegion k st since) = portLines s :=
  (portLines_setRegion _ k st since).trans (waveStep_logEvent s _ _ _ _ _).lines

theorem regionFollowed_hot (hk : k < 4) (h3 : regionState s k ≠ 3) (h : 1440 ≤ hot) : regionState (regionFollowed s k hot) k = 3 ∧
    ∀ j < 8, portLines (regionFollowed s k hot) (8 * k + j) = portHeldDown (portWentDown (portLines s (8 * k + j))) := by
  have heq : regionFollowed s k hot = ((regionNoted s k 1 hot).setRegion k 3 none).regionStop k := if_pos ⟨h3, h⟩
  obtain ⟨L, hstep, hports⟩ := regionStop_spec ((regionNoted s k 1 hot).setRegion k 3 none) k
  rw [heq]
  refine ⟨?_, fun j hj => ?_⟩
  · have hth : (((regionNoted s k 1 hot).setRegion k 3 none).regionStop k).therm = ((regionNoted s k 1 hot).setRegion k 3 none).therm :=
      hstep.therm
    unfold regionState
    rw [hth]
    exact regionState_setRegion _ none hk (by omega)
  · rw [hports j hj, portLines_region]

theorem regionFollowed_restart (hk : k < 4) (h3 : regionState s k = 3) (hn : regionNear s k = true) (h : hot < 1440) :
    regionState (regionFollowed s k hot) k = 1 ∧
      ∀ j < 8, portLines (regionFollowed s k hot) (8 * k + j) =
        portRepeated 2 (s.portEnabled (8 * k + j)) (portLines s (8 * k + j)) := by
  have heq : regionFollowed s k hot = ((regionNoted s k 2 hot).setRegion k 1 none).repeatFrom ((List.range 8).map fun j => 8 * k + j) 2 := by
    unfold regionFollowed
    rw [if_neg (by simp [h3]), if_pos h3, if_pos ⟨hn, h⟩]
  obtain ⟨hstep, hports⟩ := repeatFrom_spec ((regionNoted s k 2 hot).setRegion k 1 none) k 2
  have hen (f : Nat) : ((regionNoted s k 2 hot).setRegion k 1 none).portEnabled f = s.portEnabled f :=
    (portEnabled_setRegion _ k 1 none f).trans (portEnabled_of_portStep (portStep_logEvent s _ _ _ _ _) f)
  rw [heq]
  refine ⟨?_, fun j hj => ?_⟩
  · unfold regionState
    rw [hstep.therm]
    exact regionState_setRegion _ none hk (by omega)
  · rw [hports j hj, portLines_region, hen]

theorem regionFollowed_stays (h3 : regionState s k = 3) (h : ¬(regionNear s k = true ∧ hot < 1440)) : regionFollowed s k hot = s := by
  unfold regionFollowed
  rw [if_neg (by simp [h3]), if_pos h3, if_neg h]

theorem regionFollowed_warm (hk : k < 4) (hc : regionState s k = 0 ∨ regionState s k = 2) (h : hot < 1440) (hn : regionNear s k = true) :
    regionState (regionFollowed s k hot) k = 1 := by
  unfold regionFollowed
  rw [if_neg (by omega), if_neg (by omega)]
  rcases hc with hc | hc
  · rw [if_pos hc, if_pos hn]
    exact regionState_setRegion _ none hk (by omega)
  · rw [if_neg (by omega), if_pos hc, if_pos hn]
    exact regionState_setRegion _ none hk (by omega)

theorem regionFollowed_cold (hc : regionState s k = 0 ∨ regionState s k = 2) (h : hot < 1440) (hn : ¬regionNear s k = true) :
    regionFollowed s k hot = s := by
  unfold regionFollowed
  rw [if_neg (by omega), if_neg (by omega)]
  rcases hc with hc | hc
  · rw [if_pos hc, if_neg hn]
  · rw [if_neg (by omega), if_pos hc, if_neg hn]

theorem regionFollowed_far (hk : k < 4) (hc : regionState s k = 1) (h : hot < 1440) (hf : regionFar s k = true) :
    regionState (regionFollowed s k hot) k =
      match s.therm.bandSince k with | some since => if since + 1000000000 ≤ s.nowNs then 2 else 1 | none => 1 := by
  unfold regionFollowed
  rw [if_neg (by omega), if_neg (by omega), if_neg (by omega), if_neg (by omega), if_pos hf]
  by_cases hle : (s.therm.bandSince k).getD s.nowNs + 1000000000 ≤ s.nowNs
  · rw [if_pos hle, regionState_setRegion _ none hk (by omega)]
    cases hb : s.therm.bandSince k with
    | none => simp [hb] at hle
    | some since =>
      rw [hb] at hle
      exact (if_pos hle).symm
  · rw [if_neg hle, regionState_setRegion _ _ hk (by omega)]
    cases hb : s.therm.bandSince k with
    | none => rfl
    | some since =>
      rw [hb] at hle
      exact (if_neg hle).symm

theorem regionFollowed_near (hk : k < 4) (hc : regionState s k = 1) (h : hot < 1440) (hf : ¬regionFar s k = true) :
    regionState (regionFollowed s k hot) k = 1 ∧ (regionFollowed s k hot).therm.bandSince k = none := by
  have heq : regionFollowed s k hot = s.setRegion k 1 none := by
    unfold regionFollowed
    rw [if_neg (by omega), if_neg (by omega), if_neg (by omega), if_neg (by omega), if_neg hf]
  rw [heq]
  exact ⟨regionState_setRegion s none hk (by omega), bandSince_setRegion_none s k 1⟩
end

theorem execRegionHeaterControl_spec {k : LpId} {s : State} {hot : Int} (hpg : (s.rail 25).pg = true) (hr : s.power.inReset = false)
    (hhot : s.hottestOf (160 + 8 * k.val) 8 = some hot) :
    let cur := fld s.therm.ring (2 * k.val + 1) (2 * k.val)
    let l := (((List.range 8).map fun i => (SMap.get {} s.therm.sensors (160 + 8 * k.val + i) : SensorState)).filter
      SensorState.valid).map SensorState.read
    let off := (l.sum - (l.length : Int) * (s.keyN 0x0502 (2 * k.val) 2 : Nat)).natAbs
    let near := l ≠ [] ∧ 10 * off ≤ 16 * l.length
    let far := l ≠ [] ∧ 8 * l.length < off
    Answers (.regionHeaterControl k) s fun t =>
      SMap.get 0 t.therm.regionHeat k.val < 4096 ∧ (∀ j, j ≠ k.val → SMap.get 0 t.therm.regionHeat j = SMap.get 0 s.therm.regionHeat j) ∧
      MemSameButAborts s t ∧ t.settings = s.settings ∧ t.beat = s.beat ∧ t.prog = s.prog ∧
      (cur ≠ 3 → 1440 ≤ hot → fld t.therm.ring (2 * k.val + 1) (2 * k.val) = 3 ∧ ∀ j < 8, (s.port (8 * k.val + j)).state = 2 →
        (t.port (8 * k.val + j)).state = 3 ∧ (t.port (8 * k.val + j)).downs = (s.port (8 * k.val + j)).downs + 1) ∧
      (cur ≠ 3 → 1440 ≤ hot → ∀ j < 8, (s.port (8 * k.val + j)).state = 1 → (t.port (8 * k.val + j)).state = 3) ∧
      (cur = 3 → near → hot < 1440 → fld t.therm.ring (2 * k.val + 1) (2 * k.val) = 1 ∧ ∀ j < 8, PortRepeats s t (8 * k.val + j) 2) ∧
      (cur = 3 → ¬near ∨ 1440 ≤ hot → fld t.therm.ring (2 * k.val + 1) (2 * k.val) = 3) ∧
      (hot < 1440 → cur = 0 ∨ cur = 2 → near → fld t.therm.ring (2 * k.val + 1) (2 * k.val) = 1) ∧
      (hot < 1440 → cur = 0 ∨ cur = 2 → ¬near → fld t.therm.ring (2 * k.val + 1) (2 * k.val) = cur) ∧
      (hot < 1440 → cur = 1 → far → fld t.therm.ring (2 * k.val + 1) (2 * k.val) =
        match s.therm.bandSince k.val with | some since => if since + 1000000000 ≤ s.nowNs then 2 else 1 | none => 1) ∧
      (hot < 1440 → cur = 1 → ¬far → fld t.therm.ring (2 * k.val + 1) (2 * k.val) = 1 ∧ t.therm.bandSince k.val = none) := by
  intro cur l off near far
  have hk : k.val < 4 := k.isLt
  have hnear : regionNear (regionDriven s k) k = true ↔ near := regionNear_iff (regionDriven s k) k
  have hfar : regionFar (regionDriven s k) k = true ↔ far := regionFar_iff (regionDriven s k) k
  have hcur : regionState (regionDriven s k) k = cur := rfl
  have hlines : portLines (regionDriven s k) = portLines s := rfl
  have hen (f : Nat) : (regionDriven s k).portEnabled f = s.portEnabled f := rfl
  have hheat : (regionDriven s k).therm.regionHeat = SMap.set 0 s.therm.regionHeat k (s.draw.1.toNat % 4096) := rfl
  have hband : (regionDriven s k).therm.bandSince k = s.therm.bandSince k := rfl
  have hnow : (regionDriven s k).nowNs = s.nowNs := rfl
  have hframe : OnlyAborts s (regionDriven s k) := onlyAborts_of_eq rfl rfl
  have hset : (regionDriven s k).settings = s.settings := rfl
  have hbeat : (regionDriven s k).beat = s.beat := rfl
  have hprog : (regionDriven s k).prog = s.prog := rfl
  refine ⟨_, execRegionHeaterControl_follows hpg hr hhot, ?_⟩
  generalize regionDriven s k = u at *
  have hstep := regionStep_followed u k hot
  have hport {i : Nat} {t : State} {p : PortState} (h : portLines t i = p) : (t.port i).state = p.state ∧ (t.port i).downs = p.downs ∧
      (t.port i).step = p.step := by subst h; exact ⟨rfl, rfl, rfl⟩
  refine ⟨?_, fun j hj => ?_, (onlyAborts_trans hframe hstep.toOnlyAborts).mem, hstep.settings.trans hset, hstep.beat.trans hbeat,
    hstep.prog.trans hprog, fun h3 hh => ?_, fun h3 hh j hj hst => ?_, fun h3 hn hh => ?_, fun h3 hn => ?_, fun hh hc hn => ?_,
    fun hh hc hn => ?_, fun hh hc hf => ?_, fun hh hc hf => ?_⟩
  · rw [hstep.heat, hheat, get_set_same]
    exact Nat.mod_lt _ (by omega)
  · rw [hstep.heat, hheat, get_set_ne _ _ _ _ _ hj]
  · obtain ⟨hring, hports⟩ := regionFollowed_hot (s := u) hk (by rwa [hcur]) hh
    refine ⟨hring, fun j hj hst => ?_⟩
    obtain ⟨h1, h2, -⟩ := hport (hports j hj)
    have hline : (portLines u (8 * k.val + j)).state = 2 := by rw [hlines]; exact hst
    have hdowns : (portLines u (8 * k.val + j)).downs = (s.port (8 * k.val + j)).downs := by rw [hlines]; rfl
    rw [h1, h2, ← hdowns]
    simp [portHeldDown, portWentDown, hline]
  · obtain ⟨h1, -⟩ := hport ((regionFollowed_hot (s := u) hk (by rwa [hcur]) hh).2 j hj)
    have hline : (portLines u (8 * k.val + j)).state = 1 := by rw [hlines]; exact hst
    rw [h1]
    simp [portHeldDown, portWentDown, hline]
  · obtain ⟨hring, hports⟩ := regionFollowed_restart (s := u) hk (hcur.trans h3) (hnear.mpr hn) hh
    refine ⟨hring, fun j hj hena hne => ?_⟩
    obtain ⟨h1, -, h2⟩ := hport (hports j hj)
    have hline : ¬((portLines u (8 * k.val + j)).state = 0 ∨ !u.portEnabled (8 * k.val + j)) := by
      have hst : (portLines s (8 * k.val + j)).state ≠ 0 := hne
      rw [hen, hlines]
      simpa [hena] using hst
    rw [h1, h2, portRepeated, if_neg hline, hlines]
    exact ⟨rfl, rfl⟩
  · have hneither : ¬(regionNear u k = true ∧ hot < 1440) := fun h => hn.elim (fun hn => hn (hnear.mp h.1)) fun hle => absurd h.2 (by omega)
    rw [regionFollowed_stays (hcur.trans h3) hneither]
    exact hcur.trans h3
  · exact regionFollowed_warm hk (by rwa [hcur]) hh (hnear.mpr hn)
  · rw [regionFollowed_cold (by rwa [hcur]) hh (by rwa [hnear])]
    exact hcur
  · refine (regionFollowed_far hk (hcur.trans hc) hh (hfar.mpr hf)).trans ?_
    rw [hband, hnow]
  · exact regionFollowed_near hk (hcur.trans hc) hh (by rwa [hfar])

end Sys2Proof.Proofs
end

section
/-! O55. A regulator that fails on RAILBUS (R422). -/

namespace Sys2Proof.Proofs

open Sys2Proof Sys2Proof.Machine Sys2Proof.Laws

theorem lasers_dropped {s t : State} (h : t.lasers = SMap.update {} s.lasers fun _ x => { x with req := false, fellAt := none }) :
    ∀ e ∈ t.lasers, e.2.req = false := by
  intro e he
  rw [h] at he
  obtain ⟨x, hx⟩ := mem_update he
  rw [hx]

/-! ### A regulator that fails (R422) -/

/-- What a sweep leaves, and what it reads of each rail. -/
structure RailsSwept (readings : List Reading) (s t : State) : Prop where
  power : { t.power with rails := s.power.rails } = s.power
  rail : ∀ i < 25, t.rail (i + 1) = railRead readings[i]? (s.rail (i + 1))
  settings : t.settings = s.settings
  engines : t.engines = s.engines
  mem : t.mem = s.mem
  nowNs : t.nowNs = s.nowNs

theorem railsSwept_powerSampled (readings : List Reading) (s : State) : RailsSwept readings s (powerSampled readings s) := by
  have hrail := fun i (hi : i < 25) => readRails_rail s readings hi
  obtain ⟨R, hR⟩ := readRails_frame s readings
  unfold powerSampled powerBraked
  rw [hR] at hrail ⊢
  extract_lets src l
  generalize powerStepped (withRails s R) (!(withRails s R).sensed || readings.all (·.failed)) = T
  rw [brakeChanged_eq]
  generalize brakeCarried ((withRails s R).setTherm T) (withRails s R).therm.brake = B
  generalize (((withRails s R).setTherm T).noteBrake (withRails s R).therm.brake).therm = T'
  obtain ⟨hl, al, hs, as, m, heq⟩ := logPower_eq { (withRails s R).setTherm T with therm := T', beat := B } (withRails s R).therm.overLimit
    (decide ((withRails s R).limitUnits * l.length < l.sum)) (meanWatts l.sum l.length)
  rw [heq]
  exact ⟨rfl, hrail, rfl, rfl, rfl, rfl⟩

theorem failedRail_first {readings : List Reading} {s t : State} {i : Nat} {r : Reading} (h : RailsSwept readings s t) (hi : i < 25)
    (hr : readings[i]? = some r) (hf : r.failed = true) (hen : (s.rail (i + 1)).en = true) (hpg : (s.rail (i + 1)).pg = true)
    (hfirst : ∀ j < i, ∀ x, readings[j]? = some x → x.failed = false) : failedRail readings t = some i := by
  refine List.find?_range_eq_some.mpr ⟨?_, List.mem_range.mpr hi, fun j hj => ?_⟩
  · rw [h.rail i hi, hr]
    simp [railRead, hf, hen, hpg]
  · cases hx : readings[j]? with
    | none => simp
    | some x => simp [hfirst j hj x hx]

/-- What the failed regulator of rail `n` leaves. -/
structure RegulatorFailed (n : Nat) (s t : State) : Prop extends OnlyAborts s t where
  rail : t.rail n = { s.rail n with state := 3, busErr := true, faults := (s.rail n).faults + 1 }
  settings : t.settings = s.settings
  nowNs : t.nowNs = s.nowNs

theorem railEvent_failed (s : State) (n : Nat) :
    RegulatorFailed n s (s.railEvent n 0x90 2) ∧ (s.railEvent n 0x90 2).power.stage = s.power.stage := by
  obtain ⟨hl, al, hs, as, m, heq⟩ : ∃ hl al hs as m, s.railEvent n 0x90 2 =
      { s.setRail n { s.rail n with state := 3, faults := (s.rail n).faults + 1, busErr := true } with
        hubLog := hl, aoLog := al, hubSeq := hs, aoSeq := as, mbs := m } := log_eq _ _ _ _ _ _ _
  rw [heq]
  exact ⟨⟨onlyAborts_of_eq rfl rfl, get_set_same _ _ _ _, rfl, rfl⟩, rfl⟩

/-- The power-down begins: no laser is requested, group 11 goes first, under a Hub service hold (R425). -/
theorem beginPowerDown_powersDown (s : State) : PowersDown s s.beginPowerDown := ⟨lasers_dropped rfl, rfl, rfl, rfl⟩

theorem beginPowerDown_stage (s : State) : s.beginPowerDown.power.stage = s.power.stage := rfl

theorem regulatorFailed_beginPowerDown {n : Nat} {s t : State} (h : RegulatorFailed n s t) : RegulatorFailed n s t.beginPowerDown where
  toOnlyAborts := onlyAborts_trans h.toOnlyAborts (onlyAborts_of_eq rfl rfl)
  rail := h.rail
  settings := h.settings
  nowNs := h.nowNs

theorem regulatorFailed_shutDown {n : Nat} {s t : State} (h : RegulatorFailed n s t) : RegulatorFailed n s t.shutDown where
  toOnlyAborts := onlyAborts_trans h.toOnlyAborts (onlyAborts_of_eq rfl rfl)
  rail := h.rail
  settings := h.settings
  nowNs := h.nowNs

theorem shutDown_stage (s : State) : s.shutDown.power.stage = 4 := rfl

theorem shutDown_powersDown (s : State) : PowersDown s s.shutDown := ⟨lasers_dropped (s := s) rfl, rfl, rfl, rfl⟩

theorem powersDown_of_now {s t u : State} (h : PowersDown t u) (hnow : t.nowNs = s.nowNs) : PowersDown s u := by
  unfold PowersDown at h ⊢
  rwa [← hnow]

theorem busFailed_spec (s : State) (n : Nat) :
    RegulatorFailed n s (s.busFailed n) ∧ PowersDown s (s.busFailed n) ∧ (s.busFailed n).power.stage = 4 := by
  unfold State.busFailed
  obtain ⟨h, -⟩ := railEvent_failed s n
  exact ⟨regulatorFailed_shutDown h, powersDown_of_now (shutDown_powersDown _) h.nowNs, shutDown_stage _⟩

/-- A truing fault stands. -/
def truingFaulted (s : State) : State := { s with power := { s.power with truingFault := true } }

/-- No laser is requested. -/
def lasersOff (s : State) : State := { s with lasers := SMap.update {} s.lasers fun _ x => { x with req := false, fellAt := none } }

theorem truingFailed_eq (s : State) (step cause : Nat) : s.truingFailed step cause =
    forAll 32 (lasersOff ((truingFaulted s).logEvent 0x93 10 0xFF 0 (step + 2 ^ 8 * cause))) fun s f => s.disablePort f := rfl

theorem disablePorts_portStep (s : State) : PortStep s (forAll 32 s fun s f => s.disablePort f) :=
  portStep_foldl (fun u f => portStep_disablePort u f) _ s

/-- What a truing fault leaves. -/
structure TruingFailureLeft (s t : State) : Prop extends OnlyAborts s t where
  power : t.power = { s.power with truingFault := true }
  beat : t.beat = s.beat
  settings : t.settings = s.settings

theorem truingFailed_trans {s t u : State} (h : TruingFailureLeft s t) (k : PortStep t u) : TruingFailureLeft s u :=
  ⟨onlyAborts_trans h.toOnlyAborts k.toOnlyAborts, k.power.trans h.power, k.beat.trans h.beat, k.settings.trans h.settings⟩

theorem truingFailed_faulted (s : State) : TruingFailureLeft s (truingFaulted s) := ⟨onlyAborts_of_eq rfl rfl, rfl, rfl, rfl⟩

theorem truingFailed_lasersOff {s t : State} (h : TruingFailureLeft s t) : TruingFailureLeft s (lasersOff t) :=
  ⟨onlyAborts_trans h.toOnlyAborts (onlyAborts_of_eq rfl rfl), h.power, h.beat, h.settings⟩

/-- A truing fault stands, no laser is requested, and every port is dark (R433). -/
theorem truingFailed_spec (s : State) (step cause : Nat) :
    TruingFailureLeft s (s.truingFailed step cause) ∧ ∀ e ∈ (s.truingFailed step cause).lasers, e.2.req = false := by
  rw [truingFailed_eq]
  have hlog := truingFailed_trans (truingFailed_faulted s) (portStep_logEvent (truingFaulted s) 0x93 10 0xFF 0 (step + 2 ^ 8 * cause))
  generalize (truingFaulted s).logEvent 0x93 10 0xFF 0 (step + 2 ^ 8 * cause) = u at hlog ⊢
  have hoff := truingFailed_lasersOff hlog
  have hlasers : ∀ e ∈ (lasersOff u).lasers, e.2.req = false := lasers_dropped (s := u) rfl
  generalize lasersOff u = v at hoff hlasers ⊢
  have hports := disablePorts_portStep v
  exact ⟨truingFailed_trans hoff hports, by rw [hports.lasers]; exact hlasers⟩

theorem truingFailed_nowNs (s : State) (step cause : Nat) : (s.truingFailed step cause).nowNs = s.nowNs := (keeps_truingFailed s step cause).2.1

theorem railFailed_spec (s : State) (n : Nat) : RegulatorFailed n s (s.railFailed n 2) ∧ PowersDown s (s.railFailed n 2) ∧
    (s.railFailed n 2).power.truingFault = true ∧ (s.railFailed n 2).power.stage = s.power.stage := by
  unfold State.railFailed
  obtain ⟨h, hstage⟩ := railEvent_failed s n
  have hbegun := regulatorFailed_beginPowerDown h
  obtain ⟨-, hgroup, hup, hhold⟩ := powersDown_of_now (beginPowerDown_powersDown _) h.nowNs
  have hstage' := (beginPowerDown_stage (s.railEvent n 0x90 2)).trans hstage
  generalize (s.railEvent n 0x90 2).beginPowerDown = w at hbegun hgroup hup hhold hstage' ⊢
  obtain ⟨⟨haborts, hpower, hbeat, hset⟩, hlasers⟩ := truingFailed_spec w 2 2
  have hnow := truingFailed_nowNs w 2 2
  generalize w.truingFailed 2 2 = t at haborts hpower hbeat hset hlasers hnow ⊢
  have hrail : t.rail n = w.rail n := by
    unfold State.rail
    rw [hpower]
  refine ⟨⟨onlyAborts_trans hbegun.toOnlyAborts haborts, hrail.trans hbegun.rail, hset.trans hbegun.settings, hnow.trans hbegun.nowNs⟩,
    ⟨hlasers, ?_, ?_, ?_⟩, ?_, ?_⟩
  · rw [hpower]
    exact hgroup
  · rw [hpower]
    exact hup
  · rw [hbeat]
    exact hhold
  · rw [hpower]
  · rw [hpower]
    exact hstage'

theorem powering_of_swept {readings : List Reading} {s t : State} (h : RailsSwept readings s t) : t.powering = s.powering := by
  obtain ⟨hp, -, -, -, -, -⟩ := h
  unfold State.powering
  rw [← hp]

theorem powering_stage {s : State} (h : s.powering = true) : s.power.stage = 2 := by
  unfold State.powering at h
  simp only [Bool.and_eq_true, beq_iff_eq] at h
  exact h.1.1.1.1

/-- Where the package stands when the regulator of rail `n` has failed (R422, Table 15.8). -/
def regulatorFailure (n : Nat) (s t : State) : Prop :=
  t.rail n = { s.rail n with state := 3, busErr := true, faults := (s.rail n).faults + 1 } ∧ PowersDown s t ∧
    (s.powering = true → t.power.truingFault = true ∧ t.power.stage = 2) ∧ (s.powering = false → t.power.stage = 4) ∧
    MemSameButAborts s t ∧ t.settings = s.settings

theorem execPowerSample_fails {readings : List Reading} {s : State} {i : Nat} {r : Reading} (hv : s.power.vaoGood = true)
    (hr : s.power.inReset = false) (hs1 : s.power.stage ≠ 1) (hs4 : s.power.stage ≠ 4) (hdown : s.power.downGroup = none) (hi : i < 25)
    (hread : readings[i]? = some r) (hf : r.failed = true) (hen : (s.rail (i + 1)).en = true) (hpg : (s.rail (i + 1)).pg = true)
    (hfirst : ∀ j < i, ∀ x, readings[j]? = some x → x.failed = false) : Answers (.powerSample readings) s (regulatorFailure (i + 1) s) := by
  have hswept := railsSwept_powerSampled readings s
  have hfound := failedRail_first hswept hi hread hf hen hpg hfirst
  have hexec := execPowerSample_sweeps readings hv hr hs1
  rw [hfound] at hexec
  refine ⟨_, hexec, ?_⟩
  show regulatorFailure (i + 1) s (regulatorLost (powerSampled readings s) (i + 1))
  generalize powerSampled readings s = u at hswept ⊢
  have hgroup : u.power.downGroup = none := (congrArg PowerState.downGroup hswept.power :).trans hdown
  have hstage : u.power.stage = s.power.stage := (congrArg PowerState.stage hswept.power :)
  have hpowering := powering_of_swept hswept
  have hsame : OnlyAborts s u := onlyAborts_of_eq hswept.engines hswept.mem
  have hrail : u.rail (i + 1) = { s.rail (i + 1) with busErr := true } := by
    rw [hswept.rail i hi, hread]
    exact if_pos hf
  have hruns : ¬(u.power.downGroup.isSome = true ∨ u.power.stage = 4) := by
    rw [hgroup, hstage]
    exact fun h => h.elim (fun h => by cases h) hs4
  have finish {t : State} (h : RegulatorFailed (i + 1) u t) (hd : PowersDown u t)
      (hup : s.powering = true → t.power.truingFault = true ∧ t.power.stage = 2) (hnot : s.powering = false → t.power.stage = 4) :
      regulatorFailure (i + 1) s t :=
    ⟨by rw [h.rail, hrail], powersDown_of_now hd hswept.nowNs, hup, hnot, (onlyAborts_trans hsame h.toOnlyAborts).mem,
      h.settings.trans hswept.settings⟩
  unfold regulatorLost
  rw [if_neg hruns]
  by_cases hp : u.powering = true
  · rw [if_pos hp]
    obtain ⟨h, hd, htf, hst⟩ := railFailed_spec u (i + 1)
    exact finish h hd (fun _ => ⟨htf, hst.trans (powering_stage hp)⟩) fun hn => by rw [← hpowering, hp] at hn; cases hn
  · rw [if_neg hp]
    obtain ⟨h, hd, hst⟩ := busFailed_spec u (i + 1)
    exact finish h hd (fun hn => absurd (hpowering.trans hn) hp) fun _ => hst

end Sys2Proof.Proofs
end

section
/-! O55. The orderly stop (R222), and what the limit of a part keeps and brings (R220-R223, R455-R458). -/

namespace Sys2Proof.Proofs

open Sys2Proof Sys2Proof.Machine Sys2Proof.Laws

/-! ### The orderly stop (R222) -/

theorem stopQuiet_completeStart (s : State) (status res : Nat) : StopQuiet s (s.completeStart status res) := by
  unfold State.completeStart
  split
  · exact stopQuiet_completeCmd s _ _ _ _ _ _
  · exact stopQuiet_refl s

/-- The start that waits is given up. -/
def startGivenUp (s : State) : State :=
  if s.prog.startAt.isSome then { s with prog := { s.prog with startAt := none } }.completeStart stAborted 0 else s

/-- What giving up a start and asking channels to stop leave. -/
structure StopPrepared (s t : State) : Prop where
  plant : plantOf t = plantOf s
  quiet : StopQuiet { s with prog := t.prog } t
  running : t.prog.running = s.prog.running

theorem startGivenUp_prepared (s : State) : StopPrepared s (startGivenUp s) := by
  unfold startGivenUp
  split
  · have h := stopQuiet_completeStart { s with prog := { s.prog with startAt := none } } stAborted 0
    have hplant := plant_completeStart { s with prog := { s.prog with startAt := none } } stAborted 0
    generalize State.completeStart { s with prog := { s.prog with startAt := none } } stAborted 0 = t at h hplant ⊢
    refine ⟨hplant, ?_, (congrArg ProgramState.running h.prog :)⟩
    rw [h.prog]
    exact h
  · exact ⟨rfl, stopQuiet_refl s, rfl⟩

/-- The start that waits is given up, and every busy channel is asked to stop. -/
def stopsRequested (s : State) : State := (startGivenUp s).channels.foldl (fun s e => if e.2.busy then s.requestStop e.1 else s) (startGivenUp s)

theorem stopsRequested_prepared (s : State) : StopPrepared s (stopsRequested s) := by
  unfold stopsRequested
  obtain ⟨hplant, hquiet, hrun⟩ := startGivenUp_prepared s
  generalize startGivenUp s = u at hplant hquiet hrun ⊢
  have hstops : StopQuiet u (u.channels.foldl (fun s e => if e.2.busy then s.requestStop e.1 else s) u) := by
    refine stopQuiet_foldl (fun v e => ?_) _ u
    split
    · exact stopQuiet_requestStop v _
    · exact stopQuiet_refl v
  have hkept : plantOf (u.channels.foldl (fun s e => if e.2.busy then s.requestStop e.1 else s) u) = plantOf u := by
    refine foldl_kept plantOf (fun v e => ?_) _ u
    split
    · exact plant_requestStop v _
    · rfl
  refine ⟨hkept.trans hplant, ?_, (congrArg ProgramState.running hstops.prog).trans hrun⟩
  rw [hstops.prog]
  exact stopQuiet_trans hquiet hstops

/-- Thermal values with the stop as another state's have it. -/
def stopCauses (t x : ThermState) : ThermState := { x with stopVault := t.stopVault, stopLogic := t.stopLogic, stopping := t.stopping }

/-- What an orderly stop keeps. -/
structure StopKept (s t : State) : Prop extends OnlyAborts s t where
  settings : t.settings = s.settings
  pending : t.pending = s.pending
  nowNs : t.nowNs = s.nowNs
  power : t.power = s.power
  lasers : t.lasers = s.lasers
  dieMem : t.dieMem = s.dieMem
  therm : { t.therm with stopVault := s.therm.stopVault, stopLogic := s.therm.stopLogic, stopping := s.therm.stopping } = s.therm
  beat : { t.beat with waits := s.beat.waits, hubDemand := s.beat.hubDemand } = s.beat

/-- Steps 2 and 3 of the stop: nothing runs. -/
structure StoppedNow (s t : State) : Prop extends StopKept s t where
  running : t.prog.running = false
  stopVault : t.therm.stopVault = s.therm.stopVault

theorem stoppedNow_of {s u : State} (habort : OnlyAborts s u) (hset : u.settings = s.settings) (hpend : u.pending = s.pending)
    (hplant : plantOf u = plantOf s) (hbeat : { u.beat with waits := s.beat.waits, hubDemand := s.beat.hubDemand } = s.beat)
    (hrun : u.prog.running = false) : StoppedNow s (u.setTherm { u.therm with stopping := false }) where
  toOnlyAborts := onlyAborts_trans habort (onlyAborts_of_eq rfl rfl)
  settings := hset
  pending := hpend
  nowNs := (plant_nowNs hplant :)
  power := (plant_power hplant :)
  lasers := (plant_lasers hplant :)
  dieMem := (plant_dieMem hplant :)
  therm := (congrArg (stopCauses s.therm)
    (plant_therm hplant) :)
  beat := hbeat
  running := hrun
  stopVault := (congrArg ThermState.stopVault (plant_therm hplant) :)

theorem stopIdle_stopped {s : State} (h : s.prog.running = false) :
    StoppedNow s (s.stopIdle.setTherm { s.stopIdle.therm with stopping := false }) := by
  have hkeeps := (abortAll_spec s 8).1
  have habort := onlyAborts_abortAll s 8
  have hplant := plant_abortAll s 8
  unfold State.stopIdle
  generalize s.abortAll 8 = u at hkeeps habort hplant ⊢
  have hbeat : { (u.setBeat { u.beat with hubDemand := false }).beat with waits := s.beat.waits, hubDemand := s.beat.hubDemand } = s.beat := by
    rw [← hkeeps.beat]
    rfl
  exact stoppedNow_of (u := u.setBeat { u.beat with hubDemand := false }) (onlyAborts_trans habort (onlyAborts_of_eq rfl rfl)) hkeeps.settings
    hkeeps.pending hplant hbeat ((congrArg ProgramState.running hkeeps.prog).trans h)

theorem stopNow_spec (s : State) : StoppedNow s s.stopNow := by
  unfold State.stopNow
  by_cases hrun : s.prog.running = true
  · rw [if_pos hrun]
    have h := programStopped_spec s
    exact stoppedNow_of (onlyAborts_programStopped s) h.settings h.pending (plant_programStopped s) (by rw [h.beat]) (by rw [h.prog])
  · rw [if_neg hrun]
    exact stopIdle_stopped (by simpa using hrun)

/-- The stop is asked for: at once if the beat may stop now, else under a Hub service hold. -/
structure StopOrdered (logic : Bool) (s t : State) : Prop extends StopKept s t where
  stopVault : t.therm.stopVault = (s.therm.stopVault || !logic)
  running : s.prog.running = false → t.prog.running = false
  held : s.stopReady = false → t.beat.hubDemand = true ∧ t.therm.stopping = true
  stopped : s.stopReady = true → t.prog.running = false

/-- The stop stands: its cause and its request, in a state's thermal values. -/
def stopAsked (s : State) (logic : Bool) : State :=
  s.setTherm { s.therm with stopVault := s.therm.stopVault || !logic, stopLogic := s.therm.stopLogic || logic, stopping := true }

theorem orderlyStop_eq (s : State) (logic : Bool) : s.orderlyStop logic =
    if (stopsRequested (stopAsked s logic)).stopReady then (stopsRequested (stopAsked s logic)).stopNow
    else (stopsRequested (stopAsked s logic)).setBeat { (stopsRequested (stopAsked s logic)).beat with hubDemand := true } := rfl

theorem orderlyStop_spec (s : State) (logic : Bool) : StopOrdered logic s (s.orderlyStop logic) := by
  rw [orderlyStop_eq]
  obtain ⟨hplant, hquiet, hrun⟩ := stopsRequested_prepared (stopAsked s logic)
  generalize stopsRequested (stopAsked s logic) = v at hplant hquiet hrun ⊢
  have habort : OnlyAborts s v := onlyAborts_of_eq (hquiet.engines :) (hquiet.mem :)
  have hbeat : v.beat = s.beat := (hquiet.beat :)
  have hset : v.settings = s.settings := (hquiet.settings :)
  have hpend : v.pending = s.pending := (hquiet.pending :)
  have hprog : v.prog.running = s.prog.running := hrun
  have hnow : v.nowNs = s.nowNs := (plant_nowNs hplant :)
  have hpower : v.power = s.power := (plant_power hplant :)
  have hlasers : v.lasers = s.lasers := (plant_lasers hplant :)
  have hdie : v.dieMem = s.dieMem := (plant_dieMem hplant :)
  have hth := plant_therm hplant
  have htherm : { v.therm with stopVault := s.therm.stopVault, stopLogic := s.therm.stopLogic, stopping := s.therm.stopping } = s.therm := by
    rw [hth]
    rfl
  have hvault : v.therm.stopVault = (s.therm.stopVault || !logic) := (congrArg ThermState.stopVault hth :)
  have hstopping : v.therm.stopping = true := (congrArg ThermState.stopping hth :)
  have hready : v.stopReady = s.stopReady := by
    unfold State.stopReady
    rw [hbeat]
  rw [hready]
  by_cases hr : s.stopReady = true
  · rw [if_pos hr]
    have h := stopNow_spec v
    have hstill : { v.stopNow.therm with
        stopVault := s.therm.stopVault, stopLogic := s.therm.stopLogic, stopping := s.therm.stopping } = s.therm := by
      rw [← htherm]
      exact (congrArg (stopCauses s.therm)
        h.therm :)
    exact {
      toOnlyAborts := onlyAborts_trans habort h.toOnlyAborts
      settings := h.settings.trans hset
      pending := h.pending.trans hpend
      nowNs := h.nowNs.trans hnow
      power := h.power.trans hpower
      lasers := h.lasers.trans hlasers
      dieMem := h.dieMem.trans hdie
      therm := hstill
      beat := by
        have hb := h.beat
        rwa [hbeat] at hb
      stopVault := h.stopVault.trans hvault
      running := fun _ => h.running
      held := fun hn => by rw [hn] at hr; cases hr
      stopped := fun _ => h.running }
  · rw [if_neg hr]
    exact {
      toOnlyAborts := onlyAborts_trans habort (onlyAborts_of_eq rfl rfl)
      settings := hset
      pending := hpend
      nowNs := hnow
      power := hpower
      lasers := hlasers
      dieMem := hdie
      therm := htherm
      beat := by rw [← hbeat]; rfl
      stopVault := hvault
      running := fun hn => hprog.trans hn
      held := fun _ => ⟨rfl, hstopping⟩
      stopped := fun hn => absurd hn hr }

/-- The package powers down as of now, and no laser is requested. -/
def DownSince (s : State) : Prop := s.power.stage = 4 ∧ s.power.downGroup = some (10, s.nowNs) ∧ ∀ e ∈ s.lasers, e.2.req = false

/-- An orderly stop waits for its Hub service hold. -/
def StopHeld (s : State) : Prop := s.beat.hubDemand = true ∧ s.therm.stopping = true

/-- What the limit of a part leaves: the vaults of the dies in `vs` and the logic of those in `ls`, and whatever another limit has brought. -/
structure LimitStep (vs ls : Nat → Prop) (s t : State) : Prop extends OnlyAborts s t where
  settings : t.settings = s.settings
  pending : t.pending = s.pending
  nowNs : t.nowNs = s.nowNs
  nPower : t.therm.nPower = s.therm.nPower
  nThermal : t.therm.nThermal = s.therm.nThermal
  sensors : t.therm.sensors = s.therm.sensors
  ready : t.stopReady = s.stopReady
  stopVault : s.therm.stopVault = true → t.therm.stopVault = true
  held : s.stopReady = false → StopHeld s → StopHeld t
  running : s.prog.running = false → t.prog.running = false
  down : DownSince s → DownSince t
  vaults : ∀ d, vs d → (t.dmem d).temp = (s.dmem d).temp ∧ (t.dmem d).tstate = (s.dmem d).tstate
  logic : ∀ d, ls d → fld t.therm.logic (2 * d + 1) (2 * d) = fld s.therm.logic (2 * d + 1) (2 * d)

section
variable {vs ls : Nat → Prop} {s t u : State}

theorem limitStep_refl (s : State) : LimitStep vs ls s s :=
  ⟨onlyAborts_refl s, rfl, rfl, rfl, rfl, rfl, rfl, rfl, id, fun _ h => h, id, id, fun _ _ => ⟨rfl, rfl⟩, fun _ _ => rfl⟩

theorem limitStep_trans (h : LimitStep vs ls s t) (k : LimitStep vs ls t u) : LimitStep vs ls s u where
  toOnlyAborts := onlyAborts_trans h.toOnlyAborts k.toOnlyAborts
  settings := k.settings.trans h.settings
  pending := k.pending.trans h.pending
  nowNs := k.nowNs.trans h.nowNs
  nPower := k.nPower.trans h.nPower
  nThermal := k.nThermal.trans h.nThermal
  sensors := k.sensors.trans h.sensors
  ready := k.ready.trans h.ready
  stopVault hs := k.stopVault (h.stopVault hs)
  held hr hs := k.held (h.ready.trans hr) (h.held hr hs)
  running hs := k.running (h.running hs)
  down hs := k.down (h.down hs)
  vaults d hd := ⟨(k.vaults d hd).1.trans (h.vaults d hd).1, (k.vaults d hd).2.trans (h.vaults d hd).2⟩
  logic d hd := (k.logic d hd).trans (h.logic d hd)

theorem limitStep_foldl {f : State → Nat → State} (l : List Nat) (hf : ∀ i ∈ l, ∀ u, LimitStep vs ls u (f u i)) (s : State) :
    LimitStep vs ls s (l.foldl f s) := by
  induction l generalizing s with
  | nil => exact limitStep_refl s
  | cons i l ih => exact limitStep_trans (hf i (by simp) s) (ih (fun j hj => hf j (by simp [hj])) (f s i))

theorem limitStep_log (s : State) (cls code unitKind die unit detail : Nat) : LimitStep vs ls s (s.log cls code unitKind die unit detail) := by
  obtain ⟨hl, al, hs, as, m, h⟩ := log_eq s cls code unitKind die unit detail
  rw [h]
  exact ⟨onlyAborts_of_eq rfl rfl, rfl, rfl, rfl, rfl, rfl, rfl, rfl, id, fun _ h => h, id, id, fun _ _ => ⟨rfl, rfl⟩, fun _ _ => rfl⟩

theorem limitStep_setStk (s : State) (k : Nat) (a : StackState) : LimitStep vs ls s (s.setStk k a) :=
  ⟨onlyAborts_of_eq rfl rfl, rfl, rfl, rfl, rfl, rfl, rfl, rfl, id, fun _ h => h, id, id, fun _ _ => ⟨rfl, rfl⟩, fun _ _ => rfl⟩

theorem limitStep_setEcc (s : State) (e : SMap EccMark) : LimitStep vs ls s (s.setEcc e) :=
  ⟨onlyAborts_of_eq rfl rfl, rfl, rfl, rfl, rfl, rfl, rfl, rfl, id, fun _ h => h, id, id, fun _ _ => ⟨rfl, rfl⟩, fun _ _ => rfl⟩

theorem limitStep_thermistor (s : State) (w : BitVec 16) : LimitStep vs ls s (s.setTherm { s.therm with thermistor := w }) :=
  ⟨onlyAborts_of_eq rfl rfl, rfl, rfl, rfl, rfl, rfl, rfl, rfl, id, fun _ h => h, id, id, fun _ _ => ⟨rfl, rfl⟩, fun _ _ => rfl⟩

theorem limitStep_setDmem (s : State) (d : Nat) (m : DieMem)
    (h : vs d → m.temp = (s.dmem d).temp ∧ m.tstate = (s.dmem d).tstate) : LimitStep vs ls s (s.setDmem d m) := by
  refine ⟨onlyAborts_of_eq rfl rfl, rfl, rfl, rfl, rfl, rfl, rfl, rfl, id, fun _ h => h, id, id, fun e he => ?_, fun _ _ => rfl⟩
  rw [setDmem_dmem]
  by_cases hed : e = d
  · subst hed
    rw [if_pos rfl]
    exact h he
  · rw [if_neg hed]
    exact ⟨rfl, rfl⟩

theorem limitStep_logic (s : State) {d n : Nat} (hd : d < 8) (hn : n < 4) (h : ¬ls d) :
    LimitStep vs ls s (s.setTherm { s.therm with logic := setFld s.therm.logic (2 * d + 1) (2 * d) n }) := by
  refine ⟨onlyAborts_of_eq rfl rfl, rfl, rfl, rfl, rfl, rfl, rfl, rfl, id, fun _ h => h, id, id, fun _ _ => ⟨rfl, rfl⟩, fun e he => ?_⟩
  have hed : e ≠ d := fun hed => h (hed ▸ he)
  exact (fld_setFld_pair _ e (by omega) hn).trans (if_neg hed)

theorem limitStep_stopOrdered {logic : Bool} (h : StopOrdered logic s t) : LimitStep vs ls s t where
  toOnlyAborts := h.toOnlyAborts
  settings := h.settings
  pending := h.pending
  nowNs := h.nowNs
  nPower := (congrArg ThermState.nPower h.therm :)
  nThermal := (congrArg ThermState.nThermal h.therm :)
  sensors := (congrArg ThermState.sensors h.therm :)
  ready := (congrArg (fun b : BeatState => !b.aligned || (b.held && b.causeHub)) h.beat :)
  stopVault hs := by rw [h.stopVault, hs]; rfl
  held hr _ := h.held hr
  running := h.running
  down hs := by
    unfold DownSince
    rw [h.power, h.lasers, h.nowNs]
    exact hs
  vaults d _ := by
    unfold State.dmem
    rw [h.dieMem]
    exact ⟨rfl, rfl⟩
  logic d _ := by rw [(congrArg ThermState.logic h.therm :)]

theorem limitStep_orderlyStop (s : State) (logic : Bool) : LimitStep vs ls s (s.orderlyStop logic) :=
  limitStep_stopOrdered (orderlyStop_spec s logic)

theorem downSince_shutDown (s : State) : DownSince s.shutDown := ⟨rfl, rfl, lasers_dropped (s := s) rfl⟩

theorem limitStep_shutDown (s : State) : LimitStep vs ls s s.shutDown where
  toOnlyAborts := onlyAborts_of_eq rfl rfl
  settings := rfl
  pending := rfl
  nowNs := rfl
  nPower := rfl
  nThermal := rfl
  sensors := rfl
  ready := rfl
  stopVault := id
  held _ hs := ⟨rfl, hs.2⟩
  running := id
  down _ := downSince_shutDown s
  vaults _ _ := ⟨rfl, rfl⟩
  logic _ _ := rfl

theorem limitStep_logThrottle (s : State) (source idx thr old new : Nat) (v : Int) :
    LimitStep vs ls s (s.logThrottle source idx thr old new v) := by
  unfold State.logThrottle
  split
  · exact limitStep_log s _ _ _ _ _ _
  split
  · exact limitStep_log s _ _ _ _ _ _
  · exact limitStep_refl s

theorem limitStep_loseVaults (s : State) (d : Nat) : LimitStep vs ls s (s.loseVaults d) :=
  limitStep_trans (limitStep_setEcc s _) (limitStep_setDmem _ d _ fun _ => ⟨rfl, rfl⟩)

/-- A part that comes to its stop state is recorded, and an orderly stop follows. -/
theorem limitStep_stops (s : State) (p : Prop) [Decidable p] (cls code unitKind die unit detail : Nat) (logic : Bool) :
    LimitStep vs ls s (if p then (s.log cls code unitKind die unit detail).orderlyStop logic else s) := by
  split
  · exact limitStep_trans (limitStep_log s _ _ _ _ _ _) (limitStep_orderlyStop _ logic)
  · exact limitStep_refl s

theorem limitStep_limitStack (s : State) (k : Nat) : LimitStep vs ls s (s.limitStack k) := by
  unfold State.limitStack
  split
  · exact limitStep_refl s
  · exact limitStep_trans (limitStep_trans (limitStep_setStk s k _) (limitStep_logThrottle _ _ _ _ _ _ _)) (limitStep_stops _ _ _ _ _ _ _ _ _)

theorem limitStep_limitThermistor (s : State) (n : Nat) : LimitStep vs ls s (s.limitThermistor n) := by
  unfold State.limitThermistor
  extract_lets entry stop
  split
  · exact limitStep_refl s
  · exact limitStep_trans (limitStep_trans (limitStep_thermistor s _) (limitStep_logThrottle _ _ _ _ _ _ _)) (limitStep_stops _ _ _ _ _ _ _ _ _)
end

/-! ### Vaults (R220-R223) -/

/-- The vaults of a die as a sample leaves them, before what follows from their state. -/
def vaultRead (s : State) (d : Nat) (v : Int) (new : Nat) : State :=
  (s.setDmem d { s.dmem d with temp := BitVec.ofInt 16 v, tstate := BitVec.ofNat 3 new }).setRefresh d (BitVec.ofNat 2 (min new 2))

/-- The stop that vaults ask for, with its record (R222). -/
def vaultStopped (s : State) (d old new : Nat) (v : Int) : State :=
  if old < 3 ∧ 3 ≤ new then (s.log 2 0x43 8 d 0 (reading16 v)).orderlyStop false else s

theorem limitVault_eq {s : State} {d : Nat} {v : Int} (h : s.hottestOf (128 + 4 * d) 4 = some v) (cold : Bool) {new : Nat}
    (hnew : vaultNext (s.dmem d).tstate.toNat v s.vaultEntry cold = new) : s.limitVault cold d =
      let s3 := vaultStopped ((vaultRead s d v new).logThrottle 1 d 2 (s.dmem d).tstate.toNat new v) d (s.dmem d).tstate.toNat new v
      if (s.dmem d).tstate.toNat < 4 ∧ new = 4 then (s3.log 2 0x44 8 d 0 (reading16 v)).loseVaults d else s3 := by
  subst hnew
  unfold State.limitVault
  rw [h]
  rfl

section
variable {vs ls : Nat → Prop} {s : State} {d : Nat} {v : Int}

theorem limitStep_vaultRead (s : State) (v : Int) (new : Nat) (h : ¬vs d) : LimitStep vs ls s (vaultRead s d v new) :=
  limitStep_trans (limitStep_setDmem s d _ fun hd => absurd hd h) (limitStep_setDmem _ d _ fun _ => ⟨rfl, rfl⟩)

theorem limitStep_vaultStopped (s : State) (d old new : Nat) (v : Int) : LimitStep vs ls s (vaultStopped s d old new v) :=
  limitStep_stops s _ _ _ _ _ _ _ _

theorem limitStep_vaultLost (s : State) (p : Prop) [Decidable p] (d : Nat) (v : Int) :
    LimitStep vs ls s (if p then (s.log 2 0x44 8 d 0 (reading16 v)).loseVaults d else s) := by
  split
  · exact limitStep_trans (limitStep_log s _ _ _ _ _ _) (limitStep_loseVaults _ d)
  · exact limitStep_refl s

theorem limitVault_after (h : s.hottestOf (128 + 4 * d) 4 = some v) (cold : Bool) :
    LimitStep vs ls (vaultRead s d v (vaultNext (s.dmem d).tstate.toNat v s.vaultEntry cold)) (s.limitVault cold d) := by
  rw [limitVault_eq h cold rfl]
  exact limitStep_trans (limitStep_logThrottle _ _ _ _ _ _ _) (limitStep_trans (limitStep_vaultStopped _ _ _ _ _) (limitStep_vaultLost _ _ _ _))

theorem limitStep_limitVault (s : State) (cold : Bool) (hd : ¬vs d) : LimitStep vs ls s (s.limitVault cold d) := by
  cases h : s.hottestOf (128 + 4 * d) 4 with
  | none =>
    unfold State.limitVault
    rw [h]
    exact limitStep_refl s
  | some v => exact limitStep_trans (limitStep_vaultRead s v _ hd) (limitVault_after h cold)

theorem setRefresh_vault (s : State) (d : Nat) (code : BitVec 2) :
    ((s.setRefresh d code).dmem d).temp = (s.dmem d).temp ∧ ((s.setRefresh d code).dmem d).tstate = (s.dmem d).tstate :=
  ⟨(congrArg DieMem.temp (setDmem_dmem_same s d _) :), (congrArg DieMem.tstate (setDmem_dmem_same s d _) :)⟩

theorem limitVault_reads (h : s.hottestOf (128 + 4 * d) 4 = some v) (cold : Bool) :
    ((s.limitVault cold d).dmem d).temp = BitVec.ofInt 16 v ∧
      ((s.limitVault cold d).dmem d).tstate = BitVec.ofNat 3 (vaultNext (s.dmem d).tstate.toNat v s.vaultEntry cold) := by
  obtain ⟨h1, h2⟩ := (limitVault_after (vs := fun _ => True) (ls := fun _ => True) h cold).vaults d trivial
  have hread (new : Nat) : ((vaultRead s d v new).dmem d).temp = BitVec.ofInt 16 v ∧
      ((vaultRead s d v new).dmem d).tstate = BitVec.ofNat 3 new := by
    obtain ⟨h3, h4⟩ := setRefresh_vault (s.setDmem d { s.dmem d with temp := BitVec.ofInt 16 v, tstate := BitVec.ofNat 3 new }) d
      (BitVec.ofNat 2 (min new 2))
    rw [setDmem_dmem_same] at h3 h4
    exact ⟨h3, h4⟩
  exact ⟨h1.trans (hread _).1, h2.trans (hread _).2⟩

theorem vaultNext_stops {cur : Nat} {v : Int} (entry : Int) (cold : Bool) (hcur : cur < 3) (hv : 1680 ≤ v) : 3 ≤ vaultNext cur v entry cold := by
  unfold vaultNext
  extract_lets up fall
  have hup : 3 ≤ up := by
    unfold up
    by_cases h : 1760 ≤ v
    · rw [if_pos h]
      omega
    · rw [if_neg h, if_pos hv]
  rw [if_neg (by omega), if_pos (by omega)]
  exact hup

/-- The orderly stop that vaults ask for stands, or has come to its end. -/
structure StopTaken (s t : State) : Prop where
  stopVault : t.therm.stopVault = true
  held : s.stopReady = false → StopHeld t
  stopped : s.stopReady = true → t.prog.running = false

theorem stopTaken_before {s t u : State} (hr : t.stopReady = s.stopReady) (h : StopTaken t u) : StopTaken s u :=
  ⟨h.stopVault, fun h0 => h.held (hr.trans h0), fun h0 => h.stopped (hr.trans h0)⟩

theorem stopTaken_after {s t u : State} (h : StopTaken s t) (hr : t.stopReady = s.stopReady) (k : LimitStep vs ls t u) : StopTaken s u :=
  ⟨k.stopVault h.stopVault, fun h0 => k.held (hr.trans h0) (h.held h0), fun h0 => k.running (h.stopped h0)⟩

theorem stopTaken_orderlyStop (s : State) : StopTaken s (s.orderlyStop false) := by
  have h := orderlyStop_spec s false
  exact ⟨by rw [h.stopVault]; simp, h.held, h.stopped⟩

theorem limitVault_stops (h : s.hottestOf (128 + 4 * d) 4 = some v) (cold : Bool) (hv : 1680 ≤ v) (ht : (s.dmem d).tstate.toNat < 3) :
    StopTaken s (s.limitVault cold d) := by
  have hnew := vaultNext_stops s.vaultEntry cold ht hv
  rw [limitVault_eq h cold rfl]
  generalize vaultNext (s.dmem d).tstate.toNat v s.vaultEntry cold = new at hnew ⊢
  have hthr : LimitStep (· ≠ d) (fun _ => True) s ((vaultRead s d v new).logThrottle 1 d 2 (s.dmem d).tstate.toNat new v) :=
    limitStep_trans (limitStep_vaultRead s v new (by simp)) (limitStep_logThrottle _ _ _ _ _ _ _)
  generalize (vaultRead s d v new).logThrottle 1 d 2 (s.dmem d).tstate.toNat new v = u at hthr ⊢
  have hlog : LimitStep (fun _ => True) (fun _ => True) u (u.log 2 0x43 8 d 0 (reading16 v)) := limitStep_log u _ _ _ _ _ _
  have hstop : vaultStopped u d (s.dmem d).tstate.toNat new v = (u.log 2 0x43 8 d 0 (reading16 v)).orderlyStop false := if_pos ⟨ht, hnew⟩
  have htaken := stopTaken_before (hlog.ready.trans hthr.ready) (stopTaken_orderlyStop (u.log 2 0x43 8 d 0 (reading16 v)))
  have hready := (limitStep_orderlyStop (vs := fun _ => True) (ls := fun _ => True) (u.log 2 0x43 8 d 0 (reading16 v)) false).ready.trans
    (hlog.ready.trans hthr.ready)
  rw [hstop]
  exact stopTaken_after (vs := fun _ => True) (ls := fun _ => True) htaken hready (limitStep_vaultLost _ _ d v)
end

/-! ### Logic (R455, R456) -/

/-- The next state of a die's logic. -/
def logicNext (s : State) (cold : Bool) (d : Nat) (v : Int) : Nat :=
  if fld s.therm.logic (2 * d + 1) (2 * d) = 3 ∨ 2000 ≤ v then 3
  else partNext (fld s.therm.logic (2 * d + 1) (2 * d)) v s.logicEntry 1840 (s.logicEntry - 80) cold

theorem partNext_le (cur : Nat) (v entry stop exit_ : Int) (release : Bool) : partNext cur v entry stop exit_ release ≤ 2 := by
  unfold partNext
  extract_lets up
  have hup : up ≤ 2 := by
    unfold up
    split
    · omega
    · split <;> omega
  split
  · exact hup
  split
  · split
    · split <;> omega
    · omega
  · split <;> omega

theorem logicNext_lt (s : State) (cold : Bool) (d : Nat) (v : Int) : logicNext s cold d v < 4 := by
  unfold logicNext
  split
  · omega
  · exact lt_of_le_of_lt (partNext_le _ _ _ _ _ _) (by omega)

/-- The logic of a die as a sample leaves it, before what follows from its state. -/
def logicRead (s : State) (d new : Nat) : State := s.setTherm { s.therm with logic := setFld s.therm.logic (2 * d + 1) (2 * d) new }

/-- The stop that logic asks for, with its record. -/
def logicStopped (s : State) (d old new : Nat) (v : Int) : State :=
  if old < 2 ∧ 2 ≤ new then (s.log 2 0x9A 10 0xFF 0 (limitDetail 0 d v)).orderlyStop true else s

theorem limitLogic_eq {s : State} {d : Nat} {v : Int} (h : s.hottestOf (16 * d) 16 = some v) (cold : Bool) {new old : Nat}
    (hnew : logicNext s cold d v = new) (hold : fld s.therm.logic (2 * d + 1) (2 * d) = old) : s.limitLogic cold d =
      let s3 := logicStopped ((logicRead s d new).logThrottle 0 d 1 old new v) d old new v
      if old < 3 ∧ new = 3 then (s3.log 2 0x9B 10 0xFF 0 (d + 2 ^ 16 * reading16 v)).shutDown else s3 := by
  subst hnew hold
  unfold State.limitLogic
  rw [h]
  rfl

section
variable {vs ls : Nat → Prop} {s : State} {d : Nat} {v : Int}

theorem limitStep_logicShut (s : State) (p : Prop) [Decidable p] (cls code unitKind die unit detail : Nat) :
    LimitStep vs ls s (if p then (s.log cls code unitKind die unit detail).shutDown else s) := by
  split
  · exact limitStep_trans (limitStep_log s _ _ _ _ _ _) (limitStep_shutDown _)
  · exact limitStep_refl s

theorem limitLogic_after (h : s.hottestOf (16 * d) 16 = some v) (cold : Bool) :
    LimitStep vs ls (logicRead s d (logicNext s cold d v)) (s.limitLogic cold d) := by
  rw [limitLogic_eq h cold rfl rfl]
  exact limitStep_trans (limitStep_logThrottle _ _ _ _ _ _ _)
    (limitStep_trans (limitStep_stops _ _ _ _ _ _ _ _ _) (limitStep_logicShut _ _ _ _ _ _ _ _))

theorem limitStep_limitLogic (s : State) (cold : Bool) (hd : d < 8) (hls : ¬ls d) : LimitStep vs ls s (s.limitLogic cold d) := by
  cases h : s.hottestOf (16 * d) 16 with
  | none =>
    unfold State.limitLogic
    rw [h]
    exact limitStep_refl s
  | some v => exact limitStep_trans (limitStep_logic s hd (logicNext_lt s cold d v) hls) (limitLogic_after h cold)

/-- Logic at 125 °C is in its critical state, and the package has shut down for it (R456). -/
theorem limitLogic_critical (h : s.hottestOf (16 * d) 16 = some v) (cold : Bool) (hd : d < 8) (hv : 2000 ≤ v) :
    fld (s.limitLogic cold d).therm.logic (2 * d + 1) (2 * d) = 3 ∧
      (fld s.therm.logic (2 * d + 1) (2 * d) ≠ 3 → DownSince (s.limitLogic cold d)) := by
  have hnew : logicNext s cold d v = 3 := if_pos (.inr hv)
  have hlt : fld s.therm.logic (2 * d + 1) (2 * d) < 4 := by
    rw [fld_pair]
    exact Nat.mod_lt _ (by omega)
  refine ⟨?_, fun hne => ?_⟩
  · have hkept := (limitLogic_after (vs := fun _ => True) (ls := fun _ => True) h cold).logic d trivial
    rw [hnew] at hkept
    exact hkept.trans ((fld_setFld_pair s.therm.logic d (by omega) (by omega)).trans (if_pos rfl))
  · rw [limitLogic_eq h cold hnew rfl]
    simp only []
    rw [if_pos ⟨by omega, trivial⟩]
    exact downSince_shutDown _
end

end Sys2Proof.Proofs
end

section
/-! O55. The sample of every site, the limits that follow it (R448-R458), and the statement. -/

namespace Sys2Proof.Proofs

open Sys2Proof Sys2Proof.Machine Sys2Proof.Laws

/-! ### A site after a sample (R449-R453) -/

theorem get_buildMap {α : Type} [DecidableEq α] (d : α) (n : Nat) (f : Nat → α) {i : Nat} (h : i < n) :
    SMap.get d (buildMap d n f) i = f i := by
  have hlist (l : List Nat) : SMap.get d ((l.map fun k => (k, f k)).filter fun e => decide (e.2 ≠ d)) i = if i ∈ l then f i else d := by
    induction l with
    | nil => rfl
    | cons k l ih =>
      by_cases hk : f k = d
      · rw [List.map_cons, List.filter_cons_of_neg (by simpa using hk), ih]
        by_cases hik : i = k
        · subst hik
          simp [hk]
        · simp [hik]
      · rw [List.map_cons, List.filter_cons_of_pos (by simpa using hk)]
        by_cases hik : k = i
        · subst hik
          simp [SMap.get, SMap.get?]
        · have hne : ¬i = k := fun h => hik h.symm
          simp only [SMap.get, SMap.get?, hik, if_false, List.mem_cons, hne, false_or]
          exact ih
  exact (hlist _).trans (if_pos (List.mem_range.mpr h))

theorem getElem?_zipIdx_map {α β : Type} (l : List α) (f : α × Nat → β) (i : Nat) : (l.zipIdx.map f)[i]? = l[i]?.map fun x => f (x, i) := by
  simp [List.getElem?_map, List.getElem?_zipIdx]
  rfl

section
variable (x : SensorState) (n : Nat)

theorem tested_samples : (x.tested n).samples = x.samples := by unfold SensorState.tested; split_ifs <;> rfl
theorem tested_filtered : (x.tested n).filtered = x.filtered := by unfold SensorState.tested; split_ifs <;> rfl

/-- A full site out of range is suspect, and for that cause if it was not before (R452). -/
theorem tested_outOfRange (h : x.full = true) : (x.tested 1).suspect = true ∧ (x.suspect = false → (x.tested 1).cause = 1) := by
  unfold SensorState.tested
  rw [if_neg (by simp [h])]
  cases hs : x.suspect
  · exact ⟨rfl, fun _ => rfl⟩
  · exact ⟨rfl, fun h => by cases h⟩

theorem tested_notFull (h : x.full = false) : x.tested n = x := by
  unfold SensorState.tested
  rw [if_pos (by simp [h])]
end

/-- The history of a site after a sample. -/
def siteNoted (xs : List SensorState) (i : Nat) (x : SensorState) : SensorState :=
  if x.full then { x with hist := (x.read, median2 (readings xs (siteNeighbours i) SensorState.valid)) :: x.hist.take 1999 } else x

/-- What a sample makes of a site, from its state before, its power and its reading. -/
structure SiteSampled (powered : Bool) (v : Int) (x y : SensorState) : Prop where
  on : powered = true → y.samples = v :: x.samples.take 7 ∧
    y.filtered = BitVec.ofInt 16 (meanOf (v :: x.samples.take 7).sum (v :: x.samples.take 7).length)
  off : powered = false → y.samples = [] ∧ y.suspect = false
  range : y.full = true → y.read < -320 ∨ 2400 < y.read → y.suspect = true ∧ (x.suspect = false → y.cause = 1)
  effective : y.suspect = false → y.effective = y.filtered

theorem siteNoted_eq (xs : List SensorState) (i : Nat) (x : SensorState) : ∃ h, siteNoted xs i x = { x with hist := h } := by
  unfold siteNoted
  split
  · exact ⟨_, rfl⟩
  · exact ⟨x.hist, rfl⟩

theorem noted_eq (x : SensorState) (e : BitVec 16) : ∃ hi lo, x.noted e = { x with effective := e, max := hi, min := lo } := by
  unfold SensorState.noted
  split
  · exact ⟨x.max, x.min, rfl⟩
  · exact ⟨_, _, rfl⟩

theorem testCause_outOfRange {xs : List SensorState} {i : Nat} {x : SensorState} (hf : x.full = true) (h : x.outOfRange = true) :
    testCause xs i x = 1 := by
  simp [testCause, hf, h]

theorem siteSampled_of (powered : Bool) (v : Int) (x : SensorState) (h : List (Int × Option Int)) {b c y : SensorState}
    {xs cs : List SensorState} {i : Nat} (hb : b = { x.sample powered v with hist := h })
    (hc : c = b.tested (testCause xs i b)) (hy : y = c.noted (effectiveOf cs i c)) :
    SiteSampled powered v x y := by
  obtain ⟨hi, lo, hnoted⟩ := noted_eq c (effectiveOf cs i c)
  rw [hnoted] at hy
  have hsamples : y.samples = (x.sample powered v).samples := by
    rw [hy]
    show c.samples = _
    rw [hc, tested_samples, hb]
  have hfiltered : y.filtered = (x.sample powered v).filtered := by
    rw [hy]
    show c.filtered = _
    rw [hc, tested_filtered, hb]
  have hfull : b.full = y.full := by
    unfold SensorState.full
    rw [hsamples, hb]
  have hread : b.read = y.read := by
    unfold SensorState.read
    rw [hfiltered, hb]
  have hsuspect : y.suspect = c.suspect := by rw [hy]
  refine ⟨fun hp => ?_, fun hp => ?_, fun hf hr => ?_, fun hs => ?_⟩
  · rw [hsamples, hfiltered, hp]
    exact ⟨rfl, rfl⟩
  · have hempty : y.samples = [] := by rw [hsamples, hp]; rfl
    refine ⟨hempty, ?_⟩
    have hnf : b.full = false := by
      rw [hfull]
      unfold SensorState.full
      rw [hempty]
      rfl
    rw [hsuspect, hc, tested_notFull b _ hnf, hb, hp]
    rfl
  · have hpow : powered = true := by
      by_contra hp
      rw [Bool.not_eq_true] at hp
      unfold SensorState.full at hf
      rw [hsamples, hp] at hf
      cases hf
    have hout : b.outOfRange = true := by
      unfold SensorState.outOfRange
      rw [hread]
      simpa using hr
    have hbs : b.suspect = x.suspect := by rw [hb, hpow]; rfl
    obtain ⟨h1, h2⟩ := tested_outOfRange b (hfull.trans hf)
    rw [testCause_outOfRange (hfull.trans hf) hout] at hc
    rw [hsuspect, hc]
    refine ⟨h1, fun hx => ?_⟩
    have hcause : y.cause = c.cause := by rw [hy]
    rw [hcause, hc]
    exact h2 (hbs.trans hx)
  · rw [hsuspect] at hs
    rw [hy]
    show effectiveOf cs i c = c.filtered
    unfold effectiveOf
    rw [if_pos (by simp [hs])]

/-- Every site is sampled (R450-R453). -/
theorem sampleSites_get {powered : Nat → Bool} {xs : List SensorState} {vs : List Int} {i : Nat} {x : SensorState} (hx : xs[i]? = some x) :
    ∃ y, (sampleSites powered xs vs)[i]? = some y ∧ SiteSampled (powered i) ((vs[i]?).getD 0) x y := by
  unfold sampleSites
  extract_lets a b tested
  have ha : a[i]? = some (x.sample (powered i) ((vs[i]?).getD 0)) := by
    unfold a
    rw [getElem?_zipIdx_map, hx]
    rfl
  have hb : b[i]? = some (siteNoted a i (x.sample (powered i) ((vs[i]?).getD 0))) := by
    unfold b
    rw [getElem?_zipIdx_map, ha]
    rfl
  obtain ⟨h, heq⟩ := siteNoted_eq a i (x.sample (powered i) ((vs[i]?).getD 0))
  rw [heq] at hb
  obtain ⟨z, hz⟩ : ∃ z, z = { x.sample (powered i) ((vs[i]?).getD 0) with hist := h } := ⟨_, rfl⟩
  rw [← hz] at hb
  have hc : tested[i]? = some (z.tested (testCause b i z)) := by
    unfold tested
    rw [getElem?_zipIdx_map, hb]
    rfl
  refine ⟨(z.tested (testCause b i z)).noted (effectiveOf tested i (z.tested (testCause b i z))), ?_,
    siteSampled_of (powered i) ((vs[i]?).getD 0) x h hz rfl rfl⟩
  rw [getElem?_zipIdx_map, hc]
  rfl

/-! ### The sample -/

/-- The sites after a sample. -/
def sitesAfter (s : State) (ws : List Int) : List SensorState :=
  sampleSites s.sitePowered ((List.range 232).map fun i => SMap.get {} s.therm.sensors i) (ws.zipIdx.map fun x => siteReading x.2 x.1)

/-- Every site has its sample, before what is logged. -/
def sitesSampled (s : State) (ws : List Int) : State :=
  s.setTherm { s.therm with sensors := buildMap {} 232 fun i => ((sitesAfter s ws)[i]?).getD {} }

theorem sitesAfter_get (s : State) (ws : List Int) {i : Nat} {v : Int} (hi : i < 232) (hv : ws[i]? = some v) :
    ∃ y, (sitesAfter s ws)[i]? = some y ∧ SiteSampled (s.sitePowered i) (siteReading i v) (SMap.get {} s.therm.sensors i) y := by
  have hold : ((List.range 232).map fun i => (SMap.get {} s.therm.sensors i : SensorState))[i]? = some (SMap.get {} s.therm.sensors i) := by
    rw [List.getElem?_map, List.getElem?_range hi]
    rfl
  have hread : (ws.zipIdx.map fun x => siteReading x.2 x.1)[i]? = some (siteReading i v) := by
    rw [getElem?_zipIdx_map, hv]
    rfl
  obtain ⟨y, hy, hsampled⟩ := sampleSites_get (powered := s.sitePowered) (vs := ws.zipIdx.map fun x => siteReading x.2 x.1) hold
  rw [hread] at hsampled
  exact ⟨y, hy, hsampled⟩

theorem sitesSampled_get (s : State) (ws : List Int) {i : Nat} {v : Int} (hi : i < 232) (hv : ws[i]? = some v) :
    SiteSampled (s.sitePowered i) (siteReading i v) (SMap.get {} s.therm.sensors i) (SMap.get {} (sitesSampled s ws).therm.sensors i) := by
  obtain ⟨y, hy, hsampled⟩ := sitesAfter_get s ws hi hv
  have hget : SMap.get {} (sitesSampled s ws).therm.sensors i = ((sitesAfter s ws)[i]?).getD {} := by
    unfold sitesSampled
    generalize sitesAfter s ws = new
    exact get_buildMap {} 232 (fun i => (new[i]?).getD {}) hi
  rw [hget, hy]
  exact hsampled

theorem limitStep_logSite {vs ls : Nat → Prop} (s : State) (i : Nat) (old new : SensorState) : LimitStep vs ls s (s.logSite i old new) := by
  unfold State.logSite
  split
  · exact limitStep_log s _ _ _ _ _ _
  split
  · exact limitStep_log s _ _ _ _ _ _
  · exact limitStep_refl s

theorem limitStep_sampleAll {vs ls : Nat → Prop} (s : State) (ws : List Int) : LimitStep vs ls (sitesSampled s ws) (s.sampleAll ws) :=
  limitStep_foldl _ (fun i _ u => limitStep_logSite u i _ _) _

/-- An orderly stop that has its hold goes on. -/
def stopResumed (s : State) : State := if s.therm.stopping && s.stopReady then s.stopNow else s

theorem limitStep_stopNow {vs ls : Nat → Prop} {s : State} (hr : s.stopReady = true) : LimitStep vs ls s s.stopNow := by
  have h := stopNow_spec s
  exact {
    toOnlyAborts := h.toOnlyAborts
    settings := h.settings
    pending := h.pending
    nowNs := h.nowNs
    nPower := (congrArg ThermState.nPower h.therm :)
    nThermal := (congrArg ThermState.nThermal h.therm :)
    sensors := (congrArg ThermState.sensors h.therm :)
    ready := (congrArg (fun b : BeatState => !b.aligned || (b.held && b.causeHub)) h.beat :)
    stopVault := fun hs => h.stopVault.trans hs
    held := fun h0 => by rw [h0] at hr; cases hr
    running := fun _ => h.running
    down := fun hs => by
      unfold DownSince
      rw [h.power, h.lasers, h.nowNs]
      exact hs
    vaults := fun d _ => by
      unfold State.dmem
      rw [h.dieMem]
      exact ⟨rfl, rfl⟩
    logic := fun d _ => by rw [(congrArg ThermState.logic h.therm :)] }

theorem stopResumed_spec (s : State) : LimitStep (fun _ => True) (fun _ => True) s (stopResumed s) ∧ (stopResumed s).power = s.power := by
  unfold stopResumed
  by_cases h : (s.therm.stopping && s.stopReady) = true
  · rw [if_pos h]
    exact ⟨limitStep_stopNow (Bool.and_eq_true _ _ ▸ h).2, (stopNow_spec s).power⟩
  · rw [if_neg h]
    exact ⟨limitStep_refl s, rfl⟩

/-! ### The limits, part by part -/

/-- The limits of the vaults, and of the logic, of all dies. -/
def vaultsLimited (cold : Bool) (s : State) : State := forAll 8 s fun s d => s.limitVault cold d
def logicLimited (cold : Bool) (s : State) : State := forAll 8 s fun s d => s.limitLogic cold d

/-- The limits of the stacks and the thermistors. -/
def othersLimited (s : State) : State := forAll 8 (forAll 32 s fun s t => s.limitStack t) fun s n => s.limitThermistor n

/-- All limits after a sample. -/
def partsLimited (s : State) : State :=
  othersLimited (logicLimited (s.allBelow 0 16 1600) (vaultsLimited (s.allBelow 128 4 1440) s))

theorem execSensorSample_idle {s : State} (samples : List Int)
    (h : s.power.vaoGood = false ∨ s.power.inReset = true ∨ s.inDomainReset .sense = true) : exec (.sensorSample samples) s = .next s := by
  show execSensorSample samples s = _
  refine if_pos ?_
  simpa using h

theorem execSensorSample_samples {s : State} (samples : List Int) (hv : s.power.vaoGood = true) (hr : s.power.inReset = false)
    (hd : s.inDomainReset .sense = false) : exec (.sensorSample samples) s = .next (partsLimited ((stopResumed s).sampleAll samples)) := by
  show execSensorSample samples s = _
  exact if_neg (by simp [hv, hr, hd])

/-- A fold over the numbers below `n` splits at `d`. -/
theorem forAll_at {n d : Nat} (h : d < n) (f : State → Nat → State) (s : State) : ∃ before after : List Nat,
    forAll n s f = after.foldl f (f (before.foldl f s) d) ∧ (∀ i ∈ before, i ≠ d ∧ i < n) ∧ ∀ i ∈ after, i ≠ d ∧ i < n := by
  obtain ⟨before, after, hsplit⟩ := List.append_of_mem (List.mem_range.mpr h)
  have hnodup : (before ++ d :: after).Nodup := hsplit ▸ List.nodup_range
  have hlt : ∀ i ∈ before ++ d :: after, i < n := fun i hi => List.mem_range.mp (hsplit ▸ hi)
  rw [List.nodup_append, List.nodup_cons] at hnodup
  obtain ⟨-, ⟨hafter, -⟩, hbefore⟩ := hnodup
  refine ⟨before, after, ?_, fun i hi => ⟨fun he => hbefore i hi d (by simp) he, hlt i (by simp [hi])⟩,
    fun i hi => ⟨fun he => hafter (he ▸ hi), hlt i (by simp [hi])⟩⟩
  unfold forAll
  rw [hsplit, List.foldl_append, List.foldl_cons]

section
variable {vs ls : Nat → Prop}

theorem limitStep_vaultsLimited (cold : Bool) (s : State) (h : ∀ d < 8, ¬vs d) : LimitStep vs ls s (vaultsLimited cold s) :=
  limitStep_foldl _ (fun d hd u => limitStep_limitVault u cold (h d (List.mem_range.mp hd))) s

theorem limitStep_logicLimited (cold : Bool) (s : State) (h : ∀ d < 8, ¬ls d) : LimitStep vs ls s (logicLimited cold s) :=
  limitStep_foldl _ (fun d hd u => limitStep_limitLogic u cold (List.mem_range.mp hd) (h d (List.mem_range.mp hd))) s

theorem limitStep_othersLimited (s : State) : LimitStep vs ls s (othersLimited s) :=
  limitStep_trans (limitStep_foldl _ (fun k _ u => limitStep_limitStack u k) s)
    (limitStep_foldl _ (fun n _ u => limitStep_limitThermistor u n) _)

/-- The limit of one die's vaults, among those of all. -/
theorem vaultsLimited_at (cold : Bool) (s : State) {d : Nat} (hd : d < 8) : ∃ u : State, LimitStep (· = d) ls s u ∧
    LimitStep (· = d) ls (u.limitVault cold d) (vaultsLimited cold s) := by
  obtain ⟨before, after, heq, hb, ha⟩ := forAll_at hd (fun s d => s.limitVault cold d) s
  have hbefore := limitStep_foldl (vs := (· = d)) (ls := ls) (f := fun s d => s.limitVault cold d) before
    (fun i hi u => limitStep_limitVault u cold (hb i hi).1) s
  generalize before.foldl (fun s d => s.limitVault cold d) s = u at heq hbefore
  unfold vaultsLimited
  rw [heq]
  exact ⟨u, hbefore, limitStep_foldl after (fun i hi u => limitStep_limitVault u cold (ha i hi).1) _⟩

/-- The limit of one die's logic, among those of all. -/
theorem logicLimited_at (cold : Bool) (s : State) {d : Nat} (hd : d < 8) : ∃ u : State, LimitStep vs (· = d) s u ∧
    LimitStep vs (· = d) (u.limitLogic cold d) (logicLimited cold s) := by
  obtain ⟨before, after, heq, hb, ha⟩ := forAll_at hd (fun s d => s.limitLogic cold d) s
  have hbefore := limitStep_foldl (vs := vs) (ls := (· = d)) (f := fun s d => s.limitLogic cold d) before
    (fun i hi u => limitStep_limitLogic u cold (hb i hi).2 (hb i hi).1) s
  generalize before.foldl (fun s d => s.limitLogic cold d) s = u at heq hbefore
  unfold logicLimited
  rw [heq]
  exact ⟨u, hbefore, limitStep_foldl after (fun i hi u => limitStep_limitLogic u cold (ha i hi).2 (ha i hi).1) _⟩

theorem partsLimited_vault (s : State) {d : Nat} (hd : d < 8) : ∃ u : State, LimitStep (· = d) (fun _ => False) s u ∧
    LimitStep (· = d) (fun _ => False) (u.limitVault (s.allBelow 128 4 1440) d) (partsLimited s) := by
  obtain ⟨u, hu, hafter⟩ := vaultsLimited_at (ls := fun _ => False) (s.allBelow 128 4 1440) s hd
  exact ⟨u, hu, limitStep_trans hafter (limitStep_trans (limitStep_logicLimited _ _ fun _ _ => not_false) (limitStep_othersLimited _))⟩

theorem partsLimited_logic (s : State) {d : Nat} (hd : d < 8) : ∃ u : State, LimitStep (fun _ => False) (· = d) s u ∧
    LimitStep (fun _ => False) (· = d) (u.limitLogic (s.allBelow 0 16 1600) d) (partsLimited s) := by
  have hvaults : LimitStep (fun _ => False) (· = d) s (vaultsLimited (s.allBelow 128 4 1440) s) :=
    limitStep_vaultsLimited _ s fun _ _ => not_false
  obtain ⟨u, hu, hafter⟩ := logicLimited_at (vs := fun _ => False) (s.allBelow 0 16 1600) (vaultsLimited (s.allBelow 128 4 1440) s) hd
  exact ⟨u, limitStep_trans hvaults hu, limitStep_trans hafter (limitStep_othersLimited _)⟩

theorem limitStep_partsLimited (s : State) : LimitStep (fun _ => False) (fun _ => False) s (partsLimited s) :=
  limitStep_trans (limitStep_vaultsLimited _ s fun _ _ => not_false)
    (limitStep_trans (limitStep_logicLimited _ _ fun _ _ => not_false) (limitStep_othersLimited _))
end

theorem hottestOf_congr {s t : State} (h : t.therm.sensors = s.therm.sensors) (first n : Nat) : t.hottestOf first n = s.hottestOf first n := by
  unfold State.hottestOf
  rw [h]

theorem allBelow_congr {s t : State} (h : t.therm.sensors = s.therm.sensors) (first n : Nat) (v : Int) :
    t.allBelow first n v = s.allBelow first n v := by
  unfold State.allBelow
  simp only [hottestOf_congr h]

theorem vaultEntry_congr {s t : State} (h : t.settings = s.settings) : t.vaultEntry = s.vaultEntry := by
  unfold State.vaultEntry State.keyN State.setting
  rw [h]

/-! ### From the sample to its limits -/

/-- A state with other sensors. -/
def withSensors (s : State) (x : SMap SensorState) : State := s.setTherm { s.therm with sensors := x }

theorem limitStep_withSensors {vs ls : Nat → Prop} {s t : State} (h : LimitStep vs ls s t) (x : SMap SensorState) :
    LimitStep vs ls (withSensors s x) (withSensors t x) where
  open_ := h.open_
  mem := h.mem
  settings := h.settings
  pending := h.pending
  nowNs := h.nowNs
  nPower := h.nPower
  nThermal := h.nThermal
  sensors := rfl
  ready := h.ready
  stopVault := h.stopVault
  held := h.held
  running := h.running
  down := h.down
  vaults := h.vaults
  logic := h.logic

theorem limitStep_of_all {vs ls : Nat → Prop} {s t : State} (h : LimitStep (fun _ => True) (fun _ => True) s t) : LimitStep vs ls s t :=
  { h with vaults := fun d _ => h.vaults d trivial, logic := fun d _ => h.logic d trivial }

/-- The state in which the limits look at the sample. -/
def sampled (s : State) (ws : List Int) : State := (stopResumed s).sampleAll ws

theorem sampled_spec (s : State) (ws : List Int) : ∃ x, LimitStep (fun _ => True) (fun _ => True) (withSensors s x) (sampled s ws) ∧
    ∀ i < 232, ∀ v, ws[i]? = some v → SiteSampled (s.sitePowered i) (siteReading i v) (SMap.get {} s.therm.sensors i) (SMap.get {} x i) := by
  obtain ⟨hresumed, hpower⟩ := stopResumed_spec s
  unfold sampled
  generalize stopResumed s = r at hresumed hpower ⊢
  refine ⟨(sitesSampled r ws).therm.sensors, limitStep_trans (limitStep_withSensors hresumed _) (limitStep_sampleAll r ws), fun i hi v hv => ?_⟩
  have hpowered : r.sitePowered i = s.sitePowered i := by
    unfold State.sitePowered State.rail
    rw [hpower]
  have h := sitesSampled_get r ws hi hv
  rw [hpowered, hresumed.sensors] at h
  exact h

section
variable {ws : List Int} {s : State} {d : Nat} {v : Int} {x : SMap SensorState}

/-- A die's vaults, and the stop that they ask for, when all limits have been looked at. -/
theorem sampled_vault (hx : LimitStep (fun _ => True) (fun _ => True) (withSensors s x) (sampled s ws)) (hd : d < 8)
    (hhot : (partsLimited (sampled s ws)).hottestOf (128 + 4 * d) 4 = some v) :
    ((partsLimited (sampled s ws)).dmem d).temp = BitVec.ofInt 16 v ∧
      ((partsLimited (sampled s ws)).dmem d).tstate =
        BitVec.ofNat 3 (vaultNext (s.dmem d).tstate.toNat v s.vaultEntry ((partsLimited (sampled s ws)).allBelow 128 4 1440)) ∧
      (1680 ≤ v → (s.dmem d).tstate.toNat < 3 → StopTaken s (partsLimited (sampled s ws))) := by
  obtain ⟨u, hbefore, hafter⟩ := partsLimited_vault (sampled s ws) hd
  have hto : LimitStep (· = d) (fun _ => False) (withSensors s x) u := limitStep_trans (limitStep_of_all hx) hbefore
  have hlimit : LimitStep (fun _ => False) (fun _ => False) u (u.limitVault ((sampled s ws).allBelow 128 4 1440) d) :=
    limitStep_limitVault u _ not_false
  have hcold := allBelow_congr (limitStep_partsLimited (sampled s ws)).sensors 128 4 1440
  have hsensors : (partsLimited (sampled s ws)).therm.sensors = u.therm.sensors := hafter.sensors.trans hlimit.sensors
  rw [hottestOf_congr hsensors] at hhot
  have htstate : (u.dmem d).tstate = (s.dmem d).tstate := (hto.vaults d rfl).2
  have hentry : u.vaultEntry = s.vaultEntry := vaultEntry_congr hto.settings
  obtain ⟨h1, h2⟩ := limitVault_reads hhot ((sampled s ws).allBelow 128 4 1440)
  obtain ⟨h3, h4⟩ := hafter.vaults d rfl
  refine ⟨h3.trans h1, ?_, fun hv ht => ?_⟩
  · rw [h4, h2, htstate, hentry, hcold]
  · have htaken := limitVault_stops hhot ((sampled s ws).allBelow 128 4 1440) hv (by rwa [htstate])
    exact stopTaken_before (s := s) hto.ready (stopTaken_after htaken hlimit.ready hafter)

/-- A die's logic at 125 °C, when all limits have been looked at. -/
theorem sampled_logic (hx : LimitStep (fun _ => True) (fun _ => True) (withSensors s x) (sampled s ws)) (hd : d < 8)
    (hhot : (partsLimited (sampled s ws)).hottestOf (16 * d) 16 = some v) (hv : 2000 ≤ v) :
    fld (partsLimited (sampled s ws)).therm.logic (2 * d + 1) (2 * d) = 3 ∧
      (fld s.therm.logic (2 * d + 1) (2 * d) ≠ 3 → DownSince (partsLimited (sampled s ws))) := by
  obtain ⟨u, hbefore, hafter⟩ := partsLimited_logic (sampled s ws) hd
  have hto : LimitStep (fun _ => False) (· = d) (withSensors s x) u := limitStep_trans (limitStep_of_all hx) hbefore
  have hlimit : LimitStep (fun _ => False) (fun _ => False) u (u.limitLogic ((sampled s ws).allBelow 0 16 1600) d) :=
    limitStep_limitLogic u _ hd not_false
  have hsensors : (partsLimited (sampled s ws)).therm.sensors = u.therm.sensors := hafter.sensors.trans hlimit.sensors
  rw [hottestOf_congr hsensors] at hhot
  obtain ⟨h1, h2⟩ := limitLogic_critical hhot ((sampled s ws).allBelow 0 16 1600) hd hv
  exact ⟨(hafter.logic d rfl).trans h1, fun hne => hafter.down (h2 (by rw [hto.logic d rfl]; exact hne))⟩
end

/-- A sample of every site, and its limits (R448-R458). -/
theorem execSensorSample_spec {s : State} (samples : List Int) (hv : s.power.vaoGood = true) (hr : s.power.inReset = false)
    (hdom : s.inDomainReset .sense = false) : Answers (.sensorSample samples) s fun t =>
      (∀ i < 232, ∀ v, samples[i]? = some v →
        let x : SensorState := SMap.get {} s.therm.sensors i
        let y : SensorState := SMap.get {} t.therm.sensors i
        let l := (if 224 ≤ i then thermistorReading v.toNat else v) :: x.samples.take 7
        (s.sitePowered i = true → y.samples = l ∧ y.filtered = BitVec.ofInt 16 (meanOf l.sum l.length)) ∧
        (s.sitePowered i = false → y.samples = [] ∧ y.suspect = false) ∧
        (y.full = true → y.read < -320 ∨ 2400 < y.read → y.suspect = true ∧ (x.suspect = false → y.cause = 1)) ∧
        (y.suspect = false → y.effective = y.filtered)) ∧
      (∀ d < 8, ∀ v, t.hottestOf (128 + 4 * d) 4 = some v → (t.dmem d).temp = BitVec.ofInt 16 v ∧
        (t.dmem d).tstate = BitVec.ofNat 3 (vaultNext (s.dmem d).tstate.toNat v s.vaultEntry (t.allBelow 128 4 1440))) ∧
      (∀ d < 8, ∀ v, t.hottestOf (16 * d) 16 = some v → 2000 ≤ v →
        fld t.therm.logic (2 * d + 1) (2 * d) = 3 ∧ (fld s.therm.logic (2 * d + 1) (2 * d) ≠ 3 →
          t.power.stage = 4 ∧ t.power.downGroup = some (10, s.nowNs) ∧ ∀ e ∈ t.lasers, e.2.req = false)) ∧
      (∀ d < 8, ∀ v, t.hottestOf (128 + 4 * d) 4 = some v → 1680 ≤ v → (s.dmem d).tstate.toNat < 3 →
        t.therm.stopVault = true ∧ (s.stopReady = false → t.beat.hubDemand = true ∧ t.therm.stopping = true) ∧
        (s.stopReady = true → t.prog.running = false)) ∧
      MemSameButAborts s t ∧ t.settings = s.settings ∧ t.therm.nPower = s.therm.nPower ∧ t.therm.nThermal = s.therm.nThermal ∧
      t.pending = s.pending := by
  obtain ⟨x, hx, hsites⟩ := sampled_spec s samples
  have hall : LimitStep (fun _ => False) (fun _ => False) (withSensors s x) (partsLimited (sampled s samples)) :=
    limitStep_trans (limitStep_of_all hx) (limitStep_partsLimited _)
  have hsensors : (partsLimited (sampled s samples)).therm.sensors = x := hall.sensors
  have hnow : (partsLimited (sampled s samples)).nowNs = s.nowNs := hall.nowNs
  refine ⟨partsLimited (sampled s samples), execSensorSample_samples samples hv hr hdom, fun i hi v hs => ?_, fun d hd v hhot => ?_,
    fun d hd v hhot h2000 => ?_, fun d hd v hhot h1680 ht => ?_, hall.mem, hall.settings, hall.nPower, hall.nThermal, hall.pending⟩
  · rw [hsensors]
    have h := hsites i hi v hs
    exact ⟨h.on, h.off, h.range, h.effective⟩
  · obtain ⟨h1, h2, -⟩ := sampled_vault hx hd hhot
    exact ⟨h1, h2⟩
  · obtain ⟨h1, h2⟩ := sampled_logic hx hd hhot h2000
    refine ⟨h1, fun hne => ?_⟩
    obtain ⟨h3, h4, h5⟩ := h2 hne
    exact ⟨h3, by rw [h4, hnow], h5⟩
  · obtain ⟨-, -, h3⟩ := sampled_vault hx hd hhot
    have htaken := h3 h1680 ht
    exact ⟨htaken.stopVault, htaken.held, htaken.stopped⟩

/-- Settles O55, command by command: the sample with its limits, the sweep of the rails, the thermal brake, the gear and the region heaters. -/
theorem temperaturePowerBrakeAndGear : Obligations.TemperaturePowerBrakeAndGear := by
  unfold Obligations.TemperaturePowerBrakeAndGear
  refine ⟨fun samples s _ => ⟨execSensorSample_idle samples, execSensorSample_spec samples⟩,
    ⟨thermistorReading_rated, thermistorReading_short⟩,
    fun readings s => execPowerSample_idle readings,
    fun readings s => execPowerSample_good,
    fun readings s i r => execPowerSample_fails,
    fun s hv => ⟨fun hb => ?_, fun ht => ?_, fun hb ht => ?_⟩,
    fun s => ⟨gearWanted_blind, execGearChange_unwanted, fun code cause => execGearChange_waits, fun code cause => execGearChange_shifts⟩,
    fun k s hot => execRegionHeaterControl_spec⟩
  · exact execThermalBrakeStep_idle (.inl ((thermalBlind_iff s).mpr hb))
  · exact execThermalBrakeStep_idle (.inr ht)
  · exact execThermalBrakeStep_spec hv (fun h => hb ((thermalBlind_iff s).mp h)) ht

end Sys2Proof.Proofs
end

section
/-! O4. What an event of one array answers, and the events of its power and clock (R95, R96, R124, R125). -/

namespace Sys2Proof.Proofs

open Sys2Proof Sys2Proof.Machine Sys2Proof.Laws

theorem arrayBecomes_setArray (s : State) (g : Nat) (a : ArrayState) : ArrayBecomes s (s.setArray g a) g a :=
  ⟨setArray_array_same s g a, fun m hm => (setArray_array s g a m).trans (if_neg hm), onlyArrays_setArray s g a⟩

/-- A command that stores one array answers with that array. -/
theorem answers_of_setArray {c : Instr} {s : State} {g : Nat} {a : ArrayState} (h : exec c s = ok (s.setArray g a)) :
    Answers c s fun t => ArrayBecomes s t g a :=
  ⟨_, h, arrayBecomes_setArray s g a⟩

theorem execEndClockGate_due {g : ArrayId} {s : State} {e : Nat} (hrun : s.runs = true) (hend : (s.array g).endAt = some e)
    (hdue : e + 16 ≤ s.pbeat) (hopen : (s.array g).gatedSince = none) :
    execEndClockGate g s = ok (s.setArray g { s.array g with gatedSince := some s.sched, power := 1 }) := by
  unfold execEndClockGate
  simp [hend, hrun, hdue, hopen]

theorem execFreewheelWake_due {g : ArrayId} {s : State} {x y : Nat} (hrun : s.runs = true) (hgate : (s.array g).gate = some (x, y))
    (hlast : y < s.pbeat) (hstays : s.staysGated g = false) :
    execFreewheelWake g s = ok (s.setArray g { s.array g with
      gate := none, gatedSince := none, power := 3, fwAcc := (s.array g).fwAcc + BitVec.ofNat 32 (s.gatedBeats g) }) := by
  unfold execFreewheelWake
  simp [hgate, hrun, hlast, hstays]

theorem execParkPowerGate_due {g : ArrayId} {s : State} {f : Nat} (hrun : s.runs = true) (hpark : (s.array g).parkAt = some f)
    (hdue : f + 32 ≤ s.pbeat) : execParkPowerGate g s = ok (s.setArray g { s.array g with power := 2 }) := by
  unfold execParkPowerGate
  simp [hpark, hrun, hdue]

theorem execUnparkComplete_due {g : ArrayId} {s : State} {b : Nat} (hrun : s.runs = true) (hunpark : (s.array g).unparkAt = some b)
    (hdue : b + 2000 ≤ s.pbeat) :
    execUnparkComplete g s = ok (s.setArray g { s.array g with unparkAt := none, ramp := false, power := 0 }) := by
  unfold execUnparkComplete
  simp [hunpark, hrun, hdue]

/-- The beats of a `FREEWHEEL` that has ended, where no window counts any: from its gating, since the counts were cleared, to its last (R99). -/
theorem gatedBeats_of_ended {s : State} {g x y b : Nat} (hgate : (s.array g).gate = some (x, y)) (hstays : s.staysGated g = false)
    (hsince : (s.array g).gatedSince = some b) (hcleared : s.prog.clearedAt ≤ b) (hvoid : (s.array g).voidGate = none)
    (hnow : s.prog.beat0.toNat + y + 1 ≤ s.sched) : s.gatedBeats g = s.prog.beat0.toNat + y + 1 - b := by
  have hspan : s.gatedSpan g = (b, s.prog.beat0.toNat + y + 1) := by
    unfold State.gatedSpan
    simp only [hsince, hgate, hstays, Bool.false_eq_true, and_false, if_false, Nat.max_eq_left hcleared, Nat.min_eq_right hnow]
  have hnone : s.voidSpan g = (0, 0) := by
    unfold State.voidSpan
    simp only [hvoid]
  unfold State.gatedBeats spanIn
  rw [hspan, hnone]
  simp

/-- Settles O4: each of the four events stores its array, and the beats that a `FREEWHEEL` adds are those of its span. -/
theorem arrayPowerEventsComeInTheirBeats : Obligations.ArrayPowerEventsComeInTheirBeats := by
  unfold Obligations.ArrayPowerEventsComeInTheirBeats
  refine ⟨fun g s e hrun hend hdue hopen => answers_of_setArray (execEndClockGate_due hrun hend hdue hopen),
    fun g s x y hrun hgate hlast hstays => ⟨fun b hsince hcleared hvoid hnow => ?_, ?_⟩,
    fun g s f hrun hpark hdue => answers_of_setArray (execParkPowerGate_due hrun hpark hdue),
    fun g s b hrun hunpark hdue => answers_of_setArray (execUnparkComplete_due hrun hunpark hdue)⟩
  · exact gatedBeats_of_ended hgate hstays hsince hcleared hvoid hnow
  · exact answers_of_setArray (execFreewheelWake_due hrun hgate hlast hstays)

end Sys2Proof.Proofs
end

section
/-! O5. The ramps of the park controller, void windows, and the driven level in held beats (R97, R98, R163). -/

namespace Sys2Proof.Proofs

open Sys2Proof Sys2Proof.Machine Sys2Proof.Laws

/-- The fold that keeps the earlier of two elements finds the first element of least rank. -/
theorem argmin_cons_eq_foldl {α : Type} (f : α → Nat) (ds : List α) : ∀ d : α,
    (d :: ds).argmin f = some (ds.foldl (fun m x => if f x < f m then x else m) d) := by
  induction ds with
  | nil => exact fun d => List.argmin_singleton
  | cons x ds ih =>
    intro d
    rw [List.foldl_cons, ← ih]
    unfold List.argmin
    rw [List.foldl_cons, List.foldl_cons, List.foldl_cons]
    congr 1
    simp only [List.argAux]
    split <;> rfl

/-- An array of die `d` whose `UNPARK` waits for its ramp. -/
def waitsForRamp (d : Nat) (e : Nat × ArrayState) : Bool := e.1 / 2048 == d && e.2.unparkAt.isSome && !e.2.ramp

theorem waitsForRamp_iff (d : Nat) (e : Nat × ArrayState) :
    waitsForRamp d e = true ↔ e.1 / 2048 = d ∧ e.2.unparkAt ≠ none ∧ e.2.ramp = false := by
  simp [waitsForRamp, and_assoc, Option.isSome_iff_ne_none]

/-- The beat in which an array took its `UNPARK`. -/
def unparkedAt (e : Nat × ArrayState) : Nat := e.2.unparkAt.getD 0

/-- With fewer than 64 ramps started in this beat, the park controller starts that of the array that has waited longest (R97). -/
theorem execUnparkRampStart_first {d : DieId} {s : State} (hrun : s.runs = true) (hwait : ∃ e ∈ s.arrays, waitsForRamp d e = true)
    (hrate : (SMap.get (0, 0) s.ramps d).1 = s.sched → (SMap.get (0, 0) s.ramps d).2 < 64) :
    ∃ e ∈ s.arrays, ∃ n, waitsForRamp d e = true ∧ (∀ f ∈ s.arrays, waitsForRamp d f = true → unparkedAt e ≤ unparkedAt f) ∧
      execUnparkRampStart d s =
        ok { s.setArray e.1 { e.2 with ramp := true } with ramps := SMap.set (0, 0) s.ramps d (s.sched, n) } := by
  obtain ⟨started, hstarted⟩ : ∃ n, n = if (SMap.get (0, 0) s.ramps d).1 = s.sched then (SMap.get (0, 0) s.ramps d).2 else 0 := ⟨_, rfl⟩
  have hroom : started < 64 := by
    rw [hstarted]
    split
    · exact hrate ‹_›
    · decide
  cases hlist : s.arrays.filter (waitsForRamp d) with
  | nil =>
    obtain ⟨e, he, hw⟩ := hwait
    exact absurd (List.mem_filter.mpr ⟨he, hw⟩) (hlist ▸ List.not_mem_nil)
  | cons e es =>
    have hleast := argmin_cons_eq_foldl unparkedAt es e
    rw [← hlist] at hleast
    have hfound := List.mem_filter.mp (List.argmin_mem hleast)
    refine ⟨_, hfound.1, started + 1, hfound.2, fun f hf hw => ?_, ?_⟩
    · exact List.le_of_mem_argmin (List.mem_filter.mpr ⟨hf, hw⟩) hleast
    · unfold waitsForRamp at hlist
      unfold execUnparkRampStart
      simp only [hlist, ← hstarted, hrun, hroom, decide_true, Bool.and_self]
      rfl

theorem execVoidWindowStart_due {g : ArrayId} {s : State} {w : VoidWindow} (hrun : s.runs = true)
    (hnew : (s.array g).inVoid = false ∨ (s.array g).voidFirst ≠ w.first) (hnow : (s.array g).windowNow s.pbeat = some w) :
    execVoidWindowStart g s = ok (s.setArray g { s.array g with
      inVoid := true, voidFirst := w.first, fwAcc := (s.array g).fwAcc + BitVec.ofNat 32 (s.voidBeats g)
      voidGate := if 33 ≤ w.len then some (w.first + 16, w.first + w.len - 5) else none }) := by
  have hother : ((s.array g).inVoid && (s.array g).voidFirst == w.first) = false := by
    rcases hnew with h | h <;> simp [h]
  unfold execVoidWindowStart
  simp only [hnow, hrun, hother, Bool.not_false, Bool.and_self, if_true]

/-- No armed window holds a beat that lies past each that has begun. -/
theorem windowNow_eq_none {a : ArrayState} {pb : Nat} (h : ∀ w ∈ a.windows, w.armed = true → w.first ≤ pb → w.first + w.len ≤ pb) :
    a.windowNow pb = none := by
  unfold ArrayState.windowNow
  rw [List.find?_eq_none]
  intro w hw hin
  simp only [Bool.and_eq_true, decide_eq_true_eq] at hin
  obtain ⟨⟨harmed, hfirst⟩, hlast⟩ := hin
  exact absurd (h w hw harmed hfirst) (Nat.not_le.mpr hlast)

theorem execVoidWindowEnd_due {g : ArrayId} {s : State} (hrun : s.runs = true) (hin : (s.array g).inVoid = true)
    (hnone : (s.array g).windowNow s.pbeat = none) :
    execVoidWindowEnd g s = ok (s.setArray g { s.array g with
      inVoid := false, voidGate := none, fwAcc := (s.array g).fwAcc + BitVec.ofNat 32 (s.voidBeats g)
      windows := (s.array g).windows.filter fun w => decide (s.pbeat < w.first + w.len) }) := by
  unfold execVoidWindowEnd
  simp [hrun, hin, hnone]

theorem execHoldShaperDecay_due {g : ArrayId} {s : State} (hheld : s.beat.held = true) (hnotice : s.inReleaseNotice = false)
    (hdecay : 32 ≤ (s.array g).decay) (hdriven : 0 < (s.array g).driven) :
    execHoldShaperDecay g s = ok (s.setArray g { s.array g with
      driven := (s.array g).driven - 1, dummy := (s.array g).driven - 1, decay := (s.array g).decay - 32 }) := by
  unfold execHoldShaperDecay
  simp [hheld, hnotice, hdecay, hdriven]

theorem execReleaseNoticeRamp_due {g : ArrayId} {s : State} (hnotice : s.inReleaseNotice = true) (hpower : (s.array g).power ≠ 3)
    (honce : (s.array g).rampAt ≠ some s.wall) (hbelow : (s.array g).driven < (s.array g).level (s.pbeat - 8) (s.array g).lastD) :
    execReleaseNoticeRamp g s = ok (s.setArray g ((s.array g).rampUp s.wall)) := by
  have htarget : (s.array g).driven < (s.array g).rampTarget s.pbeat := by
    unfold ArrayState.rampTarget
    rwa [if_neg hpower]
  unfold execReleaseNoticeRamp
  simp [hnotice, htarget, honce]

/-- Settles O5: the ramp that starts is the longest waited for, and each of the other events stores its array. -/
theorem rampsVoidWindowsAndShapingInHolds : Obligations.RampsVoidWindowsAndShapingInHolds := by
  unfold Obligations.RampsVoidWindowsAndShapingInHolds
  refine ⟨fun d s hrun hwait hrate => ?_,
    fun g s w hrun hnew hnow => answers_of_setArray (execVoidWindowStart_due hrun hnew hnow),
    fun g s hrun hin hpast => answers_of_setArray (execVoidWindowEnd_due hrun hin (windowNow_eq_none hpast)),
    fun g s hheld hnotice hdecay hdriven => answers_of_setArray (execHoldShaperDecay_due hheld hnotice hdecay hdriven),
    fun g s hnotice hpower honce hbelow => answers_of_setArray (execReleaseNoticeRamp_due hnotice hpower honce hbelow)⟩
  simp only [← waitsForRamp_iff] at hwait
  obtain ⟨e, he, n, hw, hleast, hexec⟩ := execUnparkRampStart_first hrun hwait hrate
  obtain ⟨hdie, hunpark, hramp⟩ := (waitsForRamp_iff d e).mp hw
  refine ⟨_, hexec, e, he, hdie, hramp, hunpark, fun f hf hfdie hfunpark hframp => ?_, setArray_array_same _ _ _, fun m hm => ?_, ?_,
    fun q hq => get_set_ne _ _ _ _ _ hq, rfl⟩
  · exact hleast f hf ((waitsForRamp_iff d f).mpr ⟨hfdie, hfunpark, hframp⟩)
  · exact (setArray_array s e.1 _ m).trans (if_neg hm)
  · simp only [get_set_same]

end Sys2Proof.Proofs
end

section
/-! The refutation of O7: a pass with block scales keeps, with each of its beats, the scale block that the beat has read. -/

namespace Sys2Proof.Proofs

open Sys2Proof Sys2Proof.Machine

/-- A `PASS` in format 0 with K = 16, M = N = 1 and a scale byte for each 8 elements, from address 64: two pass beats, each with a scale block of its own
(R79, Table 3.4). -/
def scaledPassWord : BitVec 128 := BitVec.ofNat 128 (2 ^ 124 + 2 ^ 118 + 16 * 2 ^ 86 + 64 * 2 ^ 32)

/-- The pass after its first beat, which has read block 0. -/
def scaledPassRun : PassRun :=
  { word := scaledPassWord, aEff := 0, asEff := 64, acc := 0, total := 2, issued := 1, start := 0, aBlock := some 0, aScale := [(127, none)] }

/-- Program beat 1, in which array 0, a gang of its own, is due to issue the second beat. -/
def scaledPassState : State :=
  { arrays := [(0, { active := true, pass := some scaledPassRun, issueFree := 1, power := 0, gatedSince := none })]
    beat := { aligned := true, schedBeat := 1 }, prog := { running := true } }

/-- The state meets every premise of the clause on later pass beats, and the array is of its own gang. -/
theorem scaledPassState_premises :
    scaledPassState.runs = true ∧ (scaledPassState.array 0).pass = some scaledPassRun ∧ (scaledPassState.array 0).leader.toNat = 0 ∧
      scaledPassRun.start + scaledPassRun.issued ≤ scaledPassState.pbeat ∧ 0 ∈ scaledPassState.members 0 := by
  decide +kernel

/-- With the second beat the run has read block 1. -/
theorem passBeatIssue_reads_block :
    Answers (.passBeatIssue 0) scaledPassState fun t => (t.array 0).pass.bind (·.aBlock) = some 1 :=
  ⟨_, rfl, by decide +kernel⟩

/-- Refutes O7: its clause on later pass beats has the run change in the number of its issued beats alone, but a beat with block scales
also leaves in the run the block that it has read and the scale bytes of its rows (R78), which `State.passBeat` keeps there. -/
theorem not_passBeatsAndStreamLinesAdvance : ¬ Obligations.PassBeatsAndStreamLinesAdvance := by
  unfold Obligations.PassBeatsAndStreamLinesAdvance
  rintro ⟨hbeats, -⟩
  obtain ⟨hrun, hpass, hleads, hdue, hmember⟩ := scaledPassState_premises
  obtain ⟨t, ht, hgang, -⟩ := hbeats 0 scaledPassState scaledPassRun hrun hpass hleads (by decide) hdue
  obtain ⟨hcounted, -⟩ := hgang 0 hmember
  obtain ⟨t', ht', hblock⟩ := passBeatIssue_reads_block
  cases ht.symm.trans ht'
  rw [hcounted, hpass] at hblock
  exact absurd hblock (by decide)

end Sys2Proof.Proofs
end

section
/-! O8. What lands in the accumulators of an array (R63-R67, R80, R108). -/

namespace Sys2Proof.Proofs

open Sys2Proof Sys2Proof.Machine Sys2Proof.Laws

theorem setAccum_accum (a : ArrayState) {k e k' e' : Nat} (v : Word32) (he : e < 64) (he' : e' < 64) :
    (a.setAccum k e v).accum k' e' = if k' = k ∧ e' = e then v else a.accum k' e' := by
  have hindex : 64 * k' + e' = 64 * k + e ↔ k' = k ∧ e' = e := by omega
  unfold ArrayState.setAccum ArrayState.accum
  simp only [get_set, hindex]

theorem raiseFlags_acc (a : ArrayState) (now : Nat) (f : BitVec 6) : (a.raiseFlags now f).acc = a.acc := by
  unfold ArrayState.raiseFlags
  split <;> rfl

theorem raiseFlags_accum (a : ArrayState) (now : Nat) (f : BitVec 6) : (a.raiseFlags now f).accum = a.accum := by
  unfold ArrayState.accum
  rw [raiseFlags_acc]

theorem raiseFlags_zero (a : ArrayState) (now : Nat) : a.raiseFlags now 0 = a := if_pos rfl

/-- Flags of one beat add up. -/
theorem raiseFlags_raiseFlags (a : ArrayState) (now : Nat) (f f' : BitVec 6) :
    (a.raiseFlags now f).raiseFlags now f' = a.raiseFlags now (f ||| f') := by
  by_cases hf : f = 0
  · rw [hf, raiseFlags_zero]
    exact congrArg (a.raiseFlags now) BitVec.zero_or.symm
  · by_cases hf' : f' = 0
    · rw [hf', raiseFlags_zero]
      exact congrArg (a.raiseFlags now) BitVec.or_zero.symm
    · have hor : f ||| f' ≠ 0 := fun h0 => hf (BitVec.or_eq_zero_iff.mp h0).1
      unfold ArrayState.raiseFlags
      simp only [hf, hf', hor, if_false, if_true, BitVec.or_assoc]

/-- Of `a`, but the accumulators, `b` differs in the flags `fl` alone, raised in beat `now`. -/
def FlagsOnly (now : Nat) (fl : BitVec 6) (a b : ArrayState) : Prop := { b with acc := [] } = { a.raiseFlags now fl with acc := [] }

theorem flagsOnly_refl (now : Nat) (a : ArrayState) : FlagsOnly now 0 a a := by
  unfold FlagsOnly
  rw [raiseFlags_zero]

theorem raiseFlags_withAcc (a : ArrayState) (now : Nat) (f : BitVec 6) (m : SMap Word32) :
    { a.raiseFlags now f with acc := m } = ({ a with acc := m } : ArrayState).raiseFlags now f := by
  unfold ArrayState.raiseFlags
  split <;> rfl

/-- A written element raises its flags on top of those before it. -/
theorem flagsOnly_setAccum {now : Nat} {fl : BitVec 6} {a b : ArrayState} (h : FlagsOnly now fl a b) (k e : Nat) (v : Word32) (f : BitVec 6) :
    FlagsOnly now (fl ||| f) a ((b.setAccum k e v).raiseFlags now f) := by
  unfold FlagsOnly at *
  rw [← raiseFlags_raiseFlags, raiseFlags_withAcc, raiseFlags_withAcc, ← h]
  rfl

/-- Elements 0 to n - 1 of an accumulator are written, one by one, from `f`. -/
theorem foldl_setAccum_accum (a : ArrayState) (k : Nat) (f : Nat → Word32) {n : Nat} (hn : n ≤ 64) {k' e : Nat} (he : e < 64) :
    ((List.range n).foldl (fun a e => a.setAccum k e (f e)) a).accum k' e = if k' = k ∧ e < n then f e else a.accum k' e := by
  induction n with
  | zero => simp
  | succ n ih =>
    rw [List.range_succ, List.foldl_append, List.foldl_cons, List.foldl_nil, setAccum_accum _ _ (by omega) he, ih (by omega)]
    grind

theorem foldl_setAccum_flagsOnly (now : Nat) (a : ArrayState) (k : Nat) (f : Nat → Word32) (l : List Nat) :
    FlagsOnly now 0 a (l.foldl (fun a e => a.setAccum k e (f e)) a) := by
  induction l using List.reverseRecOn with
  | nil => exact flagsOnly_refl now a
  | append_singleton l e ih =>
    rw [List.foldl_append]
    exact (flagsOnly_setAccum ih k e (f e) 0 :)

/-- Cell `q` of a pass beat, row by row, is written with its flags. -/
def landCell (now : Nat) (it : PathItem) (a : ArrayState) (q : Nat) : ArrayState :=
  let p := passFields it.word
  let c := cellOf p it (it.bRec.getD []) (a.accum it.acc (8 * (q / p.n) + q % p.n)) (q / p.n) (q % p.n)
  (a.setAccum it.acc (8 * (q / p.n) + q % p.n) c.1).raiseFlags now c.2

theorem landItem_zero {it : PathItem} (a : ArrayState) (now : Nat) (h : it.kind = .zero) :
    a.landItem now it = (List.range 64).foldl (fun a e => a.setAccum it.acc e 0) a := by
  unfold ArrayState.landItem
  rw [h]

theorem landItem_load {it : PathItem} (a : ArrayState) (now : Nat) (h : it.kind = .load) :
    a.landItem now it = (List.range 64).foldl (fun a e => a.setAccum it.acc e (it.load[e]?.getD 0)) a := by
  unfold ArrayState.landItem
  rw [h]

theorem landItem_pass {it : PathItem} (a : ArrayState) (now : Nat) (h : it.kind = .pass) :
    a.landItem now it = (List.range ((passFields it.word).m * (passFields it.word).n)).foldl (landCell now it) a := by
  unfold ArrayState.landItem
  rw [h]
  rfl

theorem passFields_m_le (w : BitVec 128) : (passFields w).m ≤ 8 := Nat.mod_lt _ (by decide)
theorem passFields_n_le (w : BitVec 128) : (passFields w).n ≤ 8 := Nat.mod_lt _ (by decide)

/-- What cell (i, j) of a pass beat holds when its first `q` cells have been written. -/
def cellAfter (it : PathItem) (a : ArrayState) (q i j : Nat) : Word32 :=
  if j < (passFields it.word).n ∧ i * (passFields it.word).n + j < q then
    (cellOf (passFields it.word) it (it.bRec.getD []) (a.accum it.acc (8 * i + j)) i j).1
  else a.accum it.acc (8 * i + j)

/-- The first `q` cells of a pass beat have been written to `a`, which has become `b`. -/
structure CellsLanded (now : Nat) (it : PathItem) (a : ArrayState) (q : Nat) (b : ArrayState) : Prop where
  cells : ∀ i < 8, ∀ j < 8, b.accum it.acc (8 * i + j) = cellAfter it a q i j
  others : ∀ k e, k ≠ it.acc → e < 64 → b.accum k e = a.accum k e
  flags : ∃ fl, FlagsOnly now fl a b

theorem cellsLanded_zero (now : Nat) (it : PathItem) (a : ArrayState) : CellsLanded now it a 0 a where
  cells _ _ _ _ := (if_neg fun h => Nat.not_lt_zero _ h.2).symm
  others _ _ _ _ := rfl
  flags := ⟨0, flagsOnly_refl now a⟩

/-- The next cell is read before it is written, and no other cell changes. -/
theorem CellsLanded.succ {now : Nat} {it : PathItem} {a b : ArrayState} {q : Nat} (h : CellsLanded now it a q b)
    (hq : q < (passFields it.word).m * (passFields it.word).n) : CellsLanded now it a (q + 1) (landCell now it b q) := by
  have hm := passFields_m_le it.word
  have hn := passFields_n_le it.word
  have hi : q / (passFields it.word).n < (passFields it.word).m := Nat.div_lt_of_lt_mul (by rwa [Nat.mul_comm])
  have hj : q % (passFields it.word).n < (passFields it.word).n := Nat.mod_lt _ (Nat.succ_pos _)
  have hplace := Nat.div_add_mod' q (passFields it.word).n
  have hread := h.cells (q / (passFields it.word).n) (by omega) (q % (passFields it.word).n) (by omega)
  obtain ⟨fl, hfl⟩ := h.flags
  unfold cellAfter at hread
  rw [if_neg (by omega)] at hread
  unfold landCell
  simp only
  rw [hread]
  generalize hc : cellOf (passFields it.word) it (it.bRec.getD []) _ _ _ = c
  refine ⟨fun i hi8 j hj8 => ?_, fun k e hk he => ?_, ⟨_, flagsOnly_setAccum hfl _ _ _ _⟩⟩
  · rw [raiseFlags_accum, setAccum_accum _ _ (by omega) (by omega), h.cells i hi8 j hj8]
    by_cases hhere : i = q / (passFields it.word).n ∧ j = q % (passFields it.word).n
    · obtain ⟨rfl, rfl⟩ := hhere
      unfold cellAfter
      rw [if_pos ⟨rfl, rfl⟩, if_pos ⟨hj, by omega⟩, hc]
    · have hnot : ¬(j < (passFields it.word).n ∧ i * (passFields it.word).n + j = q) := by
        rintro ⟨hlt, rfl⟩
        rw [Nat.mul_comm, Nat.mul_add_div (by omega), Nat.mul_add_mod, Nat.div_eq_of_lt hlt, Nat.mod_eq_of_lt hlt] at hhere
        exact hhere ⟨rfl, rfl⟩
      unfold cellAfter
      rw [if_neg (by omega)]
      exact if_congr (by omega) rfl rfl
  · rw [raiseFlags_accum, setAccum_accum _ _ (by omega) he, if_neg fun heq => hk heq.1, h.others k e hk he]

theorem cellsLanded_foldl (now : Nat) (it : PathItem) (a : ArrayState) {q : Nat}
    (hq : q ≤ (passFields it.word).m * (passFields it.word).n) : CellsLanded now it a q ((List.range q).foldl (landCell now it) a) := by
  induction q with
  | zero => exact cellsLanded_zero now it a
  | succ q ih =>
    rw [List.range_succ, List.foldl_append]
    exact (ih (by omega)).succ hq

/-- All cells below M and N have been written. -/
theorem cellAfter_all (it : PathItem) (a : ArrayState) (i j : Nat) :
    cellAfter it a ((passFields it.word).m * (passFields it.word).n) i j =
      if i < (passFields it.word).m ∧ j < (passFields it.word).n then
        (cellOf (passFields it.word) it (it.bRec.getD []) (a.accum it.acc (8 * i + j)) i j).1
      else a.accum it.acc (8 * i + j) := by
  refine if_congr ⟨fun ⟨hj, hlt⟩ => ⟨?_, hj⟩, fun ⟨hi, hj⟩ => ⟨hj, ?_⟩⟩ rfl rfl
  · exact Nat.lt_of_mul_lt_mul_right (lt_of_le_of_lt (Nat.le_add_right _ j) hlt)
  · calc i * (passFields it.word).n + j < (i + 1) * (passFields it.word).n := by rw [Nat.succ_mul]; omega
      _ ≤ _ := Nat.mul_le_mul_right _ hi

/-- What landing an item does to the accumulators and flags, by its kind (R80). -/
structure Landed (now : Nat) (it : PathItem) (a b : ArrayState) : Prop where
  others : ∀ k e, k ≠ it.acc → e < 64 → b.accum k e = a.accum k e
  zero : it.kind = .zero → ∀ e < 64, b.accum it.acc e = 0
  load : it.kind = .load → ∀ e < 64, b.accum it.acc e = it.load[e]?.getD 0
  pass : it.kind = .pass → ∀ i < 8, ∀ j < 8, b.accum it.acc (8 * i + j) =
    if i < (passFields it.word).m ∧ j < (passFields it.word).n then
      (cellOf (passFields it.word) it (it.bRec.getD []) (a.accum it.acc (8 * i + j)) i j).1
    else a.accum it.acc (8 * i + j)
  flags : ∃ fl, (it.kind ≠ .pass → fl = 0) ∧ FlagsOnly now fl a b

theorem landItem_landed (a : ArrayState) (now : Nat) (it : PathItem) : Landed now it a (a.landItem now it) := by
  cases hk : it.kind with
  | zero =>
    rw [landItem_zero a now hk]
    refine ⟨fun k e hke he => ?_, fun _ e he => ?_, fun h => (nomatch hk.symm.trans h), fun h => (nomatch hk.symm.trans h),
      0, fun _ => rfl, foldl_setAccum_flagsOnly now a _ _ _⟩
    · rw [foldl_setAccum_accum a _ _ le_rfl he, if_neg fun h => hke h.1]
    · rw [foldl_setAccum_accum a _ _ le_rfl he, if_pos ⟨rfl, he⟩]
  | load =>
    rw [landItem_load a now hk]
    refine ⟨fun k e hke he => ?_, fun h => (nomatch hk.symm.trans h), fun _ e he => ?_, fun h => (nomatch hk.symm.trans h),
      0, fun _ => rfl, foldl_setAccum_flagsOnly now a _ _ _⟩
    · rw [foldl_setAccum_accum a _ _ le_rfl he, if_neg fun h => hke h.1]
    · rw [foldl_setAccum_accum a _ _ le_rfl he, if_pos ⟨rfl, he⟩]
  | pass =>
    rw [landItem_pass a now hk]
    obtain ⟨hcells, hothers, fl, hfl⟩ := cellsLanded_foldl now it a le_rfl
    exact ⟨hothers, fun h => (nomatch hk.symm.trans h), fun h => (nomatch hk.symm.trans h),
      fun _ i hi j hj => (hcells i hi j hj).trans (cellAfter_all it a i j), fl, fun h => absurd hk h, hfl⟩

end Sys2Proof.Proofs
end

section
/-! O8. The item of the accumulator path that is written, and the drain that is due (R80, R108, R109, R131). -/

namespace Sys2Proof.Proofs

open Sys2Proof Sys2Proof.Machine Sys2Proof.Laws

/-- The place of an item in the order of the path: its issue beat, a pass beat first (R108). -/
def pathRank (it : PathItem) : Nat := 2 * it.issue + if it.kind = .pass then 0 else 1

theorem pathBefore_iff (x y : PathItem) : pathBefore x y = true ↔ pathRank x < pathRank y := by
  unfold pathBefore pathRank
  by_cases hx : x.kind = .pass <;> by_cases hy : y.kind = .pass <;> simp [hx, hy] <;> omega

/-- An item that has come to the end of its beat t+15; a pass beat has its B record by then. -/
def landsBy (pb : Nat) (it : PathItem) : Bool := decide (it.issue + 15 ≤ pb) && (it.kind != .pass || it.bRec.isSome)

theorem landsBy_iff (pb : Nat) (it : PathItem) :
    landsBy pb it = true ↔ it.issue + 15 ≤ pb ∧ (it.kind = .pass → it.bRec ≠ none) := by
  simp [landsBy, Option.isSome_iff_ne_none, or_iff_not_imp_left]

/-- The array of which an item has left the path, with what it held at the start of the beat. -/
def pathTaken (s : State) (g : Nat) (it : PathItem) : ArrayState :=
  { s.array g with path := (s.array g).path.erase it }.keepStart s.sched

/-- The item that is written is one that no other due item precedes. -/
theorem execAccumulatorWrite_first {g : ArrayId} {s : State} (hrun : s.runs = true) (hdue : ∃ it ∈ (s.array g).path, landsBy s.pbeat it = true) :
    ∃ it ∈ (s.array g).path, landsBy s.pbeat it = true ∧
      (∀ x ∈ (s.array g).path, landsBy s.pbeat x = true → pathBefore x it = false) ∧
      execAccumulatorWrite g s = ok (s.setArray g ((pathTaken s g it).landItem s.sched it)) := by
  cases hlist : (s.array g).path.filter (landsBy s.pbeat) with
  | nil =>
    obtain ⟨it, hit, hlands⟩ := hdue
    exact absurd (List.mem_filter.mpr ⟨hit, hlands⟩) (hlist ▸ List.not_mem_nil)
  | cons d ds =>
    have hleast := argmin_cons_eq_foldl pathRank ds d
    rw [← hlist] at hleast
    have hfound := List.mem_filter.mp (List.argmin_mem hleast)
    refine ⟨_, hfound.1, hfound.2, fun x hx hlands => Bool.eq_false_iff.mpr fun hbefore => ?_, ?_⟩
    · exact absurd ((pathBefore_iff _ _).mp hbefore) (Nat.not_lt.mpr (List.le_of_mem_argmin (List.mem_filter.mpr ⟨hx, hlands⟩) hleast))
    · unfold landsBy at hlist
      unfold execAccumulatorWrite pathTaken
      simp only [hlist, hrun, pathBefore_iff]

theorem pathTaken_accum (s : State) (g : Nat) (it : PathItem) : (pathTaken s g it).accum = (s.array g).accum := rfl

/-- The accumulators that a drain of this beat reads are those of its start (R81). -/
theorem pathTaken_accStart (s : State) (g : Nat) (it : PathItem) :
    (pathTaken s g it).accStart = some (s.sched, ((s.array g).atStart s.sched).acc) := by
  unfold pathTaken ArrayState.keepStart ArrayState.atStart
  cases (s.array g).accStart with
  | none => rfl
  | some x => simp only; split <;> rfl

theorem raiseFlags_rest (a : ArrayState) (now : Nat) (f : BitVec 6) : (a.raiseFlags now f).accStart = a.accStart ∧ (a.raiseFlags now f).path = a.path := by
  unfold ArrayState.raiseFlags
  split <;> exact ⟨rfl, rfl⟩

theorem FlagsOnly.accStart {now : Nat} {fl : BitVec 6} {a b : ArrayState} (h : FlagsOnly now fl a b) : b.accStart = a.accStart :=
  (congrArg ArrayState.accStart h :).trans (raiseFlags_rest a now fl).1

theorem FlagsOnly.path {now : Nat} {fl : BitVec 6} {a b : ArrayState} (h : FlagsOnly now fl a b) : b.path = a.path :=
  (congrArg ArrayState.path h :).trans (raiseFlags_rest a now fl).2

theorem atStart_of_kept {a : ArrayState} {now : Nat} {m : SMap Word32} (h : a.accStart = some (now, m)) : (a.atStart now).acc = m := by
  unfold ArrayState.atStart
  simp only [h, if_true]

/-- But for accumulators, path and what is kept of the start, the flags alone differ. -/
theorem flagsOnly_pathTaken {s : State} {g : Nat} {it : PathItem} {fl : BitVec 6} {b : ArrayState}
    (h : FlagsOnly s.sched fl (pathTaken s g it) b) : { b with acc := [], path := [], accStart := none } =
      { (s.array g).raiseFlags s.sched fl with acc := [], path := [], accStart := none } := by
  have hrest := congrArg (fun x : ArrayState => { x with path := [], accStart := none }) h
  refine hrest.trans ?_
  unfold pathTaken ArrayState.keepStart ArrayState.raiseFlags
  split <;> rfl

/-! ### The drain that is due -/

/-- The state once array `g` has taken its oldest drain out, and the writes that the drain then makes. -/
def drainTaken (s : State) (g : Nat) (ds : List DrainItem) : State := s.setArray g { s.array g with drains := ds }

def drainWrites (d : DrainItem) : List (Nat × Byte × Bool) := d.writes.map fun w => (w.1, w.2, false)

theorem mem_of_mem_drainWrites {d : DrainItem} {w : Nat × Byte × Bool} (h : w ∈ drainWrites d) : (w.1, w.2.1) ∈ d.writes := by
  obtain ⟨x, hx, rfl⟩ := List.mem_map.mp h
  exact hx

theorem mem_drainWrites {d : DrainItem} {a : Nat} {b : Byte} (h : (a, b) ∈ d.writes) : (a, b, false) ∈ drainWrites d :=
  List.mem_map.mpr ⟨_, h, rfl⟩

theorem execDrainOutputWrite_due {g : ArrayId} {s : State} {d : DrainItem} {ds : List DrainItem} (hrun : s.runs = true)
    (hdrains : (s.array g).drains = d :: ds) (hdue : d.due ≤ s.pbeat) :
    execDrainOutputWrite g s = ok ((drainTaken s g ds).writeTier0 3 (drainWrites d)) := by
  unfold execDrainOutputWrite
  simp only [hrun, hdrains, hdue, if_true]
  rfl

theorem writeTier0_array (s : State) (rank : Nat) (ws : List (Nat × Byte × Bool)) (m : Nat) : (s.writeTier0 rank ws).array m = s.array m :=
  (congrArg (fun u : State => u.array m) (writeTier0_frame s rank ws) :)

theorem writeScatter_beatMem (s : State) (ws : List (Nat × Byte × Bool)) : (s.writeScatter ws).beatMem = s.beatMem :=
  (congrArg State.beatMem (writeScatter_memOnly s ws) :)

/-- A write of tier 0 leaves what memory held at the start of the beat (R26). -/
theorem writeTier0_atStart_byte {s : State} (haligned : s.beat.aligned = true) (rank : Nat) (ws : List (Nat × Byte × Bool)) (a : Nat) :
    (s.writeTier0 rank ws).atStart.byte a = s.atStart.byte a := by
  have hkept : (s.writeTier0 rank ws).beatMem = s.keepStart.beatMem := writeScatter_beatMem _ _
  unfold State.atStart
  rw [hkept]
  unfold State.keepStart
  cases h : s.beatMem with
  | none => simp only [haligned, if_true]; rfl
  | some x => simp only [h]; rfl

theorem setArray_atStart_byte (s : State) (g : Nat) (a : ArrayState) (x : Nat) : (s.setArray g a).atStart.byte x = s.atStart.byte x := by
  unfold State.atStart
  cases h : s.beatMem <;> simp only [State.setArray, h] <;> rfl

theorem aligned_of_runs {s : State} (h : s.runs = true) : s.beat.aligned = true := by
  unfold State.runs State.live at h
  simp only [Bool.and_eq_true] at h
  exact h.1.1.1

/-- Settles O8: the first due item lands in its array, and a due drain is a write of tier 0. -/
theorem pathItemsAndDrainsAreWritten : Obligations.PathItemsAndDrainsAreWritten := by
  unfold Obligations.PathItemsAndDrainsAreWritten
  refine ⟨fun g s hrun hdue => ?_, fun g s d ds hrun hdrains hdue hranks => ?_⟩
  · simp only [← landsBy_iff] at hdue
    obtain ⟨it, hit, hlands, hfirst, hexec⟩ := execAccumulatorWrite_first hrun hdue
    obtain ⟨hothers, hzero, hload, hpass, fl, hfl, hflags⟩ := landItem_landed (pathTaken s g it) s.sched it
    refine ⟨_, hexec, it, hit, ((landsBy_iff _ _).mp hlands).1, fun x hx hdue hrec => hfirst x hx ((landsBy_iff _ _).mpr ⟨hdue, hrec⟩), ?_⟩
    simp only [setArray_array_same]
    refine ⟨hflags.path, hothers, hzero, hload, hpass, fun k e => ?_, ⟨fl, hfl, flagsOnly_pathTaken hflags⟩,
      fun m hm => (setArray_array s g _ m).trans (if_neg fun h => hm (Fin.ext h)), onlyArrays_setArray s g _⟩
    unfold ArrayState.accum
    rw [atStart_of_kept (hflags.accStart.trans (pathTaken_accStart s g it))]
  · refine ⟨_, execDrainOutputWrite_due hrun hdrains hdue, ?_, fun m hm => ?_, fun a b hab honly => ?_, fun a hnone => ?_, fun a => ?_, ?_⟩
    · rw [writeTier0_array, drainTaken, setArray_array_same]
    · rw [writeTier0_array, drainTaken, setArray_array, if_neg fun h => hm (Fin.ext h)]
    · exact writeTier0_byte _ _ (fun w hw ha => honly _ (ha ▸ mem_of_mem_drainWrites hw)) (.inr ⟨⟨_, mem_drainWrites hab, rfl⟩, hranks _ hab⟩)
    · exact writeTier0_byte _ _ (fun w hw ha => absurd (ha ▸ mem_of_mem_drainWrites hw) (hnone _)) (.inl rfl)
    · rw [writeTier0_atStart_byte (s := drainTaken s g ds) (aligned_of_runs hrun), drainTaken, setArray_atStart_byte]
    · exact congrArg (fun u : State => { u with arrays := s.arrays }) (writeTier0_frame (drainTaken s g ds) 3 (drainWrites d))

end Sys2Proof.Proofs
end

section
/-! O1, O2. Words that change nothing but the arrays of their gang, and control words (R103, R113, R114, R117, R123-R126). -/

namespace Sys2Proof.Proofs

open Sys2Proof Sys2Proof.Machine Sys2Proof.Laws

theorem arraysMove_beat {s u : State} (h : ArraysMove s u) : u.beat = s.beat := (congrArg State.beat h.1 :)
theorem arraysMove_prog {s u : State} (h : ArraysMove s u) : u.prog = s.prog := (congrArg State.prog h.1 :)

theorem arraysMove_pbeat {s u : State} (h : ArraysMove s u) : u.pbeat = s.pbeat := by
  unfold State.pbeat
  rw [arraysMove_beat h, arraysMove_prog h]

theorem arraysMove_sched {s u : State} (h : ArraysMove s u) : u.sched = s.sched := by
  unfold State.sched
  rw [arraysMove_beat h]

/-- A word whose effect is an update of each member's array issues, where its check passes every word that keeps to its form. -/
theorem gangIssue_of_update {mk : ArrayId → Instr} {op : Nat} {form : State → ArrayState → BitVec 128 → Prop}
    {upd : Nat → Nat → BitVec 128 → ArrayState → ArrayState} {check : State → Nat → BitVec 128 → Option Nat}
    {effect : State → Nat → BitVec 128 → State} (hop : op ≠ 0xF) (hexec : ∀ g s, exec (mk g) s = ok (s.issueWord g op check effect))
    (hcheck : ∀ (s u : State) (m : Nat) (w : BitVec 128), u.prog = s.prog → form s (u.array m) w → sequenceFault (u.array m) op = none →
      lateFault (u.array m) u.pbeat op = none → check u m w = none)
    (heffect : ∀ u m w, effect u m w = u.setArray m (upd u.pbeat u.sched w (u.array m))) : GangIssue mk op form upd := by
  intro g s w h hform
  have hissue := issueWord_gang s g op w check effect (ArraysMove s)
    (fun m a => a = upd s.pbeat s.sched w ((s.array m).issued s.pbeat)) h hop (arraysMove_countFetch s _ _)
    (fun u hu => arraysMove_pbeat hu) (fun u m a hu => arraysMove_setArray hu m a) (fun m hm u hu ha => ?_) (fun m hm u hu ha => ?_)
  · obtain ⟨hmove, hgang, hothers⟩ := hissue
    exact ⟨_, hexec g s, hgang, hothers, hmove⟩
  · refine hcheck s u m w (arraysMove_prog hu) (ha ▸ hform m hm) (ha ▸ offers_sequence h hm) ?_
    rw [ha, arraysMove_pbeat hu]
    exact offers_late h hm
  · rw [heffect, ha, arraysMove_pbeat hu, arraysMove_sched hu]
    exact ⟨arraysMove_setArray hu m _, setArray_array_same u m _, fun j hj => by rw [setArray_array, if_neg hj]⟩

/-- A word with only field rules of its own passes its check where it keeps to them. -/
theorem plainCheck_none {op m : Nat} {bad : ArrayState → BitVec 128 → Bool} {u : State} {w : BitVec 128} (hform : bad (u.array m) w = false)
    (hseq : sequenceFault (u.array m) op = none) (hlate : lateFault (u.array m) u.pbeat op = none) : plainCheck op bad u m w = none := by
  simp [plainCheck, hform, hseq, hlate]

theorem loopSel_isSome {loops : List LoopLevel} {en lvl : Nat} (h : en = 0 ∨ lvl < loops.length) : (loopSel loops en lvl).isSome = true := by
  unfold loopSel
  split
  · rfl
  · rw [List.getElem?_eq_getElem (h.resolve_left ‹_›)]
    rfl

theorem bitOf_ofNat {n i : Nat} (x : Nat) (hi : i < n) : bitOf (BitVec.ofNat n x) i = x.testBit i := by
  rw [bitOf, BitVec.toNat_ofNat, Nat.testBit_mod_two_pow, decide_eq_true hi, Bool.true_and]

/-- A `STREAM` passes where its phases are no servant's and no other stream's, and no descriptor is next (R113, R126, R128). -/
theorem streamCheck_none {s u : State} {m : Nat} {w : BitVec 128} (hprog : u.prog = s.prog)
    (hform : fld w 121 120 = 0 ∧ fld w 69 50 ≠ 0 ∧ fld w 49 0 = 0 ∧
      (∀ ph < 16, (fld w 119 104).testBit ph = true → servantPhase s.prog.plan.toNat ph = false) ∧
      (∀ x ∈ otherMasks (u.array m) (fld w 123 122), x &&& BitVec.ofNat 16 (fld w 119 104) = 0) ∧
      (SMap.get {} (u.array m).streams (fld w 123 122)).next = none)
    (hseq : sequenceFault (u.array m) 2 = none) (hlate : lateFault (u.array m) u.pbeat 2 = none) : streamCheck u m w = none := by
  obtain ⟨hres, hcount, hlow, hservant, hothers, hnext⟩ := hform
  have hfree : ((List.range 16).any fun ph => bitOf (BitVec.ofNat 16 (fld w 119 104)) ph && servantPhase u.prog.plan.toNat ph) = false := by
    rw [List.any_eq_false]
    intro ph hph hboth
    obtain ⟨hbit, hserves⟩ := (Bool.and_eq_true _ _).mp hboth
    have hlt := List.mem_range.mp hph
    rw [bitOf_ofNat _ hlt] at hbit
    rw [hprog, hservant ph hlt hbit] at hserves
    exact Bool.false_ne_true hserves
  have hclear : (otherMasks (u.array m) (fld w 123 122)).any (fun x => decide (x &&& BitVec.ofNat 16 (fld w 119 104) ≠ 0)) = false := by
    rw [List.any_eq_false]
    intro x hx
    simp [hothers x hx]
  unfold streamCheck
  simp only [hfree, hclear, hres, hcount, hlow, hnext, hseq, hlate]
  rfl

/-- Settles O1: each of the seven words is an update of its members' arrays. -/
theorem arrayWordsIssueForTheirGang : Obligations.ArrayWordsIssueForTheirGang := by
  unfold Obligations.ArrayWordsIssueForTheirGang
  refine ⟨?nop, ?dummy, ?zero, ?stream, ?freewheel, ?park, ?endWord⟩
  case nop =>
    refine gangIssue_of_update (by decide) (fun _ _ => rfl) (fun s u m w _ hform => plainCheck_none ?_) fun _ _ _ => rfl
    simp [hform.1, hform.2]
  case dummy =>
    refine gangIssue_of_update (by decide) (fun _ _ => rfl) (fun s u m w _ hform => plainCheck_none ?_) fun _ _ _ => rfl
    obtain ⟨hrows, hcount, hlow⟩ := hform
    simp [hcount, hlow, hrows]
  case zero =>
    refine gangIssue_of_update (by decide) (fun _ _ => rfl) (fun s u m w _ hform => plainCheck_none ?_) fun _ _ _ => rfl
    simp [hform.1, loopSel_isSome hform.2]
  case stream =>
    refine gangIssue_of_update (by decide) (fun _ _ => rfl) (fun s u m w hprog hform => streamCheck_none hprog hform) fun u m w => ?_
    simp only [Option.isNone_iff_eq_none]
  case freewheel =>
    refine gangIssue_of_update (by decide) (fun _ _ => rfl) (fun s u m w _ hform => plainCheck_none ?_) fun _ _ _ => rfl
    simp [hform.1, hform.2]
  case park =>
    refine gangIssue_of_update (by decide) (fun _ _ => rfl) (fun s u m w _ hform => plainCheck_none ?_) fun _ _ _ => rfl
    simp [hform.1, hform.2]
  case endWord =>
    refine gangIssue_of_update (by decide) (fun _ _ => rfl) (fun s u m w _ hform => plainCheck_none ?_) fun _ _ _ => rfl
    simp [hform]

/-! ### LOOP and ENDLOOP (R103, R117) -/

/-- An array whose sequencer has moved to a word and a nest of loops, with a run of control words so far. -/
def movedTo (pc : Nat) (loops : List LoopLevel) (run : Nat) (a : ArrayState) : ArrayState := { a with pc := pc, loops := loops, controlRun := run }

/-- A good control word moves every member of the gang to where it leads. -/
theorem controlWord_moves {s : State} {g op pc : Nat} {w : BitVec 128} {loops : List LoopLevel} (h : s.atControl g op w)
    (hgood : controlFault s g (s.array g).pc (s.array g).loops = none)
    (hnext : controlNext s g (s.array g).pc (s.array g).loops = (pc, loops)) :
    (∀ m ∈ s.members g, (s.controlWord g op).array m = { s.array m with pc := pc, loops := loops, controlRun := (s.array g).controlRun + 1 }) ∧
      (∀ m, m ∉ s.members g → (s.controlWord g op).array m = s.array m) ∧ ArraysMove s (s.controlWord g op) := by
  obtain ⟨hport, hpc, rfl, hop, hrun⟩ := h
  have hword : s.controlWord g op = (s.members g).foldl
      (fun u m => u.setArray m (movedTo pc loops ((s.array g).controlRun + 1) (u.array m))) (s.countFetch (passAddr g (s.array g).pc) 16) := by
    simp [State.controlWord, movedTo, hport, hop, hgood, hnext, Nat.not_le.mpr hpc, Nat.not_le.mpr hrun]
  have hfetched (m : Nat) : (s.countFetch (passAddr g (s.array g).pc) 16).array m = s.array m := memOnly_array (countFetch_memOnly s _ _) m
  obtain ⟨hmove, hgang, hothers⟩ := foldl_arrays (ArraysMove s)
    (fun u m => u.setArray m (movedTo pc loops ((s.array g).controlRun + 1) (u.array m)))
    (fun m a => a = movedTo pc loops ((s.array g).controlRun + 1) (s.array m)) s (s.members g) _ (members_nodup s g)
    (arraysMove_countFetch s _ _) (fun m _ => hfetched m) fun m _ u hu ha =>
      ⟨arraysMove_setArray hu m _, by rw [setArray_array_same, ha], fun j hj => by rw [setArray_array, if_neg hj]⟩
  rw [hword]
  exact ⟨hgang, fun m hm => (hothers m hm).trans (hfetched m), hmove⟩

/-- A `LOOP` with a good end index and a word to repeat breaks no rule where its level fits (R117). -/
theorem controlFault_loop {s : State} {g e : Nat} {w : BitVec 128} (h : s.atControl g 6 w) (he : fld w 103 94 = e) (hlow : fld w 37 0 = 0)
    (hafter : (s.array g).pc < e) (hend : opcodeOf (s.passWord g e) = 7) (hinside : ∀ l, (s.array g).loops.getLast? = some l → e < l.endIdx)
    (hbody : ∃ k, (s.array g).pc < k ∧ k < e ∧ isControl (s.passWord g k) = false)
    (hfits : fld w 123 104 = 0 ∨ (s.array g).loops.length < 4) : controlFault s g (s.array g).pc (s.array g).loops = none := by
  obtain ⟨-, -, hw, hop, -⟩ := h
  have hlevel : ((s.array g).loops.getLast?.map fun l => decide (l.endIdx ≤ e)).getD false = false := by
    cases hlast : (s.array g).loops.getLast? with
    | none => rfl
    | some l => simpa using hinside l hlast
  have hwork : ((List.range (e - (s.array g).pc - 1)).all fun k => isControl (s.passWord g ((s.array g).pc + 1 + k))) = false := by
    obtain ⟨k, hfirst, hlast, hk⟩ := hbody
    refine List.all_eq_false.mpr ⟨k - ((s.array g).pc + 1), List.mem_range.mpr (by omega), ?_⟩
    rw [Nat.add_sub_cancel' (by omega), hk]
    exact Bool.false_ne_true
  have hroom : ¬(fld w 123 104 ≠ 0 ∧ 4 ≤ (s.array g).loops.length) := fun hfull => by omega
  simp [controlFault, hw, hop, he, hlow, Nat.not_le.mpr hafter, hend, hlevel, hwork, hroom]

theorem controlFault_endloop {s : State} {g : Nat} {w : BitVec 128} {l : LoopLevel} (h : s.atControl g 7 w) (hform : fld w 123 0 = 0)
    (hlast : (s.array g).loops.getLast? = some l) (hend : l.endIdx = (s.array g).pc) :
    controlFault s g (s.array g).pc (s.array g).loops = none := by
  obtain ⟨-, -, hw, hop, -⟩ := h
  simp [controlFault, hw, hop, hform, hlast, hend]

theorem controlNext_endloop {s : State} {g : Nat} {w : BitVec 128} {l : LoopLevel} (h : s.atControl g 7 w)
    (hlast : (s.array g).loops.getLast? = some l) : controlNext s g (s.array g).pc (s.array g).loops =
      if l.idx + 1 < l.count then (l.start, (s.array g).loops.dropLast ++ [{ l with idx := l.idx + 1 }])
      else ((s.array g).pc + 1, (s.array g).loops.dropLast) := by
  obtain ⟨-, -, hw, hop, -⟩ := h
  simp [controlNext, hw, hop, hlast]

/-- Settles O2: the word that a gang is at breaks no rule, and where it leads is where every member goes. -/
theorem loopWordsMoveTheSequencers : Obligations.LoopWordsMoveTheSequencers := by
  unfold Obligations.LoopWordsMoveTheSequencers
  refine ⟨fun g s w e h he hlow hafter hend hinside hbody => ⟨fun hnone => ?_, fun hcount hdepth => ?_⟩,
    fun g s w l h hform hlast hend => ⟨fun hagain => ?_, fun hdone => ?_⟩⟩
  · refine ⟨_, rfl, controlWord_moves h (controlFault_loop h he hlow hafter hend hinside hbody (.inl hnone)) ?_⟩
    obtain ⟨-, -, hw, hop, -⟩ := h
    simp [controlNext, hw, hop, he, hnone]
  · refine ⟨_, rfl, controlWord_moves h (controlFault_loop h he hlow hafter hend hinside hbody (.inr hdepth)) ?_⟩
    obtain ⟨-, -, hw, hop, -⟩ := h
    simp [controlNext, hw, hop, he, hcount]
  · refine ⟨_, rfl, controlWord_moves h (controlFault_endloop h hform hlast hend) ?_⟩
    rw [controlNext_endloop h hlast, if_pos hagain]
  · refine ⟨_, rfl, controlWord_moves h (controlFault_endloop h hform hlast hend) ?_⟩
    rw [controlNext_endloop h hlast, if_neg (Nat.not_lt.mpr hdone)]

end Sys2Proof.Proofs
end

section
/-! O14. Flits of lanes at their router (R136, R137, R142, R255, R260, R274). -/

namespace Sys2Proof.Proofs

open Sys2Proof Sys2Proof.Machine Sys2Proof.Laws

/-- Nothing but router `r` differs, and it has become `a`. -/
theorem routerBecomes_setRouter (s : State) (r : Nat) (a : RouterState) :
    (s.setRouter r a).router r = a ∧ (∀ n, n ≠ r → (s.setRouter r a).router n = s.router n) ∧
      { s.setRouter r a with routers := s.routers } = s :=
  ⟨setRouter_router_same s r a, fun n hn => by rw [setRouter_router, if_neg hn], rfl⟩

theorem execChaxelFlitPresent_due {r : RouterId} {q : PortName} {s : State} {x : PortName × Nat × Nat × Flit} (hlive : s.live = true)
    (hdue : (s.router r).window.find? (fun x => x.1 == q && decide (x.2.1 ≤ s.sched)) = some x) :
    execChaxelFlitPresent r q s = ok (s.setRouter r { s.router r with
      window := (s.router r).window.erase x, inputs := (s.router r).inputs ++ [(q, s.sched, x.2.2.2)] }) := by
  simp only [execChaxelFlitPresent, hdue, hlive, if_true]

theorem execLightplaneFifoInbound_enters {r : RouterId} {q : PortName} {s : State} (f : Flit) (hlane : onLightplane r q = true)
    (hroom : ((s.router r).fifoIn.filter fun x => x.port == q).length < 64)
    (hopen : s.crossingShut (.fab (Fin.ofNat 4 (r.val / 512))) = false) (hfree : s.inwardFree r q = true) :
    execLightplaneFifoInbound r q f s = ok (s.setRouter r { s.router r with
      fifoIn := (s.router r).fifoIn ++ [{ port := q, ready := 0, kind := if bitOf f.tag 8 then .write else .read, flit := f
                                          home := (r, q), sent := some s.wall }] }) := by
  simp only [execLightplaneFifoInbound, hlane, hroom, hopen, hfree, decide_true, Bool.not_false, Bool.and_self, if_true]

/-- Settles O14: either command is one update of its router. -/
theorem laneFlitsReachTheirRouter : Obligations.LaneFlitsReachTheirRouter := by
  unfold Obligations.LaneFlitsReachTheirRouter
  refine ⟨fun r q s x hlive hdue => ⟨_, execChaxelFlitPresent_due hlive hdue, routerBecomes_setRouter _ _ _⟩,
    fun r q f s hlane hroom hopen hfree =>
      ⟨_, execLightplaneFifoInbound_enters f hlane hroom hopen hfree, routerBecomes_setRouter _ _ _⟩⟩

end Sys2Proof.Proofs
end

section
/-! O43. What the issue of an instruction does to its spoke (R176, R180, R181, R204). -/

namespace Sys2Proof.Proofs

open Sys2Proof Sys2Proof.Machine Sys2Proof.Laws

/-- An operation on memory that leaves the words and their marks as they were changes at most the counts of checks. -/
theorem checksOnly_of_memOnly {s t : State} (h : MemOnly s t) (hmem : t.mem = s.mem) (hecc : t.ecc = s.ecc) : ChecksOnly s t := by
  unfold MemOnly at h
  rwa [← hmem, ← hecc] at h

theorem countFetch_checksOnly (s : State) (a n : Nat) : ChecksOnly s (s.countFetch a n) :=
  checksOnly_of_memOnly (countFetch_memOnly s a n) rfl rfl

/-- The state in which the instruction at `PC` has been fetched. -/
def fetchedAt (s : State) (p : Nat) : State := s.countFetch (scratchBase p + (s.spoke p).pc.toNat) 4

theorem fetchedAt_checksOnly (s : State) (p : Nat) : ChecksOnly s (fetchedAt s p) :=
  countFetch_checksOnly s (scratchBase p + (s.spoke p).pc.toNat) 4

/-- The spoke past the instruction that issues. -/
def steppedSpoke (s : State) (p : Nat) : SpokeState := { s.spoke p with pc := (s.spoke p).pc + 4, nextIssue := s.pbeat + 1 }

section
variable {s t : State} (h : ChecksOnly s t)
include h

theorem spoke_of_checksOnly (q : Nat) : t.spoke q = s.spoke q := (congrArg (fun u : State => u.spoke q) h :)
theorem beat_of_checksOnly : t.beat = s.beat := (congrArg State.beat h :)
theorem pbeat_of_checksOnly : t.pbeat = s.pbeat := (congrArg State.pbeat h :)

end

theorem fetchedAt_spoke (s : State) (p q : Nat) : (fetchedAt s p).spoke q = s.spoke q := spoke_of_checksOnly (fetchedAt_checksOnly s p) q
theorem fetchedAt_beat (s : State) (p : Nat) : (fetchedAt s p).beat = s.beat := beat_of_checksOnly (fetchedAt_checksOnly s p)
theorem fetchedAt_pbeat (s : State) (p : Nat) : (fetchedAt s p).pbeat = s.pbeat := pbeat_of_checksOnly (fetchedAt_checksOnly s p)

/-- Of the spokes only `p` differs and it has become `a`; nothing else but the counts of a fetch whose word is marked. -/
structure SpokeBecomes (s t : State) (p : SpokeId) (a : SpokeState) : Prop where
  spoke : t.spoke p = a
  others : OnlySpoke s t p
  frame : { t.countsOf s with spokes := s.spokes } = s

theorem SpokeBecomes.moved {s t : State} {p : SpokeId} {a : SpokeState} (h : SpokeBecomes s t p a) : SpokeMoved s t p a.pc a.nextIssue :=
  ⟨by rw [h.spoke], by rw [h.spoke], h.others, h.frame⟩

theorem spokeBecomes_fetched (s : State) (p : SpokeId) : SpokeBecomes s (fetchedAt s p) p (s.spoke p) where
  spoke := fetchedAt_spoke s p p
  others := ⟨fun q _ => fetchedAt_spoke s p q, fun h => by rw [fetchedAt, countFetch_unmarked s _ _ h]; exact ⟨rfl, rfl⟩⟩
  frame := (congrArg (fun u : State => { u with spokes := s.spokes }) (fetchedAt_checksOnly s p) :)

theorem SpokeBecomes.setSpoke {s t : State} {p : SpokeId} {a : SpokeState} (h : SpokeBecomes s t p a) (b : SpokeState) :
    SpokeBecomes s (t.setSpoke p b) p b where
  spoke := setSpoke_spoke_same t p b
  others := ⟨fun q hq => by rw [setSpoke_spoke, if_neg hq, h.others.1 q hq], h.others.2⟩
  frame := h.frame

section
variable {s : State} {p : SpokeId} {op fn unused : Nat} {srcs : List Nat} {w : Word32} {f : IssueForm} (h : s.spokeAt p op fn unused srcs w)
  (hop : f.op = op) (hfn : f.fns.contains fn = true) (hzero : f.zero = unused) (hsrcs : f.srcs w = srcs)
include h hop hfn hzero hsrcs

/-- The instruction at the free port of a spoke comes to its own check. -/
theorem issueSpoke_checked (effect : State → Word32 → State) : s.issueSpoke p f effect =
    (f.check s (s.spoke p) w).elim (effect ((fetchedAt s p).setSpoke p (steppedSpoke s p)) w) fun x => (fetchedAt s p).spokeFault x.1 p x.2.1 x.2.2 := by
  obtain ⟨hfree, halign, hfirst, hlast, rfl, hspoke, hready, hbits⟩ := h
  have hplace : ¬((s.spoke p).pc.toNat % 4 ≠ 0 ∨ (s.spoke p).pc.toNat < codeFirst (s.spoke p).layout ∨
      codeEnd (s.spoke p).layout ≤ (s.spoke p).pc.toNat) := by omega
  have hform : ¬(op ≠ f.op ∨ (!f.fns.contains fn) = true) := by rw [hop, hfn]; simp
  have hstall : ¬((f.srcs (s.spokeWord p)).any fun r => !(s.spoke p).readyBy s.pbeat r) = true := by
    rw [hsrcs, List.any_eq_true]
    rintro ⟨r, hr, hnot⟩
    rw [hready r hr] at hnot
    exact Bool.false_ne_true hnot
  have hzeros : ¬(s.spokeWord p).toNat &&& f.zero ≠ 0 := by rw [hzero]; exact not_not.mpr hbits
  unfold State.issueSpoke
  dsimp only
  rw [if_neg (by simp [hfree]), if_neg hplace, hspoke]
  dsimp only
  rw [if_neg hform, if_neg hstall, if_neg hzeros]
  cases f.check s (s.spoke p) (s.spokeWord p) <;> rfl

/-- An instruction whose own check it passes does its effect on its spoke, past it. -/
theorem issueOwn_becomes (effect : Nat → SpokeState → Word32 → SpokeState) (hgood : f.check s (s.spoke p) w = none) :
    SpokeBecomes s (s.issueOwn p f effect) p (effect s.pbeat (steppedSpoke s p) w) := by
  rw [State.issueOwn, issueSpoke_checked h hop hfn hzero hsrcs, hgood, Option.elim_none, setSpoke_spoke_same, setSpoke_pbeat, fetchedAt_pbeat]
  exact ((spokeBecomes_fetched s p).setSpoke _).setSpoke _

theorem issueSpoke_faulted (effect : State → Word32 → State) {code ctr val : Nat} (hbad : f.check s (s.spoke p) w = some (code, ctr, val)) :
    s.issueSpoke p f effect = (fetchedAt s p).spokeFault code p ctr val := by
  rw [issueSpoke_checked h hop hfn hzero hsrcs, hbad, Option.elim_some]

end

/-- What differs from a state by its reports and spokes differs so from one that differs from that by counts of checks. -/
theorem reportsOf_checked {s u t : State} (h : { OnlyReportsOf u t with spokes := u.spokes } = u) (hu : ChecksOnly s u) :
    { OnlyReportsOf s t with spokes := s.spokes } = s :=
  (congrArg (fun x : State => { OnlyReportsOf s x with spokes := s.spokes }) h :).trans
    (congrArg (fun x : State => { OnlyReportsOf s x with spokes := s.spokes }) hu :)

/-- A fault of a fetched instruction is recorded and faults its spoke, and changes nothing else (R201, R202). -/
theorem spokeFault_fetched (s : State) (p : SpokeId) (code ctr val : Nat) : SpokeFaulted s ((fetchedAt s p).spokeFault code p ctr val) p code := by
  obtain ⟨hrec, hmode, hothers, hframe⟩ := faultInstr_faulted (fetchedAt s p) code p ((fetchedAt s p).spoke p).pc.toNat ctr val
  have hspoke : ((fetchedAt s p).spokeFault code p ctr val).spoke p = { (fetchedAt s p).spoke p with
      mode := 3, runBeats := ((fetchedAt s p).spoke p).runBeats + BitVec.ofNat 32 ((fetchedAt s p).runSpent p true) } := by
    unfold State.spokeFault State.faultInstr State.spoke
    rw [raiseFault_spokes]
    exact get_set_same _ _ _ _
  refine ⟨faultRecorded_congr hrec ?_ ?_ rfl rfl, hmode, ?_, fun q hq => (hothers q hq).trans (fetchedAt_spoke s p q), ?_⟩
  · rw [fetchedAt_beat]
  · rw [fetchedAt_beat]
  · rw [hspoke, fetchedAt_spoke]
  · exact reportsOf_checked hframe (fetchedAt_checksOnly s p)

end Sys2Proof.Proofs
end

section
/-! O43. Loads and stores in flight, branches and jumps (R109, R176, R177, R181). -/

namespace Sys2Proof.Proofs

open Sys2Proof Sys2Proof.Machine Sys2Proof.Laws

/-! ### Registers and loads in flight -/

/-- A write of a scalar register cancels every load in flight to it. -/
theorem overwrite_scalar_loads (a : SpokeState) (rd : Nat) :
    (a.overwrite false rd 0xFFFF).loads = a.loads.map fun l => if l.vec = false ∧ l.reg = rd then { l with lanes := 0 } else l := by
  have hnone (x : BitVec 16) : x &&& ~~~(0xFFFF : BitVec 16) = 0 := BitVec.and_zero
  simp only [SpokeState.overwrite, hnone]

theorem loads_map_x0 (ls : List LoadItem) :
    (ls.map fun l => if l.vec = false ∧ l.reg = 0 ∧ (0 : Nat) ≠ 0 then { l with lanes := 0 } else l) = ls := by
  simp

section
variable (a : SpokeState) {rd : Nat} (v : Word32) (at_ : Nat)

theorem setX_x0 : a.setX 0 v at_ = a := rfl

theorem setX_of_ne (h : rd ≠ 0) : a.setX rd v at_ =
    { a.overwrite false rd 0xFFFF with x := SMap.set 0 a.x rd v, ready := SMap.set 0 a.ready rd at_ } := if_neg h

end

/-- Where a spoke is as a write of an x register leaves it, but for where it is and issues next, the register has its value. -/
theorem spokeX_of_setX {s t : State} {p : SpokeId} {rd at_ : Nat} {v : Word32}
    (h : { t.spoke p with pc := 0, nextIssue := 0 } = { (s.spoke p).setX rd v at_ with pc := 0, nextIssue := 0 }) : SpokeX s t p rd v at_ := by
  have hx (n : Nat) : (t.spoke p).xr n = ((s.spoke p).setX rd v at_).xr n := (congrArg (fun a : SpokeState => a.xr n) h :)
  have hready : (t.spoke p).ready = ((s.spoke p).setX rd v at_).ready := (congrArg SpokeState.ready h :)
  have hloads : (t.spoke p).loads = ((s.spoke p).setX rd v at_).loads := (congrArg SpokeState.loads h :)
  have hrest := congrArg (fun a : SpokeState => { a with x := [], ready := [], loads := [] }) h
  unfold SpokeX
  by_cases hrd : rd = 0
  · subst hrd
    rw [setX_x0] at hx hready hloads hrest
    exact ⟨fun n => by simp [hx], fun r => by simp [hready], by rw [hloads, loads_map_x0], hrest⟩
  · rw [setX_of_ne _ _ _ hrd] at hx hready hloads hrest
    refine ⟨fun n => ?_, fun r => ?_, ?_, hrest⟩
    · rw [hx]
      by_cases hn : n = 0
      · subst hn
        rw [if_neg fun hcond => hrd hcond.1.symm]
        rfl
      · simp [SpokeState.xr, hn, hrd, get_set]
    · simp [hready, get_set, hrd]
    · have hlist := overwrite_scalar_loads (s.spoke p) rd
      simpa [hrd] using hloads.trans hlist

/-! ### Loads -/

theorem spokeAddrBad_false {layout : Word32} {p a n align off : Nat} {far : Bool} (h : spokeAddr p a n = some (off, far)) (ha : a % align = 0) :
    spokeAddrBad layout p a n align false = false := by
  simp [spokeAddrBad, h, ha]

theorem SpokeBecomes.of_eq {s t : State} {p : SpokeId} {a b : SpokeState} (h : SpokeBecomes s t p a) (hab : a = b) : SpokeBecomes s t p b := hab ▸ h

/-- A spoke with one more load in flight, of `n` bytes to x register `rd`. -/
def loadStarted (rd n : Nat) (signed : Bool) (off : Nat) (far : Bool) (pb : Nat) (a : SpokeState) : SpokeState :=
  let a1 := if rd = 0 then a else { a.overwrite false rd 0xFFFF with ready := SMap.set 0 a.ready rd (pb + if far then 5 else 3) }
  { a1 with loads := a1.loads ++ [{ readAt := pb + if far then 2 else 1, addr := off, size := n, signed := signed,
                                    vec := false, reg := rd, sel := 1, lanes := if rd = 0 then 0 else 1 }] }

section
variable (rd n : Nat) (signed : Bool) (off : Nat) (far : Bool) (pb : Nat) (a : SpokeState)

theorem loadStarted_ready (r : Nat) : SMap.get 0 (loadStarted rd n signed off far pb a).ready r =
    if r = rd ∧ rd ≠ 0 then pb + (if far then 5 else 3) else SMap.get 0 a.ready r := by
  by_cases hrd : rd = 0 <;> simp [loadStarted, hrd, get_set]

theorem loadStarted_loads : (loadStarted rd n signed off far pb a).loads =
    (a.loads.map fun l => if l.vec = false ∧ l.reg = rd ∧ rd ≠ 0 then { l with lanes := 0 } else l) ++
      [{ readAt := pb + (if far then 2 else 1), addr := off, size := n, signed := signed, vec := false, reg := rd, sel := 1
         lanes := if rd = 0 then 0 else 1 }] := by
  by_cases hrd : rd = 0
  · subst hrd
    rw [loads_map_x0]
    rfl
  · have hlist := overwrite_scalar_loads a rd
    simp only [loadStarted, hrd, if_false, hlist, ne_eq, not_false_eq_true, and_true]

theorem loadStarted_rest : { loadStarted rd n signed off far pb a with ready := [], loads := [] } = { a with ready := [], loads := [] } := by
  unfold loadStarted
  split <;> rfl

theorem loadStarted_place : (loadStarted rd n signed off far pb a).pc = a.pc ∧ (loadStarted rd n signed off far pb a).nextIssue = a.nextIssue := by
  unfold loadStarted
  split <;> exact ⟨rfl, rfl⟩

end

/-- A load of `n` bytes keeps to its form. -/
theorem scalarLoad_of_issueLoad {mk : SpokeId → Instr} {op n : Nat} {signed : Bool}
    (hexec : ∀ p s, exec (mk p) s = ok (s.issueLoad p op n signed)) : ScalarLoad mk op n signed := by
  intro p s w h
  refine ⟨fun hbad => ⟨_, hexec p s, ?_⟩, fun off far haddr halign => ⟨_, hexec p s, ?_⟩⟩
  · rw [State.issueLoad, State.issueOwn, issueSpoke_faulted h rfl rfl rfl rfl _ (if_pos hbad)]
    exact spokeFault_fetched s p _ _ _
  · have hb : SpokeBecomes s (s.issueLoad p op n signed) p (loadStarted (fld w 25 21) n signed off far s.pbeat (steppedSpoke s p)) := by
      refine (issueOwn_becomes h rfl rfl rfl rfl _ (if_neg (ne_true_of_eq_false (spokeAddrBad_false haddr halign)))).of_eq ?_
      simp only [show spokeAddr p (addrI (steppedSpoke s p) w) n = some (off, far) from haddr]
      rfl
    have hplace := loadStarted_place (fld w 25 21) n signed off far s.pbeat (steppedSpoke s p)
    refine ⟨?_, fun r => ?_, ?_, ?_⟩
    · have hmoved := hb.moved
      rwa [hplace.1, hplace.2] at hmoved
    · rw [hb.spoke, loadStarted_ready]
      rfl
    · rw [hb.spoke, loadStarted_loads]
      rfl
    · rw [hb.spoke]
      exact congrArg (fun a : SpokeState => { a with pc := 0, nextIssue := 0 }) (loadStarted_rest _ n signed off far _ (steppedSpoke s p))

/-! ### Stores -/

theorem leBytes_getElem? {n : Nat} : ∀ {i : Nat} (v : Nat), i < n → (leBytes n v)[i]? = some (BitVec.ofNat 8 (v / 256 ^ i)) := by
  induction n with
  | zero => exact fun _ h => absurd h (Nat.not_lt_zero _)
  | succ n ih =>
    intro i v h
    cases i with
    | zero => simp [leBytes]
    | succ i => rw [leBytes, List.getElem?_cons_succ, ih _ (by omega), Nat.div_div_eq_div_mul, Nat.pow_succ']

/-- A store of `n` bytes keeps to its form. -/
theorem scalarStore_of_issueStore {mk : SpokeId → Instr} {op n : Nat} (hexec : ∀ p s, exec (mk p) s = ok (s.issueStore p op n)) :
    ScalarStore mk op n := by
  intro p s w h
  refine ⟨fun hbad => ⟨_, hexec p s, ?_⟩, fun off far hgood haddr => ⟨_, hexec p s, ?_⟩⟩
  · rw [State.issueStore, State.issueOwn, issueSpoke_faulted h rfl rfl rfl rfl _ (if_pos hbad)]
    exact spokeFault_fetched s p _ _ _
  · have hb : SpokeBecomes s (s.issueStore p op n) p { steppedSpoke s p with
        stores := (s.spoke p).stores ++ [{ due := s.pbeat + (if far then 2 else 1), addr := off
                                           bytes := (leBytes n ((s.spoke p).xr (fld w 25 21)).toNat).zipIdx.map fun x => (off + x.2, x.1) }] } := by
      refine (issueOwn_becomes h rfl rfl rfl rfl _ (if_neg (ne_true_of_eq_false hgood))).of_eq ?_
      simp only [show spokeAddr p (addrI (steppedSpoke s p) w) n = some (off, far) from haddr]
      rfl
    refine ⟨hb.moved, ⟨_, by rw [hb.spoke], ?_, ?_⟩, by rw [hb.spoke]; rfl⟩
    · have hplaces := congrArg (List.map (off + ·)) (List.zipIdx_map_snd 0 (leBytes n ((s.spoke p).xr (fld w 25 21)).toNat))
      rw [leBytes_length, ← List.range_eq_range', List.map_map] at hplaces
      rw [List.map_map]
      exact hplaces
    · rw [List.map_map]
      exact List.zipIdx_map_fst 0 _

/-! ### Branches and jumps -/

theorem branch_of_issueBranch {mk : SpokeId → Instr} {op : Nat} {c : Word32 → Word32 → Prop} {c' : Word32 → Word32 → Bool}
    (hexec : ∀ p s, exec (mk p) s = ok (s.issueBranch p op c')) (hc : ∀ a b, c' a b = true ↔ c a b) : Branch mk op c := by
  intro p s w h
  have hb (a : SpokeState) (ha : (if c' ((s.spoke p).xr (fld w 25 21)) ((s.spoke p).xr (fld w 20 16)) then
      { steppedSpoke s p with pc := (s.spoke p).pc + 4 - 4 + BitVec.ofInt 32 (4 * sext 16 (fld w 15 0)), nextIssue := s.pbeat + 3 }
      else steppedSpoke s p) = a) : SpokeBecomes s (s.issueBranch p op c') p a :=
    (issueOwn_becomes h rfl rfl rfl rfl _ rfl).of_eq ha
  refine ⟨fun htaken => ⟨_, hexec p s, ?_⟩, fun hnot => ⟨_, hexec p s, ?_⟩⟩
  · have hb := hb _ (if_pos ((hc _ _).mpr htaken))
    have hmoved := hb.moved
    rw [BitVec.add_sub_cancel] at hmoved
    exact ⟨hmoved, by rw [hb.spoke]; rfl⟩
  · have hb := hb _ (if_neg (mt (hc _ _).mp hnot))
    exact ⟨hb.moved, by rw [hb.spoke]; rfl⟩

/-- A spoke that jumps: the register holds where the next instruction stands. -/
def jumped (s : State) (p rd : Nat) (target : Word32) : SpokeState :=
  { (s.spoke p).setX rd ((s.spoke p).pc + 4) (s.pbeat + 1) with pc := target, nextIssue := s.pbeat + 3 }

theorem jumped_stepped (s : State) (p rd : Nat) (target : Word32) :
    { (steppedSpoke s p).setX rd (steppedSpoke s p).pc (s.pbeat + 1) with pc := target, nextIssue := s.pbeat + 3 } = jumped s p rd target := by
  unfold jumped SpokeState.setX
  split <;> rfl

theorem jumps {s t : State} {p : SpokeId} {rd : Nat} {target : Word32} (h : SpokeBecomes s t p (jumped s p rd target)) :
    SpokeMoved s t p target (s.pbeat + 3) ∧ SpokeX s t p rd ((s.spoke p).pc + 4) (s.pbeat + 1) :=
  ⟨h.moved, spokeX_of_setX (by rw [h.spoke]; rfl)⟩

/-! ### VLD and VST -/

/-- Lanes of a v register that a load in flight writes are ready in their beat, the others as before. -/
theorem readyLanes_laneReady (a : SpokeState) (vd : Nat) (ls : BitVec 16) (at_ n : Nat) {i : Nat} (hi : i < 16) :
    (a.readyLanes vd ls at_).laneReady n i = if n = vd ∧ bitOf ls i then at_ else a.laneReady n i := by
  by_cases hn : n = vd <;> simp [SpokeState.readyLanes, SpokeState.laneReady, get_set, hn, hi]

/-- A spoke with one more vector load in flight. -/
def vectorLoadStarted (vd : Nat) (ls : BitVec 16) (off : Nat) (far : Bool) (pb : Nat) (a : SpokeState) : SpokeState :=
  let a1 := (a.overwrite true vd ls).readyLanes vd ls (pb + if far then 5 else 3)
  { a1 with loads := a1.loads ++ [{ readAt := pb + if far then 2 else 1, addr := off, size := 64, signed := false,
                                    vec := true, reg := vd, sel := ls, lanes := ls }] }

theorem execVld_issues {p : SpokeId} {s : State} {w : Word32} (h : s.spokeAt p 0x18 0 0 [fld w 21 17, 48 + fld w 16 14] w) :
    let a := addrM (s.spoke p) w
    (spokeAddrBad (s.spoke p).layout p a 64 4 false = true → Answers (.vld p) s fun t => SpokeFaulted s t p 0x18) ∧
      (∀ off far, spokeAddr p a 64 = some (off, far) → a % 4 = 0 → Answers (.vld p) s fun t =>
        SpokeBecomes s t p (vectorLoadStarted (fld w 25 22) ((s.spoke p).pr (fld w 16 14)) off far s.pbeat (steppedSpoke s p))) := by
  refine ⟨fun hbad => ⟨_, rfl, ?_⟩, fun off far haddr halign => ⟨_, rfl, ?_⟩⟩
  · rw [State.issueOwn, issueSpoke_faulted h rfl rfl rfl rfl _ (if_pos hbad)]
    exact spokeFault_fetched s p _ _ _
  · refine (issueOwn_becomes h rfl rfl rfl rfl _ (if_neg (ne_true_of_eq_false (spokeAddrBad_false haddr halign)))).of_eq ?_
    simp only [show spokeAddr p (addrM (steppedSpoke s p) w) 64 = some (off, far) from haddr]
    rfl

/-- The bytes that a vector store writes: those of the lanes that its predicate selects. -/
def storedLanes (v : BitVec 512) (pg : BitVec 16) (off : Nat) : List (Nat × Byte) :=
  (leBytes 64 v.toNat).zipIdx.filterMap fun x => if bitOf pg (x.2 / 4) then some (off + x.2, x.1) else none

theorem mem_storedLanes {v : BitVec 512} {pg : BitVec 16} {off : Nat} {b : Nat × Byte} : b ∈ storedLanes v pg off ↔
    ∃ i < 64, bitOf pg (i / 4) = true ∧ b = (off + i, BitVec.ofNat 8 (v.toNat / 256 ^ i)) := by
  unfold storedLanes
  rw [List.mem_filterMap]
  constructor
  · rintro ⟨⟨x, i⟩, hx, hb⟩
    rw [List.mk_mem_zipIdx_iff_getElem?] at hx
    have hi : i < 64 := leBytes_length 64 v.toNat ▸ (List.getElem?_eq_some_iff.mp hx).1
    rw [leBytes_getElem? _ hi, Option.some.injEq] at hx
    obtain ⟨hsel, hb⟩ := Option.ite_none_right_eq_some.mp hb
    cases hb
    exact ⟨i, hi, hsel, by rw [hx]⟩
  · rintro ⟨i, hi, hsel, rfl⟩
    exact ⟨(_, i), List.mk_mem_zipIdx_iff_getElem?.mpr (leBytes_getElem? _ hi), if_pos hsel⟩

theorem execVst_issues {p : SpokeId} {s : State} {w : Word32} (h : s.spokeAt p 0x19 0 0 [fld w 21 17, 32 + fld w 25 22, 48 + fld w 16 14] w) :
    let a := addrM (s.spoke p) w
    (spokeAddrBad (s.spoke p).layout p a 64 4 true = true → Answers (.vst p) s fun t => SpokeFaulted s t p 0x18) ∧
      (∀ off far, spokeAddrBad (s.spoke p).layout p a 64 4 true = false → spokeAddr p a 64 = some (off, far) → Answers (.vst p) s fun t =>
        SpokeBecomes s t p { steppedSpoke s p with
          stores := (s.spoke p).stores ++ [{ due := s.pbeat + (if far then 2 else 1), addr := off
                                             bytes := storedLanes ((s.spoke p).vr (fld w 25 22)) ((s.spoke p).pr (fld w 16 14)) off }] }) := by
  refine ⟨fun hbad => ⟨_, rfl, ?_⟩, fun off far hgood haddr => ⟨_, rfl, ?_⟩⟩
  · rw [State.issueOwn, issueSpoke_faulted h rfl rfl rfl rfl _ (if_pos hbad)]
    exact spokeFault_fetched s p _ _ _
  · refine (issueOwn_becomes h rfl rfl rfl rfl _ (if_neg (ne_true_of_eq_false hgood))).of_eq ?_
    simp only [show spokeAddr p (addrM (steppedSpoke s p) w) 64 = some (off, far) from haddr]
    rfl

/-! ### The end of a store's beat (R109, R177) -/

/-- The first write of a beat keeps what memory and its marks held, and a later one leaves that (R26). -/
theorem writeTier0_atStart {s : State} (haligned : s.beat.aligned = true) (rank : Nat) (ws : List (Nat × Byte × Bool)) :
    (s.writeTier0 rank ws).atStart.mem = s.atStart.mem ∧ (s.writeTier0 rank ws).atStart.ecc = s.atStart.ecc := by
  have hkept : (s.writeTier0 rank ws).beatMem = s.keepStart.beatMem := writeScatter_beatMem _ _
  unfold State.atStart
  rw [hkept]
  unfold State.keepStart
  cases h : s.beatMem with
  | none => simp only [haligned, if_true, and_self]
  | some x => simp only [h, and_self]

theorem setSpoke_atStart (s : State) (p : Nat) (a : SpokeState) :
    (s.setSpoke p a).atStart.mem = s.atStart.mem ∧ (s.setSpoke p a).atStart.ecc = s.atStart.ecc := by
  unfold State.atStart
  cases h : s.beatMem <;> simp only [State.setSpoke, h, and_self]

theorem writeTier0_spoke (s : State) (rank : Nat) (ws : List (Nat × Byte × Bool)) (q : Nat) : (s.writeTier0 rank ws).spoke q = s.spoke q :=
  (congrArg (fun u : State => u.spoke q) (writeTier0_frame s rank ws) :)

/-- A byte that a port of higher rank has written in the beat keeps its value (R109). -/
theorem writeTier0_outranked {s : State} {rank a : Nat} (ws : List (Nat × Byte × Bool)) (h : rank < SMap.get 0 s.t0Writes a) :
    (s.writeTier0 rank ws).byte a = s.byte a := by
  refine foldl_writeWordBytes_byte (fun w hw ha => ?_) _ s.keepStart (.inl ?_)
  · have hrank := of_decide_eq_true (List.mem_filter.mp hw).2
    rw [ha] at hrank
    omega
  · unfold State.byte
    rw [keepStart_mem]

/-- The state when a spoke has written the one store that is due. -/
def storeWritten (s : State) (p : Nat) (x : StoreItem) : State :=
  (s.writeTier0 1 (x.bytes.map fun b => (b.1, b.2, false))).setSpoke p
    { s.spoke p with stores := (s.spoke p).stores.filter fun x => decide (s.pbeat < x.due) }

theorem execSpokeStoreWrite_due {p : SpokeId} {s : State} {x : StoreItem} (hrun : s.runs = true)
    (hdue : (s.spoke p).stores.filter (fun x => decide (x.due ≤ s.pbeat)) = [x]) : execSpokeStoreWrite p s = ok (storeWritten s p x) := by
  unfold execSpokeStoreWrite storeWritten
  rw [if_pos hrun, hdue]
  simp only [List.foldl_cons, List.foldl_nil, writeTier0_spoke]

theorem storeWritten_inside (s : State) (p : Nat) {x : StoreItem} (hnodup : (x.bytes.map (·.1)).Nodup) {a : Nat} {b : Byte} (hab : (a, b) ∈ x.bytes) :
    (storeWritten s p x).byte a = if SMap.get 0 s.t0Writes a ≤ 1 then b else s.byte a := by
  split
  case isTrue hrank =>
    refine writeTier0_byte s 1 (fun w hw ha => ?_) (.inr ⟨⟨_, List.mem_map.mpr ⟨_, hab, rfl⟩, rfl⟩, hrank⟩)
    obtain ⟨y, hy, rfl⟩ := List.mem_map.mp hw
    have hyb : y = (a, b) := List.inj_on_of_nodup_map hnodup hy hab ha
    rw [hyb]
  case isFalse hrank => exact writeTier0_outranked _ (Nat.not_le.mp hrank)

theorem storeWritten_outside (s : State) (p : Nat) {x : StoreItem} {a : Nat} (ha : ∀ b, (a, b) ∉ x.bytes) :
    (storeWritten s p x).byte a = s.byte a := by
  refine writeTier0_byte s 1 (fun w hw hwa => ?_) (.inl rfl)
  obtain ⟨y, hy, rfl⟩ := List.mem_map.mp hw
  exact absurd (hwa ▸ hy) (ha y.2)

/-- Settles O43: every access is an update of its spoke where its address is good and a fault where it is not, a branch moves its spoke
alone, and the store that is due is a write of tier 0. -/
theorem loadsStoresAndBranches : Obligations.LoadsStoresAndBranches := by
  unfold Obligations.LoadsStoresAndBranches
  refine ⟨scalarLoad_of_issueLoad fun _ _ => rfl, scalarLoad_of_issueLoad fun _ _ => rfl, scalarLoad_of_issueLoad fun _ _ => rfl,
    scalarLoad_of_issueLoad fun _ _ => rfl, scalarLoad_of_issueLoad fun _ _ => rfl, scalarStore_of_issueStore fun _ _ => rfl,
    scalarStore_of_issueStore fun _ _ => rfl, scalarStore_of_issueStore fun _ _ => rfl, fun p s w h => ?vld, fun p s w h => ?vst,
    fun p s x hrun hdue hnodup => ?write,
    branch_of_issueBranch (fun _ _ => rfl) fun _ _ => beq_iff_eq, branch_of_issueBranch (fun _ _ => rfl) fun _ _ => bne_iff_ne,
    branch_of_issueBranch (fun _ _ => rfl) fun _ _ => decide_eq_true_iff, branch_of_issueBranch (fun _ _ => rfl) fun _ _ => decide_eq_true_iff,
    branch_of_issueBranch (fun _ _ => rfl) fun _ _ => decide_eq_true_iff, branch_of_issueBranch (fun _ _ => rfl) fun _ _ => decide_eq_true_iff,
    fun p s w h => ?jal, fun p s w h => ?jalr⟩
  case vld =>
    obtain ⟨hbad, hgood⟩ := execVld_issues h
    refine ⟨hbad, fun off far haddr halign => ?_⟩
    obtain ⟨t, ht, hb⟩ := hgood off far haddr halign
    exact ⟨t, ht, hb.moved, fun n i hi => by rw [hb.spoke]; exact readyLanes_laneReady _ _ _ _ n hi, by rw [hb.spoke]; rfl, by rw [hb.spoke]; rfl⟩
  case vst =>
    obtain ⟨hbad, hgood⟩ := execVst_issues h
    refine ⟨hbad, fun off far hmap haddr => ?_⟩
    obtain ⟨t, ht, hb⟩ := hgood off far hmap haddr
    refine ⟨t, ht, hb.moved, ⟨_, by rw [hb.spoke], fun i hi hsel => mem_storedLanes.mpr ⟨i, hi, hsel, rfl⟩, fun b hmem => ?_⟩, by rw [hb.spoke]; rfl⟩
    obtain ⟨i, hi, hsel, rfl⟩ := mem_storedLanes.mp hmem
    exact ⟨i, hi, hsel, rfl⟩
  case write =>
    refine ⟨_, execSpokeStoreWrite_due hrun hdue, fun a b => storeWritten_inside s p hnodup, fun a => storeWritten_outside s p,
      setSpoke_spoke_same _ _ _, fun q hq => ?_, fun haligned => ?_, ?_⟩
    · rw [storeWritten, setSpoke_spoke, if_neg hq, writeTier0_spoke]
    · obtain ⟨hmem, hecc⟩ := writeTier0_atStart haligned 1 (x.bytes.map fun b => (b.1, b.2, false))
      obtain ⟨hmem', hecc'⟩ := setSpoke_atStart (s.writeTier0 1 (x.bytes.map fun b => (b.1, b.2, false))) p
        { s.spoke p with stores := (s.spoke p).stores.filter fun x => decide (s.pbeat < x.due) }
      exact ⟨hmem'.trans hmem, hecc'.trans hecc⟩
    · exact congrArg (fun u : State => { u with spokes := s.spokes }) (writeTier0_frame s 1 (x.bytes.map fun b => (b.1, b.2, false)))
  case jal =>
    refine ⟨_, rfl, jumps ((issueOwn_becomes h rfl rfl rfl rfl _ rfl).of_eq ((jumped_stepped s p 31 _).trans ?_))⟩
    rw [steppedSpoke, BitVec.add_sub_cancel]
  case jalr =>
    exact ⟨_, rfl, jumps ((issueOwn_becomes h rfl rfl rfl rfl _ rfl).of_eq (jumped_stepped s p (fld w 25 21) _))⟩

end Sys2Proof.Proofs
end

section
/-! O15. The paths of the transit lane, and the flits that enter the tracks of a crossing (R141-R144, R323). -/

namespace Sys2Proof.Proofs

open Sys2Proof Sys2Proof.Machine Sys2Proof.Laws

/-! ### Paths (Table 1.4) -/

theorem transitPath_nodup (src dst : Nat) : (transitPath src dst).Nodup := by
  have hback (l : List (Nat × Bool)) (h : l.Nodup) : (l.map fun x => (x.1, !x.2)).reverse.Nodup := by
    refine List.nodup_reverse.mpr (h.map fun a b hab => ?_)
    obtain ⟨hx, hd⟩ := Prod.mk.injEq .. ▸ hab
    exact Prod.ext hx (Bool.not_inj hd)
  unfold transitPath
  extract_lets fwd
  have hfwd : fwd.Nodup := by
    unfold fwd
    split <;> decide
  split
  · exact hfwd
  · exact hback fwd hfwd

/-- The crossing after one on a path is another. -/
theorem afterIn_ne {c b : Nat × Bool} {l : List (Nat × Bool)} (hl : l.Nodup) (h : afterIn c l = some b) : b ≠ c := by
  induction l with
  | nil => cases h
  | cons x l ih =>
    cases l with
    | nil => cases h
    | cons y rest =>
      obtain ⟨hx, hrest⟩ := List.nodup_cons.mp hl
      unfold afterIn at h
      split at h
      case isTrue hxc =>
        cases h
        rintro rfl
        exact hx (hxc ▸ List.mem_cons_self)
      case isFalse => exact ih hrest h

/-- The crossing before one on a path is another. -/
theorem beforeIn_ne {c b : Nat × Bool} {l : List (Nat × Bool)} (hl : l.Nodup) (h : beforeIn c l = some b) : b ≠ c := by
  induction l with
  | nil => cases h
  | cons x l ih =>
    cases l with
    | nil => cases h
    | cons y rest =>
      obtain ⟨hx, hrest⟩ := List.nodup_cons.mp hl
      unfold beforeIn at h
      split at h
      case isTrue hyc =>
        cases h
        rintro rfl
        exact hx (hyc ▸ List.mem_cons_self)
      case isFalse => exact ih hrest h

theorem wayNo_injective : Function.Injective wayNo := by
  rintro ⟨x, d⟩ ⟨y, e⟩ h
  cases d <;> cases e <;> simp [wayNo] at h ⊢ <;> omega

theorem wayNo_halves (x : Nat) (dir : Bool) : (wayNo (x, dir) / 2, wayNo (x, dir) % 2 == 1) = (x, dir) := by
  cases dir <;> simp [wayNo]; omega

theorem nextWay_ne {me : Nat × Bool} {way m : Nat} (h : nextWay me way = some m) : m ≠ wayNo me := by
  obtain ⟨b, hb, rfl⟩ := Option.map_eq_some_iff.mp h
  exact fun he => afterIn_ne (transitPath_nodup _ _) hb (wayNo_injective he)

theorem before_wayNo_ne {me b : Nat × Bool} {src dst : Nat} (h : beforeIn me (transitPath src dst) = some b) : wayNo b ≠ wayNo me :=
  fun he => beforeIn_ne (transitPath_nodup _ _) h (wayNo_injective he)

/-! ### The flit that leaves next -/

/-- Which flit leaves a transit buffer next depends on the buffer, on what is on its way to it, and on the other crossings. -/
theorem nextFlit_congr {s u : State} {me : Nat × Bool} (hbuffer : (u.crossing (wayNo me)).buffer = (s.crossing (wayNo me)).buffer)
    (hcoming : (u.crossing (wayNo me)).coming = (s.crossing (wayNo me)).coming) (hothers : ∀ m, m ≠ wayNo me → u.crossing m = s.crossing m) :
    u.nextFlit me = s.nextFlit me := by
  have hbehind : u.behind me = s.behind me := by
    funext way
    unfold State.behind
    split
    case h_1 b hb => rw [hothers _ (before_wayNo_ne hb)]
    case h_2 => exact hcoming
  unfold State.nextFlit
  rw [hbuffer, hbehind]

theorem firstOf_iff (y : TransitFlit) (xs : List TransitFlit) : firstOf y xs = true ↔ ∀ z ∈ xs, z.way = y.way → y.no ≤ z.no := by
  simp [firstOf, List.all_eq_true, imp_iff_not_or]

theorem nextFlit_first {s : State} {me : Nat × Bool} {y : TransitFlit} (h : s.nextFlit me = some y) :
    y ∈ (s.crossing (wayNo me)).buffer ∧ ∀ z ∈ (s.crossing (wayNo me)).buffer, z.way = y.way → y.no ≤ z.no := by
  have hfirst := List.find?_some h
  simp only [Bool.and_eq_true] at hfirst
  exact ⟨List.mem_of_find?_eq_some h, (firstOf_iff _ _).mp hfirst.1⟩

/-! ### Flits enter the tracks -/

/-- From `s` to `t`, `j` flits of a crossing direction have left its buffer for the tracks, each against a credit; nothing else differs. -/
structure Entered (me : Nat × Bool) (s t : State) (j : Nat) : Prop where
  length : (t.crossing (wayNo me)).buffer.length + j = (s.crossing (wayNo me)).buffer.length
  freed : (t.crossing (wayNo me)).freed = (s.crossing (wayNo me)).freed + j
  sublist : (t.crossing (wayNo me)).buffer.Sublist (s.crossing (wayNo me)).buffer
  onTrack : (s.crossing (wayNo me)).onTrack ⊆ (t.crossing (wayNo me)).onTrack
  leaving : (s.crossing (wayNo me)).leaving ⊆ (t.crossing (wayNo me)).leaving
  coming : (t.crossing (wayNo me)).coming = (s.crossing (wayNo me)).coming
  movedAt : (t.crossing (wayNo me)).movedAt = (s.crossing (wayNo me)).movedAt
  own : (t.crossing (wayNo me)).used = (s.crossing (wayNo me)).used
  used : ∀ m, (s.crossing m).used ≤ (t.crossing m).used
  exitUsed : (s.crossing (wayNo me)).exitUsed ≤ (t.crossing (wayNo me)).exitUsed
  others : ∀ m, m ≠ wayNo me → { t.crossing m with used := 0 } = { s.crossing m with used := 0 }
  frame : { t with crossings := s.crossings } = s

theorem entered_refl (me : Nat × Bool) (s : State) : Entered me s s 0 :=
  ⟨rfl, rfl, List.Sublist.refl _, List.Subset.refl _, List.Subset.refl _, rfl, rfl, rfl, fun _ => le_rfl, le_rfl, fun _ _ => rfl, rfl⟩

theorem entered_trans {me : Nat × Bool} {s t u : State} {i j : Nat} (h : Entered me s t i) (k : Entered me t u j) : Entered me s u (i + j) where
  length := by have := h.length; have := k.length; omega
  freed := by rw [k.freed, h.freed, Nat.add_assoc]
  sublist := k.sublist.trans h.sublist
  onTrack := List.Subset.trans h.onTrack k.onTrack
  leaving := List.Subset.trans h.leaving k.leaving
  coming := k.coming.trans h.coming
  movedAt := k.movedAt.trans h.movedAt
  own := k.own.trans h.own
  used m := (h.used m).trans (k.used m)
  exitUsed := h.exitUsed.trans k.exitUsed
  others m hm := (k.others m hm).trans (h.others m hm)
  frame := (congrArg (fun x : State => { x with crossings := s.crossings }) k.frame :).trans h.frame

/-- A crossing direction when flit `y` has left its buffer for track `k`, in wall beat `wall`. -/
def entersTrack (c : Crossing) (wall k : Nat) (y : TransitFlit) (t : CrossingState) : CrossingState :=
  let t1 : CrossingState := { t with buffer := t.buffer.erase y, freed := t.freed + 1 }
  if c.hops k ≤ 1 then { t1 with leaving := t1.leaving ++ [{ y with track := k, at_ := wall + 14 }] }
  else { t1 with onTrack := t1.onTrack ++ [{ y with track := k, at_ := 1 }] }

/-- The state when that flit has left, and its credit is spent. -/
def entersOne (s : State) (me : Nat × Bool) (k : Nat) (y : TransitFlit) : State :=
  (s.setCrossing (wayNo me) (entersTrack (crossingOf me.1) s.wall k y (s.crossing (wayNo me)))).spendCredit me y.way

theorem enterTracks_succ {s : State} {me : Nat × Bool} {y : TransitFlit} (fuel k : Nat) (hnext : s.nextFlit me = some y)
    (hcredit : s.holdsCredit me y.way = true) : State.enterTracks (fuel + 1) k s me = State.enterTracks fuel (k + 1) (entersOne s me k y) me := by
  rw [State.enterTracks, hnext]
  simp only [hcredit, if_true]
  rfl

theorem enterTracks_stops {s : State} {me : Nat × Bool} (fuel k : Nat)
    (h : s.nextFlit me = none ∨ ∃ y, s.nextFlit me = some y ∧ s.holdsCredit me y.way = false) : State.enterTracks fuel k s me = s := by
  cases fuel with
  | zero => rfl
  | succ fuel =>
    rw [State.enterTracks]
    rcases h with h | ⟨y, h, hcredit⟩
    · rw [h]
    · simp only [h, hcredit, Bool.false_eq_true, if_false]

section
variable (c : Crossing) (wall k : Nat) (y : TransitFlit) (t : CrossingState)

theorem entersTrack_eq : ∃ ls os, entersTrack c wall k y t =
    { t with buffer := t.buffer.erase y, freed := t.freed + 1, leaving := ls, onTrack := os } ∧ t.leaving ⊆ ls ∧ t.onTrack ⊆ os ∧
      (if c.hops k ≤ 1 then { y with track := k, at_ := wall + 14 } ∈ ls else { y with track := k, at_ := 1 } ∈ os) := by
  unfold entersTrack
  split
  · exact ⟨_, _, rfl, List.subset_append_left _ _, List.Subset.refl _, by simp⟩
  · exact ⟨_, _, rfl, List.Subset.refl _, List.subset_append_left _ _, by simp⟩

end

/-! ### The credit of the place that a flit leaves for -/

section
variable (s : State) (me : Nat × Bool) (way : Nat)

/-- The credit of a place in the FIFO at the end of a path is counted at the crossing itself. -/
theorem spendCredit_own : (s.spendCredit me way).crossing (wayNo me) = { s.crossing (wayNo me) with
    exitUsed := (s.crossing (wayNo me)).exitUsed + if nextWay me way = none then 1 else 0 } := by
  unfold State.spendCredit
  split
  case h_1 m hm => rw [setCrossing_crossing, if_neg (nextWay_ne hm).symm, if_neg (by simp [hm]), Nat.add_zero]
  case h_2 hnone => rw [setCrossing_crossing_same, if_pos hnone]

/-- The credit of a place in the next buffer of a path is counted at its crossing. -/
theorem spendCredit_other {m : Nat} (hm : m ≠ wayNo me) : (s.spendCredit me way).crossing m = { s.crossing m with
    used := (s.crossing m).used + if nextWay me way = some m then 1 else 0 } := by
  unfold State.spendCredit
  split
  case h_1 m' hm' =>
    rw [setCrossing_crossing, hm']
    by_cases h : m = m'
    · rw [if_pos h, h, if_pos rfl]
    · rw [if_neg h, if_neg fun he => h (Option.some.inj he).symm, Nat.add_zero]
  case h_2 hnone => rw [setCrossing_crossing, if_neg hm, hnone, if_neg (by simp), Nat.add_zero]

theorem spendCredit_frame : { s.spendCredit me way with crossings := s.crossings } = s := by
  unfold State.spendCredit
  split <;> rfl

end

/-- What becomes of a flit that enters track `k`, and of its credit. -/
structure FirstEntered (me : Nat × Bool) (s t : State) (k : Nat) (y : TransitFlit) : Prop where
  tracked : if (crossingOf me.1).hops k ≤ 1 then { y with track := k, at_ := s.wall + 14 } ∈ (t.crossing (wayNo me)).leaving
    else { y with track := k, at_ := 1 } ∈ (t.crossing (wayNo me)).onTrack
  credited : ∀ m, nextWay me y.way = some m → (s.crossing m).used < (t.crossing m).used
  exits : nextWay me y.way = none → (s.crossing (wayNo me)).exitUsed < (t.crossing (wayNo me)).exitUsed

theorem entersOne_frame (s : State) (me : Nat × Bool) (k : Nat) (y : TransitFlit) : { entersOne s me k y with crossings := s.crossings } = s :=
  (congrArg (fun u : State => { u with crossings := s.crossings })
    (spendCredit_frame (s.setCrossing (wayNo me) (entersTrack (crossingOf me.1) s.wall k y (s.crossing (wayNo me)))) me y.way) :)

theorem entersOne_entered (s : State) {me : Nat × Bool} (k : Nat) {y : TransitFlit} (hy : y ∈ (s.crossing (wayNo me)).buffer) :
    Entered me s (entersOne s me k y) 1 ∧ FirstEntered me s (entersOne s me k y) k y := by
  obtain ⟨ls, os, htrack, hls, hos, hfirst⟩ := entersTrack_eq (crossingOf me.1) s.wall k y (s.crossing (wayNo me))
  have hown : (entersOne s me k y).crossing (wayNo me) = { s.crossing (wayNo me) with
      buffer := (s.crossing (wayNo me)).buffer.erase y, freed := (s.crossing (wayNo me)).freed + 1, leaving := ls, onTrack := os
      exitUsed := (s.crossing (wayNo me)).exitUsed + if nextWay me y.way = none then 1 else 0 } := by
    rw [entersOne, spendCredit_own, setCrossing_crossing_same, htrack]
  have hother {m : Nat} (hm : m ≠ wayNo me) : (entersOne s me k y).crossing m = { s.crossing m with
      used := (s.crossing m).used + if nextWay me y.way = some m then 1 else 0 } := by
    rw [entersOne, spendCredit_other _ _ _ hm, setCrossing_crossing, if_neg hm]
  have hlength : ((s.crossing (wayNo me)).buffer.erase y).length + 1 = (s.crossing (wayNo me)).buffer.length := by
    rw [List.length_erase_of_mem hy]
    exact Nat.sub_add_cancel (List.length_pos_of_mem hy)
  refine ⟨⟨?_, ?_, ?_, ?_, ?_, ?_, ?_, ?_, fun m => ?_, ?_, fun m hm => ?_, ?_⟩, ⟨?_, fun m hm => ?_, fun hnone => ?_⟩⟩
  case refine_9 =>
    by_cases hm : m = wayNo me
    · rw [hm, hown]
    · rw [hother hm]
      exact Nat.le_add_right _ _
  case refine_11 => rw [hother hm]
  case refine_12 => exact entersOne_frame s me k y
  case refine_14 =>
    rw [hother (nextWay_ne hm), if_pos hm]
    exact Nat.lt_succ_self _
  case refine_15 =>
    rw [hown, if_pos hnone]
    exact Nat.lt_succ_self _
  all_goals rw [hown]
  · exact hlength
  · exact List.erase_sublist
  · exact hos
  · exact hls
  · exact Nat.le_add_right _ _
  · exact hfirst

/-- As many flits as there are tracks enter them at most. -/
theorem enterTracks_entered (fuel : Nat) : ∀ (k : Nat) (s : State) (me : Nat × Bool), ∃ j ≤ fuel, Entered me s (State.enterTracks fuel k s me) j := by
  induction fuel with
  | zero => exact fun k s me => ⟨0, le_rfl, entered_refl me s⟩
  | succ fuel ih =>
    intro k s me
    by_cases h : ∃ y, s.nextFlit me = some y ∧ s.holdsCredit me y.way = true
    · obtain ⟨y, hnext, hcredit⟩ := h
      obtain ⟨j, hj, hrest⟩ := ih (k + 1) (entersOne s me k y) me
      rw [enterTracks_succ fuel k hnext hcredit]
      exact ⟨1 + j, by omega, entered_trans (entersOne_entered s k (nextFlit_first hnext).1).1 hrest⟩
    · rw [enterTracks_stops (fuel + 1) k ?_]
      · exact ⟨0, Nat.zero_le _, entered_refl me s⟩
      · cases hnext : s.nextFlit me with
        | none => exact .inl rfl
        | some y => exact .inr ⟨y, rfl, Bool.eq_false_iff.mpr fun hcredit => h ⟨y, hnext, hcredit⟩⟩

/-- The first of them has its place on track `k` and its credit. -/
theorem enterTracks_first {s : State} {me : Nat × Bool} {y : TransitFlit} (fuel k : Nat) (hnext : s.nextFlit me = some y)
    (hcredit : s.holdsCredit me y.way = true) :
    FirstEntered me s (State.enterTracks (fuel + 1) k s me) k y ∧
      ((State.enterTracks (fuel + 1) k s me).crossing (wayNo me)).buffer.length < (s.crossing (wayNo me)).buffer.length := by
  obtain ⟨hone, hfirst⟩ := entersOne_entered s k (nextFlit_first hnext).1
  obtain ⟨j, -, hrest⟩ := enterTracks_entered fuel (k + 1) (entersOne s me k y) me
  rw [enterTracks_succ fuel k hnext hcredit]
  refine ⟨⟨?_, fun m hm => (hfirst.credited m hm).trans_le (hrest.used m), fun hnone => (hfirst.exits hnone).trans_le hrest.exitUsed⟩, ?_⟩
  · have htracked := hfirst.tracked
    split at htracked
    case isTrue hhops => rw [if_pos hhops]; exact hrest.leaving htracked
    case isFalse hhops => rw [if_neg hhops]; exact hrest.onTrack htracked
  · have hfew := hone.length
    have hrest := hrest.length
    omega

/-! ### A fabric unit sends towards a crossing -/

/-- From `s` to `t` fabric units have sent flits towards the buffer of a crossing direction; nothing else differs. -/
structure SentTo (me : Nat × Bool) (s t : State) : Prop where
  own : { t.crossing (wayNo me) with used := 0, coming := [] } = { s.crossing (wayNo me) with used := 0, coming := [] }
  used : (s.crossing (wayNo me)).used ≤ (t.crossing (wayNo me)).used
  coming : (s.crossing (wayNo me)).coming ⊆ (t.crossing (wayNo me)).coming
  others : ∀ m, m ≠ wayNo me → t.crossing m = s.crossing m
  fabs : ∀ k, { t.fab k with transitOut := [], transitNo := 0 } = { s.fab k with transitOut := [], transitNo := 0 }
  frame : { t with crossings := s.crossings, fabs := s.fabs } = s

theorem sentTo_refl (me : Nat × Bool) (s : State) : SentTo me s s :=
  ⟨rfl, le_rfl, List.Subset.refl _, fun _ _ => rfl, fun _ => rfl, rfl⟩

theorem sentTo_trans {me : Nat × Bool} {s t u : State} (h : SentTo me s t) (k : SentTo me t u) : SentTo me s u where
  own := k.own.trans h.own
  used := h.used.trans k.used
  coming := List.Subset.trans h.coming k.coming
  others m hm := (k.others m hm).trans (h.others m hm)
  fabs j := (k.fabs j).trans (h.fabs j)
  frame := (congrArg (fun x : State => { x with crossings := s.crossings, fabs := s.fabs }) k.frame :).trans h.frame

/-- The flit of die `d` to die `q` that is sent next, on track `k` of the link. -/
def sentFlitOf (s : State) (k d q : Nat) (f : Flit) : TransitFlit :=
  { way := 4 * d + q, no := (s.fab d).transitNo, track := k, at_ := s.wall + 14, flit := f }

/-- The state when it has been sent, and `rest` still wait. -/
def sendsOne (s : State) (me : Nat × Bool) (k d q : Nat) (f : Flit) (rest : List Flit) : State :=
  (s.setFab d { s.fab d with transitOut := SMap.set [] (s.fab d).transitOut q rest, transitNo := (s.fab d).transitNo + 1 }).setCrossing (wayNo me)
    { s.crossing (wayNo me) with used := (s.crossing (wayNo me)).used + 1, coming := (s.crossing (wayNo me)).coming ++ [sentFlitOf s k d q f] }

/-- Lightplane dies whose paths begin with a crossing direction and which have a flit to send over it. -/
def senderTo (s : State) (me : Nat × Bool) : Option (Nat × Nat) :=
  (firstSenders me).find? fun p => !(SMap.get [] (s.fab p.1).transitOut p.2).isEmpty && !s.crossingShut (.fab (Fin.ofNat 4 p.1))

theorem setFab_setCrossing_frame (s : State) (d n : Nat) (b : FabState) (c : CrossingState) :
    { (s.setFab d b).setCrossing n c with crossings := s.crossings, fabs := s.fabs } = s := by
  unfold State.setCrossing State.setFab
  rfl

theorem sendsOne_sent (s : State) (me : Nat × Bool) (k d q : Nat) (f : Flit) (rest : List Flit) : SentTo me s (sendsOne s me k d q f rest) where
  own := by rw [sendsOne, setCrossing_crossing_same]
  used := by rw [sendsOne, setCrossing_crossing_same]; exact Nat.le_succ _
  coming := by rw [sendsOne, setCrossing_crossing_same]; exact List.subset_append_left _ _
  others m hm := by rw [sendsOne, setCrossing_crossing, if_neg hm]; rfl
  fabs j := by
    change { (s.setFab d _).fab j with transitOut := [], transitNo := 0 } = _
    rw [setFab_fab]
    split
    case isTrue h => rw [h]
    case isFalse => rfl
  frame := setFab_setCrossing_frame s _ _ _ _

theorem sendComing_succ {s : State} {me : Nat × Bool} {d q : Nat} {f : Flit} {rest : List Flit} (fuel k : Nat) (hsender : senderTo s me = some (d, q))
    (hqueue : SMap.get [] (s.fab d).transitOut q = f :: rest) (hroom : (s.crossing (wayNo me)).used < 32) :
    State.sendComing (fuel + 1) k s me = State.sendComing fuel (k + 1) (sendsOne s me k d q f rest) me := by
  have hsender : ((firstSenders me).find? fun (d, dst) =>
    !(SMap.get [] (s.fab d).transitOut dst).isEmpty && !s.crossingShut (.fab (Fin.ofNat 4 d))) = some (d, q) := hsender
  rw [State.sendComing]
  simp only [hsender, hqueue, Nat.not_le.mpr hroom, if_false]
  rfl

theorem sendComing_sent (fuel : Nat) : ∀ (k : Nat) (s : State) (me : Nat × Bool), SentTo me s (State.sendComing fuel k s me) := by
  induction fuel with
  | zero => exact fun k s me => sentTo_refl me s
  | succ fuel ih =>
    intro k s me
    rw [State.sendComing]
    split
    case h_1 d q _ =>
      dsimp only
      split
      case h_1 f rest _ =>
        split
        · exact sentTo_refl me s
        · exact sentTo_trans (sendsOne_sent s me k d q f rest) (ih _ _ me)
      case h_2 => exact sentTo_refl me s
    case h_2 => exact sentTo_refl me s

theorem sendComing_first {s : State} {me : Nat × Bool} {d q : Nat} {f : Flit} (fuel k : Nat) (hsender : senderTo s me = some (d, q))
    (hhead : (SMap.get [] (s.fab d).transitOut q).head? = some f) (hroom : (s.crossing (wayNo me)).used < 32) :
    sentFlitOf s k d q f ∈ ((State.sendComing (fuel + 1) k s me).crossing (wayNo me)).coming ∧
      (s.crossing (wayNo me)).used < ((State.sendComing (fuel + 1) k s me).crossing (wayNo me)).used := by
  obtain ⟨rest, hqueue⟩ := List.head?_eq_some_iff.mp hhead
  rw [sendComing_succ fuel k hsender hqueue hroom]
  have hrest := sendComing_sent fuel (k + 1) (sendsOne s me k d q f rest) me
  have hone : (sendsOne s me k d q f rest).crossing (wayNo me) = _ := setCrossing_crossing_same _ _ _
  refine ⟨hrest.coming ?_, Nat.lt_of_lt_of_le ?_ hrest.used⟩
  · rw [hone]
    simp
  · rw [hone]
    exact Nat.lt_succ_self _

end Sys2Proof.Proofs
end

section
/-! O15. The move of a crossing, arrivals in its buffer, and the credits that go back (R143, R144, R260, R274, R323). -/

namespace Sys2Proof.Proofs

open Sys2Proof Sys2Proof.Machine Sys2Proof.Laws

/-! ### A move of a crossing -/

/-- A crossing direction whose flits on the tracks have advanced one hop in wall beat `wall`. -/
def advanced (c : Crossing) (wall : Nat) (t : CrossingState) : CrossingState :=
  let stepped := t.onTrack.map fun y => { y with at_ := y.at_ + 1 }
  { t with
    onTrack := stepped.filter fun y => decide (y.at_ < c.hops y.track)
    leaving := t.leaving ++ (stepped.filter fun y => decide (c.hops y.track ≤ y.at_)).map fun y => { y with at_ := wall + 14 }
    movedAt := some wall }

theorem advanced_hop {c : Crossing} {wall : Nat} {t : CrossingState} {y : TransitFlit} (hy : y ∈ t.onTrack) :
    if c.hops y.track ≤ y.at_ + 1 then { y with at_ := wall + 14 } ∈ (advanced c wall t).leaving
    else { y with at_ := y.at_ + 1 } ∈ (advanced c wall t).onTrack := by
  have hstep : { y with at_ := y.at_ + 1 } ∈ t.onTrack.map fun y => { y with at_ := y.at_ + 1 } := List.mem_map.mpr ⟨y, hy, rfl⟩
  split
  case isTrue h => exact List.mem_append_right _ (List.mem_map.mpr ⟨_, List.mem_filter.mpr ⟨hstep, decide_eq_true h⟩, rfl⟩)
  case isFalse h => exact List.mem_filter.mpr ⟨hstep, decide_eq_true (Nat.not_le.mp h)⟩

/-- The crossing has advanced. -/
def advancedAt (s : State) (me : Nat × Bool) : State :=
  s.setCrossing (wayNo me) (advanced (crossingOf me.1) s.wall (s.crossing (wayNo me)))

/-- Then waiting flits have entered its tracks. -/
def tracksEntered (s : State) (me : Nat × Bool) : State :=
  if s.exitLive (crossingOf me.1) me.2 then State.enterTracks 8 0 (advancedAt s me) me else advancedAt s me

/-- Then fabric units have sent. -/
def crossingMoved (s : State) (me : Nat × Bool) : State :=
  if s.entryLive (crossingOf me.1) me.2 && s.entryFree me then State.sendComing 8 0 (tracksEntered s me) me else tracksEntered s me

theorem crossingMoves_iff (s : State) (c : Crossing) : s.crossingMoves c = true ↔
    s.prog.running = false ∨ s.beat.held = true ∨ (c.first ≤ s.sched % 16 ∧ s.sched % 16 ≤ c.last) := by
  simp [State.crossingMoves, Crossing.phase, or_assoc]

theorem execTransitMove_waits {x : CrossingId} {dir : Bool} {s : State} (h : s.exitFree (x.val, dir) = false ∨
    (s.crossing (wayNo (x.val, dir))).movedAt = some s.wall ∨ s.crossingMoves (crossingOf x) = false) : execTransitMove x dir s = .next s := by
  have hwaits : ¬(s.crossingMoves (crossingOf x) && (s.crossing (wayNo (x.val, dir))).movedAt != some s.wall && s.exitFree (x.val, dir)) = true := by
    rcases h with h | h | h <;> simp [h]
  exact if_neg hwaits

theorem execTransitMove_moves {x : CrossingId} {dir : Bool} {s : State} (hmoves : s.crossingMoves (crossingOf x) = true)
    (hfirst : (s.crossing (wayNo (x.val, dir))).movedAt ≠ some s.wall) (hfree : s.exitFree (x.val, dir) = true) :
    execTransitMove x dir s = .next (crossingMoved s (x.val, dir)) := by
  have hgoes : (s.crossingMoves (crossingOf x) && (s.crossing (wayNo (x.val, dir))).movedAt != some s.wall && s.exitFree (x.val, dir)) = true := by
    simp [hmoves, hfree, hfirst]
  exact (if_pos hgoes).trans rfl

section
variable (s : State) (me : Nat × Bool)

theorem advancedAt_own : (advancedAt s me).crossing (wayNo me) = advanced (crossingOf me.1) s.wall (s.crossing (wayNo me)) :=
  setCrossing_crossing_same _ _ _

theorem advancedAt_other {m : Nat} (hm : m ≠ wayNo me) : (advancedAt s me).crossing m = s.crossing m := by
  rw [advancedAt, setCrossing_crossing, if_neg hm]

theorem advancedAt_used (m : Nat) : ((advancedAt s me).crossing m).used = (s.crossing m).used := by
  by_cases hm : m = wayNo me
  · rw [hm, advancedAt_own]
    rfl
  · rw [advancedAt_other s me hm]

theorem advancedAt_nextFlit : (advancedAt s me).nextFlit me = s.nextFlit me :=
  nextFlit_congr (by rw [advancedAt_own]; rfl) (by rw [advancedAt_own]; rfl) fun _ hm => advancedAt_other s me hm

theorem advancedAt_holdsCredit (way : Nat) : (advancedAt s me).holdsCredit me way = s.holdsCredit me way := by
  unfold State.holdsCredit
  split
  · rw [advancedAt_used]
  · rw [advancedAt_own]
    rfl

theorem tracksEntered_entered : ∃ j ≤ 8, Entered me (advancedAt s me) (tracksEntered s me) j := by
  unfold tracksEntered
  split
  · exact enterTracks_entered 8 0 _ me
  · exact ⟨0, Nat.zero_le _, entered_refl me _⟩

theorem crossingMoved_sent : SentTo me (tracksEntered s me) (crossingMoved s me) := by
  unfold crossingMoved
  split
  · exact sendComing_sent 8 0 _ me
  · exact sentTo_refl me _

end

section
variable {s : State} {me : Nat × Bool}

theorem tracksEntered_first {y : TransitFlit} (hlive : s.exitLive (crossingOf me.1) me.2 = true) (hnext : s.nextFlit me = some y)
    (hcredit : s.holdsCredit me y.way = true) : FirstEntered me (advancedAt s me) (tracksEntered s me) 0 y ∧
      ((tracksEntered s me).crossing (wayNo me)).buffer.length < (s.crossing (wayNo me)).buffer.length := by
  have hfirst := enterTracks_first 7 0 ((advancedAt_nextFlit s me).trans hnext) ((advancedAt_holdsCredit s me y.way).trans hcredit)
  rw [advancedAt_own] at hfirst
  rw [tracksEntered, if_pos hlive]
  exact hfirst

theorem tracksEntered_none (h : s.exitLive (crossingOf me.1) me.2 = false ∨ s.nextFlit me = none ∨
    ∃ y, s.nextFlit me = some y ∧ s.holdsCredit me y.way = false) : tracksEntered s me = advancedAt s me := by
  unfold tracksEntered
  split
  case isTrue hlive =>
    refine enterTracks_stops 8 0 ?_
    simp only [advancedAt_nextFlit, advancedAt_holdsCredit]
    exact h.resolve_left (ne_false_of_eq_true hlive)
  case isFalse => rfl

theorem SentTo.buffer {t : State} (h : SentTo me s t) : (t.crossing (wayNo me)).buffer = (s.crossing (wayNo me)).buffer :=
  (congrArg CrossingState.buffer h.own :)

end

/-! ### Arrivals (R144, R260, R323) -/

/-- The state when flit `y` has come into the buffer of a crossing direction. -/
def buffered (s : State) (n : Nat) (y : TransitFlit) : State := s.setCrossing n { s.crossing n with buffer := (s.crossing n).buffer ++ [y] }

theorem execTransitFlitArrival_sent {x : CrossingId} {dir : Bool} {f : Flit} {s : State} {y : TransitFlit}
    (h : (s.crossing (wayNo (x.val, dir))).coming.find? (fun y => y.flit == f && decide (y.at_ ≤ s.wall)) = some y) :
    execTransitFlitArrival x dir f s = .next (buffered (s.setCrossing (wayNo (x.val, dir)) { s.crossing (wayNo (x.val, dir)) with
      coming := (s.crossing (wayNo (x.val, dir))).coming.erase y }) (wayNo (x.val, dir)) y) := by
  unfold execTransitFlitArrival
  dsimp only
  rw [h]
  rfl

/-- Flit `y` has crossed its link from crossing direction `m`, and goes on through `me`. -/
def cameFrom (s : State) (me : Nat × Bool) (f : Flit) (m : Nat) (y : TransitFlit) : Prop :=
  y ∈ (s.crossing m).leaving ∧ y.flit = f ∧ y.at_ ≤ s.wall ∧ beforeIn me (transitPath (y.way / 4) (y.way % 4)) = some (m / 2, m % 2 == 1)

theorem cameFrom_ne {s : State} {me : Nat × Bool} {f : Flit} {m : Nat} {y : TransitFlit} (h : cameFrom s me f m y) : m ≠ wayNo me := by
  obtain ⟨-, -, -, hbefore⟩ := h
  have hne := before_wayNo_ne hbefore
  have hm : wayNo (m / 2, m % 2 == 1) = m := by
    rcases Nat.mod_two_eq_zero_or_one m with h | h <;> simp [wayNo, h] <;> omega
  rwa [hm] at hne

theorem execTransitFlitArrival_passed {x : CrossingId} {dir : Bool} {f : Flit} {s : State}
    (hnone : ∀ y ∈ (s.crossing (wayNo (x.val, dir))).coming, y.flit = f → s.wall < y.at_) (hsome : ∃ m < 24, ∃ y, cameFrom s (x.val, dir) f m y) :
    ∃ m < 24, ∃ y, cameFrom s (x.val, dir) f m y ∧ execTransitFlitArrival x dir f s =
      .next (buffered (s.setCrossing m { s.crossing m with leaving := (s.crossing m).leaving.erase y }) (wayNo (x.val, dir)) y) := by
  have hcoming : (s.crossing (wayNo (x.val, dir))).coming.find? (fun y => y.flit == f && decide (y.at_ ≤ s.wall)) = none := by
    rw [List.find?_eq_none]
    intro y hy hdue
    simp only [Bool.and_eq_true, beq_iff_eq, decide_eq_true_eq] at hdue
    exact Nat.not_le.mpr (hnone y hy hdue.1) hdue.2
  unfold execTransitFlitArrival
  dsimp only
  rw [hcoming]
  dsimp only
  split
  case h_1 m y hfound =>
    obtain ⟨k, hk, hfound⟩ := List.exists_of_findSome?_eq_some hfound
    obtain ⟨y', hy', he⟩ := Option.map_eq_some_iff.mp hfound
    cases he
    have hdue := List.find?_some hy'
    simp only [Bool.and_eq_true, beq_iff_eq, decide_eq_true_eq] at hdue
    obtain ⟨⟨hflit, hat⟩, hbefore⟩ := hdue
    exact ⟨m, List.mem_range.mp hk, y, ⟨List.mem_of_find?_eq_some hy', hflit, hat, hbefore⟩, rfl⟩
  case h_2 hfound =>
    obtain ⟨m, hm, y, hy, hflit, hat, hbefore⟩ := hsome
    rw [List.findSome?_eq_none_iff] at hfound
    have hmiss := List.find?_eq_none.mp (Option.map_eq_none_iff.mp (hfound m (List.mem_range.mpr hm))) y hy
    exact absurd (by simp [hflit, hat, hbefore]) hmiss

/-! ### Credits (R255, R274) -/

/-- Credits that wait for a lane are never so many that none of as many beats and one more is free. -/
theorem free_beat (credits : List (Nat × Nat × Option Nat)) (l now : Nat) :
    ∃ i < credits.length + 1, (credits.any fun c => c.1 == l && c.2.1 == now + i) = false := by
  by_contra hfull
  have hbusy : ∀ i ∈ List.range (credits.length + 1), i ∈ credits.map fun c => c.2.1 - now := by
    intro i hi
    have hi : (credits.any fun c => c.1 == l && c.2.1 == now + i) = true := by
      by_contra hfree
      exact hfull ⟨i, List.mem_range.mp hi, Bool.eq_false_iff.mpr hfree⟩
    obtain ⟨c, hc, hat⟩ := List.any_eq_true.mp hi
    simp only [Bool.and_eq_true, beq_iff_eq] at hat
    exact List.mem_map.mpr ⟨c, hc, by omega⟩
  have hcount := (List.nodup_range.subperm hbusy).length_le
  simp at hcount

/-- A credit always finds a beat of one of its lanes. -/
theorem sendCredit_credited (s : State) (e : Nat) {lanes : List Nat} (what : Option Nat) (hlanes : lanes ≠ []) :
    ∃ l ∈ lanes, ∃ b, s.sendCredit e lanes what = s.setLinkEnd e { s.linkEnd e with credits := (s.linkEnd e).credits ++ [(l, b, what)] } := by
  unfold State.sendCredit
  dsimp only
  split
  case h_1 c hc =>
    obtain ⟨i, -, hi⟩ := List.exists_of_findSome?_eq_some hc
    obtain ⟨l, hl, rfl⟩ := Option.map_eq_some_iff.mp hi
    exact ⟨l, List.mem_of_find?_eq_some hl, s.wall + i, rfl⟩
  case h_2 hnone =>
    obtain ⟨l, lanes, rfl⟩ := List.exists_cons_of_ne_nil hlanes
    obtain ⟨i, hi, hfree⟩ := free_beat (s.linkEnd e).credits l s.wall
    have hmiss := Option.map_eq_none_iff.mp (List.findSome?_eq_none_iff.mp hnone i (List.mem_range.mpr hi))
    exact absurd (by simp [hfree]) (List.find?_eq_none.mp hmiss l List.mem_cons_self)

/-- From `s` to `t` credits of track lanes have been sent over links; nothing else differs. -/
structure CreditsSent (s t : State) : Prop where
  kept : ∀ j, (s.linkEnd j).credits ⊆ (t.linkEnd j).credits
  frame : { t with ends := s.ends } = s

theorem creditsSent_refl (s : State) : CreditsSent s s := ⟨fun _ => List.Subset.refl _, rfl⟩

theorem trackCredit_none {s : State} {site : Nat} {edge : Edge} {away : Bool} {what : Nat} (h : edgeEnd site edge = none) :
    s.trackCredit site edge away what = s := by
  unfold State.trackCredit
  rw [h]

theorem trackCredit_some {s : State} {site e : Nat} {edge : Edge} {away : Bool} {what : Nat} (h : edgeEnd site edge = some e) :
    s.trackCredit site edge away what = s.sendCredit (if away then e ^^^ 1 else e) trackLanes (some what) := by
  unfold State.trackCredit
  rw [h]

theorem trackCredit_sent (s : State) (site : Nat) (edge : Edge) (away : Bool) (what : Nat) : CreditsSent s (s.trackCredit site edge away what) := by
  cases h : edgeEnd site edge with
  | none => rw [trackCredit_none h]; exact creditsSent_refl s
  | some e =>
    rw [trackCredit_some h]
    obtain ⟨l, -, b, hsent⟩ := sendCredit_credited s (if away then e ^^^ 1 else e) (some what) (show trackLanes ≠ [] by decide)
    refine ⟨fun j => ?_, sendCredit_frame s _ _ _⟩
    rw [hsent, setLinkEnd_linkEnd]
    by_cases hj : j = if away then e ^^^ 1 else e
    · rw [if_pos hj, ← hj]
      exact List.subset_append_left _ _
    · rw [if_neg hj]
      exact List.Subset.refl _

theorem trackCredit_credited (s : State) {site e : Nat} {edge : Edge} (away : Bool) (what : Nat) (h : edgeEnd site edge = some e) :
    ∃ l ∈ trackLanes, ∃ b, (l, b, some what) ∈ ((s.trackCredit site edge away what).linkEnd (if away then e ^^^ 1 else e)).credits := by
  obtain ⟨l, hl, b, hsent⟩ := sendCredit_credited s (if away then e ^^^ 1 else e) (some what) (show trackLanes ≠ [] by decide)
  rw [trackCredit_some h, hsent, setLinkEnd_linkEnd_same]
  exact ⟨l, hl, b, by simp⟩

/-! ### The end of a path (R274, R323) -/

/-- Of the fabric units only that of die `k` differs, and nothing else does. -/
structure OnlyFabOf (k : Nat) (s t : State) : Prop where
  others : ∀ j, j ≠ k → t.fab j = s.fab j
  frame : { t with fabs := s.fabs } = s

theorem onlyFabOf_refl (k : Nat) (s : State) : OnlyFabOf k s s := ⟨fun _ _ => rfl, rfl⟩

theorem onlyFabOf_trans {k : Nat} {s t u : State} (h : OnlyFabOf k s t) (h' : OnlyFabOf k t u) : OnlyFabOf k s u where
  others j hj := (h'.others j hj).trans (h.others j hj)
  frame := (congrArg (fun x : State => { x with fabs := s.fabs }) h'.frame :).trans h.frame

theorem onlyFabOf_setFab (k : Nat) (s : State) (a : FabState) : OnlyFabOf k s (s.setFab k a) :=
  ⟨fun j hj => by rw [setFab_fab, if_neg hj], rfl⟩

theorem transitBlock_onlyFab (s : State) (k src : Nat) (b : BitVec 257) (bad : Nat) : OnlyFabOf k s (s.transitBlock k src b bad) := by
  unfold State.transitBlock
  extract_lets fb old mask p
  clear_value fb p
  split
  · exact onlyFabOf_setFab k s _
  · split
    · exact onlyFabOf_setFab k s _
    · exact onlyFabOf_setFab k s _

/-- The blocks of a flit go to the fabric unit of its die, and nowhere else. -/
def blocksTaken (s : State) (y : TransitFlit) : State :=
  (flitBlocks y.flit).zipIdx.foldl
    (fun s b => s.transitBlock (y.way % 4) (y.way / 4) b.1 (nfld y.flit.poison.toNat (4 * b.2 + 3) (4 * b.2))) s

theorem blocksTaken_onlyFab (s : State) (y : TransitFlit) : OnlyFabOf (y.way % 4) s (blocksTaken s y) := by
  unfold blocksTaken
  generalize (flitBlocks y.flit).zipIdx = l
  induction l generalizing s with
  | nil => exact onlyFabOf_refl _ s
  | cons b l ih => exact onlyFabOf_trans (transitBlock_onlyFab s _ _ _ _) (ih _)

/-- The flit that a fabric unit takes has arrived at the end of its path, before the later ones of its dies, and the die is open. -/
theorem arrivedFlit_arrived {s : State} {x : Nat} {dir : Bool} {y : TransitFlit} (h : s.arrivedFlit (wayNo (x, dir)) = some y) :
    y ∈ (s.crossing (wayNo (x, dir))).leaving ∧ y.at_ ≤ s.wall ∧ nextWay (x, dir) y.way = none ∧
      s.crossingShut (.fab (Fin.ofNat 4 (y.way % 4))) = false ∧
      ∀ z ∈ (s.crossing (wayNo (x, dir))).leaving ++ (s.crossing (wayNo (x, dir))).onTrack, z.way = y.way → y.no ≤ z.no := by
  have hall := List.find?_some h
  rw [wayNo_halves] at hall
  simp only [Bool.and_eq_true, decide_eq_true_eq, Option.isNone_iff_eq_none, Bool.not_eq_true', firstOf_iff] at hall
  obtain ⟨⟨⟨⟨hat, hend⟩, hleaving⟩, htrack⟩, hopen⟩ := hall
  refine ⟨List.mem_of_find?_eq_some h, hat, hend, hopen, fun z hz => ?_⟩
  rcases List.mem_append.mp hz with hz | hz
  · exact hleaving z hz
  · exact htrack z hz

/-- The crossing direction without the flit that the fabric unit takes. -/
def flitTaken (s : State) (n : Nat) (y : TransitFlit) : State :=
  s.setCrossing n { s.crossing n with leaving := (s.crossing n).leaving.erase y }

/-- Then the credit of its place has gone back. -/
def placeFreed (s : State) (me : Nat × Bool) (y : TransitFlit) : State :=
  (flitTaken s (wayNo me) y).trackCredit (crossingOf me.1).site ((crossingOf me.1).exit me.2) false (24 + wayNo me)

theorem takeTransit_some {s : State} {me : Nat × Bool} {y : TransitFlit} (h : s.arrivedFlit (wayNo me) = some y) :
    s.takeTransit (wayNo me) = blocksTaken (placeFreed s me y) y := by
  obtain ⟨hx, hdir⟩ := Prod.mk.injEq .. ▸ wayNo_halves me.1 me.2
  unfold State.takeTransit
  rw [h]
  dsimp only
  rw [hx, hdir]
  rfl

theorem takeTransit_none {s : State} {n : Nat} (h : s.arrivedFlit n = none) : s.takeTransit n = s := by
  unfold State.takeTransit
  rw [h]

section
variable {s : State} {me : Nat × Bool} {y : TransitFlit} (h : s.arrivedFlit (wayNo me) = some y)
include h

theorem takeTransit_crossing (j : Nat) : (s.takeTransit (wayNo me)).crossing j = (flitTaken s (wayNo me) y).crossing j := by
  rw [takeTransit_some h]
  exact ((congrArg (fun u : State => u.crossing j) (blocksTaken_onlyFab (placeFreed s me y) y).frame :)).trans
    (congrArg (fun u : State => u.crossing j) (trackCredit_sent (flitTaken s (wayNo me) y) _ _ false _).frame :)

theorem takeTransit_leaving : ((s.takeTransit (wayNo me)).crossing (wayNo me)).leaving = (s.crossing (wayNo me)).leaving.erase y := by
  rw [takeTransit_crossing h, flitTaken, setCrossing_crossing_same]

theorem takeTransit_fab {k : Nat} (hk : k ≠ y.way % 4) : (s.takeTransit (wayNo me)).fab k = s.fab k := by
  rw [takeTransit_some h, (blocksTaken_onlyFab (placeFreed s me y) y).others k hk]
  exact (congrArg (fun u : State => u.fab k) (trackCredit_sent (flitTaken s (wayNo me) y) _ _ false _).frame :)

theorem takeTransit_credited {e : Nat} (he : edgeEnd (crossingOf me.1).site ((crossingOf me.1).exit me.2) = some e) :
    ∃ l ∈ trackLanes, ∃ b, (l, b, some (24 + wayNo me)) ∈ ((s.takeTransit (wayNo me)).linkEnd e).credits := by
  have hends : (s.takeTransit (wayNo me)).linkEnd e = (placeFreed s me y).linkEnd e := by
    rw [takeTransit_some h]
    exact (congrArg (fun u : State => u.linkEnd e) (blocksTaken_onlyFab (placeFreed s me y) y).frame :)
  rw [hends]
  exact trackCredit_credited (flitTaken s (wayNo me) y) false (24 + wayNo me) he

end

/-- From `s` to `t` a crossing direction may have lost a flit that a fabric unit has taken, or the credit of a free place. -/
structure PlacesFreed (me : Nat × Bool) (s t : State) : Prop where
  own : { t.crossing (wayNo me) with leaving := [], freed := 0 } = { s.crossing (wayNo me) with leaving := [], freed := 0 }
  others : ∀ k, k ≠ wayNo me → t.crossing k = s.crossing k
  frame : { t with crossings := s.crossings, fabs := s.fabs, ends := s.ends } = s

theorem placesFreed_trans {me : Nat × Bool} {s t u : State} (h : PlacesFreed me s t) (k : PlacesFreed me t u) : PlacesFreed me s u where
  own := k.own.trans h.own
  others j hj := (k.others j hj).trans (h.others j hj)
  frame := (congrArg (fun x : State => { x with crossings := s.crossings, fabs := s.fabs, ends := s.ends }) k.frame :).trans h.frame

theorem takeTransit_freed (s : State) (me : Nat × Bool) : PlacesFreed me s (s.takeTransit (wayNo me)) ∧
    ((s.takeTransit (wayNo me)).crossing (wayNo me)).freed = (s.crossing (wayNo me)).freed := by
  cases h : s.arrivedFlit (wayNo me) with
  | none =>
    rw [takeTransit_none h]
    exact ⟨⟨rfl, fun _ _ => rfl, rfl⟩, rfl⟩
  | some y =>
    refine ⟨⟨?_, fun k hk => ?_, ?_⟩, ?_⟩
    · rw [takeTransit_crossing h, flitTaken, setCrossing_crossing_same]
    · rw [takeTransit_crossing h, flitTaken, setCrossing_crossing, if_neg hk]
    · rw [takeTransit_some h]
      have hblocks := congrArg (fun u : State => { u with crossings := s.crossings, fabs := s.fabs, ends := s.ends })
        (blocksTaken_onlyFab (placeFreed s me y) y).frame
      exact (hblocks :).trans (congrArg (fun u : State => { u with crossings := s.crossings, fabs := s.fabs, ends := s.ends })
        (trackCredit_sent (flitTaken s (wayNo me) y) _ _ false _).frame :)
    · rw [takeTransit_crossing h, flitTaken, setCrossing_crossing_same]

/-- The state when the credit of a place of the buffer goes back. -/
def creditReturned (s : State) (me : Nat × Bool) : State :=
  (s.setCrossing (wayNo me) { s.crossing (wayNo me) with freed := (s.crossing (wayNo me)).freed - 1 }).trackCredit
    (crossingOf me.1).site ((crossingOf me.1).entry me.2) true (wayNo me)

section
variable (s : State) (me : Nat × Bool)

theorem creditReturned_sent : CreditsSent (s.setCrossing (wayNo me) { s.crossing (wayNo me) with freed := (s.crossing (wayNo me)).freed - 1 })
    (creditReturned s me) := trackCredit_sent _ _ _ _ _

theorem creditReturned_own : (creditReturned s me).crossing (wayNo me) =
    { s.crossing (wayNo me) with freed := (s.crossing (wayNo me)).freed - 1 } :=
  (congrArg (fun u : State => u.crossing (wayNo me)) (creditReturned_sent s me).frame :).trans (setCrossing_crossing_same _ _ _)

theorem creditReturned_freed : PlacesFreed me s (creditReturned s me) where
  own := by rw [creditReturned_own]
  others k hk := (congrArg (fun u : State => u.crossing k) (creditReturned_sent s me).frame :).trans (by rw [setCrossing_crossing, if_neg hk])
  frame := (congrArg (fun u : State => { u with crossings := s.crossings, fabs := s.fabs, ends := s.ends }) (creditReturned_sent s me).frame :)

end

theorem execTransitCreditReturn_eq (x : CrossingId) (dir : Bool) (s : State) : execTransitCreditReturn x dir s =
    .next (if 0 < (s.crossing (wayNo (x.val, dir))).freed ∧ s.crossingMoves (crossingOf x) = true ∧ s.entryLive (crossingOf x) dir = true
      then creditReturned (s.takeTransit (wayNo (x.val, dir))) (x.val, dir) else s.takeTransit (wayNo (x.val, dir))) := by
  have hfreed := (takeTransit_freed s (x.val, dir)).2
  unfold execTransitCreditReturn
  dsimp only
  split
  case isTrue h =>
    simp only [Bool.and_eq_true, decide_eq_true_eq, and_assoc, hfreed] at h
    rw [if_pos h]
    rfl
  case isFalse h =>
    simp only [Bool.and_eq_true, decide_eq_true_eq, and_assoc, hfreed] at h
    rw [if_neg h]

/-- What a crossing direction and the fabric unit at the end of its paths give back, from `s` to `t`. -/
theorem transitCreditReturn_answers (x : CrossingId) (dir : Bool) (s : State) :
    let me := (x.val, dir)
    let returns : Prop := 0 < (s.crossing (wayNo me)).freed ∧ s.crossingMoves (crossingOf x) = true ∧ s.entryLive (crossingOf x) dir = true
    Answers (.transitCreditReturn x dir) s fun t => PlacesFreed me s t ∧ t.fabs = (s.takeTransit (wayNo me)).fabs ∧
      (t.crossing (wayNo me)).leaving = ((s.takeTransit (wayNo me)).crossing (wayNo me)).leaving ∧
      (∀ j, ((s.takeTransit (wayNo me)).linkEnd j).credits ⊆ (t.linkEnd j).credits) ∧
      (returns → (t.crossing (wayNo me)).freed = (s.crossing (wayNo me)).freed - 1 ∧
        ∀ e, edgeEnd (crossingOf x).site ((crossingOf x).entry dir) = some e →
          ∃ l ∈ trackLanes, ∃ b, (l, b, some (wayNo me)) ∈ (t.linkEnd (e ^^^ 1)).credits) ∧
      (¬returns → (t.crossing (wayNo me)).freed = (s.crossing (wayNo me)).freed) := by
  intro me returns
  obtain ⟨htaken, hsame⟩ := takeTransit_freed s me
  refine ⟨_, execTransitCreditReturn_eq x dir s, ?_⟩
  by_cases hreturns : returns
  · rw [if_pos hreturns]
    have hsent := creditReturned_sent (s.takeTransit (wayNo me)) me
    refine ⟨placesFreed_trans htaken (creditReturned_freed _ me), (congrArg State.fabs hsent.frame :), ?_, hsent.kept, fun _ => ⟨?_, fun e he => ?_⟩,
      fun hnot => absurd hreturns hnot⟩
    · rw [creditReturned_own]
    · rw [creditReturned_own, hsame]
    · exact trackCredit_credited _ true (wayNo me) he
  · rw [if_neg hreturns]
    exact ⟨htaken, rfl, rfl, fun _ => List.Subset.refl _, fun h => absurd h hreturns, fun _ => hsame⟩

end Sys2Proof.Proofs
end

section
/-! O15. Transit flits move under credits. -/

namespace Sys2Proof.Proofs

open Sys2Proof Sys2Proof.Machine Sys2Proof.Laws

/-! ### What a whole move does -/

section
variable (s : State) (me : Nat × Bool)

theorem tracksEntered_frame : { tracksEntered s me with crossings := s.crossings } = s := by
  obtain ⟨j, -, h⟩ := tracksEntered_entered s me
  exact (congrArg (fun u : State => { u with crossings := s.crossings }) h.frame :)

theorem tracksEntered_fab (k : Nat) : (tracksEntered s me).fab k = s.fab k :=
  (congrArg (fun u : State => u.fab k) (tracksEntered_frame s me) :)

theorem tracksEntered_senderTo : senderTo (tracksEntered s me) me = senderTo s me :=
  (congrArg (fun u : State => senderTo u me) (tracksEntered_frame s me) :)

theorem tracksEntered_wall : (tracksEntered s me).wall = s.wall :=
  (congrArg State.wall (tracksEntered_frame s me) :)

theorem tracksEntered_used : ((tracksEntered s me).crossing (wayNo me)).used = (s.crossing (wayNo me)).used := by
  obtain ⟨j, -, h⟩ := tracksEntered_entered s me
  rw [h.own, advancedAt_used]

theorem tracksEntered_coming : ((tracksEntered s me).crossing (wayNo me)).coming = (s.crossing (wayNo me)).coming := by
  obtain ⟨j, -, h⟩ := tracksEntered_entered s me
  rw [h.coming, advancedAt_own]
  rfl

theorem crossingMoved_onTrack : ((crossingMoved s me).crossing (wayNo me)).onTrack = ((tracksEntered s me).crossing (wayNo me)).onTrack :=
  (congrArg CrossingState.onTrack (crossingMoved_sent s me).own :)

theorem crossingMoved_leaving : ((crossingMoved s me).crossing (wayNo me)).leaving = ((tracksEntered s me).crossing (wayNo me)).leaving :=
  (congrArg CrossingState.leaving (crossingMoved_sent s me).own :)

theorem crossingMoved_movedAt : ((crossingMoved s me).crossing (wayNo me)).movedAt = some s.wall := by
  obtain ⟨j, -, h⟩ := tracksEntered_entered s me
  calc ((crossingMoved s me).crossing (wayNo me)).movedAt
    _ = ((tracksEntered s me).crossing (wayNo me)).movedAt := (congrArg CrossingState.movedAt (crossingMoved_sent s me).own :)
    _ = ((advancedAt s me).crossing (wayNo me)).movedAt := h.movedAt
    _ = some s.wall := by rw [advancedAt_own]; rfl

theorem crossingMoved_hop {y : TransitFlit} (hy : y ∈ (s.crossing (wayNo me)).onTrack) :
    if (crossingOf me.1).hops y.track ≤ y.at_ + 1 then { y with at_ := s.wall + 14 } ∈ ((crossingMoved s me).crossing (wayNo me)).leaving
    else { y with at_ := y.at_ + 1 } ∈ ((crossingMoved s me).crossing (wayNo me)).onTrack := by
  obtain ⟨j, -, h⟩ := tracksEntered_entered s me
  have hhop := advanced_hop (c := crossingOf me.1) (wall := s.wall) hy
  rw [← advancedAt_own] at hhop
  rw [crossingMoved_leaving, crossingMoved_onTrack]
  split at hhop
  case isTrue hlast => rw [if_pos hlast]; exact h.leaving hhop
  case isFalse hlast => rw [if_neg hlast]; exact h.onTrack hhop

theorem crossingMoved_leavingKept {y : TransitFlit} (hy : y ∈ (s.crossing (wayNo me)).leaving) :
    y ∈ ((crossingMoved s me).crossing (wayNo me)).leaving := by
  obtain ⟨j, -, h⟩ := tracksEntered_entered s me
  rw [crossingMoved_leaving]
  refine h.leaving ?_
  rw [advancedAt_own]
  exact List.mem_append_left _ hy

theorem crossingMoved_buffer : ∃ j ≤ 8, ((crossingMoved s me).crossing (wayNo me)).buffer.length + j = (s.crossing (wayNo me)).buffer.length ∧
    ((crossingMoved s me).crossing (wayNo me)).freed = (s.crossing (wayNo me)).freed + j ∧
    ((crossingMoved s me).crossing (wayNo me)).buffer.Sublist (s.crossing (wayNo me)).buffer := by
  obtain ⟨j, hj, h⟩ := tracksEntered_entered s me
  have hlength := h.length
  have hfreed := h.freed
  have hsublist := h.sublist
  rw [advancedAt_own] at hlength hfreed hsublist
  rw [(crossingMoved_sent s me).buffer]
  exact ⟨j, hj, hlength, (congrArg CrossingState.freed (crossingMoved_sent s me).own :).trans hfreed, hsublist⟩

theorem crossingMoved_others {m : Nat} (hm : m ≠ wayNo me) : { (crossingMoved s me).crossing m with used := 0 } = { s.crossing m with used := 0 } := by
  obtain ⟨j, -, h⟩ := tracksEntered_entered s me
  rw [(crossingMoved_sent s me).others m hm, h.others m hm, advancedAt_other s me hm]

theorem crossingMoved_fab (k : Nat) : { (crossingMoved s me).fab k with transitOut := [], transitNo := 0 } = { s.fab k with transitOut := [], transitNo := 0 } := by
  rw [(crossingMoved_sent s me).fabs, tracksEntered_fab]

theorem crossingMoved_frame : { crossingMoved s me with crossings := s.crossings, fabs := s.fabs } = s :=
  (congrArg (fun u : State => { u with crossings := s.crossings, fabs := s.fabs }) (crossingMoved_sent s me).frame :).trans
    (congrArg (fun u : State => { u with fabs := s.fabs }) (tracksEntered_frame s me) :)

end

section
variable {s : State} {me : Nat × Bool}

/-- The flit that is next enters track 0 when its credit is held. -/
theorem crossingMoved_first {y : TransitFlit} (hlive : s.exitLive (crossingOf me.1) me.2 = true) (hnext : s.nextFlit me = some y)
    (hcredit : s.holdsCredit me y.way = true) : FirstEntered me s (crossingMoved s me) 0 y ∧
      ((crossingMoved s me).crossing (wayNo me)).buffer.length < (s.crossing (wayNo me)).buffer.length := by
  obtain ⟨hfirst, hbuffer⟩ := tracksEntered_first hlive hnext hcredit
  have hsent := crossingMoved_sent s me
  refine ⟨⟨?_, fun m hm => ?_, fun hnone => ?_⟩, ?_⟩
  · rw [crossingMoved_leaving, crossingMoved_onTrack]
    exact hfirst.tracked
  · have hspent := hfirst.credited m hm
    rw [advancedAt_used] at hspent
    rwa [hsent.others m (nextWay_ne hm)]
  · have hspent := hfirst.exits hnone
    rw [advancedAt_own] at hspent
    exact hspent.trans_eq (congrArg CrossingState.exitUsed hsent.own :).symm
  · rwa [hsent.buffer]

theorem crossingMoved_bufferKept (h : s.exitLive (crossingOf me.1) me.2 = false ∨ s.nextFlit me = none ∨
    ∃ y, s.nextFlit me = some y ∧ s.holdsCredit me y.way = false) :
    ((crossingMoved s me).crossing (wayNo me)).buffer = (s.crossing (wayNo me)).buffer := by
  rw [(crossingMoved_sent s me).buffer, tracksEntered_none h, advancedAt_own]
  rfl

/-- The first fabric unit with a flit for the crossing sends its oldest one. -/
theorem crossingMoved_sends {d q : Nat} {f : Flit} (hlive : s.entryLive (crossingOf me.1) me.2 = true) (hfree : s.entryFree me = true)
    (hroom : (s.crossing (wayNo me)).used < 32) (hsender : senderTo s me = some (d, q))
    (hhead : (SMap.get [] (s.fab d).transitOut q).head? = some f) :
    sentFlitOf s 0 d q f ∈ ((crossingMoved s me).crossing (wayNo me)).coming ∧
      (s.crossing (wayNo me)).used < ((crossingMoved s me).crossing (wayNo me)).used := by
  have hused := tracksEntered_used s me
  have hflit : sentFlitOf (tracksEntered s me) 0 d q f = sentFlitOf s 0 d q f := by
    rw [sentFlitOf, tracksEntered_fab, tracksEntered_wall, sentFlitOf]
  have hfirst := sendComing_first (f := f) 7 0 ((tracksEntered_senderTo s me).trans hsender) (by rwa [tracksEntered_fab]) (hused.trans_lt hroom)
  rw [hused, hflit] at hfirst
  rw [crossingMoved, if_pos (by simp [hlive, hfree])]
  exact hfirst

theorem crossingMoved_sendsNone (h : s.entryLive (crossingOf me.1) me.2 = false ∨ s.entryFree me = false) :
    ((crossingMoved s me).crossing (wayNo me)).coming = (s.crossing (wayNo me)).coming ∧ (crossingMoved s me).fabs = s.fabs := by
  rw [crossingMoved, if_neg (by rcases h with h | h <;> simp [h])]
  exact ⟨tracksEntered_coming s me, (congrArg State.fabs (tracksEntered_frame s me) :)⟩

end

theorem buffered_crossing (s : State) (n k : Nat) (y : TransitFlit) : (buffered s n y).crossing k =
    if k = n then { s.crossing n with buffer := (s.crossing n).buffer ++ [y] } else s.crossing k := setCrossing_crossing _ _ _ _

/-- Settles O15: a move is the hops of the flits on the tracks, then the entries of those that wait, then what fabric units send; an arrival
and the return of credits touch one place each. -/
theorem transitFlitsMoveUnderCredits : Obligations.TransitFlitsMoveUnderCredits := by
  unfold Obligations.TransitFlitsMoveUnderCredits
  refine ⟨fun x dir s h => execTransitMove_waits ?_, fun x dir s hmoves hfirst hfree => ?_, fun x dir f s y h => ?_,
    fun x dir f s => ?_, fun x dir s => ?_⟩
  case refine_1 =>
    refine h.imp_right (Or.imp_right fun hstill => Bool.eq_false_iff.mpr fun hmoves => ?_)
    obtain ⟨hrunning, hheld, hphase⟩ := hstill
    rw [crossingMoves_iff, hrunning, hheld] at hmoves
    exact hphase (by simpa using hmoves)
  case refine_2 =>
    refine ⟨_, execTransitMove_moves ((crossingMoves_iff _ _).mpr hmoves) hfirst hfree, ?_⟩
    refine ⟨crossingMoved_movedAt s _, fun y hy => crossingMoved_hop s _ hy, fun y hy => crossingMoved_leavingKept s _ hy, crossingMoved_buffer s _,
      fun y hlive hnext hcredit => ?_, fun y hnext => nextFlit_first hnext, crossingMoved_bufferKept (me := (x.val, dir)),
      fun d q f hlive hopen hroom hsender hhead => crossingMoved_sends hlive hopen hroom hsender hhead, crossingMoved_sendsNone (me := (x.val, dir)),
      fun m hm => crossingMoved_others s _ hm, crossingMoved_fab s _, crossingMoved_frame s _⟩
    obtain ⟨⟨htracked, hcredited, hexits⟩, hbuffer⟩ := crossingMoved_first hlive hnext hcredit
    exact ⟨htracked, hbuffer, hcredited, hexits⟩
  case refine_3 =>
    refine ⟨_, execTransitFlitArrival_sent h, ?_, fun k hk => ?_, rfl⟩
    · rw [buffered_crossing, if_pos rfl, setCrossing_crossing_same]
    · rw [buffered_crossing, if_neg hk, setCrossing_crossing, if_neg hk]
  case refine_4 =>
    intro n from_ hnone hsome
    obtain ⟨m, hm, y, hcame, harrival⟩ := execTransitFlitArrival_passed hnone hsome
    have hne := cameFrom_ne hcame
    refine ⟨_, harrival, m, hm, y, hcame, ?_, ?_, fun k hkm hkn => ?_, rfl⟩
    · rw [buffered_crossing, if_neg hne, setCrossing_crossing_same]
    · rw [buffered_crossing, if_pos rfl, setCrossing_crossing, if_neg hne.symm]
    · rw [buffered_crossing, if_neg hkn, setCrossing_crossing, if_neg hkm]
  case refine_5 =>
    intro n c returns
    obtain ⟨t, hexec, hfreed, hfabs, hleaving, hcredits, hreturned, hkept⟩ := transitCreditReturn_answers x dir s
    refine ⟨t, hexec, fun y hy => ⟨arrivedFlit_arrived hy, hleaving.trans (takeTransit_leaving hy), fun k hk => ?_, fun e he => ?_⟩,
      fun hnone => ?_, hreturned, hkept, hfreed.own, hfreed.others, hfreed.frame⟩
    · exact (congrArg (fun fabs => SMap.get _ fabs k) hfabs :).trans (takeTransit_fab hy hk)
    · obtain ⟨l, hl, b, hb⟩ := takeTransit_credited hy he
      exact ⟨l, hl, b, hcredits e hb⟩
    · rw [takeTransit_none hnone] at hfabs hleaving
      exact ⟨hfabs, hleaving⟩

end Sys2Proof.Proofs
end

section
/-! Rules for O13: what a router's work in a beat may change. -/

namespace Sys2Proof.Proofs

open Sys2Proof Sys2Proof.Machine Sys2Proof.Laws

/-! ### What a router's work may change -/

/-- `t` with what a router may change in a beat put back. -/
def routerPartOf (s t : State) : State :=
  { OnlyReportsOf s t with
    routers := s.routers, derailleurs := s.derailleurs, spokes := s.spokes, mem := s.mem, ecc := s.ecc, t0Writes := s.t0Writes
    beatMem := s.beatMem, ends := s.ends, fabs := s.fabs, channels := s.channels, localReqs := s.localReqs, hub := s.hub
    engines := s.engines }

/-- `t` with the units that a router hands something to put back; it has the routers, the beat and the memory of `t`. -/
def unitsOf (s t : State) : State :=
  { t with derailleurs := s.derailleurs, spokes := s.spokes, dieMem := s.dieMem, memStacks := s.memStacks, ends := s.ends, fabs := s.fabs
           channels := s.channels, localReqs := s.localReqs, hub := s.hub, engines := s.engines }

/-- A wire or a link leads from router `r` to router `n`. -/
def wired (r n : Nat) : Prop := ∃ q q2, meshNext r q = some (n, q2) ∨ farPort r q = some (n, q2)

/-- From `s` to `t` router `r` has worked in its beat: no slot table has changed, another router has at most been sent flits and only over a
wire or a link, no beat has passed, and memory has changed only where `writes` allows it. -/
structure RouterWork (writes : Bool) (r : Nat) (s t : State) : Prop where
  frame : routerPartOf s t = s
  beat : { t.beat with faultHold := s.beat.faultHold, faultDemands := s.beat.faultDemands, faultAt := s.beat.faultAt } = s.beat
  mem : writes = false → t.mem = s.mem
  tables : ∀ n, (t.router n).slots = (s.router n).slots ∧ (t.router n).period = (s.router n).period
  inputs : ∀ n, n ≠ r → (s.router n).inputs ⊆ (t.router n).inputs
  window : ∀ n, n ≠ r → (s.router n).window ⊆ (t.router n).window
  apart : ∀ n, n ≠ r → ¬wired r n → t.router n = s.router n

section
variable {writes : Bool} {r : Nat} {s t u : State}

theorem routerWork_refl : RouterWork writes r s s :=
  ⟨rfl, rfl, fun _ => rfl, fun _ => ⟨rfl, rfl⟩, fun _ _ => List.Subset.refl _, fun _ _ => List.Subset.refl _, fun _ _ _ => rfl⟩

theorem routerWork_trans (h : RouterWork writes r s t) (k : RouterWork writes r t u) : RouterWork writes r s u where
  frame := (congrArg (routerPartOf s) k.frame :).trans h.frame
  beat := by
    have hk := congrArg (fun b : BeatState => { b with faultHold := s.beat.faultHold, faultDemands := s.beat.faultDemands, faultAt := s.beat.faultAt }) k.beat
    exact hk.trans h.beat
  mem hw := (k.mem hw).trans (h.mem hw)
  tables n := ⟨(k.tables n).1.trans (h.tables n).1, (k.tables n).2.trans (h.tables n).2⟩
  inputs n hn := List.Subset.trans (h.inputs n hn) (k.inputs n hn)
  window n hn := List.Subset.trans (h.window n hn) (k.window n hn)
  apart n hn hw := (k.apart n hn hw).trans (h.apart n hn hw)

theorem routerWork_foldl {α : Type} (f : State → α → State) (hf : ∀ s a, RouterWork writes r s (f s a)) (l : List α) :
    ∀ s, RouterWork writes r s (l.foldl f s) := by
  induction l with
  | nil => exact fun _ => routerWork_refl
  | cons a l ih => exact fun s => routerWork_trans (hf s a) (ih _)

theorem RouterWork.sched (h : RouterWork writes r s t) : t.sched = s.sched :=
  (congrArg (fun b : BeatState => b.schedBeat.toNat) h.beat :)

theorem RouterWork.wall (h : RouterWork writes r s t) : t.wall = s.wall :=
  (congrArg (fun b : BeatState => b.wallBeat.toNat) h.beat :)

theorem RouterWork.routed (h : RouterWork writes r s t) : t.beat.routed = s.beat.routed :=
  (congrArg (fun b : BeatState => b.routed) h.beat :)

/-- Where other units are handed something the routers, the beat and memory stay as they are. -/
theorem routerWork_units (h : unitsOf s t = s) : RouterWork writes r s t := by
  have hrouter (n : Nat) : t.router n = s.router n := (congrArg (fun u : State => u.router n) h :)
  have hbeat : t.beat = s.beat := (congrArg State.beat h :)
  exact
    { frame := (congrArg (routerPartOf s) h :)
      beat := by rw [hbeat]
      mem := fun _ => (congrArg State.mem h :)
      tables := fun n => by rw [hrouter]; exact ⟨rfl, rfl⟩
      inputs := fun n _ => by rw [hrouter]; exact List.Subset.refl _
      window := fun n _ => by rw [hrouter]; exact List.Subset.refl _
      apart := fun n _ _ => hrouter n }

/-- The router itself may change but for its slot table. -/
theorem routerWork_own (a : RouterState) (hslots : a.slots = (s.router r).slots) (hperiod : a.period = (s.router r).period) :
    RouterWork writes r s (s.setRouter r a) where
  frame := rfl
  beat := rfl
  mem _ := rfl
  tables n := by
    rw [setRouter_router]
    split
    case isTrue hn => rw [hn]; exact ⟨hslots, hperiod⟩
    case isFalse => exact ⟨rfl, rfl⟩
  inputs n hn := by rw [setRouter_router, if_neg hn]; exact List.Subset.refl _
  window n hn := by rw [setRouter_router, if_neg hn]; exact List.Subset.refl _
  apart n hn _ := by rw [setRouter_router, if_neg hn]

/-- A router behind a wire or a link may be sent flits. -/
theorem routerWork_sent {n : Nat} (a : RouterState) (hn : wired r n) (hslots : a.slots = (s.router n).slots) (hperiod : a.period = (s.router n).period)
    (hinputs : (s.router n).inputs ⊆ a.inputs) (hwindow : (s.router n).window ⊆ a.window) : RouterWork writes r s (s.setRouter n a) where
  frame := rfl
  beat := rfl
  mem _ := rfl
  tables m := by
    rw [setRouter_router]
    split
    case isTrue hm => rw [hm]; exact ⟨hslots, hperiod⟩
    case isFalse => exact ⟨rfl, rfl⟩
  inputs m _ := by
    rw [setRouter_router]
    split
    case isTrue hm => rw [hm]; exact hinputs
    case isFalse => exact List.Subset.refl _
  window m _ := by
    rw [setRouter_router]
    split
    case isTrue hm => rw [hm]; exact hwindow
    case isFalse => exact List.Subset.refl _
  apart m _ hw := by
    rw [setRouter_router, if_neg]
    rintro rfl
    exact hw hn

theorem routerWork_writeTier0 (s : State) (rank : Nat) (ws : List (Nat × Byte × Bool)) : RouterWork true r s (s.writeTier0 rank ws) := by
  have h := writeTier0_frame s rank ws
  have hbeat : (s.writeTier0 rank ws).beat = s.beat := (congrArg State.beat h :)
  exact
    { frame := (congrArg (routerPartOf s) h :)
      beat := by rw [hbeat]
      mem := fun hw => nomatch hw
      tables := fun n => by rw [writeTier0_router]; exact ⟨rfl, rfl⟩
      inputs := fun n _ => by rw [writeTier0_router]; exact List.Subset.refl _
      window := fun n _ => by rw [writeTier0_router]; exact List.Subset.refl _
      apart := fun n _ _ => writeTier0_router s rank ws n }

theorem routerWork_raiseFault (s : State) (code unitKind d unit detail : Nat) : RouterWork writes r s (s.raiseFault code unitKind d unit detail) := by
  obtain ⟨hl, al, hs, as, m, h⟩ := raiseFault_eq s code unitKind d unit detail
  rw [h]
  exact ⟨rfl, rfl, fun _ => rfl, fun _ => ⟨rfl, rfl⟩, fun _ _ => List.Subset.refl _, fun _ _ => List.Subset.refl _, fun _ _ _ => rfl⟩

theorem routerWork_spokeFault (s : State) (code p : Nat) (ctr val : Nat) : RouterWork writes r s (s.spokeFault code p ctr val) :=
  routerWork_trans (routerWork_units (t := s.setSpoke p _) rfl) (routerWork_raiseFault _ _ _ _ _ _)

theorem routerWork_respond (s : State) (q : ServantReq) (st : Nat) (data : List (Byte × Bool)) : RouterWork writes r s (s.respond q st data) :=
  routerWork_units (congrArg (unitsOf s) (respond_frame s q st data) :)

theorem routerWork_answerFlit (s : State) (x : ServFlit) (st : Nat) (data : List (Byte × Bool)) : RouterWork writes r s (s.answerFlit x st data) := by
  unfold State.answerFlit
  split
  · exact routerWork_respond s _ _ _
  · exact routerWork_refl

theorem routerWork_freePlace (s : State) (n : Nat) (q : PortName) : RouterWork writes r s (s.freePlace n q) :=
  routerWork_units (congrArg (unitsOf s) (freePlace_frame s n q) :)

theorem routerWork_dequeueReq {k : Nat} {enters : ServantReq → Bool} {q : ServantReq} (h : s.dequeueReq k enters = some (q, t)) :
    RouterWork writes r s t :=
  routerWork_units (congrArg (unitsOf s) (dequeueReq_frame h) :)

theorem routerWork_readStart (s : State) (a n : Nat) : RouterWork writes r s (s.readStart a n).2 := by
  have h : ChecksOnly s (s.readStart a n).2 := countFetch_checksOnly s a n
  exact routerWork_units (congrArg (unitsOf s) h :)

end

end Sys2Proof.Proofs
end

section
/-! O13. The entry of a router's slot table. -/

namespace Sys2Proof.Proofs

open Sys2Proof Sys2Proof.Machine Sys2Proof.Laws

/-! ### Servant traffic of an entry (R135, R137, R139) -/

section
variable {writes : Bool} {r : Nat}

theorem routerWork_toLightplane (s : State) (q : PortName) (x : ServFlit) : RouterWork writes r s (s.toLightplane r q x) :=
  routerWork_own _ rfl rfl

theorem routerWork_servantWrite (s : State) (x : ServFlit) : RouterWork true r s (s.servantWrite r x) := by
  unfold State.servantWrite
  split
  · exact routerWork_answerFlit s x _ _
  · dsimp only
    split
    · exact routerWork_answerFlit s x _ _
    · exact routerWork_trans (routerWork_writeTier0 s 2 _) (routerWork_answerFlit _ x _ _)

theorem routerWork_servantRead (s : State) (x : ServFlit) : RouterWork writes r s (s.servantRead r x) := by
  unfold State.servantRead
  split
  · exact routerWork_answerFlit s x _ _
  · dsimp only
    split
    · exact routerWork_answerFlit s x _ _
    · exact routerWork_own _ rfl rfl

theorem routerWork_servantHome (s : State) (x : ServFlit) (q : PortName) : RouterWork writes r s (s.servantHome r x q) := by
  unfold State.servantHome
  split
  · split
    · exact routerWork_respond s _ _ _
    · exact routerWork_refl
  · exact routerWork_refl

theorem wired_of_leadsTo {r2 : Nat} {q q2 : PortName} (h : leadsTo r q r2 q2) : wired r r2 :=
  ⟨q, q2, h.imp_right And.right⟩

theorem routerWork_servantHop (s : State) (x : ServFlit) (q : PortName) : RouterWork true r s (s.servantHop r x q) := by
  by_cases hl : q = .l
  · subst hl
    cases hk : x.kind with
    | write => simpa only [State.servantHop, hk] using routerWork_servantWrite s x
    | read => simpa only [State.servantHop, hk] using routerWork_servantRead s x
    | data => simpa only [State.servantHop, hk] using routerWork_refl
  by_cases hv : q = .v
  · subst hv
    exact routerWork_servantHome s x .v
  by_cases hto : ∃ r2 q2, leadsTo r q r2 q2
  · obtain ⟨r2, q2, hto⟩ := hto
    rw [servantHop_leadsTo s x hto]
    exact routerWork_sent _ (wired_of_leadsTo hto) rfl rfl (List.Subset.refl _) (List.Subset.refl _)
  · rw [servantHop_toLightplane s x hl hv fun r2 q2 h => hto ⟨r2, q2, h⟩]
    exact routerWork_toLightplane s q x

theorem routerWork_servantAt {s t : State} {p : PortName} {enters : ServantReq → Bool} {x : ServFlit} (h : s.servantAt r p enters = some (x, t)) :
    RouterWork writes r s t := by
  unfold State.servantAt at h
  split at h
  case h_1 =>
    dsimp only at h
    split at h
    case h_2 => cases h
    case h_1 y _ =>
      split at h
      · cases h
      · cases h
        have hread : RouterWork writes r s (s.readStart ((tagPlace r y.flit.tag).getD 0) 64).2 := routerWork_readStart s _ _
        obtain ⟨hslots, hperiod⟩ := hread.tables r
        exact routerWork_trans hread (routerWork_own _ hslots.symm hperiod.symm)
  case h_2 =>
    dsimp only at h
    split at h
    case h_1 =>
      cases h
      refine routerWork_trans ?_ (routerWork_freePlace _ r p)
      exact routerWork_own _ rfl rfl
    case h_2 =>
      split at h <;> cases h
      exact routerWork_own _ rfl rfl
    case h_3 =>
      split at h
      · obtain ⟨⟨q, u⟩, hq, he⟩ := Option.map_eq_some_iff.mp h
        cases he
        exact routerWork_dequeueReq hq
      · cases h

theorem routerWork_servantEntry (s : State) (e : Word64) : RouterWork true r s (s.servantEntry r e) := by
  unfold State.servantEntry
  refine routerWork_foldl _ (fun u p => ?_) _ s
  dsimp only
  split
  · exact routerWork_refl
  · split
    case h_1 x v hv =>
      split
      · exact routerWork_trans (routerWork_servantAt hv) (routerWork_foldl _ (fun w q => routerWork_servantHop w x q) _ v)
      · exact routerWork_refl
    case h_2 => exact routerWork_refl

/-! ### Program traffic of an entry (R136-R138) -/

theorem routerWork_derailleurIn (s : State) (die p : Nat) (f : Flit) : RouterWork writes r s (s.derailleurIn die p f) := by
  have hset (d : DerailleurState) : RouterWork writes r s (s.setDerailleur die d) := routerWork_units rfl
  unfold State.derailleurIn
  dsimp only
  split
  case h_1 =>
    split
    · split
      · exact hset _
      · exact hset _
    · exact hset _
  case h_2 => exact routerWork_refl

theorem sendFlit_mesh (s : State) {q q2 : PortName} {r2 : Nat} (f : Flit) (h : meshNext r q = some (r2, q2)) : s.sendFlit r q f =
    s.setRouter r2 { s.router r2 with inputs := (s.router r2).inputs ++ [(q2, s.sched + 1, f)] } := by
  unfold State.sendFlit
  rw [h]

theorem sendFlit_link (s : State) {q q2 : PortName} {r2 : Nat} (f : Flit) (hmesh : meshNext r q = none) (h : farPort r q = some (r2, q2)) :
    s.sendFlit r q f = s.setRouter r2 { s.router r2 with window := (s.router r2).window ++ [(q2, s.sched + 14, s.wall, f)] } := by
  unfold State.sendFlit
  rw [hmesh, h]

theorem routerWork_sendFlit (s : State) (q : PortName) (f : Flit) : RouterWork writes r s (s.sendFlit r q f) := by
  cases hmesh : meshNext r q with
  | some y =>
    rw [sendFlit_mesh s f hmesh]
    exact routerWork_sent _ ⟨q, y.2, .inl hmesh⟩ rfl rfl (List.subset_append_left _ _) (List.Subset.refl _)
  | none =>
    cases hfar : farPort r q with
    | some y =>
      rw [sendFlit_link s f hmesh hfar]
      exact routerWork_sent _ ⟨q, y.2, .inr hfar⟩ rfl rfl (List.Subset.refl _) (List.subset_append_left _ _)
    | none =>
      unfold State.sendFlit
      rw [hmesh, hfar]
      dsimp only
      split
      · exact routerWork_toLightplane s q _
      · exact routerWork_refl

theorem routerWork_readLine {s t : State} {off : Nat} {tag : BitVec 24} {f : Flit} (h : s.readLine off tag = (f, t)) : RouterWork writes r s t := by
  have hread : RouterWork writes r s (s.readLine off tag).2 := routerWork_readStart s off 64
  rwa [h] at hread

theorem routerWork_slotRead (s : State) (n : Nat) : RouterWork writes r s (s.slotRead r n) := by
  unfold State.slotRead
  extract_lets +onlyGivenNames a x
  split
  case isTrue => exact routerWork_raiseFault s _ _ _ _ _
  case isFalse =>
    extract_lets +onlyGivenNames used deliver
    have hgives : ∀ u f, RouterWork writes r u (deliver (used u) f) := fun u f =>
      routerWork_trans (t := used u) (routerWork_own _ rfl rfl) (routerWork_own _ rfl rfl)
    clear_value used deliver
    split
    case isTrue =>
      extract_lets p
      split
      · split
        · refine routerWork_trans ?_ (hgives _ _)
          exact routerWork_units rfl
        · exact routerWork_spokeFault s _ _ _ _
      · exact routerWork_spokeFault s _ _ _ _
    case isFalse =>
      split
      case h_1 f s1 h =>
        exact routerWork_trans (routerWork_readLine h) (hgives s1 f)

theorem routerWork_slotWrite (s : State) (n : Nat) (f : Flit) : RouterWork true r s (s.slotWrite r n f) := by
  unfold State.slotWrite
  extract_lets +onlyGivenNames x
  split
  case isTrue => exact routerWork_raiseFault s _ _ _ _ _
  case isFalse =>
    extract_lets +onlyGivenNames a s1
    have hused : RouterWork true r s s1 := routerWork_own _ rfl rfl
    clear_value s1
    split
    case isTrue =>
      extract_lets p
      split
      · exact routerWork_trans hused (routerWork_units rfl)
      · exact routerWork_spokeFault s _ _ _ _
    case isFalse => exact routerWork_trans hused (routerWork_writeTier0 s1 2 _)

/-- What an output does with the flit of its source. -/
def outputTakes (r : Nat) (e : Word64) (s : State) (o : PortName × Flit) : State :=
  match o.1 with
  | .l => if bitOf e 14 then s.slotWrite r (fld e 13 10) o.2 else s
  | .v => match derailleurPort r with | some p => s.derailleurIn (routerDie r) p o.2 | none => s
  | q => s.sendFlit r q o.2

/-- The outputs of an entry whose sources hold flits, with those flits. -/
def entryFlits (s : State) (r : Nat) (e : Word64) : List (PortName × Flit) :=
  slotOutputs.zipIdx.filterMap fun (q, i) => (entrySource e i).bind fun p => (s.programSource r p).map fun f => (q, f)

/-- The state after the local read of an entry. -/
def entryRead (s : State) (r : Nat) (e : Word64) : State := if bitOf e 19 then s.slotRead r (fld e 18 15) else s

theorem programEntry_eq (s : State) (r : Nat) (e : Word64) : s.programEntry r e = (entryFlits s r e).foldl (outputTakes r e) (entryRead s r e) := rfl

theorem outputTakes_sends {q q2 : PortName} {r2 : Nat} (e : Word64) (s : State) (f : Flit) (h : leadsTo r q r2 q2) :
    outputTakes r e s (q, f) = s.sendFlit r q f := by
  unfold outputTakes
  dsimp only
  split
  case h_1 => rcases h with h | ⟨-, h⟩ <;> cases h
  case h_2 => rcases h with h | ⟨-, h⟩ <;> cases h
  case h_3 => rfl

theorem routerWork_outputTakes (e : Word64) (s : State) (o : PortName × Flit) : RouterWork (bitOf e 14) r s (outputTakes r e s o) := by
  unfold outputTakes
  split
  · split
    case isTrue h =>
      rw [h]
      exact routerWork_slotWrite s _ _
    case isFalse => exact routerWork_refl
  · split
    · exact routerWork_derailleurIn s _ _ _
    · exact routerWork_refl
  · exact routerWork_sendFlit s _ _

theorem routerWork_entryRead (s : State) (e : Word64) : RouterWork writes r s (entryRead s r e) := by
  unfold entryRead
  split
  · exact routerWork_slotRead s _
  · exact routerWork_refl

theorem routerWork_programEntry (s : State) (e : Word64) : RouterWork (bitOf e 14) r s (s.programEntry r e) := by
  rw [programEntry_eq]
  exact routerWork_trans (routerWork_entryRead s e) (routerWork_foldl _ (fun u o => routerWork_outputTakes e u o) _ _)

theorem mem_entryFlits {s : State} {e : Word64} {i : Nat} {q src : PortName} {f : Flit} (hq : slotOutputs[i]? = some q)
    (hsrc : entrySource e i = some src) (hf : s.programSource r src = some f) : (q, f) ∈ entryFlits s r e :=
  List.mem_filterMap.mpr ⟨(q, i), List.mem_zipIdx_iff_getElem?.mpr hq, by simp [hsrc, hf]⟩

/-- Each output has its turn. -/
theorem foldl_outputTakes {e : Word64} {o : PortName × Flit} : ∀ {l : List (PortName × Flit)} (s : State), o ∈ l →
    ∃ u, RouterWork (bitOf e 14) r s u ∧ RouterWork (bitOf e 14) r (outputTakes r e u o) (l.foldl (outputTakes r e) s) := by
  intro l
  induction l with
  | nil => exact fun s h => absurd h List.not_mem_nil
  | cons a l ih =>
    intro s h
    rcases List.mem_cons.mp h with rfl | h
    · exact ⟨s, routerWork_refl, routerWork_foldl _ (fun u o => routerWork_outputTakes e u o) l _⟩
    · obtain ⟨u, hbefore, hafter⟩ := ih (outputTakes r e s a) h
      exact ⟨u, routerWork_trans (routerWork_outputTakes e s a) hbefore, hafter⟩

/-- An output to another router that names a source holding a flit has sent it: over a wire for the next beat, over a link for the 14th. -/
theorem programEntry_sends (s : State) {e : Word64} {i r2 : Nat} {q src q2 : PortName} {f : Flit} (hq : slotOutputs[i]? = some q)
    (hsrc : entrySource e i = some src) (hf : s.programSource r src = some f) :
    (meshNext r q = some (r2, q2) → (q2, s.sched + 1, f) ∈ ((s.programEntry r e).router r2).inputs) ∧
      (meshNext r q = none → farPort r q = some (r2, q2) → (q2, s.sched + 14, s.wall, f) ∈ ((s.programEntry r e).router r2).window) := by
  obtain ⟨u, hbefore, hafter⟩ := foldl_outputTakes (entryRead s r e) (mem_entryFlits hq hsrc hf)
  replace hbefore := routerWork_trans (routerWork_entryRead s e) hbefore
  rw [← programEntry_eq] at hafter
  rw [← hbefore.sched, ← hbefore.wall]
  refine ⟨fun hmesh => hafter.inputs r2 (meshNext_ne hmesh) ?_, fun hmesh hfar => hafter.window r2 (farPort_ne hfar) ?_⟩
  · rw [outputTakes_sends e u f (.inl hmesh), sendFlit_mesh u f hmesh, setRouter_router_same]
    simp
  · rw [outputTakes_sends e u f (.inr ⟨hmesh, hfar⟩), sendFlit_link u f hmesh hfar, setRouter_router_same]
    simp

end

/-! ### Lanes to the lightplane dies (R137, R142, R255) -/

/-- `t` with what the lanes change outside the routers put back. -/
def laneUnitsOf (s t : State) : State :=
  { t with ends := s.ends, fabs := s.fabs, channels := s.channels, localReqs := s.localReqs, hub := s.hub, engines := s.engines }

/-- The lanes of a router to a lightplane die have worked: of the router only the flits in the crossing FIFOs differ. -/
structure LaneWork (r : Nat) (s t : State) : Prop where
  frame : { laneUnitsOf s t with routers := s.routers } = s
  others : ∀ n, n ≠ r → t.router n = s.router n
  own : { t.router r with fifoIn := (s.router r).fifoIn, fifoOut := (s.router r).fifoOut } = s.router r

section
variable {r : Nat} {s t u : State}

theorem laneWork_refl : LaneWork r s s := ⟨rfl, fun _ _ => rfl, rfl⟩

theorem laneWork_trans (h : LaneWork r s t) (k : LaneWork r t u) : LaneWork r s u where
  frame := (congrArg (fun x : State => { laneUnitsOf s x with routers := s.routers }) k.frame :).trans h.frame
  others n hn := (k.others n hn).trans (h.others n hn)
  own := (congrArg (fun a : RouterState => { a with fifoIn := (s.router r).fifoIn, fifoOut := (s.router r).fifoOut }) k.own :).trans h.own

/-- Where no router changes the lanes have handed something on. -/
theorem laneWork_units (hrouters : t.routers = s.routers) (h : laneUnitsOf s t = s) : LaneWork r s t := by
  have hrouter (n : Nat) : t.router n = s.router n := by unfold State.router; rw [hrouters]
  exact ⟨(congrArg (fun x : State => { x with routers := s.routers }) h :), fun n _ => hrouter n, by rw [hrouter]⟩

theorem laneWork_own {a : RouterState} (h : { a with fifoIn := (s.router r).fifoIn, fifoOut := (s.router r).fifoOut } = s.router r) :
    LaneWork r s (s.setRouter r a) :=
  ⟨rfl, fun n hn => by rw [setRouter_router, if_neg hn], by rw [setRouter_router_same]; exact h⟩

theorem laneWork_servantHome (s : State) (x : ServFlit) (q : PortName) : LaneWork r s (s.servantHome r x q) := by
  unfold State.servantHome
  split
  case h_2 => exact laneWork_refl
  case h_1 y _ =>
    split
    case isTrue =>
      have h := respond_frame s y 0 x.data
      exact laneWork_units (congrArg State.routers h :) (congrArg (laneUnitsOf s) h :)
    case isFalse => exact laneWork_refl

theorem laneWork_takeOut (s : State) (x : ServFlit) : LaneWork r s (s.takeOut r x) := by
  refine laneWork_trans (laneWork_own (a := { s.router r with fifoOut := (s.router r).fifoOut.erase x }) rfl) ?_
  have h := sendCredit_frame (s.setRouter r { s.router r with fifoOut := (s.router r).fifoOut.erase x })
    ((laneEnd r x.port).getD 0) [laneOf r x.port] none
  exact laneWork_units (congrArg State.routers h :) (congrArg (laneUnitsOf _) h :)

theorem laneWork_laneBeat (s : State) (r : Nat) (p : PortName) : LaneWork r s (s.laneBeat r p) := by
  unfold State.laneBeat
  extract_lets s1
  have hout : LaneWork r s s1 := by
    unfold s1
    split
    · exact laneWork_trans (laneWork_takeOut s _) (laneWork_servantHome _ _ p)
    · exact laneWork_refl
  clear_value s1
  refine laneWork_trans hout ?_
  split
  case h_2 => exact laneWork_refl
  case h_1 k _ =>
    split
    case isTrue => exact laneWork_refl
    case isFalse =>
      split
      case h_2 => exact laneWork_refl
      case h_1 q s2 hq =>
        have h := dequeueReq_frame hq
        have hrouters : s2.routers = s1.routers := (congrArg State.routers h :)
        have hrouter : s2.router r = s1.router r := by unfold State.router; rw [hrouters]
        refine laneWork_trans (laneWork_units hrouters (congrArg (laneUnitsOf s1) h :)) (laneWork_own ?_)
        rw [hrouter]

theorem laneWork_laneBeats (s : State) (r : Nat) : LaneWork r s (s.laneBeats r) := by
  unfold State.laneBeats
  generalize edgePorts = l
  induction l generalizing s with
  | nil => exact laneWork_refl
  | cons p l ih =>
    refine laneWork_trans ?_ (ih _)
    dsimp only
    split
    · exact laneWork_laneBeat s r p
    · exact laneWork_refl

theorem LaneWork.routerWork {writes : Bool} (h : LaneWork r s t) : RouterWork writes r s t where
  frame := (congrArg (routerPartOf s) h.frame :)
  beat := by
    have hbeat : t.beat = s.beat := (congrArg State.beat h.frame :)
    rw [hbeat]
  mem _ := (congrArg State.mem h.frame :)
  tables n := by
    by_cases hn : n = r
    · rw [hn]
      exact ⟨(congrArg RouterState.slots h.own :), (congrArg RouterState.period h.own :)⟩
    · rw [h.others n hn]
      exact ⟨rfl, rfl⟩
  inputs n hn := by rw [h.others n hn]; exact List.Subset.refl _
  window n hn := by rw [h.others n hn]; exact List.Subset.refl _
  apart n hn _ := h.others n hn

theorem LaneWork.programSource (h : LaneWork r s t) (q : PortName) : t.programSource r q = s.programSource r q := by
  have hinputs : (t.router r).inputs = (s.router r).inputs := (congrArg RouterState.inputs h.own :)
  have hout (die p : Nat) : t.derailleurOut die p = s.derailleurOut die p := (congrArg (fun u : State => u.derailleurOut die p) h.frame :)
  have hsched : t.sched = s.sched := (congrArg State.sched h.frame :)
  unfold State.programSource
  simp only [hinputs, hout, hsched]

end

/-! ### A router's beat -/

/-- The state once a router has executed its entry. -/
def entryDone (s : State) (r : Nat) : State :=
  if bitOf (s.slotEntry r) 9 then (settledAt s r).servantEntry r (s.slotEntry r) else (settledAt s r).programEntry r (s.slotEntry r)

/-- Then flits at its inputs that were due in beat `now` are gone. -/
def inputsSpent (s : State) (r now : Nat) : State :=
  s.setRouter r { s.router r with inputs := (s.router r).inputs.filter fun x => decide (now < x.2.1) }

section
variable {r : Nat}

theorem routerWork_settledAt {writes : Bool} (s : State) : RouterWork writes r s (settledAt s r) := routerWork_own _ rfl rfl

theorem settledAt_programSource (s : State) (q : PortName) : (settledAt s r).programSource r q = s.programSource r q := by
  have hinputs : ((settledAt s r).router r).inputs = (s.router r).inputs := by rw [settledAt_router]; rfl
  unfold State.programSource
  rw [hinputs]
  rfl

theorem routerWork_entryDone (s : State) : RouterWork (bitOf (s.slotEntry r) 9 || bitOf (s.slotEntry r) 14) r s (entryDone s r) := by
  refine routerWork_trans (routerWork_settledAt s) ?_
  unfold entryDone
  split
  case isTrue h =>
    rw [h]
    exact routerWork_servantEntry _ _
  case isFalse h =>
    rw [Bool.eq_false_of_not_eq_true h]
    exact routerWork_programEntry _ _

theorem entryDone_sends {s : State} {i r2 : Nat} {q src q2 : PortName} {f : Flit} (hprogram : bitOf (s.slotEntry r) 9 = false)
    (hq : slotOutputs[i]? = some q) (hsrc : entrySource (s.slotEntry r) i = some src) (hf : s.programSource r src = some f) :
    (meshNext r q = some (r2, q2) → (q2, s.sched + 1, f) ∈ ((entryDone s r).router r2).inputs) ∧
      (meshNext r q = none → farPort r q = some (r2, q2) → (q2, s.sched + 14, s.wall, f) ∈ ((entryDone s r).router r2).window) := by
  rw [entryDone, if_neg (ne_true_of_eq_false hprogram)]
  exact programEntry_sends (settledAt s r) hq hsrc ((settledAt_programSource s src).trans hf)

theorem routerWork_inputsSpent {writes : Bool} (s : State) (now : Nat) : RouterWork writes r s (inputsSpent s r now) := routerWork_own _ rfl rfl

theorem routerWork_noted {writes : Bool} (s : State) : RouterWork writes r s (noted s r) := routerWork_own _ rfl rfl

theorem routerBeat_runs {s : State} (hruns : (s.laneBeats r).runs = true)
    (hfirst : ((s.laneBeats r).router r).slotAt ≠ some (s.laneBeats r).beat.routed) : s.routerBeat r false =
      noted (inputsSpent (entryDone (s.laneBeats r) r) r (s.laneBeats r).sched) r := by
  have hrunning := running_of_runs hruns
  have haligned : (s.laneBeats r).beat.aligned = true := by
    simp only [State.runs, State.live, Bool.and_eq_true] at hruns
    obtain ⟨⟨⟨haligned, -⟩, -⟩, -⟩ := hruns
    exact haligned
  have hbusy : ¬(!(s.laneBeats r).beat.aligned || ((s.laneBeats r).router r).slotAt == some (s.laneBeats r).beat.routed) = true := by
    simp [haligned, hfirst]
  unfold State.routerBeat
  dsimp only
  rw [if_neg hbusy, if_neg (by simp [hrunning]), if_neg (by simp [hruns])]
  rfl

theorem noted_inputsSpent_router (s : State) (now : Nat) : (noted (inputsSpent s r now) r).router r = { s.router r with
    inputs := (s.router r).inputs.filter fun x => decide (now < x.2.1), slotAt := some s.beat.routed } := by
  unfold noted inputsSpent
  rw [setRouter_router_same, setRouter_router_same]
  rfl

end

/-- Settles O13: lanes, the entry, and the end of the beat are work of one router, which the relation `RouterWork` bounds; and each output of
the entry has its turn. -/
theorem anEntryMovesItsSourcesOnce : Obligations.AnEntryMovesItsSourcesOnce := by
  unfold Obligations.AnEntryMovesItsSourcesOnce
  intro r s hruns hfirst
  have hlanes := laneWork_laneBeats s r
  have hentry : (s.laneBeats r).slotEntry r = s.slotEntry r := (lanesWorked_laneBeats s r).slotEntry
  have hbeat : (s.laneBeats r).beat = s.beat := (congrArg State.beat hlanes.frame :)
  have hsched : (s.laneBeats r).sched = s.sched := (congrArg State.sched hlanes.frame :)
  have hwall : (s.laneBeats r).wall = s.wall := (congrArg State.wall hlanes.frame :)
  have hslotAt : ((s.laneBeats r).router r).slotAt = (s.router r).slotAt := (congrArg RouterState.slotAt hlanes.own :)
  have hdone := routerWork_entryDone (r := r) (s.laneBeats r)
  have hspent : RouterWork (bitOf (s.slotEntry r) 9 || bitOf (s.slotEntry r) 14) r (entryDone (s.laneBeats r) r)
      (noted (inputsSpent (entryDone (s.laneBeats r) r) r s.sched) r) := routerWork_trans (routerWork_inputsSpent _ _) (routerWork_noted _)
  rw [hentry] at hdone
  have hwork := routerWork_trans (routerWork_trans hlanes.routerWork hdone) hspent
  have hexec : s.routerBeat r false = noted (inputsSpent (entryDone (s.laneBeats r) r) r s.sched) r := by
    rw [← hsched]
    refine routerBeat_runs ((congrArg State.runs hlanes.frame :).trans hruns) ?_
    rwa [hbeat, hslotAt]
  refine ⟨_, congrArg Host.Outcome.next hexec, ?_, fun x hx => ?_, fun hprogram i q src q2 f r2 hq hsrc hf => ?_, fun hservant hwrite => ?_, hwork.tables,
    fun n hn haway => hwork.apart n hn fun ⟨q, q2, h⟩ => h.elim (haway q q2).1 (haway q q2).2, fun _ => hwork.frame⟩
  · rw [noted_inputsSpent_router, hdone.routed, hbeat]
  · rw [noted_inputsSpent_router] at hx
    exact of_decide_eq_true (List.mem_filter.mp hx).2
  · rw [← hentry] at hprogram hsrc
    obtain ⟨hmesh, hlink⟩ := entryDone_sends (r2 := r2) (q2 := q2) hprogram hq hsrc ((hlanes.programSource src).trans hf)
    rw [hsched] at hmesh hlink
    rw [hwall] at hlink
    exact ⟨fun h => hspent.inputs r2 (meshNext_ne h) (hmesh h), fun h h' => hspent.window r2 (farPort_ne h') (hlink h h')⟩
  · exact hwork.mem (by rw [hservant, hwrite]; rfl)

end Sys2Proof.Proofs
end

section
/-! O40. Triggers, the first beats of phases and the landing of route records (R147-R152, R161, R162, R172, R194). -/

namespace Sys2Proof.Proofs

open Sys2Proof Sys2Proof.Machine Sys2Proof.Laws

/-! ### Triggers (R148, R149, R194) -/

/-- A derailleur whose new trigger, issued in beat `pb`, waits for its phase. -/
def triggered (d : DerailleurState) (desc code pb : Nat) : DerailleurState :=
  { d with triggers := d.triggers ++ [(desc, code, pb + 4)], lastTrigBeat := some pb, lastTrigger := BitVec.ofNat 8 (64 * code + desc) }

theorem fetchedAt_derailleur (s : State) (p q : Nat) : (fetchedAt s p).derailleur q = s.derailleur q :=
  (congrArg (fun u : State => u.derailleur q) (fetchedAt_checksOnly s p) :)

/-- The `DTRIG` at the free port of a spoke is checked against the phases of its die. -/
theorem issueTrigger_checked {p : SpokeId} {s : State} {w : Word32} {code : Nat} (h : s.spokeAt p 0x3F 0x11 0x03FF3000 [] w)
    (hcode : fld w 15 14 = code) : s.issueTrigger p code =
      (((s.derailleur (p.val / 256)).triggerFault s.pbeat (fld w 11 6) code).map fun c => (c, 0, 0)).elim
        (((fetchedAt s p).setSpoke p (steppedSpoke s p)).setDerailleur (p.val / 256)
          (triggered (s.derailleur (p.val / 256)) (fld w 11 6) code s.pbeat))
        fun x => (fetchedAt s p).spokeFault x.1 p x.2.1 x.2.2 := by
  have hword : s.spokeWord p = w := by
    obtain ⟨-, -, -, -, hword, -⟩ := h
    exact hword
  have hmine : ¬(spokeOp w == some (0x3F, 0x11) && fld w 15 14 != code) = true := by simp [hcode]
  unfold State.issueTrigger
  dsimp only
  rw [hword, if_neg hmine, issueSpoke_checked h rfl rfl rfl rfl, setSpoke_derailleur, setSpoke_pbeat, fetchedAt_derailleur, fetchedAt_pbeat]
  rfl

theorem triggers_of_issueTrigger {mk : SpokeId → Instr} {code : Nat} (hexec : ∀ p s, exec (mk p) s = ok (s.issueTrigger p code)) :
    Triggers mk code := by
  intro p s w h hcode
  have hissue := (hexec p s).trans (congrArg ok (issueTrigger_checked h hcode))
  refine ⟨fun c hbad => ⟨_, hissue, ?_⟩, fun hgood => ⟨_, hissue, ?_⟩⟩
  · rw [hbad]
    exact spokeFault_fetched s p c 0 0
  · rw [hgood]
    obtain ⟨hspoke, hothers, hframe⟩ := (spokeBecomes_fetched s p).setSpoke (steppedSpoke s p)
    refine ⟨setDerailleur_derailleur_same _ _ _, fun q hq => ?_, hspoke, hothers, ?_⟩
    · exact (setDerailleur_derailleur _ _ _ q).trans ((if_neg hq).trans (fetchedAt_derailleur s p q))
    · exact (congrArg (fun u : State => { u with derailleurs := s.derailleurs }) hframe :)

/-! ### The first beat of a phase (R148, R161, R162) -/

/-- Entry `e` of the void table has its window in array `g` of the package. -/
def windowIn (d : DerailleurState) (die g e : Nat) : Bool := 2048 * die + fld (SMap.get 0 d.voidTab e) 50 40 == g

/-- The window of entry `e` of the void table, for a `VOID` that starts in beat `v0` (R162). -/
def unarmedWindow (d : DerailleurState) (v0 e : Nat) : VoidWindow :=
  { entry := e, first := v0 + fld (SMap.get 0 d.voidTab e) 39 20, len := fld (SMap.get 0 d.voidTab e) 19 0, armed := false }

theorem installWindows_cons (s : State) (die v0 e : Nat) (es : List Nat) : s.installWindows die v0 (e :: es) =
    (s.setArray (2048 * die + fld (SMap.get 0 (s.derailleur die).voidTab e) 50 40)
      { s.array (2048 * die + fld (SMap.get 0 (s.derailleur die).voidTab e) 50 40) with
        windows := (s.array (2048 * die + fld (SMap.get 0 (s.derailleur die).voidTab e) 50 40)).windows ++
          [unarmedWindow (s.derailleur die) v0 e] }).installWindows die v0 es := rfl

theorem installWindows_onlyArrays (die v0 : Nat) (es : List Nat) : ∀ s : State, OnlyArrays s (s.installWindows die v0 es) := by
  induction es with
  | nil => exact onlyArrays_refl
  | cons e es ih =>
    intro s
    rw [installWindows_cons]
    exact onlyArrays_trans (onlyArrays_setArray s _ _) (ih _)

/-- Each array takes the windows of its own entries, in their order. -/
theorem installWindows_array (die v0 g : Nat) (es : List Nat) : ∀ s : State, (s.installWindows die v0 es).array g =
    { s.array g with windows := (s.array g).windows ++
        (es.filter (windowIn (s.derailleur die) die g)).map (unarmedWindow (s.derailleur die) v0) } := by
  induction es with
  | nil => exact fun s => by rw [List.filter_nil, List.map_nil, List.append_nil]; rfl
  | cons e es ih =>
    intro s
    rw [installWindows_cons, ih, setArray_derailleur, setArray_array]
    by_cases hg : g = 2048 * die + fld (SMap.get 0 (s.derailleur die).voidTab e) 50 40
    · have hin : windowIn (s.derailleur die) die g e = true := beq_iff_eq.mpr hg.symm
      rw [if_pos hg, List.filter_cons_of_pos hin, List.map_cons, ← hg, List.append_assoc]
      rfl
    · have hout : ¬windowIn (s.derailleur die) die g e = true := fun h => hg (beq_iff_eq.mp h).symm
      rw [if_neg hg, List.filter_cons_of_neg hout]

/-- A derailleur whose oldest trigger has left for its phase in beat `pb`. -/
def triggerTaken (d : DerailleurState) (pb : Nat) (rest : List (Nat × Nat × Nat)) : DerailleurState :=
  { d.settle pb with triggers := rest }

/-- The derailleur runs a sweep phase of descriptor `desc` from beat `f` on. -/
def phaseRuns (d : DerailleurState) (phase : BitVec 3) (desc code f : Nat) : DerailleurState :=
  { d with phase := phase, phaseDesc := desc, phaseStart := f, phaseEnd := f + d.duration desc code, sweeps := [] }

/-- A `VOID` of descriptor `desc` runs: it takes its fill flits from its first beat on (R161). -/
def voidRuns (d : DerailleurState) (desc f : Nat) : DerailleurState :=
  { phaseRuns d 3 desc 2 f with
    fillSum := [], sweeps := [{ kind := .voidIn, line := 0, start := f, count := (layerDesc (SMap.get 0 d.desc desc)).fills }] }

section
variable {die : DieId} {s : State} {desc f : Nat} {rest : List (Nat × Nat × Nat)} (hrun : s.runs = true) (hdue : f ≤ s.pbeat)
include hrun hdue

theorem execDerailleurPhaseStart_open (h : (s.derailleur die).triggers = (desc, 0, f) :: rest) : execDerailleurPhaseStart die s =
    ok (s.setDerailleur die { triggerTaken (s.derailleur die) s.pbeat rest with route := [], collect := some desc }) := by
  simp only [execDerailleurPhaseStart, h, hrun, hdue, decide_true, Bool.and_self, if_true]
  rfl

theorem execDerailleurPhaseStart_dispatch (h : (s.derailleur die).triggers = (desc, 1, f) :: rest) : execDerailleurPhaseStart die s =
    ok (s.setDerailleur die { phaseRuns (triggerTaken (s.derailleur die) s.pbeat rest) 1 desc 1 f with
      collect := none, lastDispatch := some desc }) := by
  simp only [execDerailleurPhaseStart, h, hrun, hdue, decide_true, Bool.and_self, if_true]
  rfl

theorem execDerailleurPhaseStart_void (h : (s.derailleur die).triggers = (desc, 2, f) :: rest) : execDerailleurPhaseStart die s =
    ok ((s.setDerailleur die (voidRuns (triggerTaken (s.derailleur die) s.pbeat rest) desc f)).installWindows die f
      (voidEntries (layerDesc (SMap.get 0 (triggerTaken (s.derailleur die) s.pbeat rest).desc desc)))) := by
  simp only [execDerailleurPhaseStart, h, hrun, hdue, decide_true, Bool.and_self, if_true]
  rfl

theorem execDerailleurPhaseStart_combine {n : Nat} (h : (s.derailleur die).triggers = (desc, n + 3, f) :: rest) :
    execDerailleurPhaseStart die s =
      ok (s.setDerailleur die (phaseRuns (triggerTaken (s.derailleur die) s.pbeat rest) 4 desc (n + 3) f)) := by
  simp only [execDerailleurPhaseStart, h, hrun, hdue, decide_true, Bool.and_self, if_true]
  rfl

end

/-- An update of one derailleur leaves the others, and everything else, as they were. -/
theorem setDerailleur_only (s : State) (d : Nat) (a : DerailleurState) :
    (∀ q, q ≠ d → (s.setDerailleur d a).derailleur q = s.derailleur q) ∧
      { s.setDerailleur d a with derailleurs := s.derailleurs, arrays := s.arrays } = s :=
  ⟨fun q hq => (setDerailleur_derailleur s d a q).trans (if_neg hq), rfl⟩

/-! ### Route records (R152, R172) -/

theorem firstFault_cons (b : Bool) (code : Nat) (l : List (Bool × Nat)) :
    firstFault ((b, code) :: l) = if b then some code else firstFault l := by
  unfold firstFault
  cases b <;> rfl

/-- A record of a token that the layer does not have, or that has its record already, is at fault for that first. -/
theorem recordFault_token {d : DerailleurState} {r : BitVec 512} {desc : Nat} (hopen : d.collect = some desc)
    (hbad : slotN r 0 2 < (layerDesc (SMap.get 0 d.desc desc)).tokBase ∨
      (layerDesc (SMap.get 0 d.desc desc)).tokBase + (layerDesc (SMap.get 0 d.desc desc)).tok ≤ slotN r 0 2 ∨
      SMap.get? d.route (slotN r 0 2 - (layerDesc (SMap.get 0 d.desc desc)).tokBase) ≠ none) : d.recordFault r = some 0x13 := by
  unfold DerailleurState.recordFault
  rw [hopen]
  dsimp only
  rw [firstFault_cons, if_pos]
  simpa only [Bool.or_eq_true, decide_eq_true_eq, Option.isSome_iff_ne_none, or_assoc] using hbad

theorem raiseFault_derailleurs (s : State) (code unitKind d unit detail : Nat) :
    (s.raiseFault code unitKind d unit detail).derailleurs = s.derailleurs := by
  obtain ⟨hl, al, hs, as, m, h⟩ := raiseFault_eq s code unitKind d unit detail
  rw [h]

/-- The spoke's record has landed. -/
def recordTaken (s : State) (p due : Nat) : State := s.setSpoke p { s.spoke p with record := none, landed := some due }

section
variable {p : SpokeId} {s : State} {due : Nat} {r : BitVec 512} (hrec : (s.spoke p).record = some (due, r)) (hrun : s.runs = true)
  (hdue : due ≤ s.pbeat)
include hrec hrun hdue

theorem execRouteLanding_fault {code : Nat} (hbad : (s.derailleur (p.val / 256)).recordFault r = some code) :
    execRouteLanding p s = ok ((recordTaken s p due).raiseFault code 2 (p.val / 256) 0 0) := by
  simp only [execRouteLanding, hrec, hrun, hdue, decide_true, Bool.and_self, if_true, hbad]
  rfl

theorem execRouteLanding_lands {desc : Nat} (hopen : (s.derailleur (p.val / 256)).collect = some desc)
    (hgood : (s.derailleur (p.val / 256)).recordFault r = none) : execRouteLanding p s =
      ok ((recordTaken s p due).setDerailleur (p.val / 256) { s.derailleur (p.val / 256) with
        route := SMap.insert (s.derailleur (p.val / 256)).route
          (slotN r 0 2 - (layerDesc (SMap.get 0 (s.derailleur (p.val / 256)).desc desc)).tokBase) r }) := by
  simp only [execRouteLanding, hrec, hrun, hdue, decide_true, Bool.and_self, if_true, hgood, hopen]
  rfl

/-- A fault of a record names its die's derailleur, whose table stays as it was. -/
theorem routeLanding_faults {code : Nat} (hbad : (s.derailleur (p.val / 256)).recordFault r = some code) :
    Answers (.routeLanding p) s fun t => FaultRecorded s t code 2 (p.val / 256) 0 ∧ t.derailleurs = s.derailleurs := by
  have hdie : p.val / 256 < 8 := by have := p.isLt; omega
  refine ⟨_, execRouteLanding_fault hrec hrun hdue hbad, ?_, ?_⟩
  · exact faultRecorded_congr (raiseFault_recorded (recordTaken s p due) code 2 _ 0 0 hdie) rfl rfl rfl rfl
  · exact raiseFault_derailleurs (recordTaken s p due) code 2 _ 0 0

end

/-- Settles O40: a trigger is one more step of a spoke, the phase of the oldest begins, code by code, and a record lands or is a fault. -/
theorem triggersStartTheirPhases : Obligations.TriggersStartTheirPhases := by
  unfold Obligations.TriggersStartTheirPhases
  refine ⟨triggers_of_issueTrigger fun _ _ => rfl, triggers_of_issueTrigger fun _ _ => rfl, triggers_of_issueTrigger fun _ _ => rfl,
    triggers_of_issueTrigger fun _ _ => rfl, fun die s desc code f rest h hrun hdue => ?phase, fun p s due r hrec hrun hdue => ?landing⟩
  case phase =>
    match code, h with
    | 0, h =>
      exact ⟨_, execDerailleurPhaseStart_open hrun hdue h, fun _ => ⟨setDerailleur_derailleur_same _ _ _, rfl⟩, nofun, nofun, nofun,
        setDerailleur_only _ _ _⟩
    | 1, h =>
      exact ⟨_, execDerailleurPhaseStart_dispatch hrun hdue h, nofun, fun _ => ⟨setDerailleur_derailleur_same _ _ _, rfl⟩, nofun, nofun,
        setDerailleur_only _ _ _⟩
    | 2, h =>
      obtain ⟨hothers, hframe⟩ := setDerailleur_only s die (voidRuns (triggerTaken (s.derailleur die) s.pbeat rest) desc f)
      have honly := installWindows_onlyArrays die f
        (voidEntries (layerDesc (SMap.get 0 (triggerTaken (s.derailleur die) s.pbeat rest).desc desc)))
        (s.setDerailleur die (voidRuns (triggerTaken (s.derailleur die) s.pbeat rest) desc f))
      refine ⟨_, execDerailleurPhaseStart_void hrun hdue h, nofun, nofun, fun _ => ⟨?_, fun g => ?_⟩, nofun, fun q hq => ?_, ?_⟩
      · exact (congrArg (fun u : State => u.derailleur die) honly :).trans (setDerailleur_derailleur_same _ _ _)
      · rw [installWindows_array, setDerailleur_derailleur_same, setDerailleur_array]
        rfl
      · exact (congrArg (fun u : State => u.derailleur q) honly :).trans (hothers q hq)
      · exact (congrArg (fun u : State => { u with derailleurs := s.derailleurs, arrays := s.arrays }) honly :).trans hframe
    | n + 3, h =>
      refine ⟨_, execDerailleurPhaseStart_combine hrun hdue h, nofun, nofun, nofun, fun hn => ?_, setDerailleur_only _ _ _⟩
      obtain rfl : n = 0 := Nat.succ.inj (Nat.succ.inj (Nat.succ.inj hn))
      exact ⟨setDerailleur_derailleur_same _ _ _, rfl⟩
  case landing =>
    refine ⟨fun hclosed => routeLanding_faults hrec hrun hdue (by unfold DerailleurState.recordFault; rw [hclosed]), fun desc hopen =>
      ⟨fun hbad => routeLanding_faults hrec hrun hdue (recordFault_token hopen hbad), fun hgood => ?_⟩⟩
    refine ⟨_, execRouteLanding_lands hrec hrun hdue hopen hgood, fun i => ?_, ?_, ?_, fun q hq => ?_, fun q hq => ?_, rfl⟩
    · rw [setDerailleur_derailleur_same]
      exact get?_insert _ _ _ _
    · rw [setDerailleur_derailleur_same]
    · rw [setDerailleur_spoke]
      exact setSpoke_spoke_same _ _ _
    · exact (setDerailleur_derailleur _ _ _ q).trans (if_neg hq)
    · rw [setDerailleur_spoke]
      exact (setSpoke_spoke _ _ _ q).trans (if_neg hq)

end Sys2Proof.Proofs
end

section
/-! Rules for O41: what assignment places, and what it counts (R153-R158, R173). -/

namespace Sys2Proof.Proofs

open Sys2Proof Sys2Proof.Machine Sys2Proof.Laws

/-! ### Placing choices (R156, Table 5.6) -/

/-- No expert has more tokens than its quota, and each choice that was counted was placed in one of three ways or dropped. -/
structure AssignSound (d : DerailleurState) (die : Nat) (a : Assign) : Prop where
  quota : ∀ x, SMap.get 0 a.used x ≤ d.quotaOf die x
  sorted : a.active = a.direct + a.reserve + a.overflow + a.dropped

section
variable {d : DerailleurState} {die : Nat}

/-- Taking a free slot keeps the quotas. -/
theorem place_quota {a : Assign} {x : Nat} (h : ∀ z, SMap.get 0 a.used z ≤ d.quotaOf die z) (hfree : d.free die a x = true)
    (t k : Nat) (gate : BitVec 16) (z : Nat) : SMap.get 0 (d.place a t k x gate).used z ≤ d.quotaOf die z := by
  have hroom : SMap.get 0 a.used x < d.quotaOf die x := of_decide_eq_true hfree
  unfold DerailleurState.place
  rw [get_set]
  by_cases hz : z = x
  · rw [if_pos hz, hz]
    exact hroom
  · rw [if_neg hz]
    exact h z

theorem choose_sound (y : LayerDesc) (t : Nat) (r : BitVec 512) {st : Assign × TokenRun} (k : Nat) (h : AssignSound d die st.1) :
    AssignSound d die (d.choose die y t r st k).1 := by
  obtain ⟨hquota, hsorted⟩ := h
  have hdrop : AssignSound d die { st.1 with active := st.1.active + 1, dropped := st.1.dropped + 1 } :=
    ⟨hquota, by dsimp only; omega⟩
  unfold DerailleurState.choose
  extract_lets entry x b a u fits x2
  split
  case isTrue hown => exact ⟨place_quota hquota hown t k (choiceGate r k), by simp only [DerailleurState.place, a, b]; omega⟩
  case isFalse =>
    split
    · split
      next j hj =>
        have hfree : d.free die a (entry j) = true := by
          have hfits := List.find?_some hj
          simp only [fits, Bool.and_eq_true] at hfits
          obtain ⟨⟨-, hfree⟩, -⟩ := hfits
          exact hfree
        exact ⟨place_quota hquota hfree t k (choiceGate r j), by simp only [DerailleurState.place, a, b]; omega⟩
      next => exact hdrop
    · split
      case isTrue hall => exact ⟨place_quota hquota hall t k (choiceGate r k), by simp only [DerailleurState.place, a, b]; omega⟩
      case isFalse => exact hdrop
    · exact hdrop

end

/-! ### Counters (R173, Table 5.11) -/

/-- Each counter of `cs` of the running phase's descriptor has grown by its number. -/
def counted (d : DerailleurState) (cs : List (Nat × Nat)) : DerailleurState := cs.foldl (fun d c => d.count d.phaseDesc c.1 c.2) d

theorem counted_frame (cs : List (Nat × Nat)) : ∀ d : DerailleurState, { counted d cs with counters := d.counters } = d := by
  induction cs with
  | nil => exact fun _ => rfl
  | cons c cs ih => exact fun d => (congrArg (fun e : DerailleurState => { e with counters := d.counters }) (ih (d.count d.phaseDesc c.1 c.2)) :)

/-- A counter grows by what is listed for it. -/
theorem counted_counters (j : Nat) (cs : List (Nat × Nat)) : ∀ d : DerailleurState, SMap.get 0 (counted d cs).counters j =
    SMap.get 0 d.counters j + ((cs.filter fun c => 16 * d.phaseDesc + c.1 == j).map fun c => BitVec.ofNat 32 c.2).sum := by
  induction cs with
  | nil => exact fun d => by rw [List.filter_nil, List.map_nil, List.sum_nil, add_zero]; rfl
  | cons c cs ih =>
    intro d
    have hnext := ih (d.count d.phaseDesc c.1 c.2)
    have hone : SMap.get 0 (d.count d.phaseDesc c.1 c.2).counters j =
        if j = 16 * d.phaseDesc + c.1 then SMap.get 0 d.counters (16 * d.phaseDesc + c.1) + BitVec.ofNat 32 c.2 else SMap.get 0 d.counters j :=
      get_set _ _ _ _ _
    rw [hone] at hnext
    refine hnext.trans ?_
    by_cases hj : j = 16 * d.phaseDesc + c.1
    · have hlisted : (16 * d.phaseDesc + c.1 == j) = true := beq_iff_eq.mpr hj.symm
      rw [if_pos hj, List.filter_cons_of_pos (p := fun c : Nat × Nat => 16 * d.phaseDesc + c.1 == j) hlisted, List.map_cons,
        List.sum_cons, ← hj, add_assoc]
      rfl
    · have hother : ¬(16 * d.phaseDesc + c.1 == j) = true := fun h => hj (beq_iff_eq.mp h).symm
      rw [if_neg hj, List.filter_cons_of_neg (p := fun c : Nat × Nat => 16 * d.phaseDesc + c.1 == j) hother]
      rfl

/-- The counts of one assignment, `present` of the layer's tokens having a record and `masked` being masked. -/
def assignCounts (y : LayerDesc) (a : Assign) (present masked : Nat) : List (Nat × Nat) :=
  [(1, present), (2, y.tok - present), (3, masked), (4, a.active), (5, a.direct), (6, a.reserve), (7, a.overflow), (8, a.dropped),
    (9, a.direct + a.reserve + a.overflow), (10, y.slots - (a.direct + a.reserve + a.overflow))]

/-- What a dispatch assigns: exit bits, skip flags, a ledger with its slots, and the counts. -/
theorem assign_eq (d : DerailleurState) (die : Nat) (y : LayerDesc) : ∃ (a : Assign) (present masked : Nat) (exits skips : List Nat),
    AssignSound d die a ∧ present ≤ y.tok ∧
      d.assign die y = counted { d with exits := exits, skips := skips, ledger := a.ledger, filled := a.used } (assignCounts y a present masked) := by
  unfold DerailleurState.assign
  extract_lets toks flagged old exits a placed present counts d1
  refine ⟨a, present, _, exits, flagged 0, ?_, ?_, rfl⟩
  · refine List.foldlRecOn toks _ ⟨fun _ => Nat.zero_le _, rfl⟩ fun b hb t _ => ?_
    split
    next r _ =>
      split
      · exact hb
      · exact List.foldlRecOn (motive := fun st : Assign × TokenRun => AssignSound d die st.1) _ _ hb
          fun st hst k _ => choose_sound y t r k hst
    next => exact hb
  · exact (List.length_filter_le _ _).trans_eq List.length_range

section
variable (d : DerailleurState) (y : LayerDesc) (a : Assign) (present masked : Nat)

/-- By how much counter `i` of the running phase's descriptor grows when an assignment is counted. -/
def assignGrowth (i : Nat) : Word32 :=
  SMap.get 0 (counted d (assignCounts y a present masked)).counters (16 * d.phaseDesc + i) - SMap.get 0 d.counters (16 * d.phaseDesc + i)

theorem assignGrowth_eq (i : Nat) : assignGrowth d y a present masked i =
    (((assignCounts y a present masked).filter fun c => c.1 == i).map fun c => BitVec.ofNat 32 c.2).sum := by
  unfold assignGrowth
  rw [counted_counters, add_sub_cancel_left]
  simp only [Nat.add_left_cancel_iff, beq_eq_decide]

/-- Every token is present or absent, every active choice is placed or dropped, and every placed one fills a slot (R173). -/
theorem assignGrowth_sums (hpresent : present ≤ y.tok) (hsorted : a.active = a.direct + a.reserve + a.overflow + a.dropped) :
    let grown := assignGrowth d y a present masked
    grown 1 + grown 2 = BitVec.ofNat 32 y.tok ∧ grown 4 = grown 5 + grown 6 + grown 7 + grown 8 ∧ grown 9 = grown 5 + grown 6 + grown 7 := by
  have htokens : BitVec.ofNat 32 present + BitVec.ofNat 32 (y.tok - present) = BitVec.ofNat 32 y.tok := by
    rw [← BitVec.ofNat_add, Nat.add_sub_cancel' hpresent]
  simp [assignGrowth_eq, assignCounts, htokens, hsorted, BitVec.ofNat_add]

end

/-- The counters of other descriptors stay. -/
theorem assigned_elsewhere {d : DerailleurState} {y : LayerDesc} {a : Assign} {present masked n : Nat} (hn : n / 16 ≠ d.phaseDesc) :
    SMap.get 0 (counted d (assignCounts y a present masked)).counters n = SMap.get 0 d.counters n := by
  have hsmall : ∀ c ∈ assignCounts y a present masked, c.1 < 16 := by simp [assignCounts]
  have hnone : ((assignCounts y a present masked).filter fun c => 16 * d.phaseDesc + c.1 == n) = [] := by
    refine List.filter_eq_nil_iff.mpr fun c hc => ?_
    have := hsmall c hc
    rw [beq_iff_eq]
    omega
  rw [counted_counters, hnone, List.map_nil, List.sum_nil, add_zero]

/-- What an assignment leaves: the slots that its choices took, and its counts; of the rest only exit bits, skip flags and ledger differ. -/
theorem assign_accounts (d : DerailleurState) (die : Nat) (y : LayerDesc) : ∃ (a : Assign) (present masked : Nat),
    AssignSound d die a ∧ present ≤ y.tok ∧ (d.assign die y).filled = a.used ∧
      (∀ j, SMap.get 0 (d.assign die y).counters j = SMap.get 0 (counted d (assignCounts y a present masked)).counters j) ∧
      ∀ ph : BitVec 3, { d.assign die y with phase := ph, exits := [], skips := [], ledger := [], filled := [], counters := [] } =
        { d with phase := ph, exits := [], skips := [], ledger := [], filled := [], counters := [] } := by
  obtain ⟨a, present, masked, exits, skips, hsound, hpresent, hassign⟩ := assign_eq d die y
  have hframe := counted_frame (assignCounts y a present masked) { d with exits := exits, skips := skips, ledger := a.ledger, filled := a.used }
  rw [← hassign] at hframe
  generalize d.assign die y = e at *
  refine ⟨a, present, masked, hsound, hpresent, (congrArg DerailleurState.filled hframe :), fun j => ?_, fun ph => ?_⟩
  · rw [hassign, counted_counters, counted_counters]
  · exact (congrArg (fun e : DerailleurState => { e with
      phase := ph, exits := [], skips := [], ledger := [], filled := [], counters := [] }) hframe :)

theorem execAssignment_due {die : DieId} {s : State} (hrun : s.runs = true) (hphase : (s.derailleur die).phase = 1)
    (hdue : (s.derailleur die).phaseStart + (s.derailleur die).layer.tok + 15 ≤ s.pbeat) : execAssignment die s =
      ok (s.setDerailleur die { (s.derailleur die).assign die (s.derailleur die).layer with phase := 2 }) := by
  simp only [execAssignment, hrun, hphase, hdue, beq_self_eq_true, decide_true, Bool.and_self, if_true]

end Sys2Proof.Proofs
end

section
/-! Rules for O41: sweeps, and the lines that a combine sums (R147, R159, R160, R166, R217). -/

namespace Sys2Proof.Proofs

open Sys2Proof Sys2Proof.Machine Sys2Proof.Laws

/-- A derailleur in which sweep `w` has started in beat `pb`, and those that are over have dropped out. -/
def withSweep (d : DerailleurState) (pb : Nat) (w : Sweep) : DerailleurState :=
  { d with sweeps := (d.sweeps.filter fun x => decide (pb < x.start + (x.count + 31) / 32)) ++ [w] }

theorem startSweep_due {s : State} {die : Nat} {w : Sweep} (hrun : s.runs = true) (hdue : w.start ≤ s.pbeat)
    (hnew : w ∉ (s.derailleur die).sweeps) : s.startSweep die w = s.setDerailleur die (withSweep (s.derailleur die) s.pbeat w) := by
  unfold State.startSweep
  exact if_pos (by simp [hrun, hdue, hnew])

theorem startSweep_early {s : State} {w : Sweep} (die : Nat) (hearly : s.pbeat < w.start) : s.startSweep die w = s := by
  unfold State.startSweep
  exact if_neg (by simp [Nat.not_le.mpr hearly])

theorem startSweep_halted {s : State} (die : Nat) (w : Sweep) (h : s.runs = false) : s.startSweep die w = s := by
  unfold State.startSweep
  exact if_neg (by simp [h])

theorem sweepStarts_of_startSweep {c : Instr} {die : DieId} {s : State} {w : Sweep} (hexec : exec c s = ok (s.startSweep die w)) :
    SweepStarts c die s w := by
  refine ⟨fun hrun hdue hnew => ⟨_, hexec.trans (congrArg ok (startSweep_due hrun hdue hnew)), ?_⟩, fun _ hearly => ?_⟩
  · exact ⟨setDerailleur_derailleur_same _ _ _, fun q hq => (setDerailleur_derailleur _ _ _ q).trans (if_neg hq), rfl⟩
  · exact hexec.trans (congrArg ok (startSweep_early die hearly))

theorem execDispatchSweep_line {die : DieId} {out : Bool} {line : Nat} {s : State} (hphase : (s.derailleur die).phase = 2)
    (hline : line < (s.derailleur die).layer.inLines) : execDispatchSweep die out line s = ok (s.startSweep die
      { kind := if out then .dispatchOut else .dispatchIn, line := line
        start := (s.derailleur die).s0 + (line + if out then 1 else 0) * (s.derailleur die).layer.sweepBeats
        count := if out then (s.derailleur die).layer.slots else (s.derailleur die).layer.tok }) := by
  unfold execDispatchSweep
  dsimp only
  rw [if_pos (by simp [hphase, hline])]
  cases out <;> rfl

theorem execFillSweep_sweeps {die : DieId} {s : State} (hphase : (s.derailleur die).phase = 2) : execFillSweep die s = ok (s.startSweep die
    { kind := .fillOut, line := 0
      start := (s.derailleur die).s0 + ((s.derailleur die).layer.inLines + 1) * (s.derailleur die).layer.sweepBeats
      count := ((s.derailleur die).bound (s.derailleur die).layer).length }) := by
  unfold execFillSweep
  dsimp only
  rw [if_pos (by simp [hphase])]

/-! ### The sums of a combine's beat (R166, R167, R217) -/

/-- Result `i` of out-sweep `w` leaves in beat `pb` and sums a poisoned line. -/
def sumsBad (d : DerailleurState) (w : Sweep) (pb i : Nat) : Prop :=
  (i < w.count ∧ w.start + i / 32 = pb) ∧ ∃ x ∈ d.summed d.layer i, SMap.get 0 d.linePoison (16384 * (w.line % 2) + x) ≠ 0

section
variable {d : DerailleurState} {w : Sweep} {pb : Nat}
  (hin : ∀ x ∈ d.sweeps, pb < x.start + (x.count + 31) / 32 → x.kind = .combineIn) (hw : w.kind = .combineOut)
include hin hw

/-- The only out-sweep in progress is the one that has started. -/
theorem sweepAt_withSweep (p : Nat) : sweepAt (withSweep d pb w) true p pb =
    if w.start ≤ pb ∧ p + 32 * (pb - w.start) < w.count then some (w, p + 32 * (pb - w.start)) else none := by
  have hnone : ∀ x ∈ d.sweeps.filter fun x => decide (pb < x.start + (x.count + 31) / 32), x.kind = .combineIn := fun x hx => by
    obtain ⟨hmem, hactive⟩ := List.mem_filter.mp hx
    exact hin x hmem (of_decide_eq_true hactive)
  unfold sweepAt withSweep
  rw [List.findSome?_append, List.findSome?_eq_none_iff.mpr fun x hx => by simp [hnone x hx], Option.none_or]
  simp [hw]

theorem sumsPoison_withSweep (hphase : d.phase = 4) : (withSweep d pb w).sumsPoison pb = true ↔ ∃ i, sumsBad d w pb i := by
  have hports : (withSweep d pb w).sumsPoison pb = true ↔
      ∃ p < 32, (w.start ≤ pb ∧ p + 32 * (pb - w.start) < w.count) ∧
        ∃ x ∈ d.summed d.layer (p + 32 * (pb - w.start)), SMap.get 0 d.linePoison (16384 * (w.line % 2) + x) ≠ 0 := by
    have hphase' : (withSweep d pb w).phase = 4 := hphase
    unfold DerailleurState.sumsPoison
    rw [hphase', beq_self_eq_true, Bool.true_and, List.any_eq_true]
    refine exists_congr fun p => and_congr List.mem_range ?_
    rw [sweepAt_withSweep hin hw p]
    by_cases hat : w.start ≤ pb ∧ p + 32 * (pb - w.start) < w.count
    · rw [if_pos hat]
      simp only [hw, beq_self_eq_true, Bool.true_and, List.any_eq_true, bne_iff_ne, ne_eq, and_iff_right hat]
      exact Iff.rfl
    · simp [hat]
  rw [hports]
  constructor
  · rintro ⟨p, hp, ⟨hstart, hcount⟩, hbad⟩
    exact ⟨_, ⟨hcount, by omega⟩, hbad⟩
  · rintro ⟨i, ⟨hcount, hbeat⟩, hbad⟩
    have hi : i % 32 + 32 * (pb - w.start) = i := by omega
    exact ⟨i % 32, by omega, ⟨by omega, by rwa [hi]⟩, by rwa [hi]⟩

end

theorem machineCheck_recorded (s : State) (code unitKind d unit detail : Nat) :
    (s.machineCheck code unitKind d unit detail).beat.faultHold = true ∧ (s.machineCheck code unitKind d unit detail).beat.machineCheck = true ∧
      ∃ r, (s.machineCheck code unitKind d unit detail).hubLog.getLast? = some r ∧ r.cls = 2 ∧ r.code = BitVec.ofNat 8 code ∧
        r.unitKind = BitVec.ofNat 8 unitKind ∧ r.die = BitVec.ofNat 8 d := by
  obtain ⟨r, hr, hcls, hcode, hkind, hdie, -⟩ := log_last s 2 code unitKind d unit detail
  have hlog : (s.machineCheck code unitKind d unit detail).hubLog = (s.log 2 code unitKind d unit detail).hubLog := by
    unfold State.machineCheck State.faultDemand
    rw [setBeat_hubLog, setBeat_hubLog]
  obtain ⟨hl, al, hs, as, m, h⟩ := machineCheck_eq s code unitKind d unit detail
  exact ⟨by rw [h], by rw [h], r, by rw [hlog, hr], hcls, hcode, hkind, hdie⟩

/-- A combine that sums a poisoned line in this beat is a machine check of its derailleur. -/
theorem combineCheck_recorded {s : State} {die : Nat} (hrun : s.runs = true) (hbad : (s.derailleur die).sumsPoison s.pbeat = true) :
    (s.combineCheck die).beat.faultHold = true ∧ (s.combineCheck die).beat.machineCheck = true ∧
      ∃ r, (s.combineCheck die).hubLog.getLast? = some r ∧ r.cls = 2 ∧ r.code = 0x40 ∧ r.unitKind = 2 ∧ r.die = BitVec.ofNat 8 die := by
  have hcheck : s.combineCheck die = s.draw.2.poisonCheck 2 die 0 (s.draw.1.toNat % 2 ^ 48) := by
    unfold State.combineCheck
    rw [hrun, hbad]
    rfl
  rw [hcheck]
  exact machineCheck_recorded s.draw.2 0x40 2 die 0 _

theorem combineCheck_halted {s : State} (die : Nat) (h : s.runs = false) : s.combineCheck die = s := by
  unfold State.combineCheck
  rw [h]
  rfl

theorem combineCheck_derailleur (s : State) (die q : Nat) : (s.combineCheck die).derailleur q = s.derailleur q :=
  (congrArg (fun u : State => u.derailleur q) (hasRead_combineCheck s die).frame :)

/-- The sweep of output line `line` of a combine, in or out (R166). -/
def combineSweepOf (d : DerailleurState) (out : Bool) (line : Nat) : Sweep :=
  { kind := if out then .combineOut else .combineIn, line := line
    start := d.phaseStart + (line + if out then 1 else 0) * d.layer.combineBeats
    count := if out then d.layer.tok else d.layer.slots + d.layer.homes }

section
variable {die : DieId} {out : Bool} {line : Nat} {s : State} (hphase : (s.derailleur die).phase = 4)
  (hline : line < (s.derailleur die).layer.outLines)
include hphase hline

theorem execCombineSweep_line : execCombineSweep die out line s =
    ok (if out && decide ((combineSweepOf (s.derailleur die) out line).start ≤ s.pbeat) &&
          !(s.derailleur die).sweeps.contains (combineSweepOf (s.derailleur die) out line)
        then (s.startSweep die (combineSweepOf (s.derailleur die) out line)).combineCheck die
        else s.startSweep die (combineSweepOf (s.derailleur die) out line)) := by
  unfold execCombineSweep
  dsimp only
  rw [if_pos (by simp [hphase, hline])]
  cases out <;> rfl

variable (hin : ∀ x ∈ (s.derailleur die).sweeps, s.pbeat < x.start + (x.count + 31) / 32 → x.kind = .combineIn)
include hin

/-- A sweep of a combine that sums no poisoned line in this beat starts, and that is all. -/
theorem execCombineSweep_clean (hclean : out = true → ∀ i, ¬sumsBad (s.derailleur die) (combineSweepOf (s.derailleur die) out line) s.pbeat i) :
    execCombineSweep die out line s = ok (s.startSweep die (combineSweepOf (s.derailleur die) out line)) := by
  refine (execCombineSweep_line hphase hline).trans (congrArg ok (ite_eq_right_iff.mpr fun hchecked => ?_))
  simp only [Bool.and_eq_true, decide_eq_true_eq, Bool.not_eq_true', List.contains_eq_mem, decide_eq_false_iff_not] at hchecked
  obtain ⟨⟨hout, hdue⟩, hnew⟩ := hchecked
  cases hrun : s.runs with
  | false =>
    rw [startSweep_halted _ _ hrun]
    exact combineCheck_halted _ hrun
  | true =>
    rw [startSweep_due hrun hdue hnew]
    refine combineCheck_clean (Bool.eq_false_iff.mpr fun hbad => ?_)
    rw [setDerailleur_derailleur_same, setDerailleur_pbeat] at hbad
    obtain ⟨i, hi⟩ := (sumsPoison_withSweep hin (if_pos hout) hphase).mp hbad
    exact hclean hout i hi

/-- An out-sweep of a combine that sums a poisoned line in this beat starts, and its sums are checked. -/
theorem execCombineSweep_poisoned (hout : out = true) (hrun : s.runs = true)
    (hnew : combineSweepOf (s.derailleur die) out line ∉ (s.derailleur die).sweeps)
    (hbad : ∃ i, sumsBad (s.derailleur die) (combineSweepOf (s.derailleur die) out line) s.pbeat i) : ∃ u : State,
      execCombineSweep die out line s = ok (u.combineCheck die) ∧ u.runs = true ∧ (u.derailleur die).sumsPoison u.pbeat = true ∧
        u.derailleur die = withSweep (s.derailleur die) s.pbeat (combineSweepOf (s.derailleur die) out line) := by
  have hdue : (combineSweepOf (s.derailleur die) out line).start ≤ s.pbeat := by
    obtain ⟨i, ⟨-, hbeat⟩, -⟩ := hbad
    omega
  have hchecked : (out && decide ((combineSweepOf (s.derailleur die) out line).start ≤ s.pbeat) &&
      !(s.derailleur die).sweeps.contains (combineSweepOf (s.derailleur die) out line)) = true := by
    rw [hout] at hdue hnew ⊢
    simp [hdue, hnew]
  have hstart := startSweep_due hrun hdue hnew
  refine ⟨_, (execCombineSweep_line hphase hline).trans (congrArg ok (if_pos hchecked)), ?_, ?_, ?_⟩ <;> rw [hstart]
  · exact hrun
  · rw [setDerailleur_derailleur_same]
    exact (sumsPoison_withSweep hin (if_pos hout) hphase).mpr hbad
  · exact setDerailleur_derailleur_same _ _ _

end

end Sys2Proof.Proofs
end

section
/-! Rules for O41: the arming of void windows (R161, R163). -/

namespace Sys2Proof.Proofs

open Sys2Proof Sys2Proof.Machine Sys2Proof.Laws

/-- The expert of an entry of the void table received no token: it is one of this die's with void windows, and no fill flit counts for it. -/
def expertVoided (d : DerailleurState) (die e : Nat) : Prop :=
  fld (SMap.get 0 d.voidTab e) 63 51 ∈ d.bound d.layer ∧ d.kind (fld (SMap.get 0 d.voidTab e) 63 51) = 1 ∧
    slotN (SMap.get 0 d.binding (fld (SMap.get 0 d.voidTab e) 63 51)) 3 1 % 8 = die ∧
    nbit (slotN (SMap.get 0 d.binding (fld (SMap.get 0 d.voidTab e) 63 51)) 3 1) 3 = true ∧
    SMap.get 0 d.fillSum (fld (SMap.get 0 d.voidTab e) 63 51) = 0

/-- The array of a void table entry's window. -/
def windowArray (d : DerailleurState) (die e : Nat) : Nat := 2048 * die + fld (SMap.get 0 d.voidTab e) 50 40

/-- Its first beat, in the `VOID` that runs. -/
def windowFirst (d : DerailleurState) (e : Nat) : Nat := d.phaseStart + fld (SMap.get 0 d.voidTab e) 39 20

/-- The windows of entry `e` in its array become armed or not; those of an earlier `VOID` go. -/
def entryArmed (d : DerailleurState) (die : Nat) (arms : Nat → Bool) (s : State) (e : Nat) : State :=
  s.setArray (windowArray d die e) { s.array (windowArray d die e) with
    windows := ((s.array (windowArray d die e)).windows.filter fun w => w.entry != e || w.first == windowFirst d e).map fun w =>
      if w.entry = e then { w with armed := arms e } else w }

/-- The windows of entry `e` are of this `VOID`, and armed as `arms` says. -/
def WindowsRight (d : DerailleurState) (die : Nat) (arms : Nat → Bool) (s : State) (e : Nat) : Prop :=
  ∀ w ∈ (s.array (windowArray d die e)).windows, w.entry = e → w.armed = arms e ∧ w.first = windowFirst d e

section
variable {d : DerailleurState} {die : Nat} {arms : Nat → Bool}

/-- Arming an entry puts its windows right and leaves those of other entries right. -/
theorem windowsRight_entryArmed {s : State} {e x : Nat} (h : e = x ∨ WindowsRight d die arms s e) :
    WindowsRight d die arms (entryArmed d die arms s x) e := by
  intro w hw he
  unfold entryArmed at hw
  rw [setArray_array] at hw
  by_cases harray : windowArray d die e = windowArray d die x
  · rw [if_pos harray] at hw
    obtain ⟨v, hv, rfl⟩ := List.mem_map.mp hw
    obtain ⟨hold, hkept⟩ := List.mem_filter.mp hv
    by_cases hx : v.entry = x
    · rw [if_pos hx] at he ⊢
      have hex : x = e := hx.symm.trans he
      subst hex
      refine ⟨rfl, ?_⟩
      simpa [hx] using hkept
    · rw [if_neg hx] at he ⊢
      exact (h.resolve_left fun hex => hx (he.trans hex)) v (harray ▸ hold) he
  · rw [if_neg harray] at hw
    exact (h.resolve_left fun hex => harray (hex ▸ rfl)) w hw he

theorem foldl_entryArmed_right (es : List Nat) : ∀ (s : State) (e : Nat), e ∈ es ∨ WindowsRight d die arms s e →
    WindowsRight d die arms (es.foldl (entryArmed d die arms) s) e := by
  induction es with
  | nil => exact fun s e h => h.resolve_left List.not_mem_nil
  | cons x es ih =>
    refine fun s e h => ih _ e ?_
    rcases h with h | h
    · exact (List.mem_cons.mp h).symm.imp_right fun hx => windowsRight_entryArmed (.inl hx)
    · exact .inr (windowsRight_entryArmed (.inr h))

/-- Of an array, arming changes its windows alone. -/
theorem foldl_entryArmed_array (es : List Nat) (s : State) (g : Nat) :
    { (es.foldl (entryArmed d die arms) s).array g with windows := [] } = { s.array g with windows := [] } := by
  refine foldl_kept (fun u => { u.array g with windows := [] }) (fun u e => ?_) es s
  dsimp only [entryArmed]
  rw [setArray_array]
  by_cases hg : g = windowArray d die e
  · rw [if_pos hg, hg]
  · rw [if_neg hg]

theorem foldl_entryArmed_onlyArrays (es : List Nat) (s : State) : OnlyArrays s (es.foldl (entryArmed d die arms) s) :=
  (foldl_kept (f := entryArmed d die arms) (fun u : State => { u with arrays := s.arrays }) (fun _ _ => rfl) es s :)

end

/-- The derailleur at the end of a `VOID`, its counters being `cs`. -/
def voidEnded (d : DerailleurState) (arms : Nat → Bool) (cs : SMap Word32) : DerailleurState :=
  { d with
    counters := cs, phase := 0, sweeps := []
    armed := (d.armed.filter fun e => !(voidEntries d.layer).contains e) ++ (voidEntries d.layer).filter arms }

theorem mem_voidEnded_armed (d : DerailleurState) (arms : Nat → Bool) (cs : SMap Word32) (e : Nat) :
    e ∈ (voidEnded d arms cs).armed ↔ if e ∈ voidEntries d.layer then arms e = true else e ∈ d.armed := by
  unfold voidEnded
  by_cases he : e ∈ voidEntries d.layer <;> simp [he]

/-- At the end of a `VOID` its counters grow, each of its entries becomes armed or not, and so do their windows. -/
theorem execVoidArming_due {die : DieId} {s : State} (hrun : s.runs = true) (hphase : (s.derailleur die).phase = 3)
    (hlast : (s.derailleur die).phaseEnd ≤ s.pbeat + 1) : ∃ (arms : Nat → Bool) (cs : SMap Word32),
      (∀ e, arms e = true ↔ expertVoided (s.derailleur die) die e) ∧
      execVoidArming die s = ok ((voidEntries (s.derailleur die).layer).foldl (entryArmed (s.derailleur die) die arms)
        (s.setDerailleur die (voidEnded (s.derailleur die) arms cs))) := by
  unfold execVoidArming
  extract_lets d y homed voided entries fields arms gated c beats d1 d2 s1
  refine ⟨arms, _, fun e => ?_, (if_pos (by simp [d, hrun, hphase, hlast])).trans rfl⟩
  simp only [arms, voided, homed, fields, voidEntry, List.contains_iff_mem, List.mem_filter, Bool.and_eq_true, beq_iff_eq]
  unfold expertVoided
  exact ⟨fun ⟨⟨hbound, ⟨hkind, hhome⟩, hvoid⟩, hsum⟩ => ⟨hbound, hkind, hhome, hvoid, hsum⟩,
    fun ⟨hbound, hkind, hhome, hvoid, hsum⟩ => ⟨⟨hbound, ⟨hkind, hhome⟩, hvoid⟩, hsum⟩⟩

/-- The end of a `VOID` concerns its derailleur and the windows of its entries. -/
theorem execVoidArming_answers {die : DieId} {s : State} (hrun : s.runs = true) (hphase : (s.derailleur die).phase = 3)
    (hlast : (s.derailleur die).phaseEnd ≤ s.pbeat + 1) : ∃ (arms : Nat → Bool) (cs : SMap Word32) (t : State),
      execVoidArming die s = ok t ∧ (∀ e, arms e = true ↔ expertVoided (s.derailleur die) die e) ∧
      t.derailleur die = voidEnded (s.derailleur die) arms cs ∧
      (∀ e ∈ voidEntries (s.derailleur die).layer, WindowsRight (s.derailleur die) die arms t e) ∧
      (∀ g, { t.array g with windows := [] } = { s.array g with windows := [] }) ∧
      (∀ q, q ≠ die.val → t.derailleur q = s.derailleur q) ∧ { t with derailleurs := s.derailleurs, arrays := s.arrays } = s := by
  obtain ⟨arms, cs, harms, hexec⟩ := execVoidArming_due hrun hphase hlast
  obtain ⟨hothers, hframe⟩ := setDerailleur_only s die (voidEnded (s.derailleur die) arms cs)
  have honly := foldl_entryArmed_onlyArrays (d := s.derailleur die) (die := die) (arms := arms) (voidEntries (s.derailleur die).layer)
    (s.setDerailleur die (voidEnded (s.derailleur die) arms cs))
  have hderailleur (q : Nat) := (congrArg (fun u : State => u.derailleur q) honly :)
  exact ⟨arms, cs, _, hexec, harms, (hderailleur die).trans (setDerailleur_derailleur_same _ _ _),
    fun e he => foldl_entryArmed_right _ _ e (.inl he), fun g => foldl_entryArmed_array _ _ g, fun q hq => (hderailleur q).trans (hothers q hq),
    (congrArg (fun u : State => { u with derailleurs := s.derailleurs, arrays := s.arrays }) honly :).trans hframe⟩

end Sys2Proof.Proofs
end

section
/-! O41. Assignment, sweeps, the sums of a combine, and the end of a `VOID`. -/

namespace Sys2Proof.Proofs

open Sys2Proof Sys2Proof.Machine Sys2Proof.Laws

/-- Settles O41: assignment places or drops choice by choice; a sweep joins those in progress, and an out-sweep of a combine is checked for
poison; arming goes through the entries one by one. -/
theorem assignmentSweepsAndVoidArming : Obligations.AssignmentSweepsAndVoidArming := by
  unfold Obligations.AssignmentSweepsAndVoidArming
  refine ⟨fun die s hrun hphase hdue => ?assignment, fun die out line s hphase hline => ?dispatch, fun die s hphase => ?fill,
    fun die out line s hphase hline hin => ⟨fun hclean => ?clean, fun hout hbad hrun hnew => ?poisoned⟩, fun die s hrun hphase hlast => ?arming⟩
  case assignment =>
    obtain ⟨a, present, masked, ⟨hquota, hsorted⟩, hpresent, hfilled, hcounters, hframe⟩ :=
      assign_accounts (s.derailleur die) die (s.derailleur die).layer
    obtain ⟨htokens, hchoices, hslots⟩ := assignGrowth_sums (s.derailleur die) (s.derailleur die).layer a present masked hpresent hsorted
    refine ⟨_, execAssignment_due hrun hphase hdue, ?_⟩
    dsimp only
    rw [setDerailleur_derailleur_same]
    dsimp only
    simp only [hcounters, hfilled]
    exact ⟨trivial, hquota, htokens, hchoices, hslots, fun n hn => assigned_elsewhere hn, hframe 0,
      fun q hq => (setDerailleur_derailleur _ _ _ q).trans (if_neg hq), rfl⟩
  case dispatch => exact sweepStarts_of_startSweep (execDispatchSweep_line hphase hline)
  case fill => exact sweepStarts_of_startSweep (execFillSweep_sweeps hphase)
  case clean =>
    exact sweepStarts_of_startSweep (execCombineSweep_clean hphase hline hin fun hout i ⟨hsums, hbad⟩ => hclean hout i hsums hbad)
  case poisoned =>
    obtain ⟨u, hexec, hurun, hpoison, hu⟩ := execCombineSweep_poisoned hphase hline hin hout hrun hnew hbad
    refine ⟨_, hexec, ?_, combineCheck_recorded hurun hpoison⟩
    rw [combineCheck_derailleur, hu]
    exact List.mem_append_right _ (List.mem_singleton.mpr rfl)
  case arming =>
    obtain ⟨arms, cs, t, hexec, harms, hended, hwindows, harrays, hothers, hframe⟩ := execVoidArming_answers hrun hphase hlast
    refine ⟨t, hexec, ?_⟩
    dsimp only
    rw [hended]
    refine ⟨rfl, rfl, fun e he => ?_, fun e he => ?_, fun e he w hw hwe => ?_, rfl, harrays, hothers, hframe⟩
    · rw [mem_voidEnded_armed, if_pos he]
      exact harms e
    · rw [mem_voidEnded_armed, if_neg he]
    · obtain ⟨harmed, hfirst⟩ := hwindows e he w hw hwe
      rw [harmed]
      exact ⟨harms e, hfirst⟩

end Sys2Proof.Proofs
end

section
/-! O42. Scalar operations of the spokes, and the faults of the fetch (R176, R179-R181, R202). -/

namespace Sys2Proof.Proofs

open Sys2Proof Sys2Proof.Machine Sys2Proof.Laws

/-! ### Faults of the fetch (R176, R180, R202) -/

/-- A fault at the `PC` of a spoke is recorded and faults the spoke, and changes nothing else (R201, R202). -/
theorem spokeFault_faulted (s : State) (p : SpokeId) (code ctr val : Nat) : SpokeFaulted s (s.spokeFault code p ctr val) p code := by
  obtain ⟨hrec, hmode, hothers, hframe⟩ := faultInstr_faulted s code p (s.spoke p).pc.toNat ctr val
  have hspoke : (s.spokeFault code p ctr val).spoke p =
      { s.spoke p with mode := 3, runBeats := (s.spoke p).runBeats + BitVec.ofNat 32 (s.runSpent p true) } := by
    unfold State.spokeFault State.faultInstr State.spoke
    rw [raiseFault_spokes]
    exact get_set_same _ _ _ _
  exact ⟨hrec, hmode, by rw [hspoke], hothers, hframe⟩

section
variable {s : State} {p : Nat} (f : IssueForm) (effect : State → Word32 → State) (hfree : s.spokeFree p = true)
include hfree

/-- A free spoke whose `PC` is misaligned or outside the code region faults before it fetches (R176). -/
theorem issueSpoke_misplaced (hplace : (s.spoke p).pc.toNat % 4 ≠ 0 ∨ (s.spoke p).pc.toNat < codeFirst (s.spoke p).layout ∨
    codeEnd (s.spoke p).layout ≤ (s.spoke p).pc.toNat) : s.issueSpoke p f effect = s.spokeFault 0x18 p := by
  unfold State.issueSpoke
  dsimp only
  rw [if_neg (by simp [hfree]), if_pos hplace]

/-- A reserved encoding faults its spoke once it is fetched (R180). -/
theorem issueSpoke_reserved (halign : (s.spoke p).pc.toNat % 4 = 0) (hfirst : codeFirst (s.spoke p).layout ≤ (s.spoke p).pc.toNat)
    (hlast : (s.spoke p).pc.toNat < codeEnd (s.spoke p).layout) (hreserved : spokeOp (s.spokeWord p) = none) :
    s.issueSpoke p f effect = (fetchedAt s p).spokeFault 0x17 p := by
  have hplace : ¬((s.spoke p).pc.toNat % 4 ≠ 0 ∨ (s.spoke p).pc.toNat < codeFirst (s.spoke p).layout ∨
      codeEnd (s.spoke p).layout ≤ (s.spoke p).pc.toNat) := by omega
  unfold State.issueSpoke
  dsimp only
  rw [if_neg (by simp [hfree]), if_neg hplace, hreserved]
  rfl

end

/-- The command fetches the instruction of its spoke, whatever that then does. -/
def Fetches (c : Instr) (p : SpokeId) (s : State) : Prop := ∃ f effect, exec c s = ok (s.issueSpoke p f effect)

theorem fetches_of_issueOwn {c : Instr} {p : SpokeId} {s : State} {f : IssueForm} {effect : Nat → SpokeState → Word32 → SpokeState}
    (h : exec c s = ok (s.issueOwn p f effect)) : Fetches c p s := ⟨f, _, h⟩

/-- The instructions that stand for their formats fetch alike. -/
theorem representatives_fetch :
    ∀ mk ∈ [Instr.add, .addi, .lw, .sw, .beq, .vfadd, .vld, .spokeNop, .csrr], ∀ (p : SpokeId) (s : State), Fetches (mk p) p s := by
  intro mk hmk p s
  simp only [List.mem_cons, List.not_mem_nil, or_false] at hmk
  rcases hmk with rfl | rfl | rfl | rfl | rfl | rfl | rfl | rfl | rfl
  · exact fetches_of_issueOwn rfl
  · exact fetches_of_issueOwn rfl
  · exact fetches_of_issueOwn rfl
  · exact fetches_of_issueOwn rfl
  · exact fetches_of_issueOwn rfl
  · exact fetches_of_issueOwn (show exec (.vfadd p) s = ok (s.issueV p _ _ _ _ _ _ _ _) from rfl)
  · exact fetches_of_issueOwn rfl
  · exact fetches_of_issueOwn rfl
  · exact ⟨_, _, rfl⟩

/-! ### A write of an x register (Table 6.1, R181) -/

theorem setX_stepped (s : State) (p rd : Nat) (v : Word32) (at_ : Nat) : (steppedSpoke s p).setX rd v at_ =
    { (s.spoke p).setX rd v at_ with pc := (s.spoke p).pc + 4, nextIssue := s.pbeat + 1 } := by
  unfold SpokeState.setX steppedSpoke
  split <;> rfl

/-- An instruction that writes one x register of its spoke and goes on to the next. -/
theorem SpokeBecomes.writesX {s t : State} {p : SpokeId} {rd at_ : Nat} {v : Word32} (h : SpokeBecomes s t p ((steppedSpoke s p).setX rd v at_)) :
    SpokeStepped s t p ∧ SpokeX s t p rd v at_ := by
  rw [setX_stepped] at h
  exact ⟨h.moved, spokeX_of_setX (by rw [h.spoke])⟩

/-- An operation of format S keeps to its form, whichever way its result is written. -/
theorem scalarRR_of_issueS {mk : SpokeId → Instr} {fn lat : Nat} {f f' : Word32 → Word32 → Word32}
    (hexec : ∀ p s, exec (mk p) s = ok (s.issueS p fn lat f')) (hf : ∀ a b, f' a b = f a b) : ScalarRR mk fn lat f := by
  intro p s w h
  refine ⟨_, hexec p s, ?_⟩
  rw [← hf]
  exact (issueOwn_becomes h rfl (by simp) rfl rfl _ rfl).writesX

/-- An operation of format I keeps to its form. -/
theorem scalarRI_of_issueI {mk : SpokeId → Instr} {op unused : Nat} {bad : Word32 → Bool} {f f' : Word32 → Word32 → Word32}
    (hexec : ∀ p s, exec (mk p) s = ok (s.issueI p op unused bad f')) (hbad : ∀ w, (op = 0x08 → fld w 6 5 ≠ 3) → bad w = false)
    (hf : ∀ a i, f' a i = f a i) : ScalarRI mk op unused f := by
  intro p s w h hshift
  refine ⟨_, hexec p s, ?_⟩
  rw [← hf]
  exact (issueOwn_becomes h rfl rfl rfl rfl _ (if_neg (ne_true_of_eq_false (hbad w hshift)))).writesX

/-! ### Results (R181) -/

theorem min_toInt (a b : Word32) : (if a.toInt ≤ b.toInt then a else b) = BitVec.ofInt 32 (min a.toInt b.toInt) := by
  rw [min_def]
  split <;> rw [BitVec.ofInt_toInt]

theorem max_toInt (a b : Word32) : (if a.toInt ≤ b.toInt then b else a) = BitVec.ofInt 32 (max a.toInt b.toInt) := by
  rw [max_def]
  split <;> rw [BitVec.ofInt_toInt]

theorem mul_toInt (a b : Word32) : a * b = BitVec.ofInt 32 (a.toInt * b.toInt) := by
  rw [BitVec.ofInt_mul, BitVec.ofInt_toInt, BitVec.ofInt_toInt]

theorem ofNat_udiv (a b : Word32) : BitVec.ofNat 32 (a.toNat / b.toNat) = a / b := by
  rw [← BitVec.toNat_udiv, BitVec.ofNat_toNat, BitVec.setWidth_eq]

theorem ofNat_umod (a b : Word32) : BitVec.ofNat 32 (a.toNat % b.toNat) = a % b := by
  rw [← BitVec.toNat_umod, BitVec.ofNat_toNat, BitVec.setWidth_eq]

/-- The quotient of -2^31 by -1 is 2^31, whose low bits are those of -2^31. -/
theorem quotient_cases (a b : Word32) : (if b = 0 then 0xFFFFFFFF else BitVec.ofInt 32 (a.toInt.tdiv b.toInt)) =
    if b = 0 then 0xFFFFFFFF else if a = 0x80000000 ∧ b = 0xFFFFFFFF then 0x80000000 else BitVec.ofInt 32 (a.toInt.tdiv b.toInt) := by
  refine if_congr Iff.rfl rfl ?_
  split
  case isTrue h => obtain ⟨rfl, rfl⟩ := h; decide
  case isFalse => rfl

/-- -2^31 by -1 leaves nothing. -/
theorem remainder_cases (a b : Word32) : (if b = 0 then a else BitVec.ofInt 32 (a.toInt.tmod b.toInt)) =
    if b = 0 then a else if a = 0x80000000 ∧ b = 0xFFFFFFFF then 0 else BitVec.ofInt 32 (a.toInt.tmod b.toInt) := by
  refine if_congr Iff.rfl rfl ?_
  split
  case isTrue h => obtain ⟨rfl, rfl⟩ := h; decide
  case isFalse => rfl

/-- The count of a shift is its low five bits. -/
theorem shiftCount (b : Word32) : b.toNat % 32 = fld b 4 0 := rfl

/-- `SHI` shifts as imm[6:5] says. -/
theorem shiftKind (a i : Word32) :
    (match fld i 6 5 with | 0 => a <<< (i.toNat % 32) | 1 => a >>> (i.toNat % 32) | _ => a.sshiftRight (i.toNat % 32)) =
      if fld i 6 5 = 0 then a <<< fld i 4 0 else if fld i 6 5 = 1 then a >>> fld i 4 0 else a.sshiftRight (fld i 4 0) := by
  rw [shiftCount]
  match fld i 6 5 with
  | 0 => rfl
  | 1 => rfl
  | _ + 2 => rfl

/-- Settles O42: an operation writes the one register that it names, with the result of its form, and a `PC` or a word that is none
faults its spoke. -/
theorem scalarOperationsWriteTheirRegister : Obligations.ScalarOperationsWriteTheirRegister := by
  unfold Obligations.ScalarOperationsWriteTheirRegister
  have hS {mk : SpokeId → Instr} {fn lat : Nat} {f : Word32 → Word32 → Word32} (hexec : ∀ p s, exec (mk p) s = ok (s.issueS p fn lat f)) :
      ScalarRR mk fn lat f := scalarRR_of_issueS hexec fun _ _ => rfl
  have hI {mk : SpokeId → Instr} {op unused : Nat} {f : Word32 → Word32 → Word32}
      (hexec : ∀ p s, exec (mk p) s = ok (s.issueI p op unused noBad f)) : ScalarRI mk op unused f :=
    scalarRI_of_issueI hexec (fun _ _ => rfl) fun _ _ => rfl
  refine ⟨hS fun _ _ => rfl, hS fun _ _ => rfl, hS fun _ _ => rfl, hS fun _ _ => rfl, hS fun _ _ => rfl, hS fun _ _ => rfl,
    hS fun _ _ => rfl, hS fun _ _ => rfl, hS fun _ _ => rfl, hS fun _ _ => rfl, scalarRR_of_issueS (fun _ _ => rfl) min_toInt,
    scalarRR_of_issueS (fun _ _ => rfl) max_toInt, scalarRR_of_issueS (fun _ _ => rfl) mul_toInt, hS fun _ _ => rfl,
    scalarRR_of_issueS (fun _ _ => rfl) quotient_cases, scalarRR_of_issueS (fun _ _ => rfl) fun a b => by rw [ofNat_udiv],
    scalarRR_of_issueS (fun _ _ => rfl) remainder_cases, scalarRR_of_issueS (fun _ _ => rfl) fun a b => by rw [ofNat_umod],
    hI fun _ _ => rfl, hI fun _ _ => rfl, hI fun _ _ => rfl, hI fun _ _ => rfl, hI fun _ _ => rfl, hI fun _ _ => rfl,
    scalarRI_of_issueI (fun _ _ => rfl) (fun w hkind => beq_false_of_ne (hkind rfl)) shiftKind, fun mk hmk p s hfree => ?fetch⟩
  case fetch =>
    obtain ⟨f, effect, hexec⟩ := representatives_fetch mk hmk p s
    refine ⟨fun hplace => ⟨_, hexec, ?_⟩, fun halign hfirst hlast hreserved => ⟨_, hexec, ?_⟩⟩
    · rw [issueSpoke_misplaced f effect hfree hplace]
      exact spokeFault_faulted s p _ _ _
    · rw [issueSpoke_reserved f effect hfree halign hfirst hlast hreserved]
      exact spokeFault_fetched s p _ _ _

end Sys2Proof.Proofs
end

section
/-! O44. Vector operations lane by lane (Table 6.1, R181, R182, R185). -/

namespace Sys2Proof.Proofs

open Sys2Proof Sys2Proof.Machine Sys2Proof.Laws

/-! ### Registers from their lanes -/

/-- Item `i` of packed numbers of `w` bits. -/
theorem packBits_field (w : Nat) (l : List Nat) : ∀ i, (packBits w l >>> (w * i)) % 2 ^ w = (l[i]?.getD 0) % 2 ^ w := by
  induction l with
  | nil => intro i; simp [packBits]
  | cons x l ih =>
    intro i
    cases i with
    | zero => simp [packBits]
    | succ i =>
      have htail : packBits w (x :: l) >>> w = packBits w l := by
        rw [packBits, Nat.shiftRight_eq_div_pow, Nat.add_mul_div_left _ _ (Nat.two_pow_pos w),
          Nat.div_eq_of_lt (Nat.mod_lt _ (Nat.two_pow_pos w)), Nat.zero_add]
      rw [Nat.mul_succ, Nat.add_comm, Nat.shiftRight_add, htail, ih, List.getElem?_cons_succ]

theorem packBits_lt (w : Nat) (l : List Nat) : packBits w l < 2 ^ (w * l.length) := by
  induction l with
  | nil => simp [packBits]
  | cons x l ih =>
    have hx := Nat.mod_lt x (Nat.two_pow_pos w)
    rw [packBits, List.length_cons, Nat.mul_succ, Nat.add_comm (w * l.length), Nat.pow_add]
    calc x % 2 ^ w + 2 ^ w * packBits w l < 2 ^ w + 2 ^ w * packBits w l := Nat.add_lt_add_right hx _
      _ = 2 ^ w * (packBits w l + 1) := by ring
      _ ≤ 2 ^ w * 2 ^ (w * l.length) := Nat.mul_le_mul_left _ ih

/-- A word of the right width holds all of its fields. -/
theorem toNat_ofNat_packBits {w n : Nat} {l : List Nat} (hl : w * l.length = n) : (BitVec.ofNat n (packBits w l)).toNat = packBits w l := by
  subst hl
  rw [BitVec.toNat_ofNat, Nat.mod_eq_of_lt (packBits_lt w l)]

theorem lane_ofLanes {l : List Word32} (hl : l.length = 16) (i : Nat) : lane (ofLanes l) i = l[i]?.getD 0 := by
  unfold lane ofLanes slotN
  rw [toNat_ofNat_packBits (by rw [List.length_map, hl]), ← Nat.mul_assoc, packBits_field 32, List.getElem?_map]
  cases l[i]? with
  | none => rfl
  | some x => exact BitVec.eq_of_toNat_eq (by simpa using x.isLt)

/-- The list of what 16 lanes give. -/
theorem getD_lanesList {α : Type} (f : Nat → α) (d : α) {i : Nat} (hi : i < 16) : ((List.range 16).map f)[i]?.getD d = f i := by
  simp [hi]

/-- A lane that the predicate selects is computed, another keeps its value (R182). -/
theorem lane_mapLanes (pred : BitVec 16) (old : BitVec 512) (f : Nat → Word32 × BitVec 5) {i : Nat} (hi : i < 16) :
    lane (mapLanes pred old f).1 i = if bitOf pred i then (f i).1 else lane old i := by
  unfold mapLanes
  dsimp only
  rw [lane_ofLanes (by simp), List.map_map, getD_lanesList _ _ hi]
  exact apply_ite Prod.fst _ _ _

/-- The flags are those of the lanes that the predicate selects (R182). -/
theorem mapLanes_flags (pred : BitVec 16) (old : BitVec 512) (f : Nat → Word32 × BitVec 5) :
    (mapLanes pred old f).2 = laneFlags pred fun i => (f i).2 := by
  unfold mapLanes laneFlags
  dsimp only
  rw [List.map_map]
  exact congrArg (fun g => ((List.range 16).map g).foldl (· ||| ·) 0) (funext fun i => apply_ite Prod.snd _ _ _)

theorem laneFlags_zero (pred : BitVec 16) : (laneFlags pred fun _ => 0) = 0 := by
  unfold laneFlags
  simp only [ite_self]
  rfl

/-! ### A write of a v register (Table 6.1, R181, R182) -/

section
variable (a : SpokeState) (vd : Nat) (v : BitVec 512) (ls : BitVec 16) (at_ : Nat) (fl : BitVec 5)

/-- The spoke `a` after an instruction that writes lanes of a v register and raises flags. -/
def vectorWritten : SpokeState := (a.setV vd v ls at_).raise fl

theorem vectorWritten_vr (n : Nat) : (vectorWritten a vd v ls at_ fl).vr n = if n = vd then v else a.vr n := get_set 0 a.v vd n v

theorem vectorWritten_laneReady (n : Nat) {i : Nat} (hi : i < 16) :
    (vectorWritten a vd v ls at_ fl).laneReady n i = if n = vd ∧ bitOf ls i then at_ else a.laneReady n i :=
  readyLanes_laneReady (a.overwrite true vd ls) vd ls at_ n hi

theorem vectorWritten_loads : (vectorWritten a vd v ls at_ fl).loads =
    a.loads.map fun l => if l.vec = true ∧ l.reg = vd then { l with lanes := l.lanes &&& ~~~ls } else l := rfl

theorem vectorWritten_rest : { vectorWritten a vd v ls at_ fl with v := [], vready := [], loads := [], fflags := 0 } =
    { a with v := [], vready := [], loads := [], fflags := 0 } := rfl

end

/-- An instruction that writes lanes of one v register of its spoke and goes on to the next. -/
theorem SpokeBecomes.writesV {s t : State} {p : SpokeId} {vd at_ : Nat} {v : BitVec 512} {new : Nat → Word32} {ls : BitVec 16} {fl : BitVec 5}
    (h : SpokeBecomes s t p (vectorWritten (steppedSpoke s p) vd v ls at_ fl)) (hnew : ∀ i < 16, lane v i = new i) :
    SpokeStepped s t p ∧ SpokeV s t p vd new ls at_ fl := by
  refine ⟨h.moved, ?_⟩
  unfold SpokeV
  rw [h.spoke]
  refine ⟨fun i hi => ?_, fun n hn => ?_, fun n i hi => vectorWritten_laneReady _ vd v ls at_ fl n hi,
    vectorWritten_loads _ vd v ls at_ fl, rfl,
    congrArg (fun a : SpokeState => { a with pc := 0, nextIssue := 0 }) (vectorWritten_rest (steppedSpoke s p) vd v ls at_ fl)⟩
  · rw [vectorWritten_vr, if_pos rfl, hnew i hi]
  · rw [vectorWritten_vr, if_neg hn]
    rfl

/-! ### Forms of the operations -/

/-- What an instruction of format V into one v register makes of its spoke. -/
theorem issueV_becomes {s : State} {p : SpokeId} {op fn unused lat : Nat} {fns : List Nat} {src : Word32 → List Nat} {bad : Word32 → Bool}
    {w : Word32} (h : s.spokeAt p op fn unused (src w) w) (hfn : fns.contains fn = true) (hgood : bad w = false) (all : Bool)
    (f : SpokeState → Word32 → VRes) : SpokeBecomes s (s.issueV p op fns unused lat src bad all f) p
      (vectorWritten (steppedSpoke s p) (fld w 25 22) (f (steppedSpoke s p) w).1 (if all then 0xFFFF else (s.spoke p).pr (fld w 9 7))
        (s.pbeat + lat) (f (steppedSpoke s p) w).2) :=
  issueOwn_becomes h rfl hfn rfl rfl _ (if_neg (ne_true_of_eq_false hgood))

section
variable {mk : SpokeId → Instr} {op fn unused lat : Nat}

/-- An operation of format V that computes the lanes of its predicate keeps to its form. -/
theorem vectorLanes_of_issueV {srcs : Word32 → List Nat} {bad : Word32 → Bool} {f : SpokeState → Word32 → Nat → Word32 × BitVec 5}
    (hexec : ∀ p s, exec (mk p) s = ok (s.issueV p op [fn] unused lat srcs bad false fun a w =>
      mapLanes (a.pr (fld w 9 7)) (a.vr (fld w 25 22)) (f a w)))
    (hf : ∀ s p w, f (steppedSpoke s p) w = f (s.spoke p) w) : VectorLanes mk op fn unused lat srcs bad f := by
  intro p s w h hgood
  have hb := issueV_becomes (lat := lat) h (fns := [fn]) (by simp) hgood false fun a w =>
    mapLanes (a.pr (fld w 9 7)) (a.vr (fld w 25 22)) (f a w)
  rw [hf, mapLanes_flags] at hb
  exact ⟨_, hexec p s, hb.writesV fun i hi => lane_mapLanes _ _ _ hi⟩

theorem vectorOne_of_issueV1 {f : Word32 → Word32 × BitVec 5} (hexec : ∀ p s, exec (mk p) s = ok (s.issueV1 p op fn lat f)) :
    VectorOne mk op fn lat f :=
  vectorLanes_of_issueV hexec fun _ _ _ => rfl

theorem vectorTwo_of_issueV2 {f f' : Word32 → Word32 → Word32 × BitVec 5} (hexec : ∀ p s, exec (mk p) s = ok (s.issueV2 p op fn lat f'))
    (hf : f' = f) : VectorTwo mk op fn lat f := by
  subst hf
  exact vectorLanes_of_issueV hexec fun _ _ _ => rfl

theorem vectorThree_of_issueV {f : Word32 → Word32 → Word32 → Word32 × BitVec 5}
    (hexec : ∀ p s, exec (mk p) s = ok (s.issueV p 0x30 [fn] 0 4 (srcsV true true true) noBad false (lanes3 f))) : VectorThree mk fn f :=
  vectorLanes_of_issueV hexec fun _ _ _ => rfl

theorem vectorHalves_of_issueV {vc : Bool} {f : Nat → Nat → Nat → Nat × BitVec 5}
    (hexec : ∀ p s, exec (mk p) s = ok (s.issueV p 0x31 [fn] unused 4 (srcsV true true vc) noBad false (halves3 f))) :
    VectorHalves mk fn unused vc f :=
  vectorLanes_of_issueV hexec fun _ _ _ => rfl

end

/-- `VSEL` writes every lane: that of va where pg is set, else that of vb. -/
theorem execVsel_selects {p : SpokeId} {s : State} {w : Word32} (h : s.spokeAt p 0x32 0xB 0x3C00 (srcsV true true false w) w) :
    Answers (.vsel p) s fun t => SpokeStepped s t p ∧ SpokeV s t p (fld w 25 22)
      (fun i => lane ((s.spoke p).vr (if bitOf ((s.spoke p).pr (fld w 9 7)) i then fld w 21 18 else fld w 17 14)) i)
      0xFFFF (s.pbeat + 1) 0 := by
  have hb := issueV_becomes (lat := 1) h (fns := [0xB]) rfl (bad := noBad) rfl true fun a w =>
    mapLanes (a.pr (fld w 9 7)) (a.vr (fld w 17 14)) fun i => (lane (a.vr (fld w 21 18)) i, 0)
  rw [mapLanes_flags, laneFlags_zero] at hb
  exact ⟨_, rfl, hb.writesV fun i hi => (lane_mapLanes _ _ _ hi).trans (apply_ite (fun r => lane ((s.spoke p).vr r) i) _ _ _).symm⟩

/-! ### Comparisons (R181) -/

theorem bitOf_ofNat_packBits {n : Nat} {l : List Nat} (hl : l.length = n) (i : Nat) :
    bitOf (BitVec.ofNat n (packBits 1 l)) i = (l[i]?.getD 0).testBit 0 := by
  have hfield := packBits_field 1 l i
  rw [Nat.one_mul, Nat.pow_one] at hfield
  unfold bitOf
  rw [toNat_ofNat_packBits (by omega), Nat.testBit_zero, ← hfield, Nat.testBit_eq_decide_div_mod_eq, Nat.shiftRight_eq_div_pow]

section
variable (a : SpokeState) (pd : Nat) (v : BitVec 16) (at_ : Nat) (fl : BitVec 5)

/-- The spoke `a` after an instruction that writes a p register and raises flags. -/
def predicateWritten : SpokeState := (a.setP pd v at_).raise fl

theorem predicateWritten_pr (n : Nat) : (predicateWritten a pd v at_ fl).pr n = if n = pd ∧ pd ≠ 0 then v else a.pr n := by
  by_cases hpd : pd = 0 <;> by_cases hn : n = 0 <;>
    simp_all [predicateWritten, SpokeState.setP, SpokeState.raise, SpokeState.pr, get_set, eq_comm]

theorem predicateWritten_ready (r : Nat) : SMap.get 0 (predicateWritten a pd v at_ fl).ready r =
    if r = 48 + pd ∧ pd ≠ 0 then at_ else SMap.get 0 a.ready r := by
  by_cases hpd : pd = 0 <;> simp [predicateWritten, SpokeState.setP, SpokeState.raise, get_set, hpd]

theorem predicateWritten_rest : { predicateWritten a pd v at_ fl with p := [], ready := [] } =
    { a with p := [], ready := [], fflags := a.fflags ||| fl } := by
  unfold predicateWritten SpokeState.setP SpokeState.raise
  split <;> rfl

end

/-- An instruction that writes one p register of its spoke and goes on to the next. -/
theorem SpokeBecomes.writesP {s t : State} {p : SpokeId} {pd at_ : Nat} {v : BitVec 16} {fl : BitVec 5}
    (h : SpokeBecomes s t p (predicateWritten (steppedSpoke s p) pd v at_ fl)) : SpokeStepped s t p ∧ SpokeP s t p pd v at_ fl := by
  have hrest := predicateWritten_rest (steppedSpoke s p) pd v at_ fl
  have hmoved := h.moved
  rw [show (predicateWritten (steppedSpoke s p) pd v at_ fl).pc = (s.spoke p).pc + 4 from (congrArg SpokeState.pc hrest :),
    show (predicateWritten (steppedSpoke s p) pd v at_ fl).nextIssue = s.pbeat + 1 from (congrArg SpokeState.nextIssue hrest :)] at hmoved
  refine ⟨hmoved, ?_⟩
  unfold SpokeP
  rw [h.spoke]
  exact ⟨predicateWritten_pr _ pd v at_ fl, predicateWritten_ready _ pd v at_ fl, (congrArg SpokeState.fflags hrest :),
    (congrArg (fun a : SpokeState => { a with pc := 0, nextIssue := 0, fflags := 0 }) hrest :)⟩

/-- The comparisons of the lanes that a predicate selects, the others false. -/
def comparedLanes (pred : BitVec 16) (c : Nat → Bool × BitVec 5) : List (Bool × BitVec 5) :=
  (List.range 16).map fun i => if bitOf pred i then c i else (false, 0)

theorem comparedLanes_bit (pred : BitVec 16) (c : Nat → Bool × BitVec 5) {i : Nat} (hi : i < 16) :
    bitOf (BitVec.ofNat 16 (packBits 1 ((comparedLanes pred c).map fun r => r.1.toNat))) i = (bitOf pred i && (c i).1) := by
  unfold comparedLanes
  rw [bitOf_ofNat_packBits (by simp), List.map_map, getD_lanesList _ _ hi, Function.comp_apply]
  cases bitOf pred i with
  | false => simp
  | true => cases h : (c i).1 <;> simp [h]

theorem comparedLanes_flags (pred : BitVec 16) (c : Nat → Bool × BitVec 5) :
    ((comparedLanes pred c).map (·.2)).foldl (· ||| ·) 0 = laneFlags pred fun i => (c i).2 := by
  unfold comparedLanes laneFlags
  rw [List.map_map]
  exact congrArg (fun g => ((List.range 16).map g).foldl (· ||| ·) 0) (funext fun i => apply_ite Prod.snd _ _ _)

/-- A comparison keeps to its form: a bit of pd is set where pg selects its lane and the comparison holds. -/
theorem vectorCompare_of_issueCmp {mk : SpokeId → Instr} {fn : Nat} {f : Word32 → Word32 → Bool × BitVec 5}
    (hexec : ∀ p s, exec (mk p) s = ok (s.issueCmp p fn f)) : VectorCompare mk fn f := by
  intro p s w h a c
  have hfns : [fn].contains fn = true := by simp
  have hb : SpokeBecomes s (s.issueCmp p fn f) p (predicateWritten (steppedSpoke s p) (fld w 24 22)
      (BitVec.ofNat 16 (packBits 1 ((comparedLanes (a.pr (fld w 9 7)) c).map fun r => r.1.toNat))) (s.pbeat + 2)
      (((comparedLanes (a.pr (fld w 9 7)) c).map (·.2)).foldl (· ||| ·) 0)) := issueOwn_becomes h rfl hfns rfl rfl _ rfl
  rw [comparedLanes_flags] at hb
  obtain ⟨hstepped, hwritten⟩ := hb.writesP
  exact ⟨_, hexec p s, hstepped, _, fun i hi => comparedLanes_bit _ c hi, hwritten⟩

/-! ### Results (R181, R182) -/

theorem plain2_min : plain2 (fun a b => if a.toInt ≤ b.toInt then a else b) = fun a b => (BitVec.ofInt 32 (min a.toInt b.toInt), 0) :=
  funext fun a => funext fun b => congrArg (·, 0) (min_toInt a b)

theorem plain2_max : plain2 (fun a b => if a.toInt ≤ b.toInt then b else a) = fun a b => (BitVec.ofInt 32 (max a.toInt b.toInt), 0) :=
  funext fun a => funext fun b => congrArg (·, 0) (max_toInt a b)

/-- Settles O44: every operation writes one register, lane by lane under its predicate. -/
theorem vectorOperationsComputeSelectedLanes : Obligations.VectorOperationsComputeSelectedLanes := by
  unfold Obligations.VectorOperationsComputeSelectedLanes
  have h2 {mk : SpokeId → Instr} {op fn lat : Nat} {f : Word32 → Word32 → Word32 × BitVec 5}
      (hexec : ∀ p s, exec (mk p) s = ok (s.issueV2 p op fn lat f)) : VectorTwo mk op fn lat f := vectorTwo_of_issueV2 hexec rfl
  have hI {mk : SpokeId → Instr} {fn lat : Nat} {f : Word32 → Word32 → Word32}
      (hexec : ∀ p s, exec (mk p) s = ok (s.issueV2 p 0x32 fn lat (plain2 f))) : IntegerTwo mk fn lat f := vectorTwo_of_issueV2 hexec rfl
  exact ⟨h2 fun _ _ => rfl, h2 fun _ _ => rfl, h2 fun _ _ => rfl, vectorThree_of_issueV fun _ _ => rfl, vectorThree_of_issueV fun _ _ => rfl,
    h2 fun _ _ => rfl, h2 fun _ _ => rfl, vectorOne_of_issueV1 fun _ _ => rfl, vectorOne_of_issueV1 fun _ _ => rfl, h2 fun _ _ => rfl,
    vectorOne_of_issueV1 fun _ _ => rfl,
    vectorHalves_of_issueV fun _ _ => rfl, vectorHalves_of_issueV fun _ _ => rfl, vectorHalves_of_issueV fun _ _ => rfl,
    hI fun _ _ => rfl, hI fun _ _ => rfl, hI fun _ _ => rfl, hI fun _ _ => rfl, hI fun _ _ => rfl, hI fun _ _ => rfl, hI fun _ _ => rfl,
    hI fun _ _ => rfl, hI fun _ _ => rfl, vectorTwo_of_issueV2 (fun _ _ => rfl) plain2_min, vectorTwo_of_issueV2 (fun _ _ => rfl) plain2_max,
    fun p s w h => execVsel_selects h, vectorLanes_of_issueV (fun _ _ => rfl) fun _ _ _ => rfl,
    vectorCompare_of_issueCmp fun _ _ => rfl, vectorCompare_of_issueCmp fun _ _ => rfl, vectorCompare_of_issueCmp fun _ _ => rfl,
    vectorCompare_of_issueCmp fun _ _ => rfl, vectorCompare_of_issueCmp fun _ _ => rfl, vectorCompare_of_issueCmp fun _ _ => rfl,
    vectorOne_of_issueV1 fun _ _ => rfl, vectorOne_of_issueV1 fun _ _ => rfl, vectorOne_of_issueV1 fun _ _ => rfl,
    vectorOne_of_issueV1 fun _ _ => rfl, vectorOne_of_issueV1 fun _ _ => rfl⟩

end Sys2Proof.Proofs
end

section
/-! Rules for O46: the state in which an instruction takes effect, and what of it is as it was. -/

namespace Sys2Proof.Proofs

open Sys2Proof Sys2Proof.Machine Sys2Proof.Laws

/-! ### The state in which an instruction takes effect -/

/-- The state in which the instruction at `PC` has issued, before its effect. -/
def issuedAt (s : State) (p : Nat) : State := (fetchedAt s p).setSpoke p (steppedSpoke s p)

theorem issuedAt_becomes (s : State) (p : SpokeId) : SpokeBecomes s (issuedAt s p) p (steppedSpoke s p) :=
  (spokeBecomes_fetched s p).setSpoke _

section
variable {s : State} {p : SpokeId} {fn unused : Nat} {w : Word32} {srcs : Word32 → List Nat}
  {check : State → SpokeState → Word32 → Option (Nat × Nat × Nat)} (h : s.spokeAt p 0x3F fn unused (srcs w) w)
include h

/-- An instruction of format X that passes its own check takes effect. -/
theorem formX_takesEffect (effect : State → Word32 → State) (hgood : check s (s.spoke p) w = none) :
    s.issueSpoke p (formX fn unused srcs check) effect = effect (issuedAt s p) w := by
  rw [issueSpoke_checked h rfl (by simp [formX]) rfl rfl, show (formX fn unused srcs check).check s (s.spoke p) w = none from hgood]
  rfl

/-- One that does not faults its spoke. -/
theorem formX_faulted (effect : State → Word32 → State) {code ctr val : Nat} (hbad : check s (s.spoke p) w = some (code, ctr, val)) :
    SpokeFaulted s (s.issueSpoke p (formX fn unused srcs check) effect) p code := by
  rw [issueSpoke_faulted h rfl (by simp [formX]) rfl rfl effect (f := formX fn unused srcs check) hbad]
  exact spokeFault_fetched s p code ctr val

theorem formX_becomes (effect : Nat → SpokeState → Word32 → SpokeState) (hgood : check s (s.spoke p) w = none) :
    SpokeBecomes s (s.issueOwn p (formX fn unused srcs check) effect) p (effect s.pbeat (steppedSpoke s p) w) :=
  issueOwn_becomes h rfl (by simp [formX]) rfl rfl effect hgood

end

section
variable {s u : State} {p : SpokeId} {a : SpokeState} (h : SpokeBecomes s u p a)
include h

theorem SpokeBecomes.stepped (hpc : a.pc = (s.spoke p).pc + 4) (hnext : a.nextIssue = s.pbeat + 1) : SpokeStepped s u p := by
  have hmoved := h.moved
  rwa [hpc, hnext] at hmoved

theorem SpokeBecomes.beat : u.beat = s.beat := (congrArg State.beat h.frame :)
theorem SpokeBecomes.prog : u.prog = s.prog := (congrArg State.prog h.frame :)
theorem SpokeBecomes.mem : u.mem = s.mem := (congrArg State.mem h.frame :)
theorem SpokeBecomes.counters : u.counters = s.counters := (congrArg State.counters h.frame :)
theorem SpokeBecomes.routers : u.routers = s.routers := (congrArg State.routers h.frame :)
theorem SpokeBecomes.channels : u.channels = s.channels := (congrArg State.channels h.frame :)
theorem SpokeBecomes.collPosts : u.collPosts = s.collPosts := (congrArg State.collPosts h.frame :)
theorem SpokeBecomes.pbeat : u.pbeat = s.pbeat := (congrArg State.pbeat h.frame :)
theorem SpokeBecomes.sched : u.sched = s.sched := (congrArg State.sched h.frame :)
theorem SpokeBecomes.wall : u.wall = s.wall := (congrArg State.wall h.frame :)
theorem SpokeBecomes.ownPackage : u.ownPackage = s.ownPackage := (congrArg State.ownPackage h.frame :)
theorem SpokeBecomes.array (g : Nat) : u.array g = s.array g := (congrArg (fun x : State => x.array g) h.frame :)
theorem SpokeBecomes.router (r : Nat) : u.router r = s.router r := (congrArg (fun x : State => x.router r) h.frame :)
theorem SpokeBecomes.channel (c : Nat) : u.channel c = s.channel c := (congrArg (fun x : State => x.channel c) h.frame :)
theorem SpokeBecomes.dieCounters (d : Nat) : u.dieCounters d = s.dieCounters d := (congrArg (fun x : State => x.dieCounters d) h.frame :)
theorem SpokeBecomes.counterValue (d id : Nat) : u.counterValue d id = s.counterValue d id :=
  (congrArg (fun x : State => x.counterValue d id) h.frame :)
theorem SpokeBecomes.collPostCount (d : Nat) : u.collPostCount d = s.collPostCount d :=
  (congrArg (fun x : State => x.collPostCount d) h.frame :)
theorem SpokeBecomes.passWord : u.passWord = s.passWord := passWord_congr h.mem (congrArg State.beatMem h.frame :)

end

/-! ### A unit besides the spoke -/

section
variable {s u : State} {p : SpokeId} {a : SpokeState} (h : SpokeBecomes s u p a)
include h

theorem SpokeBecomes.onlySpoke {t : State} (hspokes : ∀ q, q ≠ p.val → t.spoke q = u.spoke q) (hdies : t.dieMem = u.dieMem)
    (hstacks : t.memStacks = u.memStacks) : OnlySpoke s t p :=
  ⟨fun q hq => (hspokes q hq).trans (h.others.1 q hq), fun hu => ⟨hdies.trans (h.others.2 hu).1, hstacks.trans (h.others.2 hu).2⟩⟩

theorem SpokeBecomes.setArray (g : Nat) (x : ArrayState) : (u.setArray g x).spoke p = a ∧ (∀ m, m ≠ g → (u.setArray g x).array m = s.array m) ∧
    OnlySpoke s (u.setArray g x) p ∧ { (u.setArray g x).countsOf s with spokes := s.spokes, arrays := s.arrays } = s :=
  ⟨h.spoke, fun m hm => (setArray_array u g x m).trans ((if_neg hm).trans (h.array m)), h.onlySpoke (fun _ _ => rfl) rfl rfl,
    (congrArg (fun x : State => { x with arrays := s.arrays }) h.frame :)⟩

theorem SpokeBecomes.setRouter (r : Nat) (x : RouterState) (b : SpokeState) :
    (∀ q, q ≠ r → ((u.setRouter r x).setSpoke p b).router q = s.router q) ∧ OnlySpoke s ((u.setRouter r x).setSpoke p b) p ∧
      { ((u.setRouter r x).setSpoke p b).countsOf s with spokes := s.spokes, routers := s.routers } = s :=
  ⟨fun q hq => (setRouter_router u r x q).trans ((if_neg hq).trans (h.router q)),
    h.onlySpoke (fun q hq => (setSpoke_spoke _ p b q).trans (if_neg hq)) rfl rfl,
    (congrArg (fun x : State => { x with routers := s.routers }) h.frame :)⟩

theorem SpokeBecomes.setBeat (b : BeatState) : (u.setBeat b).spoke p = a ∧ OnlySpoke s (u.setBeat b) p ∧
    { (u.setBeat b).countsOf s with spokes := s.spokes, beat := s.beat } = s :=
  ⟨h.spoke, h.onlySpoke (fun _ _ => rfl) rfl rfl, (congrArg (fun x : State => { x with beat := s.beat }) h.frame :)⟩

theorem SpokeBecomes.setChannel (c : Nat) (x : ChannelState) : (u.setChannel c x).spoke p = a ∧
    (∀ j, j ≠ c → (u.setChannel c x).channel j = s.channel j) ∧ OnlySpoke s (u.setChannel c x) p ∧
    { (u.setChannel c x).countsOf s with spokes := s.spokes, channels := s.channels } = s :=
  ⟨h.spoke, fun j hj => (setChannel_channel u c x j).trans ((if_neg hj).trans (h.channel j)), h.onlySpoke (fun _ _ => rfl) rfl rfl,
    (congrArg (fun x : State => { x with channels := s.channels }) h.frame :)⟩

end

/-! ### x registers -/

theorem setX_xr (a : SpokeState) (rd : Nat) (v : Word32) (at_ n : Nat) : (a.setX rd v at_).xr n = if n = rd ∧ rd ≠ 0 then v else a.xr n := by
  by_cases hrd : rd = 0
  · subst hrd
    simp [setX_x0]
  · rw [setX_of_ne a v at_ hrd]
    by_cases hn : n = 0
    · subst hn
      rw [if_neg fun hcond => hrd hcond.1.symm]
      rfl
    · simp [SpokeState.xr, hn, hrd, get_set]

/-- A write of an x register changes nothing besides it, its beat and the loads in flight to it. -/
theorem setX_others (a : SpokeState) (rd : Nat) (v : Word32) (at_ : Nat) :
    { a.setX rd v at_ with x := [], ready := [], loads := [] } = { a with x := [], ready := [], loads := [] } := by
  unfold SpokeState.setX
  split <;> rfl

end Sys2Proof.Proofs
end

section
/-! Rules for O46: the runs of a spoke (R186-R190, R201). -/

namespace Sys2Proof.Proofs

open Sys2Proof Sys2Proof.Machine Sys2Proof.Laws

theorem spokeBecomes_countFetch (s : State) (p : SpokeId) (a n : Nat) : SpokeBecomes s (s.countFetch a n) p (s.spoke p) where
  spoke := spoke_of_checksOnly (countFetch_checksOnly s a n) p
  others := ⟨fun q _ => spoke_of_checksOnly (countFetch_checksOnly s a n) q, fun h => by rw [countFetch_unmarked s a n h]; exact ⟨rfl, rfl⟩⟩
  frame := (congrArg (fun u : State => { u with spokes := s.spokes }) (countFetch_checksOnly s a n) :)

/-- The beat S of run `k` of task `i` (R186). -/
def runFirst (s : State) (p i k : Nat) : Nat := (s.taskEntry p i).start + k * (s.taskEntry p i).period

/-- The spoke in the first beat of a run. -/
def runStarted (s : State) (p i k : Nat) : SpokeState :=
  { ((s.spoke p).setX 1 (BitVec.ofNat 32 k) (runFirst s p i k)).setX 2 (BitVec.ofNat 32 i) (runFirst s p i k) with
    pc := BitVec.ofNat 32 (s.taskEntry p i).entry, mode := 1, run := k, task := i, runS := runFirst s p i k
    runE := runFirst s p i k + (s.taskEntry p i).budget, tend := false, until_ := none, nextIssue := runFirst s p i k
    nextRun := s.runAfter p i k }

theorem runStarted_xr (s : State) (p i k n : Nat) : (runStarted s p i k).xr n =
    if n = 2 then BitVec.ofNat 32 i else if n = 1 then BitVec.ofNat 32 k else (s.spoke p).xr n := by
  have h : (runStarted s p i k).xr n =
      (((s.spoke p).setX 1 (BitVec.ofNat 32 k) (runFirst s p i k)).setX 2 (BitVec.ofNat 32 i) (runFirst s p i k)).xr n := rfl
  rw [h, setX_xr, setX_xr]
  simp

/-- A run starts when its beat has come and the spoke has no other. -/
theorem execTaskRunStart_due {p : SpokeId} {s : State} {i k : Nat} (hnext : (s.spoke p).nextRun = some (i, k)) (hrun : s.runs = true)
    (hactive : (s.spoke p).active = true) (hmode : (s.spoke p).mode = 0 ∨ (s.spoke p).mode = 2) (hdue : runFirst s p i k ≤ s.pbeat) :
    Answers (.taskRunStart p) s fun t => SpokeBecomes s t p (runStarted s p i k) := by
  have hidle : ((s.spoke p).mode == 0 || (s.spoke p).mode == 2) = true := by simpa using hmode
  have hcond : (s.runs && (s.spoke p).active && ((s.spoke p).mode == 0 || (s.spoke p).mode == 2) && decide (runFirst s p i k ≤ s.pbeat)) = true := by
    rw [hrun, hactive, hidle, decide_eq_true hdue]
    rfl
  refine ⟨(s.countFetch (s.taskPlace p i) 32).setSpoke p (runStarted s p i k), ?_, (spokeBecomes_countFetch s p _ _).setSpoke _⟩
  change execTaskRunStart p s = _
  unfold execTaskRunStart
  dsimp only
  rw [hnext]
  exact if_pos hcond

/-- Only spoke `p` differs, and it has become `a`. -/
def SpokeAlone (s t : State) (p : SpokeId) (a : SpokeState) : Prop :=
  t.spoke p = a ∧ (∀ q, q ≠ p.val → t.spoke q = s.spoke q) ∧ { t with spokes := s.spokes } = s

theorem spokeAlone_setSpoke (s : State) (p : SpokeId) (a : SpokeState) : SpokeAlone s (s.setSpoke p a) p a :=
  ⟨setSpoke_spoke_same s p a, fun q hq => (setSpoke_spoke s p a q).trans (if_neg hq), rfl⟩

/-- The spoke when its run is complete: the run's beats are spent and those that are left are idle (R188, R201). -/
def runCompleted (s : State) (p : Nat) : SpokeState :=
  { s.spoke p with
    mode := if (s.spoke p).nextRun = none then 0 else 2, tend := false, ready := [], vready := []
    runBeats := (s.spoke p).runBeats + BitVec.ofNat 32 (s.pbeat + (if s.live then 1 else 0) - (s.spoke p).runS)
    idleBeats := (s.spoke p).idleBeats + BitVec.ofNat 32 ((s.spoke p).runE - 1 - s.pbeat) }

theorem execRunComplete_settled {p : SpokeId} {s : State} (hrun : s.runs = true) (hmode : (s.spoke p).mode = 1) (htend : (s.spoke p).tend = true)
    (hsettled : (s.spoke p).settled s.pbeat = true) (hbudget : s.pbeat < (s.spoke p).runE) :
    Answers (.runComplete p) s fun t => SpokeAlone s t p (runCompleted s p) := by
  have hcond : (s.runs && (s.spoke p).mode == 1 && (s.spoke p).tend && (s.spoke p).settled s.pbeat && decide (s.pbeat < (s.spoke p).runE)) = true := by
    rw [hrun, hmode, htend, hsettled, decide_eq_true hbudget]
    rfl
  have hspent : s.runSpent p true = s.pbeat + (if s.live then 1 else 0) - (s.spoke p).runS := by
    unfold State.runSpent
    dsimp only
    rw [if_pos hmode, Bool.true_and]
  refine ⟨s.setSpoke p (runCompleted s p), ?_, spokeAlone_setSpoke s p _⟩
  change execRunComplete p s = _
  unfold execRunComplete runCompleted
  dsimp only
  rw [if_pos hcond, hspent]
  cases (s.spoke p).nextRun <;> rfl

theorem execBudgetOverrun_late {p : SpokeId} {s : State} (hrun : s.runs = true) (hmode : (s.spoke p).mode = 1)
    (hlate : (s.spoke p).runE ≤ s.pbeat) : Answers (.budgetOverrun p) s fun t => SpokeFaulted s t p 0x04 := by
  refine ⟨s.spokeFault 0x04 p, ?_, spokeFault_faulted s p _ _ _⟩
  change execBudgetOverrun p s = _
  unfold execBudgetOverrun
  simp only [hrun, hmode, hlate, decide_true, beq_self_eq_true, Bool.and_self, if_true]

theorem execUntilRelease_due {p : SpokeId} {s : State} {b : Nat} (huntil : (s.spoke p).until_ = some b) (hrun : s.runs = true) (hdue : b ≤ s.pbeat) :
    Answers (.untilRelease p) s fun t => SpokeAlone s t p { s.spoke p with until_ := none, nextIssue := s.pbeat } := by
  refine ⟨s.setSpoke p { s.spoke p with until_ := none, nextIssue := s.pbeat }, ?_, spokeAlone_setSpoke s p _⟩
  change execUntilRelease p s = _
  unfold execUntilRelease
  simp only [huntil, hrun, hdue, decide_true, Bool.and_self, if_true, Nat.max_eq_right]

/-- An `UNTIL` whose beat is to come holds issue until then; one whose beat has come faults its spoke (R190). -/
theorem execUntilTask_issues {p : SpokeId} {s : State} {w : Word32} (h : s.spokeAt p 0x3F 0x02 0x03E0FFC0 [fld w 20 16] w) :
    let b := (s.spoke p).runS + ((s.spoke p).xr (fld w 20 16)).toNat
    (s.pbeat < b → Answers (.untilTask p) s fun t => SpokeBecomes s t p { steppedSpoke s p with until_ := some b }) ∧
      (b ≤ s.pbeat → Answers (.untilTask p) s fun t => SpokeFaulted s t p 0x05) :=
  ⟨fun hahead => ⟨_, rfl, formX_becomes (srcs := fun w => [fld w 20 16]) h _ (if_neg (Nat.not_le.mpr hahead))⟩,
    fun hlate => ⟨_, rfl, formX_faulted (srcs := fun w => [fld w 20 16]) h _ (if_pos hlate)⟩⟩

end Sys2Proof.Proofs
end

section
/-! Rules for O46: control registers (R7, R49, R196, R200, Table 6.8). -/

namespace Sys2Proof.Proofs

open Sys2Proof Sys2Proof.Machine Sys2Proof.Laws

/-! ### Values -/

theorem staysGated_congr {s u : State} {g : Nat} (ha : u.array g = s.array g) (hw : u.passWord = s.passWord) : u.staysGated g = s.staysGated g := by
  unfold State.staysGated
  rw [ha]
  simp only [peekOpcode_congr hw]

section
variable {s u : State} {g : Nat} (ha : u.array g = s.array g) (hb : u.beat = s.beat) (hp : u.prog = s.prog) (hw : u.passWord = s.passWord)
include ha hb hp hw

theorem arrayPower_congr : u.arrayPower g = s.arrayPower g := by
  have hpb : u.pbeat = s.pbeat := by unfold State.pbeat; rw [hb, hp]
  unfold State.arrayPower
  rw [ha, hpb, staysGated_congr ha hw]

theorem freewheelBeats_congr : u.freewheelBeats g = s.freewheelBeats g := by
  have hpb : u.pbeat = s.pbeat := by unfold State.pbeat; rw [hb, hp]
  have hsched : u.sched = s.sched := by unfold State.sched; rw [hb]
  have hspan : u.gatedSpan g = s.gatedSpan g := by
    unfold State.gatedSpan
    rw [ha, hp, hpb, hsched, staysGated_congr ha hw]
  have hvoid : u.voidSpan g = s.voidSpan g := by
    unfold State.voidSpan
    rw [ha, hp, hsched]
  unfold State.freewheelBeats State.voidBeats
  rw [hspan, hvoid, ha]

end

/-- The control registers do not tell where a spoke is, nor when it issues next. -/
theorem csrValue_stepped {s u : State} {p : SpokeId} (h : SpokeBecomes s u p (steppedSpoke s p)) (i : Nat) : u.csrValue p i = s.csrValue p i := by
  have hpower (g : Nat) : u.arrayStateReg g = s.arrayStateReg g := by
    unfold State.arrayStateReg
    rw [arrayPower_congr (h.array g) h.beat h.prog h.passWord, h.array]
  have hfree (g : Nat) : u.freewheelBeats g = s.freewheelBeats g := freewheelBeats_congr (h.array g) h.beat h.prog h.passWord
  have hlow (n : Nat) : u.xfLow p n = s.xfLow p n := by
    unfold State.xfLow
    rw [h.spoke, h.router, h.sched]
    rfl
  unfold State.csrValue
  simp only [hpower, hfree, hlow, h.spoke, h.array, h.prog, h.pbeat, h.ownPackage]
  rfl

/-- The control registers that stand for those of the arrays and of the router. -/
theorem csrValue_units (s : State) (p : Nat) {i : Nat} (hi : 9 ≤ i) : s.csrValue p i =
    (let g := 2048 * (p / 256) + 8 * (p % 256) + i % 8
     if i < 0x18 then s.arrayStateReg g else if i < 0x20 then (s.array g).flags.setWidth 32 else if i < 0x28 then (s.array g).gatedRowBeats
     else if i < 0x30 then s.freewheelBeats g else if i % 2 = 0 then s.xfLow p ((i - 0x40) / 2)
     else SMap.get 0 (s.spoke p).xfHiLatch ((i - 0x40) / 2)) := by
  obtain ⟨k, rfl⟩ := Nat.exists_eq_add_of_le' hi
  rfl

/-- `XF_n_LO`. -/
theorem csrValue_xfLow (s : State) (p n : Nat) : s.csrValue p (0x40 + 2 * n) = s.xfLow p n := by
  rw [csrValue_units s p (by omega)]
  dsimp only
  rw [if_neg (by omega), if_neg (by omega), if_neg (by omega), if_neg (by omega), if_pos (by omega), show (0x40 + 2 * n - 0x40) / 2 = n by omega]

/-- `XF_n_HI`. -/
theorem csrValue_xfHigh (s : State) (p n : Nat) : s.csrValue p (0x41 + 2 * n) = SMap.get 0 (s.spoke p).xfHiLatch n := by
  rw [csrValue_units s p (by omega)]
  dsimp only
  rw [if_neg (by omega), if_neg (by omega), if_neg (by omega), if_neg (by omega), if_neg (by omega), show (0x41 + 2 * n - 0x40) / 2 = n by omega]

theorem hi32_ofNat (n : Nat) : hi32 (BitVec.ofNat 64 n) = BitVec.ofNat 32 (n / 2 ^ 32) := by
  apply BitVec.eq_of_toNat_eq
  simp only [hi32, BitVec.toNat_setWidth, BitVec.toNat_ushiftRight, BitVec.toNat_ofNat, Nat.shiftRight_eq_div_pow]
  omega

/-! ### Reads -/

/-- The spoke `a` after a read of control register `i` into x register `rd`: `hi` is the high half that the read latches (R196). -/
def csrRead (a : SpokeState) (rd i : Nat) (v : Word32) (at_ : Nat) (pbeatHi hi : Word32) : SpokeState :=
  let a1 := a.setX rd v at_
  if i = 2 then { a1 with pbeatHi := pbeatHi }
  else if 0x40 ≤ i ∧ i % 2 = 0 then { a1 with xfHiLatch := SMap.set 0 a1.xfHiLatch ((i - 0x40) / 2) hi }
  else a1

section
variable (a : SpokeState) (rd i : Nat) (v : Word32) (at_ : Nat) (pbeatHi hi : Word32)

theorem csrRead_others : { csrRead a rd i v at_ pbeatHi hi with x := [], ready := [], loads := [], pbeatHi := 0, xfHiLatch := [] } =
    { a with x := [], ready := [], loads := [], pbeatHi := 0, xfHiLatch := [] } := by
  have h := congrArg (fun b : SpokeState => { b with pbeatHi := 0, xfHiLatch := [] }) (setX_others a rd v at_)
  unfold csrRead
  dsimp only
  split
  · exact h
  · split <;> exact h

theorem csrRead_xr (n : Nat) : (csrRead a rd i v at_ pbeatHi hi).xr n = if n = rd ∧ n ≠ 0 then v else a.xr n := by
  have hx : (csrRead a rd i v at_ pbeatHi hi).xr n = (a.setX rd v at_).xr n := by
    unfold csrRead
    dsimp only
    split
    · rfl
    · split <;> rfl
  rw [hx, setX_xr]
  exact if_congr (and_congr_right fun h => by rw [h]) rfl rfl

theorem csrRead_pbeatHi : (csrRead a rd i v at_ pbeatHi hi).pbeatHi = if i = 2 then pbeatHi else a.pbeatHi := by
  have h : (a.setX rd v at_).pbeatHi = a.pbeatHi := (congrArg SpokeState.pbeatHi (setX_others a rd v at_) :)
  unfold csrRead
  dsimp only
  split
  · rfl
  · split <;> exact h

theorem csrRead_xfHiLatch (n : Nat) : SMap.get 0 (csrRead a rd i v at_ pbeatHi hi).xfHiLatch n =
    if i = 0x40 + 2 * n then hi else SMap.get 0 a.xfHiLatch n := by
  have h : (a.setX rd v at_).xfHiLatch = a.xfHiLatch := (congrArg SpokeState.xfHiLatch (setX_others a rd v at_) :)
  unfold csrRead
  dsimp only
  split
  case isTrue hi2 => rw [if_neg (by omega), h]
  case isFalse =>
    split
    case isTrue hlow =>
      rw [h, get_set]
      exact if_congr (by omega) rfl rfl
    case isFalse hnot => rw [if_neg (by omega), h]

end

/-- A `CSRR` of a register that exists reads it. -/
theorem execCsrr_reads {p : SpokeId} {s : State} {w : Word32} (h : s.spokeAt p 0x3F 0x03 0x001F0000 [] w) (hknown : csrKnown (fld w 15 6) = true) :
    Answers (.csrr p) s fun t => ∃ hi, (∀ n, fld w 15 6 = 0x40 + 2 * n → hi = hi32 ((s.router p).xferNow n s.sched)) ∧
      SpokeBecomes s t p (csrRead (steppedSpoke s p) (fld w 25 21) (fld w 15 6) (s.csrValue p (fld w 15 6)) (s.pbeat + 2)
        (BitVec.ofNat 32 (s.pbeat / 2 ^ 32)) hi) := by
  have hu := issuedAt_becomes s p
  refine ⟨_, congrArg ok (formX_takesEffect (srcs := fun _ => []) h _ (if_neg (by simp [imm10, hknown]))),
    hi32 ((s.router p).xferNow ((fld w 15 6 - 0x40) / 2) s.sched), fun n hn => ?_, ?_⟩
  · rw [hn, show (0x40 + 2 * n - 0x40) / 2 = n by omega]
  · have hset := hu.setSpoke (csrRead (steppedSpoke s p) (fld w 25 21) (fld w 15 6) (s.csrValue p (fld w 15 6)) (s.pbeat + 2)
      (BitVec.ofNat 32 (s.pbeat / 2 ^ 32)) (hi32 ((s.router p).xferNow ((fld w 15 6 - 0x40) / 2) s.sched)))
    dsimp only
    rw [hu.spoke, hu.pbeat, hu.sched, hu.router, show imm10 w = fld w 15 6 from rfl, csrValue_stepped hu, hi32_ofNat]
    exact hset

theorem execCsrr_unknown {p : SpokeId} {s : State} {w : Word32} (h : s.spokeAt p 0x3F 0x03 0x001F0000 [] w) (hunknown : csrKnown (fld w 15 6) = false) :
    Answers (.csrr p) s fun t => SpokeFaulted s t p 0x17 :=
  ⟨_, rfl, formX_faulted (srcs := fun _ => []) h _ (if_pos (by simp [imm10, hunknown]))⟩

/-! ### Writes -/

section
variable {p : SpokeId} {s : State} {w : Word32} (h : s.spokeAt p 0x3F 0x04 0x03E00000 [fld w 20 16] w)
include h

theorem execCsrw_readOnly (hro : csrWritable (fld w 15 6) = false) : Answers (.csrw p) s fun t => SpokeFaulted s t p 0x17 :=
  ⟨_, rfl, formX_faulted (srcs := fun w => [fld w 20 16]) h _ (if_pos (by simp [imm10, hro]))⟩

omit h in
/-- A write of a register that may be written, with no reserved bit, passes the check of a `CSRW`. -/
theorem csrw_permitted (hwritable : csrWritable (imm10 w) = true)
    (hres : 0x40 ≤ imm10 w → xferReserved (imm10 w) ((s.spoke p).xr (fld w 20 16)) = false) :
    ¬(!csrWritable (imm10 w) || (decide (0x40 ≤ imm10 w) && xferReserved (imm10 w) ((s.spoke p).xr (fld w 20 16)))) = true := by
  rw [hwritable]
  simpa using hres

/-- A write of `SP_FFLAGS` clears the flags where the value has ones (R200). -/
theorem execCsrw_fflags (hi : fld w 15 6 = 7) : Answers (.csrw p) s fun t => SpokeBecomes s t p
    { steppedSpoke s p with fflags := (s.spoke p).fflags &&& ~~~(((s.spoke p).xr (fld w 20 16)).setWidth 5) } := by
  have hu := issuedAt_becomes s p
  have hi : imm10 w = 7 := hi
  refine ⟨_, congrArg ok (formX_takesEffect (srcs := fun w => [fld w 20 16]) h _
    (if_neg (csrw_permitted (by rw [hi]; rfl) fun hxf => absurd hxf (by omega)))), ?_⟩
  dsimp only
  rw [if_pos hi, hu.spoke]
  exact hu.setSpoke _

/-- A write of `ARRAY_FLAGS` clears flags of the array (R200). -/
theorem execCsrw_arrayFlags (hfirst : 0x18 ≤ fld w 15 6) (hlast : fld w 15 6 ≤ 0x1F) : Answers (.csrw p) s fun t =>
    let g := 2048 * (p.val / 256) + 8 * (p.val % 256) + fld w 15 6 % 8
    ∃ u, SpokeBecomes s u p (steppedSpoke s p) ∧
      t = u.setArray g ((s.array g).clearFlags s.sched (((s.spoke p).xr (fld w 20 16)).setWidth 6)) := by
  have hu := issuedAt_becomes s p
  have hfirst : 0x18 ≤ imm10 w := hfirst
  have hlast : imm10 w ≤ 0x1F := hlast
  have hgood := csrw_permitted (s := s) (p := p) (w := w) (by simp [csrWritable, hfirst, hlast]) fun hxf => absurd hxf (by omega)
  refine ⟨_, congrArg ok (formX_takesEffect (srcs := fun w => [fld w 20 16]) h _ (if_neg hgood)), _, hu, ?_⟩
  dsimp only
  rw [if_neg (by omega), if_pos (by omega), hu.spoke, hu.sched, hu.array]
  rfl

/-- A write of `XF_n_LO` is kept until the high half comes (R196). -/
theorem execCsrw_xfLow {n : Nat} (hi : fld w 15 6 = 0x40 + 2 * n) (hn : n < 16) (hres : fld ((s.spoke p).xr (fld w 20 16)) 13 0 = 0) :
    Answers (.csrw p) s fun t => SpokeBecomes s t p
      { steppedSpoke s p with xfLo := SMap.set 0 (s.spoke p).xfLo n ((s.spoke p).xr (fld w 20 16))
                              xfWaits := n :: (s.spoke p).xfWaits.filter (· != n) } := by
  have hu := issuedAt_becomes s p
  have hi : imm10 w = 0x40 + 2 * n := hi
  have hgood := csrw_permitted (s := s) (p := p) (w := w) (by rw [hi]; simp [csrWritable]; omega) fun _ => by rw [hi]; simp [xferReserved, hres]
  refine ⟨_, congrArg ok (formX_takesEffect (srcs := fun w => [fld w 20 16]) h _ (if_neg hgood)), ?_⟩
  dsimp only
  rw [if_neg (by omega), if_neg (by omega), if_pos (by omega), hu.spoke, show (imm10 w - 0x40) / 2 = n by omega]
  exact hu.setSpoke _

/-- A write of `XF_n_HI` stages both halves for the router (R196). -/
theorem execCsrw_xfHigh {n : Nat} (hi : fld w 15 6 = 0x41 + 2 * n) (hn : n < 16) (hres : fld ((s.spoke p).xr (fld w 20 16)) 31 30 = 0) :
    Answers (.csrw p) s fun t =>
      let v := (s.spoke p).xr (fld w 20 16)
      let x : Word64 := BitVec.ofNat 64 ((SMap.get 0 (s.spoke p).xfLo n).toNat + 2 ^ 32 * v.toNat)
      ∃ u, SpokeBecomes s u p (steppedSpoke s p) ∧
        t = (u.setRouter p { s.router p with
              staged := (n, s.sched, x) :: (s.router p).staged.filter fun y => !(y.1 == n && y.2.1 == s.sched) }).setSpoke p
            { steppedSpoke s p with xfWaits := (s.spoke p).xfWaits.filter (· != n), xfHiLatch := SMap.set 0 (s.spoke p).xfHiLatch n v } := by
  have hu := issuedAt_becomes s p
  have hi : imm10 w = 0x41 + 2 * n := hi
  have hgood := csrw_permitted (s := s) (p := p) (w := w) (by rw [hi]; simp [csrWritable]; omega) fun _ => by rw [hi]; simp [xferReserved, hres]
  refine ⟨_, congrArg ok (formX_takesEffect (srcs := fun w => [fld w 20 16]) h _ (if_neg hgood)), _, hu, ?_⟩
  dsimp only
  rw [if_neg (by omega), if_neg (by omega), if_neg (by omega), hu.spoke, hu.router, hu.sched, show (imm10 w - 0x40) / 2 = n by omega]
  rfl

end

/-- A flag that the array sets in the same beat stays (R200). -/
theorem clearFlags_bit (a : ArrayState) (now : Nat) (v : Word32) {j : Nat} (hj : j < 6) : bitOf (a.clearFlags now (v.setWidth 6)).flags j =
    (bitOf a.flags j && !(bitOf v j && !(a.flagsAt == now && bitOf a.flagsNew j))) := by
  have hkeep : (~~~(v.setWidth 6 : BitVec 6)).getLsbD j = !v.getLsbD j := by simp [hj]
  have hnew : (if a.flagsAt = now then a.flagsNew &&& a.flags else 0).getLsbD j =
      (a.flagsAt == now && (a.flagsNew.getLsbD j && a.flags.getLsbD j)) := by
    split <;> simp [*]
  unfold ArrayState.clearFlags bitOf
  simp only [BitVec.testBit_toNat, BitVec.getLsbD_or, BitVec.getLsbD_and, hkeep, hnew]
  cases a.flags.getLsbD j <;> cases v.getLsbD j <;> simp

/-- What is staged in a beat counts from the next (R196). -/
theorem xferNow_staged (r : RouterState) {n now b : Nat} (x : Word64) (l : List (Nat × Nat × Word64)) (h : now < b) :
    ({ r with staged := (n, now, x) :: l } : RouterState).xferNow n b = x := by
  unfold RouterState.xferNow
  rw [List.find?_cons_of_pos (by simp [h])]

/-! ### What the statement asks of reads and writes -/

/-- A read writes its x register, and latches the high half where it reads a low one (R49, R196). -/
theorem csrr_answers {p : SpokeId} {s : State} {w : Word32} (h : s.spokeAt p 0x3F 0x03 0x001F0000 [] w) (hknown : csrKnown (fld w 15 6) = true) :
    Answers (.csrr p) s fun t => SpokeStepped s t p ∧
      (∀ n, (t.spoke p).xr n = if n = fld w 25 21 ∧ n ≠ 0 then s.csrValue p (fld w 15 6) else (s.spoke p).xr n) ∧
      (t.spoke p).pbeatHi = (if fld w 15 6 = 2 then BitVec.ofNat 32 (s.pbeat / 2 ^ 32) else (s.spoke p).pbeatHi) ∧
      (∀ n, SMap.get 0 (t.spoke p).xfHiLatch n =
        if fld w 15 6 = 0x40 + 2 * n then hi32 ((s.router p).xferNow n s.sched) else SMap.get 0 (s.spoke p).xfHiLatch n) ∧
      (t.spoke p).v = (s.spoke p).v ∧ (t.spoke p).p = (s.spoke p).p ∧ (t.spoke p).fflags = (s.spoke p).fflags := by
  obtain ⟨t, ht, hi, hlatched, hb⟩ := execCsrr_reads h hknown
  have hothers := csrRead_others (steppedSpoke s p) (fld w 25 21) (fld w 15 6) (s.csrValue p (fld w 15 6)) (s.pbeat + 2)
    (BitVec.ofNat 32 (s.pbeat / 2 ^ 32)) hi
  refine ⟨t, ht, hb.stepped (congrArg SpokeState.pc hothers :) (congrArg SpokeState.nextIssue hothers :), ?_⟩
  rw [hb.spoke]
  refine ⟨csrRead_xr _ _ _ _ _ _ _, csrRead_pbeatHi _ _ _ _ _ _ _, fun n => ?_, (congrArg SpokeState.v hothers :),
    (congrArg SpokeState.p hothers :), (congrArg SpokeState.fflags hothers :)⟩
  rw [csrRead_xfHiLatch]
  exact if_ctx_congr Iff.rfl (hlatched n) fun _ => rfl

section
variable {p : SpokeId} {s : State} {w : Word32} (h : s.spokeAt p 0x3F 0x04 0x03E00000 [fld w 20 16] w)
include h

/-- Flags of the array clear where the value has ones, but for those that the array sets in the beat (R200). -/
theorem csrw_arrayFlags_answers (hfirst : 0x18 ≤ fld w 15 6) (hlast : fld w 15 6 ≤ 0x1F) :
    let g := 2048 * (p.val / 256) + 8 * (p.val % 256) + fld w 15 6 % 8
    Answers (.csrw p) s fun t => t.spoke p = steppedSpoke s p ∧
      (∀ j < 6, bitOf (t.array g).flags j = (bitOf (s.array g).flags j &&
        !(bitOf ((s.spoke p).xr (fld w 20 16)) j && !((s.array g).flagsAt == s.sched && bitOf (s.array g).flagsNew j)))) ∧
      { t.array g with flags := 0 } = { s.array g with flags := 0 } ∧
      (∀ m, m ≠ g → t.array m = s.array m) ∧ OnlySpoke s t p ∧ { t.countsOf s with spokes := s.spokes, arrays := s.arrays } = s := by
  intro g
  obtain ⟨_, ht, u, hu, rfl⟩ := execCsrw_arrayFlags h hfirst hlast
  obtain ⟨hspoke, hothers, honly, hframe⟩ := hu.setArray g ((s.array g).clearFlags s.sched (((s.spoke p).xr (fld w 20 16)).setWidth 6))
  refine ⟨_, ht, hspoke, fun j hj => ?_, ?_, hothers, honly, hframe⟩
  · rw [setArray_array_same]
    exact clearFlags_bit _ _ _ hj
  · rw [setArray_array_same]
    rfl

/-- A low half reads as it was written until its high half comes (R7, R196). -/
theorem csrw_xfLow_answers {n : Nat} (hi : fld w 15 6 = 0x40 + 2 * n) (hn : n < 16) (hres : fld ((s.spoke p).xr (fld w 20 16)) 13 0 = 0) :
    Answers (.csrw p) s fun t => SpokeStepped s t p ∧ t.csrValue p (fld w 15 6) = (s.spoke p).xr (fld w 20 16) ∧
      (∀ j, j ≠ n → SMap.get 0 (t.spoke p).xfLo j = SMap.get 0 (s.spoke p).xfLo j) ∧
      { t.spoke p with xfLo := [], xfWaits := [] } = { steppedSpoke s p with xfLo := [], xfWaits := [] } ∧ t.routers = s.routers := by
  obtain ⟨t, ht, hb⟩ := execCsrw_xfLow h hi hn hres
  refine ⟨t, ht, hb.stepped rfl rfl, ?_, fun j hj => ?_, ?_, hb.routers⟩
  · rw [hi, csrValue_xfLow, State.xfLow, hb.spoke]
    simp
  · rw [hb.spoke]
    exact get_set_ne _ _ _ _ _ hj
  · rw [hb.spoke]

/-- Both halves of a transfer register take effect from the next beat (R196). -/
theorem csrw_xfHigh_answers {n : Nat} (hi : fld w 15 6 = 0x41 + 2 * n) (hn : n < 16) (hres : fld ((s.spoke p).xr (fld w 20 16)) 31 30 = 0) :
    let v := (s.spoke p).xr (fld w 20 16)
    let x := BitVec.ofNat 64 ((SMap.get 0 (s.spoke p).xfLo n).toNat + 2 ^ 32 * v.toNat)
    Answers (.csrw p) s fun t =>
      { t.spoke p with xfWaits := [], xfHiLatch := [] } = { steppedSpoke s p with xfWaits := [], xfHiLatch := [] } ∧
      t.csrValue p (fld w 15 6) = v ∧ (t.router p).staged.head? = some (n, s.sched, x) ∧
      (∀ b, s.sched < b → (t.router p).xferNow n b = x) ∧ { t.router p with staged := [] } = { s.router p with staged := [] } ∧
      (∀ q, q ≠ p.val → t.router q = s.router q) ∧ OnlySpoke s t p ∧ { t.countsOf s with spokes := s.spokes, routers := s.routers } = s := by
  intro v x
  obtain ⟨_, ht, u, hu, rfl⟩ := execCsrw_xfHigh h hi hn hres
  obtain ⟨hothers, honly, hframe⟩ := hu.setRouter p
    { s.router p with staged := (n, s.sched, x) :: (s.router p).staged.filter fun y => !(y.1 == n && y.2.1 == s.sched) }
    { steppedSpoke s p with xfWaits := (s.spoke p).xfWaits.filter (· != n), xfHiLatch := SMap.set 0 (s.spoke p).xfHiLatch n v }
  refine ⟨_, ht, ?_, ?_, ?_, fun b hb => ?_, ?_, hothers, honly, hframe⟩
  · rw [setSpoke_spoke_same]
  · rw [hi, csrValue_xfHigh, setSpoke_spoke_same]
    exact get_set_same _ _ _ _
  · rw [setSpoke_router, setRouter_router_same]
    rfl
  · rw [setSpoke_router, setRouter_router_same]
    exact xferNow_staged _ _ _ hb
  · rw [setSpoke_router, setRouter_router_same]

end

end Sys2Proof.Proofs
end

section
/-! Rules for O46: counters, route records and the queues of the chainline (R120, R122, R191-R195). -/

namespace Sys2Proof.Proofs

open Sys2Proof Sys2Proof.Machine Sys2Proof.Laws

/-! ### WAIT, SIGNAL and RDCNT -/

theorem steppedSpoke_xr (s : State) (p n : Nat) : (steppedSpoke s p).xr n = (s.spoke p).xr n := rfl

/-- The demand that a `WAIT` of a spoke raises. -/
def spokeWaitRaised (p : SpokeId) (s : State) (w : Word32) : WaitState :=
  { unit := .spoke p, die := ⟨p.val / 256, by omega⟩, counter := fld w 15 6, target := (s.spoke p).xr (fld w 25 21)
    heldLeft := ((s.spoke p).xr (fld w 20 16)).toNat, sampleWall := s.wall }

section
variable {p : SpokeId} {s : State} {w : Word32} (h : s.spokeAt p 0x3F 0x08 0 [fld w 25 21, fld w 20 16] w)
include h

theorem execSpokeWait_malformed (hbad : 0x180 ≤ imm10 w ∨ ((s.spoke p).xr (fld w 20 16)).toNat = 0) :
    Answers (.spokeWait p) s fun t => SpokeFaulted s t p 0x17 := by
  have hfield : (decide (0x180 ≤ imm10 w) || (s.spoke p).xr (fld w 20 16) == 0) = true := by
    rcases hbad with hid | hlimit
    · simp [hid]
    · simp [BitVec.eq_of_toNat_eq (y := 0#32) hlimit]
  refine ⟨_, rfl, formX_faulted (srcs := fun w => [fld w 25 21, fld w 20 16]) (code := 0x17) (ctr := 0) (val := 0) h _ ?_⟩
  simp only [firstFault, hfield, List.find?_cons_of_pos, Option.map_some, if_true]

variable (hlimit : ((s.spoke p).xr (fld w 20 16)).toNat ≠ 0)
include hlimit

omit h in
theorem spokeWait_wellFormed (hid : imm10 w < 0x180) : (decide (0x180 ≤ imm10 w) || (s.spoke p).xr (fld w 20 16) == 0) = false := by
  have hlimit0 : (s.spoke p).xr (fld w 20 16) ≠ 0#32 := fun h0 => hlimit (by rw [h0]; rfl)
  simp [hlimit0, hid]

/-- A signal counter that is short at its `WAIT` faults the spoke (R43). -/
theorem execSpokeWait_short (hid : imm10 w < 0x100)
    (hshort : atOrAbove (s.counterValue (p.val / 256) (imm10 w)) ((s.spoke p).xr (fld w 25 21)) = false) :
    Answers (.spokeWait p) s fun t => SpokeFaulted s t p 0x01 := by
  have hmiss : (decide (imm10 w < 0x100) && !atOrAbove (s.counterValue (p.val / 256) (imm10 w)) ((s.spoke p).xr (fld w 25 21))) = true := by
    simp [hid, hshort]
  refine ⟨_, rfl, formX_faulted (srcs := fun w => [fld w 25 21, fld w 20 16]) (code := 0x01) (ctr := imm10 w)
    (val := ((s.spoke p).xr (fld w 25 21)).toNat) h _ ?_⟩
  simp only [firstFault, spokeWait_wellFormed hlimit (by omega), hmiss, List.find?_cons, Option.map_some]
  rfl

/-- A `WAIT` that keeps its rules holds issue for 16 beats, and one that is short raises its demand (R39, R44). -/
theorem execSpokeWait_samples (hid : imm10 w < 0x180)
    (hsignal : imm10 w < 0x100 → atOrAbove (s.counterValue (p.val / 256) (imm10 w)) ((s.spoke p).xr (fld w 25 21)) = true)
    (habort : 0x120 ≤ imm10 w → imm10 w < 0x160 → s.abortCopyBit (p.val / 256) (imm10 w - 0x120) = false) :
    Answers (.spokeWait p) s fun t => ∃ u, SpokeBecomes s u p { s.spoke p with pc := (s.spoke p).pc + 4, nextIssue := s.pbeat + 16 } ∧
      t = if atOrAbove (s.counterValue (p.val / 256) (imm10 w)) ((s.spoke p).xr (fld w 25 21)) then u
        else u.setBeat { s.beat with waits := s.beat.waits ++ [spokeWaitRaised p s w] } := by
  have hu := issuedAt_becomes s p
  have hmet : (decide (imm10 w < 0x100) && !atOrAbove (s.counterValue (p.val / 256) (imm10 w)) ((s.spoke p).xr (fld w 25 21))) = false := by
    simpa using hsignal
  have hwhole : (decide (0x120 ≤ imm10 w) && decide (imm10 w < 0x160) && s.abortCopyBit (p.val / 256) (imm10 w - 0x120)) = false := by
    simpa using habort
  refine ⟨_, congrArg ok (formX_takesEffect (srcs := fun w => [fld w 25 21, fld w 20 16]) h _ ?_), _, hu.setSpoke _, ?_⟩
  · simp only [firstFault, spokeWait_wellFormed hlimit hid, hmet, hwhole, List.find?_cons, List.find?_nil, Option.map_none]
  · dsimp only
    rw [hu.counterValue, hu.spoke, hu.pbeat, hu.wall, setSpoke_beat, hu.beat, steppedSpoke_xr, steppedSpoke_xr]
    cases atOrAbove (s.counterValue (p.val / 256) (imm10 w)) ((s.spoke p).xr (fld w 25 21)) <;> rfl

end

section
variable {p : SpokeId} {s : State} {w : Word32} (h : s.spokeAt p 0x3F 0x09 0x001F0000 [fld w 25 21] w)
include h

/-- A `SIGNAL` steps its counter, for the end of the beat (R120, R192). -/
theorem execSpokeSignal_steps (hid : imm10 w < 0x100) (hpos : (s.spoke p).xr (fld w 25 21) ≠ 0)
    (hmax : ((s.spoke p).xr (fld w 25 21)).toNat ≤ 65535) :
    Answers (.spokeSignal p) s fun t =>
      ∃ u, SpokeBecomes s u p (steppedSpoke s p) ∧ t = u.stepSignal (p.val / 256) (imm10 w) ((s.spoke p).xr (fld w 25 21)).toNat := by
  have hu := issuedAt_becomes s p
  have hne : ((s.spoke p).xr (fld w 25 21)).toNat ≠ 0 := fun h0 => hpos (BitVec.eq_of_toNat_eq h0)
  refine ⟨_, congrArg ok (formX_takesEffect (srcs := fun w => [fld w 25 21]) h _ (if_neg (by omega))), _, hu, ?_⟩
  rw [hu.spoke, steppedSpoke_xr]

theorem execSpokeSignal_malformed
    (hbad : 0x100 ≤ imm10 w ∨ (s.spoke p).xr (fld w 25 21) = 0 ∨ 65535 < ((s.spoke p).xr (fld w 25 21)).toNat) :
    Answers (.spokeSignal p) s fun t => SpokeFaulted s t p 0x17 :=
  ⟨_, rfl, formX_faulted (srcs := fun w => [fld w 25 21]) h _ (if_pos (hbad.imp_right (Or.imp_left fun h0 => by rw [h0]; rfl)))⟩

end

/-- What a step of a signal counter leaves as it was: the values that are read, until the beat ends (R120). -/
theorem stepSignal_counterCopy (s : State) (d id step e k : Nat) : (s.stepSignal d id step).counterCopy e k = s.counterCopy e k := by
  have hrest := stepSignal_rest s d e id step
  unfold State.counterCopy
  rw [show ((s.stepSignal d id step).dieCounters e).signal = (s.dieCounters e).signal from (congrArg DieCounters.signal hrest :),
    show ((s.stepSignal d id step).dieCounters e).copies = (s.dieCounters e).copies from (congrArg DieCounters.copies hrest :)]

section
variable {p : SpokeId} {s : State} {w : Word32} (h : s.spokeAt p 0x3F 0x0A 0x001F0000 [] w)
include h

theorem execRdcnt_reads (hid : imm10 w < 0x100) : Answers (.rdcnt p) s fun t => SpokeBecomes s t p
    ((steppedSpoke s p).setX (fld w 25 21) (s.counterCopy (p.val / 256) (imm10 w)) (s.pbeat + 2)) := by
  have hu := issuedAt_becomes s p
  refine ⟨_, congrArg ok (formX_takesEffect (srcs := fun _ => []) h _ (if_neg (by simpa using hid))), ?_⟩
  rw [hu.spoke, hu.counterValue, hu.pbeat, show s.counterValue (p.val / 256) (imm10 w) = s.counterCopy (p.val / 256) (imm10 w) from if_pos hid]
  exact hu.setSpoke _

theorem execRdcnt_malformed (hid : 0x100 ≤ imm10 w) : Answers (.rdcnt p) s fun t => SpokeFaulted s t p 0x17 :=
  ⟨_, rfl, formX_faulted (srcs := fun _ => []) h _ (if_pos (by simpa using hid))⟩

end

/-! ### Route records (R152, R193) -/

/-- A route record lands in the first later beat whose number agrees with the spoke's modulo 8. -/
theorem landingBeat_place (p b : Nat) : b < landingBeat p b ∧ landingBeat p b ≤ b + 8 ∧ landingBeat p b % 8 = p % 8 := by
  unfold landingBeat
  omega

section
variable {p : SpokeId} {s : State} {w : Word32} (h : s.spokeAt p 0x3F 0x10 0x021FFFC0 [32 + fld w 24 21] w)
include h

theorem execRwr_writes (hrecord : (s.spoke p).record = none) (hlanded : ∀ b, (s.spoke p).landed = some b → b < s.pbeat) :
    Answers (.rwr p) s fun t => SpokeBecomes s t p
      { steppedSpoke s p with record := some (landingBeat p s.pbeat, (s.spoke p).vr (fld w 24 21)) } := by
  have hu := issuedAt_becomes s p
  have hset := hu.setSpoke { steppedSpoke s p with record := some (landingBeat p s.pbeat, (s.spoke p).vr (fld w 24 21)) }
  refine ⟨_, ?_, hset⟩
  change execRwr p s = _
  unfold execRwr
  dsimp only
  rw [hrecord, formX_takesEffect (srcs := fun w => [32 + fld w 24 21]) h _ rfl, hu.spoke, hu.pbeat]
  cases hland : (s.spoke p).landed with
  | none => rfl
  | some b => exact if_neg (by simp [hlanded b hland])

/-- While the last record is on its way the instruction stalls. -/
theorem execRwr_stalls (hrecord : (s.spoke p).record ≠ none) : exec (.rwr p) s = .next s := by
  have hop : spokeOp (s.spokeWord p) = some (0x3F, 0x10) := by
    obtain ⟨-, -, -, -, hword, hop, -⟩ := h
    rw [hword, hop]
  change execRwr p s = _
  unfold execRwr
  dsimp only
  rw [Option.isSome_iff_ne_none.mpr hrecord, hop]
  rfl

end

/-! ### Queues (R195, R217) -/

section
variable {p : SpokeId} {s : State} {w : Word32} (h : s.spokeAt p 0x3F 0x12 0x021FFFC0 [32 + fld w 24 21] w)
include h

theorem execQpush_pushes (hroom : (s.spoke p).outQ.length < 16) : Answers (.qpush p) s fun t => SpokeBecomes s t p
    { steppedSpoke s p with
      outQ := (s.spoke p).outQ ++ [({ data := (s.spoke p).vr (fld w 24 21), tag := 0, poison := 0 }, s.pbeat + 1)] } := by
  have hu := issuedAt_becomes s p
  refine ⟨_, congrArg ok (formX_takesEffect (srcs := fun w => [32 + fld w 24 21]) h _ (if_neg (Nat.not_le.mpr hroom))), ?_⟩
  rw [hu.spoke, hu.pbeat]
  exact hu.setSpoke _

theorem execQpush_full (hfull : 16 ≤ (s.spoke p).outQ.length) : Answers (.qpush p) s fun t => SpokeFaulted s t p 0x1A :=
  ⟨_, rfl, formX_faulted (srcs := fun w => [32 + fld w 24 21]) h _ (if_pos hfull)⟩

end

/-- The consumption of a poisoned word is a machine check, and leaves spokes and memory as they were (R217). -/
theorem poisonCheck_leaves (s : State) (unitKind d unit off : Nat) :
    (s.poisonCheck unitKind d unit off).spokes = s.spokes ∧ (s.poisonCheck unitKind d unit off).mem = s.mem := by
  obtain ⟨hl, al, hs, as, m, h⟩ := machineCheck_eq s 0x40 unitKind d unit (off / 8 * 8)
  unfold State.poisonCheck
  rw [h]
  exact ⟨rfl, rfl⟩

section
variable {p : SpokeId} {s : State} {w : Word32} (h : s.spokeAt p 0x3F 0x13 0x021FFFC0 [] w)
include h

/-- A `QPOP` takes the line at the head of the queue; a poisoned line is consumed (R195, R217). -/
theorem execQpop_pops {f : Flit} {b : Nat} {rest : List (Flit × Nat)} (hq : (s.spoke p).inQ = (f, b) :: rest) (hb : b ≤ s.pbeat) :
    Answers (.qpop p) s fun t => ∃ u,
      SpokeBecomes s u p { (steppedSpoke s p).setV (fld w 24 21) f.data 0xFFFF (s.pbeat + 2) with inQ := rest } ∧
      t = if f.poison = 0 then u else u.draw.2.poisonCheck 1 (p.val / 256) (p.val % 256) (u.draw.1.toNat % 2 ^ 48) := by
  have hu := issuedAt_becomes s p
  refine ⟨_, congrArg ok (formX_takesEffect (srcs := fun _ => []) h _ ?_), _, hu.setSpoke _, ?_⟩
  · rw [hq]
    exact if_pos hb
  · dsimp only
    rw [hu.spoke, show (steppedSpoke s p).inQ = (f, b) :: rest from hq, hu.pbeat]

theorem execQpop_empty (hq : (s.spoke p).inQ = []) : Answers (.qpop p) s fun t => SpokeFaulted s t p 0x19 := by
  refine ⟨_, rfl, formX_faulted (srcs := fun _ => []) (code := 0x19) (ctr := 0) (val := 0) h _ ?_⟩
  rw [hq]

end

/-! ### What the statement asks of waits, signals and pops -/

/-- A `WAIT` that keeps its rules leaves the beat as it is where its counter is reached, and adds its demand to it where not. -/
theorem spokeWait_answers {p : SpokeId} {s : State} {w : Word32} (h : s.spokeAt p 0x3F 0x08 0 [fld w 25 21, fld w 20 16] w) :
    let id := fld w 15 6
    let target := (s.spoke p).xr (fld w 25 21)
    let limit := ((s.spoke p).xr (fld w 20 16)).toNat
    let reached := atOrAbove (s.counterValue (p.val / 256) id) target
    id < 0x180 → limit ≠ 0 → (id < 0x100 → reached = true) →
    (0x120 ≤ id → id < 0x160 → s.abortCopyBit (p.val / 256) (id - 0x120) = false) → Answers (.spokeWait p) s fun t =>
      t.spoke p = { s.spoke p with pc := (s.spoke p).pc + 4, nextIssue := s.pbeat + 16 } ∧ (reached = true → t.beat = s.beat) ∧
      (reached = false → ∃ x : WaitState, t.beat = { s.beat with waits := s.beat.waits ++ [x] } ∧ x.unit = .spoke p ∧
        x.die.val = p.val / 256 ∧ x.counter = id ∧ x.target = target ∧ x.heldLeft = limit ∧ x.sampleWall = s.wall) ∧
      OnlySpoke s t p ∧ { t.countsOf s with spokes := s.spokes, beat := s.beat } = s := by
  intro id target limit reached hid hlimit hsignal habort
  obtain ⟨_, ht, u, hu, rfl⟩ := execSpokeWait_samples h hlimit hid hsignal habort
  cases hreached : reached with
  | true =>
    exact ⟨u, ht.trans (congrArg Host.Outcome.next (if_pos hreached)), hu.spoke, fun _ => hu.beat, fun hshort => absurd hshort (by decide), hu.others,
      (congrArg (fun x : State => { x with beat := s.beat }) hu.frame :)⟩
  | false =>
    obtain ⟨hspoke, honly, hframe⟩ := hu.setBeat { s.beat with waits := s.beat.waits ++ [spokeWaitRaised p s w] }
    exact ⟨_, ht.trans (congrArg Host.Outcome.next (if_neg (ne_true_of_eq_false hreached))), hspoke, fun hmet => absurd hmet (by decide),
      fun _ => ⟨spokeWaitRaised p s w, rfl, rfl, rfl, rfl, rfl, rfl, rfl⟩, honly, hframe⟩

/-- A `SIGNAL` adds to the steps of its counter in this beat, and to nothing else. -/
theorem spokeSignal_answers {p : SpokeId} {s : State} {w : Word32} (h : s.spokeAt p 0x3F 0x09 0x001F0000 [fld w 25 21] w) :
    let v := (s.spoke p).xr (fld w 25 21)
    fld w 15 6 < 0x100 → v ≠ 0 → v.toNat ≤ 65535 → Answers (.spokeSignal p) s fun t =>
      t.spoke p = steppedSpoke s p ∧ (∀ d id, t.counterCopy d id = s.counterCopy d id) ∧
      (∀ d id, SMap.get 0 (t.dieCounters d).steps id = if d = p.val / 256 ∧ id = fld w 15 6
        then SMap.get 0 (s.dieCounters d).steps id + v else SMap.get 0 (s.dieCounters d).steps id) ∧
      OnlySpoke s t p ∧ { t.countsOf s with spokes := s.spokes, counters := s.counters } = s := by
  intro v hid hpos hmax
  obtain ⟨_, ht, u, hu, rfl⟩ := execSpokeSignal_steps h hid hpos hmax
  refine ⟨_, ht, hu.spoke, fun d id => ?_, fun d id => ?_, hu.onlySpoke (fun _ _ => rfl) rfl rfl, ?_⟩
  · rw [stepSignal_counterCopy]
    exact (congrArg (fun x : State => x.counterCopy d id) hu.frame :)
  · rw [stepSignal_steps, hu.dieCounters, BitVec.ofNat_toNat, BitVec.setWidth_eq]
    rfl
  · exact (congrArg (fun x : State => { x with counters := s.counters }) hu.frame :)

/-- A `QPOP` gives its register the line, and a poisoned line raises a machine check. -/
theorem qpop_answers {p : SpokeId} {s : State} {w : Word32} (h : s.spokeAt p 0x3F 0x13 0x021FFFC0 [] w) {f : Flit} {b : Nat}
    {rest : List (Flit × Nat)} (hq : (s.spoke p).inQ = (f, b) :: rest) (hb : b ≤ s.pbeat) : Answers (.qpop p) s fun t =>
      (t.spoke p).vr (fld w 24 21) = f.data ∧ (∀ n, n ≠ fld w 24 21 → (t.spoke p).vr n = (s.spoke p).vr n) ∧
      (t.spoke p).inQ = rest ∧ (t.spoke p).outQ = (s.spoke p).outQ ∧ (t.spoke p).pc = (s.spoke p).pc + 4 ∧
      (f.poison = 0 → SpokeStepped s t p) ∧ (f.poison ≠ 0 → t.beat.faultHold = true ∧ t.beat.machineCheck = true) ∧
      (∀ q, q ≠ p.val → t.spoke q = s.spoke q) ∧ t.mem = s.mem := by
  obtain ⟨t, ht, u, hu, htu⟩ := execQpop_pops h hq hb
  obtain ⟨hspokes, hmem⟩ := poisonCheck_leaves u.draw.2 1 (p.val / 256) (p.val % 256) (u.draw.1.toNat % 2 ^ 48)
  have hsame : t.spokes = u.spokes ∧ t.mem = u.mem := by
    rw [htu]
    split
    · exact ⟨rfl, rfl⟩
    · exact ⟨hspokes, hmem⟩
  have hspoke (q : Nat) : t.spoke q = u.spoke q := by unfold State.spoke; rw [hsame.1]
  refine ⟨t, ht, ?_⟩
  dsimp only
  rw [hspoke, hu.spoke]
  refine ⟨get_set_same _ _ _ _, fun n hn => get_set_ne _ _ _ _ _ hn, rfl, rfl, rfl, fun hclean => ?_, fun hpoison => ?_,
    fun q hq => (hspoke q).trans (hu.others.1 q hq), hsame.2.trans hu.mem⟩
  · rw [htu, if_pos hclean]
    exact hu.stepped rfl rfl
  · rw [htu, if_neg hpoison]
    obtain ⟨hhold, hcheck, -⟩ := machineCheck_recorded u.draw.2 0x40 1 (p.val / 256) (p.val % 256) (u.draw.1.toNat % 2 ^ 48 / 8 * 8)
    exact ⟨hhold, hcheck⟩

end Sys2Proof.Proofs
end

section
/-! Rules for O46: posts to copy channels and to collective engines (R197-R199). -/

namespace Sys2Proof.Proofs

open Sys2Proof Sys2Proof.Machine Sys2Proof.Laws

/-! ### Posts of one beat stand in the order of their spokes (R199) -/

theorem head_dropWhile_false {α : Type} {f : α → Bool} {q : List α} {y : α} (h : (q.dropWhile f).head? = some y) : f y = false := by
  have hnot := List.head?_dropWhile_not f q
  rwa [h] at hnot

section
variable {α : Type} (key : α → Option (Nat × Nat)) (now p : Nat)

/-- A post stands before the posts of the same beat from spokes of higher numbers, and after everything else. -/
theorem insertPost_split (x : α) (q : List α) : ∃ before after, q = before ++ after ∧ insertPost key now p x q = before ++ x :: after ∧
    (∀ y ∈ before, ∀ r, key y = some (now, r) → r ≤ p) ∧ (∀ y, after.head? = some y → ∃ r, key y = some (now, r) ∧ p < r) := by
  refine ⟨_, _, List.takeWhile_append_dropWhile.symm, rfl, fun y hy r hkey => ?_, fun y hy => ?_⟩
  · have hnot := List.mem_takeWhile_imp hy
    simpa [hkey] using hnot
  · have hafter := head_dropWhile_false hy
    rcases hkey : key y with _ | ⟨b, r⟩
    · simp [hkey] at hafter
    · obtain ⟨rfl, hr⟩ : b = now ∧ p < r := by simpa [hkey] using hafter
      exact ⟨r, rfl, hr⟩

theorem insertPost_perm (x : α) (q : List α) : (insertPost key now p x q).Perm (x :: q) := by
  obtain ⟨before, after, rfl, hinsert, -⟩ := insertPost_split key now p x q
  rw [hinsert]
  exact List.perm_middle

/-- A full queue whose last post is not of this beat, or of a spoke of no higher number, gives up none. -/
theorem outPosted_none {q : List α} (h : ∀ y, q.getLast? = some y → ∀ r, key y = some (now, r) → r ≤ p) : outPosted key now p q = none := by
  unfold outPosted
  cases hlast : q.getLast? with
  | none => rfl
  | some y =>
    rw [Option.bind_some]
    rcases hkey : key y with _ | ⟨b, r⟩
    · rfl
    · refine if_neg ?_
      rintro ⟨rfl, hr⟩
      exact absurd (h y hlast r hkey) (by omega)

theorem outPosted_some {q : List α} {y : α} {r : Nat} (hlast : q.getLast? = some y) (hkey : key y = some (now, r)) (hr : p < r) :
    outPosted key now p q = some r := by
  unfold outPosted
  rw [hlast, Option.bind_some, hkey]
  exact if_pos ⟨rfl, hr⟩

end

/-- A fault of a spoke leaves the queues of the engines as they were. -/
theorem postQueues_of_reports {u t : State} (h : { OnlyReportsOf u t with spokes := u.spokes } = u) :
    t.channels = u.channels ∧ t.collPosts = u.collPosts := ⟨(congrArg State.channels h :), (congrArg State.collPosts h :)⟩

/-- The spoke of a post that a full queue gives up faults at its instruction (R199, R202). -/
theorem postFault_faulted {s u : State} {die r : Nat} (c : Nat) (hdie : die < 8) (hr : r < 256) (hbeat : u.beat = s.beat) :
    ((u.postFault (256 * die + r) c).spoke (256 * die + r)).mode = 3 ∧ FaultRecorded s (u.postFault (256 * die + r) c) 0x1B 1 die r ∧
      (u.postFault (256 * die + r) c).channels = u.channels ∧ (u.postFault (256 * die + r) c).collPosts = u.collPosts := by
  obtain ⟨q, hq⟩ : ∃ q : SpokeId, q.val = 256 * die + r := ⟨⟨256 * die + r, by omega⟩, rfl⟩
  obtain ⟨hrec, hmode, -, hframe⟩ := faultInstr_faulted u 0x1B q ((u.spoke q).pc - 4).toNat 0 c
  rw [show q.val / 256 = die by omega, show q.val % 256 = r by omega] at hrec
  rw [← hq]
  exact ⟨hmode, faultRecorded_congr hrec (by rw [hbeat]) (by rw [hbeat]) rfl rfl, postQueues_of_reports hframe⟩

/-! ### CEPOST -/

/-- The chain that a `CEPOST` of spoke `p` posts, under the budget of its channel (R197, R238). -/
def postedChain (s : State) (p : Nat) (w : Word32) (c : Nat) : Chain :=
  { first := BitVec.ofNat 64 (((s.spoke p).xr (fld w 25 21)).toNat + 2 ^ 32 * ((s.spoke p).xr (fld w 25 21 + 1)).toNat)
    budget := (s.channel c).claimBudget.toNat, owner := none, post := some (s.sched, p % 256) }

/-- The channel that a `CEPOST` names. -/
def postChannel (s : State) (p : Nat) (w : Word32) : Nat := 32 * (p / 256) + ((s.spoke p).xr (fld w 20 16)).toNat

theorem steppedSpoke_postChannel (s : State) (p : Nat) (w : Word32) :
    32 * (p / 256) + ((steppedSpoke s p).xr (fld w 20 16)).toNat = postChannel s p w := rfl

section
variable {p : SpokeId} {s : State} {w : Word32}
  (h : s.spokeAt p 0x3F 0x18 0x0000FFC0 [fld w 25 21, fld w 25 21 + 1, fld w 20 16] w)
include h

theorem execCepost_malformed
    (hbad : fld w 21 21 = 1 ∨ 32 ≤ ((s.spoke p).xr (fld w 20 16)).toNat ∨ (s.channel (postChannel s p w)).claimed = false) :
    Answers (.cepost p) s fun t => SpokeFaulted s t p 0x17 := by
  refine ⟨_, rfl, formX_faulted (srcs := fun w => [fld w 25 21, fld w 25 21 + 1, fld w 20 16]) h _ (if_pos ?_)⟩
  exact hbad.imp_right (Or.imp_right fun hfree => (Bool.not_eq_true' _).mpr hfree)

variable (heven : ¬fld w 21 21 = 1) (hchannel : ((s.spoke p).xr (fld w 20 16)).toNat < 32)
  (hclaimed : (s.channel (postChannel s p w)).claimed = true)
include heven hchannel hclaimed

omit h in
theorem cepost_wellFormed : ¬(fld w 21 21 = 1 ∨ 32 ≤ ((s.spoke p).xr (fld w 20 16)).toNat ∨ (!(s.channel (postChannel s p w)).claimed) = true) := by
  rw [hclaimed]
  simp [heven, hchannel]

theorem execCepost_full (hfull : 8 ≤ (s.channel (postChannel s p w)).queue.length)
    (hlast : ∀ y, (s.channel (postChannel s p w)).queue.getLast? = some y → ∀ r, y.post = some (s.sched, r) → r ≤ p.val % 256) :
    Answers (.cepost p) s fun t => SpokeFaulted s t p 0x1B := by
  refine ⟨_, rfl, formX_faulted (srcs := fun w => [fld w 25 21, fld w 25 21 + 1, fld w 20 16]) h _
    ((if_neg (cepost_wellFormed heven hchannel hclaimed)).trans (if_pos ⟨hfull, ?_⟩))⟩
  exact Option.isNone_iff_eq_none.mpr (outPosted_none Chain.post s.sched (p.val % 256) hlast)

/-- A full queue gives up its last post for one of the same beat and a lower spoke, whose spoke then faults (R199). -/
theorem execCepost_replaces {y : Chain} {r : Nat} (hfull : 8 ≤ (s.channel (postChannel s p w)).queue.length)
    (hlive : (s.channel (postChannel s p w)).state ≠ 2) (hlast : (s.channel (postChannel s p w)).queue.getLast? = some y)
    (hpost : y.post = some (s.sched, r)) (hr : p.val % 256 < r) : Answers (.cepost p) s fun t => ∃ u, SpokeBecomes s u p (steppedSpoke s p) ∧
      t = ((u.setChannel (postChannel s p w) { s.channel (postChannel s p w) with
            queue := insertPost Chain.post s.sched (p.val % 256) (postedChain s p w (postChannel s p w))
              (s.channel (postChannel s p w)).queue.dropLast }).postFault (256 * (p.val / 256) + r) (postChannel s p w % 32)) := by
  have hu := issuedAt_becomes s p
  have hout := outPosted_some Chain.post s.sched (p.val % 256) hlast hpost hr
  refine ⟨_, congrArg ok (formX_takesEffect (srcs := fun w => [fld w 25 21, fld w 25 21 + 1, fld w 20 16]) h _
    ((if_neg (cepost_wellFormed heven hchannel hclaimed)).trans (if_neg ?_))), _, hu, ?_⟩
  · rintro ⟨-, hnone⟩
    exact Option.some_ne_none r (hout.symm.trans (Option.isNone_iff_eq_none.mp hnone))
  · dsimp only
    rw [hu.spoke, steppedSpoke_postChannel, hu.channel, if_neg hlive, if_pos hfull, hu.sched, hout]
    rfl

/-- A queue with room takes the post at its place, but a halted channel discards it (R199, R249). -/
theorem execCepost_posts (hroom : (s.channel (postChannel s p w)).queue.length < 8) : Answers (.cepost p) s fun t =>
    ∃ u, SpokeBecomes s u p (steppedSpoke s p) ∧
      t = if (s.channel (postChannel s p w)).state = 2 then u
        else u.setChannel (postChannel s p w) { s.channel (postChannel s p w) with
          queue := insertPost Chain.post s.sched (p.val % 256) (postedChain s p w (postChannel s p w)) (s.channel (postChannel s p w)).queue } := by
  have hu := issuedAt_becomes s p
  refine ⟨_, congrArg ok (formX_takesEffect (srcs := fun w => [fld w 25 21, fld w 25 21 + 1, fld w 20 16]) h _
    ((if_neg (cepost_wellFormed heven hchannel hclaimed)).trans (if_neg ?_))), _, hu, ?_⟩
  · rintro ⟨hfull, -⟩
    exact absurd hroom (Nat.not_lt.mpr hfull)
  · dsimp only
    rw [hu.spoke, steppedSpoke_postChannel, hu.channel, hu.sched]
    refine if_congr Iff.rfl rfl ?_
    rw [if_neg (Nat.not_le.mpr hroom)]
    rfl

end

/-! ### CLPOST -/

/-- The beat and the spoke of a post to a collective engine. -/
def collPostKey (x : Nat × Nat × Nat) : Option (Nat × Nat) := some x.2

/-- The state in which the posts of a die are `q`. -/
def withCollPosts (u : State) (die : Nat) (q : List (Nat × Nat × Nat)) : State := { u with collPosts := SMap.set [] u.collPosts die q }

section
variable {p : SpokeId} {s : State} {w : Word32} (h : s.spokeAt p 0x3F 0x19 0x001FFFC0 [fld w 25 21] w)
include h

theorem execClpost_malformed (hbad : 4096 ≤ ((s.spoke p).xr (fld w 25 21)).toNat) :
    Answers (.clpost p) s fun t => SpokeFaulted s t p 0x17 :=
  ⟨_, rfl, formX_faulted (srcs := fun w => [fld w 25 21]) h _ (if_pos hbad)⟩

variable (hentry : ((s.spoke p).xr (fld w 25 21)).toNat < 4096)
include hentry

theorem execClpost_full (hfull : 16 ≤ s.collPostCount (p.val / 256))
    (hlast : ∀ y, (SMap.get [] s.collPosts (p.val / 256)).getLast? = some y → y.2.1 = s.sched → y.2.2 ≤ p.val % 256) :
    Answers (.clpost p) s fun t => SpokeFaulted s t p 0x1B := by
  have hout : outPosted collPostKey s.sched (p.val % 256) (SMap.get [] s.collPosts (p.val / 256)) = none :=
    outPosted_none collPostKey s.sched (p.val % 256) fun y hy r hkey => by
      obtain ⟨hsched, rfl⟩ := Prod.mk.inj (Option.some.inj hkey)
      exact hlast y hy hsched
  exact ⟨_, rfl, formX_faulted (srcs := fun w => [fld w 25 21]) h _
    ((if_neg (Nat.not_le.mpr hentry)).trans (if_pos ⟨hfull, Option.isNone_iff_eq_none.mpr hout⟩))⟩

/-- A full engine gives up the last post for one of the same beat and a lower spoke, whose spoke then faults (R199). -/
theorem execClpost_replaces {y : Nat × Nat × Nat} (hfull : 16 ≤ s.collPostCount (p.val / 256))
    (hlast : (SMap.get [] s.collPosts (p.val / 256)).getLast? = some y) (hsched : y.2.1 = s.sched) (hr : p.val % 256 < y.2.2) :
    Answers (.clpost p) s fun t => ∃ u, SpokeBecomes s u p (steppedSpoke s p) ∧
      t = (withCollPosts u (p.val / 256) (insertPost collPostKey s.sched (p.val % 256)
        (((s.spoke p).xr (fld w 25 21)).toNat, s.sched, p.val % 256) (SMap.get [] s.collPosts (p.val / 256)).dropLast)).postFault
          (256 * (p.val / 256) + y.2.2) 0 := by
  have hu := issuedAt_becomes s p
  have hout : outPosted collPostKey s.sched (p.val % 256) (SMap.get [] s.collPosts (p.val / 256)) = some y.2.2 :=
    outPosted_some collPostKey s.sched (p.val % 256) hlast (congrArg some (Prod.ext hsched rfl)) hr
  refine ⟨_, congrArg ok (formX_takesEffect (srcs := fun w => [fld w 25 21]) h _ ((if_neg (Nat.not_le.mpr hentry)).trans (if_neg ?_))), _, hu, ?_⟩
  · rintro ⟨-, hnone⟩
    exact Option.some_ne_none y.2.2 (hout.symm.trans (Option.isNone_iff_eq_none.mp hnone))
  · dsimp only
    rw [hu.collPosts, hu.collPostCount, if_pos hfull, hu.sched, hu.spoke]
    unfold collPostKey at hout
    rw [hout, withCollPosts, hu.collPosts]
    rfl

/-- An engine with room takes the post at its place (R199). -/
theorem execClpost_posts (hroom : s.collPostCount (p.val / 256) < 16) : Answers (.clpost p) s fun t =>
    ∃ u, SpokeBecomes s u p (steppedSpoke s p) ∧
      t = withCollPosts u (p.val / 256) (insertPost collPostKey s.sched (p.val % 256)
        (((s.spoke p).xr (fld w 25 21)).toNat, s.sched, p.val % 256) (SMap.get [] s.collPosts (p.val / 256))) := by
  have hu := issuedAt_becomes s p
  refine ⟨_, congrArg ok (formX_takesEffect (srcs := fun w => [fld w 25 21]) h _ ((if_neg (Nat.not_le.mpr hentry)).trans (if_neg ?_))), _, hu, ?_⟩
  · rintro ⟨hfull, -⟩
    exact absurd hroom (Nat.not_lt.mpr hfull)
  · dsimp only
    rw [hu.collPosts, hu.collPostCount, if_neg (Nat.not_le.mpr hroom), hu.sched, hu.spoke, withCollPosts, hu.collPosts]
    rfl

end

/-! ### What the statement asks of posts -/

section
variable {p : SpokeId} {s : State} {w : Word32}
  (h : s.spokeAt p 0x3F 0x18 0x0000FFC0 [fld w 25 21, fld w 25 21 + 1, fld w 20 16] w)
  (heven : ¬fld w 21 21 = 1) (hchannel : ((s.spoke p).xr (fld w 20 16)).toNat < 32)
  (hclaimed : (s.channel (postChannel s p w)).claimed = true)
include h heven hchannel hclaimed

theorem cepost_replaces_answers {y : Chain} {r : Nat} (hfull : 8 ≤ (s.channel (postChannel s p w)).queue.length)
    (hlive : (s.channel (postChannel s p w)).state ≠ 2) (hlast : (s.channel (postChannel s p w)).queue.getLast? = some y)
    (hpost : y.post = some (s.sched, r)) (hr : p.val % 256 < r) (hr256 : r < 256) : Answers (.cepost p) s fun t =>
      (t.spoke (256 * (p.val / 256) + r)).mode = 3 ∧ FaultRecorded s t 0x1B 1 (p.val / 256) r ∧
      (t.channel (postChannel s p w)).queue.Perm (postedChain s p w (postChannel s p w) :: (s.channel (postChannel s p w)).queue.dropLast) := by
  obtain ⟨_, ht, u, hu, rfl⟩ := execCepost_replaces h heven hchannel hclaimed hfull hlive hlast hpost hr
  obtain ⟨hmode, hrec, hchannels, -⟩ := postFault_faulted (u := u.setChannel (postChannel s p w) { s.channel (postChannel s p w) with
    queue := insertPost Chain.post s.sched (p.val % 256) (postedChain s p w (postChannel s p w)) (s.channel (postChannel s p w)).queue.dropLast })
    (postChannel s p w % 32) (by omega : p.val / 256 < 8) hr256 hu.beat
  refine ⟨_, ht, hmode, hrec, ?_⟩
  rw [State.channel, hchannels]
  exact (congrArg ChannelState.queue (setChannel_channel_same u _ _)).symm ▸ insertPost_perm _ _ _ _ _

theorem cepost_posts_answers (hroom : (s.channel (postChannel s p w)).queue.length < 8) :
    let c := postChannel s p w
    let q := (s.channel c).queue
    Answers (.cepost p) s fun t => ((s.channel c).state = 2 → t.channels = s.channels) ∧
      ((s.channel c).state ≠ 2 → ∃ before after, q = before ++ after ∧ (t.channel c).queue = before ++ postedChain s p w c :: after ∧
        (∀ y ∈ before, ∀ r, y.post = some (s.sched, r) → r ≤ p.val % 256) ∧
        (∀ y, after.head? = some y → ∃ r, y.post = some (s.sched, r) ∧ p.val % 256 < r) ∧ { t.channel c with queue := q } = s.channel c) ∧
      (∀ j, j ≠ c → t.channel j = s.channel j) ∧ t.spoke p = steppedSpoke s p ∧ OnlySpoke s t p ∧
      { t.countsOf s with spokes := s.spokes, channels := s.channels } = s := by
  intro c q
  obtain ⟨_, ht, u, hu, rfl⟩ := execCepost_posts h heven hchannel hclaimed hroom
  by_cases hhalted : (s.channel c).state = 2
  · refine ⟨u, ht.trans (congrArg Host.Outcome.next (if_pos hhalted)), fun _ => hu.channels, fun hlive => absurd hhalted hlive,
      fun j _ => hu.channel j, hu.spoke, hu.others, (congrArg (fun x : State => { x with channels := s.channels }) hu.frame :)⟩
  · obtain ⟨before, after, hsplit, hinsert, hbefore, hafter⟩ := insertPost_split Chain.post s.sched (p.val % 256) (postedChain s p w c) q
    obtain ⟨hspoke, hothers, honly, hframe⟩ := hu.setChannel c { s.channel c with
      queue := insertPost Chain.post s.sched (p.val % 256) (postedChain s p w c) q }
    refine ⟨_, ht.trans (congrArg Host.Outcome.next (if_neg hhalted)), fun hstate => absurd hstate hhalted,
      fun _ => ⟨before, after, hsplit, ?_, hbefore, hafter, ?_⟩, hothers, hspoke, honly, hframe⟩
    · rw [setChannel_channel_same]
      exact hinsert
    · rw [setChannel_channel_same]

end

section
variable {p : SpokeId} {s : State} {w : Word32} (h : s.spokeAt p 0x3F 0x19 0x001FFFC0 [fld w 25 21] w)
  (hentry : ((s.spoke p).xr (fld w 25 21)).toNat < 4096)
include h hentry

theorem clpost_replaces_answers {y : Nat × Nat × Nat} (hfull : 16 ≤ s.collPostCount (p.val / 256))
    (hlast : (SMap.get [] s.collPosts (p.val / 256)).getLast? = some y) (hsched : y.2.1 = s.sched) (hr : p.val % 256 < y.2.2)
    (hr256 : y.2.2 < 256) : Answers (.clpost p) s fun t =>
      (t.spoke (256 * (p.val / 256) + y.2.2)).mode = 3 ∧ FaultRecorded s t 0x1B 1 (p.val / 256) y.2.2 ∧
      (SMap.get [] t.collPosts (p.val / 256)).Perm
        ((((s.spoke p).xr (fld w 25 21)).toNat, s.sched, p.val % 256) :: (SMap.get [] s.collPosts (p.val / 256)).dropLast) := by
  obtain ⟨_, ht, u, hu, rfl⟩ := execClpost_replaces h hentry hfull hlast hsched hr
  obtain ⟨hmode, hrec, -, hposts⟩ := postFault_faulted (u := withCollPosts u (p.val / 256) (insertPost collPostKey s.sched (p.val % 256)
    (((s.spoke p).xr (fld w 25 21)).toNat, s.sched, p.val % 256) (SMap.get [] s.collPosts (p.val / 256)).dropLast))
    0 (by omega : p.val / 256 < 8) hr256 hu.beat
  refine ⟨_, ht, hmode, hrec, ?_⟩
  rw [hposts, withCollPosts, get_set_same]
  exact insertPost_perm _ _ _ _ _

theorem clpost_posts_answers (hroom : s.collPostCount (p.val / 256) < 16) :
    let d := p.val / 256
    let q := SMap.get [] s.collPosts d
    Answers (.clpost p) s fun t =>
      (∃ before after, q = before ++ after ∧
        SMap.get [] t.collPosts d = before ++ (((s.spoke p).xr (fld w 25 21)).toNat, s.sched, p.val % 256) :: after ∧
        (∀ y ∈ before, y.2.1 = s.sched → y.2.2 ≤ p.val % 256) ∧ (∀ y, after.head? = some y → y.2.1 = s.sched ∧ p.val % 256 < y.2.2)) ∧
      (∀ e, e ≠ d → SMap.get [] t.collPosts e = SMap.get [] s.collPosts e) ∧
      t.spoke p = steppedSpoke s p ∧ OnlySpoke s t p ∧ { t.countsOf s with spokes := s.spokes, collPosts := s.collPosts } = s := by
  intro d q
  obtain ⟨_, ht, u, hu, rfl⟩ := execClpost_posts h hentry hroom
  obtain ⟨before, after, hsplit, hinsert, hbefore, hafter⟩ := insertPost_split collPostKey s.sched (p.val % 256)
    (((s.spoke p).xr (fld w 25 21)).toNat, s.sched, p.val % 256) q
  refine ⟨_, ht, ⟨before, after, hsplit, (get_set_same _ _ _ _).trans hinsert, fun y hy hsched => ?_, fun y hy => ?_⟩, fun e he => ?_, hu.spoke,
    hu.onlySpoke (fun _ _ => rfl) rfl rfl, (congrArg (fun x : State => { x with collPosts := s.collPosts }) hu.frame :)⟩
  · exact hbefore y hy y.2.2 (congrArg some (Prod.ext hsched rfl))
  · obtain ⟨r, hkey, hr⟩ := hafter y hy
    obtain ⟨hsched, rfl⟩ := Prod.mk.inj (Option.some.inj hkey)
    exact ⟨hsched, hr⟩
  · rw [withCollPosts, get_set_ne _ _ _ _ _ he, hu.collPosts]

end

end Sys2Proof.Proofs
end

section
/-! O46. The runs of spokes, and their control instructions. -/

namespace Sys2Proof.Proofs

open Sys2Proof Sys2Proof.Machine Sys2Proof.Laws

/-- Settles O46: an instruction that keeps its rules has its effect on the state in which it has issued, another faults its spoke. -/
theorem runsAndControlInstructions : Obligations.RunsAndControlInstructions := by
  unfold Obligations.RunsAndControlInstructions
  refine ⟨fun p s i k hnext hrun hactive hmode hdue => ?start, fun p s hrun hmode htend hsettled hbudget => ?complete,
    fun p s hrun hmode hlate => execBudgetOverrun_late hrun hmode hlate, fun p s b huntil hrun hdue => execUntilRelease_due huntil hrun hdue,
    fun p s w h => ?nop, fun p s w h => ?tend, fun p s w h => ?untilTask, fun p s w h => ?csrr, fun p s w h => ?csrw, fun p s w h => ?wait,
    fun p s w h => ?signal, fun p s w h => ?rdcnt, fun p s w h => ?rwr, fun p s w h => ?qpush, fun p s w h => ?qpop, fun p s w h => ?cepost,
    fun p s w h => ?clpost⟩
  case start =>
    obtain ⟨t, ht, hb⟩ := execTaskRunStart_due hnext hrun hactive hmode hdue
    refine ⟨t, ht, ?_⟩
    dsimp only
    rw [hb.spoke]
    exact ⟨by simp [runStarted_xr], by simp [runStarted_xr], fun n h1 h2 => by simp [runStarted_xr, h1, h2], rfl, rfl, rfl, rfl, rfl, rfl, rfl,
      rfl, rfl, rfl, rfl, rfl, rfl, rfl, hb.others, hb.frame⟩
  case complete =>
    exact execRunComplete_settled hrun hmode htend hsettled hbudget
  case nop =>
    have hb := formX_becomes (srcs := fun _ => []) h (fun _ a _ => a) (check := noCheck) rfl
    exact ⟨_, rfl, hb.stepped rfl rfl, hb.spoke⟩
  case tend =>
    have hb := formX_becomes (srcs := fun _ => []) h (fun _ a _ => { a with tend := true }) (check := noCheck) rfl
    exact ⟨_, rfl, hb.stepped rfl rfl, hb.spoke⟩
  case untilTask =>
    obtain ⟨hahead, hlate⟩ := execUntilTask_issues h
    refine ⟨fun hb => ?_, hlate⟩
    obtain ⟨t, ht, hb⟩ := hahead hb
    exact ⟨t, ht, hb.stepped rfl rfl, hb.spoke⟩
  case csrr => exact ⟨csrr_answers h, execCsrr_unknown h⟩
  case csrw =>
    refine ⟨execCsrw_readOnly h, fun hi => ?_, csrw_arrayFlags_answers h, fun n => csrw_xfLow_answers h, fun n => csrw_xfHigh_answers h⟩
    obtain ⟨t, ht, hb⟩ := execCsrw_fflags h hi
    exact ⟨t, ht, hb.stepped rfl rfl, hb.spoke⟩
  case wait =>
    exact ⟨execSpokeWait_malformed h, fun hid hlimit hshort => execSpokeWait_short h hlimit hid hshort, spokeWait_answers h⟩
  case signal => exact ⟨spokeSignal_answers h, execSpokeSignal_malformed h⟩
  case rdcnt =>
    refine ⟨fun hid => ?_, execRdcnt_malformed h⟩
    obtain ⟨t, ht, hb⟩ := execRdcnt_reads h hid
    exact ⟨t, ht, hb.writesX⟩
  case rwr =>
    refine ⟨fun hrecord hlanded => ?_, execRwr_stalls h⟩
    obtain ⟨t, ht, hb⟩ := execRwr_writes h hrecord hlanded
    obtain ⟨hafter, hby, hmod⟩ := landingBeat_place p s.pbeat
    exact ⟨t, ht, hb.stepped rfl rfl, _, hafter, hby, hmod, hb.spoke⟩
  case qpush =>
    refine ⟨fun hroom => ?_, execQpush_full h⟩
    obtain ⟨t, ht, hb⟩ := execQpush_pushes h hroom
    exact ⟨t, ht, hb.stepped rfl rfl, hb.spoke⟩
  case qpop => exact ⟨fun f b rest => qpop_answers h, execQpop_empty h⟩
  case cepost =>
    refine ⟨execCepost_malformed h, fun heven hchannel hclaimed => ⟨execCepost_full h heven hchannel hclaimed, ?_,
      cepost_posts_answers h heven hchannel hclaimed⟩⟩
    exact fun hfull hlive y r => cepost_replaces_answers h heven hchannel hclaimed hfull hlive
  case clpost =>
    exact ⟨execClpost_malformed h, clpost_posts_answers h, execClpost_full h,
      fun hentry hfull y => clpost_replaces_answers h hentry hfull⟩

end Sys2Proof.Proofs
end
